-- ==== Sys2Proof/Word.lean ====
section
/-! DEFINITION. Words and the plainest containers of the model: the byte, the 64-bit word, saturating and
wrapping counters, and the sparse table in which every indexed unit (memory bytes, clusters, lines, ...) is kept. -/

namespace Sys2Proof

/-- One byte (R15: multi-byte fields are little-endian). -/
abbrev Byte := BitVec 8

/-- A register or an argument word (Notation: registers are 64 bits wide). -/
abbrev Word := BitVec 64

/-- A sparse table: key and value pairs with strictly rising keys, none of them holding the default value.
An unlisted key reads as the default, so equal tables are equal lists. -/
abbrev Tab (α : Type) := List (Nat × α)

/-- The value at a key, the default where the key is not listed. -/
def tabGet {α : Type} (d : α) : Tab α → Nat → α
  | [], _ => d
  | (k, v) :: t, n => if k = n then v else tabGet d t n

/-- List a value at a key, keeping keys strictly rising. -/
def tabInsert {α : Type} : Tab α → Nat → α → Tab α
  | [], n, v => [(n, v)]
  | (k, w) :: t, n, v =>
    if n < k then (n, v) :: (k, w) :: t
    else if n = k then (n, v) :: t
    else (k, w) :: tabInsert t n v

/-- Write a value at a key: the default is not listed. -/
def tabSet {α : Type} [DecidableEq α] (d : α) (t : Tab α) (n : Nat) (v : α) : Tab α :=
  if v = d then t.filter (fun p => p.1 != n) else tabInsert t n v

/-- The canonical form of a table: keys strictly rising, no value equal to the default. -/
def tabWf {α : Type} [DecidableEq α] (d : α) : Tab α → Bool
  | [] => true
  | (k, v) :: t => decide (v ≠ d) && t.all (fun p => decide (k < p.1)) && tabWf d t

/-- Add to a counter that saturates at all ones. -/
def satAdd {w : Nat} (x : BitVec w) (n : Nat) : BitVec w :=
  if x.toNat + n < 2 ^ w then BitVec.ofNat w (x.toNat + n) else BitVec.allOnes w

/-- Count one on a saturating counter. -/
def satInc {w : Nat} (x : BitVec w) : BitVec w := satAdd x 1

/-- One bit of a word as a Boolean. -/
def bitOf {w : Nat} (x : BitVec w) (i : Nat) : Bool := x.getLsbD i

/-- A Boolean as one bit. -/
def boolBit (b : Bool) : BitVec 1 := if b then 1#1 else 0#1

/-- The bits [lo + n - 1 : lo] of a word as a number. -/
def bitsNat {w : Nat} (x : BitVec w) (lo n : Nat) : Nat := (x.toNat / 2 ^ lo) % 2 ^ n

/-- Round up to a whole number of units. -/
def ceilDiv (a b : Nat) : Nat := (a + b - 1) / b

end Sys2Proof
end

