-- ==== Sys2Proof/Syntax.lean ====
section
/-! DEFINITION. The commands of the block: one constructor per row of the opcode table, with the operands that
what acts on the block from outside brings with it (a unit number, a value written, a packet, a sensor reading). -/

namespace Sys2Proof

/-- A caravan slot of a core of a cluster (R58). -/
structure CoreSlot where
  cluster : Nat
  core : Nat
  slot : Nat
deriving DecidableEq, Repr

/-- The fields of an instruction word (R84). cls and opc are the word's own CLS and OPC: those of the command's row, or a code the part
reserves, which raises ILLEGAL_INSN whichever row brings it (R85). -/
structure Insn where
  p : Bool
  i : Bool
  pn : Bool
  pred : BitVec 4
  md : BitVec 6
  dst : BitVec 8
  sa : BitVec 8
  sb : BitVec 8
  sc : BitVec 8
  sd : BitVec 8
  cls : BitVec 4 := 0#4
  opc : BitVec 7 := 0#7
deriving DecidableEq, Repr

/-- Who sends a request to a coherence home (R216, R218). -/
inductive Requester where
  | core (cluster core : Nat)
  | porter (n : Nat)
  | px (die : Nat)
  | innkeeper
  | network
  | sideband
deriving DecidableEq, Repr

/-- The atomic operations of R90. -/
inductive AtOp where
  | add | fadd32 | min | max | and | or | xor | xchg | cas
deriving DecidableEq, Repr

/-- One operand of an atomic request: the value given and, for CAS, the value to compare with (R90). -/
structure AtOperand where
  value : BitVec 64
  compare : BitVec 64
deriving DecidableEq, Repr

/-- What an Announce message says of a master, the parts that the best-master-clock algorithm compares (R415). -/
structure PtpMaster where
  priority1 : Nat
  clockClass : Nat
  accuracy : Nat
  variance : Nat
  priority2 : Nat
  identity : BitVec 64
  steps : Nat
deriving DecidableEq, Repr

/-- The PTP messages of a slave-only ordinary clock under the delay request-response profile (R414). -/
inductive PtpKind where
  | announce (m : PtpMaster)
  | sync (twoStep : Bool)
  | followUp
  | delayResp
  | management
  | other
deriving DecidableEq, Repr

/-- A PTP message as it arrives, and what the servo reports after it: the outcome of the servo, whose dynamics the spec does not give. -/
structure PtpUpdate where
  port : Nat
  domain : BitVec 8
  transport : BitVec 2
  kind : PtpKind
  locked : Bool
  errNs : Nat
  offsetNs : Int
  mpdNs : Nat
deriving DecidableEq, Repr

/-- The error a stored or moved 256-bit word has suffered: what is XORed into its data and its check bytes. -/
structure WordErr where
  data : BitVec 256
  chk : BitVec 32
deriving DecidableEq, Repr

/-- An error that strikes a word between its home and what a porter hands it to (R433, R435): the word of the chunk, what it does to the word,
and whether it strikes after the word has entered the transport check. -/
structure PathErr where
  word : Nat
  err : WordErr
  late : Bool
deriving DecidableEq, Repr

/-- What strikes a word on a link: its error as it arrives, and that of the word sent again, if it has to be (R241). -/
structure LinkErr where
  err : WordErr
  again : WordErr
deriving DecidableEq, Repr

/-- What goes wrong in a chunk: the two encoders of a FILL differ (R434), or an error strikes a word on its path (R433, R435). -/
structure ChunkErr where
  encoders : Bool
  path : Option PathErr
deriving DecidableEq, Repr

/-- A fault of a power domain, and the rail it comes from, if it is a rail's (R484). -/
structure DomFault where
  pwd : Nat
  rail : Option Nat
deriving DecidableEq, Repr

/-- The queue pair and the sequence number that a RoCEv2 packet names (R390). -/
structure QpPsn where
  qpn : BitVec 24
  psn : BitVec 24
deriving DecidableEq, Repr

/-- The IP and UDP headers of a packet (R380, R381, R390); an IPv4 address stands in its IPv4-mapped form. -/
structure IpHdr where
  v6 : Bool
  src : BitVec 128
  dst : BitVec 128
  dscp : BitVec 6
  ecn : BitVec 2
  sport : BitVec 16
  dport : BitVec 16
deriving DecidableEq, Repr

/-- A Relay packet as it arrives at a port (R381). -/
structure RelayPkt where
  port : Nat
  fcsOk : Bool
  crcOk : Bool
  ip : IpHdr
  conn : BitVec 32
  psn : BitVec 32
  last : Bool
  retx : Bool
  immValid : Bool
  imm : BitVec 32
  addr : BitVec 64
  ord : BitVec 16
  payload : List Byte
deriving DecidableEq, Repr

/-- The payload of a Relay ACK (R385). -/
structure AckBody where
  ceBytes : Nat
  sack : List (Nat × Nat)
deriving DecidableEq, Repr

/-- A Relay CTRL message as it arrives at a port (R405); the command says which kind it is. -/
structure CtrlMsg where
  port : Nat
  fcsOk : Bool
  crcOk : Bool
  ip : IpHdr
  conn : BitVec 32
  psn : BitVec 32
  imm : BitVec 32
  addr : BitVec 64
  payload : List Byte
deriving DecidableEq, Repr

/-- A RoCEv2 packet as it arrives at a port (R390, R391). first and last say what its opcode says: First, Middle, Last, Only. -/
structure RocePkt where
  port : Nat
  icrcOk : Bool
  ip : IpHdr
  first : Bool
  last : Bool
  qpn : BitVec 24
  psn : BitVec 24
  rkey : BitVec 32
  va : BitVec 64
  dmaLen : Nat
  imm : BitVec 32
  payload : List Byte
  ackReq : Bool
deriving DecidableEq, Repr

/-- A received RoCEv2 acknowledgement: positive, or a NAK with its code. -/
inductive RoceAck where
  | ack
  | nakSequence
  | nakRemote (code : Nat)
deriving DecidableEq, Repr

/-- A Pacel flit (R418); replay is a request for the flits from a sequence number on. -/
structure PacelFlit where
  crcOk : Bool
  replay : Option (BitVec 16)
  tag : BitVec 32
  ord : BitVec 16
  offset : BitVec 32
  len : BitVec 16
  credit : BitVec 16
  seq : BitVec 16
  payload : List Byte
deriving DecidableEq, Repr

/-- The atomic memory operations of the harts (R444): the A extension's, with Zacas and Zabha. -/
inductive AmoOp where
  | swap | add | and | or | xor | min | max | minu | maxu | cas
deriving DecidableEq, Repr

/-- The kinds of hart access that R445, R448, R454 and R461 tell apart. The mode of a CSR access is 3 for M, 1 for S, 0 for U. -/
inductive HartKind where
  | fetch
  | load
  | vectorLoad
  | store (value : BitVec 64)
  | vectorStore (data : BitVec 256)
  | amo (op : AmoOp) (value compare : BitVec 128)
  | lr
  | sc (value : BitVec 64)
  | cboZero
  | cboClean
  | cboFlush
  | cboInval
  | csrRead (csr : Nat) (mode : Nat)
  | csrWrite (csr : Nat) (mode : Nat) (value : BitVec 64)
deriving DecidableEq, Repr

/-- One access of a hart, after translation (R448): its virtual address and its physical one. -/
structure HartAccess where
  hart : Nat
  va : Nat
  kind : HartKind
  pa : Nat
  size : Nat
  nonCacheable : Bool
deriving DecidableEq, Repr

/-- The regulators' reports and junction readings of one 10 us interval (R479, R486). -/
structure Telemetry where
  vin : Option (Nat × Nat)
  rails : List (Option (Nat × Nat))
  tj : List Nat
deriving DecidableEq, Repr

/-- The readings a valve evaluation uses (R492, R494): coolant temperatures in units of 0.1 degree, the highest junction in degrees. -/
structure CoolReadings where
  tIn : Nat
  tOut : Nat
  flowMl : Nat
  tjAll : Nat
deriving DecidableEq, Repr

/-- The sensor that trips the critical trip (R490): a die's junction sensor, or the outlet sensor. -/
inductive TripSensor where
  | junction (die : Nat) (deciC : Option Nat)
  | outlet (deciC : Option Nat)
deriving DecidableEq, Repr

/-- The warnings of R494. -/
inductive Warning where
  | inletHigh | flowLow | coolantWarn
deriving DecidableEq, Repr

/-- A signature block (R503). -/
structure SigBlock where
  magic : BitVec 32
  alg : BitVec 16
  slot : Nat
  reservedZero : Bool
  digest : BitVec 256
  pubkey : List Byte
  sig : List Byte
deriving DecidableEq, Repr

/-- A debug token (R521). -/
structure DbgToken where
  bytes : List Byte
  block : SigBlock
deriving DecidableEq, Repr

/-- A fuse request (R557). -/
structure FuseReq where
  bytes : List Byte
  block : SigBlock
deriving DecidableEq, Repr

/-- What a RequestUpdate of PLDM firmware update names (R552). -/
structure UpdateReq where
  component : Nat
  size : Nat
deriving DecidableEq, Repr

/-- The kinds of request the endpoint does not support (R549, R517). -/
inductive Unsupported where
  | pldm (type command : Nat)
  | spdm (code : Nat)
deriving DecidableEq, Repr

/-- What reaches the MCTP endpoint and may be dropped (R547). -/
structure Arrival where
  length : Nat
deriving DecidableEq, Repr

/-- The commands and events of the block, one constructor per row of the opcode table. -/
inductive Instr where
  -- the Bell, the legs and time
  | bell
  | commitWindowOpen
  | watchdogFault (itin : Nat)
  | launch (itin entry : Nat)
  | move (itin entry : Nat)
  | send (itin entry : Nat)
  | recv (itin entry : Nat)
  | ptpMessage (u : PtpUpdate)
  | freerunTimeout
  | announceTimeout (port : Nat)
  | ppsEdge (offsetNs : Int)
  | stgCfgNextApply (value : Word)
  | stgEventsClr (value : Word)
  | offline (cluster : Nat) (value : Word)
  | registerWrite (addr : Nat) (value : Word)
  -- the instructions of the compute cores
  | intAdd (c : CoreSlot) (f : Insn)
  | intSub (c : CoreSlot) (f : Insn)
  | intMul (c : CoreSlot) (f : Insn)
  | intMulh (c : CoreSlot) (f : Insn)
  | intMad (c : CoreSlot) (f : Insn)
  | intAnd (c : CoreSlot) (f : Insn)
  | intOr (c : CoreSlot) (f : Insn)
  | intXor (c : CoreSlot) (f : Insn)
  | intShl (c : CoreSlot) (f : Insn)
  | intShr (c : CoreSlot) (f : Insn)
  | intSar (c : CoreSlot) (f : Insn)
  | intMin (c : CoreSlot) (f : Insn)
  | intMax (c : CoreSlot) (f : Insn)
  | sel (c : CoreSlot) (f : Insn)
  | cmp (c : CoreSlot) (f : Insn)
  | mov (c : CoreSlot) (f : Insn)
  | popc (c : CoreSlot) (f : Insn)
  | clz (c : CoreSlot) (f : Insn)
  | ld (c : CoreSlot) (f : Insn)
  | st (c : CoreSlot) (f : Insn)
  | dead (c : CoreSlot) (f : Insn)
  | atAdd (c : CoreSlot) (f : Insn)
  | fadd32 (c : CoreSlot) (f : Insn)
  | atMin (c : CoreSlot) (f : Insn)
  | atMax (c : CoreSlot) (f : Insn)
  | atAnd (c : CoreSlot) (f : Insn)
  | atOr (c : CoreSlot) (f : Insn)
  | atXor (c : CoreSlot) (f : Insn)
  | xchg (c : CoreSlot) (f : Insn)
  | cas (c : CoreSlot) (f : Insn)
  | cpyIn (c : CoreSlot) (f : Insn)
  | nop (c : CoreSlot) (f : Insn)
  | bra (c : CoreSlot) (f : Insn)
  | brx (c : CoreSlot) (f : Insn)
  | exit (c : CoreSlot) (f : Insn)
  | waitc (c : CoreSlot) (f : Insn)
  | arv (c : CoreSlot) (f : Insn)
  | trap (c : CoreSlot) (f : Insn)
  | shfl (c : CoreSlot) (f : Insn)
  | vote (c : CoreSlot) (f : Insn)
  | ballot (c : CoreSlot) (f : Insn)
  | mma (c : CoreSlot) (f : Insn)
  | mld (c : CoreSlot) (f : Insn)
  | mrd (c : CoreSlot) (f : Insn)
  | vop (c : CoreSlot) (f : Insn)
  -- what the units of a core do after an instruction has issued
  | splitTimeout (c : CoreSlot)
  | copyDelivery (cluster req sector : Nat)
  | l1MissFill (cluster core : Nat)
  | mxOpComplete (cluster core : Nat)
  | vopComplete (cluster core : Nat)
  -- the coherence homes
  | homeRead (r : Requester) (addr : Nat) (sectors : BitVec 4)
  | homeWrite (r : Requester) (addr : Nat) (enables : BitVec 32) (data : BitVec 256)
  | homeAtomic (r : Requester) (op : AtOp) (width64 : Bool) (addr : Nat) (operands : List AtOperand)
  | homeDeadHint (r : Requester) (addr : Nat)
  | evictionWriteback (home : Nat)
  | snoopAnswer (home line die : Nat)
  | coherenceTimeout (home line : Nat)
  | homeFlushDone (home : Nat)
  -- the memory controllers and the links
  | wcbWrite (addr : Nat) (enables : BitVec 32) (data : BitVec 256)
  | wcbIdleDrain (stack line : Nat)
  | memRead (addr : Nat) (err copyErr : WordErr) (ifFails : Nat)
  | phyRetrainDone (stack : Nat) (ok : Bool)
  | refresh (stack pc bank : Nat)
  | tempRead (stack : Nat) (tempC : BitVec 8)
  | patrolScrub (stack : Nat) (err copyErr : WordErr)
  | mirrorLineCopy (base : Nat)
  | sramScrub (word : Nat) (err : WordErr)
  | linkResend (link lane : Nat) (e : LinkErr)
  | linkTrainingFail (link : Nat)
  -- the Innkeeper and its pigeonholes
  | sealWrite (ph slot width : Nat) (value : Word)
  | accept (ph : Nat)
  | dispatch
  | agingPromotion (cmd : Nat)
  | completionRecord (cmd : Nat)
  | cqCtl (ph width : Nat) (value : Word)
  | lockstepMismatch
  | innkeeperRestartDone
  -- the commands of the command set, each on an entry of the command table
  | deviceIdent (cmd : Nat)
  | deviceCaps (cmd : Nat)
  | clusterOffline (cmd : Nat)
  | timeStatus (cmd : Nat)
  | stageConfig (cmd : Nat)
  | itineraryLoad (cmd : Nat)
  | itineraryEvict (cmd : Nat)
  | itineraryQuery (cmd : Nat)
  | stageBind (cmd : Nat)
  | stageUnbind (cmd : Nat)
  | jobPrepare (cmd : Nat)
  | jobConfirm (cmd : Nat)
  | jobStop (cmd : Nat)
  | jobAwait (cmd : Nat)
  | jobStatus (cmd : Nat)
  | regionMap (cmd : Nat)
  | regionUnmap (cmd : Nat)
  | regionSeal (cmd : Nat)
  | regionMirror (cmd : Nat)
  | regionPin (cmd : Nat)
  | regionUnpin (cmd : Nat)
  | regionQuery (cmd : Nat)
  | porterCopy (cmd : Nat)
  | porterFill (cmd : Nat)
  | porterPush (cmd : Nat)
  | porterPull (cmd : Nat)
  | guestOpen (cmd : Nat)
  | guestClose (cmd : Nat)
  | guestWindow (cmd : Nat)
  | powerCap (cmd : Nat)
  | coolantTarget (cmd : Nat)
  | energyRead (cmd : Nat)
  | ledgerRead (cmd : Nat)
  | faultRead (cmd : Nat)
  | fwStage (cmd : Nat)
  | fwCommit (cmd : Nat)
  | fwStatus (cmd : Nat)
  | attestQuote (cmd : Nat)
  -- the network engine
  | data (p : RelayPkt)
  | ack (p : RelayPkt) (a : AckBody)
  | nak (p : RelayPkt) (code : Nat)
  | read (p : RelayPkt) (target : Nat) (len : Nat)
  | readResp (p : RelayPkt)
  | hello (m : CtrlMsg)
  | prepare (m : CtrlMsg)
  | prepAck (m : CtrlMsg)
  | confirm (m : CtrlMsg)
  | abandon (m : CtrlMsg)
  | rollback (m : CtrlMsg)
  | rollbackAck (m : CtrlMsg)
  | restart (m : CtrlMsg)
  | rtoExpiry (conn psn : Nat)
  | ackTimer (conn : Nat)
  | ackWaitExpiry (job : BitVec 64)
  | rdmaWrite (p : RocePkt)
  | rdmaWriteWithImmediate (p : RocePkt)
  | rdmaReadRequest (p : RocePkt)
  | rdmaReadResponse (p : RocePkt)
  | acknowledgement (p : RocePkt) (a : RoceAck)
  | cnp (qpn : BitVec 24) (port : Nat)
  | localAckTimeout (guest : Nat)
  | rateIncrease (guest : Nat)
  | transportTimeout (guest : Nat)
  | portLinkDown (port : Nat)
  | portRetrainDone (port : Nat)
  | arp (port : Nat) (ip : BitVec 32)
  | neighborDiscovery (port : Nat) (ip : BitVec 128)
  | icmpEcho (port : Nat) (ip : BitVec 128) (payload : List Byte)
  | pfcFrame (port : Nat) (prio : Nat) (pause : Bool)
  | unusedFrame (port : Nat)
  | flit (f : PacelFlit)
  -- the porters
  | chunk (porter : Nat) (e : ChunkErr)
  | descriptorComplete (porter : Nat) (leg : Bool) (index : Nat)
  -- the processor complex
  | hartAccess (a : HartAccess)
  | mxctlRestart (hart : Nat)
  | mxfreqWrite (hart : Nat) (value : Word)
  | freqChangeDone (die : Nat)
  -- power, heat and coolant
  | throttleEvaluation (t : Telemetry)
  | telemLost
  | capUnmet
  | valveEvaluation (r : CoolReadings)
  | warningTimer (w : Warning)
  | criticalTrip (x : TripSensor)
  | platformEventRetry
  | powerDomainFault (f : DomFault)
  | clusterHalfPowerOff (half : Nat)
  | clusterHalfPowerOn (half : Nat)
  -- the module interface
  | pwrEnRise
  | pwrEnHoldoff
  | pwrGood
  | powerGoodTimeout
  | releaseInstant (slotId : Nat)
  | innkeeperReady
  | innkReadyTimeout
  | pwrEnFall
  | moduleReset (lowNs : Nat)
  | vinShutdown (vinMv durNs : Nat)
  | currentLimit (durNs : Nat)
  | refclkLoss (durNs : Nat)
  -- the management sideband
  | entdaa (addr : BitVec 7)
  | setdasa (static addr : BitVec 7)
  | setnewda (addr : BitVec 7)
  | rstdaa
  | enec
  | disec
  | getpid
  | getbcr
  | getdcr
  | getstatus
  | getmrl
  | getmwl
  | setmrl (n : Nat)
  | setmwl (n : Nat)
  | setEndpointId (eid : Byte)
  | getEndpointId
  | getEndpointUuid
  | getMctpVersionSupport
  | getMessageTypeSupport
  | messageDropped (a : Arrival)
  | getTid
  | setTid (tid : Byte)
  | getPldmTypes
  | getPldmCommands (type : Nat)
  | getPldmVersion (type : Nat)
  | setEventReceiver (eid : Byte)
  | getPdrRepositoryInfo
  | getPdr (record : Nat)
  | getSensorReading (sensor : Nat)
  | getStateSensorReadings (sensor : Nat)
  | queryDeviceIdentifiers
  | getFirmwareParameters
  | requestUpdate
  | passComponentTable (component : Nat)
  | updateComponent (u : UpdateReq)
  | firmwareData (offset : Nat) (bytes : List Byte)
  | transferComplete (ok : Bool)
  | verifyComplete
  | applyComplete
  | activateFirmware
  | pldmGetStatus
  | cancelUpdateComponent
  | cancelUpdate
  | updateModeTimeout
  | getVersion
  | getCapabilities
  | negotiateAlgorithms (baseAsym baseHash : Nat)
  | getDigests
  | getCertificate (slot offset length : Nat)
  | challenge (slot : Nat) (nonce : BitVec 256)
  | getMeasurements (index : Nat) (nonce : Option (BitVec 256))
  | regRead (addr : Nat)
  | sidebandFaultRead (seq count : Nat)
  | cfgSet (addr : Nat) (value : Word) (persist : Bool)
  | dbgUnlock (t : DbgToken)
  | dmi (target : Nat) (write : Bool) (addr data : BitVec 32)
  | clHalt (cluster : Nat) (halt : Bool)
  | dbgRead (space cluster addr len : Nat)
  | fuse (r : FuseReq)
  -- the rows at the end of the table
  | errBoundExceeded (bound : BitVec 16)
  | ppsFallingEdge (highNs : Nat)
  | l2HalfLoss (home : Nat)
  | platformEventAcknowledged
  | unsupportedRequest (u : Unsupported)
  | unsupportedOpcode (port : Nat) (src : BitVec 128) (q : QpPsn)
deriving DecidableEq, Repr

end Sys2Proof
end

