-- ==== Sys2Proof/Decode.lean ====
section
/-! DEFINITION. The opcode table gives no row any bits: a command is not spelled by a word. The 64-bit instruction words of the compute
cores, which the spec lays out in R84, are split here into the fields that the cores' commands carry. -/

namespace Sys2Proof

/-- The command that a word of the table's bits spells. No row of the table has bits, so no word spells a command. -/
def decodeTableWord (_nbits _w : Nat) : Option Instr := none

/-- The fields of an instruction word (R84). -/
def Insn.ofWord (w : BitVec 64) : Insn :=
  { cls := w.extractLsb' 60 4, opc := w.extractLsb' 53 7, p := w.getLsbD 52, i := w.getLsbD 51, pn := w.getLsbD 50
    pred := w.extractLsb' 46 4, md := w.extractLsb' 40 6, dst := w.extractLsb' 32 8, sa := w.extractLsb' 24 8
    sb := w.extractLsb' 16 8, sc := w.extractLsb' 8 8, sd := w.extractLsb' 0 8 }

/-- The instruction word of some fields (R84). -/
def Insn.toWord (f : Insn) : BitVec 64 :=
  f.cls ++ f.opc ++ BitVec.ofBool f.p ++ BitVec.ofBool f.i ++ BitVec.ofBool f.pn ++ f.pred ++ f.md ++ f.dst ++ f.sa ++ f.sb ++ f.sc ++ f.sd

/-- The operation codes of a class (R87 to R93, R112, R174): a class of 0x8 or more has none. -/
def opcodesOf (cls : Nat) : List Nat :=
  match cls with
  | 0 => [0x00, 0x01, 0x02, 0x03, 0x04, 0x08, 0x09, 0x0A, 0x0C, 0x0D, 0x0E, 0x10, 0x11, 0x12, 0x14, 0x18, 0x19, 0x1A]
  | 1 => [0x00, 0x01, 0x04]
  | 2 => List.range 9
  | 3 => [0x00]
  | 4 => [0x00, 0x01, 0x02, 0x04, 0x05, 0x06, 0x07]
  | 5 => List.range 3
  | 6 => List.range 3
  | 7 => [0x00]
  | _ => []

/-- The word has a reserved CLS or OPC (R85, R87, R113). -/
def Insn.reserved (f : Insn) : Bool := !(opcodesOf f.cls.toNat).contains f.opc.toNat

/-- The command that an instruction word stands for in a slot (R84, R87 to R93, R112, R174). A word with a reserved code stands for
nothing but its exception, and the command of any row brings it (log 74). -/
def commandOf (c : CoreSlot) (w : BitVec 64) : Instr :=
  let f := Insn.ofWord w
  match f.cls.toNat, f.opc.toNat with
  | 0, 0x00 => .intAdd c f | 0, 0x01 => .intSub c f | 0, 0x02 => .intMul c f | 0, 0x03 => .intMulh c f | 0, 0x04 => .intMad c f
  | 0, 0x08 => .intAnd c f | 0, 0x09 => .intOr c f | 0, 0x0A => .intXor c f
  | 0, 0x0C => .intShl c f | 0, 0x0D => .intShr c f | 0, 0x0E => .intSar c f
  | 0, 0x10 => .intMin c f | 0, 0x11 => .intMax c f | 0, 0x12 => .sel c f | 0, 0x14 => .cmp c f
  | 0, 0x18 => .mov c f | 0, 0x19 => .popc c f | 0, 0x1A => .clz c f
  | 1, 0x00 => .ld c f | 1, 0x01 => .st c f | 1, 0x04 => .dead c f
  | 2, 0x00 => .atAdd c f | 2, 0x01 => .fadd32 c f | 2, 0x02 => .atMin c f | 2, 0x03 => .atMax c f | 2, 0x04 => .atAnd c f
  | 2, 0x05 => .atOr c f | 2, 0x06 => .atXor c f | 2, 0x07 => .xchg c f | 2, 0x08 => .cas c f
  | 3, 0x00 => .cpyIn c f
  | 4, 0x00 => .nop c f | 4, 0x01 => .bra c f | 4, 0x02 => .brx c f | 4, 0x04 => .exit c f | 4, 0x05 => .waitc c f
  | 4, 0x06 => .arv c f | 4, 0x07 => .trap c f
  | 5, 0x00 => .shfl c f | 5, 0x01 => .vote c f | 5, 0x02 => .ballot c f
  | 6, 0x00 => .mma c f | 6, 0x01 => .mld c f | 6, 0x02 => .mrd c f
  | 7, 0x00 => .vop c f
  | _, _ => .nop c f

end Sys2Proof
end

