-- ==== Sys2Proof/Config.lean ====
section
/-! DEFINITION. What one unit of the part fixes and the spec leaves to it, and the free values: constants without a body,
so that nothing can be proved of the value they take. -/

namespace Sys2Proof.Config

/-- A free value: width and draw number (the state's free-value counter). Nothing constrains it. -/
opaque freeBits : (w : Nat) → Nat → BitVec w

/-- The device identifier of this unit (R4): fused, the spec gives no value. -/
opaque deviceId : BitVec 64

/-- The MAC address of a port (R422) and the IANA enterprise number of vendor messages (R554, R559): factory values. -/
opaque portMac : Nat → BitVec 48
opaque iana : BitVec 32

/-- The debug nonce after module reset (R523: random). -/
opaque resetNonce : BitVec 256

/-- The digests of the public keys fused at manufacture, by slot (R501), and of the firmware images put into bank A then, by component. -/
opaque madeKey : Nat → BitVec 256
opaque madeImage : Nat → BitVec 256

/-- The bytes of the firmware images of manufacture, by component, and the devicetree the Innkeeper forms (R457). -/
opaque madeImageBytes : Nat → List (BitVec 8)
opaque devicetree : Nat → List (BitVec 8)

/-- The endpoint's UUID (R547) and its device characteristics register (R545). -/
opaque endpointUuid : BitVec 128
opaque dcr : BitVec 8

/-- What the monitor measures at boot: the boot ROM's own digest (R509), the digest of a fuse record and of a configuration record, whose
formats the spec does not give. -/
opaque romDigest : BitVec 256
opaque fuseDigest : (fused revoked svns debugMax : Nat) → BitVec 256
opaque configDigest : (settings : List (Nat × BitVec 64)) → BitVec 256

/-- ML-DSA.Verify of FIPS 204, which the spec cites: number of the context string, public key, digest, signature. -/
opaque mldsaVerify : (context : Nat) → (pubkey : List Byte) → (digest : BitVec 256) → (sig : List Byte) → Bool

/-- Signatures of the identity key (R518): byte n of the one over a transcript. -/
opaque idSign : (transcript : List Byte) → Nat → Byte

/-- What SPDM gives and the spec does not restate: the canonical messages of R516, the request the device forms (before and
after its nonce), the header of a
MEASUREMENTS response and of one of its blocks, and the certificate chain. -/
opaque spdmVca : List Byte
opaque spdmRequest : (mask : BitVec 16) → List Byte
opaque spdmRequestTail : List Byte
opaque spdmHeader : (mask : BitVec 16) → List Byte
opaque spdmBlockHeader : (index : Nat) → List Byte
opaque certChain : List Byte

/-- Whether a peer identifier names a Tchizin T-4 (R419): the spec gives no product code for it. -/
opaque isT4 : BitVec 64 → Bool

/-- What the spec leaves to the sender of a packet: which of a peer's eight addresses it goes to (R380), by the port and the sequence number
it leaves with; whether peer DATA sets IMM_VALID (R381); the connection id of a NAK to a sender the device has no connection with (R386), and
the queue pair of one to a sender whose packet names none of the device's (R390). -/
opaque peerPort : (port psn : Nat) → BitVec 3
opaque peerImmValid : Bool
opaque strangerConn : (ip : BitVec 128) → BitVec 32
opaque strangerQp : (ip : BitVec 128) → BitVec 24

/-- How many transfers of legs a network queue holds beyond one (R37 names the queue and not its length). -/
opaque netQueueMore : Nat

/-- What the transcendental stage answers for an argument in its domain (R181): function code, compute type, argument. The part
gives the same bits for the same argument, and the spec fixes their bounds alone: an answer outside them is not taken. -/
opaque transcend : (op ct : Nat) → BitVec 32 → BitVec 32

end Sys2Proof.Config
end

