-- ==== Sys2Proof/Machine/Integrity.lean ====
section
/-! DEFINITION. The integrity code of R463 to R467: arithmetic of the field, check bytes, syndromes, the decoder. -/

namespace Sys2Proof.Machine

/-- Multiplication by the primitive element 0x02 in GF(2^8) with the polynomial 0x11D (R463). -/
def gfDouble (a : Byte) : Byte := if a.getLsbD 7 then (a <<< 1) ^^^ 0x1D#8 else a <<< 1

/-- Product in GF(2^8), on the low n bits of the second factor (R463). -/
def gfMulAux : Nat → Byte → Byte → Byte
  | 0, _, _ => 0#8
  | n + 1, a, b => (if b.getLsbD 0 then a else 0#8) ^^^ gfMulAux n (gfDouble a) (b >>> 1)

/-- Product in GF(2^8) (R463). -/
def gfMul (a b : Byte) : Byte := gfMulAux 8 a b

/-- The power of the primitive element (R463). -/
def gfPow : Nat → Byte
  | 0 => 1#8
  | n + 1 => gfDouble (gfPow n)

/-- Byte i of a word, little-endian (R15). -/
def byteOf {w : Nat} (x : BitVec w) (i : Nat) : Byte := x.extractLsb' (8 * i) 8

/-- The four check bytes a remainder register holds after one more data symbol; coefficients of the generator of R463
are 64, 120, 54, 15 from the lowest. -/
def rsStep (r : Byte × Byte × Byte × Byte) (d : Byte) : Byte × Byte × Byte × Byte :=
  let fb := d ^^^ r.2.2.2
  (gfMul fb 64#8, r.1 ^^^ gfMul fb 120#8, r.2.1 ^^^ gfMul fb 54#8, r.2.2.1 ^^^ gfMul fb 15#8)

/-- The right check bytes of a word, p0 in the low byte (R463): the remainder of the data polynomial. -/
def checkBytes (d : BitVec 256) : BitVec 32 :=
  let r := (List.range 32).foldl (fun r i => rsStep r (byteOf d (31 - i))) (0#8, 0#8, 0#8, 0#8)
  r.2.2.2 ++ r.2.2.1 ++ r.2.1 ++ r.1

/-- Symbol at a position of the codeword: check bytes at 0 to 3, data byte i at i + 4 (R463). -/
def symbolAt (d : BitVec 256) (p : BitVec 32) (pos : Nat) : Byte :=
  if pos < 4 then byteOf p pos else byteOf d (pos - 4)

/-- The syndrome of a pattern of 36 symbols at a power of the primitive element (R464). -/
def syndromeAt (d : BitVec 256) (p : BitVec 32) (k : Nat) : Byte :=
  (List.range 36).foldl (fun acc i => gfMul acc (gfPow k) ^^^ symbolAt d p (35 - i)) 0#8

/-- The four syndromes, S0 in the low byte (R464, R475). -/
def syndromes (d : BitVec 256) (p : BitVec 32) : BitVec 32 :=
  syndromeAt d p 3 ++ syndromeAt d p 2 ++ syndromeAt d p 1 ++ syndromeAt d p 0

/-- The check bytes of a poisoned word differ from the right ones by Q, q0 in the low byte (R466). -/
def poisonQ : BitVec 32 := 0x3CE1965A#32

/-- What the decoder of R464 says of a word. -/
inductive Decoded where
  | clean
  | corrected (pos : Nat) (value : Byte)
  | poison
  | uncorrectable
deriving DecidableEq, Repr

/-- The decoder of R464, on the syndromes of the word. -/
def decodeSyndromes (s : BitVec 32) : Decoded :=
  let s0 := byteOf s 0
  let s1 := byteOf s 1
  let s2 := byteOf s 2
  let s3 := byteOf s 3
  if s = 0#32 then .clean
  else if s = syndromes 0#256 poisonQ then .poison
  else if s0 ≠ 0#8 ∧ s1 ≠ 0#8 ∧ s2 ≠ 0#8 ∧ s3 ≠ 0#8 ∧ gfMul s1 s1 = gfMul s0 s2 ∧ gfMul s2 s2 = gfMul s1 s3 then
    match (List.range 36).find? (fun p => decide (s1 = gfMul s0 (gfPow p))) with
    | some p => .corrected p s0
    | none => .uncorrectable
  else .uncorrectable

/-- Correct a word's data: an error in a check byte leaves the data alone (R464). -/
def correctData (d : BitVec 256) (pos : Nat) (v : Byte) : BitVec 256 :=
  if pos < 4 then d else d ^^^ ((v.setWidth 256) <<< (8 * (pos - 4)))

end Sys2Proof.Machine
end

