-- ==== Sys2Proof/Machine/RegTypes.lean ====
section
/-! DEFINITION. The registers of the control space (and the CSRs of R462), one structure per register layout of the
spec, each field with its width and its reset value. Reserved bits read 0 and ignore writes (R16), so no structure
holds them. A reset value the spec gives by unit (an identifier, a variant, a fused or factory value) stands at 0
here and is set where the register is read (Machine/Readout.lean) or in State.reset. -/

namespace Sys2Proof.Machine

/-- STG_CFG (R56). -/
structure StgCfgReg where
  lenUs : BitVec 15 := 500#15
  winUs : BitVec 10 := 20#10
  ckptStages : BitVec 16 := 2000#16
  wdogBells : BitVec 8 := 4#8
deriving DecidableEq, Repr

/-- STG_CFG_NEXT (R56). -/
structure StgCfgNextReg where
  lenUs : BitVec 15 := 500#15
  winUs : BitVec 10 := 20#10
  ckptStages : BitVec 16 := 2000#16
  wdogBells : BitVec 8 := 4#8
  bad : BitVec 1 := 0#1
  apply : BitVec 1 := 0#1
deriving DecidableEq, Repr

/-- STG_NUM (R56). -/
structure StgNumReg where
  stage : BitVec 64 := 0#64
deriving DecidableEq, Repr

/-- STG_BELL_TIME (R56). -/
structure StgBellTimeReg where
  tNs : BitVec 64 := 0#64
deriving DecidableEq, Repr

/-- STG_PHASE (R56). -/
structure StgPhaseReg where
  elapsedNs : BitVec 25 := 0#25
  window : BitVec 1 := 0#1
  itinLate : BitVec 13 := 0#13
  clustersBound : BitVec 10 := 0#10
deriving DecidableEq, Repr

/-- STG_TIME_STATE (R56). -/
structure StgTimeStateReg where
  state : BitVec 2 := 0#2
  ppsOk : BitVec 1 := 0#1
  stepRefused : BitVec 1 := 0#1
  offsetNs : BitVec 32 := 0#32
  errBound : BitVec 16 := 65535#16
deriving DecidableEq, Repr

/-- STG_TIME_CFG (R56). -/
structure StgTimeCfgReg where
  freerunAfterS : BitVec 16 := 30#16
  slewPpm : BitVec 8 := 200#8
  stepMs : BitVec 16 := 1#16
  backstepLimitS : BitVec 16 := 1#16
deriving DecidableEq, Repr

/-- STG_EVENTS (R56). -/
structure StgEventsReg where
  late : BitVec 16 := 0#16
  held : BitVec 16 := 0#16
  wdog : BitVec 16 := 0#16
  slip : BitVec 16 := 0#16
deriving DecidableEq, Repr

/-- STG_EVENTS_CLR (R56). -/
structure StgEventsClrReg where
  clr : BitVec 4 := 0#4
deriving DecidableEq, Repr

/-- CL_ID (R102). -/
structure ClIdReg where
  clusterId : BitVec 10 := 0#10
  live : BitVec 1 := 1#1
  itin : BitVec 12 := 0#12
  bound : BitVec 1 := 0#1
  logical : BitVec 10 := 0#10
deriving DecidableEq, Repr

/-- CL_STATE (R102). -/
structure ClStateReg where
  coreActive : BitVec 8 := 0#8
  cpyQ : BitVec 6 := 0#6
  clearing : BitVec 1 := 0#1
  lateHold : BitVec 1 := 0#1
deriving DecidableEq, Repr

/-- CL_CTL (R102). -/
structure ClCtlReg where
  offline : BitVec 1 := 0#1
deriving DecidableEq, Repr

/-- CL_CPY (R102). -/
structure ClCpyReg where
  bytes : BitVec 48 := 0#48
  reqs : BitVec 16 := 0#16
deriving DecidableEq, Repr

/-- CL_STORE (R102). -/
structure ClStoreReg where
  conflict : BitVec 32 := 0#32
deriving DecidableEq, Repr

/-- CL_EXC (R102). -/
structure ClExcReg where
  cores : BitVec 8 := 0#8
deriving DecidableEq, Repr

/-- CL_ARRIVE0–CL_ARRIVE31 (R102). -/
structure ClArriveReg where
  count : BitVec 64 := 0#64
deriving DecidableEq, Repr

/-- CORE_STATUS (R102). -/
structure CoreStatusReg where
  slots : BitVec 16 := 0#16
  regFreeKib : BitVec 7 := 64#7
  halted : BitVec 1 := 0#1
deriving DecidableEq, Repr

/-- CORE_EXC (R102). -/
structure CoreExcReg where
  valid : BitVec 1 := 0#1
  more : BitVec 1 := 0#1
  cause : BitVec 8 := 0#8
  slot : BitVec 4 := 0#4
  threads : BitVec 32 := 0#32
deriving DecidableEq, Repr

/-- CORE_EXC_PC (R102). -/
structure CoreExcPcReg where
  pc : BitVec 40 := 0#40
deriving DecidableEq, Repr

/-- CORE_EXC_ADDR (R102). -/
structure CoreExcAddrReg where
  addr : BitVec 64 := 0#64
deriving DecidableEq, Repr

/-- CORE_ISSUE (R102). -/
structure CoreIssueReg where
  dual : BitVec 32 := 0#32
  single : BitVec 32 := 0#32
deriving DecidableEq, Repr

/-- CORE_STALL (R102). -/
structure CoreStallReg where
  bubble : BitVec 32 := 0#32
  collFull : BitVec 32 := 0#32
deriving DecidableEq, Repr

/-- CORE_WAIT (R102). -/
structure CoreWaitReg where
  splitWait : BitVec 32 := 0#32
  counterWait : BitVec 32 := 0#32
deriving DecidableEq, Repr

/-- CORE_MEM (R102). -/
structure CoreMemReg where
  bankConflict : BitVec 32 := 0#32
  l1MissWait : BitVec 32 := 0#32
deriving DecidableEq, Repr

/-- MXU_FLAGS (R136). -/
structure MxuFlagsReg where
  of : BitVec 1 := 0#1
  uf : BitVec 1 := 0#1
  nx : BitVec 1 := 0#1
  nv : BitVec 1 := 0#1
  last : BitVec 4 := 0#4
deriving DecidableEq, Repr

/-- MXU_BUSY (R136). -/
structure MxuBusyReg where
  array : BitVec 32 := 0#32
  qfull : BitVec 32 := 0#32
deriving DecidableEq, Repr

/-- MXU_OPS (R136). -/
structure MxuOpsReg where
  mma : BitVec 32 := 0#32
  mrd : BitVec 16 := 0#16
  mld : BitVec 16 := 0#16
deriving DecidableEq, Repr

/-- MXU_MACS (R136). -/
structure MxuMacsReg where
  macs : BitVec 64 := 0#64
deriving DecidableEq, Repr

/-- VCH_FLAGS (R193). -/
structure VchFlagsReg where
  of : BitVec 1 := 0#1
  uf : BitVec 1 := 0#1
  nx : BitVec 1 := 0#1
  nv : BitVec 1 := 0#1
  last : BitVec 4 := 0#4
deriving DecidableEq, Repr

/-- VCH_BUSY (R193). -/
structure VchBusyReg where
  active : BitVec 32 := 0#32
  qfull : BitVec 32 := 0#32
deriving DecidableEq, Repr

/-- VCH_OPS (R193). -/
structure VchOpsReg where
  ops : BitVec 32 := 0#32
  trans : BitVec 16 := 0#16
  fp64 : BitVec 16 := 0#16
deriving DecidableEq, Repr

/-- VCH_ELEMS (R193). -/
structure VchElemsReg where
  elems : BitVec 64 := 0#64
deriving DecidableEq, Repr

/-- L2H_ID (R231). -/
structure L2hIdReg where
  home : BitVec 3 := 0#3
  live : BitVec 1 := 1#1
deriving DecidableEq, Repr

/-- L2H_CFG (R231). -/
structure L2hCfgReg where
  satThresh : BitVec 5 := 12#5
  pinHeavy : BitVec 4 := 8#4
  pressThresh : BitVec 8 := 64#8
  pressMinAcc : BitVec 16 := 1024#16
  offerEn : BitVec 1 := 1#1
deriving DecidableEq, Repr

/-- L2H_STATUS (R231). -/
structure L2hStatusReg where
  pinnedLines : BitVec 19 := 0#19
  evbOcc : BitVec 6 := 0#6
  pressure : BitVec 1 := 0#1
deriving DecidableEq, Repr

/-- L2H_ACCESS (R231). -/
structure L2hAccessReg where
  hits : BitVec 32 := 0#32
  misses : BitVec 32 := 0#32
deriving DecidableEq, Repr

/-- L2H_PIN (R231). -/
structure L2hPinReg where
  heavyAcc : BitVec 32 := 0#32
  heavyMiss : BitVec 32 := 0#32
deriving DecidableEq, Repr

/-- L2H_EVB (R231). -/
structure L2hEvbReg where
  writebacks : BitVec 32 := 0#32
  fullCycles : BitVec 32 := 0#32
deriving DecidableEq, Repr

/-- L2H_OFFER (R231). -/
structure L2hOfferReg where
  accepted : BitVec 32 := 0#32
  declined : BitVec 32 := 0#32
deriving DecidableEq, Repr

/-- L2H_DEAD (R231). -/
structure L2hDeadReg where
  hints : BitVec 32 := 0#32
  rad : BitVec 16 := 0#16
  ignored : BitVec 16 := 0#16
deriving DecidableEq, Repr

/-- L2H_HOT (R231). -/
structure L2hHotReg where
  qfullCycles : BitVec 32 := 0#32
  hotSlice : BitVec 6 := 0#6
deriving DecidableEq, Repr

/-- L2H_HOT_LINE (R231). -/
structure L2hHotLineReg where
  addr : BitVec 52 := 0#52
deriving DecidableEq, Repr

/-- L2H_ATOM (R231). -/
structure L2hAtomReg where
  reqs : BitVec 32 := 0#32
  operands : BitVec 32 := 0#32
deriving DecidableEq, Repr

/-- L2H_COH (R231). -/
structure L2hCohReg where
  snoops : BitVec 32 := 0#32
  timeouts : BitVec 16 := 0#16
  backInv : BitVec 16 := 0#16
deriving DecidableEq, Repr

/-- L2H_BYPASS (R231). -/
structure L2hBypassReg where
  loads : BitVec 32 := 0#32
deriving DecidableEq, Repr

/-- L2H_POISON_ADDR (R231). -/
structure L2hPoisonAddrReg where
  addr : BitVec 52 := 0#52
  valid : BitVec 1 := 0#1
deriving DecidableEq, Repr

/-- L2H_DEAD0–L2H_DEAD63 (R231). -/
structure L2hDeadListReg where
  addr : BitVec 52 := 0#52
  valid : BitVec 1 := 0#1
deriving DecidableEq, Repr

/-- MEM_ID (R271). -/
structure MemIdReg where
  stack : BitVec 3 := 0#3
  fitted : BitVec 1 := 1#1
  live : BitVec 1 := 1#1
  partner : BitVec 3 := 0#3
  partnerLive : BitVec 1 := 1#1
deriving DecidableEq, Repr

/-- MEM_CFG (R271). -/
structure MemCfgReg where
  ceRetire : BitVec 4 := 4#4
  scrubHours : BitVec 8 := 24#8
  wcbHigh : BitVec 7 := 48#7
  pinRows : BitVec 4 := 4#4
  idleNs : BitVec 16 := 1000#16
deriving DecidableEq, Repr

/-- MEM_STATUS (R271). -/
structure MemStatusReg where
  tempC : BitVec 8 := 0#8
  refresh2x : BitVec 1 := 0#1
  retraining : BitVec 1 := 0#1
  retFull : BitVec 1 := 0#1
  wcbOcc : BitVec 7 := 0#7
  retired : BitVec 9 := 0#9
  pinFault : BitVec 1 := 0#1
  pinPc : BitVec 6 := 0#6
  pinSymbol : BitVec 6 := 0#6
deriving DecidableEq, Repr

/-- MEM_TRAFFIC (R271). -/
structure MemTrafficReg where
  rdSectors : BitVec 32 := 0#32
  wrSectors : BitVec 32 := 0#32
deriving DecidableEq, Repr

/-- MEM_WCB (R271). -/
structure MemWcbReg where
  merges : BitVec 32 := 0#32
  rmw : BitVec 32 := 0#32
deriving DecidableEq, Repr

/-- MEM_MIRROR (R271). -/
structure MemMirrorReg where
  copyWr : BitVec 32 := 0#32
  fallback : BitVec 16 := 0#16
deriving DecidableEq, Repr

/-- MEM_ECC (R271). -/
structure MemEccReg where
  ce : BitVec 32 := 0#32
  ue : BitVec 16 := 0#16
  ifRetry : BitVec 16 := 0#16
deriving DecidableEq, Repr

/-- MEM_LAST_ERR (R271). -/
structure MemLastErrReg where
  addr : BitVec 52 := 0#52
  ue : BitVec 1 := 0#1
  valid : BitVec 1 := 0#1
deriving DecidableEq, Repr

/-- MEM_SCRUB (R271). -/
structure MemScrubReg where
  offset : BitVec 37 := 0#37
  passes : BitVec 16 := 0#16
deriving DecidableEq, Repr

/-- MEM_RET0–MEM_RET255 (R271). -/
structure MemRetReg where
  addr : BitVec 52 := 0#52
  pending : BitVec 1 := 0#1
  valid : BitVec 1 := 0#1
deriving DecidableEq, Repr

/-- LDG_CFG (R304). -/
structure LdgCfgReg where
  replayMax : BitVec 4 := 3#4
  restartMs : BitVec 10 := 10#10
deriving DecidableEq, Repr

/-- LDG_SEQ (R304). -/
structure LdgSeqReg where
  next : BitVec 64 := 0#64
deriving DecidableEq, Repr

/-- LDG_OLDEST (R304). -/
structure LdgOldestReg where
  seq : BitVec 64 := 0#64
deriving DecidableEq, Repr

/-- LDG_CKPT (R304). -/
structure LdgCkptReg where
  stage : BitVec 64 := 0#64
deriving DecidableEq, Repr

/-- LDG_CKPT_STATE (R304). -/
structure LdgCkptStateReg where
  valid : BitVec 1 := 0#1
  flushing : BitVec 1 := 0#1
  homesPending : BitVec 8 := 0#8
deriving DecidableEq, Repr

/-- LDG_CKPT_PEND (R304). -/
structure LdgCkptPendReg where
  stage : BitVec 64 := 0#64
deriving DecidableEq, Repr

/-- LDG_FAULTS (R304). -/
structure LdgFaultsReg where
  stageFaults : BitVec 16 := 0#16
  replays : BitVec 16 := 0#16
  stops : BitVec 16 := 0#16
  stateLoss : BitVec 16 := 0#16
deriving DecidableEq, Repr

/-- LDG_DEGRADE (R304). -/
structure LdgDegradeReg where
  degraded : BitVec 1 := 0#1
  cdLost : BitVec 8 := 0#8
  msLost : BitVec 8 := 0#8
  linkLost : BitVec 8 := 0#8
  halfLost : BitVec 8 := 0#8
deriving DecidableEq, Repr

/-- LDG_RESTART (R304). -/
structure LdgRestartReg where
  stage : BitVec 64 := 0#64
deriving DecidableEq, Repr

/-- PH_CFG (R339). -/
structure PhCfgReg where
  rtReserve : BitVec 13 := 256#13
  urgReserve : BitVec 13 := 256#13
deriving DecidableEq, Repr

/-- PH_INFLIGHT (R339). -/
structure PhInflightReg where
  total : BitVec 14 := 0#14
  runtime : BitVec 14 := 0#14
  urgent : BitVec 14 := 0#14
deriving DecidableEq, Repr

/-- PH_QUEUE (R339). -/
structure PhQueueReg where
  urgQ : BitVec 14 := 0#14
  normQ : BitVec 14 := 0#14
  bulkQ : BitVec 14 := 0#14
deriving DecidableEq, Repr

/-- PH_STAGE (R339). -/
structure PhStageReg where
  accepted : BitVec 16 := 0#16
  dispatched : BitVec 16 := 0#16
  completed : BitVec 16 := 0#16
  aged : BitVec 16 := 0#16
deriving DecidableEq, Repr

/-- PH_STALL (R339). -/
structure PhStallReg where
  limitNs : BitVec 32 := 0#32
  cqWaits : BitVec 16 := 0#16
deriving DecidableEq, Repr

/-- PH_INNK (R339). -/
structure PhInnkReg where
  restarting : BitVec 1 := 0#1
  halted : BitVec 1 := 0#1
  restarts : BitVec 8 := 0#8
deriving DecidableEq, Repr

/-- PH_RT_BASE (R339). -/
structure PhRtBaseReg where
  addr : BitVec 52 := 77307314176#52
deriving DecidableEq, Repr

/-- PH_SUMMARY0–PH_SUMMARY256 (R339). -/
structure PhSummaryReg where
  full : BitVec 64 := 0#64
deriving DecidableEq, Repr

/-- PH_STATE (R339). -/
structure PhStateReg where
  state : BitVec 2 := 0#2
  guest : BitVec 1 := 0#1
  urgentOk : BitVec 1 := 0#1
  epoch : BitVec 8 := 0#8
deriving DecidableEq, Repr

/-- PH_AREA (R339). -/
structure PhAreaReg where
  addr : BitVec 52 := 0#52
deriving DecidableEq, Repr

/-- PH_CQ (R339). -/
structure PhCqReg where
  addr : BitVec 64 := 0#64
deriving DecidableEq, Repr

/-- PH_PTR (R339). -/
structure PhPtrReg where
  head : BitVec 16 := 0#16
  tail : BitVec 16 := 0#16
  cqTail : BitVec 16 := 0#16
  cqHead : BitVec 16 := 0#16
deriving DecidableEq, Repr

/-- PH_LIMIT (R339). -/
structure PhLimitReg where
  maxInflight : BitVec 9 := 0#9
  inflight : BitVec 9 := 0#9
deriving DecidableEq, Repr

/-- PH_COUNT (R339). -/
structure PhCountReg where
  accepted : BitVec 32 := 0#32
  completed : BitVec 32 := 0#32
deriving DecidableEq, Repr

/-- PH_ENERGY (R339). -/
structure PhEnergyReg where
  mj : BitVec 64 := 0#64
deriving DecidableEq, Repr

/-- PH_ERR (R339). -/
structure PhErrReg where
  badSeal : BitVec 16 := 0#16
  partialSeal : BitVec 16 := 0#16
  denied : BitVec 16 := 0#16
  badCqh : BitVec 16 := 0#16
deriving DecidableEq, Repr

/-- PH_FULL0–PH_FULL3 (R339). -/
structure PhFullReg where
  slots : BitVec 64 := 0#64
deriving DecidableEq, Repr

/-- NET_CFG (R422). -/
structure NetCfgReg where
  relayUdp : BitVec 16 := 6910#16
  timeoutUs : BitVec 16 := 2000#16
  dscp : BitVec 6 := 0#6
  pfcEn : BitVec 1 := 0#1
  pfcPrio : BitVec 3 := 3#3
deriving DecidableEq, Repr

/-- NET_RELAY (R422). -/
structure NetRelayReg where
  ackPkts : BitVec 8 := 16#8
  ackUs : BitVec 8 := 4#8
  rtoUs : BitVec 8 := 40#8
  dupThresh : BitVec 4 := 3#4
  gShift : BitVec 4 := 4#4
  wmax : BitVec 13 := 4096#13
deriving DecidableEq, Repr

/-- NET_JOB (R422). -/
structure NetJobReg where
  ackWaitUs : BitVec 16 := 1000#16
  prepRounds : BitVec 4 := 3#4
  confirmLeadUs : BitVec 16 := 100#16
  reprepLead : BitVec 8 := 4#8
deriving DecidableEq, Repr

/-- NET_FABRIC (R422). -/
structure NetFabricReg where
  prefix_ : BitVec 64 := 0#64
deriving DecidableEq, Repr

/-- NET_PTP (R422). -/
structure NetPtpReg where
  domain : BitVec 8 := 0#8
  ports : BitVec 8 := 255#8
  transport : BitVec 2 := 0#2
  active : BitVec 3 := 0#3
  activeValid : BitVec 1 := 0#1
  mpdNs : BitVec 32 := 0#32
deriving DecidableEq, Repr

/-- NET_PACEL (R422). -/
structure NetPacelReg where
  en : BitVec 1 := 0#1
  present : BitVec 1 := 0#1
  up : BitVec 1 := 0#1
  lanesReq : BitVec 4 := 8#4
  lanes : BitVec 4 := 0#4
  replays : BitVec 32 := 0#32
deriving DecidableEq, Repr

/-- NET_CONN (R422). -/
structure NetConnReg where
  guests : BitVec 15 := 0#15
  peers : BitVec 13 := 0#13
  lost : BitVec 16 := 0#16
  reparent : BitVec 16 := 0#16
deriving DecidableEq, Repr

/-- NET_PORT_STATUS (R422). -/
structure NetPortStatusReg where
  up : BitVec 1 := 0#1
  ptp : BitVec 1 := 0#1
  pacel : BitVec 1 := 0#1
  retrains : BitVec 8 := 0#8
deriving DecidableEq, Repr

/-- NET_PORT_MAC (R422). -/
structure NetPortMacReg where
  mac : BitVec 48 := 0#48
deriving DecidableEq, Repr

/-- NET_PORT_V4 (R422). -/
structure NetPortV4Reg where
  addr : BitVec 32 := 0#32
  plen : BitVec 6 := 0#6
deriving DecidableEq, Repr

/-- NET_PORT_GW4 (R422). -/
structure NetPortGw4Reg where
  gw : BitVec 32 := 0#32
deriving DecidableEq, Repr

/-- NET_PORT_BYTES (R422). -/
structure NetPortBytesReg where
  tx : BitVec 32 := 0#32
  rx : BitVec 32 := 0#32
deriving DecidableEq, Repr

/-- NET_PORT_CONG (R422). -/
structure NetPortCongReg where
  ceRx : BitVec 32 := 0#32
  signals : BitVec 32 := 0#32
deriving DecidableEq, Repr

/-- NET_PORT_ERR (R422). -/
structure NetPortErrReg where
  fcs : BitVec 16 := 0#16
  crc : BitVec 16 := 0#16
  retx : BitVec 16 := 0#16
  nak : BitVec 16 := 0#16
deriving DecidableEq, Repr

/-- PTR_CFG (R442). -/
structure PtrCfgReg where
  cmdEvery : BitVec 4 := 8#4
deriving DecidableEq, Repr

/-- PTR_STATUS (R442). -/
structure PtrStatusReg where
  busy : BitVec 16 := 0#16
deriving DecidableEq, Repr

/-- PTR_Q (R442). -/
structure PtrQReg where
  legQ : BitVec 6 := 0#6
  cmdQ : BitVec 6 := 0#6
  queued : BitVec 48 := 0#48
deriving DecidableEq, Repr

/-- PTR_BYTES (R442). -/
structure PtrBytesReg where
  rdWords : BitVec 32 := 0#32
  wrWords : BitVec 32 := 0#32
deriving DecidableEq, Repr

/-- PTR_INTEG (R442). -/
structure PtrIntegReg where
  corrected : BitVec 16 := 0#16
  poisonIn : BitVec 16 := 0#16
  poisonOut : BitVec 16 := 0#16
  retry : BitVec 16 := 0#16
deriving DecidableEq, Repr

/-- PTR_REFUSE (R442). -/
structure PtrRefuseReg where
  refused : BitVec 16 := 0#16
  empty : BitVec 16 := 0#16
  guestLost : BitVec 16 := 0#16
deriving DecidableEq, Repr

/-- PTR_LAST_ERR (R442). -/
structure PtrLastErrReg where
  addr : BitVec 52 := 0#52
  cause : BitVec 4 := 0#4
  valid : BitVec 1 := 0#1
deriving DecidableEq, Repr

/-- mxdevid (R462). -/
structure MxdevidReg where
  deviceId : BitVec 64 := 0#64
deriving DecidableEq, Repr

/-- mxcore (R462). -/
structure MxcoreReg where
  core : BitVec 6 := 0#6
  die : BitVec 1 := 0#1
deriving DecidableEq, Repr

/-- xstage (R462). -/
structure XstageReg where
  stage : BitVec 64 := 0#64
deriving DecidableEq, Repr

/-- mxctl (R462). -/
structure MxctlReg where
  pfEn : BitVec 1 := 1#1
  stageS : BitVec 1 := 0#1
  stageU : BitVec 1 := 0#1
  restart : BitVec 1 := 0#1
deriving DecidableEq, Repr

/-- mxfreq (R462). -/
structure MxfreqReg where
  freq : BitVec 6 := 32#6
  freqNow : BitVec 6 := 32#6
deriving DecidableEq, Repr

/-- mxerr (R462). -/
structure MxerrReg where
  addr : BitVec 52 := 0#52
  cause : BitVec 4 := 0#4
  valid : BitVec 1 := 0#1
deriving DecidableEq, Repr

/-- PWR_CFG (R499). -/
structure PwrCfgReg where
  capW : BitVec 16 := 0#16
  gainW : BitVec 8 := 32#8
  nMax : BitVec 6 := 63#6
  tjSoft : BitVec 7 := 105#7
  idleOffStages : BitVec 16 := 2000#16
deriving DecidableEq, Repr

/-- PWR_STATUS (R499). -/
structure PwrStatusReg where
  pW : BitVec 16 := 0#16
  n : BitVec 6 := 0#6
  nCap : BitVec 6 := 0#6
  nTherm : BitVec 6 := 0#6
  capUnmet : BitVec 1 := 0#1
  telemLost : BitVec 1 := 0#1
  inletHigh : BitVec 1 := 0#1
  flowLow : BitVec 1 := 0#1
  coolantWarn : BitVec 1 := 0#1
  thermLimit : BitVec 1 := 0#1
  vin10mv : BitVec 16 := 0#16
deriving DecidableEq, Repr

/-- PWR_COOL_CFG (R499). -/
structure PwrCoolCfgReg where
  target : BitVec 10 := 600#10
  valveMin : BitVec 7 := 10#7
  tjFlow : BitVec 7 := 100#7
deriving DecidableEq, Repr

/-- PWR_COOL (R499). -/
structure PwrCoolReg where
  tIn : BitVec 10 := 0#10
  tOut : BitVec 10 := 0#10
  flowMl : BitVec 16 := 0#16
  valve : BitVec 7 := 100#7
deriving DecidableEq, Repr

/-- PWR_TJ (R499). -/
structure PwrTjReg where
  cd0 : BitVec 8 := 0#8
  cd1 : BitVec 8 := 0#8
  cd2 : BitVec 8 := 0#8
  cd3 : BitVec 8 := 0#8
  px0 : BitVec 8 := 0#8
  px1 : BitVec 8 := 0#8
  iod : BitVec 8 := 0#8
  max : BitVec 8 := 0#8
deriving DecidableEq, Repr

/-- PWR_DOM (R499). -/
structure PwrDomReg where
  on : BitVec 30 := 0#30
  fault : BitVec 30 := 0#30
deriving DecidableEq, Repr

/-- PWR_EVENTS (R499). -/
structure PwrEventsReg where
  capped : BitVec 16 := 0#16
  therm : BitVec 16 := 0#16
  unmet : BitVec 16 := 0#16
deriving DecidableEq, Repr

/-- PWR_ENERGY (R499). -/
structure PwrEnergyReg where
  mj : BitVec 64 := 0#64
deriving DecidableEq, Repr

/-- PWR_TRIP (R499). -/
structure PwrTripReg where
  tripped : BitVec 1 := 0#1
  junction : BitVec 1 := 0#1
  outlet : BitVec 1 := 0#1
  sensor : BitVec 1 := 0#1
  die : BitVec 3 := 7#3
  tempC : BitVec 8 := 0#8
deriving DecidableEq, Repr

/-- PWR_RAIL0–PWR_RAIL30 (R499). -/
structure PwrRailReg where
  iMa : BitVec 20 := 0#20
  vMv : BitVec 16 := 0#16
  pg : BitVec 1 := 0#1
  fault : BitVec 1 := 0#1
deriving DecidableEq, Repr

/-- SEC_STATUS (R523). -/
structure SecStatusReg where
  boot : BitVec 2 := 0#2
  recovery : BitVec 1 := 0#1
  dbgLevel : BitVec 2 := 0#2
  idKeyOk : BitVec 1 := 1#1
  itinSigned : BitVec 1 := 0#1
deriving DecidableEq, Repr

/-- SEC_FW0–SEC_FW3 (R523). -/
structure SecFwReg where
  version : BitVec 32 := 0#32
  bank : BitVec 1 := 0#1
  staged : BitVec 1 := 0#1
  pending : BitVec 1 := 0#1
  fallback : BitVec 1 := 0#1
deriving DecidableEq, Repr

/-- SEC_SVN (R523). -/
structure SecSvnReg where
  secmon : BitVec 7 := 0#7
  serdes : BitVec 7 := 0#7
  innk : BitVec 7 := 0#7
  pxBoot : BitVec 7 := 0#7
deriving DecidableEq, Repr

/-- SEC_KEYS (R523). -/
structure SecKeysReg where
  fused : BitVec 16 := 0#16
  revoked : BitVec 16 := 0#16
  debugMax : BitVec 2 := 0#2
deriving DecidableEq, Repr

/-- SEC_REFUSE (R523). -/
structure SecRefuseReg where
  itin : BitVec 16 := 0#16
  fw : BitVec 16 := 0#16
  debug : BitVec 16 := 0#16
deriving DecidableEq, Repr

/-- SEC_DBG_NONCE0–SEC_DBG_NONCE3 (R523). -/
structure SecDbgNonceReg where
  nonce : BitVec 64 := 0#64
deriving DecidableEq, Repr

/-- SEC_MR (R523). -/
structure SecMrReg where
  value : BitVec 64 := 0#64
deriving DecidableEq, Repr

/-- MGT_ID (R559). -/
structure MgtIdReg where
  slotId : BitVec 4 := 0#4
  staticAddr : BitVec 7 := 0#7
  dynAddr : BitVec 7 := 0#7
  eid : BitVec 8 := 0#8
  iana : BitVec 32 := 0#32
deriving DecidableEq, Repr

/-- MGT_STATUS (R559). -/
structure MgtStatusReg where
  ibiEn : BitVec 1 := 0#1
  receiver : BitVec 1 := 0#1
  updateMode : BitVec 1 := 0#1
  haltedCl : BitVec 4 := 0#4
  dropped : BitVec 16 := 0#16
deriving DecidableEq, Repr

/-- MGT_EVENT (R559). -/
structure MgtEventReg where
  trip : BitVec 1 := 0#1
  capUnmet : BitVec 1 := 0#1
  telemLost : BitVec 1 := 0#1
  inletHigh : BitVec 1 := 0#1
  flowLow : BitVec 1 := 0#1
  coolantWarn : BitVec 1 := 0#1
  innkHalted : BitVec 1 := 0#1
  innkFail : BitVec 1 := 0#1
  pxRefused : BitVec 1 := 0#1
  noRtPath : BitVec 1 := 0#1
  stateLoss : BitVec 1 := 0#1
  iodCut : BitVec 1 := 0#1
  pinFault : BitVec 1 := 0#1
deriving DecidableEq, Repr

/-- MGT_INTERF0 (R559). -/
structure MgtInterf0Reg where
  core : BitVec 32 := 0#32
  porter : BitVec 32 := 0#32
deriving DecidableEq, Repr

/-- MGT_INTERF1 (R559). -/
structure MgtInterf1Reg where
  net : BitVec 32 := 0#32
  px : BitVec 32 := 0#32
deriving DecidableEq, Repr

/-- MGT_INTERF2 (R559). -/
structure MgtInterf2Reg where
  flush : BitVec 32 := 0#32
deriving DecidableEq, Repr

/-- MGT_LINK0–MGT_LINK7 (R559). -/
structure MgtLinkReg where
  corrected : BitVec 16 := 0#16
  resent : BitVec 16 := 0#16
  failed : BitVec 16 := 0#16
  live : BitVec 1 := 0#1
deriving DecidableEq, Repr

end Sys2Proof.Machine
end

