-- ==== Sys2Proof/Machine/TypesData.lean ====
section
/-! DEFINITION. The state of the data plane as plain data: caravans, cores and clusters, coherence homes, memory
controllers, porters, the processor complex, and the regions of device memory. -/

namespace Sys2Proof.Machine

/-- The three variants of the part (R1). -/
inductive Variant where
  | evist920 | evist920F | evist910
deriving DecidableEq, Repr

/-- What a stored word of a register file or a cluster store carries (R468): no poison, poison the cluster itself
created under R467, or poison that came in from outside. -/
inductive Mark where
  | clean | created | outside
deriving DecidableEq, Repr

/-- A value of the accumulator's internal format (R105). -/
inductive Acc where
  | zero (neg : Bool)
  | fin (neg : Bool) (exp : BitVec 10) (frac : BitVec 36)
  | inf (neg : Bool)
  | nan
deriving DecidableEq, Repr

/-- One thread of a caravan: its program counter, whether it has exited or parked, its predicates (R67, R68, R95). -/
structure Thread where
  pc : BitVec 40
  exited : Bool := false
  parked : Bool := false
  preds : BitVec 15 := 0#15
deriving DecidableEq, Repr

/-- What a caravan's registers and predicates held before an instruction with its P bit set, which an instruction that closes
the pair reads (R70, R71): the threads, the address of the closing instruction, and the unit of the first. -/
structure PairView where
  threads : BitVec 32
  pc : BitVec 40
  unit : Nat
  regs : Tab (BitVec 32)
  marks : Tab Mark
  preds : List (BitVec 15)
deriving DecidableEq, Repr

/-- A caravan resident in a slot (R63, R64, R104, R159). Registers are keyed register * 32 + thread; the poison mark
of a register word is keyed register * 4 + word (R469); accumulator elements are keyed row * 32 + column. -/
structure Caravan where
  itin : Nat
  launch : Nat
  cvn : Nat
  ncvn : Nat
  regGran : Nat
  argw : List (BitVec 32)
  threads : List Thread
  regs : Tab (BitVec 32) := []
  marks : Tab Mark := []
  acc0 : Tab Acc := []
  acc1 : Tab Acc := []
  conv : Nat := 0
  pair : Option PairView := none
deriving DecidableEq, Repr

/-- A matrix instruction in the queue of the matrix unit (R116), with the operands its collector has read (R118). -/
inductive MxJob where
  | mma (slot acc : Nat) (aFmt bFmt : Nat) (pass : Nat) (z : Bool) (a : BitVec 4096) (b : BitVec 8192)
      (scales : List (BitVec 32))
  | mld (slot acc : Nat) (fmt : Nat) (src : BitVec 16384)
  | mrd (slot acc : Nat) (fmt kind : Nat) (clr : Bool) (dst conv : Nat)
deriving DecidableEq, Repr

/-- A vector-chain operation in the queue of the chain (R185, R187), with the configuration word and the registers its
collector has read from the leader (R175). -/
structure VcJob where
  slot : Nat
  lanes : BitVec 32
  pc : BitVec 40
  cfg : BitVec 256
  len : Nat
  dst : BitVec 8
  aVal : Word
  bVal : Word
  cVal : Word
  oAddr : Word
  siAddr : Word
  soAddr : Word
  mAddr : Word
  rAddr : Word
  chanLen : Nat
  chan0 : Nat
  recAddr : Word
  conv : Nat
deriving DecidableEq, Repr

/-- A request of a cluster's copy engine (R80 to R83): the sectors it has delivered so far. -/
structure CopyReq where
  src : Nat
  dst : Nat
  len : Nat
  counter : Nat
  delivered : List Nat := []
  counted : Nat := 0
deriving DecidableEq, Repr

/-- One 32-byte sector held in a cache: valid, dirty, poisoned, and its data (R200, R468). -/
structure Sector where
  valid : Bool := false
  dirty : Bool := false
  poison : Bool := false
  data : BitVec 256 := 0#256
deriving DecidableEq, Repr

/-- A line of an L1 (R194): its four sectors and the stamp of its last use. -/
structure L1Line where
  sectors : List Sector
  used : Nat
deriving DecidableEq, Repr

/-- The miss an L1 is blocked on (R196): the line and the sectors requested. -/
structure L1Miss where
  line : Nat
  sectors : BitVec 4
deriving DecidableEq, Repr

/-- The counts of a core in one stage that the closed-stage registers of R102, R136 and R193 report. Counts of cycles
are not kept (timing): at a Bell those fields take a free value. -/
structure CoreCounts where
  mma : Nat := 0
  mrd : Nat := 0
  mld : Nat := 0
  macs : Nat := 0
  vOps : Nat := 0
  vTrans : Nat := 0
  vFp64 : Nat := 0
  vElems : Nat := 0
deriving DecidableEq, Repr

/-- The registers of a core that hold the last stage closed by a Bell (R103, R136, R193). -/
structure CoreClosed where
  issue : CoreIssueReg := {}
  stall : CoreStallReg := {}
  wait : CoreWaitReg := {}
  mem : CoreMemReg := {}
  mxuBusy : MxuBusyReg := {}
  mxuOps : MxuOpsReg := {}
  mxuMacs : MxuMacsReg := {}
  vchBusy : VchBusyReg := {}
  vchOps : VchOpsReg := {}
  vchElems : VchElemsReg := {}
deriving DecidableEq, Repr

/-- A compute core (R58): its caravan slots, exception registers (R102), matrix and chain queues and flags, and L1. l1Buf holds
the lines that the load blocked on its misses has been served so far (R196). last is the slot that issued last (R70). After an exception
lag counts the instructions that still issue within the 4 cycles of R99, and tie is 2, then 1 while the next of them runs, where that one
issues in the exception's own cycle (R100). A slot of 16 or more holds a retired caravan for what it left queued in a unit (R65). -/
structure Core where
  slots : Tab (Option Caravan) := []
  last : Nat := 16
  halted : Bool := false
  lag : Nat := 0
  tie : Nat := 0
  exc : CoreExcReg := {}
  excPc : BitVec 40 := 0#40
  excAddr : Word := 0#64
  mxq : List MxJob := []
  vcq : List VcJob := []
  mxFlags : MxuFlagsReg := {}
  vcFlags : VchFlagsReg := {}
  l1 : Tab (Option L1Line) := []
  l1Miss : Option L1Miss := none
  l1Buf : List (Nat × List Sector) := []
  l1Clock : Nat := 0
  run : CoreCounts := {}
  closed : CoreClosed := {}
deriving DecidableEq, Repr

/-- A cluster (R58): CL_CTL.OFFLINE and out of service since a Bell (R102), halted (R556), stopped by a discard (R283), cluster store with its poison
marks (keyed by 32-byte word), arrival counters, copy engine and cores. Its binding is held by the itineraries. -/
structure Cluster where
  offline : Bool := false
  out : Bool := false
  halted : Bool := false
  stopped : Bool := false
  store : List Host.Cell := []
  marks : Tab Mark := []
  counters : Tab (BitVec 64) := []
  cpyQ : List CopyReq := []
  cpyBytes : Nat := 0
  cpyReqs : Nat := 0
  closedCpy : ClCpyReg := {}
  closedStore : ClStoreReg := {}
  cores : Tab Core := []
deriving DecidableEq, Repr

/-- A line of an L2 half (R200): sectors, pin, whether it is a foreign line of the partner (R206), and the stamp of its last use, below 0
where the line was made the least recently used (R203, R221). -/
structure Line where
  sectors : List Sector
  pinned : Bool := false
  foreign : Bool := false
  used : Int := 0
deriving DecidableEq, Repr

/-- A line in an eviction buffer (R205). -/
structure EvbLine where
  line : Nat
  sectors : List Sector
deriving DecidableEq, Repr

/-- A directory entry of a home (R218). -/
inductive Dir where
  | invalid
  | shared (px0 px1 partner : Bool)
  | owned (die : Nat)
deriving DecidableEq, Repr

/-- What a home asks of a processor die cache (R219, R225). -/
inductive SnoopKind where
  | downgrade | recall | invalidate
deriving DecidableEq, Repr

/-- A snoop a home has sent and that is not answered yet, with the requesters that wait on the line and those of them that wait to store
(R225). -/
structure Snoop where
  line : Nat
  die : Nat
  kind : SnoopKind
  waiting : List Requester
  stores : List Requester := []
deriving DecidableEq, Repr

/-- Requests a home has counted in the running stage (R231). -/
structure HomeCounts where
  access : L2hAccessReg := {}
  pin : L2hPinReg := {}
  evb : L2hEvbReg := {}
  offer : L2hOfferReg := {}
  dead : L2hDeadReg := {}
  hot : L2hHotReg := {}
  atom : L2hAtomReg := {}
  coh : L2hCohReg := {}
  bypass : L2hBypassReg := {}
deriving DecidableEq, Repr

/-- An L2 half-cache, the home of its stack (R200, R201). low counts the lines made least recently used; voided holds the stores that a
coherence timeout has completed without performing them (R225); pinWait the pinned lines still to be fetched, each with its command (R209). -/
structure Home where
  cfg : L2hCfgReg := {}
  cfgEff : L2hCfgReg := {}
  lines : Tab (Option Line) := []
  clock : Nat := 0
  low : Nat := 0
  evb : List EvbLine := []
  dir : Tab Dir := []
  snoops : List Snoop := []
  voided : List (Nat × Requester) := []
  pinWait : List (Nat × Nat) := []
  deadList : List Nat := []
  pressure : Bool := false
  run : HomeCounts := {}
  closed : HomeCounts := {}
  hotLine : L2hHotLineReg := {}
  poisonAddr : L2hPoisonAddrReg := {}
  flushLines : List Nat := []
deriving DecidableEq, Repr

/-- An entry of a write-combining buffer (R246): a line, its enabled bytes and their data, the sectors whose enabled
bytes came poisoned, those that one write has covered whole (R226), and the mark of a checkpoint flush (R250). -/
structure WcbEntry where
  line : Nat
  enables : BitVec 128
  data : BitVec 1024
  poison : BitVec 4 := 0#4
  whole : BitVec 4 := 0#4
  marked : Bool := false
  stamp : Nat := 0
deriving DecidableEq, Repr

/-- A corrected error the Innkeeper counts toward a page (R264): the page and the time. -/
structure CeEvent where
  page : Nat
  time : Nat
deriving DecidableEq, Repr

/-- A correction the Innkeeper counts toward a failing pin (R265). -/
structure PinEvent where
  pc : Nat
  symbol : Nat
  row : Nat
  time : Nat
deriving DecidableEq, Repr

/-- The counts of a memory controller in one stage (R271). -/
structure CtlCounts where
  traffic : MemTrafficReg := {}
  wcb : MemWcbReg := {}
  mirror : MemMirrorReg := {}
  ecc : MemEccReg := {}
deriving DecidableEq, Repr

/-- A memory stack's controller (R244 to R271). -/
structure Ctl where
  cfg : MemCfgReg := {}
  cfgEff : MemCfgReg := {}
  tempC : BitVec 8 := 0#8
  refresh2x : Bool := false
  retraining : Bool := false
  pinFaultFlag : BitVec 1 := 0#1
  pinPc : BitVec 6 := 0#6
  pinSymbol : BitVec 6 := 0#6
  wcb : List WcbEntry := []
  retired : Tab MemRetReg := []
  ce : List CeEvent := []
  pins : List PinEvent := []
  ueChannels : List Nat := []
  lastErr : MemLastErrReg := {}
  scrub : MemScrubReg := {}
  refreshed : Tab Nat := []
  run : CtlCounts := {}
  closed : CtlCounts := {}
deriving DecidableEq, Repr

/-- A die-to-die link (R239, R241, R242): in service, its counters, the times of its recent link-error faults. -/
structure Link where
  regs : MgtLinkReg := {}
  faultTimes : List Nat := []
deriving DecidableEq, Repr

/-- A region of device memory (R198, R279, R257). mirrorNext is the next line a running mirror copy has to copy;
fromCopy tells that the partner's home serves the region from its copy (R261). -/
structure Region where
  base : Nat
  len : Nat
  ro : Bool := false
  policy : Nat := 0
  bypass : Bool := false
  keep : Bool := false
  pkey : Nat := 0
  sealed : Bool := false
  mirrored : Bool := false
  mirrorNext : Option Nat := none
  mirrorCmd : Option Nat := none
  fromCopy : Bool := false
deriving DecidableEq, Repr

/-- Who gave a porter a descriptor: a MOVE entry of a leg, or a piece of a command (R423). -/
inductive Owner where
  | leg (itin jsn entry : Nat)
  | cmd (id piece : Nat)
deriving DecidableEq, Repr

/-- A porter descriptor (R423) with its progress: bytes issued, the bytes whose write was accepted or acknowledged. -/
structure Desc where
  op : Nat
  flush : Bool
  guest : Nat
  src : Nat
  dst : Nat
  len : Nat
  pattern : Word
  owner : Owner
  moved : Nat := 0
  acked : Nat := 0
  checked : Bool := false
  flushed : Bool := false
deriving DecidableEq, Repr

/-- The counts of a porter in one stage (R442). -/
structure PorterCounts where
  bytes : PtrBytesReg := {}
  integ : PtrIntegReg := {}
  refuse : PtrRefuseReg := {}
deriving DecidableEq, Repr

/-- A porter (R425, R426): its two queues, the chunks it has taken since its last command chunk, its registers. -/
structure Porter where
  legQ : List Desc := []
  cmdQ : List Desc := []
  chunks : Nat := 0
  run : PorterCounts := {}
  closed : PorterCounts := {}
  lastErr : PtrLastErrReg := {}
deriving DecidableEq, Repr

/-- A line of a processor die cache (R451, R454). -/
structure PxLine where
  sectors : List Sector
  owned : Bool
deriving DecidableEq, Repr

/-- The exceptions an access of a hart raises (R444, R448, R461). -/
inductive HartTrap where
  | instrAccess | loadAccess | storeAccess | storeMisaligned | illegal
deriving DecidableEq, Repr

/-- A hart (R443, R457, R461): released or in reset, where and with which arguments it starts, its CSRs, its LR reservation, what its
last load, CSR read or SC returned, the exception its last access raised, and mtval. -/
structure Hart where
  released : Bool := false
  entry : Nat := 0
  a0 : Nat := 0
  a1 : Nat := 0
  ctl : MxctlReg := {}
  err : MxerrReg := {}
  reservation : Option Nat := none
  lastValue : Option (BitVec 256) := none
  trap : Option HartTrap := none
  mtval : Word := 0#64
deriving DecidableEq, Repr

/-- A processor die (R443, R451, R462). -/
structure PxDie where
  live : Bool := true
  freq : MxfreqReg := {}
  cache : Tab (Option PxLine) := []
  harts : Tab Hart := []
deriving DecidableEq, Repr

end Sys2Proof.Machine
end

