-- ==== Sys2Proof/Machine/TypesCtl.lean ====
section
/-! DEFINITION. The state of the control plane as plain data: time and stages, itineraries, legs and jobs, the ledger
and its records, the error log, the pigeonholes and the command table. -/

namespace Sys2Proof.Machine

/-- A leg entry as the image's leg table holds it (R34). -/
structure Entry where
  kind : Nat
  target : Nat
  offset : Nat
  desc : Nat
deriving DecidableEq, Repr

/-- What a core's or a unit's stage fault tells the ledger (R282, R277). -/
structure FaultInfo where
  fclass : Nat
  cluster : Nat := 0xFFFF
  cause : Nat := 0
  core : Nat := 0xFF
  addr : Word := 0#64
  frec : Word := 0xFFFFFFFFFFFFFFFF#64
  ownPoison : Bool := false
deriving DecidableEq, Repr

/-- A running attempt of a leg (R29, R41, R277). Entry positions in issued, slipped and done count from 0; begun is the device's time at the
Bell that started it, from which its offsets count (R20). -/
structure Leg where
  job : Word := 0#64
  jsn : Nat
  start : Nat
  begun : Nat := 0
  missed : Nat := 0
  replay : Bool := false
  suppressed : Bool := false
  clusters : List Nat
  entries : List Entry
  issued : List Nat := []
  slipped : List Nat := []
  done : List Nat := []
  windowDone : Bool := false
  empty : Nat := 0
  slips : Nat := 0
  macs : Nat := 0
  elems : Nat := 0
  porterBytes : Nat := 0
  txBytes : Nat := 0
  rxBytes : Nat := 0
  energy : Word := 0#64
deriving DecidableEq, Repr

/-- A leg discarded in the stage that is open, with the first fault that struck it (R276, R283). -/
structure Discard where
  itin : Nat
  leg : Leg
  fault : FaultInfo
  time : Nat
  bell : Nat
deriving DecidableEq, Repr

/-- A degraded-table entry with the body it names, as an image holds them (R299, R353). -/
structure Body where
  clusters : Nat
  cdNeed : Nat
  msNeed : Nat
  place : List Nat
  nPro : Nat
  legs : List Nat
deriving DecidableEq, Repr

/-- A peer-table entry (R352): a device by its DEVICE_ID, or a guest by its number. -/
inductive Peer where
  | device (id : Word)
  | guest (g : Nat)
deriving DecidableEq, Repr

/-- What the Innkeeper keeps of a resident image (R351). -/
structure Image where
  base : Nat
  len : Nat
  det : Bool
  lenUs : Nat
  winUs : Nat
  ckptStages : Nat
  codeOff : Nat
  codeLen : Nat
  bodies : List Body
  peers : List Peer
deriving DecidableEq, Repr

/-- The state of a job (R356, R363). -/
inductive JobState where
  | prepared | running | finished | stopped
deriving DecidableEq, Repr

/-- A job (R359 to R363). next is the job stage number to run next; released is the count of job stage numbers whose
completions and guest transfers have been performed, one more than the released number of R295. -/
structure Job where
  id : Word
  seed : Word
  bell : Nat
  stages : Nat
  st : JobState := .prepared
  confirmed : Bool := false
  next : Nat := 0
  released : Nat := 0
  endBell : Nat := 0
  round : Nat := 1
  stopAt : Option Nat := none
deriving DecidableEq, Repr

/-- A resident itinerary (R354 to R358): its image, the configuration in force, its binding (the clusters in order of
logical index), its job and running leg, and what replay and rollback need. ckptPos holds the position at the latest completed checkpoints
(stage number, job stage number), newest first; ckptNew the position at the checkpoint being flushed. selected is the
configuration chosen for the restart Bell (R294); reselect and reselectNow tell that it selects again at the replay Bell or at this one (R288,
R349); started is one more than the highest job stage number an attempt of the job has begun, so that a lower
one is a replay or a re-run (R277, R287); energy and jsnEnergy are what the attempts of the itinerary and of its present job
stage number have been charged (R497). -/
structure Itin where
  image : Image
  config : Nat := 0
  binding : Option (List Nat) := none
  job : Option Job := none
  leg : Option Leg := none
  replayAfter : Option Nat := none
  isReplay : Bool := false
  started : Nat := 0
  discards : Nat := 0
  history : List FaultInfo := []
  ckptPos : List (Nat × Nat) := []
  ckptNew : Nat := 0
  evicting : Bool := false
  reselect : Bool := false
  selected : Option Nat := none
  reselectNow : Bool := false
  energy : Word := 0#64
  jsnEnergy : Word := 0#64
deriving DecidableEq, Repr

/-- The outcome field of a leg record (R277). -/
inductive LegOutcome where
  | commit | late | held | discard | restart | stopped
deriving DecidableEq, Repr

/-- A leg record (R277). -/
structure LegRec where
  seq : Nat
  bell : Nat
  outcome : LegOutcome
  itin : Nat
  config : Nat
  det : Bool
  suppressed : Bool
  replay : Bool
  missed : Nat
  job : Word
  jsn : Nat
  start : Nat
  mxFlags : BitVec 4
  vcFlags : BitVec 4
  replays : Nat
  fault : Option FaultInfo
  energy : Word
  entries : Nat
  empty : Nat
  macs : Nat
  elems : Nat
  porterBytes : Nat
  txBytes : Nat
  rxBytes : Nat
  slips : Nat
deriving DecidableEq, Repr

/-- A Bell record (R278); its energy exact, in femtojoules (R495). -/
structure BellRec where
  seq : Nat
  bell : Nat
  ckpt : Bool
  ckptDone : Bool
  ckptAbandoned : Bool
  restart : Bool
  config : Bool
  loss : Bool
  committed : Nat
  late : Nat
  held : Nat
  discarded : Nat
  bound : Nat
  cdLive : BitVec 8
  msLive : BitVec 8
  clustersLive : Nat
  tNs : Nat
  lastCkpt : Option Nat
  pinPressure : BitVec 8
  timeState : BitVec 2
  throttle : Nat
  cmds : Nat
  cmdsEmpty : Nat
  faults : Nat
  energyFj : Nat
deriving DecidableEq, Repr

/-- A ledger record. -/
inductive LedgerRec where
  | leg (r : LegRec)
  | bell (r : BellRec)
deriving DecidableEq, Repr

/-- An error record (R475). -/
structure ErrRec where
  seq : Nat := 0
  bell : Nat := 0
  cls : Nat
  action : Nat := 0
  source : Nat
  unit : Nat := 0
  sub : Nat := 0
  addr : Word := 0#64
  row : Nat := 0
  syndrome : BitVec 32 := 0#32
  symbol : Nat := 0xFF
  evalue : Byte := 0#8
  count : Nat := 1
  itin : Nat := 0xFFFF
  jsn : Word := 0xFFFFFFFFFFFFFFFF#64
  tNs : Nat := 0
deriving DecidableEq, Repr

/-- The state of a pigeonhole (R334). -/
inductive PhState where
  | closed | open_ | draining | lost
deriving DecidableEq, Repr

/-- A completion record (R329). -/
structure CplRec where
  tag : BitVec 32
  status : BitVec 16
  head : BitVec 16
  energy : Word
  result : Word
  sealWord : Word
deriving DecidableEq, Repr

/-- A pigeonhole (R309, R334, R339). full lists the slots that are full with the SEAL value that made them so. -/
structure Pigeonhole where
  st : PhState
  urgentOk : Bool
  epoch : BitVec 8
  area : Nat
  cq : Nat
  head : BitVec 16 := 0#16
  cqTail : BitVec 16 := 0#16
  cqHead : BitVec 16 := 0#16
  maxInflight : Nat
  count : PhCountReg := {}
  energy : PhEnergyReg := {}
  err : PhErrReg := {}
  full : Tab (Option Word) := []
  lostLog : List CplRec := []
deriving DecidableEq, Repr

/-- Where a command of the command table stands: waiting in its class queue, dispatched and at work, waiting for an
event before it can complete, or done and waiting for its completion record. -/
inductive Phase where
  | queued | working | waiting | done
deriving DecidableEq, Repr

/-- A stage length or commit window that waits for the first whole PTP second after it was accepted (R52); first is that instant, 0
for a change accepted in UNSET, when no second is counted. -/
structure LwPend where
  len : Option Nat
  win : Option Nat
  first : Nat
  cmd : Option Nat
deriving DecidableEq, Repr

/-- What a command finds when it is accepted (R21, R52): STG_CFG, the changes of length and window accepted before it that are not in
force yet, whether a cluster is bound, and the first whole PTP second after it. -/
structure Seen where
  cfg : StgCfgReg := {}
  lw : List LwPend := []
  bound : Bool := false
  first : Nat := 0
deriving DecidableEq, Repr

/-- A command in flight (R322): what its slot held, where it stands, and its outcome. bells counts the Bells that have fallen since it was
accepted; piece is the next piece to dispatch for the first time, again holds those that a restart has put back (R307). lost: its guest was
lost while dispatched work was to run to its end, and whether that was all of its work (R336). -/
structure Cmd where
  ph : Nat
  slot : Nat
  opcode : BitVec 16
  cls : Nat
  flush : Bool
  ordered : Bool
  tag : BitVec 32
  args : List Word
  phase : Phase := .queued
  status : BitVec 16 := 0#16
  result : Word := 0#64
  empty : Bool := false
  poison : Option Nat := none
  refused : Option Nat := none
  wrote : Bool := false
  piece : Nat := 0
  outstanding : Nat := 0
  again : List Nat := []
  waitBells : Nat := 0
  bells : Nat := 0
  accepted : Nat := 0
  acceptedStage : Nat := 0
  seen : Seen := {}
  doneAt : Nat := 0
  cqWaited : Bool := false
  lost : Option Bool := none
  energy : Word := 0#64
deriving DecidableEq, Repr

/-- An effect decided now that takes place at a Bell, in dispatch order (R327, R343). cmd is the command to complete
when it has taken place. due is the instant of the Bell that the command names. -/
inductive BellAct where
  | bind (itin due : Nat) (place : List Nat) (cmd : Nat)
  | unbind (itin due : Nat) (cmd : Nat)
  | evict (itin cmd : Nat)
  | mapNew (r : Region) (cmd : Nat)
  | mapAttr (base : Nat) (ro : Bool) (policy : Nat) (bypass keep : Bool) (pkey : Nat) (cmd : Nat)
  | unmap (base cmd : Nat)
  | sealRegion (base cmd : Nat)
  | mirrorOn (base cmd : Nat)
  | mirrorOff (base cmd : Nat)
  | pin (addr len cmd : Nat)
  | unpin (addr len cmd : Nat)
  | window (guest base len pkey cmd : Nat)
  | clusterOffline (cluster cmd : Nat)
  | complete (cmd : Nat)
deriving DecidableEq, Repr

/-- A checkpoint period or watchdog limit that waits for a number of Bells (R53). -/
structure CwPend where
  ckpt : Option Nat
  wdog : Option Nat
  bells : Nat
  cmd : Option Nat
deriving DecidableEq, Repr

/-- A stage configuration that is staged and not yet in force (R52, R53). -/
structure CfgPending where
  lw : List LwPend := []
  cw : List CwPend := []
deriving DecidableEq, Repr

/-- The Bell and time unit (R17 to R57): registers, clocks and what the servo has reported. ptpNow is the device's
estimate of PTP time in nanoseconds and upNs the time since module reset; opened tells that stage numbers have begun,
itinLate is what STG_PHASE.ITIN_LATE was set to at the last Bell (R57), servo the bound and the offset, both in nanoseconds, that the servo
reported last while it was locked (R23, R560); slew is the offset that is still to be slewed away and slewNs the true time since the last
nanosecond of it (R25); bellUp is upNs at the Bell that opened the stage; ppsNext is the second at which the next pulse is expected (R531). -/
structure Stage where
  cfg : StgCfgReg := {}
  next : StgCfgNextReg := {}
  pend : CfgPending := {}
  num : Nat := 0
  bellTime : Nat := 0
  bellUp : Nat := 0
  opened : Bool := false
  window : Bool := false
  time : StgTimeStateReg := {}
  timeCfg : StgTimeCfgReg := {}
  events : StgEventsReg := {}
  ptpNow : Nat := 0
  upNs : Nat := 0
  locked : Bool := false
  leftUnset : Bool := false
  ppsGood : Nat := 0
  suspended : Bool := false
  itinLate : Nat := 0
  servo : Option (Nat × Int) := none
  slew : Int := 0
  slewNs : Nat := 0
  ppsNext : Nat := 0
deriving DecidableEq, Repr

/-- A job stopped in the running stage, whose STOPPED record the next Bell writes (R276, R277, R288, R301, R361); leg is the
attempt that was running. -/
structure StopReq where
  itin : Nat
  job : Word
  jsn : Nat
  fclass : Nat
  leg : Option Leg
  fault : Option FaultInfo
deriving DecidableEq, Repr

/-- A rollback between its state-loss fault and its restart Bell (R294); px marks the processor dies that state-loss faults took, which
stand in the capability record until that Bell (R8). -/
structure Rollback where
  faultTime : Nat
  notBefore : Nat
  px : BitVec 2 := 0#2
deriving DecidableEq, Repr

/-- The ledger (R272 to R304) with what it gathers for the next Bell record; restarted: this Bell is a restart Bell. -/
structure Ledger where
  cfg : LdgCfgReg := {}
  cfgEff : LdgCfgReg := {}
  next : Nat := 0
  records : List LedgerRec := []
  ckpt : Option Nat := none
  flushing : Option Nat := none
  pending : BitVec 8 := 0#8
  faults : LdgFaultsReg := {}
  cdLost : BitVec 8 := 0#8
  msLost : BitVec 8 := 0#8
  linkLost : BitVec 8 := 0#8
  halfLost : BitVec 8 := 0#8
  restart : Nat := 0
  capCd : BitVec 8 := 0x0F#8
  capMs : BitVec 8 := 0xFF#8
  capCl : Nat := 768
  capPx : Nat := 96
  capLink : BitVec 8 := 0xFF#8
  capHalf : BitVec 8 := 0xFF#8
  capNp : BitVec 8 := 0#8
  dead : Bool := false
  rollback : Option Rollback := none
  discards : List Discard := []
  stops : List StopReq := []
  ckptDone : Bool := false
  ckptAbandoned : Bool := false
  loss : Bool := false
  configChange : Bool := false
  restarted : Bool := false
  faultCount : Nat := 0
  cmds : Nat := 0
  cmdsEmpty : Nat := 0
  maxThrottle : Nat := 0
deriving DecidableEq, Repr

/-- The Innkeeper (R305 to R339): pigeonholes, command table, dispatch queues. -/
structure Innkeeper where
  cfg : PhCfgReg := {}
  cfgEff : PhCfgReg := {}
  stage : PhStageReg := {}
  closedStage : PhStageReg := {}
  stall : PhStallReg := {}
  closedStall : PhStallReg := {}
  innk : PhInnkReg := {}
  lastMismatch : Option Nat := none
  dmiHalt : Bool := false
  cut : Bool := false
  phs : Tab (Option Pigeonhole) := []
  lastVisited : Nat := 16447
  visits : Nat := 0
  cmds : Tab (Option Cmd) := []
  nextCmd : Nat := 0
  doneCtr : Nat := 0
  urgQ : List Nat := []
  normQ : List Nat := []
  bulkQ : List Nat := []
  acts : List BellAct := []
deriving DecidableEq, Repr

end Sys2Proof.Machine
end

