-- ==== Sys2Proof/Machine/TypesNet.lean ====
section
/-! DEFINITION. The state of the network engine as plain data: ports, guests, Relay connections, RoCEv2 queue pairs,
transfers of legs, prepare rounds, and the Pacel link. -/

namespace Sys2Proof.Machine

/-- The content of a CTRL message (R404, R405). -/
structure CtrlOut where
  kind : Nat
  job : Word := 0#64
  round : Nat := 0
  members : Nat := 0
  connId : BitVec 32 := 0#32
  bell : Nat := 0
  stages : Nat := 0
  ckpt : Option Nat := none
  mhash : BitVec 256 := 0#256
  map : List Nat := []
deriving DecidableEq, Repr

/-- A Relay packet the engine sends (R381); type as in the header. -/
structure RelayTx where
  port : Nat
  ip : IpHdr
  type : Nat
  conn : BitVec 32
  psn : Nat
  last : Bool := true
  retx : Bool := false
  imm : Option (BitVec 32) := none
  addr : Nat := 0
  ord : Nat := 0
  payload : List Byte := []
deriving DecidableEq, Repr

/-- The operations of the RoCEv2 packets the engine sends (R390, R392). -/
inductive RoceOp where
  | write | readReq (len : Nat) | readResp | ack | nakSequence | nakInvalid | nakAccess | cnp
deriving DecidableEq, Repr

/-- A RoCEv2 packet the engine sends. Its UDP source port and its ECN bits the spec does not give; nothing in the device depends on them, and
they are not kept. -/
structure RoceTx where
  port : Nat
  src : BitVec 128
  dst : BitVec 128
  dscp : BitVec 6
  op : RoceOp
  qpn : Nat
  psn : Nat
  va : Nat := 0
  rkey : BitVec 32 := 0#32
  payload : List Byte := []
deriving DecidableEq, Repr

/-- What the network engine sends, recorded in the order in which it leaves. -/
inductive TxMsg where
  | relay (x : RelayTx)
  | roce (x : RoceTx)
  | arpReply (port : Nat) (ip : BitVec 32)
  | ndAdvert (port : Nat) (ip : BitVec 128)
  | icmpReply (port : Nat) (payload : List Byte)
  | delayReq (port : Nat) (domain : BitVec 8) (transport : BitVec 2)
  | flit (tag : BitVec 32) (ord seq offset : Nat) (payload : List Byte)
  | flitReplay (seq : Nat)
deriving DecidableEq, Repr

/-- Whose frames take turns at a port (R395): a connection's in one class, a queue pair's, or the engine's own answers. -/
inductive TxFlow where
  | conn (id cls : Nat)
  | qp (guest : Nat)
  | own
deriving DecidableEq, Repr

/-- A frame that waits in a port's transmit queue, with its class (R395) and its length in bytes. -/
structure TxFrame where
  cls : Nat
  flow : TxFlow
  len : Nat
  msg : TxMsg
deriving DecidableEq, Repr

/-- A port (R377 to R379, R395, R415, R422). failed: its link has failed and it retrains. master is the master its Announce messages name,
sync tells that a two-step Sync waits for its Follow_Up. txq is the transmit queue, in the order of assignment; turns are the flows that take
turns with what each has left of its quanta; line is the number of bytes the line could have carried since the last frame left; share is how
many bytes have left since class 3 has had data waiting, of class 3 and in all. Which bytes of a frame NET_PORT_BYTES counts the spec
leaves open, so no count of bytes is kept: its closed value is a free value. -/
structure Port where
  up : Bool := false
  failed : Bool := false
  retrains : BitVec 8 := 0#8
  v4 : NetPortV4Reg := {}
  gw4 : NetPortGw4Reg := {}
  cong : NetPortCongReg := {}
  err : NetPortErrReg := {}
  closedBytes : NetPortBytesReg := {}
  closedCong : NetPortCongReg := {}
  closedErr : NetPortErrReg := {}
  paused : BitVec 8 := 0#8
  master : Option PtpMaster := none
  sync : Bool := false
  txq : List TxFrame := []
  turns : List (TxFlow × Nat) := []
  line : Nat := 0
  share : Nat × Nat := (0, 0)
deriving DecidableEq, Repr

/-- On whose behalf the engine sends: a SEND, a porter descriptor, a command's output buffer, the two writes of a completion record
(R404), a CTRL message, a response, or nobody any more. -/
inductive TxOwner where
  | send (itin jsn entry : Nat)
  | desc (porter : Nat) (owner : Owner)
  | buffer (cmd : Nat)
  | record (ph : Nat) (c : CplRec) (entry : Nat)
  | sealW (ph entry : Nat)
  | ctrl
  | resp
  | dropped
deriving DecidableEq, Repr

/-- Where the bytes of a message come from. -/
inductive TxSrc where
  | mem (addr : Nat)
  | bytes (bs : List Byte)
deriving DecidableEq, Repr

/-- A message that waits to be sent on a connection or queue pair: DATA or a write (type 1), a READ (type 4), a response (type 5). -/
structure TxReq where
  owner : TxOwner
  type : Nat := 1
  addr : Nat
  len : Nat
  src : TxSrc
  sent : Nat := 0
  imm : Option (BitVec 32) := none
  ord : Nat := 0
  via : Option Nat := none
deriving DecidableEq, Repr

/-- A packet sent and not yet acknowledged (R385, R391); payload is kept for a retransmission, via is the port a read-back must take. -/
structure Unacked where
  psn : Nat
  owner : TxOwner
  type : Nat
  addr : Nat
  ord : Nat := 0
  imm : Option (BitVec 32) := none
  last : Bool := true
  payload : List Byte := []
  via : Option Nat := none
  readLen : Nat := 0
  span : Nat := 1
  tries : Nat := 0
  bySack : Bool := false
deriving DecidableEq, Repr

/-- A READ the device has outstanding (R402, R426): the request number, or the first PSN under RoCEv2, where its bytes go (none for a
read-back), and the bytes that have come. -/
structure ReadOut where
  num : Nat
  owner : TxOwner
  len : Nat
  dst : Option Nat
  got : List (Nat × Nat) := []
deriving DecidableEq, Repr

/-- A transfer to a guest or a peer in progress (R398, R400, R402): bytes to be acknowledged, the last address written on each path,
and the read-backs it waits for. -/
structure Flow where
  owner : TxOwner
  total : Nat
  acked : Nat := 0
  flush : Bool := false
  guest : Option Nat := none
  paths : List (Nat × Nat) := []
  reads : Nat := 0
deriving DecidableEq, Repr

/-- A Relay connection to a guest or a peer device (R383, R385, R387); its key is the local connection id. rxOpen are the packets received
of late that do not end their message (R389). -/
structure Conn where
  peer : Peer
  remoteId : BitVec 32 := 0#32
  opened : Bool := false
  queue : List TxReq := []
  ctrlq : List CtrlOut := []
  txPsn : Nat := 0
  unacked : List Unacked := []
  reads : List ReadOut := []
  nextRead : Nat := 0
  rxCum : Nat := 0
  rxAbove : List Nat := []
  rxOpen : List Nat := []
  rxSinceAck : Nat := 0
  ceBytes : Nat := 0
  window : Nat := 64
  alpha : Rat := 0
  winSent : Nat := 0
  winBytes : Nat := 0
  winCe : Nat := 0
  nextPort : Nat := 0
deriving DecidableEq, Repr

/-- The transport a guest uses (R371). -/
inductive Transport where
  | roce | relay
deriving DecidableEq, Repr

/-- The endpoint record of a guest (R394). -/
structure Endpoint where
  port : Nat
  ipver : Nat
  dscp : Nat
  qpn : Nat
  psn : Nat
  rkey : BitVec 32
  ip : BitVec 128
  pmtu : Nat
deriving DecidableEq, Repr

/-- The RoCEv2 queue pair of a guest (R391, R392). rate is in 1/65536 of the port rate; writeVa and msgBytes follow the message being
received. -/
structure Qp where
  queue : List TxReq := []
  txPsn : Nat
  rxPsn : Nat := 0
  lastCnp : Option Nat := none
  unacked : List Unacked := []
  reads : List ReadOut := []
  writeVa : Nat := 0
  msgBytes : Nat := 0
  rate : Nat := 65536
deriving DecidableEq, Repr

/-- A guest as the engine and the monitor see it (R394, R403, R519). landed are the pieces landed per immediate
value (address, length), the most recent value first (R400); connected tells that the transport of a guest being opened is up while the SEAL words are being zeroed
(R335). -/
structure Guest where
  window : Option (Nat × Nat × Nat) := none
  transport : Option Transport := none
  endpoint : Option Endpoint := none
  conn : Option Nat := none
  qp : Option Qp := none
  landed : List (BitVec 32 × List (Nat × Nat)) := []
  openCmd : Option Nat := none
  openArgs : Option (Nat × Nat × Nat × Bool) := none
  connected : Bool := false
  closeCmds : List Nat := []
  energy : Word := 0#64
deriving DecidableEq, Repr

/-- A SEND a leg has issued (R397, R398). -/
structure SendX where
  itin : Nat
  jsn : Nat
  entry : Nat
  peer : Nat
  ord : Nat
  addr : Nat
  len : Nat
  remote : Nat
  flush : Bool
  sent : Nat := 0
deriving DecidableEq, Repr

/-- A RECV a leg has posted (R398, R399), with the ranges of bytes landed for it, kept across a discard (R285); counted is how many bytes of
a guest's writes it has taken (R400). -/
structure RecvX where
  itin : Nat
  jsn : Nat
  entry : Nat
  peer : Nat
  ord : Nat
  addr : Nat
  len : Nat
  posted : Bool := true
  landed : List (Nat × Nat) := []
  counted : Nat := 0
deriving DecidableEq, Repr

/-- The prepare tree of a job as this device takes part in it (R406 to R410): its job.prepare, the members in rank order, and the latest
round, with the Bell it offers; bell is the Bell of the latest round acknowledged. Round 0: no PREPARE has come yet. -/
structure Prep where
  job : Word
  cmd : Nat
  itin : Nat
  seed : Word
  reqBell : Nat
  stages : Nat
  members : List Word
  myPos : Nat
  round : Nat := 0
  offer : Nat := 0
  bell : Nat := 0
  missing : List Nat := []
  acked : List Nat := []
  answered : List Nat := []
  replied : Bool := false
deriving DecidableEq, Repr

/-- A rollback this device coordinates or answers (R411). -/
structure JobRoll where
  job : Word
  coordinator : Word
  replies : List (Word × Option Nat)
  restartBell : Option Nat := none
  restartCkpt : Option Nat := none
deriving DecidableEq, Repr

/-- The Pacel link (R417, R418). -/
structure Pacel where
  enabled : Bool := false
  up : Bool := false
  lanes : Nat := 0
  replays : BitVec 32 := 0#32
  rxSeq : Nat := 0
  txSeq : Nat := 0
  queue : List TxReq := []
  sentBuf : List Unacked := []
  credits : Nat := 128
deriving DecidableEq, Repr

/-- The network engine (R377 to R422). -/
structure Net where
  cfg : NetCfgReg := {}
  cfgEff : NetCfgReg := {}
  relay : NetRelayReg := {}
  relayEff : NetRelayReg := {}
  job : NetJobReg := {}
  jobEff : NetJobReg := {}
  fabric : NetFabricReg := {}
  ptp : NetPtpReg := {}
  pacelCfg : NetPacelReg := {}
  pacel : Pacel := {}
  lost : BitVec 16 := 0#16
  reparent : BitVec 16 := 0#16
  closedConn : NetConnReg := {}
  ports : Tab Port := []
  conns : Tab (Option Conn) := []
  nextConn : Nat := 0
  flows : List Flow := []
  guests : Tab Guest := []
  sends : List SendX := []
  recvs : List RecvX := []
  preps : List Prep := []
  early : List CtrlMsg := []
  rolls : List JobRoll := []
  tx : List TxMsg := []
deriving DecidableEq, Repr

end Sys2Proof.Machine
end

