-- ==== Sys2Proof/Machine/TypesMgt.lean ====
section
/-! DEFINITION. The state of the management plane as plain data: power, heat and coolant, the module interface,
security and firmware, and the management sideband. -/

namespace Sys2Proof.Machine

/-- Power, heat and coolant (R478 to R499). Energies are exact, in femtojoules (mV times mA times ns); the integral of R492 is in
hundredths of a degree second. evalNs is when the interval in progress began, splits the Bells that have fallen in it with the sequence
numbers of their records (R561). missing counts the VIN reports missed in a row. warming marks the halves that power up (R483). -/
structure Power where
  cfg : PwrCfgReg := { capW := 2200#16 }
  coolCfg : PwrCoolCfgReg := {}
  pW : Nat := 0
  vin : Nat × Nat := (0, 0)
  missing : Nat := 0
  telemLost : Bool := false
  n : Nat := 0
  nCap : Nat := 0
  nTherm : Nat := 0
  unmetRun : Nat := 0
  okRun : Nat := 0
  unmet : Bool := false
  inletHigh : Bool := false
  flowLow : Bool := false
  coolantWarn : Bool := false
  override_ : Bool := false
  integ : Int := 0
  cool : PwrCoolReg := {}
  tj : PwrTjReg := {}
  domOn : BitVec 30 := 0x3FFFFFFF#30
  domFault : BitVec 30 := 0#30
  warming : BitVec 8 := 0#8
  events : PwrEventsReg := {}
  closedEvents : PwrEventsReg := {}
  energyFj : Nat := 0
  stageFj : Nat := 0
  evalNs : Nat := 0
  splits : List (Nat × Nat) := []
  trip : PwrTripReg := {}
  rails : Tab PwrRailReg := []
  idle : Tab Nat := []
deriving DecidableEq, Repr

/-- Where the module stands between power-off and operation (R537 to R540): off; rails coming up; PWR_GOOD high, before the release
instant; booting or running; stopped by the critical trip; off until PWR_EN is cycled. -/
inductive PowerState where
  | off | starting | waitRelease | running | tripped | latchedOff
deriving DecidableEq, Repr

/-- The module's pins (R526 to R542). holdoff: 500 ms have not passed since PWR_EN fell. -/
structure Module where
  st : PowerState := .waitRelease
  pwrEn : Bool := true
  pwrGood : Bool := true
  thermTripN : Bool := true
  holdoff : Bool := false
deriving DecidableEq, Repr

/-- A firmware image as a bank of the configuration flash holds it (R507, R508): its version, its bytes, the digest and the key
slot of its signature block, and whether its signature verified when it was written. An image put there at manufacture has no digest
that the model knows. -/
structure FwBank where
  version : BitVec 32 := 0#32
  image : List Byte := []
  digest : Option (BitVec 256) := none
  slot : Nat := 0
  good : Bool := true
deriving DecidableEq, Repr

/-- A firmware component (R506 to R513): its two banks, which one the commit record names, its register, and its fused SVN. -/
structure Component where
  bankA : Option FwBank := some {}
  bankB : Option FwBank := none
  commitB : Bool := false
  reg : SecFwReg := {}
  svn : Nat := 0
deriving DecidableEq, Repr

/-- A fuse slot (R501). What is fused at manufacture the spec does not give: digest is none there. -/
structure KeySlot where
  fused : Bool := false
  revoked : Bool := false
  digest : Option (BitVec 256) := none
deriving DecidableEq, Repr

/-- The security monitor (R500 to R523). -/
structure Security where
  boot : BitVec 2 := 0#2
  recovery : Bool := false
  dbgLevel : Nat := 0
  idKeyOk : Bool := true
  comps : Tab Component := []
  slots : Tab KeySlot := [0, 1, 2, 3, 8, 9].map (fun n => (n, { fused := true }))
  debugMax : Nat := 3
  refuse : SecRefuseReg := {}
  nonce : BitVec 256 := Config.resetNonce
  mrs : Tab (BitVec 256) := []
  innkFail : Bool := false
  serdesFail : Bool := false
  pxRefused : Bool := false
  innkTries : Nat := 0
deriving DecidableEq, Repr

/-- Why PLDM update mode stands where it does (R552). -/
inductive UpdState where
  | idle | learn | ready | download | verify | apply
deriving DecidableEq, Repr

/-- The PLDM completion codes that tell a refusal apart (R548, R549, R552); their numbers are DMTF's. -/
inductive PldmErr where
  | unsupportedCmd | notReady | invalidData | invalidSensor | invalidRecord | alreadyUpdating | notUpdating | invalidState | retryRequestUpdate
  | unableToUpdate | verifyFailed
deriving DecidableEq, Repr

/-- What the sideband answers: the model records the answer's content, the transport framing is the standards'. -/
inductive SbResp where
  | none
  | ok
  | byte (b : Byte)
  | word (w : Word)
  | words (ws : List Word)
  | bytes (bs : List Byte)
  | pldmError (e : PldmErr)
  | spdmUnsupported
  | spdmInvalid
  | pdr (numeric : Bool) (sensor : Nat)
  | sensor (available : Bool) (value : Nat)
  | status (st : BitVec 16) (payload : List Byte)
  | faults (st : BitVec 16) (written lost : Nat) (recs : List ErrRec)
  | cert (offset length remainder : Nat) (portion : List Byte)
deriving DecidableEq, Repr

/-- The management sideband (R545 to R559). The moved counts are sectors moved in the running stage (R558). -/
structure Sideband where
  onBus : Bool := false
  slotId : BitVec 4 := 0#4
  dynAddr : BitVec 7 := 0#7
  eid : Byte := 0#8
  tid : Byte := 0#8
  ibiEn : Bool := false
  mrl : Nat := 256
  mwl : Nat := 256
  receiver : Option Byte := none
  updState : UpdState := .idle
  updComp : Nat := 0
  updSize : Nat := 0
  updBuf : List Byte := []
  updStaged : List Nat := []
  dropped : BitVec 16 := 0#16
  event : BitVec 13 := 0#13
  ibis : List Nat := []
  waiting : List Nat := []
  sent : List Nat := []
  negotiated : Bool := false
  links : Tab Link := []
  movedCore : Nat := 0
  movedPorter : Nat := 0
  movedNet : Nat := 0
  movedPx : Nat := 0
  movedFlush : Nat := 0
  closedInterf0 : MgtInterf0Reg := {}
  closedInterf1 : MgtInterf1Reg := {}
  closedInterf2 : MgtInterf2Reg := {}
  persisted : Tab (Option Word) := []
  dmiHalted : Tab Bool := []
  resp : SbResp := .none
deriving DecidableEq, Repr

end Sys2Proof.Machine
end

