-- ==== Sys2Proof/Machine/State.lean ====
section
/-! DEFINITION. The machine's state, its faults and refusals, and the state right after reset. -/

namespace Sys2Proof.Machine

/-- The state of the whole part: every register, memory, queue and mode the spec gives it, and the queue of the
commands that wait. -/
structure State where
  /-- the variant of the part (R1); no command changes it -/
  variant : Variant := .evist920
  /-- time, stages and the Bell (R17 to R57) -/
  stg : Stage := {}
  /-- the ledger (R272 to R304) -/
  ldg : Ledger := {}
  /-- the error log, newest first, at most 16384 records (R473), and the next sequence number -/
  errs : List ErrRec := []
  errSeq : Nat := 0
  /-- the Innkeeper (R305 to R339) -/
  innk : Innkeeper := {}
  /-- resident itineraries by slot (R354) -/
  itins : Tab (Option Itin) := []
  /-- mapped regions in ascending order of base (R364); boot maps the first (R310, R457, R509) -/
  regions : List Region := []
  /-- clusters by identifier (R59) -/
  clusters : Tab Cluster := []
  /-- coherence homes, one for each L2 half (R201) -/
  homes : Tab Home := []
  /-- memory stack controllers (R244) -/
  ctls : Tab Ctl := []
  /-- device memory contents by physical address; an unlisted byte reads 0 -/
  mem : List Host.Cell := []
  /-- for each 32-byte sector of device memory, the stored check bytes XOR the right ones (R463, R467) -/
  chkXor : Tab (BitVec 32) := []
  /-- porters (R423 to R442) and the register that configures them -/
  porters : Tab Porter := []
  ptrCfg : PtrCfgReg := {}
  ptrCfgEff : PtrCfgReg := {}
  /-- processor dies (R443) -/
  px : Tab PxDie := []
  /-- the network engine (R377 to R422) -/
  net : Net := {}
  /-- power, heat and coolant (R478 to R499) -/
  pwr : Power := {}
  /-- the module's pins and supplies (R524 to R544) -/
  mdl : Module := {}
  /-- the security monitor and the firmware banks (R500 to R523) -/
  sec : Security := {}
  /-- the management sideband (R545 to R559) -/
  sb : Sideband := {}
  /-- the model's own: how many free values have been drawn -/
  freeCtr : Nat := 0
  /-- the commands that wait, first in, first out -/
  pending : List Instr := []
deriving DecidableEq, Repr

/-- Reasons a step stops with a fault. No command of this part stops the machine: the spec gives every event an effect, so
the type has no constructor that a meaning raises. -/
inductive Fault where
  /-- raised by no meaning (safe: nothing is claimed of it) -/
  | none
deriving DecidableEq, Repr

/-- Reasons a step is refused. -/
inductive Refusal where
  /-- the command has no meaning in this model yet; raised by the dispatch alone (safe: no claim covers a refused step) -/
  | notModelled (mnemonic : String)
deriving DecidableEq, Repr

/-- The state right after module reset: every register at the value the spec states, the others at the values the assumption
log names, memory with nothing listed, no command waiting. -/
def State.reset : State := {}

end Sys2Proof.Machine
end

