-- ==== Sys2Proof/Machine/Ops.lean ====
section
/-! DEFINITION. The named operations on the state that every meaning is written with: variant figures, units and whether
they are in service, time, free values, device memory bytes, regions, and the error log. -/

namespace Sys2Proof.Machine

/-- Run an update for each element of a list, in order. -/
def forEach {α : Type} (xs : List α) (f : α → State → State) (s : State) : State :=
  xs.foldl (fun t x => f x t) s

/-- The next n free values of a width, and the state that has drawn them. -/
def draw (w : Nat) (s : State) : BitVec w × State :=
  (Config.freeBits w s.freeCtr, { s with freeCtr := s.freeCtr + 1 })

-- the variant (R1, R6)

/-- The number of compute dies fitted (R1). -/
def Variant.dies : Variant → Nat
  | .evist910 => 2
  | _ => 4

/-- The number of memory stacks fitted (R1). -/
def Variant.stacks (v : Variant) : Nat := 2 * v.dies

/-- CD_FIT (R6). -/
def Variant.cdFit : Variant → BitVec 8
  | .evist910 => 0x03#8
  | _ => 0x0F#8

/-- MS_FIT (R6). -/
def Variant.msFit : Variant → BitVec 8
  | .evist910 => 0x0F#8
  | _ => 0xFF#8

/-- The part code (R6). -/
def Variant.part : Variant → BitVec 16
  | .evist920 => 0x0920#16
  | .evist920F => 0x092F#16
  | .evist910 => 0x0910#16

/-- FP64 lanes per core (R6). -/
def Variant.fp64Lanes : Variant → BitVec 8
  | .evist920F => 2#8
  | _ => 16#8

/-- Whether the Pacel link unit is present (R6). -/
def Variant.pacel : Variant → BitVec 8
  | .evist920 => 1#8
  | _ => 0#8

/-- Maximum module power in watts (R6). -/
def Variant.pmaxW : Variant → Nat
  | .evist910 => 1200
  | _ => 2200

/-- Whether a die-to-die link exists on the variant (R239). -/
def Variant.hasLink (v : Variant) (n : Nat) : Bool :=
  decide (n < 8) && !(v == .evist910 && (n == 1 || n == 2 || n == 3))

-- bit masks

/-- A mask with one bit set. -/
def maskBit (w n : Nat) : BitVec w := (1#w) <<< n

/-- Set a bit of a mask. -/
def setBit {w : Nat} (m : BitVec w) (n : Nat) : BitVec w := m ||| maskBit w n

/-- Clear a bit of a mask. -/
def clearBit {w : Nat} (m : BitVec w) (n : Nat) : BitVec w := m &&& ~~~(maskBit w n)

-- access to the units

/-- A cluster. -/
def getCluster (s : State) (id : Nat) : Cluster := tabGet {} s.clusters id

/-- Change a cluster. -/
def modCluster (id : Nat) (f : Cluster → Cluster) (s : State) : State :=
  { s with clusters := tabSet {} s.clusters id (f (getCluster s id)) }

/-- A core of a cluster. -/
def Cluster.core (c : Cluster) (n : Nat) : Core := tabGet {} c.cores n

/-- Change a core of a cluster. -/
def Cluster.modCore (n : Nat) (f : Core → Core) (c : Cluster) : Cluster :=
  { c with cores := tabSet {} c.cores n (f (c.core n)) }

/-- A core. -/
def getCore (s : State) (cl co : Nat) : Core := (getCluster s cl).core co

/-- Change a core. -/
def modCore (cl co : Nat) (f : Core → Core) (s : State) : State := modCluster cl (Cluster.modCore co f) s

/-- The caravan in a slot. -/
def Core.slot (c : Core) (n : Nat) : Option Caravan := tabGet none c.slots n

/-- Put a caravan into a slot, or empty it. -/
def Core.setSlot (n : Nat) (v : Option Caravan) (c : Core) : Core := { c with slots := tabSet none c.slots n v }

/-- A home. -/
def getHome (s : State) (n : Nat) : Home := tabGet {} s.homes n

/-- Change a home. -/
def modHome (n : Nat) (f : Home → Home) (s : State) : State :=
  { s with homes := tabSet {} s.homes n (f (getHome s n)) }

/-- A stack's controller. -/
def getCtl (s : State) (n : Nat) : Ctl := tabGet {} s.ctls n

/-- Change a stack's controller. -/
def modCtl (n : Nat) (f : Ctl → Ctl) (s : State) : State := { s with ctls := tabSet {} s.ctls n (f (getCtl s n)) }

/-- A porter. -/
def getPorter (s : State) (n : Nat) : Porter := tabGet {} s.porters n

/-- Change a porter. -/
def modPorter (n : Nat) (f : Porter → Porter) (s : State) : State :=
  { s with porters := tabSet {} s.porters n (f (getPorter s n)) }

/-- A processor die. -/
def getPx (s : State) (n : Nat) : PxDie := tabGet {} s.px n

/-- Change a processor die. -/
def modPx (n : Nat) (f : PxDie → PxDie) (s : State) : State := { s with px := tabSet {} s.px n (f (getPx s n)) }

/-- The reservations that harts of a die hold on lines that leave its cache are lost (R452). -/
def PxDie.lose (out : Nat → Bool) (p : PxDie) : PxDie :=
  { p with harts := p.harts.map (fun q => (q.1, if (match q.2.reservation with | some a => out (a / 128) | none => false) then { q.2 with reservation := none } else q.2)) }

/-- The itinerary in a slot. -/
def getItin (s : State) (n : Nat) : Option Itin := tabGet none s.itins n

/-- Put an itinerary into a slot, or empty it. -/
def setItin (n : Nat) (v : Option Itin) (s : State) : State := { s with itins := tabSet none s.itins n v }

/-- Change the itinerary in a slot, if there is one. -/
def modItin (n : Nat) (f : Itin → Itin) (s : State) : State := setItin n ((getItin s n).map f) s

/-- Change the running leg of an itinerary, if it has one. -/
def modLeg (n : Nat) (f : Leg → Leg) (s : State) : State := modItin n (fun i => { i with leg := i.leg.map f }) s

/-- The occupied itinerary slots in ascending order. -/
def itinSlots (s : State) : List Nat := s.itins.map (·.1)

/-- A command in flight. -/
def getCmd (s : State) (id : Nat) : Option Cmd := tabGet none s.innk.cmds id

/-- Write or remove a command in flight. -/
def setCmd (id : Nat) (v : Option Cmd) (s : State) : State :=
  { s with innk := { s.innk with cmds := tabSet none s.innk.cmds id v } }

/-- Change a command in flight, if there is one. -/
def modCmd (id : Nat) (f : Cmd → Cmd) (s : State) : State := setCmd id ((getCmd s id).map f) s

/-- Change the Bell and time unit. -/
def modStg (f : Stage → Stage) (s : State) : State := { s with stg := f s.stg }

/-- Change the ledger. -/
def modLdg (f : Ledger → Ledger) (s : State) : State := { s with ldg := f s.ldg }

/-- Change the Innkeeper. -/
def modInnk (f : Innkeeper → Innkeeper) (s : State) : State := { s with innk := f s.innk }

/-- Change the network engine. -/
def modNet (f : Net → Net) (s : State) : State := { s with net := f s.net }

/-- Change the sideband. -/
def modSb (f : Sideband → Sideband) (s : State) : State := { s with sb := f s.sb }

-- clusters, homes and stacks in service

/-- A cluster identifier names a cluster of the array: its index field is 0 to 95 (R59). -/
def clusterIdWf (id : Nat) : Bool := decide (id < 1024) && decide (id % 128 < 96)

/-- A cluster identifier names a cluster that is fitted (R1, R5). -/
def clusterFitted (s : State) (id : Nat) : Bool := clusterIdWf id && decide (id / 256 < s.variant.dies)

/-- Every cluster identifier of the part, ascending (R59). -/
def allClusters (v : Variant) : List Nat :=
  (List.range (2 * v.dies)).flatMap (fun h => (List.range 96).map (fun i => h * 128 + i))

/-- A compute die is in service (R293). -/
def dieLive (s : State) (d : Nat) : Bool := decide (d < s.variant.dies) && !s.ldg.cdLost.getLsbD d

/-- An L2 half is in service (R201, R293). -/
def halfLive (s : State) (n : Nat) : Bool :=
  decide (n < s.variant.stacks) && !s.ldg.halfLost.getLsbD n && dieLive s (n / 2)

/-- A stack is in service (R269). -/
def stackLive (s : State) (n : Nat) : Bool :=
  decide (n < s.variant.stacks) && !s.ldg.msLost.getLsbD n

/-- A cluster is in service (R102, R293): fitted, its die in service, and not taken out of service. The loss of an L2 half takes its stack,
not the clusters beside it. -/
def clusterLive (s : State) (id : Nat) : Bool :=
  clusterFitted s id && dieLive s (id / 256) && !(getCluster s id).out

/-- Compute dies in service as a mask. -/
def cdLiveMask (s : State) : BitVec 8 := s.variant.cdFit &&& ~~~s.ldg.cdLost

/-- Stacks in service as a mask; a stack whose home is lost is not reachable (R201, R293). -/
def msLiveMask (s : State) : BitVec 8 := s.variant.msFit &&& ~~~s.ldg.msLost

/-- Clusters in service (R6). -/
def clustersLiveCount (s : State) : Nat := (allClusters s.variant).countP (clusterLive s)

/-- Processor cores in service (R6): 48 on each die in service. -/
def pxCoresLive (s : State) : Nat := (if (getPx s 0).live then 48 else 0) + (if (getPx s 1).live then 48 else 0)

/-- Where an itinerary's binding places a cluster: the itinerary slot and the logical index. -/
def boundTo (s : State) (id : Nat) : Option (Nat × Nat) :=
  s.itins.findSome? (fun p =>
    match p.2 with
    | some i =>
      match i.binding with
      | some pl => (pl.findIdx? (· == id)).map (fun l => (p.1, l))
      | none => none
    | none => none)

/-- The itinerary whose running leg holds a cluster (R42). -/
def heldBy (s : State) (id : Nat) : Option Nat :=
  s.itins.findSome? (fun p =>
    match p.2 with
    | some i =>
      match i.leg with
      | some l => if l.clusters.contains id then some p.1 else none
      | none => none
    | none => none)

/-- The number of clusters bound. -/
def boundCount (s : State) : Nat :=
  (s.itins.map (fun p => match p.2 with | some i => (i.binding.getD []).length | none => 0)).foldl (· + ·) 0

-- time (R17, R22, R31)

/-- The time states of R22. -/
def timeUnset : BitVec 2 := 0#2
def timeLocked : BitVec 2 := 1#2
def timeHoldover : BitVec 2 := 2#2
def timeFreerun : BitVec 2 := 3#2

/-- The stage length in nanoseconds (R18). -/
def lenNs (s : State) : Nat := s.stg.cfg.lenUs.toNat * 1000

/-- The commit window in nanoseconds (R31). -/
def winNs (s : State) : Nat := s.stg.cfg.winUs.toNat * 1000

/-- The instant of the next Bell (R17, R28): the first multiple of the stage length, the present among them, whose stage number has not
been opened and exceeds the last one opened. -/
def nextBellNs (s : State) : Nat :=
  let n := ceilDiv s.stg.ptpNow (lenNs s)
  (if s.stg.opened && decide (n ≤ s.stg.num) then s.stg.num + 1 else n) * lenNs s

/-- The stage number the next Bell opens (R17). -/
def nextBellNum (s : State) : Nat := nextBellNs s / lenNs s

/-- The instant at which the commit window that precedes the next Bell opens (R30). -/
def windowNs (s : State) : Nat := nextBellNs s - winNs s

/-- What remains of an offset after some nanoseconds of it have been slewed away. -/
def lessOffset (o : Int) (c : Nat) : Int := if 0 ≤ o then o - c else o + c

/-- Some nanoseconds of the offset have been slewed away: the servo's estimate of the offset falls with it (R25, R560). -/
def Stage.slewed (c : Nat) (g : Stage) : Stage :=
  let o := lessOffset g.slew c
  { g with
    slew := o
    servo := g.servo.map (fun p => (p.1, if g.slew = p.2 then o else p.2))
    time := if g.slew ≠ 0 ∧ g.time.offsetNs = BitVec.ofInt 32 g.slew then { g.time with offsetNs := BitVec.ofInt 32 o } else g.time }

/-- A second that passes without its pulse clears PPS_OK (R56, R531). -/
def Stage.missPps (g : Stage) : Stage :=
  if g.ppsGood ≠ 0 ∧ g.ppsNext + 1000 < g.ptpNow then { g with ppsGood := 0, time := { g.time with ppsOk := 0#1 } } else g

/-- The estimate of PTP time runs on by some nanoseconds while the Bell clock slews by at most SLEW_PPM (R25): a clock that is ahead takes
longer for them, one that is behind less. That the unit slews as fast as it may is the model's choice (log 35). -/
def Stage.runFor (d : Nat) (g : Stage) : Stage :=
  let ppm := g.timeCfg.slewPpm.toNat
  let c := min g.slew.natAbs (d * ppm / (if 0 ≤ g.slew then 1000000 - ppm else 1000000 + ppm))
  Stage.missPps ({ g with ptpNow := g.ptpNow + d, upNs := if 0 ≤ g.slew then g.upNs + d + c else g.upNs + d - c }.slewed c)

/-- One nanosecond of true time, with the nanosecond that a slew takes from the estimate or adds to it once the limit lets it (R25). -/
def Stage.tick (g : Stage) : Stage :=
  let due := decide (g.slew ≠ 0) && decide (1000000 ≤ (g.slewNs + 1) * g.timeCfg.slewPpm.toNat)
  if due then { g with ptpNow := if 0 ≤ g.slew then g.ptpNow else g.ptpNow + 2, slewNs := 0 }.slewed 1
  else { g with ptpNow := g.ptpNow + 1, slewNs := if g.slew = 0 then 0 else g.slewNs + 1 }

-- device memory

/-- The byte stored at a physical address of device memory. -/
def memByte (s : State) (a : Nat) : Byte := tabGet 0#8 s.mem a

/-- Store one byte. -/
def setMemByte (a : Nat) (b : Byte) (s : State) : State := { s with mem := tabSet 0#8 s.mem a b }

/-- Bytes of a word, lowest address first (R15). -/
def wordBytes {w : Nat} (n : Nat) (x : BitVec w) : List Byte := (List.range n).map (byteOf x)

/-- The word that bytes make, lowest address first (R15). -/
def bytesNat : List Byte → Nat
  | [] => 0
  | b :: t => b.toNat + 256 * bytesNat t

/-- The 32 stored bytes of a sector. -/
def memSector (s : State) (a : Nat) : BitVec 256 :=
  BitVec.ofNat 256 (bytesNat ((List.range 32).map (fun i => memByte s (a + i))))

/-- Store the 32 bytes of a sector. -/
def setMemSector (a : Nat) (d : BitVec 256) (s : State) : State :=
  forEach (List.range 32) (fun i t => setMemByte (a + i) (byteOf d i) t) s

/-- What the stored check bytes of a sector differ by from the right ones (R463). -/
def chkAt (s : State) (a : Nat) : BitVec 32 := tabGet 0#32 s.chkXor (a / 32)

/-- Store the check bytes of a sector, as their difference from the right ones. -/
def setChk (a : Nat) (x : BitVec 32) (s : State) : State := { s with chkXor := tabSet 0#32 s.chkXor (a / 32) x }

/-- The bytes of one stack (R232). -/
def stackBytes : Nat := 0x12_0000_0000

/-- The end of device memory on the variant (R5, R233). -/
def memEnd (v : Variant) : Nat := v.stacks * stackBytes

/-- The stack that holds an address (R232). -/
def stackOf (a : Nat) : Nat := a / stackBytes

/-- The mirror partner of a stack (R232). -/
def partnerOf (n : Nat) : Nat := n ^^^ 2

/-- The other half of the same die (R206). -/
def otherHalf (n : Nat) : Nat := n ^^^ 1

/-- Where the copy of a mirrored address lies (R256). -/
def copyAddr (a : Nat) : Nat := a % stackBytes + partnerOf (stackOf a) * stackBytes

/-- The line of an address. -/
def lineOf (a : Nat) : Nat := a / 128

/-- The pseudo-channel, the bank and the row of an address (R237). -/
def dramPc (a : Nat) : Nat := (((a % stackBytes) / 2 ^ 10) % 64) ^^^ (((a % stackBytes) / 2 ^ 22) % 64)
def dramBank (a : Nat) : Nat := ((a % stackBytes) / 2 ^ 16) % 64
def dramRow (a : Nat) : Nat := (a % stackBytes) / 2 ^ 22

-- regions (R236, R364)

/-- An address lies in a region. -/
def Region.has (r : Region) (a : Nat) : Bool := decide (r.base ≤ a) && decide (a < r.base + r.len)

/-- Two address ranges share a byte. -/
def overlaps (a n b m : Nat) : Bool := decide (a < b + m) && decide (b < a + n) && decide (0 < n) && decide (0 < m)

/-- The region mapped at an address. -/
def regionAt (s : State) (a : Nat) : Option Region := s.regions.find? (·.has a)

/-- The stack that serves a region's address: its own, or the partner from the copy (R261). -/
def Region.home (r : Region) (a : Nat) : Nat := if r.fromCopy then partnerOf (stackOf a) else stackOf a

/-- The address in the serving stack. -/
def Region.memAddr (r : Region) (a : Nat) : Nat := if r.fromCopy then copyAddr a else a

/-- The region of a usable address: mapped, and its home and stack in service (R236). -/
def usable (s : State) (a : Nat) : Option Region :=
  match regionAt s a with
  | some r => if stackLive s (r.home a) && halfLive s (r.home a) then some r else none
  | none => none

/-- Change the region with a base, keeping the others. -/
def modRegion (base : Nat) (f : Region → Region) (s : State) : State :=
  { s with regions := s.regions.map (fun r => if r.base = base then f r else r) }

/-- Add a region, keeping the list in ascending order of base. -/
def insertRegion (r : Region) : List Region → List Region
  | [] => [r]
  | x :: t => if r.base < x.base then r :: x :: t else x :: insertRegion r t

-- the error log (R473 to R475)

/-- How many records the log holds (R473). -/
def errLogSize : Nat := 16384

/-- A corrected error of any source but a controller merges into the record of the same stage, unit and address (R474). -/
def mergesWith (a b : ErrRec) : Bool :=
  a.cls == 1 && b.cls == 1 && b.source != 5 && a.source == b.source && a.unit == b.unit && a.addr == b.addr &&
  a.bell == b.bell

/-- Write an error record: its sequence number, the stage number and the time are filled in (R473 to R475). -/
def logErr (r : ErrRec) (s : State) : State :=
  let r := { r with seq := s.errSeq, bell := s.stg.num, tNs := s.stg.ptpNow }
  if s.errs.any (fun x => mergesWith x r) then
    { s with errs := s.errs.map (fun x => if mergesWith x r then { x with count := min (x.count + 1) 0xFFFF } else x) }
  else { s with errs := (r :: s.errs).take errLogSize, errSeq := s.errSeq + 1 }

/-- The log keeps only what fits: the lowest sequence number still held. -/
def errOldest (s : State) : Nat := s.errSeq - s.errs.length

end Sys2Proof.Machine
end

