-- ==== Sys2Proof/Machine/Events.lean ====
section
/-! DEFINITION. Statuses, the end of a command's work, the event bits of the sideband with the interrupts and messages
that a rising bit causes, and the frames the network engine sends. -/

namespace Sys2Proof.Machine

/-- Completion statuses (R346). -/
def stOk : BitVec 16 := 0#16
def stBusy : BitVec 16 := 1#16
def stBadArg : BitVec 16 := 2#16
def stBadLen : BitVec 16 := 3#16
def stNoUnit : BitVec 16 := 4#16
def stDenied : BitVec 16 := 5#16
def stPoison : BitVec 16 := 6#16
def stLate : BitVec 16 := 7#16
def stReplayed : BitVec 16 := 8#16
def stGuestLost : BitVec 16 := 9#16
def stAborted : BitVec 16 := 10#16

/-- A command's work ends with a status and a result; its completion record is written by its own event, in the order in which the
commands of its pigeonhole complete (R330). -/
def finishCmd (id : Nat) (st : BitVec 16) (res : Nat) (s : State) : State :=
  match getCmd s id with
  | none => s
  | some c =>
    if c.phase == .done then s
    else
      modInnk (fun i => { i with
        doneCtr := i.doneCtr + 1
        urgQ := i.urgQ.filter (· != id), normQ := i.normQ.filter (· != id), bulkQ := i.bulkQ.filter (· != id) })
        (setCmd id (some { c with phase := .done, status := st, result := BitVec.ofNat 64 res, doneAt := s.innk.doneCtr }) s)

/-- A command has done its own work and waits for an event (R327, R331). -/
def waitCmd (id : Nat) (s : State) : State := modCmd id (fun c => { c with phase := .waiting }) s

/-- The opcodes of the commands that wait on a job (R344): job.confirm, job.await and job.prepare. -/
def waitsOnJob (c : Cmd) (job : Word) : Bool :=
  (c.opcode == 0x0202#16 || c.opcode == 0x0204#16 || c.opcode == 0x0201#16) && c.args.headD 0#64 == job &&
  c.phase == .waiting

/-- Every command that waits on a job completes with ST_ABORTED (R288, R301, R361); the RESULT of a `job.await` is the Bell that stopped the
job (R362). -/
def abortJobCmds (job : Word) (res : Nat) (s : State) : State :=
  forEach (s.innk.cmds.map (·.1)) (fun id t =>
    match getCmd t id with
    | some c => if waitsOnJob c job then finishCmd id stAborted (if c.opcode == 0x0204#16 then res else 0) t else t
    | none => t) s

/-- Record a frame or message the network engine sends. -/
def netSend (m : TxMsg) (s : State) : State := modNet (fun n => { n with tx := m :: n.tx }) s

/-- Both IOD spurs are lost (R243). -/
def iodCut (s : State) : Bool := s.ldg.linkLost.getLsbD 6 && s.ldg.linkLost.getLsbD 7

/-- Whether any unit has been lost since module reset (R304). -/
def degraded (s : State) : Bool :=
  s.ldg.cdLost != 0#8 || s.ldg.msLost != 0#8 || s.ldg.linkLost != 0#8 || s.ldg.halfLost != 0#8 ||
  !(getPx s 0).live || !(getPx s 1).live

/-- The conditions the bits of MGT_EVENT follow, bit 0 first (R559). -/
def eventConds (s : State) : List Bool :=
  [s.pwr.trip.tripped == 1#1, s.pwr.unmet, s.pwr.telemLost, s.pwr.inletHigh, s.pwr.flowLow, s.pwr.coolantWarn,
   s.innk.innk.halted == 1#1, s.sec.innkFail, s.sec.pxRefused,
   s.ldg.msLost.getLsbD 0 && s.ldg.msLost.getLsbD 2, degraded s, iodCut s,
   s.ctls.any (fun p => p.2.pinFaultFlag == 1#1)]

/-- The word of the event bits. -/
def eventBits (s : State) : BitVec 13 :=
  BitVec.ofNat 13 ((eventConds s).foldr (fun b n => 2 * n + b.toNat) 0)

/-- MGT_EVENT takes its conditions; for each bit that rises, in ascending order, an In-Band Interrupt is raised if
enabled (R546) and a sensor event is queued, and sent if none waits before it (R551). -/
def syncEvents (s : State) : State :=
  let cur := eventBits s
  let rose := (List.range 13).filter (fun i => cur.getLsbD i && !s.sb.event.getLsbD i)
  modSb (fun b => { b with
    event := cur
    ibis := if b.ibiEn && b.onBus then b.ibis ++ rose else b.ibis
    waiting := if b.receiver.isSome then b.waiting ++ rose else b.waiting
    sent := if b.receiver.isSome && b.waiting.isEmpty then b.sent ++ rose.take 1 else b.sent }) s

end Sys2Proof.Machine
end

