-- ==== Sys2Proof/Machine/NetBase.lean ====
section
/-! DEFINITION. The network engine's ports, their addresses and transmit queues, the headers and bytes of Relay packets, Relay connections, and
the sending of CTRL messages (R377 to R381, R383, R384, R395, R404, R405). -/

namespace Sys2Proof

/-- A packet carries ECN CE (R385, R392). -/
def IpHdr.ce (h : IpHdr) : Bool := h.ecn == 3#2
def RelayPkt.ce (p : RelayPkt) : Bool := p.ip.ce
def RocePkt.ce (p : RocePkt) : Bool := p.ip.ce
def CtrlMsg.ce (m : CtrlMsg) : Bool := m.ip.ce

/-- A little-endian field of a CTRL message's payload (R405). -/
def CtrlMsg.field (m : CtrlMsg) (off n : Nat) : Nat := Machine.bytesNat ((m.payload.drop off).take n)

-- the fields of R405
def CtrlMsg.job (m : CtrlMsg) : BitVec 64 := BitVec.ofNat 64 (m.field 0x00 8)
def CtrlMsg.sender (m : CtrlMsg) : BitVec 64 := BitVec.ofNat 64 (m.field 0x08 8)
def CtrlMsg.round (m : CtrlMsg) : Nat := m.field 0x10 1
def CtrlMsg.members (m : CtrlMsg) : Nat := m.field 0x12 2
def CtrlMsg.connId (m : CtrlMsg) : BitVec 32 := BitVec.ofNat 32 (m.field 0x14 4)
def CtrlMsg.bell (m : CtrlMsg) : Nat := m.field 0x18 8
def CtrlMsg.stages (m : CtrlMsg) : Nat := m.field 0x20 8
def CtrlMsg.ckpt (m : CtrlMsg) : Option Nat := if m.field 0x28 8 = 2 ^ 64 - 1 then none else some (m.field 0x28 8)
def CtrlMsg.mhash (m : CtrlMsg) : BitVec 256 := BitVec.ofNat 256 (m.field 0x30 32)
def CtrlMsg.map (m : CtrlMsg) : List Nat :=
  let bs := m.payload.drop 0x50
  ((List.range bs.length).zip bs).flatMap (fun p => ((List.range 8).filter (fun j => p.2.getLsbD j)).map (fun j => 8 * p.1 + j))

/-- The length of a CTRL message's payload, by its kind (R405). -/
def ctrlLen (kind : Nat) : Nat := if kind = 2 ∨ kind = 3 then 592 else 80

/-- A CTRL message has its kind's length, and its unused fields and its reserved byte are 0 (R405). -/
def CtrlMsg.wellFormed (m : CtrlMsg) (kind : Nat) : Bool :=
  decide (m.payload.length = ctrlLen kind) && m.imm == 0#32 && m.addr == 0#64 && m.field 0x11 1 == 0 &&
  (kind != 1 || m.job == 0#64) &&
  ([2, 3, 5].contains kind || m.round == 0) &&
  (kind == 2 || (m.members == 0 && m.stages == 0 && m.mhash == 0#256)) &&
  (kind == 1 || m.connId == 0#32) &&
  ([2, 4, 6, 8].contains kind || m.bell == 0) &&
  ([6, 7, 8].contains kind || m.field 0x28 8 == 0)

end Sys2Proof

namespace Sys2Proof.Machine

/-- A port. -/
def getPort (s : State) (n : Nat) : Port := tabGet {} s.net.ports n

/-- Change a port. -/
def modPort (n : Nat) (f : Port → Port) (s : State) : State :=
  modNet (fun e => { e with ports := tabSet {} e.ports n (f (getPort s n)) }) s

/-- The lanes of a port are given to the Pacel link (R417). -/
def pacelTakes (s : State) (n : Nat) : Bool := s.net.pacel.enabled && (n == 6 || n == 7)

/-- A port is in service: its link is up and it carries Ethernet (R379, R417). -/
def portUp (s : State) (n : Nat) : Bool := decide (n < 8) && (getPort s n).up && !pacelTakes s n

/-- A connection. -/
def getConn (s : State) (id : Nat) : Option Conn := tabGet none s.net.conns id

/-- Write or remove a connection. -/
def setConn (id : Nat) (v : Option Conn) (s : State) : State := modNet (fun e => { e with conns := tabSet none e.conns id v }) s

/-- Change a connection, if there is one. -/
def modConn (id : Nat) (f : Conn → Conn) (s : State) : State := setConn id ((getConn s id).map f) s

/-- A guest. -/
def getGuest (s : State) (g : Nat) : Guest := tabGet {} s.net.guests g

/-- Change a guest. -/
def modGuest (g : Nat) (f : Guest → Guest) (s : State) : State :=
  modNet (fun e => { e with guests := tabSet {} e.guests g (f (getGuest s g)) }) s

/-- The connection to a peer. -/
def connOf (s : State) (p : Peer) : Option Nat :=
  s.net.conns.findSome? (fun q => match q.2 with | some c => if c.peer = p then some q.1 else none | none => none)

-- addresses (R380)

/-- The IPv6 address of a device's port (R380). -/
def deviceIp (s : State) (d : Word) (n : Nat) : BitVec 128 :=
  (s.net.fabric.prefix_.setWidth 128 <<< 64) ||| ((d.setWidth 56).setWidth 128 <<< 8) ||| BitVec.ofNat 128 n

/-- The IPv6 address of a port (R380). -/
def portIp6 (s : State) (n : Nat) : BitVec 128 := deviceIp s Config.deviceId n

/-- A port's IPv4 address, if it has one, and its IPv4-mapped form (R380, R394). -/
def portIp4 (s : State) (n : Nat) : Option (BitVec 32) := let v := (getPort s n).v4.addr; if v = 0#32 then none else some v
def mapped4 (v : BitVec 32) : BitVec 128 := (0xFFFF#128 <<< 32) ||| v.setWidth 128

/-- The address a port sends from, for a version of IP. -/
def portIp (s : State) (n : Nat) (v6 : Bool) : BitVec 128 := if v6 then portIp6 s n else mapped4 ((getPort s n).v4.addr)

/-- An address is one of a port's own (R380). -/
def addressed (s : State) (n : Nat) (v6 : Bool) (ip : BitVec 128) : Bool :=
  if v6 then portIp6 s n == ip else (portIp4 s n).map mapped4 == some ip

/-- An address is a peer's: one of the eight of a device, or the one of a guest's endpoint record (R380, R394). -/
def peerHas (s : State) (p : Peer) (ip : BitVec 128) : Bool :=
  match p with
  | .device d => (List.range 8).any (fun n => deviceIp s d n == ip)
  | .guest g => match (getGuest s g).endpoint with
    | some e => e.ip == ip
    | none => false

/-- The headers of a Relay packet to a peer (R380, R381): between devices IPv6 alone. ECT(0) is 2 (PRESUMED, RFC 3168). -/
def relayHdr (s : State) (port : Nat) (p : Peer) (psn : Nat) : IpHdr :=
  let h (v6 : Bool) (dst : BitVec 128) (dscp : BitVec 6) : IpHdr :=
    { v6 := v6, src := portIp s port v6, dst := dst, dscp := dscp, ecn := 2#2
      sport := BitVec.ofNat 16 (49152 + psn % 16384), dport := s.net.cfgEff.relayUdp }
  match p with
  | .device d => h true (deviceIp s d (Config.peerPort port psn).toNat) s.net.cfgEff.dscp
  | .guest g => match (getGuest s g).endpoint with
    | some e => h (e.ipver == 6) e.ip (BitVec.ofNat 6 e.dscp)
    | none => h true 0#128 0#6

-- the bytes of a Relay packet (R381)

/-- CRC-32C, the Castagnoli polynomial, reflected (R381; its parameters are PRESUMED, the spec names the code alone). -/
def crcBit (c : BitVec 32) : BitVec 32 := if c.getLsbD 0 then (c >>> 1) ^^^ 0x82F63B78#32 else c >>> 1
def crcByte (c : BitVec 32) (b : Byte) : BitVec 32 := (List.range 8).foldl (fun x _ => crcBit x) (c ^^^ b.setWidth 32)
def crc32c (bs : List Byte) : BitVec 32 := ~~~(bs.foldl crcByte (BitVec.allOnes 32))

/-- The 32-byte Relay header (R381). Of what the device sends only peer DATA has an immediate; whether its IMM_VALID is set is free. -/
def RelayTx.header (x : RelayTx) : List Byte :=
  [1#8, BitVec.ofNat 8 x.type] ++
  wordBytes 2 (BitVec.ofNat 16 ((if x.last then 1 else 0) + (if x.retx then 2 else 0) + (if x.imm.isSome && Config.peerImmValid then 4 else 0))) ++
  wordBytes 4 x.conn ++ wordBytes 4 (BitVec.ofNat 32 x.psn) ++ wordBytes 4 (x.imm.getD 0#32) ++ wordBytes 8 (BitVec.ofNat 64 x.addr) ++
  wordBytes 2 (BitVec.ofNat 16 x.payload.length) ++ wordBytes 2 (BitVec.ofNat 16 x.ord) ++ List.replicate 4 0#8

/-- A Relay packet from its Relay header on: header, payload, and the CRC-32C over both (R381). -/
def RelayTx.bytes (x : RelayTx) : List Byte :=
  let b := x.header ++ x.payload
  b ++ wordBytes 4 (crc32c b)

/-- The payload of a CTRL message of this device (R405). -/
def CtrlOut.bytes (m : CtrlOut) : List Byte :=
  wordBytes 8 m.job ++ wordBytes 8 Config.deviceId ++ [BitVec.ofNat 8 m.round, 0#8] ++ wordBytes 2 (BitVec.ofNat 16 m.members) ++
  wordBytes 4 m.connId ++ wordBytes 8 (BitVec.ofNat 64 m.bell) ++ wordBytes 8 (BitVec.ofNat 64 m.stages) ++
  wordBytes 8 (if m.kind = 6 ∨ m.kind = 7 ∨ m.kind = 8 then BitVec.ofNat 64 (m.ckpt.getD (2 ^ 64 - 1)) else 0#64) ++ wordBytes 32 m.mhash ++
  (if m.kind = 2 ∨ m.kind = 3 then
    (List.range 512).map (fun i => BitVec.ofNat 8 (((List.range 8).map (fun j => if m.map.contains (8 * i + j) then 2 ^ j else 0)).foldl (· + ·) 0))
  else [])

-- the transmit queue of a port (R378, R384, R395)

/-- The bytes of a frame around its IP payload: Ethernet and IP headers, FCS (PRESUMED: IEEE 802.3 and the IP headers without options). -/
def frameBytes (v6 : Bool) (n : Nat) : Nat := 14 + (if v6 then 40 else 20) + n + 4

/-- A frame joins a port's transmit queue. -/
def queueFrame (n : Nat) (f : TxFrame) (s : State) : State := modPort n (fun p => { p with txq := p.txq ++ [f] }) s

/-- How many bytes wait in a port's transmit queue. -/
def Port.queued (p : Port) : Nat := (p.txq.map (·.len)).foldl (· + ·) 0

/-- The first frame of every flow, of RoCEv2 only where priority flow control does not hold it back (R378). -/
def Port.heads (p : Port) (paused : Bool) : List TxFrame :=
  (p.txq.foldl (fun acc f => if acc.any (fun g => g.flow == f.flow) then acc else acc ++ [f]) []).filter
    (fun f => match f.flow with | .qp _ => !paused | _ => true)

/-- The class served next (R395): strict priority, but class 3 has at least 1/8 of the bytes while it has data waiting. -/
def Port.nextClass (p : Port) (hs : List TxFrame) : Nat :=
  let best := hs.foldl (fun c f => min c f.cls) 3
  let len := match hs.find? (fun f => f.cls == best) with | some f => f.len | none => 0
  if hs.any (fun f => f.cls == 3) && decide (8 * p.share.1 < p.share.2 + len) then 3 else best

/-- Deficit round robin with a quantum of 4,096 bytes (R395): the flow in front sends while its deficit covers its first frame, and takes
its next quantum at the back. -/
def drr : Nat → List TxFrame → List (TxFlow × Nat) → Option (TxFrame × List (TxFlow × Nat))
  | 0, _, _ => none
  | _, _, [] => none
  | k + 1, hs, (fl, d) :: rest =>
    match hs.find? (fun f => f.flow == fl) with
    | none => drr k hs rest
    | some f => if f.len ≤ d then some (f, (fl, d - f.len) :: rest) else drr k hs (rest ++ [(fl, d + 4096)])

/-- The frame that leaves next, and the port once it has left (R395). -/
def Port.sendOne (p : Port) (paused : Bool) : Option (TxFrame × Port) :=
  let hs := p.heads paused
  let c := p.nextClass hs
  let mine := hs.filter (fun f => f.cls == c)
  let turns := p.turns.filter (fun t => mine.any (fun f => f.flow == t.1))
  let fresh := (mine.filter (fun f => !turns.any (fun t => t.1 == f.flow))).map (fun f => (f.flow, 0))
  match drr (4 * mine.length + 4) mine (turns ++ fresh) with
  | none => none
  | some (f, ts) =>
    let q := p.txq.erase f
    let more := q.any (fun x => x.cls == 3)
    some (f, { p with
      txq := q
      turns := (p.turns.filter (fun t => !mine.any (fun x => x.flow == t.1)) ++ ts).filter (fun t => q.any (fun x => x.flow == t.1))
      line := if q.isEmpty then 0 else p.line - f.len
      share := if more then (p.share.1 + (if f.cls = 3 then f.len else 0), p.share.2 + f.len) else (0, 0) })

/-- Frames leave as long as the line could have carried them. -/
def Port.drain (paused : Bool) : Nat → Port → List TxMsg → Port × List TxMsg
  | 0, p, out => (p, out)
  | k + 1, p, out =>
    match p.sendOne paused with
    | some (f, q) => if f.len ≤ p.line then Port.drain paused k q (f.msg :: out) else (p, out)
    | none => (p, out)

/-- Priority flow control holds RoCEv2 on a port back (R378). -/
def pfcPaused (s : State) (port : Nat) : Bool :=
  s.net.cfgEff.pfcEn == 1#1 && (getPort s port).paused.getLsbD s.net.cfgEff.pfcPrio.toNat

/-- Nanoseconds pass on a port's line: it carries 100 bytes in each (R378: 800 Gb/s). -/
def linePasses (ns n : Nat) (s : State) : State :=
  let p := getPort s n
  if p.txq.isEmpty || !portUp s n then s
  else
    let r := ({ p with line := p.line + 100 * ns }).drain (pfcPaused s n) p.txq.length []
    modNet (fun e => { e with tx := r.2 ++ e.tx }) (modPort n (fun _ => r.1) s)

/-- A guest connection uses the ports its endpoint record allows, a peer connection every port (R384, R394). -/
def portAllowed (s : State) (p : Peer) (n : Nat) : Bool :=
  match p with
  | .device _ => true
  | .guest g => match (getGuest s g).endpoint with
    | some e => e.port == 0xFF || e.port == n
    | none => true

/-- The next in-service port in rotation whose transmit queue holds no more than 256 KiB (R384). -/
def pickPort (s : State) (p : Peer) (from_ : Nat) : Option Nat :=
  ((List.range 8).map (fun i => (from_ + i) % 8)).find? (fun n => portUp s n && portAllowed s p n && decide ((getPort s n).queued ≤ 262144))

/-- A Relay packet of a connection joins the transmit queue of its port. -/
def sendRelay (id cls : Nat) (p : Peer) (x : RelayTx) (s : State) : State :=
  let x := { x with ip := relayHdr s x.port p x.psn }
  queueFrame x.port { cls := cls, flow := .conn id cls, len := frameBytes x.ip.v6 (8 + 32 + x.payload.length + 4), msg := .relay x } s

/-- An answer of the engine itself joins a port's transmit queue; the spec gives such frames no class, they go with class 1. -/
def sendOwn (n len : Nat) (m : TxMsg) (s : State) : State := queueFrame n { cls := 1, flow := .own, len := len, msg := m } s

/-- A packet whose headers are filled in as it joins the queue. -/
def noHdr : IpHdr := { v6 := true, src := 0#128, dst := 0#128, dscp := 0#6, ecn := 0#2, sport := 0#16, dport := 0#16 }

/-- A CTRL message as a packet (R405). -/
def ctrlPacket (port : Nat) (conn : BitVec 32) (psn : Nat) (m : CtrlOut) : RelayTx :=
  { port := port, ip := noHdr, type := 6, conn := conn, psn := psn, ord := m.kind, payload := m.bytes }

/-- One CTRL message leaves, if a port takes it and the congestion window allows (R384, R387, R405). HELLO opens the connection; every other
message waits until it is open. -/
def sendCtrlNow (id : Nat) (s : State) : State :=
  match getConn s id with
  | none => s
  | some c =>
    match c.ctrlq, pickPort s c.peer c.nextPort with
    | m :: rest, some port =>
      if (c.opened || m.kind == 1) && decide (c.unacked.length < c.window) then
        let u : Unacked := { psn := c.txPsn, owner := .ctrl, type := 6, addr := 0, ord := m.kind, payload := m.bytes }
        sendRelay id 1 c.peer (ctrlPacket port c.remoteId c.txPsn m) (setConn id (some { c with
          ctrlq := rest, nextPort := (port + 1) % 8, txPsn := (c.txPsn + 1) % 2 ^ 32, unacked := c.unacked ++ [u] }) s)
      else s
    | _, _ => s

/-- Every CTRL message that can leave does (R395: they go first). -/
def pumpCtrl (id : Nat) (s : State) : State :=
  match getConn s id with
  | none => s
  | some c => forEach c.ctrlq (fun _ t => sendCtrlNow id t) s

/-- Send a CTRL message to a peer device (R404). -/
def sendCtrl (dev : Word) (m : CtrlOut) (s : State) : State :=
  match connOf s (.device dev) with
  | none => s
  | some id => pumpCtrl id (modConn id (fun c => { c with ctrlq := c.ctrlq ++ [m] }) s)

/-- The congestion window a connection opens with (R387). -/
def firstWindow (s : State) : Nat := min 64 s.net.relayEff.wmax.toNat

/-- No congestion window exceeds WMAX (R387). -/
def clampWindows (s : State) : State :=
  modNet (fun e => { e with conns := e.conns.map (fun p => (p.1, p.2.map (fun c => { c with window := min c.window e.relayEff.wmax.toNat }))) }) s

/-- Open a connection: a local identifier is assigned and HELLO sent (R383). Nothing is done if one exists. -/
def openConn (p : Peer) (s : State) : State :=
  match connOf s p with
  | some _ => s
  | none =>
    let id := s.net.nextConn
    let s := modNet (fun e => { e with nextConn := id + 1 }) s
    pumpCtrl id (setConn id (some { peer := p, window := firstWindow s, ctrlq := [{ kind := 1, connId := BitVec.ofNat 32 id }] }) s)

/-- What is queued on behalf of an owner is not sent, its answers are awaited no more; packets that have their place in the sequence keep it,
but their acknowledgements count for nobody (R283, R285, R439). -/
def dropTx (mine : TxOwner → Bool) (s : State) : State :=
  let orphan (u : Unacked) : Unacked := if mine u.owner then { u with owner := .dropped } else u
  let keepC (c : Conn) : Conn := { c with
    queue := c.queue.filter (fun r => !mine r.owner), reads := c.reads.filter (fun r => !mine r.owner), unacked := c.unacked.map orphan }
  let keepQ (q : Qp) : Qp := { q with
    queue := q.queue.filter (fun r => !mine r.owner), reads := q.reads.filter (fun r => !mine r.owner), unacked := q.unacked.map orphan }
  modNet (fun e => { e with
    flows := e.flows.filter (fun f => !mine f.owner)
    conns := e.conns.map (fun p => (p.1, p.2.map keepC))
    guests := e.guests.map (fun p => (p.1, { p.2 with qp := p.2.qp.map keepQ }))
    pacel := { e.pacel with queue := e.pacel.queue.filter (fun r => !mine r.owner), sentBuf := e.pacel.sentBuf.map orphan } }) s

/-- The owner is a transfer of an itinerary's leg. -/
def TxOwner.ofLeg (k : Nat) : TxOwner → Bool
  | .send i _ _ => i == k
  | .desc _ (.leg i _ _) => i == k
  | _ => false

end Sys2Proof.Machine
end

