-- ==== Sys2Proof/Machine/Faults.lean ====
section
/-! DEFINITION. Stage faults, discards and repeated faults (R282 to R288), job stops, and the state-loss faults with the
fencing of lost units (R242, R243, R261, R262, R269, R293, R294, R456). -/

namespace Sys2Proof.Machine

/-- A core whose leg is discarded: its queues are abandoned and its flags cleared without being recorded (R133, R283). -/
def Core.stopWork (c : Core) : Core :=
  { c with mxq := [], vcq := []
           mxFlags := { c.mxFlags with of := 0#1, uf := 0#1, nx := 0#1, nv := 0#1 }
           vcFlags := { c.vcFlags with of := 0#1, uf := 0#1, nx := 0#1, nv := 0#1 } }

/-- A cluster whose leg is discarded: its cores stop issuing and its copy engine abandons its requests (R83, R283). -/
def Cluster.stopWork (c : Cluster) : Cluster :=
  { c with stopped := true, cpyQ := [], cores := c.cores.map (fun p => (p.1, p.2.stopWork)) }

/-- Descriptors of an itinerary's running leg. -/
def Owner.ofLeg (k : Nat) : Owner → Bool
  | .leg i _ _ => i == k
  | .cmd _ _ => false

/-- Everything a leg runs is stopped, everywhere on the device (R283, R285, R438): remaining entries, cores, copy engines,
porter descriptors and sends; receives go on collecting. -/
def stopLegWork (k : Nat) (leg : Leg) (s : State) : State :=
  let s := forEach leg.clusters (fun c t => modCluster c Cluster.stopWork t) s
  let s := { s with porters := s.porters.map (fun p => (p.1, { p.2 with legQ := p.2.legQ.filter (fun d => !d.owner.ofLeg k) })) }
  let s := dropTx (TxOwner.ofLeg k) s
  modNet (fun n => { n with
    sends := n.sends.filter (fun x => x.itin != k)
    recvs := n.recvs.map (fun r => if r.itin = k then { r with posted := false } else r) }) s

/-- A job that has ended collects no bytes any more: what landed for its receives is forgotten (R285, R363). -/
def dropRecvs (k : Nat) (s : State) : State := modNet (fun n => { n with recvs := n.recvs.filter (fun r => r.itin != k) }) s

/-- The job stage number a job runs next (R39). -/
def Itin.nextJsn (i : Itin) : Nat :=
  match i.job with
  | some j => j.next
  | none => 0

/-- A job ends (R288, R301, R361, R243): no leg of it runs any more, and its STOPPED record is due at the next Bell. -/
def stopJob (k : Nat) (fclass : Nat) (fault : Option FaultInfo) (s : State) : State :=
  match getItin s k with
  | none => s
  | some it =>
    match it.job with
    | none => s
    | some j =>
      if j.st = .stopped then s
      else
      let s := match it.leg with
        | some l => stopLegWork k l s
        | none => s
      let s := dropRecvs k s
      let s := modItin k (fun i => { i with
        leg := none, replayAfter := none, reselect := false, job := some { j with st := if j.st = .finished then .finished else .stopped } }) s
      modLdg (fun l => { l with
        stops := l.stops ++ [{ itin := k, job := j.id, jsn := j.next, fclass := fclass, leg := it.leg, fault := fault }]
        faults := if fclass = 0x20 ∨ fclass = 0x21 then { l.faults with stops := satInc l.faults.stops } else l.faults }) s

/-- The cluster that repeated POISON of its own making names (R288): every counted discard and the acting one are POISON
exceptions raised in one cluster by poison the cluster created itself. -/
def ownPoisonCluster (fi : FaultInfo) (hist : List FaultInfo) : Option Nat :=
  if (fi :: hist).all (fun f => f.fclass == 1 && f.cause == 8 && f.ownPoison && f.cluster == fi.cluster) then some fi.cluster
  else none

/-- A cluster is taken out of service (R288, R349): CL_CTL.OFFLINE, with its error record. -/
def takeOffline (c : Nat) (s : State) : State :=
  logErr { cls := 0x0C, action := 3, source := 0x01, unit := c } (modCluster c (fun x => { x with offline := true }) s)

/-- The running leg of an itinerary is discarded by a stage fault (R283, R286, R288). -/
def discardLeg (k : Nat) (fi : FaultInfo) (s : State) : State :=
  match getItin s k with
  | none => s
  | some it =>
    match it.leg with
    | none => s
    | some leg =>
      let s := stopLegWork k leg s
      let now := s.stg.ptpNow
      let s := modLdg (fun l => { l with discards := l.discards ++ [{ itin := k, leg := leg, fault := fi, time := now, bell := s.stg.num }] }) s
      if fi.fclass = 0x10 then
        modItin k (fun i => { i with leg := none, replayAfter := none, isReplay := false, discards := 0, history := [] }) s
      else
        let rmax := s.ldg.cfgEff.replayMax.toNat
        let acting := decide (rmax ≤ it.discards)
        let s := modItin k (fun i => { i with
          leg := none, replayAfter := some (now + 10000), isReplay := true
          discards := i.discards + 1, history := (fi :: i.history).take rmax }) s
        if acting then
          match ownPoisonCluster fi (it.history.take rmax) with
          | some c =>
            let s := takeOffline c s
            forEach (itinSlots s) (fun j t => modItin j (fun i => if (i.binding.getD []).contains c then { i with reselect := true } else i) t) s
          | none => stopJob k 0x20 (some fi) s
        else s

/-- A stage fault is reported: it counts once and discards the legs it names (R282, R283). -/
def stageFault (ks : List Nat) (fi : FaultInfo) (s : State) : State :=
  let s := modLdg (fun l => { l with faultCount := l.faultCount + 1, faults := { l.faults with stageFaults := satInc l.faults.stageFaults } }) s
  forEach ks (fun k t => discardLeg k fi t) s

/-- Every itinerary with a running leg. -/
def runningItins (s : State) : List Nat :=
  s.itins.filterMap (fun p => match p.2 with | some i => if i.leg.isSome then some p.1 else none | none => none)

/-- Regions after the loss of a stack or of its home (R261, R262): a mirrored region is served from its copy, an unmirrored one
is unmapped, one whose copy lay there keeps its primary alone. -/
def Region.afterLoss (n : Nat) (r : Region) : Option Region :=
  let own := r.home r.base
  if own = n then
    if r.mirrored && r.mirrorNext.isNone && !r.fromCopy then some { r with mirrored := false, fromCopy := true }
    else none
  else if r.mirrored && partnerOf (stackOf r.base) = n then some { r with mirrored := false, mirrorNext := none }
  else some r

/-- The commands of the regions that the loss of a stack leaves without what they ask for complete with ST_ABORTED. -/
def abortRegionCmds (n : Nat) (s : State) : State :=
  forEach s.regions (fun r t =>
    if r.home r.base = n || partnerOf (stackOf r.base) = n then
      match r.mirrorCmd with
      | some c => finishCmd c stAborted 0 t
      | none => t
    else t) s

/-- An address is served by a home. -/
def lineHomedAt (s : State) (n line : Nat) : Bool :=
  match regionAt s (line * 128) with
  | some r => r.home (line * 128) == n
  | none => stackOf (line * 128) == n

/-- A home's lines, directory and buffers are dropped, its registers kept; a pin that is still being fetched ends (R210); its foreign lines go with it, and so do the copies of
its lines in the partner half and in the processor caches (R201, R210). -/
def dropHome (n : Nat) (s : State) : State :=
  let lost (l : Nat) : Bool := lineHomedAt s n l
  let s := forEach (((getHome s n).pinWait.map (·.2)).eraseDups) (fun c t => finishCmd c stAborted 0 t) s
  let s := modHome n (fun h => { h with lines := [], evb := [], dir := [], snoops := [], voided := [], pinWait := [], flushLines := [], deadList := [] }) s
  let s := modHome (otherHalf n) (fun h => { h with lines := h.lines.filter (fun p => match p.2 with | some x => !(x.foreign && lost p.1) | none => true) }) s
  { s with px := s.px.map (fun p => (p.1, PxDie.lose lost { p.2 with cache := p.2.cache.filter (fun q => !lost q.1) })) }

/-- A stack's contents are out of reach: its lines leave the home, its regions follow R261 and R262, its write-combining buffer
is lost. -/
def fenceStack (n : Nat) (s : State) : State :=
  let s := dropHome n s
  let s := abortRegionCmds n s
  let s := modCtl n (fun c => { c with wcb := [] }) s
  { s with regions := s.regions.filterMap (Region.afterLoss n) }

/-- A stack leaves service (R269). -/
def loseStackUnit (n : Nat) (s : State) : State :=
  if stackLive s n then fenceStack n (modLdg (fun l => { l with msLost := setBit l.msLost n }) s) else s

/-- An L2 half leaves service, and its stack with it (R201, R293). -/
def loseHalfUnit (n : Nat) (s : State) : State :=
  if halfLive s n then loseStackUnit n (modLdg (fun l => { l with halfLost := setBit l.halfLost n }) s) else s

/-- The compute dies a link joins (R239). -/
def linkDies (n : Nat) : List Nat :=
  match n with
  | 0 => [0, 1] | 1 => [1, 2] | 2 => [2, 3] | 3 => [3, 0] | 4 => [0] | 5 => [1] | 6 => [0] | 7 => [1] | _ => []

/-- A link leaves service. -/
def loseLinkUnit (n : Nat) (s : State) : State :=
  if s.variant.hasLink n then
    modSb (fun b => { b with links := tabSet {} b.links n (let k := tabGet {} b.links n; { k with regs := { k.regs with live := 0#1 } }) })
      (modLdg (fun l => { l with linkLost := setBit l.linkLost n }) s)
  else s

/-- A link is fitted and in service. -/
def linkLive (s : State) (n : Nat) : Bool := s.variant.hasLink n && !s.ldg.linkLost.getLsbD n

/-- Homes poison each line owned by a lost processor die and clear it from the presence masks (R456). -/
def Home.losePx (d : Nat) (h : Home) : Home :=
  let owned := (h.dir.filter (fun p => p.2 == .owned d)).map (·.1)
  let bad : List Sector := List.replicate 4 { valid := true, dirty := true, poison := true }
  { h with
    lines := owned.foldl (fun t l => tabSet none t l (some (match tabGet none t l with
      | some x => { x with sectors := x.sectors.map (fun y => { y with valid := true, dirty := true, poison := true }) }
      | none => { sectors := bad, used := h.clock }))) h.lines
    dir := (h.dir.map (fun p => (p.1, match p.2 with
      | .owned e => if e = d then Dir.invalid else .owned e
      | .shared a b c => if d = 0 then (if b || c then .shared false b c else .invalid) else (if a || c then .shared a false c else .invalid)
      | .invalid => .invalid))).filter (fun p => p.2 != .invalid)
    snoops := h.snoops.filter (fun x => x.die != d) }

/-- A processor die leaves service (R456). -/
def losePx (d : Nat) (s : State) : State :=
  let s := modPx d (fun p => { p with live := false, cache := [], harts := p.harts.map (fun q => (q.1, { q.2 with released := false, reservation := none })) }) s
  { s with homes := s.homes.map (fun p => (p.1, p.2.losePx d)) }

/-- A compute die leaves service with its halves, their stacks and its links (R293). A spur's loss takes the processor die
behind it. -/
def loseDieUnit (d : Nat) (s : State) : State :=
  if dieLive s d then
    let s := loseHalfUnit (2 * d + 1) (loseHalfUnit (2 * d) s)
    let s := modLdg (fun l => { l with cdLost := setBit l.cdLost d }) s
    let s := forEach ((List.range 8).filter (fun n => (linkDies n).contains d)) loseLinkUnit s
    let s := if d = 0 then losePx 0 s else s
    if d = 1 then losePx 1 s else s
  else s

/-- The ring links from one compute die to another, in ascending or in descending die order (R239). -/
def ringWay : Nat → Bool → Nat → Nat → List Nat
  | 0, _, _, _ => []
  | k + 1, up, a, b =>
    if a = b then [] else if up then a :: ringWay k up ((a + 1) % 4) b else (a + 3) % 4 :: ringWay k up ((a + 3) % 4) b

/-- Where a request starts or ends: a compute die, a processor die, or the IOD. -/
inductive FabricEnd where
  | die (d : Nat)
  | px (d : Nat)
  | iod
deriving DecidableEq, Repr

/-- The ways between two compute dies round the ring, the preferred one first: the shorter, and between opposite dies the one that address
bit 7 chooses (R240). -/
def ringWays (a b : Nat) (bit7 : Bool) : List (List Nat) :=
  let up := ringWay 4 true a b
  let down := ringWay 4 false a b
  if up.length < down.length || (up.length == down.length && !bit7) then [up, down] else [down, up]

/-- The spurs of the IOD with the dies they reach, the one it uses for a die first (R240). -/
def iodSpurs (d : Nat) : List (Nat × Nat) := if d = 0 ∨ d = 3 then [(6, 0), (7, 1)] else [(7, 1), (6, 0)]

/-- Every route between two compute dies, the fixed one first, then those that only a degraded configuration uses: the long way round, and
through the IOD's two spurs (R240). -/
def dieRoutes (a b : Nat) (bit7 : Bool) : List (List Nat) :=
  ringWays a b bit7 ++
    (ringWays a 0 bit7).flatMap (fun x => (ringWays 1 b bit7).map (fun y => x ++ [6, 7] ++ y)) ++
    (ringWays a 1 bit7).flatMap (fun x => (ringWays 0 b bit7).map (fun y => x ++ [7, 6] ++ y))

/-- The routes from where a request starts to its home's die (R240). PX0 enters the ring at CD0, PX1 at CD1. -/
def routesTo (bit7 : Bool) (d : Nat) : FabricEnd → List (List Nat)
  | .die a => dieRoutes a d bit7
  | .px p => (dieRoutes p d bit7).map (fun r => (4 + p) :: r)
  | .iod => (iodSpurs d).flatMap (fun x => (ringWays x.2 d bit7).map (fun r => x.1 :: r))

/-- The links that a request to an address on a die takes: the first of its routes whose links are all in service. The load never changes
it (R240). -/
def route (s : State) (from_ : FabricEnd) (d addr : Nat) : Option (List Nat) :=
  (routesTo (addr.testBit 7) d from_).find? (fun r => r.all (linkLive s))

/-- Compute dies that the device can reach: the IOD has a route to them (R240, R293). -/
def reachableDies (s : State) : List Nat := (List.range 4).filter (fun d => (route s .iod d 0).isSome)

/-- Compute dies that are lost because both halves are lost or because they can no longer be reached (R293). With both IOD spurs
lost, R243 governs and no die is taken for unreachable. A die that is lost so may cut off another, whatever their numbers. -/
def loseUnreachable (s : State) : State :=
  forEach ((List.range 4).flatMap (fun _ => List.range 4)) (fun d t =>
    if dieLive t d && ((!halfLive t (2 * d) && !halfLive t (2 * d + 1)) || (!iodCut t && !(reachableDies t).contains d)) then
      loseDieUnit d t else t) s

/-- The devices an itinerary's peer table names, T-4s excluded (R406, R419). -/
def Itin.devicePeers (i : Itin) : List Word := i.image.peers.filterMap (fun p => match p with | .device d => if Config.isT4 d then none else some d | .guest _ => none)

/-- An itinerary's position at a checkpoint: 0 where its job had not started, or where there is no checkpoint (R291, R294). -/
def Itin.posAt (i : Itin) (ck : Option Nat) : Nat :=
  match ck with
  | none => 0
  | some c => match i.ckptPos.find? (fun p => p.1 == c) with | some p => p.2 | none => 0

/-- A job goes back when the device rolls back: it runs, or it has finished after the checkpoint (R294, R298). -/
def Itin.rollsBack (i : Itin) (ck : Option Nat) : Bool :=
  match i.job with
  | some j => (j.st == .running || j.st == .finished) && decide (i.posAt ck < j.stages)
  | none => false

/-- The notices of R298 and R411: for each job with peer devices that goes back, this device coordinates its rollback, but for one that a device
with a lower identifier already coordinates. -/
def sendRollbacks (s : State) : State :=
  let bell := match s.ldg.rollback with | some r => ceilDiv r.notBefore (lenNs s) | none => 0
  forEach (itinSlots s) (fun k t =>
    match getItin t k with
    | some i =>
      match i.job with
      | some j =>
        let led := t.net.rolls.any (fun r => r.job == j.id && decide (r.coordinator.toNat < Config.deviceId.toNat))
        if i.rollsBack t.ldg.ckpt && !i.devicePeers.isEmpty && !led then
          let t := forEach i.devicePeers (fun p u => sendCtrl p { kind := 6, job := j.id, bell := bell, ckpt := u.ldg.ckpt } u) t
          modNet (fun n => { n with rolls := n.rolls.filter (fun r => r.job != j.id) ++ [{ job := j.id, coordinator := Config.deviceId, replies := [] }] }) t
        else t
      | none => t
    | none => t) s

/-- With both IOD spurs lost (R243) the Innkeeper completes every command of a guest with ST_ABORTED and accepts no more, and
porters and the network engine abandon their work. -/
def cutIod (s : State) : State :=
  if iodCut s then
    let s := forEach (s.innk.cmds.map (·.1)) (fun id t =>
      match getCmd t id with
      | some c => if c.ph < 64 then t else finishCmd id stAborted 0 t
      | none => t) s
    let s := { s with porters := s.porters.map (fun p => (p.1, { p.2 with legQ := [], cmdQ := [] })) }
    let s := dropTx (fun o => match o with | .send _ _ _ => true | .desc _ _ => true | _ => false) s
    modNet (fun n => { n with sends := [], recvs := [] }) (modInnk (fun i => { i with cut := true }) s)
  else s

/-- An entry of a degraded table qualifies (R300). -/
def bodyFits (s : State) (taken : List Nat) (b : Body) : Bool :=
  (BitVec.ofNat 8 b.cdNeed &&& ~~~(cdLiveMask s)) == 0#8 && (BitVec.ofNat 8 b.msNeed &&& ~~~(msLiveMask s)) == 0#8 &&
  b.place.all (fun c => clusterLive s c && !taken.contains c)

/-- The configuration each of some itineraries takes, in ascending slot order: the first entry that qualifies, none where no entry does
(R300). -/
def selection (s : State) : List Nat → List Nat → List (Nat × Option (Nat × List Nat))
  | [], _ => []
  | k :: t, taken =>
    match getItin s k with
    | none => selection s t taken
    | some i =>
      match ((List.range i.image.bodies.length).zip i.image.bodies).find? (fun p => bodyFits s taken p.2) with
      | some p => (k, some (p.1, p.2.place)) :: selection s t (taken ++ p.2.place)
      | none => (k, none) :: selection s t taken

/-- The itineraries that hold clusters. -/
def boundItins (s : State) : List Nat :=
  s.itins.filterMap (fun p => match p.2 with | some i => if i.binding.isSome then some p.1 else none | none => none)

/-- The Innkeeper selects a configuration for every bound itinerary, to take effect at the restart Bell; a job without one is stopped
(R294, R300, R301). -/
def selectForRestart (s : State) : State :=
  forEach (selection s (boundItins s) []) (fun r t =>
    match r.2 with
    | some (n, _) => modItin r.1 (fun i => { i with selected := some n }) t
    | none => stopJob r.1 0x21 none (modItin r.1 (fun i => { i with selected := none }) t)) s

/-- A state-loss fault (R293, R294): after its units are fenced, every uncommitted leg is discarded, a flush in progress is
abandoned, and the restart Bell is set. With the IOD cut off R243 governs instead: nothing is discarded, and the next Bell stops all. -/
def stateLoss (lose : State → State) (addr : Word) (frec : Nat) (s : State) : State :=
  let alive := s
  let s := loseUnreachable (lose s)
  let px := (match s.ldg.rollback with | some r => r.px | none => 0#2) |||
    [0, 1].foldl (fun m d => if (getPx alive d).live && !(getPx s d).live then setBit m d else m) 0#2
  let now := s.stg.ptpNow
  let ks := if iodCut s then [] else runningItins s
  let s := forEach ks (fun k t => discardLeg k { fclass := 0x10, addr := addr, frec := BitVec.ofNat 64 frec } t) s
  let s := modLdg (fun l => { l with
    faultCount := l.faultCount + 1
    faults := { l.faults with stateLoss := satInc l.faults.stateLoss, stageFaults := satAdd l.faults.stageFaults 1 }
    loss := true
    ckptAbandoned := l.ckptAbandoned || l.flushing.isSome
    flushing := none
    pending := 0#8
    rollback := some { faultTime := now, notBefore := now + l.cfgEff.restartMs.toNat * 1000000, px := px } }) s
  let s := { s with homes := s.homes.map (fun p => (p.1, { p.2 with flushLines := [] }))
                    ctls := s.ctls.map (fun p => (p.1, { p.2 with wcb := p.2.wcb.map (fun e => { e with marked := false }) })) }
  syncEvents (cutIod (sendRollbacks (if iodCut s then s else selectForRestart s)))

/-- The loss of a stack (R269), with its error record (R476). -/
def stackLoss (n : Nat) (source unit : Nat) (s : State) : State :=
  if stackLive s n then
    stateLoss (loseStackUnit n) 0#64 s.errSeq (logErr { cls := 0x10, action := 2, source := source, unit := unit } s)
  else s

/-- The loss of an L2 half (R201, R476). -/
def halfLoss (n : Nat) (s : State) : State :=
  if halfLive s n then
    stateLoss (loseHalfUnit n) 0#64 s.errSeq (logErr { cls := 0x0F, action := 2, source := 0x04, unit := n } s)
  else s

/-- The loss of a compute die whose power domain faulted (R293, R476). -/
def dieLoss (d pwd : Nat) (s : State) : State :=
  if dieLive s d then
    stateLoss (loseDieUnit d) 0#64 s.errSeq (logErr { cls := 0x11, action := 2, source := 0x0B, unit := pwd } s)
  else s

/-- The loss of a die-to-die link (R242, R243, R476): DL4 takes PX0 with it and DL5 takes PX1. -/
def linkLoss (n : Nat) (s : State) : State :=
  if linkLive s n then
    let lose (t : State) : State :=
      let t := loseLinkUnit n t
      if n = 4 then losePx 0 t else if n = 5 then losePx 1 t else t
    stateLoss lose 0#64 s.errSeq (logErr { cls := 0x0E, action := 2, source := 0x06, unit := n } s)
  else s

end Sys2Proof.Machine
end

