-- ==== Sys2Proof/Machine/MemCtl.lean ====
section
/-! DEFINITION. The memory controllers (R244 to R253, R256 to R269): the stored sector and its decoding, error records,
page retirement and failing pins, the mirror fallback, and the write-combining buffer. -/

namespace Sys2Proof.Machine

/-- A sector as it moves between units: its data and whether it carries poison (R468). -/
structure SectorVal where
  data : BitVec 256 := 0#256
  poison : Bool := false
deriving DecidableEq, Repr

/-- Twenty-four hours in nanoseconds (R264, R265). -/
def dayNs : Nat := 86400000000000

/-- The failing pin a controller has declared, if any (R265). -/
def Ctl.failingPin (c : Ctl) : Option (Nat × Nat) :=
  if c.pinFaultFlag = 1#1 then some (c.pinPc.toNat, c.pinSymbol.toNat) else none

/-- How many entries of the retired list are valid (R266). -/
def Ctl.retiredCount (c : Ctl) : Nat := c.retired.countP (fun p => p.2.valid == 1#1)

/-- The lowest entry of the retired list that is free (R266). -/
def Ctl.freeRet (c : Ctl) : Option Nat := (List.range 256).find? (fun i => (tabGet {} c.retired i).valid == 0#1)

/-- A page of a stack is on its retired list, pending or not. -/
def pageListed (s : State) (page : Nat) : Bool :=
  (getCtl s (stackOf (page * 4096))).retired.any (fun p => p.2.valid == 1#1 && p.2.addr.toNat == page * 4096)

/-- A page is on the retired list and no longer pending (R266). -/
def pageRetired (s : State) (page : Nat) : Bool :=
  (getCtl s (stackOf (page * 4096))).retired.any (fun p => p.2.valid == 1#1 && p.2.pending == 0#1 && p.2.addr.toNat == page * 4096)

/-- An error record of a memory controller (R263, R475). -/
def memErrRec (a cls : Nat) (syn : BitVec 32) (sym : Nat) (v : Byte) : ErrRec :=
  { cls := cls, source := 0x05, unit := stackOf a, sub := dramPc a + 64 * dramBank a, addr := BitVec.ofNat 64 a,
    row := dramRow a, syndrome := syn, symbol := sym, evalue := v }

/-- A page is retired, or marked pending while a region maps it (R264, R266, R267). -/
def retirePage (page : Nat) (s : State) : State :=
  let n := stackOf (page * 4096)
  if pageListed s page then s
  else match (getCtl s n).freeRet with
    | none => s
    | some i =>
      let mapped := s.regions.any (fun r => overlaps r.base r.len (page * 4096) 4096)
      let entry : MemRetReg := { addr := BitVec.ofNat 52 (page * 4096), pending := boolBit mapped, valid := 1#1 }
      let s := modCtl n (fun c => { c with retired := tabSet {} c.retired i entry }) s
      logErr (memErrRec (page * 4096) 0x0B 0#32 0xFF 0#8) s

/-- Corrected errors of a page in the last 24 hours, and retirement at CE_RETIRE of them (R264). -/
def countPage (a : Nat) (s : State) : State :=
  let n := stackOf a
  let now := s.stg.upNs
  let s := modCtl n (fun c => { c with ce := { page := a / 4096, time := now } :: c.ce.filter (fun e => decide (now < e.time + dayNs)) }) s
  let c := getCtl s n
  if c.cfgEff.ceRetire.toNat ≤ c.ce.countP (fun e => e.page == a / 4096) then retirePage (a / 4096) s else s

/-- The rows of one pseudo-channel and symbol with corrections in the last 24 hours. -/
def Ctl.pinRowsSeen (c : Ctl) (pc sym : Nat) : Nat :=
  ((c.pins.filter (fun e => e.pc == pc && e.symbol == sym)).map (·.row)).eraseDups.length

/-- A correction counts toward a failing pin; PIN_ROWS rows declare it, once per stack (R265). -/
def countPin (a sym : Nat) (s : State) : State :=
  let n := stackOf a
  let now := s.stg.upNs
  let ev : PinEvent := { pc := dramPc a, symbol := sym, row := dramRow a + 2 ^ 15 * dramBank a, time := now }
  let s := modCtl n (fun c => { c with pins := ev :: c.pins.filter (fun e => decide (now < e.time + dayNs)) }) s
  let c := getCtl s n
  if c.pinFaultFlag = 0#1 ∧ c.cfgEff.pinRows.toNat ≤ c.pinRowsSeen (dramPc a) sym then
    syncEvents (modCtl n (fun c => { c with pinFaultFlag := 1#1, pinPc := BitVec.ofNat 6 (dramPc a), pinSymbol := BitVec.ofNat 6 sym }) s)
  else s

/-- A corrected sector: record, MEM_LAST_ERR, MEM_ECC.CE, and the counts of R264 and R265 (R263). -/
def noteCorrected (a pos : Nat) (v : Byte) (syn : BitVec 32) (s : State) : State :=
  let s := logErr (memErrRec a 1 syn pos v) s
  let s := modCtl (stackOf a) (fun c => { c with
    lastErr := { addr := BitVec.ofNat 52 a, ue := 0#1, valid := 1#1 }
    run := { c.run with ecc := { c.run.ecc with ce := c.run.ecc.ce + 1#32 } } }) s
  let failing := (getCtl s (stackOf a)).failingPin == some (dramPc a, pos)
  let s := if failing then s else countPage a s
  countPin a pos s

/-- An uncorrectable sector: record, MEM_LAST_ERR, MEM_ECC.UE, retirement at once; 8 pseudo-channels in one stage lose the
stack (R263, R264, R269). -/
def noteUncorrectable (a : Nat) (syn : BitVec 32) (s : State) : State :=
  let n := stackOf a
  let s := logErr (memErrRec a 2 syn 0xFF 0#8) s
  let s := modCtl n (fun c => { c with
    lastErr := { addr := BitVec.ofNat 52 a, ue := 1#1, valid := 1#1 }
    ueChannels := if c.ueChannels.contains (dramPc a) then c.ueChannels else dramPc a :: c.ueChannels
    run := { c.run with ecc := { c.run.ecc with ue := satInc c.run.ecc.ue } } }) s
  let s := retirePage (a / 4096) s
  if 8 ≤ (getCtl s n).ueChannels.length then stackLoss n 0x05 n s else s

/-- The copy of a primary sector whose region is mirrored and already copied there (R256, R259). -/
def mirrorOf (s : State) (a : Nat) : Option Nat :=
  match regionAt s a with
  | some r =>
    if r.mirrored && !r.fromCopy && (match r.mirrorNext with | some l => decide (a / 128 * 128 < l) | none => true)
      && stackLive s (partnerOf (stackOf a)) then some (copyAddr a) else none
  | none => none

/-- An address lies in the copy range of a mirrored region (R256). -/
def inCopyRange (s : State) (a : Nat) : Bool :=
  s.regions.any (fun r => r.mirrored && !r.fromCopy && r.has (copyAddr a) && stackOf a != stackOf r.base)

/-- Count sectors read from or written to a stack. -/
def countRd (a : Nat) (s : State) : State :=
  modCtl (stackOf a) (fun c => { c with run := { c.run with traffic := { c.run.traffic with rdSectors := c.run.traffic.rdSectors + 1#32 } } }) s
def countWr (a : Nat) (s : State) : State :=
  let cp := inCopyRange s a
  modCtl (stackOf a) (fun c => { c with run := { c.run with
    traffic := { c.run.traffic with wrSectors := c.run.traffic.wrSectors + 1#32 }
    mirror := if cp then { c.run.mirror with copyWr := c.run.mirror.copyWr + 1#32 } else c.run.mirror } }) s

/-- What the decoder says of a stored sector: the syndrome of the stored word is that of its check-byte difference (R464). -/
def storedDecode (s : State) (a : Nat) : Decoded :=
  if chkAt s a = 0#32 then .clean else decodeSyndromes (syndromes 0#256 (chkAt s a))

/-- Write a whole sector with right check bytes, or with the poison syndrome (R466). -/
def storeSector (a : Nat) (v : SectorVal) (s : State) : State :=
  countWr a (setChk a (if v.poison then poisonQ else 0#32) (setMemSector a v.data s))

/-- Merge bytes over a sector: byte i of the new data where its enable is set. -/
def mergeBytes (old new : BitVec 256) (en : BitVec 32) : BitVec 256 :=
  BitVec.ofNat 256 (bytesNat ((List.range 32).map (fun i => if en.getLsbD i then byteOf new i else byteOf old i)))

/-- The enables and the data of one sector of a buffer entry. -/
def WcbEntry.en (e : WcbEntry) (k : Nat) : BitVec 32 := e.enables.extractLsb' (32 * k) 32
def WcbEntry.dat (e : WcbEntry) (k : Nat) : BitVec 256 := e.data.extractLsb' (256 * k) 256

/-- The entry of a line in a buffer. -/
def Ctl.entry (c : Ctl) (line : Nat) : Option WcbEntry := c.wcb.find? (fun e => e.line == line)

/-- What bytes in the buffer leave of the poison of a stored sector: all of it until one write covers the sector whole (R226). -/
def WcbEntry.covers (e : WcbEntry) (k : Nat) : Bool := e.whole.getLsbD k

/-- A read of the copy alone, for the fallback of R259: the partner's buffered bytes over its stack (R249). -/
def copyRead (c : Nat) (s : State) : Decoded × BitVec 256 × State :=
  let k := c / 32 % 4
  let e := ((getCtl s (stackOf c)).entry (lineOf c)).getD { line := lineOf c, enables := 0#128, data := 0#1024 }
  let mix (v : BitVec 256) : BitVec 256 := mergeBytes v (e.dat k) (e.en k)
  if e.en k = BitVec.allOnes 32 then
    (if e.poison.getLsbD k || (!e.covers k && storedDecode s c == .poison) then .poison else .clean, e.dat k, s)
  else
    let s := countRd c s
    let d := storedDecode s c
    match d with
    | .corrected p v => (if e.poison.getLsbD k then .poison else d, mix (correctData (memSector s c) p v), noteCorrected c p v (syndromes 0#256 (chkAt s c)) s)
    | .clean => (if e.poison.getLsbD k then .poison else d, mix (memSector s c), s)
    | _ => (d, mix (memSector s c), s)

/-- The controller reads a stored sector: corrected, carried poisoned, served from the mirror copy, or delivered poisoned
(R227, R245, R259, R263, R467). -/
def stackRead (a : Nat) (s : State) : SectorVal × State :=
  let s := countRd a s
  let d := memSector s a
  let syn := syndromes 0#256 (chkAt s a)
  match storedDecode s a with
  | .clean => ({ data := d }, s)
  | .poison => ({ data := d, poison := true }, s)
  | .corrected p v => ({ data := correctData d p v }, noteCorrected a p v syn s)
  | .uncorrectable =>
    match mirrorOf s a with
    | none => ({ data := d, poison := true }, noteUncorrectable a syn s)
    | some c =>
      let (w, cd, s) := copyRead c s
      match w with
      | .clean | .corrected _ _ =>
        let s := storeSector a { data := cd } s
        let s := modCtl (stackOf a) (fun x => { x with run := { x.run with mirror := { x.run.mirror with fallback := satInc x.run.mirror.fallback } } }) s
        let s := logErr (memErrRec a 0x0A syn 0xFF 0#8) s
        ({ data := cd }, countPage a s)
      | .poison => ({ data := d, poison := true }, noteUncorrectable a syn s)
      | .uncorrectable => ({ data := d, poison := true }, noteUncorrectable c (syndromes 0#256 (chkAt s c)) (noteUncorrectable a syn s))

/-- Replace one sector's enables and data in a buffer entry. -/
def WcbEntry.put (e : WcbEntry) (k : Nat) (en : BitVec 32) (d : BitVec 256) (poison : Bool) : WcbEntry :=
  let pick (i : Nat) : BitVec 32 := if i = k then en else e.en i
  let pickD (i : Nat) : BitVec 256 := if i = k then d else e.dat i
  { e with enables := pick 3 ++ pick 2 ++ pick 1 ++ pick 0
           data := pickD 3 ++ pickD 2 ++ pickD 1 ++ pickD 0
           poison := if poison then setBit e.poison k else clearBit e.poison k }

/-- One sector of an entry drains: complete sectors are written, incomplete ones by read-modify-write (R247, R248). Bytes that came in several
writes do not clear the poison of the sector in memory (R226). -/
def drainSector (e : WcbEntry) (k : Nat) (s : State) : State :=
  let a := e.line * 128 + 32 * k
  let pz := e.poison.getLsbD k
  if e.en k = 0#32 then s
  else if e.en k = BitVec.allOnes 32 then
    storeSector a { data := e.dat k, poison := pz || (!e.covers k && storedDecode s a == .poison) } s
  else
    let (v, s) := stackRead a s
    let s := modCtl (stackOf a) (fun c => { c with run := { c.run with wcb := { c.run.wcb with rmw := c.run.wcb.rmw + 1#32 } } }) s
    storeSector a { data := mergeBytes v.data (e.dat k) (e.en k), poison := v.poison || pz } s

/-- An entry leaves the buffer of a stack and its enabled sectors are written (R247). -/
def drainEntry (n : Nat) (e : WcbEntry) (s : State) : State :=
  let s := modCtl n (fun c => { c with wcb := c.wcb.filter (fun x => x.line != e.line) }) s
  forEach [0, 1, 2, 3] (fun k t => drainSector e k t) s

/-- The oldest entry drains. -/
def drainOldest (n : Nat) (s : State) : State :=
  match (getCtl s n).wcb with
  | [] => s
  | e :: _ => drainEntry n e s

/-- The oldest entries drain until the buffer holds fewer than WCB_HIGH (R247). -/
def drainDown (n : Nat) (s : State) : State :=
  forEach (List.range (getCtl s n).wcb.length) (fun _ t =>
    if (getCtl t n).cfgEff.wcbHigh.toNat ≤ (getCtl t n).wcb.length then drainOldest n t else t) s

/-- Merge a write into an entry; a write of a whole sector replaces the sector's poison, a narrower one adds to it (R246). -/
def WcbEntry.merge (e : WcbEntry) (k : Nat) (en : BitVec 32) (v : SectorVal) (now : Nat) : WcbEntry :=
  let pz := if en = BitVec.allOnes 32 then v.poison else e.poison.getLsbD k || v.poison
  { e.put k (e.en k ||| en) (mergeBytes (e.dat k) v.data en) pz with
    stamp := now, whole := if en = BitVec.allOnes 32 then setBit e.whole k else e.whole }

/-- The controller accepts a write to one sector into its write-combining buffer (R246, R247). -/
def ctlWrite (a : Nat) (en : BitVec 32) (v : SectorVal) (s : State) : State :=
  let n := stackOf a
  let k := a / 32 % 4
  let line := lineOf a
  let now := s.stg.upNs
  let s := if (getCtl s n).entry line = none ∧ 64 ≤ (getCtl s n).wcb.length then drainOldest n s else s
  let s := match (getCtl s n).entry line with
    | some _ => modCtl n (fun c => { c with
        wcb := c.wcb.map (fun e => if e.line = line then e.merge k en v now else e)
        run := { c.run with wcb := { c.run.wcb with merges := c.run.wcb.merges + 1#32 } } }) s
    | none => modCtl n (fun c => { c with
        wcb := c.wcb ++ [(({ line := line, enables := 0#128, data := 0#1024 } : WcbEntry)).merge k en v now] }) s
  let s := match (getCtl s n).entry line with
    | some e => if e.enables = BitVec.allOnes 128 then drainEntry n e s else s
    | none => s
  drainDown n s

/-- The controller answers a read of one sector: the buffer's bytes over the stack's (R245, R249). -/
def ctlRead (a : Nat) (s : State) : SectorVal × State :=
  let k := a / 32 % 4
  match (getCtl s (stackOf a)).entry (lineOf a) with
  | none => stackRead a s
  | some e =>
    if e.en k = BitVec.allOnes 32 then ({ data := e.dat k, poison := e.poison.getLsbD k || (!e.covers k && storedDecode s a == .poison) }, s)
    else if e.en k = 0#32 then stackRead a s
    else
      let (v, s) := stackRead a s
      ({ data := mergeBytes v.data (e.dat k) (e.en k), poison := v.poison || e.poison.getLsbD k }, s)

/-- An error strikes a stored word: data bytes and check bytes flip, so the check bytes differ from the right ones by what the
flipped data would need as well (R463). -/
def strike (a : Nat) (e : WordErr) (s : State) : State :=
  if e.data = 0#256 ∧ e.chk = 0#32 then s
  else
    let x := chkAt s a ^^^ e.chk ^^^ checkBytes e.data
    setChk a x (setMemSector a (memSector s a ^^^ e.data) s)

/-- Drain every entry a checkpoint has marked (R250). -/
def drainMarked (n : Nat) (s : State) : State :=
  forEach ((getCtl s n).wcb.filter (·.marked)) (fun e t => drainEntry n e t) s

/-- Drain the entry of one line, if the buffer holds one: a write of the checkpoint flush reaches the stack (R250). -/
def drainLine (line : Nat) (s : State) : State :=
  match (getCtl s (stackOf (line * 128))).entry line with
  | some e => drainEntry (stackOf (line * 128)) e s
  | none => s

end Sys2Proof.Machine
end

