-- ==== Sys2Proof/Machine/Numerics.lean ====
section
/-! DEFINITION. Numbers: the formats of R137, exact values, and conversions with their flags (R138 to R147, R158 to R160). A
finite value is held exactly, as a sign, a natural magnitude and a power of two. -/

namespace Sys2Proof.Machine

/-- An exact value: NaN, an infinity, or sign, magnitude m and exponent e standing for m times 2^e. -/
inductive Num where
  | nan
  | inf (neg : Bool)
  | fin (neg : Bool) (m : Nat) (e : Int)
deriving DecidableEq, Repr

/-- What a format does with its all-ones exponent (R138, R139): infinities and NaNs, one NaN pattern only, or values. -/
inductive TopKind where
  | ieee | nanOnly | value
deriving DecidableEq, Repr

/-- A floating-point format (R137). -/
structure Fmt where
  ebits : Nat
  fbits : Nat
  bias : Int
  sub : Bool
  top : TopKind
  infOnOver : Bool
deriving DecidableEq, Repr

/-- The formats of R137. -/
def fmtE4M3 : Fmt := ⟨4, 3, 7, true, .nanOnly, false⟩
def fmtE5M2 : Fmt := ⟨5, 2, 15, true, .ieee, false⟩
def fmtE3M2 : Fmt := ⟨3, 2, 3, true, .value, false⟩
def fmtE2M3 : Fmt := ⟨2, 3, 1, true, .value, false⟩
def fmtE2M1 : Fmt := ⟨2, 1, 1, true, .value, false⟩
def fmtFP16 : Fmt := ⟨5, 10, 15, true, .ieee, false⟩
def fmtBF16 : Fmt := ⟨8, 7, 127, true, .ieee, false⟩
def fmtFP32 : Fmt := ⟨8, 23, 127, true, .ieee, true⟩
def fmtEWF32 : Fmt := ⟨10, 21, 511, false, .ieee, true⟩
def fmtFP64 : Fmt := ⟨11, 52, 1023, true, .ieee, true⟩
/-- The accumulator's internal format (R105), as a format. -/
def fmtAcc : Fmt := ⟨10, 36, 511, false, .ieee, true⟩

/-- The four sticky flags (R129, R166). -/
structure Flags where
  of : Bool := false
  uf : Bool := false
  nx : Bool := false
  nv : Bool := false
deriving DecidableEq, Repr

/-- The union of two sets of flags. -/
def Flags.or (a b : Flags) : Flags := ⟨a.of || b.of, a.uf || b.uf, a.nx || b.nx, a.nv || b.nv⟩

/-- The flag NV alone, the flags OF and NX, the flags UF and NX. -/
def flagNV : Flags := { nv := true }
def flagOF : Flags := { of := true, nx := true }
def flagUF : Flags := { uf := true, nx := true }
def flagNX : Flags := { nx := true }

/-- The smallest normal exponent of a format. -/
def Fmt.emin (f : Fmt) : Int := 1 - f.bias

/-- The biggest exponent field that holds finite values. -/
def Fmt.etop (f : Fmt) : Nat := if f.top = .ieee then 2 ^ f.ebits - 2 else 2 ^ f.ebits - 1

/-- The largest finite value as fraction integer and exponent of its last place. -/
def Fmt.maxFin (f : Fmt) : Nat × Int :=
  (2 ^ (f.fbits + 1) - (if f.top = .nanOnly then 2 else 1), (f.etop : Int) - f.bias - f.fbits)

/-- The value an encoding stands for (R138 to R140). -/
def Fmt.decode (f : Fmt) (w : Nat) : Num :=
  let neg := (w / 2 ^ (f.ebits + f.fbits)) % 2 == 1
  let ex := (w / 2 ^ f.fbits) % 2 ^ f.ebits
  let fr := w % 2 ^ f.fbits
  if ex = 2 ^ f.ebits - 1 ∧ f.top = .ieee then (if fr = 0 then .inf neg else .nan)
  else if ex = 2 ^ f.ebits - 1 ∧ f.top = .nanOnly ∧ fr = 2 ^ f.fbits - 1 then .nan
  else if ex = 0 then (if f.sub then .fin neg fr (f.emin - f.fbits) else .fin neg 0 0)
  else .fin neg (2 ^ f.fbits + fr) ((ex : Int) - f.bias - f.fbits)

/-- The sign bit of an encoding. -/
def Fmt.signBit (f : Fmt) (neg : Bool) : Nat := if neg then 2 ^ (f.ebits + f.fbits) else 0

/-- The canonical NaN written (R139); a format without NaN writes all bits 0. -/
def Fmt.nanBits (f : Fmt) : Nat :=
  match f.top with
  | .ieee => (2 ^ f.ebits - 1) * 2 ^ f.fbits + 2 ^ (f.fbits - 1)
  | .nanOnly => 2 ^ (f.ebits + f.fbits) - 1
  | .value => 0

/-- The encoding of an infinity (R139). -/
def Fmt.infBits (f : Fmt) (neg : Bool) : Nat := f.signBit neg + (2 ^ f.ebits - 1) * 2 ^ f.fbits

/-- The encoding of the largest finite value (R137). -/
def Fmt.maxBits (f : Fmt) (neg : Bool) : Nat :=
  f.signBit neg + f.etop * 2 ^ f.fbits + (2 ^ f.fbits - (if f.top = .nanOnly then 2 else 1))

/-- The encoding of a representable finite value q times 2^lsb. -/
def Fmt.finBits (f : Fmt) (neg : Bool) (q : Nat) (lsb : Int) : Nat :=
  if q = 0 then f.signBit neg
  else
    let t := Nat.log2 q
    let top := lsb + t
    if top < f.emin then f.signBit neg + q
    else
      let sig := if t ≤ f.fbits then q * 2 ^ (f.fbits - t) else q / 2 ^ (t - f.fbits)
      f.signBit neg + (top + f.bias).toNat * 2 ^ f.fbits + sig % 2 ^ f.fbits

/-- The exponent of the last place of a format at a magnitude (R140, R145). -/
def Fmt.lsb (f : Fmt) (m : Nat) (e : Int) : Int :=
  let top := e + Nat.log2 m
  if top < f.emin then (if f.sub then f.emin - f.fbits else f.emin) else top - f.fbits

/-- How a value that is not representable is rounded (R143): to nearest with ties to even, or stochastically with a word. -/
inductive RMode where
  | nearest
  | stoch (r : Nat)
deriving DecidableEq, Repr

/-- A magnitude m times 2^e in whole units of 2^l, rounded, and whether that is inexact (R143, R160). -/
def quantize (mode : RMode) (m : Nat) (e l : Int) : Nat × Bool :=
  if l ≤ e then (m * 2 ^ (e - l).toNat, false)
  else
    let u := 2 ^ (l - e).toNat
    let q := m / u
    let r := m % u
    let up : Bool := match mode with
      | .nearest => decide (u < 2 * r) || (decide (2 * r = u) && q % 2 == 1)
      | .stoch w => decide (2 ^ 32 ≤ r * 2 ^ 32 / u + w)
    (if up then q + 1 else q, r != 0)

/-- A magnitude a times 2^x exceeds b times 2^y. -/
def magGt (a : Nat) (x : Int) (b : Nat) (y : Int) : Bool :=
  if x ≤ y then decide (b * 2 ^ (y - x).toNat < a) else decide (b < a * 2 ^ (x - y).toNat)

/-- A finite value that leaves the range of a format (R144). -/
def Fmt.overflow (f : Fmt) (neg : Bool) : Nat × Flags :=
  (if f.infOnOver then f.infBits neg else f.maxBits neg, flagOF)

/-- Convert a value into a format, with the flags the conversion sets (R142 to R146). -/
def Fmt.convert (f : Fmt) (mode : RMode) : Num → Nat × Flags
  | .nan => (f.nanBits, flagNV)
  | .inf neg => (if f.top = .ieee then (f.infBits neg, {}) else f.overflow neg)
  | .fin neg m e =>
    if m = 0 then (f.signBit neg, {})
    else if mode ≠ .nearest ∧ magGt m e f.maxFin.1 f.maxFin.2 then f.overflow neg
    else
      let l := f.lsb m e
      let (q, inexact) := quantize mode m e l
      if magGt q l f.maxFin.1 f.maxFin.2 then f.overflow neg
      else
        let tiny := !(magGt q l 1 f.emin || (q != 0 && decide (l + Nat.log2 q = f.emin)))
        (f.finBits neg q l, { nx := inexact, uf := inexact && tiny })

/-- The exact sum of two values, with NV where it is invalid (R131, R146, R165). -/
def Num.add : Num → Num → Num
  | .nan, _ => .nan
  | _, .nan => .nan
  | .inf a, .inf b => if a = b then .inf a else .nan
  | .inf a, _ => .inf a
  | _, .inf b => .inf b
  | .fin a m e, .fin b n x =>
    let l := min e x
    let s : Int := (if a then -1 else 1) * (m * 2 ^ (e - l).toNat : Nat) + (if b then -1 else 1) * (n * 2 ^ (x - l).toNat : Nat)
    if s = 0 then .fin (a && b && (m == 0) && (n == 0)) 0 0 else .fin (decide (s < 0)) s.natAbs l

/-- The exact product of two values (R131). -/
def Num.mul : Num → Num → Num
  | .nan, _ => .nan
  | _, .nan => .nan
  | .inf a, .inf b => .inf (a != b)
  | .inf a, .fin b n _ => if n = 0 then .nan else .inf (a != b)
  | .fin a m _, .inf b => if m = 0 then .nan else .inf (a != b)
  | .fin a m e, .fin b n x => .fin (a != b) (m * n) (e + x)

/-- A value with its sign turned. -/
def Num.neg : Num → Num
  | .nan => .nan
  | .inf a => .inf (!a)
  | .fin a m e => .fin (!a) m e

/-- The magnitude of a value. -/
def Num.abs : Num → Num
  | .nan => .nan
  | .inf _ => .inf false
  | .fin _ m e => .fin false m e

/-- A value times a power of two. -/
def Num.scale (k : Int) : Num → Num
  | .fin a m e => .fin a m (e + k)
  | x => x

/-- A value is NaN; a value is finite. -/
def Num.isNan : Num → Bool
  | .nan => true
  | _ => false
def Num.isFin : Num → Bool
  | .fin _ _ _ => true
  | _ => false

/-- A value is below another; zeros of either sign are equal and NaN is below nothing. -/
def Num.lt : Num → Num → Bool
  | .nan, _ => false
  | _, .nan => false
  | .inf a, .inf b => a && !b
  | .inf a, _ => a
  | _, .inf b => !b
  | .fin a m e, .fin b n x =>
    let l := min e x
    decide ((if a then -1 else 1) * (m * 2 ^ (e - l).toNat : Nat) < (if b then -1 else 1) * ((n * 2 ^ (x - l).toNat : Nat) : Int))

/-- Two values are equal as numbers. -/
def Num.eqv (a b : Num) : Bool := !a.isNan && !b.isNan && !a.lt b && !b.lt a

/-- An integer as a value. -/
def Num.ofInt (i : Int) : Num := .fin (decide (i < 0)) i.natAbs 0

/-- A finite value rounded to the nearest integer, ties to even, and whether that is inexact. -/
def roundInt (mode : RMode) (neg : Bool) (m : Nat) (e : Int) : Int × Bool :=
  let (q, inexact) := quantize mode m e 0
  (if neg then -(q : Int) else q, inexact)

/-- Convert to INT32 (R114): ties to even; out of range, infinite and NaN sources are invalid. -/
def toInt32 : Num → BitVec 32 × Flags
  | .nan => (0#32, flagNV)
  | .inf neg => (if neg then 0x80000000#32 else 0x7FFFFFFF#32, flagNV)
  | .fin neg m e =>
    let (i, inexact) := roundInt .nearest neg m e
    if i < -2147483648 then (0x80000000#32, flagNV)
    else if 2147483647 < i then (0x7FFFFFFF#32, flagNV)
    else (BitVec.ofInt 32 i, { nx := inexact })

/-- Convert to a scaled integer element of w bits, saturating at its ends (R147). -/
def toIntElem (w : Nat) (mode : RMode) : Num → Nat × Flags
  | .nan => (0, flagNV)
  | .inf neg => ((BitVec.ofInt w (if neg then -(2 ^ (w - 1) : Nat) else (2 ^ (w - 1) - 1 : Nat))).toNat, flagOF)
  | .fin neg m e =>
    let (i, inexact) := roundInt mode neg m e
    if i < -(2 ^ (w - 1) : Nat) then ((BitVec.ofInt w (-(2 ^ (w - 1) : Nat))).toNat, flagOF)
    else if ((2 ^ (w - 1) - 1 : Nat) : Int) < i then ((BitVec.ofInt w (2 ^ (w - 1) - 1 : Nat)).toNat, flagOF)
    else ((BitVec.ofInt w i).toNat, { nx := inexact })

/-- A sum in FP32 as an atomic computes it (R223): to nearest, ties to even, NaN as 0x7FC0_0000, no flags. -/
def fadd32 (a b : BitVec 32) : BitVec 32 :=
  BitVec.ofNat 32 (fmtFP32.convert .nearest ((fmtFP32.decode a.toNat).add (fmtFP32.decode b.toNat))).1

/-- The accumulator as a value, and a value rounded into it (R105, R124). -/
def Acc.num : Acc → Num
  | .zero neg => .fin neg 0 0
  | .fin neg e f => .fin neg (2 ^ 36 + f.toNat) ((e.toNat : Int) - 511 - 36)
  | .inf neg => .inf neg
  | .nan => .nan
def toAcc (v : Num) : Acc × Flags :=
  let (w, fl) := fmtAcc.convert .nearest v
  match fmtAcc.decode w with
  | .nan => (.nan, fl)
  | .inf neg => (.inf neg, fl)
  | .fin neg m _ => (if m = 0 then .zero neg else .fin neg (BitVec.ofNat 10 (w / 2 ^ 36)) (BitVec.ofNat 36 w), fl)

-- stochastic rounding (R158 to R160)

/-- The 64-bit finaliser of R160. -/
def mix (x : BitVec 64) : BitVec 64 :=
  let x := (x ^^^ (x >>> 33)) * 0xFF51AFD7ED558CCD#64
  let x := (x ^^^ (x >>> 33)) * 0xC4CEB9FE1A85EC53#64
  x ^^^ (x >>> 33)

/-- The Bell seed of a core (R158, R160). -/
def bellSeed (job jsn : BitVec 64) (lcore : BitVec 32) : BitVec 64 := mix (mix (mix job ^^^ jsn) ^^^ lcore.setWidth 64)

/-- The random word of one element of one conversion (R159, R160). -/
def rand32 (seed : BitVec 64) (entry cvn count elem : Nat) : Nat :=
  let stream : BitVec 64 := BitVec.ofNat 64 (entry * 2 ^ 48) ||| BitVec.ofNat 64 (cvn * 2 ^ 44) ||| BitVec.ofNat 64 (count * 2 ^ 20) ||| BitVec.ofNat 64 elem
  ((mix (seed ^^^ mix stream)) >>> 32).toNat

end Sys2Proof.Machine
end

