-- ==== Sys2Proof/Machine/Homes.lean ====
section
/-! DEFINITION. The coherence homes (R200 to R229): lines and replacement, the eviction buffer, partner offers, the
directory and snoops, reads, writes, atomics and dead hints, pins, and the checkpoint flush. A request that needs an answer of
a processor cache sends its snoop and is not performed until it is made again after the answer (DESIGN CHOICE, log 8). -/

namespace Sys2Proof.Machine

/-- The number of sets and ways (R200). -/
def l2Sets : Nat := 24576
def l2Ways : Nat := 16

/-- The set of a line (R200): the base of every stack falls in set 0. -/
def setOf (line : Nat) : Nat := line % l2Sets

/-- A line of a home. -/
def Home.line (h : Home) (l : Nat) : Option Line := tabGet none h.lines l

/-- Write or remove a line of a home. -/
def Home.setLine (l : Nat) (v : Option Line) (h : Home) : Home := { h with lines := tabSet none h.lines l v }

/-- The lines that hold ways of a set. -/
def Home.ways (h : Home) (set : Nat) : List (Nat × Line) :=
  h.lines.filterMap (fun p => match p.2 with | some x => if setOf p.1 = set then some (p.1, x) else none | none => none)

/-- The directory entry of a line (R218). -/
def Home.dirOf (h : Home) (l : Nat) : Dir := tabGet .invalid h.dir l

/-- Write a directory entry; the invalid state is no entry. -/
def Home.setDir (l : Nat) (d : Dir) (h : Home) : Home := { h with dir := tabSet .invalid h.dir l d }

/-- A directory entry with no copy left is no entry. -/
def Dir.norm : Dir → Dir
  | .shared false false false => .invalid
  | d => d

/-- Four sectors with nothing valid. -/
def noSectors : List Sector := List.replicate 4 {}

/-- Sector k of a list of sectors. -/
def secAt (l : List Sector) (k : Nat) : Sector := l.getD k {}

/-- No sector was asked for. -/
def noVal : SectorVal := {}

/-- A sector as its value moves. -/
def Sector.val (x : Sector) : SectorVal := { data := x.data, poison := x.poison }

/-- The next stamp of use. -/
def Home.tick (h : Home) : Home := { h with clock := h.clock + 1 }

/-- Which of some ways was used least recently. -/
def lruOf : List (Nat × Line) → Option (Nat × Line)
  | [] => none
  | x :: t => some (t.foldl (fun a b => if b.2.used < a.2.used then b else a) x)

/-- The victim of an allocation (R204): the least recently used foreign line, else the least recently used unpinned line. -/
def victim (ws : List (Nat × Line)) : Option (Nat × Line) :=
  match lruOf (ws.filter (·.2.foreign)) with
  | some x => some x
  | none => lruOf (ws.filter (fun x => !x.2.pinned))

/-- Write dirty sectors of a line to memory, and to both copies of a mirrored region (R205, R258). -/
def writeSectors (l : Nat) (secs : List Sector) (pick : Nat → Sector → Bool) (s : State) : State :=
  match regionAt s (l * 128) with
  | none => s
  | some rg =>
    forEach (List.range 4) (fun k t =>
      let x := secAt secs k
      if pick k x then
        let a := rg.memAddr (l * 128 + 32 * k)
        let t := ctlWrite a (BitVec.allOnes 32) x.val t
        if rg.mirrored && !rg.fromCopy then ctlWrite (copyAddr a) (BitVec.allOnes 32) x.val t else t
      else t) s

/-- The oldest line of the eviction buffer is written to memory and freed (R205). -/
def evbDrain (n : Nat) (s : State) : State :=
  match (getHome s n).evb with
  | [] => s
  | e :: rest =>
    let s := writeSectors e.line e.sectors (fun _ x => x.valid && x.dirty) s
    modHome n (fun h => { h with evb := rest, run := { h.run with evb := { h.run.evb with writebacks := h.run.evb.writebacks + 1#32 } } }) s

/-- Lines leave the eviction buffer in order until the given line has left it (R205). -/
def evbDrainThrough (n l : Nat) (s : State) : State :=
  forEach (List.range (match (getHome s n).evb.findIdx? (fun e => e.line == l) with | some i => i + 1 | none => 0)) (fun _ t => evbDrain n t) s

/-- The partner's copy of a line is dropped, and the directory with it (R206). -/
def dropForeign (n l : Nat) (s : State) : State :=
  match (getHome s n).dirOf l with
  | .shared a b true =>
    let s := modHome (otherHalf n) (fun h => match h.line l with
      | some x => if x.foreign then h.setLine l none else h
      | none => h) s
    modHome n (fun h => h.setDir l (Dir.norm (.shared a b false))) s
  | _ => s

/-- The directory's sets (R218): the spec gives 16 ways and no index; DESIGN CHOICE, log 9: the line number modulo the sets. -/
def dirSets : Nat := 32768

/-- A processor cache gives up its copy of a line; what it held modified goes into the home's line (R220). -/
def pxDrop (die l : Nat) (s : State) : State := modPx die (fun p => PxDie.lose (· == l) { p with cache := tabSet none p.cache l none }) s

/-- Count snoops sent to processor caches (R231). -/
def countSnoops (n k : Nat) (s : State) : State :=
  modHome n (fun h => { h with run := { h.run with coh := { h.run.coh with snoops := h.run.coh.snoops + BitVec.ofNat 32 k } } }) s

/-- The modified sectors of a processor's line go into the home's copy of the line, and to memory where the home holds none or its region is
write-through (R203, R219, R220). -/
def takeDirty (n l : Nat) (secs : List Sector) (s : State) : State :=
  let s := evbDrainThrough n l s
  let through := match regionAt s (l * 128) with | some rg => rg.policy == 1 | none => false
  let held := ((getHome s n).line l).isSome
  let s := modHome n (fun h => match h.line l with
    | some y => h.setLine l (some { y with sectors := (List.range 4).map (fun k =>
        let x := secAt secs k
        if x.valid && x.dirty then { x with dirty := !through } else secAt y.sectors k) })
    | none => h) s
  if held && !through then s else writeSectors l secs (fun _ x => x.valid && x.dirty) s

/-- Free a directory entry by invalidating the copies it tracks, when the set of a new entry is full (R220). Which entry is freed
the spec leaves open: a free value picks it (log 18). An owner's sectors return to the home. -/
def dirRoom (n l : Nat) (s : State) : State :=
  let h := getHome s n
  let set := h.dir.filter (fun p => p.1 % dirSets == l % dirSets)
  if h.dirOf l ≠ .invalid ∨ set.length < 16 then s
  else
    let (w, s) := draw 4 s
    match set[w.toNat]? with
    | none => s
    | some (v, d) =>
      let s := modHome n (fun h => { h with run := { h.run with coh := { h.run.coh with backInv := satInc h.run.coh.backInv } } }) s
      let s := match d with
        | .owned die =>
          let secs := match tabGet none (getPx s die).cache v with | some x => x.sectors | none => noSectors
          takeDirty n v secs (countSnoops n 1 (pxDrop die v s))
        | .shared a b _ =>
          let s := if a then countSnoops n 1 (pxDrop 0 v s) else s
          let s := if b then countSnoops n 1 (pxDrop 1 v s) else s
          dropForeign n v s
        | .invalid => s
      modHome n (fun h => h.setDir v .invalid) s

/-- A clean victim of the home is offered to the partner, which stores it only where an invalid way or a foreign line is
(R206). A line that a processor cache owns is not offered: the home's data may be stale, and no directory entry records both (DEDUCED,
log 18). -/
def offer (n l : Nat) (x : Line) (s : State) : State :=
  let p := otherHalf n
  if (getHome s n).cfgEff.offerEn = 0#1 || !halfLive s p || (match (getHome s n).dirOf l with | .owned _ => true | _ => false) then s
  else
    let ws := (getHome s p).ways (setOf l)
    let room : Option (Option Nat) :=
      if ws.length < l2Ways then some none else (lruOf (ws.filter (·.2.foreign))).map (fun y => some y.1)
    match room with
    | none => modHome n (fun h => { h with run := { h.run with offer := { h.run.offer with declined := h.run.offer.declined + 1#32 } } }) s
    | some out =>
      let s := match out with
        | some v => dropForeign n v s
        | none => s
      let s := dirRoom n l s
      let s := modHome p (fun h => (h.tick).setLine l (some { x with foreign := true, used := h.clock + 1, pinned := false })) s
      modHome n (fun h =>
        let d := match h.dirOf l with | .shared a b _ => Dir.shared a b true | _ => .shared false false true
        { h.setDir l d with run := { h.run with offer := { h.run.offer with accepted := h.run.offer.accepted + 1#32 } } }) s

/-- A line leaves a home's set: dirty ones through the eviction buffer, clean ones of its own are offered, foreign ones are
dropped (R204 to R206). -/
def evict (n l : Nat) (s : State) : State :=
  match (getHome s n).line l with
  | none => s
  | some x =>
    let s := modHome n (fun h => h.setLine l none) s
    if x.foreign then
      modHome (otherHalf n) (fun h => match h.dirOf l with
        | .shared a b true => h.setDir l (Dir.norm (.shared a b false))
        | _ => h) s
    else if x.sectors.any (fun y => y.valid && y.dirty) then
      let s := if 32 ≤ (getHome s n).evb.length then evbDrain n s else s
      modHome n (fun h => { h with evb := h.evb ++ [{ line := l, sectors := x.sectors }] }) s
    else if x.sectors.any (·.valid) then offer n l x s
    else s

/-- Make sure a line holds a way of its set (R204). -/
def allocLine (n l : Nat) (s : State) : State :=
  match (getHome s n).line l with
  | some _ => s
  | none =>
    let ws := (getHome s n).ways (setOf l)
    let s := if ws.length < l2Ways then s else match victim ws with | some v => evict n v.1 s | none => s
    modHome n (fun h => (h.tick).setLine l (some { sectors := noSectors, used := h.clock + 1 })) s

/-- Mark a line used (R204); a streaming or write-around access can make it the least recently used instead (R203, R221). -/
def touch (n l : Nat) (least : Bool) (s : State) : State :=
  modHome n (fun h => match h.line l with
    | some x =>
      if least then { h with low := h.low + 1 }.setLine l (some { x with used := -(h.low + 1 : Int) })
      else (h.tick).setLine l (some { x with used := h.clock + 1 })
    | none => h) s

/-- Put a sector into a line of a home. -/
def putSector (n l k : Nat) (x : Sector) (s : State) : State :=
  modHome n (fun h => match h.line l with
    | some y => h.setLine l (some { y with sectors := y.sectors.set k x })
    | none => h) s

/-- Count sectors moved at the controllers for a requester (R558). -/
def countMoved (r : Requester) (k : Nat) (s : State) : State :=
  modSb (fun b => match r with
    | .core _ _ => { b with movedCore := b.movedCore + k }
    | .porter _ => { b with movedPorter := b.movedPorter + k }
    | .network => { b with movedNet := b.movedNet + k }
    | .px _ => { b with movedPx := b.movedPx + k }
    | _ => b) s

/-- The home takes a line back from its partner, which no longer holds it (R206). -/
def takeBack (n l : Nat) (s : State) : State :=
  match (getHome s (otherHalf n)).line l with
  | some x =>
    if x.foreign then
      let s := dropForeign n l s
      let s := allocLine n l s
      modHome n (fun h => match h.line l with
        | some y => h.setLine l (some { y with sectors := x.sectors.map (fun z => { z with dirty := false }) })
        | none => h) s
    else s
  | none => s

/-- The sectors of a line that an access needs, from memory into the line, in ascending address order (R202). -/
def fillLine (r : Requester) (n l : Nat) (rg : Region) (mask : BitVec 4) (s : State) : State :=
  forEach (List.range 4) (fun k t =>
    match (getHome t n).line l with
    | some x =>
      if mask.getLsbD k && !(secAt x.sectors k).valid then
        let (v, t) := ctlRead (rg.memAddr (l * 128 + 32 * k)) t
        putSector n l k { valid := true, poison := v.poison, data := v.data } (countMoved r 1 t)
      else t
    | none => t) s

/-- Every sector of a mask is valid in a list of sectors. -/
def maskValid (mask : BitVec 4) (secs : List Sector) : Bool :=
  (List.range 4).all (fun k => !mask.getLsbD k || (secAt secs k).valid)

/-- Count an access of an unpinned line in a pinned-heavy set (R211). -/
def countHeavy (n l : Nat) (hit : Bool) (s : State) : State :=
  let h := getHome s n
  let heavy := decide (h.cfgEff.pinHeavy.toNat ≤ ((h.ways (setOf l)).filter (·.2.pinned)).length)
  let unpinned := match h.line l with | some x => !x.pinned | none => true
  if heavy && unpinned then
    modHome n (fun h => { h with run := { h.run with pin :=
      { heavyAcc := h.run.pin.heavyAcc + 1#32, heavyMiss := if hit then h.run.pin.heavyMiss else h.run.pin.heavyMiss + 1#32 } } }) s
  else s

/-- Count a request that found its sectors valid, or that fetched one, and its access of its set (R211, R231). -/
def countAccess (n l : Nat) (hit : Bool) (s : State) : State :=
  modHome n (fun h => { h with run := { h.run with
    access := if hit then { h.run.access with hits := h.run.access.hits + 1#32 } else { h.run.access with misses := h.run.access.misses + 1#32 } } })
    (countHeavy n l hit s)

/-- A request enters its slice's queue (R216, R228): whether it finds the queue full is timing, a free value; the line of one that does is
noted. -/
def enterQueue (n l : Nat) (s : State) : State :=
  let (full, s) := draw 1 s
  modHome n (fun h => { h with hotLine := if full = 1#1 then { addr := BitVec.ofNat 45 l ++ 0#7 } else h.hotLine }) s

/-- A stack that serves a line retrains its PHY, so that requests to it wait (R253): for a write, either stack of a mirrored region. -/
def memWaits (s : State) (rg : Region) (l : Nat) (write : Bool) : Bool :=
  let a := rg.memAddr (l * 128)
  (getCtl s (stackOf a)).retraining || (write && rg.mirrored && !rg.fromCopy && (getCtl s (stackOf (copyAddr a))).retraining)

/-- Requesters that are processor dies. -/
def isPxReq (r : Requester) (d : Nat) : Bool := match r with | .px e => e == d | _ => false

/-- A home sends a snoop for a line, once; the requester waits on the line (R219, R225). -/
def sendSnoop (n l die : Nat) (kind : SnoopKind) (r : Requester) (store : Bool) (s : State) : State :=
  let st := if store then [r] else []
  modHome n (fun h =>
    if h.snoops.any (fun x => x.line == l && x.die == die) then
      { h with snoops := h.snoops.map (fun x => if x.line = l ∧ x.die = die then
          { x with waiting := if x.waiting.contains r then x.waiting else x.waiting ++ [r]
                   stores := if x.stores.contains r then x.stores else x.stores ++ st } else x) }
    else
      { h with snoops := h.snoops ++ [{ line := l, die := die, kind := kind, waiting := [r], stores := st }]
               run := { h.run with coh := { h.run.coh with snoops := h.run.coh.snoops + 1#32 } } }) s

/-- A request that only reads a line: true when it may be performed now; otherwise its snoop is out (R219). -/
def readClear (n l : Nat) (r : Requester) (s : State) : Bool × State :=
  match (getHome s n).dirOf l with
  | .owned d => if isPxReq r d then (true, s) else (false, sendSnoop n l d .downgrade r false s)
  | _ => (true, s)

/-- A request that writes a line: every other copy must be invalidated first (R219, R221). A store is told from an atomic (R225). -/
def lineClear (store : Bool) (n l : Nat) (r : Requester) (s : State) : Bool × State :=
  match (getHome s n).dirOf l with
  | .owned d => if isPxReq r d then (true, s) else (false, sendSnoop n l d .recall r store s)
  | .shared a b _ =>
    let s := dropForeign n l s
    let wa := a && !isPxReq r 0
    let wb := b && !isPxReq r 1
    let s := if wa then sendSnoop n l 0 .invalidate r store s else s
    let s := if wb then sendSnoop n l 1 .invalidate r store s else s
    (!wa && !wb, s)
  | .invalid => (true, s)

/-- A store's line is free of other copies, or its snoops are out. -/
def writeClear (n l : Nat) (r : Requester) (s : State) : Bool × State := lineClear true n l r s

/-- A read of a listed line is a read after dead (R214). -/
def countRad (n l : Nat) (s : State) : State :=
  modHome n (fun h => if h.deadList.contains l then
    { h with run := { h.run with dead := { h.run.dead with rad := satInc h.run.dead.rad } } } else h) s

/-- A read that skips a saturated slice goes straight to the controller (R208). -/
def bypassRead (r : Requester) (n l : Nat) (rg : Region) (mask : BitVec 4) (s : State) : List SectorVal × State :=
  let s := modHome n (fun h => { h with run := { h.run with bypass := { h.run.bypass with loads := h.run.bypass.loads + 1#32 } } }) s
  (List.range 4).foldl (fun (p : List SectorVal × State) k =>
    if mask.getLsbD k then
      let (v, t) := ctlRead (rg.memAddr (l * 128 + 32 * k)) p.2
      (p.1 ++ [v], countMoved r 1 t)
    else (p.1 ++ [noVal], p.2)) ([], s)

/-- A home can answer a read of some sectors from a line that it holds, without its stack. -/
def readHits (s : State) (n l : Nat) (mask : BitVec 4) : Bool :=
  match (getHome s n).line l with | some x => maskValid mask x.sectors | none => false

/-- A home can perform a store without its stacks: the sector is held, or the whole sector goes into a line that is, and no write to memory
belongs to it. -/
def storeHits (s : State) (n l k : Nat) (whole : Bool) (rg : Region) : Bool :=
  rg.policy != 1 && !(getHome s n).evb.any (fun e => e.line == l) &&
  (match (getHome s n).line l with | some x => (secAt x.sectors k).valid || (whole && rg.policy == 0) | none => false)

/-- A home reads some sectors of a line (R202, R203, R205, R206, R214, R216, R219, R227). None while the line waits for a
processor cache or for its stack (R253). -/
def homeReadLine (r : Requester) (l : Nat) (mask : BitVec 4) (rg : Region) (s : State) : Option (List SectorVal) × State :=
  let n := rg.home (l * 128)
  -- R208: how many of the 16 places of the slice's queue are taken when the read arrives is timing, a free value
  let (occ, s) := if rg.bypass then draw 5 s else (0#5, s)
  if rg.bypass && decide ((getHome s n).cfgEff.satThresh.toNat ≤ occ.toNat % 17) then
    if memWaits s rg l false then (none, s)
    else
      let (vs, s) := bypassRead r n l rg mask s
      (some vs, s)
  else if memWaits s rg l false && !readHits s n l mask then (none, s)
  else
    let s := enterQueue n l s
    let (ok, s) := readClear n l r s
    if !ok then (none, s)
    else
      let s := countRad n l s
      let alloc := rg.policy != 3
      match (getHome s n).line l, (getHome s n).evb.find? (fun e => e.line == l) with
      | none, some e =>
        -- R205: served from the buffer's data, allocated again as clean
        let miss := !maskValid mask e.sectors
        let s := countAccess n l (!miss) s
        if alloc then
          let s := allocLine n l s
          let s := modHome n (fun h => match h.line l with
            | some y => h.setLine l (some { y with sectors := e.sectors.map (fun z => { z with dirty := false }) })
            | none => h) s
          let s := fillLine r n l rg mask s
          (((getHome s n).line l).map (fun y => y.sectors.map Sector.val), s)
        else
          let (vs, s) := (List.range 4).foldl (fun (p : List SectorVal × State) k =>
            let x := secAt e.sectors k
            if x.valid then (p.1 ++ [x.val], p.2)
            else if mask.getLsbD k then
              let (v, t) := ctlRead (rg.memAddr (l * 128 + 32 * k)) p.2
              (p.1 ++ [v], countMoved r 1 t)
            else (p.1 ++ [noVal], p.2)) ([], s)
          (some vs, s)
      | some x, _ =>
        let s := countAccess n l (maskValid mask x.sectors) s
        let s := fillLine r n l rg mask s
        let s := touch n l (rg.policy == 3) s
        (((getHome s n).line l).map (fun y => y.sectors.map Sector.val), s)
      | none, none =>
        let s := countAccess n l false s
        let s := takeBack n l s
        match (getHome s n).line l with
        | some _ =>
          let s := fillLine r n l rg mask s
          (((getHome s n).line l).map (fun y => y.sectors.map Sector.val), s)
        | none =>
          if alloc then
            let s := allocLine n l s
            let s := fillLine r n l rg mask s
            (((getHome s n).line l).map (fun y => y.sectors.map Sector.val), s)
          else
            let (vs, s) := (List.range 4).foldl (fun (p : List SectorVal × State) k =>
              if mask.getLsbD k then
                let (v, t) := ctlRead (rg.memAddr (l * 128 + 32 * k)) p.2
                (p.1 ++ [v], countMoved r 1 t)
              else (p.1 ++ [noVal], p.2)) ([], s)
            (some vs, s)

/-- A write goes to memory, and to both controllers of a mirrored region (R203, R258). -/
def memWrite (r : Requester) (rg : Region) (pa : Nat) (en : BitVec 32) (v : SectorVal) (s : State) : State :=
  let a := rg.memAddr pa
  let s := countMoved r 1 (ctlWrite a en v s)
  if rg.mirrored && !rg.fromCopy then ctlWrite (copyAddr a) en v s else s

/-- Merge a store into a valid sector: a store of the whole sector replaces its poison (R202, R226, R471). -/
def Sector.store (x : Sector) (en : BitVec 32) (v : SectorVal) (dirty : Bool) : Sector :=
  { valid := true, dirty := x.dirty || dirty, data := mergeBytes x.data v.data en
    poison := if en = BitVec.allOnes 32 then v.poison else x.poison || v.poison }

/-- A home performs a store to one sector under its region's policy (R202, R203, R205, R206, R214, R216, R219). False while the
line waits for a processor cache or for a stack (R253). -/
def homeWriteSector (r : Requester) (pa : Nat) (en : BitVec 32) (v : SectorVal) (rg : Region) (s : State) : Bool × State :=
  let n := rg.home pa
  let l := lineOf pa
  let k := pa / 32 % 4
  let base := l * 128 + 32 * k
  let whole := en == BitVec.allOnes 32
  if en = 0#32 then (true, s)
  else if memWaits s rg l true && !storeHits s n l k whole rg then (false, s)
  else
    let (ok, s) := writeClear n l r (enterQueue n l s)
    if !ok then (false, s)
    else
      let s := evbDrainThrough n l s
      let s := modHome n (fun h => { h with deadList := h.deadList.filter (· != l) }) s
      let present := match (getHome s n).line l with | some x => (secAt x.sectors k).valid | none => false
      let upd (dirty : Bool) (t : State) : State :=
        match (getHome t n).line l with
        | some x => putSector n l k ((secAt x.sectors k).store en v dirty) t
        | none => t
      if rg.policy = 0 then
        let s := if present then countAccess n l true s else if whole then countHeavy n l false s else countAccess n l false s
        let s := allocLine n l s
        let s := if whole then s else fillLine r n l rg (maskBit 4 k) s
        (true, touch n l false (upd true s))
      else if rg.policy = 1 then
        if present then
          (true, memWrite r rg base en v (touch n l false (upd false (countAccess n l true s))))
        else if whole then
          (true, memWrite r rg base en v (touch n l false (upd false (allocLine n l (countHeavy n l false s)))))
        else (true, memWrite r rg base en v (countHeavy n l false s))
      else
        if present then (true, touch n l (rg.policy == 3) (upd true (countAccess n l true s)))
        else (true, memWrite r rg base en v (countHeavy n l false s))

/-- One operation of an atomic on a current value of w bits (R90, R223). -/
def atCompute (op : AtOp) (w : Nat) (cur : BitVec w) (o : AtOperand) : BitVec w :=
  let v : BitVec w := o.value.setWidth w
  match op with
  | .add => cur + v
  | .fadd32 => (fadd32 (cur.setWidth 32) (v.setWidth 32)).setWidth w
  | .min => if v.slt cur then v else cur
  | .max => if cur.slt v then v else cur
  | .and => cur &&& v
  | .or => cur ||| v
  | .xor => cur ^^^ v
  | .xchg => v
  | .cas => if cur = o.compare.setWidth w then v else cur

/-- The operations of one request in ascending thread order: the values that preceded each, and the final value (R222). -/
def atRun (op : AtOp) (w : Nat) : BitVec w → List AtOperand → List Word × BitVec w
  | cur, [] => ([], cur)
  | cur, o :: t =>
    let (ps, f) := atRun op w (atCompute op w cur o) t
    (cur.setWidth 64 :: ps, f)

/-- A home executes an atomic request on one address (R221 to R223): the values that preceded each operation, and whether the
sector was poisoned. None while the line waits for a processor cache. -/
def homeAtomicOp (r : Requester) (op : AtOp) (wide : Bool) (pa : Nat) (os : List AtOperand) (rg : Region) (s : State) :
    Option (List Word × Bool) × State :=
  let n := rg.home pa
  let l := lineOf pa
  let k := pa / 32 % 4
  let off := pa % 32
  let w := if wide then 64 else 32
  if memWaits s rg l true && !storeHits s n l k false rg then (none, s)
  else
  let (ok, s) := lineClear false n l r (enterQueue n l s)
  if !ok then (none, s)
  else
    let s := evbDrainThrough n l s
    let s := takeBack n l s
    let hit := match (getHome s n).line l with | some x => (secAt x.sectors k).valid | none => false
    let s := countAccess n l hit s
    let s := countRad n l s
    let s := modHome n (fun h => { h with
      deadList := h.deadList.filter (· != l)
      run := { h.run with atom := { reqs := h.run.atom.reqs + 1#32, operands := h.run.atom.operands + BitVec.ofNat 32 os.length } } }) s
    let s := fillLine r n l rg (maskBit 4 k) (allocLine n l s)
    match (getHome s n).line l with
    | none => (none, s)
    | some x =>
      let cur := secAt x.sectors k
      let (ps, f) := atRun op w (cur.data.extractLsb' (8 * off) w) os
      let en : BitVec 32 := (if wide then 0xFF#32 else 0xF#32) <<< off
      let v : SectorVal := { data := (f.setWidth 256) <<< (8 * off) }
      let s := putSector n l k (cur.store en v (rg.policy != 1)) s
      let s := if rg.policy = 1 then memWrite r rg (l * 128 + 32 * k) en v s else s
      (some (ps, cur.poison), touch n l (decide (2 ≤ rg.policy)) s)

/-- What a dead hint leaves of some sectors: poison that memory does not hold, since only a store of the whole sector clears it (R226; DEDUCED,
log 85). -/
def deadRest (secs : List Sector) : List Sector := secs.map (fun x => if x.valid && x.dirty && x.poison then x else {})

/-- Nothing is left of some sectors. -/
def nothingLeft (secs : List Sector) : Bool := secs.all (fun x => !x.valid)

/-- A home acts on a dead hint (R212, R213, R214). One to a line that is not present drops the partner's copy and buffered sectors, and does
nothing else. -/
def homeDead (l : Nat) (rg : Region) (s : State) : State :=
  let n := rg.home (l * 128)
  let s := enterQueue n l s
  let held := match (getHome s n).dirOf l with | .owned _ => true | .shared a b _ => a || b | .invalid => false
  if held || rg.ro then
    -- R219: the partner's copy is invalidated also where the hint is ignored for a shared line
    let s := if rg.ro then s else dropForeign n l s
    modHome n (fun h => { h with run := { h.run with dead := { h.run.dead with ignored := satInc h.run.dead.ignored } } }) s
  else
    let s := dropForeign n l s
    let s := modHome n (fun h => { h with
      evb := (h.evb.map (fun e => if e.line = l then { e with sectors := deadRest e.sectors } else e)).filter (fun e =>
        e.line != l || !nothingLeft e.sectors) }) s
    modHome n (fun h => match h.line l with
      | none => h
      | some x =>
        let rest := deadRest x.sectors
        { h.setLine l (if x.pinned || !nothingLeft rest then some { x with sectors := rest } else none) with
          deadList := (l :: h.deadList).take 64
          run := { h.run with dead := { h.run.dead with hints := h.run.dead.hints + 1#32 } } }) s

-- pins (R209, R210)

/-- The lines of a range. -/
def linesOf (addr len : Nat) : List Nat := (List.range (len / 128)).map (fun i => addr / 128 + i)

/-- The pinned lines of a home in a set. -/
def Home.pinnedIn (h : Home) (set : Nat) : Nat := ((h.ways set).filter (·.2.pinned)).length

/-- A line is pinned in its home. -/
def isPinned (s : State) (l : Nat) : Bool :=
  match regionAt s (l * 128) with
  | some rg => match (getHome s (rg.home (l * 128))).line l with | some x => x.pinned | none => false
  | none => false

/-- The lowest line of a pin request that falls in a set the request would carry past 12 pinned ways (R209). -/
def pinConflict (s : State) (ls : List Nat) : Option Nat :=
  let fresh := ls.filter (fun l => !isPinned s l)
  ls.find? (fun l =>
    match regionAt s (l * 128) with
    | some rg =>
      let n := rg.home (l * 128)
      let wants := fresh.countP (fun m => setOf m == setOf l && (match regionAt s (m * 128) with | some q => q.home (m * 128) == n | none => false))
      decide (12 < (getHome s n).pinnedIn (setOf l) + wants)
    | none => false)

/-- Fetch a pinned line in all four sectors, an ordinary request of its home (R209 to R211, R219). False while it waits for a processor
cache or for its stack. -/
def pinFetch (n l : Nat) (rg : Region) (s : State) : Bool × State :=
  if memWaits s rg l false && !readHits s n l 0xF#4 then (false, s)
  else
    let (ok, s) := readClear n l .innkeeper (enterQueue n l s)
    if !ok then (false, s)
    else
      let s := takeBack n l (evbDrainThrough n l s)
      let s := countAccess n l (readHits s n l 0xF#4) s
      (true, fillLine .innkeeper n l rg 0xF#4 (allocLine n l s))

/-- A line is marked pinned in its home. -/
def markPinned (n l : Nat) (s : State) : State :=
  modHome n (fun h => match h.line l with | some x => h.setLine l (some { x with pinned := true }) | none => h) s

/-- Pin one line for a command: it is fetched and holds a way from now on; what has to wait is fetched later (R209, R210). -/
def pinLine (cmd l : Nat) (s : State) : State :=
  match regionAt s (l * 128) with
  | none => s
  | some rg =>
    let n := rg.home (l * 128)
    let (ok, s) := pinFetch n l rg s
    if ok then markPinned n l s
    else
      let s := markPinned n l (allocLine n l (evbDrainThrough n l s))
      modHome n (fun h => { h with pinWait := h.pinWait ++ [(l, cmd)] }) s

/-- A command still waits for lines it has pinned. -/
def pinWaits (s : State) (cmd : Nat) : Bool := s.homes.any (fun p => p.2.pinWait.any (fun x => x.2 == cmd))

/-- A home fetches the pinned lines that waited; a command whose lines are all resident completes (R209). -/
def settlePins (n : Nat) (s : State) : State :=
  forEach (getHome s n).pinWait (fun x t =>
    match regionAt t (x.1 * 128) with
    | none => t
    | some rg =>
      let (ok, t) := pinFetch n x.1 rg t
      if !ok then t
      else
        let t := modHome n (fun h => { h with pinWait := h.pinWait.erase x }) t
        if pinWaits t x.2 then t else finishCmd x.2 stOk 0 t) s

/-- Unpin one line; its dirty sectors are written to memory (R210). -/
def unpinLine (l : Nat) (s : State) : State :=
  match regionAt s (l * 128) with
  | none => s
  | some rg =>
    let n := rg.home (l * 128)
    match (getHome s n).line l with
    | some x =>
      if x.pinned then
        let s := writeSectors l x.sectors (fun _ y => y.valid && y.dirty) s
        modHome n (fun h => h.setLine l (some { x with pinned := false, sectors := x.sectors.map (fun y => { y with dirty := false }) })) s
      else s
    | none => s

-- write-backs of whole regions (R229, R279, R365)

/-- Write every dirty sector of a line to memory and mark the line clean; a buffered line leaves the buffer (R205, R229). -/
def cleanLine (n l : Nat) (s : State) : State :=
  let s := evbDrainThrough n l s
  match (getHome s n).line l with
  | some x =>
    let s := writeSectors l x.sectors (fun _ y => y.valid && y.dirty) s
    modHome n (fun h => h.setLine l (some { x with sectors := x.sectors.map (fun y => { y with dirty := false }) })) s
  | none => s

/-- The lines of a home that hold dirty sectors of a region, buffered ones included. -/
def dirtyLines (h : Home) (rg : Region) : List Nat :=
  ((h.lines.filter (fun p => match p.2 with
      | some x => rg.has (p.1 * 128) && x.sectors.any (fun y => y.valid && y.dirty)
      | none => false)).map (·.1)) ++
    (h.evb.filter (fun e => rg.has (e.line * 128))).map (·.line)

/-- Write every dirty sector of a region to memory (R279). -/
def flushRegion (rg : Region) (s : State) : State :=
  let n := rg.home rg.base
  forEach (dirtyLines (getHome s n) rg) (cleanLine n) s

/-- The region's lines leave its home without write-back (R365). -/
def discardRegionLines (rg : Region) (s : State) : State :=
  let n := rg.home rg.base
  let out (l : Nat) : Bool := rg.has (l * 128)
  let s := forEach ((((getHome s n).pinWait.filter (fun x => out x.1)).map (·.2)).eraseDups) (fun c t => finishCmd c stAborted 0 t) s
  let s := modHome n (fun h => { h with
    pinWait := h.pinWait.filter (fun x => !out x.1)
    lines := h.lines.filter (fun p => !out p.1), evb := h.evb.filter (fun e => !out e.line)
    dir := h.dir.filter (fun p => !out p.1), snoops := h.snoops.filter (fun x => !out x.line)
    flushLines := h.flushLines.filter (fun l => !out l) }) s
  let s := modHome (otherHalf n) (fun h => { h with lines := h.lines.filter (fun p => !out p.1) }) s
  { s with px := s.px.map (fun p => (p.1, PxDie.lose out { p.2 with cache := p.2.cache.filter (fun q => !out q.1) })) }

end Sys2Proof.Machine
end

