-- ==== Sys2Proof/Machine/Pigeonholes.lean ====
section
/-! DEFINITION. Byte ranges read and written through the homes, and the pigeonholes as memory shows them: command areas, slots, seals
and their reports, completion rings (R309 to R318, R330, R334, R339). -/

namespace Sys2Proof.Machine

/-- The runtime pigeonholes' command areas and rings (R310). -/
def runtimeAreaBase : Nat := 0x11FFE00000
def runtimeAreaLen : Nat := 0x200000

/-- An access touches a command area or a completion ring in device memory (R309, R310, R317). -/
def touchesArea (s : State) (a n : Nat) : Bool :=
  overlaps a n runtimeAreaBase runtimeAreaLen ||
  s.innk.phs.any (fun p => match p.2 with | some h => h.st != .closed && overlaps a n h.area 0x8000 | none => false)

/-- The sectors of a line that one access of n bytes needs. -/
def sectorMask (a n : Nat) : BitVec 4 :=
  (List.range 4).foldl (fun m k => if overlaps a n (a / 128 * 128 + 32 * k) 32 then setBit m k else m) 0#4

/-- Insert a line with the sectors needed of it into an ascending list. -/
def insertLine (l : Nat) (m : BitVec 4) : List (Nat × BitVec 4) → List (Nat × BitVec 4)
  | [] => [(l, m)]
  | (k, x) :: t => if l < k then (l, m) :: (k, x) :: t else if l = k then (k, x ||| m) :: t else (k, x) :: insertLine l m t
/-- The 32-byte words that some bytes lie in, ascending, and the enables and data of one of them; a later byte wins (R89, R471). -/
def wordsOf (bs : List (Nat × Byte)) : List Nat := (bs.foldl (fun acc b => insertLine (b.1 / 32) 0#4 acc) []).map (·.1)
def wordEnables (bs : List (Nat × Byte)) (w : Nat) : BitVec 32 :=
  bs.foldl (fun m b => if b.1 / 32 = w then setBit m (b.1 % 32) else m) 0#32
def wordData (bs : List (Nat × Byte)) (w : Nat) : BitVec 256 :=
  bs.foldl (fun d b => if b.1 / 32 = w then
    BitVec.ofNat 256 (d.toNat - (byteOf d (b.1 % 32)).toNat * 2 ^ (8 * (b.1 % 32)) + b.2.toNat * 2 ^ (8 * (b.1 % 32))) else d) 0#256

/-- Every line of some writes is free of other copies and its stacks take requests; otherwise its snoops are out, or it waits (R219,
R253). -/
def clearLines (store : Bool) (r : Requester) (ls : List Nat) (s : State) : Bool × State :=
  ls.foldl (fun (p : Bool × State) l =>
    match usable p.2 (l * 128) with
    | some rg => let (ok, t) := lineClear store (rg.home (l * 128)) l r p.2; (p.1 && ok && !memWaits t rg l true, t)
    | none => p) (true, s)

/-- The lines of some stores are free. -/
def clearAll (r : Requester) (ls : List Nat) (s : State) : Bool × State := clearLines true r ls s

/-- A store that waited on a line was completed by a coherence timeout without being performed (R225). -/
def isVoided (s : State) (r : Requester) (l : Nat) : Bool :=
  match usable s (l * 128) with | some rg => (getHome s (rg.home (l * 128))).voided.contains (l, r) | none => false

/-- Those stores have been made again and are over. -/
def clearVoided (r : Requester) (ls : List Nat) (s : State) : State :=
  forEach ls (fun l t => match usable t (l * 128) with
    | some rg => modHome (rg.home (l * 128)) (fun h => { h with voided := h.voided.filter (· != (l, r)) }) t
    | none => t) s


/-- The lines of a byte range, ascending, with the sectors it needs of each. -/
def rangeLines (a n : Nat) : List (Nat × BitVec 4) :=
  if n = 0 then [] else (List.range ((a + n - 1) / 128 + 1 - a / 128)).map (fun i =>
    let l := a / 128 + i
    let lo := max a (l * 128)
    (l, sectorMask lo (min (a + n) (l * 128 + 128) - lo)))

/-- Lines read at their homes, in ascending order; none as soon as one has to wait for a processor cache (R216). -/
def homeReadLines (r : Requester) : List (Nat × BitVec 4) → State → Option (List (Nat × List SectorVal)) × State
  | [], s => (some [], s)
  | (l, m) :: t, s =>
    match usable s (l * 128) with
    | none =>
      let (rest, s) := homeReadLines r t s
      (rest.map (fun x => (l, List.replicate 4 noVal) :: x), s)
    | some rg =>
      let (v, s) := homeReadLine r l m rg s
      match v with
      | none => (none, s)
      | some vs =>
        let (rest, s) := homeReadLines r t s
        (rest.map (fun x => (l, vs) :: x), s)

/-- The sector of some lines read that holds an address. -/
def lineSector (ls : List (Nat × List SectorVal)) (a : Nat) : SectorVal :=
  match ls.find? (fun p => p.1 == lineOf a) with
  | some p => p.2.getD (a / 32 % 4) noVal
  | none => noVal

/-- The bytes of a range, read at the homes. -/
def homeReadBytes (r : Requester) (a n : Nat) (s : State) : Option (List Byte) × State :=
  let (v, s) := homeReadLines r (rangeLines a n) s
  (v.map (fun ls => (List.range n).map (fun i => byteOf (lineSector ls (a + i)).data ((a + i) % 32))), s)

/-- The pigeonhole as module reset leaves it (R310, R334, R339). -/
def defaultPh (n : Nat) : Pigeonhole :=
  if n < 64 then
    { st := .open_, urgentOk := true, epoch := 1#8, area := runtimeAreaBase + n * 0x8000, cq := runtimeAreaBase + n * 0x8000 + 0x6000,
      maxInflight := 256 }
  else { st := .closed, urgentOk := false, epoch := 0#8, area := 0, cq := 0, maxInflight := 32 }

/-- A pigeonhole. -/
def getPh (s : State) (n : Nat) : Pigeonhole := (tabGet none s.innk.phs n).getD (defaultPh n)

/-- Change a pigeonhole. -/
def modPh (n : Nat) (f : Pigeonhole → Pigeonhole) (s : State) : State :=
  modInnk (fun i => { i with phs := tabSet none i.phs n (some (f (getPh s n))) }) s

/-- The number of pigeonholes (R309). -/
def phCount : Nat := 16448

/-- The commands of a pigeonhole in flight, and all of them (R322). -/
def phInflight (s : State) (n : Nat) : Nat := s.innk.cmds.countP (fun p => match p.2 with | some c => c.ph == n | none => false)
def inflightTotal (s : State) : Nat := s.innk.cmds.length

/-- The SEQ a SEAL value carries is the one its slot expects (R314). -/
def seqFits (head : BitVec 16) (slot : Nat) (v : Word) : Bool :=
  let q := v.setWidth 16
  decide (q.toNat % 256 = slot) && decide ((q - head).toNat < 256)

/-- The pigeonhole unit takes the report of a write to a SEAL word (R314, R334): an 8-byte write with the right EPOCH and SEQ makes the
slot full, any other is counted. -/
def sealReport (n slot : Nat) (wide : Bool) (v : Word) (s : State) : State :=
  let p := getPh s n
  if p.st != .open_ then s
  else if !wide then modPh n (fun p => { p with err := { p.err with partialSeal := satInc p.err.partialSeal } }) s
  else if v.extractLsb' 16 8 == p.epoch && seqFits p.head slot v then modPh n (fun p => { p with full := tabSet none p.full slot (some v) }) s
  else modPh n (fun p => { p with err := { p.err with badSeal := satInc p.err.badSeal } }) s

/-- The pigeonhole unit takes the report of a write to CQ_CTL (R330). -/
def cqReport (n : Nat) (wide : Bool) (v : Word) (s : State) : State :=
  let p := getPh s n
  let h := v.setWidth 16
  if wide && v.extractLsb' 16 8 == p.epoch && decide ((p.cqTail - h).toNat ≤ 256) then modPh n (fun p => { p with cqHead := h }) s
  else modPh n (fun p => { p with err := { p.err with badCqh := satInc p.err.badCqh } }) s

/-- The pigeonhole in whose command area an address lies (R310, R311). -/
def phAt (s : State) (a : Nat) : Option Nat :=
  if runtimeAreaBase ≤ a ∧ a < runtimeAreaBase + runtimeAreaLen then some ((a - runtimeAreaBase) / 0x8000)
  else s.innk.phs.findSome? (fun p => match p.2 with
    | some h => if 64 ≤ p.1 && h.st != .closed && decide (h.area ≤ a) && decide (a < h.area + 0x8000) then some p.1 else none
    | none => none)

/-- One 8-byte word of device memory has been written at its home, whole or in part (R314, R330); an address without a home in service
takes no write and makes no report. -/
def reportWord (w : Nat) (wide : Bool) (v : Word) (s : State) : State :=
  match (usable s w).bind (fun _ => phAt s w) with
  | none => s
  | some n =>
    let off := w - (getPh s n).area
    if off < 0x4000 then (if off % 64 = 0x38 then sealReport n (off / 64) wide v s else s)
    else if off = 0x4000 then cqReport n wide v s
    else s

/-- The homes report the words of a written range, in ascending order, but those of lines where nothing was performed (R314). -/
def reportWrite (a : Nat) (bs : List Byte) (gone : List Nat) (s : State) : State :=
  forEach (List.range ((a + bs.length + 7) / 8 - a / 8)) (fun i t =>
    let w := (a / 8 + i) * 8
    let wide := decide (a ≤ w) && decide (w + 8 ≤ a + bs.length)
    if bs.isEmpty || gone.contains (lineOf w) then t else reportWord w wide (BitVec.ofNat 64 (bytesNat ((bs.drop (w - a)).take 8))) t) s

/-- Bytes written through the homes to consecutive addresses, in ascending order, with their reports (R216, R314). False while a line
waits for a processor cache. -/
def homeWriteBytes (r : Requester) (a : Nat) (bs : List Byte) (s : State) : Bool × State :=
  let (ok, s) := clearAll r ((rangeLines a bs.length).map (·.1)) s
  if !ok then (false, s)
  else
    let ps := (List.range bs.length).zip bs |>.map (fun p => (a + p.1, p.2))
    let gone := ((rangeLines a bs.length).map (·.1)).filter (isVoided s r)
    let s := clearVoided r gone s
    let s := forEach ((rangeLines a bs.length).filter (fun lm => !gone.contains lm.1)) (fun lm t =>
      forEach (List.range 4) (fun k u =>
        if lm.2.getLsbD k then
          let w := lm.1 * 4 + k
          let mine := ps.filter (fun p => p.1 / 32 == w)
          match usable u (w * 32) with
          | some rg => (homeWriteSector r (w * 32) (wordEnables mine w) { data := wordData mine w } rg u).2
          | none => u
        else u) t) s
    (true, reportWrite a bs gone s)

/-- Where what is true of an address can change: the ends of regions and of command areas. -/
def addrEdges (s : State) : List Nat :=
  s.regions.flatMap (fun r => [r.base, r.base + r.len]) ++ [runtimeAreaBase, runtimeAreaBase + runtimeAreaLen] ++
  s.innk.phs.flatMap (fun p => match p.2 with | some h => [h.area, h.area + 0x8000] | none => [])

/-- The lowest address of a range of which something holds that changes only at the edges given. -/
def lowestBad (edges : List Nat) (a n : Nat) (bad : Nat → Bool) : Option Nat :=
  let hits := (a :: edges.filter (fun e => decide (a < e) && decide (e < a + n))).filter bad
  if n = 0 then none else hits.foldl (fun m x => match m with | some y => some (min x y) | none => some x) none

/-- Words as the bytes that hold them. -/
def bytesOfWords (ws : List Word) : List Byte := ws.flatMap (wordBytes 8)

/-- Who may write a byte of a command area or of a runtime ring (R317, R335): the processor complex a runtime area, the network engine a
guest's, the Innkeeper a ring and, when it opens a pigeonhole, the SEAL words. -/
def mayWrite (s : State) (r : Requester) (a : Nat) : Bool :=
  match phAt s a with
  | none => true
  | some n =>
    let ring := decide (n < 64) && decide (0x6000 ≤ a - (getPh s n).area)
    match r with
    | .px _ => decide (n < 64) && !ring
    | .network => decide (64 ≤ n)
    | .innkeeper => ring || decide (64 ≤ n)
    | _ => false

/-- The homes report the 8-byte words of one 32-byte word that a write with enables has touched (R314). -/
def reportSector (a : Nat) (en : BitVec 32) (d : BitVec 256) (s : State) : State :=
  forEach (List.range 4) (fun i t =>
    let e : BitVec 8 := en.extractLsb' (8 * i) 8
    if e = 0#8 then t else reportWord (a + 8 * i) (e == 0xFF#8) (d.extractLsb' (64 * i) 64) t) s

end Sys2Proof.Machine
end

