-- ==== Sys2Proof/Machine/HomeCmds.lean ====
section
/-! DEFINITION. The homes' commands (R200 to R229, R292, R451 to R455): requests as they reach a home, lines of the processor die
caches, answers and timeouts of snoops, eviction write-backs, the end of a home's part of a checkpoint flush, and the loss of a
half. -/

namespace Sys2Proof.Machine

/-- Add a processor die to a line's presence mask, or make it the owner (R218). -/
def Dir.addPx (d : Nat) (own : Bool) : Dir → Dir
  | .shared a b c => if own then .owned d else .shared (a || d == 0) (b || d == 1) c
  | _ => if own then .owned d else .shared (d == 0) (d == 1) false

/-- Take a processor die out of a line's directory entry. -/
def Dir.dropPx (d : Nat) : Dir → Dir
  | .shared a b c => Dir.norm (.shared (a && d != 0) (b && d != 1) c)
  | .owned e => if e = d then .invalid else .owned e
  | .invalid => .invalid

/-- The line of a die cache. -/
def PxDie.line (p : PxDie) (l : Nat) : Option PxLine := tabGet none p.cache l

/-- Put a line into a die cache, or drop it. -/
def setPxLine (d l : Nat) (v : Option PxLine) (s : State) : State :=
  if v.isSome then modPx d (fun p => { p with cache := tabSet none p.cache l v }) s else pxDrop d l s

/-- A die cache obtains a whole line from its home, shared or owned (R218, R219, R451). False while other copies are being called
back. -/
def pxObtain (d l : Nat) (own : Bool) (rg : Region) (s : State) : Bool × State :=
  let n := rg.home (l * 128)
  let (ok, s) := if own then lineClear false n l (.px d) s else readClear n l (.px d) s
  if !ok then (false, s)
  else
    -- R214: the line is obtained to be stored to
    let s := if own then modHome n (fun h => { h with deadList := h.deadList.filter (· != l) }) s else s
    let (got, s) := homeReadLine (.px d) l 0xF#4 rg s
    match got with
    | none => (false, s)
    | some vs =>
      let secs := (List.range 4).map (fun k => ({ valid := true, poison := (vs.getD k noVal).poison, data := (vs.getD k noVal).data } : Sector))
      let s := dirRoom n l s
      let s := modHome n (fun h => h.setDir l (Dir.addPx d own (h.dirOf l))) s
      (true, setPxLine d l (some { sectors := secs, owned := own }) s)

/-- The modified sectors of a processor's line go into the home's line; under write-through they go to memory too (R203, R219). -/
def pxSupply (n l : Nat) (secs : List Sector) (s : State) : State :=
  match regionAt s (l * 128) with
  | none => s
  | some rg =>
    if secs.any (fun x => x.valid && x.dirty) then
      let s := evbDrainThrough n l s
      let s := allocLine n l s
      forEach (List.range 4) (fun k t =>
        let x := secAt secs k
        if x.valid && x.dirty then
          let t := putSector n l k { x with dirty := rg.policy != 1 } t
          if rg.policy = 1 then memWrite (.px 0) rg (l * 128 + 32 * k) (BitVec.allOnes 32) x.val t else t
        else t) s
    else s

/-- A die cache writes back a line it owns and keeps or drops it; its home's directory follows. -/
def pxWriteBack (d l : Nat) (keep : Bool) (s : State) : State :=
  match (getPx s d).line l, regionAt s (l * 128) with
  | some x, some rg =>
    let n := rg.home (l * 128)
    let s := if x.owned then pxSupply n l x.sectors s else s
    let s := setPxLine d l (if keep then some { sectors := x.sectors.map (fun y => { y with dirty := false }), owned := false } else none) s
    modHome n (fun h => h.setDir l (if keep then Dir.addPx d false (Dir.dropPx d (h.dirOf l)) else Dir.dropPx d (h.dirOf l))) s
  | some _, none => setPxLine d l none s
  | none, _ => s

/-- The answer of a die cache to a downgrade, a recall or an invalidation (R219, R226, R451): a late answer finds no snoop. -/
def doSnoopAnswer (n l d : Nat) (s : State) : State :=
  match (getHome s n).snoops.find? (fun x => x.line == l && x.die == d) with
  | none => s
  | some sn =>
    let s := modHome n (fun h => { h with snoops := h.snoops.filter (fun x => !(x.line == l && x.die == d)) }) s
    let s := match (getPx s d).line l with
      | some x => if x.owned then pxSupply n l x.sectors s else s
      | none => s
    let keep := sn.kind == .downgrade
    let s := setPxLine d l (match (getPx s d).line l with
      | some x => if keep then some { sectors := x.sectors.map (fun y => { y with dirty := false }), owned := false } else none
      | none => none) s
    settlePins n (modHome n (fun h => h.setDir l (if keep then Dir.addPx d false (Dir.dropPx d (h.dirOf l)) else Dir.dropPx d (h.dirOf l))) s)

/-- A descriptor whose next chunk touches a line. -/
def Desc.touches (l : Nat) (d : Desc) : Bool :=
  let n := min 4096 (d.len - d.moved)
  (decide (d.op = 1 ∨ d.op = 3) && overlaps (l * 128) 128 (d.src + d.moved) n) || (d.op != 3 && overlaps (l * 128) 128 (d.dst + d.moved) n)

/-- The descriptor for which a porter waits on a line: of the two that it works on, the one whose next chunk touches the line, a leg's
first. -/
def waitingDesc (s : State) (p l : Nat) : Option Desc :=
  let first (q : List Desc) : Option Desc := (q.find? (fun d => decide (d.moved < d.len))).filter (Desc.touches l)
  match first (getPorter s p).legQ with | some d => some d | none => first (getPorter s p).cmdQ

/-- The itineraries of the compute cores and of the porters' moves that wait on a line, one for each that waits (R225, R282). -/
def waitingItins (s : State) (l : Nat) (rs : List Requester) : List Nat :=
  rs.filterMap (fun r => match r with
    | .core cl _ => heldBy s cl
    | .porter n => (waitingDesc s n l).bind (fun d => match d.owner with | .leg k _ _ => some k | .cmd _ _ => none)
    | _ => none)

/-- A requester whose waiting store a coherence timeout completes without performing it; a core's leg is discarded, and a porter issues
again what a command waits for (R225, R437). -/
def voidsStore : Requester → Bool
  | .core _ _ => false
  | .porter _ => false
  | _ => true

/-- No answer within 64 microseconds: the home poisons the line, notifies the die cache and reports, for each core that waits (R225, R455).
A waiting request finds the poison when it is made again; a waiting store is not performed. A write of a command piece that waits is issued
again (R437). -/
def doCoherenceTimeout (n l : Nat) (s : State) : State :=
  match (getHome s n).snoops.filter (fun x => x.line == l) with
  | [] => s
  | sns =>
    let ws := (sns.flatMap (·.waiting)).eraseDups
    let ks := waitingItins s l ws
    let void := ((sns.flatMap (·.stores)).eraseDups.filter voidsStore).map (fun r => (l, r))
    let s := evbDrainThrough n l s
    let s := dropForeign n l s
    let s := allocLine n l s
    let bad (y : Sector) : Sector := { y with valid := true, dirty := true, poison := true }
    let s := modHome n (fun h => match h.line l with
      | some x => h.setLine l (some { x with sectors := x.sectors.map bad })
      | none => h) s
    let s := modHome n (fun h =>
      { h.setDir l .invalid with
        snoops := h.snoops.filter (fun x => x.line != l)
        voided := h.voided ++ void.filter (fun x => !h.voided.contains x)
        poisonAddr := { addr := BitVec.ofNat 52 (l * 128), valid := 1#1 }
        run := { h.run with coh := { h.run.coh with timeouts := satInc h.run.coh.timeouts } } }) s
    let s := forEach [0, 1] (fun d t => setPxLine d l none t) s
    let seq := s.errSeq
    let s := logErr { cls := 6, action := if ks.isEmpty then 0 else 1, source := 4, unit := n, sub := setOf l % 64, addr := BitVec.ofNat 64 (l * 128) } s
    let s := forEach ws (fun r t => match r with
      | .porter p => if (match waitingDesc t p l with
          | some d => (match d.owner with | .cmd _ _ => d.op != 3 && overlaps (l * 128) 128 d.dst d.len | .leg _ _ _ => false)
          | none => false) then
          modPorter p (fun x => { x with run := { x.run with integ := { x.run.integ with retry := satInc x.run.integ.retry } } }) t
        else t
      | _ => t) s
    settlePins n (forEach ks (fun k t => stageFault [k] { fclass := 2, addr := BitVec.ofNat 64 (l * 128), frec := BitVec.ofNat 64 seq } t) s)

/-- A checkpoint is complete once no home is pending (R291, R292): its stage number and the positions it recorded stand. -/
def completeCkpt (s : State) : State :=
  match s.ldg.flushing with
  | none => s
  | some c =>
    if s.ldg.pending ≠ 0#8 then s
    else
      let s := modLdg (fun l => { l with ckpt := some c, flushing := none, ckptDone := true }) s
      { s with itins := s.itins.map (fun p => (p.1, p.2.map (fun i => { i with ckptPos := (c, i.ckptNew) :: i.ckptPos }))) }

/-- The lines of memory that the flush of a line writes: in its stack, and in the partner's for a mirrored region (R258). -/
def flushTargets (s : State) (l : Nat) : List Nat :=
  match regionAt s (l * 128) with
  | none => []
  | some rg =>
    let a := rg.memAddr (l * 128)
    lineOf a :: (if rg.mirrored && !rg.fromCopy then [lineOf (copyAddr a)] else [])

/-- A home and its controller finish their part of the flush: its dirty sectors are written, and drained to the stacks with the marked
entries (R250, R292). It waits while a stack that it writes retrains (R253). -/
def doHomeFlushDone (n : Nat) (s : State) : State :=
  if s.ldg.flushing.isSome && s.ldg.pending.getLsbD n && !(getCtl s n).retraining &&
      !((getHome s n).flushLines.flatMap (flushTargets s)).any (fun l => (getCtl s (stackOf (l * 128))).retraining) then
    let ls := (getHome s n).flushLines
    let cnt (t : State) : Nat := match t.ctls.find? (fun p => p.1 == n) with | some p => p.2.run.traffic.wrSectors.toNat | none => 0
    let before := cnt s
    let s := forEach ls (fun l t => forEach (flushTargets t l) drainLine (cleanLine n l t)) s
    let s := drainMarked n (modHome n (fun h => { h with flushLines := [] }) s)
    let s := modSb (fun b => { b with movedFlush := b.movedFlush + (cnt s - before) }) s
    completeCkpt (modLdg (fun l => { l with pending := clearBit l.pending n }) s)
  else s

/-- With the IOD cut off nothing that lies on it reaches a home (R243). -/
def reachesHomes (s : State) : Requester → Bool
  | .core _ _ => true
  | .px _ => true
  | _ => !iodCut s

/-- A read as it reaches a home (R202 to R206, R216, R219). A processor die takes the whole line into its cache. -/
def doHomeRead (r : Requester) (addr : Nat) (mask : BitVec 4) (s : State) : State :=
  match (if reachesHomes s r then usable s addr else none) with
  | none => s
  | some rg =>
    match r with
    | .px d => (pxObtain d (lineOf addr) false rg s).2
    | _ => (homeReadLine r (lineOf addr) mask rg s).2

/-- A write as it reaches a home (R199, R203, R314, R317): a region with RO set refuses it, and a command area any but its owner's; what it
writes there is reported. -/
def doHomeWrite (r : Requester) (addr : Nat) (en : BitVec 32) (d : BitVec 256) (s : State) : State :=
  match (if reachesHomes s r then usable s addr else none) with
  | none => s
  | some rg =>
    if rg.ro || !mayWrite s r addr then s
    else if isVoided s r (lineOf addr) then clearVoided r [lineOf addr] s
    else
      let (ok, s) := homeWriteSector r (addr / 32 * 32) en { data := d } rg s
      if ok then reportSector (addr / 32 * 32) en d s else s

/-- An atomic as it reaches a home (R221 to R223): aligned, and not in a region with RO set nor in a command area that is not the
requester's (R317). -/
def doHomeAtomic (r : Requester) (op : AtOp) (wide : Bool) (addr : Nat) (os : List AtOperand) (s : State) : State :=
  match (if reachesHomes s r then usable s addr else none) with
  | none => s
  | some rg => if rg.ro || !mayWrite s r addr || addr % (if wide then 8 else 4) != 0 || (wide && op == .fadd32) then s else (homeAtomicOp r op wide addr os rg s).2

/-- A dead hint as it reaches a home (R212, R213). -/
def doHomeDead (addr : Nat) (s : State) : State :=
  match usable s addr with
  | none => s
  | some rg => homeDead (lineOf addr) rg s

/-- The oldest line of an eviction buffer is written back (R205), once its stacks take requests (R253). -/
def doWriteback (n : Nat) (s : State) : State :=
  match (getHome s n).evb with
  | [] => s
  | e :: _ =>
    if halfLive s n && !(match regionAt s (e.line * 128) with | some rg => memWaits s rg e.line true | none => false) then evbDrain n s else s

/-- HOME_READ (R203). -/
def execHomeRead (r : Requester) (addr : Nat) (sectors : BitVec 4) (s : State) : Host.Outcome State Fault Refusal := .next (doHomeRead r addr sectors s)
/-- HOME_WRITE (R203). -/
def execHomeWrite (r : Requester) (addr : Nat) (enables : BitVec 32) (data : BitVec 256) (s : State) : Host.Outcome State Fault Refusal :=
  .next (doHomeWrite r addr enables data s)
/-- HOME_ATOMIC (R221). -/
def execHomeAtomic (r : Requester) (op : AtOp) (width64 : Bool) (addr : Nat) (operands : List AtOperand) (s : State) :
    Host.Outcome State Fault Refusal := .next (doHomeAtomic r op width64 addr operands s)
/-- HOME_DEAD_HINT (R212): whoever sends it, the home acts alike. -/
def execHomeDeadHint (_r : Requester) (addr : Nat) (s : State) : Host.Outcome State Fault Refusal := .next (doHomeDead addr s)
/-- EVICTION_WRITEBACK (R205). -/
def execEvictionWriteback (home : Nat) (s : State) : Host.Outcome State Fault Refusal := .next (doWriteback home s)
/-- SNOOP_ANSWER (R219). -/
def execSnoopAnswer (home line die : Nat) (s : State) : Host.Outcome State Fault Refusal := .next (doSnoopAnswer home line die s)
/-- COHERENCE_TIMEOUT (R225). -/
def execCoherenceTimeout (home line : Nat) (s : State) : Host.Outcome State Fault Refusal := .next (doCoherenceTimeout home line s)
/-- HOME_FLUSH_DONE (R292). -/
def execHomeFlushDone (home : Nat) (s : State) : Host.Outcome State Fault Refusal := .next (doHomeFlushDone home s)
/-- L2_HALF_LOSS (R201, R293). -/
def execL2HalfLoss (home : Nat) (s : State) : Host.Outcome State Fault Refusal := .next (halfLoss home s)

end Sys2Proof.Machine
end

