-- ==== Sys2Proof/Machine/MemCmds.lean ====
section
/-! DEFINITION. The commands of the memory controllers, of the Innkeeper's SRAM scrub and of the die-to-die links (R241, R242, R245 to
R253, R257, R472). -/

namespace Sys2Proof.Machine

/-- A stack's controller takes requests: in service, and its PHY not retraining (R253). -/
def ctlServes (s : State) (n : Nat) : Bool := stackLive s n && !(getCtl s n).retraining

/-- The errors that a read meets on its way strike the stored words of the sector and of its copy. -/
def strikeBoth (a : Nat) (err copyErr : WordErr) (s : State) : State :=
  let s := strike a err s
  match mirrorOf s a with
  | some c => strike c copyErr s
  | none => s

/-- A transfer that fails is retried up to 4 times; then the PHY retrains (R253). -/
def countRetries (n k : Nat) (s : State) : State :=
  modCtl n (fun c => { c with
    retraining := c.retraining || decide (4 < k)
    run := { c.run with ecc := { c.run.ecc with ifRetry := satAdd c.run.ecc.ifRetry (min k 4) } } }) s

/-- The controller reads a sector for a home (R245, R253, R259, R263). -/
def doMemRead (addr : Nat) (err copyErr : WordErr) (ifFails : Nat) (s : State) : State :=
  let a := addr / 32 * 32
  let n := stackOf a
  if !ctlServes s n then s
  else
    let s := countRetries n ifFails (strikeBoth a err copyErr s)
    if 4 < ifFails then s else (ctlRead a s).2

/-- The controller accepts a write into its write-combining buffer (R246). -/
def doWcbWrite (addr : Nat) (en : BitVec 32) (d : BitVec 256) (s : State) : State :=
  let a := addr / 32 * 32
  if ctlServes s (stackOf a) && en != 0#32 then ctlWrite a en { data := d } s else s

/-- An entry that has received no write for IDLE_NS drains (R247). -/
def doWcbIdleDrain (n line : Nat) (s : State) : State :=
  match (getCtl s n).entry line with
  | some e => if ctlServes s n then drainEntry n e s else s
  | none => s

/-- PHY retraining ends; a failure loses the stack (R253, R269). -/
def doPhyRetrainDone (n : Nat) (ok : Bool) (s : State) : State :=
  if !(getCtl s n).retraining then s
  else
    let s := modCtl n (fun c => { c with retraining := false }) s
    if ok then settlePins n s else stackLoss n 5 n s

/-- A bank of a pseudo-channel is refreshed (R251): its contents stay as they are. -/
def doRefresh (n pc bank : Nat) (s : State) : State :=
  if stackLive s n && decide (pc < 64) && decide (bank < 64) then
    modCtl n (fun c => { c with refreshed := tabSet 0 c.refreshed (pc * 64 + bank) (tabGet 0 c.refreshed (pc * 64 + bank) + 1) }) s
  else s

/-- The controller reads its stack's temperature (R251). -/
def doTempRead (n : Nat) (t : BitVec 8) (s : State) : State :=
  if stackLive s n then
    modCtl n (fun c => { c with
      tempC := t
      refresh2x := if 85 ≤ t.toNat then true else if t.toNat < 80 then false else c.refresh2x }) s
  else s

/-- The patrol scrub reads the next sector of a stack (R252). -/
def doPatrolScrub (n : Nat) (err copyErr : WordErr) (s : State) : State :=
  if !ctlServes s n then s
  else
    let off := (getCtl s n).scrub.offset.toNat
    let a := n * stackBytes + off
    let busy := match (getCtl s n).entry (lineOf a) with | some e => e.en (a / 32 % 4) != 0#32 | none => false
    let s := if busy then s
      else
        let s := strikeBoth a err copyErr s
        match storedDecode s a with
        | .corrected _ _ => let (v, t) := stackRead a s; storeSector a v t
        | _ => (stackRead a s).2
    let next := off + 32
    modCtl n (fun c => { c with scrub :=
      if stackBytes ≤ next then { offset := 0#37, passes := satInc c.scrub.passes } else { c.scrub with offset := BitVec.ofNat 37 next } }) s

/-- One line of a region that is being mirrored is copied to the partner (R257); the last one completes the command. -/
def doMirrorLineCopy (base : Nat) (s : State) : State :=
  match s.regions.find? (fun r => r.base == base) with
  | none => s
  | some rg =>
    match rg.mirrorNext with
    | none => s
    | some a =>
      if !(ctlServes s (stackOf a) && ctlServes s (partnerOf (stackOf a))) then s
      else
        let s := forEach (List.range 4) (fun k t =>
          let (v, t) := ctlRead (a + 32 * k) t
          ctlWrite (copyAddr (a + 32 * k)) (BitVec.ofNat 32 0xFFFFFFFF) v t) s
        let done := decide (rg.base + rg.len ≤ a + 128)
        let s := modRegion base (fun r => { r with mirrorNext := if done then none else some (a + 128), mirrorCmd := if done then none else r.mirrorCmd }) s
        match done, rg.mirrorCmd with
        | true, some c => finishCmd c stOk 0 s
        | _, _ => s

/-- The Innkeeper scrubs a word of IOD SRAM (R472, R476): an error is recorded as what it is. -/
def doSramScrub (word : Nat) (err : WordErr) (s : State) : State :=
  let syn := syndromes err.data err.chk
  match decodeSyndromes syn with
  | .corrected p v => logErr { cls := 1, source := 0x0A, addr := BitVec.ofNat 64 (32 * word), syndrome := syn, symbol := p, evalue := v } s
  | .uncorrectable => logErr { cls := 2, source := 0x0A, addr := BitVec.ofNat 64 (32 * word), syndrome := syn } s
  | _ => s

/-- One second in nanoseconds. -/
def secNs : Nat := 1000000000

/-- Change a link. -/
def modLink (n : Nat) (f : Link → Link) (s : State) : State := modSb (fun b => { b with links := tabSet {} b.links n (f (tabGet {} b.links n)) }) s

/-- A word arrives over a link with an error that the code corrects: the link counts it and reports it (R241, R476). -/
def linkCorrects (n lane : Nat) (syn : BitVec 32) (p : Nat) (v : Byte) (s : State) : State :=
  logErr { cls := 1, source := 6, unit := n, sub := lane, syndrome := syn, symbol := p, evalue := v }
    (modLink n (fun l => { l with regs := { l.regs with corrected := satInc l.regs.corrected } }) s)

/-- A word that arrives uncorrectable over a link is sent again (R241); if it fails once more, every uncommitted leg is discarded, and the
third such fault within 1 s loses the link (R242). -/
def linkAgain (n lane : Nat) (again : WordErr) (s : State) : State :=
  let good := logErr { cls := 7, source := 6, unit := n, sub := lane } (modLink n (fun l => { l with regs := { l.regs with resent := satInc l.regs.resent } }) s)
  match decodeSyndromes (syndromes again.data again.chk) with
  | .corrected p v => linkCorrects n lane (syndromes again.data again.chk) p v good
  | .clean => good
  | .poison => good
  | .uncorrectable =>
    let now := s.stg.upNs
    let s := modLink n (fun l => { l with
      regs := { l.regs with failed := satInc l.regs.failed }
      faultTimes := now :: l.faultTimes.filter (fun t => decide (now < t + secNs)) }) s
    let seq := s.errSeq
    let s := logErr { cls := 8, action := 1, source := 6, unit := n, sub := lane } s
    let s := stageFault (runningItins s) { fclass := 4, frec := BitVec.ofNat 64 seq } s
    if 3 ≤ (tabGet {} s.sb.links n : Link).faultTimes.length then linkLoss n s else s

/-- A word arrives over a link with an error, and with another if it has to be sent again (R241). A word that arrives poisoned is carried
on as it is (R468). -/
def doLinkResend (n lane : Nat) (err again : WordErr) (s : State) : State :=
  if !linkLive s n then s
  else match decodeSyndromes (syndromes err.data err.chk) with
    | .corrected p v => linkCorrects n lane (syndromes err.data err.chk) p v s
    | .clean => s
    | .poison => s
    | .uncorrectable => linkAgain n lane again s

/-- WCB_WRITE (R246). -/
def execWcbWrite (addr : Nat) (enables : BitVec 32) (data : BitVec 256) (s : State) : Host.Outcome State Fault Refusal := .next (doWcbWrite addr enables data s)
/-- WCB_IDLE_DRAIN (R247). -/
def execWcbIdleDrain (stack line : Nat) (s : State) : Host.Outcome State Fault Refusal := .next (doWcbIdleDrain stack line s)
/-- MEM_READ (R245). -/
def execMemRead (addr : Nat) (err copyErr : WordErr) (ifFails : Nat) (s : State) : Host.Outcome State Fault Refusal := .next (doMemRead addr err copyErr ifFails s)
/-- PHY_RETRAIN_DONE (R253). -/
def execPhyRetrainDone (stack : Nat) (ok : Bool) (s : State) : Host.Outcome State Fault Refusal := .next (doPhyRetrainDone stack ok s)
/-- REFRESH (R251). -/
def execRefresh (stack pc bank : Nat) (s : State) : Host.Outcome State Fault Refusal := .next (doRefresh stack pc bank s)
/-- TEMP_READ (R251). -/
def execTempRead (stack : Nat) (tempC : BitVec 8) (s : State) : Host.Outcome State Fault Refusal := .next (doTempRead stack tempC s)
/-- PATROL_SCRUB (R252). -/
def execPatrolScrub (stack : Nat) (err copyErr : WordErr) (s : State) : Host.Outcome State Fault Refusal := .next (doPatrolScrub stack err copyErr s)
/-- MIRROR_LINE_COPY (R257). -/
def execMirrorLineCopy (base : Nat) (s : State) : Host.Outcome State Fault Refusal := .next (doMirrorLineCopy base s)
/-- SRAM_SCRUB (R472). -/
def execSramScrub (word : Nat) (err : WordErr) (s : State) : Host.Outcome State Fault Refusal := .next (doSramScrub word err s)
/-- LINK_RESEND (R241). -/
def execLinkResend (link lane : Nat) (e : LinkErr) (s : State) : Host.Outcome State Fault Refusal := .next (doLinkResend link lane e.err e.again s)
/-- LINK_TRAINING_FAIL (R242). -/
def execLinkTrainingFail (link : Nat) (s : State) : Host.Outcome State Fault Refusal := .next (linkLoss link s)

end Sys2Proof.Machine
end

