-- ==== Sys2Proof/Machine/StageCfg.lean ====
section
/-! DEFINITION. The stage configuration (R18, R31, R45, R52 to R54): the values permitted, and the changes that are staged. -/

namespace Sys2Proof.Machine

/-- The permitted stage lengths in microseconds (R18). -/
def stageLengths : List Nat :=
  [50, 64, 80, 100, 125, 160, 200, 250, 320, 400, 500, 625, 800, 1000, 1250, 1600, 2000, 2500, 3125, 4000, 5000, 6250, 8000, 10000, 12500,
   15625, 20000]

/-- A stage length and commit window are permitted together (R18, R31). -/
def lenWinOk (len win : Nat) : Bool :=
  stageLengths.contains len && decide (4 ≤ win) && decide (win ≤ 1000) && decide (2 * win ≤ len)

/-- One second in nanoseconds, as PTP counts it. -/
def ptpSec : Nat := 1000000000

/-- The first whole PTP second after the present (R52), 0 while the unit is UNSET. -/
def firstSecond (s : State) : Nat := if s.stg.time.state = timeUnset then 0 else (s.stg.ptpNow / ptpSec + 1) * ptpSec

/-- Staged changes enter that Bell: those of length and window at the first whole second after they were accepted, those of checkpoint
period and watchdog limit at the second Bell (R52, R53). -/
def lwDue (bellNs : Nat) (p : LwPend) : Bool := bellNs % ptpSec == 0 && decide (p.first ≤ bellNs)
def cwDue (p : CwPend) : Bool := decide (p.bells ≤ 1)

/-- The values of a stage configuration after a list of changes. -/
def cfgLw (c : StgCfgReg) (ps : List LwPend) : StgCfgReg :=
  ps.foldl (fun c p => { c with
    lenUs := match p.len with | some n => BitVec.ofNat 15 n | none => c.lenUs
    winUs := match p.win with | some n => BitVec.ofNat 10 n | none => c.winUs }) c
def cfgCw (c : StgCfgReg) (ps : List CwPend) : StgCfgReg :=
  ps.foldl (fun c p => { c with
    ckptStages := match p.ckpt with | some n => BitVec.ofNat 16 n | none => c.ckptStages
    wdogBells := match p.wdog with | some n => BitVec.ofNat 8 n | none => c.wdogBells }) c

/-- The stage configuration once every change accepted so far is in force. -/
def cfgDecided (s : State) : StgCfgReg := cfgCw (cfgLw s.stg.cfg s.stg.pend.lw) s.stg.pend.cw

/-- The values asked for are permitted, the fields not selected as they will stand in a configuration (R18, R31, R45, R53, R54). -/
def stageCfgOk (c : StgCfgReg) (len win ckpt wdog mask : Nat) : Bool :=
  let l := if mask.testBit 0 then len else c.lenUs.toNat
  let w := if mask.testBit 1 then win else c.winUs.toNat
  (!(mask.testBit 0 || mask.testBit 1) || lenWinOk l w) && (!mask.testBit 2 || decide (0 < ckpt)) && (!mask.testBit 3 || decide (0 < wdog))

end Sys2Proof.Machine
end

