-- ==== Sys2Proof/Machine/Innkeeper.lean ====
section
/-! DEFINITION. The Innkeeper (R305 to R328, R344, R345): SEAL writes, acceptance, dispatch, aging, and the lockstep pair. -/

namespace Sys2Proof.Machine

/-- The Innkeeper runs: boot has brought it up (R509), and the module has neither tripped nor lost power (R491, R539). -/
def innkBooted (s : State) : Bool := s.mdl.st == .running && decide (2 ≤ s.sec.boot.toNat)

/-- The Innkeeper accepts, dispatches and completes: it is neither restarting nor halted (R307), the debug module has not halted it
(R556), and it still has a path to device memory (R243). -/
def innkUp (s : State) : Bool :=
  innkBooted s && s.innk.innk.restarting == 0#1 && s.innk.innk.halted == 0#1 && !s.innk.dmiHalt && !s.innk.cut

/-- The command opcodes, and whether guest pigeonholes may issue them (R344). -/
def opTable : List (Nat × Bool) :=
  [(0x0001, true), (0x0002, true), (0x0003, false), (0x0010, true), (0x0011, false), (0x0101, false), (0x0102, false), (0x0103, true),
   (0x0104, false), (0x0105, false), (0x0201, false), (0x0202, false), (0x0203, false), (0x0204, true), (0x0205, true)] ++
  [(0x0301, false), (0x0302, false), (0x0303, false), (0x0304, false), (0x0305, false), (0x0306, false), (0x0307, true), (0x0401, true),
   (0x0402, true), (0x0403, true), (0x0404, true), (0x0501, false), (0x0502, true), (0x0503, false), (0x0601, false), (0x0602, false),
   (0x0603, true), (0x0701, false), (0x0702, false), (0x0801, false), (0x0802, false), (0x0803, false), (0x0804, true)]

/-- Whether an opcode is defined, and whether guests may issue it. -/
def opGuest (op : BitVec 16) : Option Bool := (opTable.find? (fun p => p.1 == op.toNat)).map (·.2)

/-- An argument word of a command. -/
def Cmd.arg (c : Cmd) (i : Nat) : Word := c.args.getD i 0#64

/-- An argument as a number. -/
def Cmd.num (c : Cmd) (i : Nat) : Nat := (c.arg i).toNat

/-- Every argument word is zero but in the bits that the command reads (R340). -/
def argsFit (c : Cmd) (masks : List Nat) : Bool :=
  (List.range 6).all (fun i => (c.arg i &&& ~~~(BitVec.ofNat 64 (masks.getD i 0))) == 0#64)

/-- All bits of an argument word. -/
def allBits : Nat := 2 ^ 64 - 1

/-- The guest that issues a command: pigeonhole 64 + g belongs to guest g (R309). -/
def Cmd.guest (c : Cmd) : Option Nat := if 64 ≤ c.ph then some (c.ph - 64) else none

/-- The itinerary slot whose job has an identifier and a state wanted. -/
def jobSlotIf (s : State) (job : Word) (want : Job → Bool) : Option Nat :=
  s.itins.findSome? (fun p => match p.2 with
    | some i => match i.job with | some j => if j.id = job && want j then some p.1 else none | none => none
    | none => none)

/-- A job is prepared or running. -/
def Job.active (j : Job) : Bool := j.st == .prepared || j.st == .running

/-- The itinerary slot whose job has an identifier (R363): of two known jobs with one identifier, the one that is prepared or running. -/
def jobSlot (s : State) (job : Word) : Option Nat :=
  match jobSlotIf s job Job.active with
  | some k => some k
  | none => jobSlotIf s job (fun _ => true)

/-- An itinerary's peer table lists a guest (R345). -/
def listsGuest (s : State) (k g : Nat) : Bool :=
  match getItin s k with
  | some i => i.image.peers.contains (.guest g)
  | none => true

/-- The limits of R345 on what a guest's command may name; window checks are made with R341. -/
def guestBreach (s : State) (c : Cmd) : Bool :=
  match c.guest with
  | none => false
  | some g =>
    match c.opcode.toNat with
    | 0x0103 => !listsGuest s ((c.arg 0).toNat) g
    | 0x0204 | 0x0205 => match jobSlot s (c.arg 0) with | some k => !listsGuest s k g | none => false
    | 0x0403 | 0x0404 => (c.arg 3).toNat != g
    | 0x0502 => (c.arg 0).toNat != g
    | 0x0603 => !((c.arg 0 == 2#64 && (c.arg 1).toNat == g) || (c.arg 0 == 3#64 && (c.arg 1).toNat == c.ph))
    | 0x0307 => match ((tabGet {} s.net.guests g : Guest).window) with
      | some (b, l, _) => !(decide (b ≤ (c.arg 0).toNat) && decide ((c.arg 0).toNat < b + l))
      | none => true
    | _ => false

/-- The command names a unit that is not present on the part (R3, R5, R323). -/
def namesAbsent (s : State) (c : Cmd) : Bool :=
  match c.opcode.toNat with
  | 0x0003 => clusterIdWf (c.arg 0).toNat && !clusterFitted s (c.arg 0).toNat
  | 0x0301 => decide (s.variant.stacks ≤ stackOf (c.arg 0).toNat) && decide (stackOf (c.arg 0).toNat < 8)
  | _ => false

/-- The bits that each command reads of its argument words (R340). -/
def argMasks (op : Nat) : List Nat :=
  match op with
  | 0x0002 | 0x0101 | 0x0203 | 0x0204 | 0x0305 | 0x0306 => [allBits, allBits]
  | 0x0003 => [0x3FF]
  | 0x0011 => [0x00FFFFFF03FF7FFF, 0xF]
  | 0x0102 | 0x0103 => [0xFFF]
  | 0x0104 => [0xFFF, allBits, allBits, allBits]
  | 0x0105 => [0xFFF, allBits]
  | 0x0201 => [allBits, 0xFFF, allBits, allBits, allBits]
  | 0x0301 => [allBits, allBits, 0xFF1F]
  | 0x0202 | 0x0205 | 0x0302 | 0x0303 | 0x0307 => [allBits]
  | 0x0304 => [allBits, 1]
  | 0x0401 | 0x0402 | 0x0701 => [allBits, allBits, allBits]
  | 0x0403 | 0x0404 => [allBits, allBits, allBits, 0x3FFF]
  | 0x0501 => [0x3FFF, allBits, allBits, 0x303FF, allBits]
  | 0x0502 => [0x3FFF]
  | 0x0503 => [0x3FFF, allBits, allBits, 0xFF]
  | 0x0601 | 0x0602 => [0xFFFF]
  | 0x0603 => [3, allBits]
  | 0x0702 => [1, allBits, allBits, allBits]
  | 0x0801 => [allBits, allBits, 0xF]
  | 0x0802 | 0x0803 => [0xF]
  | 0x0804 => [allBits, allBits, allBits, 0xFFFFFFFF]
  | _ => []

/-- The argument that is a command's length or count: 0 makes the command empty (R333, R342). -/
def lengthArg (op : Nat) : Option Nat :=
  match op with
  | 0x0002 | 0x0101 | 0x0301 | 0x0305 | 0x0306 | 0x0402 | 0x0701 | 0x0801 => some 1
  | 0x0401 | 0x0403 | 0x0404 | 0x0503 | 0x0702 | 0x0804 => some 2
  | 0x0104 => some 3
  | 0x0201 => some 4
  | _ => none

/-- A range lies in the address space of device memory (R233). Of the 910's map R5 takes MS4 to MS7 out; that a `guest.window` (R519) may
lie there, where nothing can be mapped, is the model's choice (DESIGN CHOICE, log 84). -/
def inDevice (base len : Nat) : Bool := decide (base + len ≤ 8 * stackBytes)

/-- Argument words break a command's rules whatever the state: a value that is refused, or a length (R323, R342; the rules of R349 to R376,
R394, R516 and R519). -/
def argStatus (v : Variant) (c : Cmd) : Option (BitVec 16) :=
  let bad (b : Bool) (rest : Option (BitVec 16)) : Option (BitVec 16) := if b then some stBadArg else rest
  let len (b : Bool) : Option (BitVec 16) := if b then some stBadLen else none
  let unaligned (xs : List Nat) : Bool := xs.any (fun a => a % 32 != 0)
  match c.opcode.toNat with
  | 0x0002 => len (c.num 1 != 64)
  | 0x0003 => bad (!clusterIdWf (c.num 0)) none
  | 0x0011 =>
    let m := c.num 1
    bad ((m.testBit 2 && bitsNat (c.arg 0) 32 16 == 0) || (m.testBit 3 && bitsNat (c.arg 0) 48 8 == 0) ||
      (m.testBit 0 && m.testBit 1 && !lenWinOk (bitsNat (c.arg 0) 0 15) (bitsNat (c.arg 0) 16 10))) none
  | 0x0301 =>
    bad (c.num 0 % 4096 != 0 || !inDevice (c.num 0) (c.num 1) || stackOf (c.num 0) != stackOf (c.num 0 + c.num 1 - 1) ||
      ((c.arg 2).getLsbD 3 && !(c.arg 2).getLsbD 0)) (len (c.num 1 % 4096 != 0))
  | 0x0305 | 0x0306 => bad (c.num 0 % 128 != 0) none
  | 0x0401 => bad (unaligned [c.num 0, c.num 1] || overlaps (c.num 0) (c.num 2) (c.num 1) (c.num 2)) (len (c.num 2 % 32 != 0))
  | 0x0402 => bad (unaligned [c.num 0]) (len (c.num 1 % 32 != 0))
  | 0x0403 => bad (unaligned [c.num 0]) (len (c.num 2 % 32 != 0))
  | 0x0404 => bad (unaligned [c.num 1]) (len (c.num 2 % 32 != 0))
  | 0x0501 =>
    let m := bitsNat (c.arg 3) 0 9
    let tr := bitsNat (c.arg 3) 16 2
    bad (c.num 1 % 0x8000 != 0 || c.num 2 % 0x2000 != 0 || m == 0 || decide (256 < m) || (tr != 1 && tr != 2)) none
  | 0x0503 => bad (c.num 1 % 4096 != 0 || !inDevice (c.num 1) (c.num 2) || c.num 3 == 0) (len (c.num 2 % 4096 != 0))
  | 0x0601 => bad (decide (c.num 0 < 900) || decide (v.pmaxW < c.num 0)) none
  | 0x0602 => bad (decide (c.num 0 < 450) || decide (650 < c.num 0)) none
  | 0x0603 => bad (decide ((match c.num 0 with | 0 => 0 | 1 => 4095 | 2 => 16383 | _ => 16447) < c.num 1)) none
  | 0x0701 => len (decide (4096 < c.num 1))
  | 0x0702 => bad (c.num 0 == 1 && decide (16384 ≤ c.num 1)) (len (decide (4096 < c.num 2)))
  | 0x0801 => bad (decide (4 ≤ c.num 2)) none
  | 0x0802 | 0x0803 => bad (decide (4 ≤ c.num 0)) none
  | 0x0804 => bad (c.num 3 % 2 ^ 16 == 0 || decide (2 ^ 16 ≤ c.num 3)) none
  | _ => none

/-- The last check of R323: argument words that the command does not read or that break its rules, those apart that depend on what else the
device holds, which the command's own row makes. An empty command is checked under R340 alone (R342). -/
def argsRefused (v : Variant) (c : Cmd) : Option (BitVec 16) :=
  if !argsFit c (argMasks c.opcode.toNat) then some stBadArg
  else if (match lengthArg c.opcode.toNat with | some i => c.num i == 0 | none => false) then none
  else argStatus v c

/-- The checks of R323 at acceptance, the first failing one deciding. -/
def acceptCheck (s : State) (c : Cmd) (sealV : Word) (clsByte flagByte : Byte) : Option (BitVec 16) :=
  match opGuest c.opcode with
  | none => some stBadArg
  | some both =>
    if clsByte.toNat = 3 ∨ 4 ≤ clsByte.toNat ∨ 4 ≤ flagByte.toNat ∨ sealV.toNat / 2 ^ 24 ≠ 0 then some stBadArg
    else if (64 ≤ c.ph && !both) || guestBreach s c then some stDenied
    else if c.cls = 0 && !(getPh s c.ph).urgentOk then some stDenied
    else if namesAbsent s c then some stNoUnit
    else argsRefused s.variant c

/-- The device-wide limit for a command's origin and class (R320). -/
def acceptLimit (s : State) (n cls : Nat) : Nat :=
  let rt := s.innk.cfgEff.rtReserve.toNat
  let urg := s.innk.cfgEff.urgReserve.toNat
  8192 - (if n < 64 then 0 else rt) - (if cls = 0 then 0 else urg)

/-- A pigeonhole has a full slot (PH_SUMMARY). -/
def phSummary (s : State) (n : Nat) : Bool := !(getPh s n).full.isEmpty

/-- The slot at HEAD and the SEAL value that made it full, if the slot is full (R319). -/
def headSlot (s : State) (n : Nat) : Option (Nat × Word) :=
  let p := getPh s n
  let slot := p.head.toNat % 256
  (tabGet none p.full slot).map (fun v => (slot, v))

/-- The class that a slot's CLASS byte is judged as for the limit: reserved counts as normal (R320). -/
def classOf (b : Byte) : Nat := if b.toNat % 4 = 3 then 1 else b.toNat % 4

/-- The class byte of a full slot as the homes hold it, for the test of R320. -/
def slotClass (s : State) (n slot : Nat) : Nat :=
  match (homeReadBytes .innkeeper ((getPh s n).area + slot * 64) 64 s).1 with
  | some bs => classOf (bs.getD 2 0#8)
  | none => 1

/-- The slot at HEAD of a pigeonhole can be accepted now (R310, R320): the Innkeeper reads it at its home. -/
def canAccept (s : State) (n : Nat) : Bool :=
  let p := getPh s n
  match headSlot s n with
  | none => false
  | some (slot, _) =>
    p.st == .open_ && (usable s (p.area + slot * 64)).isSome && decide (phInflight s n < p.maxInflight) && decide (inflightTotal s < acceptLimit s n (slotClass s n slot))

/-- The pigeonholes with a full slot, in the order in which the Innkeeper visits them after the last one it visited (R319). -/
def visitOrder (s : State) : List Nat :=
  let full := ((List.range 64).filter (phSummary s)) ++ (s.innk.phs.filterMap (fun p => if 64 ≤ p.1 && phSummary s p.1 then some p.1 else none))
  full.filter (fun n => decide (s.innk.lastVisited < n)) ++ full.filter (fun n => decide (n ≤ s.innk.lastVisited))

/-- It is a pigeonhole's turn: its visit has accepted fewer than 4 slots, or it is the next one that can be visited with profit (R319). -/
def isTurn (s : State) (n : Nat) : Bool :=
  canAccept s n && ((n == s.innk.lastVisited && decide (s.innk.visits < 4)) || (visitOrder s).find? (canAccept s) == some n)

/-- The class queues (R324): put an identifier at the tail of one. -/
def enqueue (cls id : Nat) (s : State) : State :=
  modInnk (fun i =>
    if cls = 0 then { i with urgQ := i.urgQ ++ [id] }
    else if cls = 1 then { i with normQ := i.normQ ++ [id] }
    else { i with bulkQ := i.bulkQ ++ [id] }) s

/-- What a slot's bytes hold, as a command of the command table (R313, R322). -/
def slotCmd (s : State) (n slot : Nat) (bs : List Byte) : Cmd :=
  let word (k : Nat) : Word := BitVec.ofNat 64 (bytesNat ((bs.drop (8 * k)).take 8))
  { ph := n, slot := slot, opcode := (word 0).setWidth 16, cls := classOf (bs.getD 2 0#8)
    flush := (bs.getD 3 0#8).getLsbD 0, ordered := (bs.getD 3 0#8).getLsbD 1, tag := (word 0).extractLsb' 32 32
    args := (List.range 6).map (fun i => word (i + 1)), accepted := s.stg.ptpNow, acceptedStage := s.stg.num }

/-- The changes of length and window that are not in force yet: those staged, and those of commands accepted before and still to be
dispatched, as far as they will be staged (R21, R52). -/
def configsToCome (s : State) : List LwPend :=
  (s.innk.cmds.foldl (fun (p : StgCfgReg × List LwPend) q =>
    match q.2 with
    | none => p
    | some c =>
      let v := c.arg 0
      let m := c.num 1
      let x : LwPend := { len := if m.testBit 0 then some (bitsNat v 0 15) else none, win := if m.testBit 1 then some (bitsNat v 16 10) else none
                          first := c.seen.first, cmd := some q.1 }
      if c.opcode == 0x0011#16 && (c.phase == .queued || c.phase == .working) && (m.testBit 0 || m.testBit 1) && !c.seen.bound &&
          argsFit c (argMasks 0x0011) && stageCfgOk p.1 (bitsNat v 0 15) (bitsNat v 16 10) (bitsNat v 32 16) (bitsNat v 48 8) m then
        (cfgLw p.1 [x], p.2 ++ [x])
      else p) (cfgDecided s, s.stg.pend.lw)).2

/-- What a command accepted now finds (R21, R52). -/
def seenNow (s : State) : Seen :=
  { cfg := s.stg.cfg, lw := configsToCome s, bound := decide (0 < boundCount s), first := firstSecond s }

/-- A guest pigeonhole enters DRAINING when its `guest.close` is accepted: its full slots are dropped (R334, R335). -/
def beginDrain (c : Cmd) (s : State) : State :=
  if c.opcode = 0x0502#16 ∧ (getPh s (64 + c.num 0)).st = .open_ then modPh (64 + c.num 0) (fun p => { p with st := .draining, full := [] }) s
  else s

/-- Accept the slot at HEAD of a pigeonhole (R319 to R323). -/
def doAccept (n : Nat) (s : State) : State :=
  if !innkUp s || !isTurn s n then s
  else
    match headSlot s n with
    | none => s
    | some (slot, sealV) =>
      let (r, s) := homeReadBytes .innkeeper ((getPh s n).area + slot * 64) 64 s
      match r with
      | none => s
      | some bs =>
        let c := { slotCmd s n slot bs with seen := seenNow s }
        let id := s.innk.nextCmd
        let s := modInnk (fun i => { i with
          visits := if i.lastVisited = n ∧ i.visits < 4 then i.visits + 1 else 1
          lastVisited := n
          nextCmd := id + 1
          stage := { i.stage with accepted := satInc i.stage.accepted } }) s
        let s := modPh n (fun p => { p with
          head := p.head + 1#16
          full := tabSet none p.full slot none
          count := { p.count with accepted := p.count.accepted + 1#32 } }) s
        let s := setCmd id (some c) s
        match acceptCheck s c sealV (bs.getD 2 0#8) (bs.getD 3 0#8) with
        | some st => finishCmd id st 0 s
        | none => enqueue c.cls id (beginDrain c s)

/-- Change the region with a base in a list of regions. -/
def regionsMod (base : Nat) (f : Region → Region) (rs : List Region) : List Region :=
  rs.map (fun r => if r.base = base then f r else r)

/-- What a decided effect does to the address map at its Bell. -/
def actOnMap (rs : List Region) : BellAct → List Region
  | .mapNew r _ => insertRegion r rs
  | .mapAttr base ro policy bypass keep pkey _ =>
    regionsMod base (fun r => { r with ro := ro, policy := policy, bypass := bypass, keep := keep, pkey := pkey }) rs
  | .unmap base _ => rs.filter (fun r => r.base != base)
  | .sealRegion base _ => regionsMod base (fun r => { r with sealed := true, ro := true }) rs
  | .mirrorOn base cmd => regionsMod base (fun r => { r with mirrored := true, mirrorNext := some base, mirrorCmd := some cmd }) rs
  | .mirrorOff base _ => regionsMod base (fun r => { r with mirrored := false, mirrorNext := none, mirrorCmd := none }) rs
  | _ => rs

/-- The address map once every decided effect is in force (R327, R343). -/
def mapDecided (s : State) : List Region := s.innk.acts.foldl actOnMap s.regions

/-- What a command names, for the rule that such commands run one at a time (R327, R343). -/
inductive CmdKey where
  | itin (n : Nat)
  | job (j : Word)
  | region (base len : Nat)
  | guest (g : Nat)
  | maps
  | firmware
  | settings
deriving DecidableEq, Repr

/-- Two commands name the same object: of regions, address ranges that meet. -/
def CmdKey.same : CmdKey → CmdKey → Bool
  | .region a n, .region b m => overlaps a (max n 1) b (max m 1)
  | x, y => x == y

/-- The regions that a range of addresses names, and the range itself, which a region to come may hold. -/
def regionKeys (s : State) (a n : Nat) : List CmdKey :=
  .region a n :: ((s.regions ++ mapDecided s).filter (fun r => overlaps r.base r.len a (max n 1))).map (fun r => .region r.base r.len)

/-- The objects a command names (R327, R343). -/
def cmdKeys (s : State) (c : Cmd) : List CmdKey :=
  match c.opcode.toNat with
  | 0x0102 | 0x0103 | 0x0104 | 0x0105 => [.itin (c.num 0)]
  | 0x0201 => [.job (c.arg 0), .itin (c.num 1)]
  | 0x0202 | 0x0203 | 0x0204 | 0x0205 => [.job (c.arg 0)]
  | 0x0301 => .maps :: regionKeys s (c.num 0) (c.num 1)
  | 0x0302 | 0x0303 | 0x0304 => .maps :: regionKeys s (c.num 0) 1
  | 0x0305 | 0x0306 => regionKeys s (c.num 0) (c.num 1)
  | 0x0307 => regionKeys s (c.num 0) 1
  | 0x0403 | 0x0404 => [.guest (c.num 3)]
  | 0x0501 | 0x0502 | 0x0503 => [.guest (c.num 0)]
  | 0x0601 | 0x0602 => [.settings]
  | 0x0603 => if c.num 0 = 1 then [.itin (c.num 1)] else if c.num 0 = 2 then [.guest (c.num 1)] else []
  | 0x0702 => if c.num 0 = 1 then [.guest (c.num 1)] else []
  | 0x0801 | 0x0802 | 0x0803 => [.firmware]
  | _ => []

/-- A command has started and has not done all its own work: it is at work, has pieces out or to come, waits for an outcome that decides its
effect, as an opening guest or a prepare tree does, or copies a region to its mirror (R257, R327). -/
def Cmd.underWay (c : Cmd) : Bool :=
  c.phase == .working || (c.phase == .queued && (decide (0 < c.piece) || !c.again.isEmpty)) || decide (0 < c.outstanding) ||
  (c.phase == .waiting && (c.opcode == 0x0501#16 || c.opcode == 0x0201#16 || (c.opcode == 0x0304#16 && c.num 1 != 0)))

/-- A queued command may be dispatched: an ORDERED one only after every earlier one of its pigeonhole, and no other that names the
same object is under way (R326, R327). -/
def dispatchable (s : State) (id : Nat) : Bool :=
  match getCmd s id with
  | none => false
  | some c =>
    let keys := cmdKeys s c
    !s.innk.cmds.any (fun p => match p.2 with
      | some d => p.1 != id && ((c.ordered && decide (p.1 < id) && d.ph == c.ph) ||
          (d.underWay && (cmdKeys s d).any (fun x => keys.any x.same)))
      | none => false)

/-- The next piece to dispatch: from the urgent queue, then the normal, then the bulk queue; a command that must wait is passed over
(R324, R326, R327). -/
def nextPiece (s : State) : Option Nat := (s.innk.urgQ ++ s.innk.normQ ++ s.innk.bulkQ).find? (dispatchable s)

/-- Dispatch one piece (R324, R325). -/
def doDispatch (s : State) : State :=
  if !innkUp s then s
  else
    match nextPiece s with
    | none => s
    | some id =>
      let s := modInnk (fun i => { i with
        urgQ := i.urgQ.filter (· != id), normQ := i.normQ.filter (· != id), bulkQ := i.bulkQ.filter (· != id)
        stage := { i.stage with dispatched := satInc i.stage.dispatched } }) s
      modCmd id (fun c => { c with phase := .working, waitBells := 0 }) s

/-- A bulk piece that has waited 16 Bells moves to the tail of the urgent queue (R325). -/
def doAging (id : Nat) (s : State) : State :=
  match getCmd s id with
  | none => s
  | some c =>
    if innkUp s && s.innk.bulkQ.contains id && decide (16 ≤ c.waitBells) then
      (modInnk (fun i => { i with
        bulkQ := i.bulkQ.filter (· != id), urgQ := i.urgQ ++ [id], stage := { i.stage with aged := satInc i.stage.aged } }) s)
    else s

/-- A command is at work on the piece dispatched: the state in which its row acts on it. -/
def atWork (s : State) (id op : Nat) : Option Cmd :=
  match getCmd s id with
  | some c => if innkUp s && c.phase == .working && c.opcode.toNat == op then some c else none
  | none => none

/-- The lowest addresses of one write of a pigeonhole's owner to its area. -/
def phOwner (n : Nat) : Requester := if n < 64 then .px 0 else .network

/-- A value's lowest bytes. -/
def lowBytes (width : Nat) (v : Word) : List Byte := wordBytes (min width 8) v

/-- A write to a SEAL word by the owner of the pigeonhole is performed at the home and reported (R314). -/
def doSealWrite (n slot width : Nat) (v : Word) (s : State) : State :=
  if n < phCount && decide (slot < 256) && (getPh s n).st != .closed then
    (homeWriteBytes (phOwner n) ((getPh s n).area + slot * 64 + 0x38) (lowBytes width v) s).2
  else s

/-- A write to CQ_CTL by the owner of the pigeonhole (R330). -/
def doCqCtl (n width : Nat) (v : Word) (s : State) : State :=
  if n < phCount && (getPh s n).st != .closed then
    (homeWriteBytes (phOwner n) ((getPh s n).area + 0x4000) (lowBytes width v) s).2
  else s

/-- Ten seconds in nanoseconds. -/
def tenSecNs : Nat := 10 * secNs

/-- The lockstep comparator finds the two cores differing (R307, R476): a restart, and a halt at a second mismatch within 10 s. -/
def doLockstep (s : State) : State :=
  if s.innk.innk.halted = 1#1 ∨ s.mdl.st ≠ .running then s
  else
    let s := logErr { cls := 0x12, source := 0x0C } s
    let again := match s.innk.lastMismatch with | some t => decide (s.stg.upNs ≤ t + tenSecNs) | none => false
    if again then
      syncEvents (modInnk (fun i => { i with innk := { i.innk with halted := 1#1, restarting := 0#1 } }) s)
    else
      let now := s.stg.upNs
      modInnk (fun i => { i with lastMismatch := some now, innk := { i.innk with restarting := 1#1, restarts := satInc i.innk.restarts } }) s

/-- The pieces of a command that porters hold. -/
def heldPieces (s : State) (id : Nat) : List Nat :=
  s.porters.flatMap (fun p => p.2.cmdQ.filterMap (fun d => match d.owner with | .cmd i n => if i = id then some n else none | .leg _ _ _ => none))

/-- A command's pieces that were dispatched and are not finished go back to its class queue, to be dispatched again from their start
(R307). -/
def redispatch (held : Nat → List Nat) (id : Nat) (s : State) : State :=
  match getCmd s id with
  | none => s
  | some c =>
    let ps := held id
    let back := c.phase == .working || (!ps.isEmpty && c.phase == .waiting)
    let s := setCmd id (some { c with
      again := c.again ++ ps, outstanding := c.outstanding - ps.length, phase := if back then .queued else c.phase }) s
    if back then enqueue c.cls id s else s

/-- The Innkeeper resumes from its command table (R307): porters and the network engine give up the pieces that are dispatched again. -/
def doRestartDone (s : State) : State :=
  if s.innk.innk.restarting = 0#1 then s
  else
    let held := heldPieces s
    let s := modInnk (fun i => { i with innk := { i.innk with restarting := 0#1 } }) s
    let s := { s with porters := s.porters.map (fun p => (p.1, { p.2 with cmdQ := [] })) }
    let s := dropTx (fun o => match o with | .desc _ (.cmd _ _) => true | _ => false) s
    forEach (s.innk.cmds.map (·.1)).dedup (redispatch held) s

/-- SEAL_WRITE (R314). -/
def execSealWrite (ph slot width : Nat) (value : Word) (s : State) : Host.Outcome State Fault Refusal := .next (doSealWrite ph slot width value s)
/-- ACCEPT (R319). -/
def execAccept (ph : Nat) (s : State) : Host.Outcome State Fault Refusal := .next (doAccept ph s)
/-- DISPATCH (R324). -/
def execDispatch (s : State) : Host.Outcome State Fault Refusal := .next (doDispatch s)
/-- AGING_PROMOTION (R325). -/
def execAgingPromotion (cmd : Nat) (s : State) : Host.Outcome State Fault Refusal := .next (doAging cmd s)
/-- CQ_CTL (R330). -/
def execCqCtl (ph width : Nat) (value : Word) (s : State) : Host.Outcome State Fault Refusal := .next (doCqCtl ph width value s)
/-- LOCKSTEP_MISMATCH (R307). -/
def execLockstepMismatch (s : State) : Host.Outcome State Fault Refusal := .next (doLockstep s)
/-- INNKEEPER_RESTART_DONE (R307). -/
def execInnkeeperRestartDone (s : State) : Host.Outcome State Fault Refusal := .next (doRestartDone s)

end Sys2Proof.Machine
end

