-- ==== Sys2Proof/Machine/NetEngine.lean ====
section
/-! DEFINITION. The network engine: sending over Relay and RoCEv2, transfers and their read-backs, window checks, receiving order,
acknowledgement, and the loss of a guest (R336, R381 to R392, R395 to R403, R439). -/

namespace Sys2Proof.Machine

-- transfers

/-- The flow of a transfer. -/
def flowOf (s : State) (o : TxOwner) : Option Flow := s.net.flows.find? (fun f => f.owner == o)

/-- Change the flow of a transfer. -/
def modFlow (o : TxOwner) (f : Flow → Flow) (s : State) : State :=
  modNet (fun e => { e with flows := e.flows.map (fun x => if x.owner = o then f x else x) }) s

/-- Remove the flow of a transfer. -/
def dropFlow (o : TxOwner) (s : State) : State := modNet (fun e => { e with flows := e.flows.filter (fun x => x.owner != o) }) s

/-- An entry of a running leg is done (R29). -/
def entryDone (k jsn e : Nat) (s : State) : State :=
  modLeg k (fun l => if l.jsn = jsn ∧ !l.done.contains e then { l with done := e :: l.done } else l) s

/-- Change the descriptors of a porter that have an owner. -/
def modDesc (p : Nat) (o : Owner) (f : Desc → Desc) (s : State) : State :=
  modPorter p (fun x => { x with
    legQ := x.legQ.map (fun d => if d.owner = o then f d else d)
    cmdQ := x.cmdQ.map (fun d => if d.owner = o then f d else d) }) s

/-- A message joins the queue of a guest's transport, or of a connection. -/
def queueConn (id : Nat) (r : TxReq) (s : State) : State := modConn id (fun c => { c with queue := c.queue ++ [r] }) s
def queueGuest (g : Nat) (r : TxReq) (s : State) : State :=
  match (getGuest s g).conn with
  | some id => queueConn id r s
  | none => modGuest g (fun x => { x with qp := x.qp.map (fun q => { q with queue := q.queue ++ [r] }) }) s

/-- The second write of a completion record, its SEAL word (R404). -/
def sealReq (ph entry : Nat) (cq : Nat) (c : CplRec) : TxReq :=
  { owner := .sealW ph entry, addr := cq + 32 * entry + 24, len := 8, src := .bytes (wordBytes 8 c.sealWord) }

/-- A transfer has all its acknowledgements and read-backs (R398, R400, R402, R404, R427). -/
def flowDone (o : TxOwner) (s : State) : State :=
  let s := dropFlow o s
  match o with
  | .send k j e => entryDone k j e (modNet (fun n => { n with sends := n.sends.filter (fun x => !(x.itin == k && x.entry == e)) }) s)
  | .desc p ow =>
    let s := modDesc p ow (fun d => { d with acked := d.len, flushed := true }) s
    (match ow with
    | .cmd id _ => match getCmd s id with
      | some c => if c.refused.isSome then finishCmd id c.status c.result.toNat s else s
      | none => s
    | _ => s)
  | .buffer id => match getCmd s id with | some c => finishCmd id c.status c.result.toNat s | none => s
  | .record ph c e =>
    match (getGuest s (ph - 64)).transport with
    | some .relay => queueGuest (ph - 64) (sealReq ph e (getPh s ph).cq c) s
    | _ => s
  | _ => s

/-- The 32-byte read-backs on every path that the data used (R402). -/
def startReadBacks (f : Flow) (g : Nat) (s : State) : State :=
  let s := modFlow f.owner (fun x => { x with reads := f.paths.length }) s
  forEach f.paths (fun p t => queueGuest g { owner := f.owner, type := 4, addr := p.2 / 32 * 32, len := 32, src := .bytes [], via := some p.1 } t) s

/-- Bytes of a transfer have been acknowledged (R398, R400, R402). -/
def creditFlow (o : TxOwner) (n : Nat) (s : State) : State :=
  match flowOf s o with
  | none => s
  | some f =>
    let s := modFlow o (fun x => { x with acked := x.acked + n }) s
    if f.acked + n < f.total then s
    else match f.flush, f.guest with
      | true, some g => if f.paths.isEmpty then flowDone o s else startReadBacks { f with acked := f.acked + n } g s
      | _, _ => flowDone o s

/-- One read-back has returned (R402). -/
def creditRead (o : TxOwner) (s : State) : State :=
  match flowOf s o with
  | none => s
  | some f => if f.reads ≤ 1 then flowDone o s else modFlow o (fun x => { x with reads := x.reads - 1 }) s

/-- The last byte written on a path (R402). -/
def notePath (o : TxOwner) (port last : Nat) (s : State) : State :=
  modFlow o (fun f => if f.flush then { f with paths := f.paths.filter (fun p => p.1 != port) ++ [(port, last)] } else f) s

-- packets

/-- The transmit class of what is sent for an owner (R395). -/
def TxOwner.cls : TxOwner → Nat
  | .send _ _ _ => 2
  | .ctrl => 1
  | _ => 3

/-- The message a transport sends next, and those behind it: one that has begun goes on, then data of leg SENDs, then the oldest (R395). -/
def nextMsg (q : List TxReq) : Option (TxReq × List TxReq) :=
  match q with
  | [] => none
  | r :: rest =>
    if 0 < r.sent then some (r, rest)
    else match q.findIdx? (fun x => x.owner.cls == 2) with
      | some i => q[i]?.map (fun x => (x, q.eraseIdx i))
      | none => some (r, rest)

/-- The payload of the next packet of a message, and the first poisoned word in it; none while a line waits (R401, R470), and once the IOD is
cut off from memory (R243). What a guest reads of a poisoned word the spec does not say: a free value. -/
def nextPayload (r : TxReq) (n : Nat) (s : State) : Option (List Byte × Option Nat) × State :=
  match r.src with
  | .bytes bs => (some ((bs.drop r.sent).take n, none), s)
  | .mem a =>
    if iodCut s then (none, s) else
    let lo := a + r.sent
    let (v, s) := homeReadLines .network (rangeLines lo n) s
    match v with
    | none => (none, s)
    | some ls =>
      let ws := (List.range ((lo + n + 31) / 32 - lo / 32)).map (fun i => (lo / 32 + i) * 32)
      let bad := ws.find? (fun w => (lineSector ls w).poison)
      if r.owner = .resp then
        let (fill, s) := ws.foldl (fun (p : List (Nat × BitVec 256) × State) w =>
          if (lineSector ls w).poison then let (d, t) := draw 256 p.2; ((w, d) :: p.1, t) else p) ([], s)
        (some ((List.range n).map (fun i =>
          match fill.find? (fun q => q.1 == (lo + i) / 32 * 32) with
          | some q => byteOf q.2 ((lo + i) % 32)
          | none => byteOf (lineSector ls (lo + i)).data ((lo + i) % 32)), none), s)
      else (some ((List.range n).map (fun i => byteOf (lineSector ls (lo + i)).data ((lo + i) % 32)), bad), s)

/-- A SEND reads a poisoned word: the leg takes a fault of class 0x03, and the word is never sent (R401, R476). -/
def poisonSend (port k a : Nat) (s : State) : State :=
  let j := match getItin s k with | some i => i.nextJsn | none => 0
  let seq := s.errSeq
  let s := logErr { cls := 4, action := 1, source := 8, unit := port, addr := BitVec.ofNat 64 a, itin := k, jsn := BitVec.ofNat 64 j } s
  stageFault [k] { fclass := 3, addr := BitVec.ofNat 64 a, frec := BitVec.ofNat 64 seq } s

/-- An entry is refused by the network engine (R282, R398, R400). -/
def refuseEntry (k a : Nat) (s : State) : State := stageFault [k] { fclass := 6, addr := BitVec.ofNat 64 a } s

/-- A message's source has left the address map: a SEND is refused, anything else waits for nothing and is dropped. -/
def sourceGone (r : TxReq) (s : State) : Bool :=
  match r.src with
  | .mem a => (lowestBad (addrEdges s) (a + r.sent) (r.len - r.sent) (fun x => (usable s x).isNone)).isSome
  | .bytes _ => false

/-- Count payload bytes sent for a SEND (R277). -/
def countTx (o : TxOwner) (n : Nat) (s : State) : State :=
  match o with
  | .send k j _ => modLeg k (fun l => if l.jsn = j then { l with txBytes := l.txBytes + n } else l) s
  | _ => s

/-- The port of the next packet of a message (R384, R402). -/
def reqPort (s : State) (c : Conn) (r : TxReq) : Option Nat :=
  match r.via with
  | some p => if portUp s p then some p else none
  | none => pickPort s c.peer c.nextPort

/-- A message whose source is gone is dropped; a SEND is refused. -/
def refuseSource (r : TxReq) (s : State) : State :=
  match r.owner with
  | .send k _ _ => refuseEntry k (match r.src with | .mem a => a | .bytes _ => 0) s
  | _ => s

/-- One DATA, READ or READ_RESP packet of a connection goes to a port, if it can (R381, R384, R387). -/
def sendDataNow (id : Nat) (s : State) : State :=
  match getConn s id with
  | none => s
  | some c =>
    match nextMsg c.queue with
    | none => s
    | some (r, rest) =>
      match reqPort s c r with
      | none => s
      | some port =>
        if !c.opened || !c.ctrlq.isEmpty || decide (c.window ≤ c.unacked.length) then s
        else if r.type = 4 then
          let num := c.nextRead
          let pay := wordBytes 8 (BitVec.ofNat 64 r.addr) ++ wordBytes 8 (BitVec.ofNat 64 r.len)
          let u : Unacked := { psn := c.txPsn, owner := r.owner, type := 4, addr := r.addr, ord := num, payload := pay, readLen := r.len, via := r.via }
          let dst := match r.src with | .mem a => some a | .bytes _ => none
          sendRelay id r.owner.cls c.peer
            { port := port, ip := noHdr, type := 4, conn := c.remoteId, psn := c.txPsn, addr := r.addr, ord := num, payload := pay }
            (setConn id (some { c with
              queue := rest, nextPort := (port + 1) % 8, txPsn := (c.txPsn + 1) % 2 ^ 32, nextRead := (num + 1) % 65536
              unacked := c.unacked ++ [u], reads := c.reads ++ [{ num := num, owner := r.owner, len := r.len, dst := dst }] }) s)
        else if sourceGone r s then refuseSource r (setConn id (some { c with queue := rest }) s)
        else
          let n := min 4096 (r.len - r.sent)
          match nextPayload r n s with
          | (none, s) => s
          | (some (bs, bad), s) =>
            match bad, r.owner with
            | some a, .send k _ _ => poisonSend port k a s
            | _, _ =>
              let last := decide (r.len ≤ r.sent + n)
              let u : Unacked := { psn := c.txPsn, owner := r.owner, type := r.type, addr := r.addr + r.sent, ord := r.ord, imm := r.imm,
                                   last := last, payload := bs }
              let s := modConn id (fun c => { c with
                queue := if last then rest else { r with sent := r.sent + n } :: rest
                nextPort := (port + 1) % 8, txPsn := (c.txPsn + 1) % 2 ^ 32, unacked := c.unacked ++ [u] }) s
              let s := countTx r.owner n (notePath r.owner port (r.addr + r.sent + n - 1) s)
              sendRelay id r.owner.cls c.peer { port := port, ip := noHdr, type := r.type, conn := c.remoteId, psn := c.txPsn, last := last, imm := r.imm,
                                                addr := r.addr + r.sent, ord := r.ord, payload := bs } s

/-- A connection sends all it can: CTRL messages first, then packets in the order of its messages (R387, R395). -/
def pumpConn (id : Nat) (s : State) : State :=
  let s := pumpCtrl id s
  match getConn s id with
  | none => s
  | some c => forEach (List.range (c.window - c.unacked.length)) (fun _ t => sendDataNow id t) s

/-- What a RoCEv2 packet carries besides its payload: the base header, the address or the acknowledgement, and the ICRC (PRESUMED, R390). -/
def roceBytes : RoceOp → Nat
  | .write => 12 + 16 + 4
  | .readReq _ => 12 + 16 + 4
  | .readResp => 12 + 4 + 4
  | .cnp => 12 + 16 + 4
  | _ => 12 + 4 + 4

/-- A RoCEv2 packet of a queue pair joins the transmit queue of its port; acknowledgements go in class 1 (R393, R395). -/
def sendRoce (g cls : Nat) (e : Endpoint) (op : RoceOp) (psn va : Nat) (rkey : BitVec 32) (payload : List Byte) (s : State) : State :=
  let v6 := e.ipver == 6
  let x : RoceTx := { port := e.port, src := portIp s e.port v6, dst := e.ip, dscp := BitVec.ofNat 6 e.dscp, op := op, qpn := e.qpn, psn := psn,
                      va := va, rkey := rkey, payload := payload }
  queueFrame e.port { cls := cls, flow := .qp g, len := frameBytes v6 (8 + roceBytes op + payload.length), msg := .roce x } s

/-- One packet of a guest's queue pair goes to its port, if it can (R390 to R393). -/
def sendQpNow (g : Nat) (s : State) : State :=
  let x := getGuest s g
  match x.qp, x.endpoint with
  | some q, some e =>
    match nextMsg q.queue with
    | none => s
    | some (r, rest) =>
      if !portUp s e.port then s
      else if r.type = 4 then
        let span := max 1 (ceilDiv r.len e.pmtu)
        let dst := match r.src with | .mem a => some a | .bytes _ => none
        let u : Unacked := { psn := q.txPsn, owner := r.owner, type := 4, addr := r.addr, readLen := r.len, span := span }
        sendRoce g r.owner.cls e (.readReq r.len) q.txPsn r.addr e.rkey []
          (modGuest g (fun x => { x with qp := some { q with
            queue := rest, txPsn := (q.txPsn + span) % 2 ^ 24, unacked := q.unacked ++ [u]
            reads := q.reads ++ [{ num := q.txPsn, owner := r.owner, len := r.len, dst := dst }] } }) s)
      else if sourceGone r s then refuseSource r (modGuest g (fun x => { x with qp := some { q with queue := rest } }) s)
      else
        let n := min e.pmtu (r.len - r.sent)
        match nextPayload r n s with
        | (none, s) => s
        | (some (bs, bad), s) =>
          match bad, r.owner with
          | some a, .send k _ _ => poisonSend e.port k a s
          | _, _ =>
            let last := decide (r.len ≤ r.sent + n)
            let u : Unacked := { psn := q.txPsn, owner := r.owner, type := r.type, addr := r.addr + r.sent, last := last, payload := bs }
            let s := modGuest g (fun x => { x with qp := x.qp.map (fun q => { q with
              queue := if last then rest else { r with sent := r.sent + n } :: rest
              txPsn := (q.txPsn + 1) % 2 ^ 24, unacked := q.unacked ++ [u] }) }) s
            let s := countTx r.owner n (notePath r.owner e.port (r.addr + r.sent + n - 1) s)
            sendRoce g r.owner.cls e (if r.type = 5 then .readResp else .write) q.txPsn (r.addr + r.sent) e.rkey bs s
  | _, _ => s

/-- How many packets a queue of messages makes. -/
def packetsOf (q : List TxReq) (unit : Nat) : Nat := (q.map (fun r => max 1 (ceilDiv (r.len - r.sent) unit))).foldl (· + ·) 0

/-- A queue pair sends all it holds, in order. -/
def pumpQp (g : Nat) (s : State) : State :=
  match (getGuest s g).qp, (getGuest s g).endpoint with
  | some q, some e => forEach (List.range (packetsOf q.queue e.pmtu)) (fun _ t => sendQpNow g t) s
  | _, _ => s

/-- A guest's transport sends all it can. -/
def pumpGuest (g : Nat) (s : State) : State :=
  match (getGuest s g).conn with
  | some id => pumpConn id s
  | none => pumpQp g s

/-- Everything that waits for a port is sent (R379, R384). -/
def pumpAll (s : State) : State :=
  let s := forEach (s.net.conns.map (·.1)) pumpConn s
  forEach (s.net.guests.map (·.1)) (fun g t => if (getGuest t g).conn.isSome then t else pumpQp g t) s

/-- A connection has something that waits to be sent. -/
def connWaits (c : Option Conn) : Bool := match c with | some c => !c.queue.isEmpty || !c.ctrlq.isEmpty | none => false

/-- Nanoseconds pass for the network engine: frames leave, and what waited for room in a transmit queue, or for a line of memory, goes on
(R378, R384, R395). -/
def netPasses (ns : Nat) (s : State) : State :=
  let s := forEach (s.net.ports.map (·.1)) (linePasses ns) s
  forEach ((s.net.conns.filter (fun p => connWaits p.2)).map (·.1)) pumpConn s

/-- A transfer to a guest begins: its flow, and its message (R400, R402). -/
def guestWrite (o : TxOwner) (g addr : Nat) (src : TxSrc) (len : Nat) (flush : Bool) (s : State) : State :=
  let s := modNet (fun e => { e with flows := e.flows ++ [{ owner := o, total := len, flush := flush, guest := some g }] }) s
  pumpGuest g (queueGuest g { owner := o, addr := addr, len := len, src := src } s)

-- Pacel (R418, R419)

/-- One flit leaves, if a credit is left. -/
def sendFlitNow (s : State) : State :=
  let p := s.net.pacel
  match p.queue with
  | [] => s
  | r :: rest =>
    if !p.up || p.credits = 0 then s
    else if sourceGone r s then refuseSource r (modNet (fun e => { e with pacel := { e.pacel with queue := rest } }) s)
    else
      let n := min 256 (r.len - r.sent)
      match nextPayload r n s with
      | (none, s) => s
      | (some (bs, bad), s) =>
        match bad, r.owner with
        | some a, .send k _ _ => poisonSend 6 k a s
        | _, _ =>
          let last := decide (r.len ≤ r.sent + n)
          let tag := r.imm.getD 0#32
          let u : Unacked := { psn := p.txSeq, owner := r.owner, type := 1, addr := r.sent, ord := r.ord, imm := r.imm, payload := bs }
          let s := modNet (fun e => { e with pacel := { e.pacel with
            queue := if last then rest else { r with sent := r.sent + n } :: rest
            txSeq := (p.txSeq + 1) % 65536, credits := p.credits - 1, sentBuf := (p.sentBuf ++ [u]).drop (p.sentBuf.length + 1 - 128) } }) s
          netSend (.flit tag r.ord p.txSeq r.sent bs) (countTx r.owner n s)

/-- The Pacel link sends all its credits allow. -/
def pumpPacel (s : State) : State := forEach (List.range s.net.pacel.credits) (fun _ t => sendFlitNow t) s

-- what a guest may reach (R341, R396, R519)

/-- A byte of device memory a guest may not reach: outside its window or with another key; for a write also a read-only region, and a
command area or ring but its own (R317, R396). -/
def guestBad (s : State) (g : Nat) (write : Bool) (x : Nat) : Bool :=
  match (getGuest s g).window, usable s x with
  | some (b, l, k), some r =>
    let mine := (getPh s (64 + g)).st != .closed && decide ((getPh s (64 + g)).area ≤ x) && decide (x < (getPh s (64 + g)).area + 0x4080)
    !(decide (b ≤ x) && decide (x < b + l)) || r.pkey != k || (write && (r.ro || (touchesArea s x 1 && !mine)))
  | _, _ => true

/-- The edges at which that can change. -/
def guestEdges (s : State) (g : Nat) : List Nat :=
  addrEdges s ++ [(getPh s (64 + g)).area + 0x4080] ++ (match (getGuest s g).window with | some (b, l, _) => [b, b + l] | none => [])

/-- A guest may not read or write a range. -/
def guestRefused (s : State) (g : Nat) (write : Bool) (a n : Nat) : Bool := (lowestBad (guestEdges s g) a n (guestBad s g write)).isSome

-- the loss of a guest (R336, R370, R400, R403, R439)

/-- The command that a decided effect completes. -/
def actCmd : BellAct → Nat
  | .bind _ _ _ c | .unbind _ _ c | .evict _ c | .mapNew _ c | .mapAttr _ _ _ _ _ _ c | .unmap _ c | .sealRegion _ c | .mirrorOn _ c
  | .mirrorOff _ c | .pin _ _ c | .unpin _ _ c | .window _ _ _ _ c | .clusterOffline _ c | .complete c => c

/-- A decided effect of a command still waits for its Bell (R343). -/
def actPends (s : State) (id : Nat) : Bool := s.innk.acts.any (fun a => actCmd a == id)

/-- A command waits for an outcome that decides its effect: an opening guest, a prepare tree. -/
def Cmd.undecided (c : Cmd) : Bool := c.phase == .waiting && (c.opcode == 0x0501#16 || c.opcode == 0x0201#16)

/-- Commands of a lost pigeonhole (R336), given the state before its transfers were abandoned. One that has dispatched work runs on to the end
of it, without the pieces not yet dispatched; any other completes with ST_GUEST_LOST at once. RESULT bit 0 says whether its device-side work
has finished. -/
def loseCmds (before : State) (ph : Nat) (s : State) : State :=
  forEach (s.innk.cmds.map (·.1)) (fun id t =>
    match getCmd t id, getCmd before id with
    | some c, some c0 =>
      if c.ph ≠ ph then t
      else if c.phase != .done && (c.phase == .working || !(heldPieces t id).isEmpty) then
        let t := modInnk (fun i => { i with urgQ := i.urgQ.filter (· != id), normQ := i.normQ.filter (· != id), bulkQ := i.bulkQ.filter (· != id) }) t
        modCmd id (fun d => { d with
          lost := some (d.phase != .queued && d.again.isEmpty), again := [], phase := if d.phase = .queued then .waiting else d.phase }) t
      else
        let whole := c0.phase == .done || (c.phase == .waiting && c.outstanding == 0 && !actPends t id && !c.undecided)
        modCmd id (fun d => { d with status := stGuestLost, result := if whole then 1#64 else 0#64, outstanding := 0 }) (finishCmd id stGuestLost 0 t)
    | _, _ => t) s

/-- The owners of a porter's descriptors that move a guest's data. -/
def guestDescs (s : State) (g : Nat) : List (Nat × Desc) :=
  s.porters.flatMap (fun p => ((p.2.legQ ++ p.2.cmdQ).filter (fun d => (d.op == 3 || d.op == 4) && d.guest == g)).map (fun d => (p.1, d)))

/-- Every porter abandons a guest's PUSH and PULL descriptors (R439). -/
def abandonDescs (g : Nat) (s : State) : State :=
  let ds := guestDescs s g
  let s := { s with porters := s.porters.map (fun p =>
    let gone := (p.2.legQ ++ p.2.cmdQ).countP (fun d => (d.op == 3 || d.op == 4) && d.guest == g)
    (p.1, { p.2 with
      legQ := p.2.legQ.filter (fun d => !((d.op == 3 || d.op == 4) && d.guest == g))
      cmdQ := p.2.cmdQ.filter (fun d => !((d.op == 3 || d.op == 4) && d.guest == g))
      run := { p.2.run with refuse := { p.2.run.refuse with guestLost := satAdd p.2.run.refuse.guestLost gone } } })) }
  let s := dropTx (fun o => match o with | .desc _ ow => ds.any (fun d => d.2.owner == ow) | _ => false) s
  forEach ds (fun d t =>
    match d.2.owner with
    | .leg k _ _ => stageFault [k] { fclass := 6 } t
    | .cmd id _ => finishCmd id stGuestLost 0 t) s

/-- The itineraries whose running leg has a SEND to or a RECV from a guest under way (R400). -/
def guestLegs (s : State) (g : Nat) : List Nat :=
  let names (k i : Nat) : Bool := match getItin s k with | some it => it.image.peers[i]? == some (.guest g) | none => false
  ((s.net.sends.filter (fun x => names x.itin x.peer)).map (·.itin) ++
    (s.net.recvs.filter (fun x => x.posted && names x.itin x.peer)).map (·.itin)).eraseDups

/-- A guest's transport ends. -/
def endTransport (g : Nat) (s : State) : State :=
  let s := match (getGuest s g).conn with
    | some id => setConn id none s
    | none => s
  let s := modNet (fun e => { e with flows := e.flows.filter (fun f => f.guest != some g) }) s
  modGuest g (fun x => { x with transport := none, endpoint := none, conn := none, qp := none, landed := [] }) s

/-- A guest's connection is declared lost (R336, R403). -/
def loseGuest (g : Nat) (s : State) : State :=
  let ph := 64 + g
  let before := s
  let s := modNet (fun e => { e with lost := satInc e.lost }) s
  let ks := guestLegs s g
  let s := endTransport g (abandonDescs g s)
  let s := forEach ks (fun k t => refuseEntry k 0 t) s
  loseCmds before ph (modPh ph (fun p => { p with st := .lost, full := [] }) s)

/-- What an open guest's connection loss does; a guest that is not open has none to lose. -/
def loseGuestIfOpen (g : Nat) (s : State) : State :=
  let st := (getPh s (64 + g)).st
  if st == .open_ || st == .draining then loseGuest g s else endTransport g s

-- receiving in sequence (R385)

/-- A lies before B in the 32-bit order of PSNs. -/
def psnBefore (a b : Nat) : Bool := decide ((b + 2 ^ 32 - a) % 2 ^ 32 ≠ 0) && decide ((b + 2 ^ 32 - a) % 2 ^ 32 < 2 ^ 31)

/-- A PSN has been received before. -/
def Conn.seen (c : Conn) (psn : Nat) : Bool := psnBefore psn c.rxCum || c.rxAbove.contains psn

/-- Record a received PSN: the cumulative PSN advances over what is now complete. -/
def Conn.receive (c : Conn) (psn : Nat) : Conn :=
  if c.seen psn then c
  else
    let c := { c with rxAbove := psn :: c.rxAbove }
    (List.range c.rxAbove.length).foldl (fun (d : Conn) _ =>
      if d.rxAbove.contains d.rxCum then { d with rxAbove := d.rxAbove.filter (· != d.rxCum), rxCum := (d.rxCum + 1) % 2 ^ 32 } else d) c

/-- The ranges above the cumulative PSN, ascending, at most 8 (R385). -/
def Conn.sacks (c : Conn) : List (Nat × Nat) :=
  let xs := (c.rxAbove.map (fun p => (p + 2 ^ 32 - c.rxCum) % 2 ^ 32)).mergeSort (· ≤ ·)
  let rs := xs.foldl (fun (acc : List (Nat × Nat)) x => match acc with
    | (a, b) :: t => if x = b + 1 then (a, x) :: t else (x, x) :: (a, b) :: t
    | [] => [(x, x)]) []
  (rs.reverse.map (fun r => ((r.1 + c.rxCum) % 2 ^ 32, (r.2 + c.rxCum) % 2 ^ 32))).take 8

/-- Send an ACK, on the next port in rotation (R384, R385); with no port to take it, it stays due. -/
def sendAck (id : Nat) (s : State) : State :=
  match getConn s id with
  | none => s
  | some c =>
    match pickPort s c.peer c.nextPort with
    | none => s
    | some port =>
      let rs := c.sacks
      let pay := wordBytes 4 (BitVec.ofNat 32 c.ceBytes) ++ [BitVec.ofNat 8 rs.length, 0#8, 0#8, 0#8] ++
        rs.flatMap (fun r => wordBytes 4 (BitVec.ofNat 32 r.1) ++ wordBytes 4 (BitVec.ofNat 32 r.2))
      sendRelay id 1 c.peer { port := port, ip := noHdr, type := 2, conn := c.remoteId, psn := c.rxCum, payload := pay }
        (setConn id (some { c with rxSinceAck := 0, ceBytes := 0, nextPort := (port + 1) % 8 }) s)

/-- A NAK is counted on the port it leaves on (R422). -/
def countNak (port : Nat) (s : State) : State := modPort port (fun p => { p with err := { p.err with nak := satInc p.err.nak } }) s

/-- Send a NAK on a connection, on the next port in rotation, or on the one its cause came in on where none takes it (R384, R386). -/
def sendNak (id port psn code : Nat) (s : State) : State :=
  match getConn s id with
  | none => s
  | some c =>
    let p := (pickPort s c.peer c.nextPort).getD port
    sendRelay id 1 c.peer { port := p, ip := noHdr, type := 3, conn := c.remoteId, psn := psn, payload := [BitVec.ofNat 8 code] }
      (countNak p (setConn id (some { c with nextPort := (p + 1) % 8 }) s))

/-- NO_CONN goes back to where the packet came from (R386). Its connection id is the one the device knows of the sender; with none it
is a free value. -/
def noConn (port : Nat) (h : IpHdr) (psn : Nat) (s : State) : State :=
  let known := s.net.conns.findSome? (fun q => match q.2 with | some c => if c.opened && peerHas s c.peer h.src then some c.remoteId else none | none => none)
  let ip : IpHdr := { v6 := h.v6, src := h.dst, dst := h.src, dscp := s.net.cfgEff.dscp, ecn := 2#2, sport := BitVec.ofNat 16 (49152 + psn % 16384)
                      dport := s.net.cfgEff.relayUdp }
  sendOwn port (frameBytes h.v6 (8 + 32 + 1 + 4))
    (.relay { port := port, ip := ip, type := 3, conn := known.getD (Config.strangerConn h.src), psn := psn, payload := [4#8] }) (countNak port s)

/-- A packet of the sequence has been taken: it is acknowledged after ACK_PKTS packets, and at once at a gap (R385). ends: it ends its
message. -/
def takePsn (id psn len : Nat) (ce ends : Bool) (s : State) : State :=
  match getConn s id with
  | none => s
  | some c =>
    let gap := psn != c.rxCum
    let c := c.receive psn
    let c := { c with
      rxSinceAck := c.rxSinceAck + 1, ceBytes := c.ceBytes + (if ce then len else 0)
      rxOpen := (if ends then c.rxOpen else psn :: c.rxOpen).filter (fun p => !psnBefore (p + 1) c.rxCum) }
    let s := setConn id (some c) s
    if gap || decide (s.net.relayEff.ackPkts.toNat ≤ c.rxSinceAck) then sendAck id s else s

/-- A received frame that no protocol uses is dropped and counted (R378). -/
def dropFrame (port : Nat) (s : State) : State := modPort port (fun p => { p with err := { p.err with fcs := satInc p.err.fcs } }) s

/-- The checks on a frame that arrives, up to its CRC (R378, R380, R382): a frame for another address or UDP port is no protocol's. -/
def rxFrame (port : Nat) (fcsOk crcOk : Bool) (ip : IpHdr) (dport : BitVec 16) (act : State → State) (s : State) : State :=
  if !portUp s port then s
  else if !fcsOk || !addressed s port ip.v6 ip.dst || ip.dport != dport then dropFrame port s
  else if !crcOk then modPort port (fun p => { p with err := { p.err with crc := satInc p.err.crc } }) s
  else act (if ip.ce then modPort port (fun p => { p with cong := { p.cong with ceRx := p.cong.ceRx + 1#32 } }) s else s)

/-- The checks of R382 on an arriving packet, up to its connection, which must be open (but for an acknowledgement of HELLO) and the sender's.
The action gets the connection's local identifier. -/
def rxPacket (port : Nat) (fcsOk crcOk : Bool) (ip : IpHdr) (conn psn : BitVec 32) (opening : Bool) (act : Nat → Conn → State → State) (s : State) : State :=
  rxFrame port fcsOk crcOk ip s.net.cfgEff.relayUdp (fun s =>
    match getConn s conn.toNat with
    | some c => if (c.opened || opening) && peerHas s c.peer ip.src then act conn.toNat c s else noConn port ip psn.toNat s
    | none => noConn port ip psn.toNat s) s

-- landing (R285, R398 to R400)

/-- How many bytes of some disjoint ranges. -/
def rangesLen (rs : List (Nat × Nat)) : Nat := (rs.map (·.2)).foldl (· + ·) 0

/-- An offset lies in some ranges. -/
def inRanges (rs : List (Nat × Nat)) (x : Nat) : Bool := rs.any (fun r => decide (r.1 ≤ x) && decide (x < r.1 + r.2))

/-- The maximal runs of offsets of [o, o + n) that no range holds yet. -/
def newRuns (rs : List (Nat × Nat)) (o n : Nat) : List (Nat × Nat) :=
  ((List.range n).foldl (fun (acc : List (Nat × Nat)) i =>
    if inRanges rs (o + i) then acc
    else match acc with
      | (a, m) :: t => if a + m = o + i then (a, m + 1) :: t else (o + i, 1) :: (a, m) :: t
      | [] => [(o + i, 1)]) []).reverse

/-- Change a RECV. -/
def modRecv (r : RecvX) (f : RecvX → RecvX) (s : State) : State :=
  modNet (fun e => { e with recvs := e.recvs.map (fun x => if x.itin = r.itin ∧ x.entry = r.entry ∧ x.jsn = r.jsn then f x else x) }) s

/-- Bytes from the network go to memory; not while a line waits, and not once the IOD is cut off (R243). -/
def netWrite (rq : Requester) (a : Nat) (bs : List Byte) (s : State) : Bool × State := if iodCut s then (false, s) else homeWriteBytes rq a bs s

/-- Payload bytes land for a RECV at an offset; what has landed before is not written again (R285). False while a line waits. -/
def landRecv (r : RecvX) (o : Nat) (bs : List Byte) (s : State) : Bool × State :=
  if iodCut s then (false, s) else
  let runs := newRuns r.landed o bs.length
  let (ok, s) := clearAll .network ((rangeLines (r.addr + o) bs.length).map (·.1)) s
  if !ok then (false, s)
  else
    let s := forEach runs (fun q t => (homeWriteBytes .network (r.addr + q.1) ((bs.drop (q.1 - o)).take q.2) t).2) s
    let s := modRecv r (fun x => { x with landed := x.landed ++ runs }) s
    let s := modLeg r.itin (fun l => if l.jsn = r.jsn then { l with rxBytes := l.rxBytes + rangesLen runs } else l) s
    (true, if r.posted && decide (r.len ≤ rangesLen (r.landed ++ runs)) then entryDone r.itin r.jsn r.entry s else s)

/-- The peer entry of an itinerary. -/
def peerAt (s : State) (k i : Nat) : Option Peer := match getItin s k with | some it => it.image.peers[i]? | none => none

/-- The RECV that bytes of a peer's SEND land in (R398): the sender's index, the job stage number [31:0], the ordinal. -/
def recvFor (s : State) (from_ : Peer) (tag : BitVec 32) (ord : Nat) : Option RecvX :=
  s.net.recvs.find? (fun r => peerAt s r.itin r.peer == some from_ && BitVec.ofNat 32 r.jsn == tag && r.ord == ord)

/-- Every job of an itinerary that names the sender is past a job stage number: its bytes have landed before (R285). Where one is not, the
RECV may still be posted (R399). -/
def staleTag (s : State) (from_ : Peer) (tag : BitVec 32) : Bool :=
  let nexts := s.itins.filterMap (fun p => match p.2 with
    | some i => if i.image.peers.contains from_ then i.job.map (·.next) else none
    | none => none)
  !nexts.isEmpty && nexts.all (fun n => (tag - BitVec.ofNat 32 n).msb)

/-- Bytes of an immediate value have landed for a guest; the 64 most recent values are kept (R400). -/
def noteImm (g : Nat) (imm : BitVec 32) (a n : Nat) (s : State) : State :=
  let l := (getGuest s g).landed
  let old := match l.find? (fun p => p.1 == imm) with | some p => p.2 | none => []
  modGuest g (fun x => { x with landed := ((imm, if n = 0 then old else (a, n) :: old) :: l.filter (fun p => p.1 != imm)).take 64 }) s

/-- How many bytes of some pieces lie in a range. -/
def bytesWithin (ps : List (Nat × Nat)) (a n : Nat) : Nat := (ps.map (fun p => min (p.1 + p.2) (a + n) - max p.1 a)).foldl (· + ·) 0

/-- What has landed for the RECVs from a guest counts, at most each one's length; those whose bytes have all landed are done (R277, R400). -/
def settleGuestRecvs (g : Nat) (s : State) : State :=
  forEach s.net.recvs (fun r t =>
    if r.posted && peerAt t r.itin r.peer == some (.guest g) then
      let n := match (getGuest t g).landed.find? (fun p => p.1 == BitVec.ofNat 32 r.jsn) with | some p => min r.len (bytesWithin p.2 r.addr r.len) | none => 0
      let t := modRecv r (fun x => { x with counted := max r.counted n }) t
      let t := modLeg r.itin (fun l => if l.jsn = r.jsn then { l with rxBytes := l.rxBytes + (n - r.counted) } else l) t
      if r.len ≤ n then entryDone r.itin r.jsn r.entry t else t
    else t) s

end Sys2Proof.Machine
end

