-- ==== Sys2Proof/Machine/Completions.lean ====
section
/-! DEFINITION. Completion records and rings, the lost log, and the opening and closing of guest pigeonholes (R329 to R337, R402, R404). -/

namespace Sys2Proof.Machine

/-- The completion record of a command as it is written now, at an entry of its ring (R329, R330). -/
def recordOf (s : State) (p : Pigeonhole) (c : Cmd) : CplRec :=
  { tag := c.tag, status := c.status, head := p.head, energy := c.energy, result := c.result
    sealWord := (p.cqTail.setWidth 64) ||| ((p.epoch.setWidth 64) <<< 16) ||| (BitVec.ofNat 64 (c.slot % 256) <<< 24) |||
      (BitVec.ofNat 64 (s.stg.num % 2 ^ 32) <<< 32) }

/-- The first three words of a record (R329). -/
def CplRec.words (r : CplRec) : List Word :=
  [(r.tag.setWidth 64) ||| ((r.status.setWidth 64) <<< 32) ||| ((r.head.setWidth 64) <<< 48), r.energy, r.result]

/-- The ring has room for one more record (R330). -/
def ringRoom (p : Pigeonhole) : Bool := decide ((p.cqTail - p.cqHead).toNat < 256)

/-- Write a record into the next entry of a pigeonhole's ring: through the homes for a runtime ring, through the transport for a guest's
(R330, R404). False where it cannot be written now. -/
def writeRing (n : Nat) (r : CplRec) (s : State) : Bool × State :=
  let p := getPh s n
  let e := p.cqTail.toNat % 256
  let a := p.cq + 32 * e
  let bump (t : State) : State := modPh n (fun q => { q with cqTail := q.cqTail + 1#16 }) t
  if n < 64 then
    match usable s a with
    | none => (false, s)
    | some _ =>
      let (ok, s) := homeWriteBytes .innkeeper a (bytesOfWords (r.words ++ [r.sealWord])) s
      (ok, if ok then bump s else s)
  else
    let g := n - 64
    let s := guestWrite (.record n r e) g a (.bytes (bytesOfWords r.words)) 24 false (bump s)
    let s := match (getGuest s g).transport with
      | some .roce => pumpGuest g (queueGuest g (sealReq n e p.cq r) s)
      | _ => s
    (true, s)

/-- A job whose itinerary names peer devices: its commands send CTRL messages (R404, R406). -/
def sharedJob (s : State) (job : Word) : Bool :=
  s.itins.any (fun p => match p.2 with
    | some i => (i.job.map (·.id)) == some job && i.image.peers.any (fun q => match q with | .device _ => true | .guest _ => false)
    | none => false)

/-- A command has porter or network work of its own that R497 charges to it: a porter operation that moved something, a guest command with
an output buffer, a command of a job that other devices share, or a `guest.open`. -/
def cmdMoves (s : State) (c : Cmd) : Bool :=
  if c.opcode == 0x0401#16 || c.opcode == 0x0402#16 || c.opcode == 0x0403#16 || c.opcode == 0x0404#16 then
    !c.empty && (c.status == stOk || c.status == stPoison || c.status == stGuestLost || c.refused.isSome)
  else if c.opcode == 0x0002#16 || c.opcode == 0x0804#16 then decide (64 ≤ c.ph) && c.status == stOk && !c.empty
  else if c.opcode == 0x0201#16 || c.opcode == 0x0202#16 || c.opcode == 0x0203#16 then sharedJob s (c.arg 0)
  else c.opcode == 0x0501#16 && c.status == stOk

/-- A command's energy is known when its record is written: its own porter and network charges have no measure in the spec and are a free
value; other commands have none (R496, R497). -/
def withOwnEnergy (c : Cmd) (s : State) : Cmd × State :=
  if cmdMoves s c then
    let (e, s) := draw 64 s
    ({ c with energy := c.energy + e }, s)
  else (c, s)

/-- The command leaves the table; it counts in the stage, the pigeonhole and the next Bell record (R278, R322, R332, R333, R339). -/
def retireCmd (id : Nat) (c : Cmd) (s : State) : State :=
  let s := setCmd id none s
  let s := modInnk (fun i => { i with stage := { i.stage with completed := satInc i.stage.completed } }) s
  let s := modPh c.ph (fun p => { p with
    count := { p.count with completed := p.count.completed + 1#32 }
    energy := { p.energy with mj := p.energy.mj + c.energy }
    err := if c.status = stDenied then { p.err with denied := satInc p.err.denied } else p.err }) s
  let s := if 64 ≤ c.ph then modGuest (c.ph - 64) (fun g => { g with energy := g.energy + c.energy }) s else s
  modLdg (fun l => { l with cmds := l.cmds + 1, cmdsEmpty := l.cmdsEmpty + (if c.empty then 1 else 0) }) s

/-- A guest pigeonhole in DRAINING whose other commands have completed: its guest.close completes, and it is CLOSED once nothing of it is
in flight (R334, R335). -/
def settleDrain (g : Nat) (s : State) : State :=
  let ph := 64 + g
  let cs := (getGuest s g).closeCmds
  if (getPh s ph).st != .draining || cs.isEmpty then s
  else if s.innk.cmds.any (fun p => match p.2 with | some c => c.ph == ph && !cs.contains p.1 | none => false) then s
  else
    let s := forEach cs (fun id t => finishCmd id stOk 0 t) s
    if 0 < phInflight s ph then s
    else
      let s := modPh ph (fun p => { p with st := .closed }) (modGuest g (fun x => { x with closeCmds := [] }) s)
      if s.net.flows.any (fun f => f.guest == some g) then s else endTransport g s

/-- A closed guest whose last record has been acknowledged keeps no transport. -/
def reapGuest (g : Nat) (s : State) : State :=
  if (getPh s (64 + g)).st == .closed && (getGuest s g).openCmd.isNone && !s.net.flows.any (fun f => f.guest == some g) then endTransport g s else s

/-- Completions of the commands of one pigeonhole are written in the order in which the commands completed (R330). -/
def isNextRecord (s : State) (c : Cmd) : Bool :=
  !s.innk.cmds.any (fun p => match p.2 with | some d => d.phase == .done && d.ph == c.ph && decide (d.doneAt < c.doneAt) | none => false)

/-- The Innkeeper can write completions: also those of guests once the IOD is cut off (R243, R307). -/
def innkWrites (s : State) (ph : Nat) : Bool :=
  innkBooted s && s.innk.innk.restarting == 0#1 && s.innk.innk.halted == 0#1 && !s.innk.dmiHalt && (!s.innk.cut || decide (64 ≤ ph))

/-- A command's outcome as its record tells it: one whose guest was lost reports that (R336). -/
def Cmd.outcome (c : Cmd) : Cmd :=
  match c.lost with
  | some whole => { c with status := stGuestLost, result := if whole then 1#64 else 0#64 }
  | none => c

/-- The completion record of a command is written (R329 to R336). -/
def doCompletion (id : Nat) (s : State) : State :=
  match (getCmd s id).map Cmd.outcome with
  | none => s
  | some c =>
    if c.phase != .done || !innkWrites s c.ph then s
    else
      let p := getPh s c.ph
      if p.st == .lost then
        if !isNextRecord s c then s else
        let (c, s) := withOwnEnergy c s
        retireCmd id c (modPh c.ph (fun q => { q with lostLog := (q.lostLog ++ [recordOf s p c]).take 256 }) s)
      else if !ringRoom p then
        if c.cqWaited then s
        else modCmd id (fun d => { d with cqWaited := true }) (modInnk (fun i => { i with stall := { i.stall with cqWaits := satInc i.stall.cqWaits } }) s)
      else if !isNextRecord s c then s
      else
        let (c, s) := withOwnEnergy c s
        let (ok, s) := writeRing c.ph (recordOf s p c) s
        if !ok then s
        else
          let s := retireCmd id c s
          if 64 ≤ c.ph then settleDrain (c.ph - 64) s else s

/-- The next EPOCH, skipping 0 (R335). -/
def nextEpoch (e : BitVec 8) : BitVec 8 := if e + 1#8 = 0#8 then 1#8 else e + 1#8

/-- Every SEAL word of a command area is zeroed (R335). False while a line waits for a processor cache. -/
def zeroSeals (area : Nat) (s : State) : Bool × State :=
  (List.range 256).foldl (fun p i =>
    let (ok, t) := homeWriteBytes .innkeeper (area + 64 * i + 0x38) (wordBytes 8 (0#64)) p.2
    (p.1 && ok, t)) (true, s)

/-- A guest pigeonhole opens (R335): EPOCH, the SEAL words, the pointers, OPEN, and the lost log into the ring. -/
def openPh (g id : Nat) (s : State) : State :=
  match (getGuest s g).openArgs with
  | none => s
  | some (area, cq, maxIn, urgent) =>
    let ph := 64 + g
    let lost := (getPh s ph).lostLog
    let e := nextEpoch (getPh s ph).epoch
    let z := zeroSeals area s
    let s := z.2
    if !z.1 then modGuest g (fun x => { x with connected := true }) (modCmd id (fun c => { c with phase := .working }) s)
    else
    let s := modPh ph (fun _ => { st := .open_, urgentOk := urgent, epoch := e, area := area, cq := cq, maxInflight := maxIn }) s
    let s := modGuest g (fun x => { x with openCmd := none, openArgs := none, connected := false, energy := 0#64 }) s
    let s := forEach lost (fun r t =>
      let p := getPh t ph
      let r := { r with sealWord := (p.cqTail.setWidth 64) ||| ((p.epoch.setWidth 64) <<< 16) ||| (r.sealWord &&& 0xFFFFFFFFFF000000#64) }
      (writeRing ph r t).2) s
    finishCmd id stOk (e.toNat + 256 * (lost.length % 256)) s

/-- The transport of a guest that is being opened has connected (R371, R383, R391). -/
def guestConnected (g : Nat) (s : State) : State :=
  match (getGuest s g).openCmd with
  | some id => openPh g id s
  | none => s

/-- COMPLETION_RECORD (R330). -/
def execCompletionRecord (cmd : Nat) (s : State) : Host.Outcome State Fault Refusal := .next (doCompletion cmd s)

end Sys2Proof.Machine
end

