-- ==== Sys2Proof/Machine/Clock.lean ====
section
/-! DEFINITION. The passing of time (R25, R321, R395, R531): the device's clocks run on, what counts nanoseconds counts them, and frames leave
the ports. -/

namespace Sys2Proof.Machine

/-- A full slot waits under the device-wide limit: it is at the head of an open pigeonhole that is below its own limit (R320, R321). -/
def limitWaits (s : State) : Bool :=
  (visitOrder s).any (fun n => match headSlot s n with
    | some (slot, _) =>
      let p := getPh s n
      p.st == .open_ && decide (phInflight s n < p.maxInflight) && !decide (inflightTotal s < acceptLimit s n (slotClass s n slot))
    | none => false)

/-- Nanoseconds pass: the time that a full slot waits under the device-wide limit counts (R321, R339). -/
def countLimit (ns : Nat) (s : State) : State :=
  if limitWaits s then modInnk (fun i => { i with stall := { i.stall with limitNs := satAdd i.stall.limitNs ns } }) s else s

/-- Some nanoseconds pass on the Bell clock. -/
def passNs (d : Nat) (s : State) : State := if d = 0 then s else netPasses d (countLimit d (modStg (fun g => g.runFor d) s))

/-- The clocks reach an instant of PTP time; one that has passed changes nothing. -/
def advanceTo (t : Nat) (s : State) : State := passNs (t - s.stg.ptpNow) s

/-- One idle tick (DESIGN CHOICE, log 2): the local clocks advance by 1 ns. The estimate of PTP time waits one nanosecond
before a Bell instant, so that the Bell falls by its own command. -/
def idleTick (s : State) : State :=
  netPasses 1 (countLimit 1 (modStg (fun g =>
    let h := { g with upNs := g.upNs + 1 }
    if g.time.state == timeUnset then { h with ptpNow := g.ptpNow + 1 }
    else if h.tick.ptpNow < nextBellNs s then h.tick.missPps else h) s))

end Sys2Proof.Machine
end

