-- ==== Sys2Proof/Machine/TimeRows.lean ====
section
/-! DEFINITION. The PTP time unit (R22 to R28, R414, R415, R531, R560): its state, its estimate of PTP time, and the pulses on PPS_IN. The
servo's dynamics are the IEEE 1588 clock's and the oscillator's; what the servo finds comes with the command. -/

namespace Sys2Proof.Machine

/-- A bound in units of 10 ns, as ERR_BOUND holds it (R56). -/
def boundUnits (ns : Nat) : BitVec 16 := BitVec.ofNat 16 (min ((ns + 9) / 10) 0xFFFF)

/-- The state that follows from the lock, the bound and whether the unit has left UNSET (R22, R27). -/
def timeStateOf (locked left : Bool) (refused : BitVec 1) (units : BitVec 16) : BitVec 2 :=
  if locked && decide (units.toNat ≤ 50) && refused == 0#1 then timeLocked
  else if !left then timeUnset
  else if units.toNat ≤ 200 then timeHoldover
  else timeFreerun

/-- An offset as OFFSET_NS holds it; what it reads where the offset does not fit the spec does not say. -/
def offsetField (o : Int) (s : State) : BitVec 32 × State :=
  if -(2 ^ 31) ≤ o ∧ o < 2 ^ 31 then (BitVec.ofInt 32 o, s) else draw 32 s

/-- The local estimate moves by an offset: Bell time minus PTP time is taken from it. -/
def correctBy (o : Int) (s : State) : State := modStg (fun g => { g with ptpNow := ((g.ptpNow : Int) - o).toNat }) s

/-- An offset is to be slewed away as time passes (R25). -/
def slewBy (o : Int) (s : State) : State := modStg (fun g => { g with slew := o, slewNs := 0 }) s

/-- How the unit corrects an offset once Bells fall, and what remains of it (R25 to R27): an offset up to STEP_MS is slewed away as time
passes, a forward step ends the stage early, a backward step suspends Bells, a backward step beyond the limit is withheld. -/
def correct (o : Int) (s : State) : Int × State :=
  let step : Int := s.stg.timeCfg.stepMs.toNat * 1000000
  let limit : Int := s.stg.timeCfg.backstepLimitS.toNat * 1000000000
  let ok (t : State) : State := modStg (fun g => { g with time := { g.time with stepRefused := 0#1 } }) t
  if -step ≤ o ∧ o ≤ step then (o, ok (slewBy o s))
  else if o < 0 then (0, ok (slewBy 0 (correctBy o s)))
  else if o ≤ limit then (0, ok (modStg (fun g => { g with suspended := true }) (slewBy 0 (correctBy o s))))
  else (o, modStg (fun g => { g with time := { g.time with stepRefused := 1#1 } }) (slewBy 0 s))

/-- The servo is locked and reports its bound and offset (R22 to R27, R560). -/
def servoLocked (errNs : Nat) (off : Int) (s : State) : State :=
  let unset := s.stg.time.state == timeUnset
  let (rest, s) := if unset then (0, correctBy off s) else correct off s
  let u := boundUnits errNs
  let st := timeStateOf true s.stg.leftUnset s.stg.time.stepRefused u
  let s := modStg (fun g => { g with locked := true, servo := some (errNs, rest), leftUnset := g.leftUnset || st != timeUnset }) s
  if st == timeUnset then s
  else
    let (o, s) := offsetField rest s
    modStg (fun g => { g with time := { g.time with state := st, errBound := u, offsetNs := o } }) s

/-- Lock is lost (R22, R560): the state follows from the last measured bound. Slewing ends with the last estimate. A backward offset that
is withheld stays withheld, and STEP_REFUSED tells so (R56), until the servo reports one within the limit: the spec names no other end of
it (DEDUCED, log 35). -/
def lockLost (s : State) : State :=
  modStg (fun g => { g with
    locked := false, servo := none, slew := 0, slewNs := 0
    time := { g.time with state := timeStateOf false g.leftUnset g.time.stepRefused g.time.errBound } }) s

/-- The unit runs once the module has been released. -/
def timeRuns (s : State) : Bool := s.mdl.st == .running

/-- What the best-master-clock algorithm compares, in its order (R415; the order is PRESUMED, IEEE 1588-2019, which the spec names). -/
def masterRank (m : PtpMaster) : List Nat :=
  [m.priority1, m.clockClass, m.accuracy, m.variance, m.priority2, m.identity.toNat, m.steps]

/-- One rank is lower, so better, than another. -/
def rankBefore : List Nat → List Nat → Bool
  | a :: x, b :: y => decide (a < b) || (a == b && rankBefore x y)
  | _, _ => false

/-- A port runs PTP: it is up and NET_PTP.PORTS names it (R415, R417). -/
def ptpPort (s : State) (n : Nat) : Bool := portUp s n && s.net.ptp.ports.getLsbD n

/-- The port with the best master, the lowest-numbered of equals (R415). -/
def bestPort (s : State) : Option Nat :=
  ((List.range 8).filterMap (fun n => if ptpPort s n then (getPort s n).master.map (fun m => (n, masterRank m)) else none)).foldl
    (fun b p => match b with
      | none => some p
      | some q => if rankBefore p.2 q.2 then some p else some q) none |>.map (·.1)

/-- The port the unit follows. -/
def activePort (s : State) : Option Nat := if s.net.ptp.activeValid = 1#1 then some s.net.ptp.active.toNat else none

/-- The unit follows the port with the best master (R415); where none is left, lock is lost. -/
def followBest (s : State) : State :=
  match bestPort s with
  | some n => if activePort s = some n then s else
      modPort n (fun p => { p with sync := false }) (modNet (fun e => { e with ptp := { e.ptp with active := BitVec.ofNat 3 n, activeValid := 1#1 } }) s)
  | none => if activePort s = none then s else
      let s := modNet (fun e => { e with ptp := { e.ptp with activeValid := 0#1 } }) s
      if s.stg.locked then lockLost s else s

/-- The servo takes what a message gives it. -/
def servoTakes (u : PtpUpdate) (s : State) : State :=
  if u.locked then servoLocked u.errNs u.offsetNs s else if s.stg.locked then lockLost s else s

/-- A Delay_Req leaves on the active port (R414); one follows every Sync that is complete (DESIGN CHOICE, log 35: when, the spec leaves to IEEE
1588). -/
def sendDelayReq (n : Nat) (s : State) : State :=
  sendOwn n (frameBytes true 52) (.delayReq n s.net.ptp.domain s.net.ptp.transport) s

/-- A message of the unit's domain and transport on a port that runs PTP (R414, R415): Announce says which masters there are, the others
drive the servo if they come on the port the unit follows. Management messages are not answered. -/
def takePtp (u : PtpUpdate) (s : State) : State :=
  match u.kind with
  | .announce m => followBest (modPort u.port (fun p => { p with master := some m }) s)
  | .management => s
  | .other => s
  | .sync twoStep =>
    if activePort s ≠ some u.port then s
    else if twoStep then modPort u.port (fun p => { p with sync := true }) s
    else sendDelayReq u.port (servoTakes u s)
  | .followUp =>
    if activePort s ≠ some u.port ∨ !(getPort s u.port).sync then s
    else sendDelayReq u.port (servoTakes u (modPort u.port (fun p => { p with sync := false }) s))
  | .delayResp =>
    if activePort s ≠ some u.port then s
    else servoTakes u (modNet (fun e => { e with ptp := { e.ptp with mpdNs := BitVec.ofNat 32 u.mpdNs } }) s)

/-- PTP_MESSAGE (R378, R414): one that no port's PTP uses, by domain, transport or port, is a frame no protocol uses. -/
def doPtpMessage (u : PtpUpdate) (s : State) : State :=
  if !timeRuns s || !portUp s u.port then s
  else if !ptpPort s u.port || u.domain != s.net.ptp.domain || u.transport != s.net.ptp.transport then dropFrame u.port s
  else takePtp u s

/-- FREERUN_TIMEOUT (R23, R560). -/
def doFreerunTimeout (s : State) : State :=
  if !timeRuns s || s.stg.time.state != timeUnset then s
  else
    match s.stg.servo with
    | some (e, o) =>
      let (o, s) := offsetField o s
      modStg (fun g => { g with leftUnset := true, time := { g.time with state := timeFreerun, errBound := boundUnits e, offsetNs := o } }) s
    | none => modStg (fun g => { g with
        leftUnset := true, ptpNow := 0, time := { g.time with state := timeFreerun, errBound := 0xFFFF#16, offsetNs := 0#32 } }) s

/-- ANNOUNCE_TIMEOUT (R415): a port has missed three Announce intervals and has no master; the unit moves to the next best port, or has none
left and loses lock. -/
def doAnnounceTimeout (n : Nat) (s : State) : State :=
  if !timeRuns s || !decide (n < 8) then s else followBest (modPort n (fun p => { p with master := none, sync := false }) s)

/-- ERR_BOUND_EXCEEDED (R22, R560): with lock lost, the bound has grown to a value; a bound never falls that way. -/
def doErrBound (b : BitVec 16) (s : State) : State :=
  if !timeRuns s || s.stg.locked || !(s.stg.time.state == timeHoldover || s.stg.time.state == timeFreerun) then s
  else
    let u := if s.stg.time.errBound.toNat < b.toNat then b else s.stg.time.errBound
    modStg (fun g => { g with time := { g.time with errBound := u, state := if g.time.state == timeFreerun then timeFreerun else timeStateOf false true 0#1 u } }) s

/-- PPS_OK clears (R531). -/
def ppsBad (s : State) : State := modStg (fun g => { g with ppsGood := 0, time := { g.time with ppsOk := 0#1 } }) s

/-- PPS_EDGE (R22, R25, R416, R531): an edge within 1 us of the expected second is good; three in a row set PPS_OK. In HOLDOVER the estimate
is slewed to the pulse. The offset is Bell time minus the second that the edge marks. -/
def doPpsEdge (o : Int) (s : State) : State :=
  if !timeRuns s then s
  else if o.natAbs ≤ 1000 then
    let n := min 3 (s.stg.ppsGood + 1)
    let second := (((s.stg.ptpNow : Int) - o).toNat + ptpSec / 2) / ptpSec
    let s := modStg (fun g => { g with ppsGood := n, ppsNext := (second + 1) * ptpSec, time := { g.time with ppsOk := if 3 ≤ n then 1#1 else g.time.ppsOk } }) s
    if s.stg.time.state == timeHoldover && s.stg.time.ppsOk == 1#1 then slewBy o s else s
  else ppsBad s

/-- PPS_FALLING_EDGE (R531): the pulse was high for 100 ns to 500 ms, or PPS_OK clears. -/
def doPpsFall (highNs : Nat) (s : State) : State :=
  if timeRuns s && (decide (highNs < 100) || decide (500000000 < highNs)) then ppsBad s else s

/-- PTP_MESSAGE (R414). -/
def execPtpMessage (u : PtpUpdate) (s : State) : Host.Outcome State Fault Refusal := .next (doPtpMessage u s)
/-- FREERUN_TIMEOUT (R23). -/
def execFreerunTimeout (s : State) : Host.Outcome State Fault Refusal := .next (doFreerunTimeout s)
/-- ANNOUNCE_TIMEOUT (R415). -/
def execAnnounceTimeout (port : Nat) (s : State) : Host.Outcome State Fault Refusal := .next (doAnnounceTimeout port s)
/-- ERR_BOUND_EXCEEDED (R22). -/
def execErrBoundExceeded (bound : BitVec 16) (s : State) : Host.Outcome State Fault Refusal := .next (doErrBound bound s)
/-- PPS_EDGE (R531). -/
def execPpsEdge (offsetNs : Int) (s : State) : Host.Outcome State Fault Refusal := .next (doPpsEdge offsetNs s)
/-- PPS_FALLING_EDGE (R531). -/
def execPpsFallingEdge (highNs : Nat) (s : State) : Host.Outcome State Fault Refusal := .next (doPpsFall highNs s)

end Sys2Proof.Machine
end

