-- ==== Sys2Proof/Machine/NetCmds.lean ====
section
/-! DEFINITION. The network engine's commands but for those of jobs across devices: Relay packets and timers, RoCEv2 packets and timers,
ports, and the Pacel link (R378, R379, R381 to R392, R396 to R403, R417 to R419). -/

namespace Sys2Proof.Machine

/-- Send a packet again (R385): a read-back on its own path, anything else on the next port in rotation, which is then a path of its data
(R402). -/
def resend (id : Nat) (u : Unacked) (s : State) : State :=
  match getConn s id with
  | none => s
  | some c =>
    match (match u.via with | some p => if portUp s p then some p else none | none => pickPort s c.peer c.nextPort) with
    | none => s
    | some port =>
      let s := modPort port (fun p => { p with err := { p.err with retx := satInc p.err.retx } }) s
      let s := setConn id (some { c with nextPort := (port + 1) % 8
                                         unacked := c.unacked.map (fun x => if x.psn = u.psn then { x with tries := x.tries + 1, bySack := true } else x) }) s
      let s := if u.type = 1 then notePath u.owner port (u.addr + u.payload.length - 1) s else s
      sendRelay id u.owner.cls c.peer { port := port, ip := noHdr, type := u.type, conn := c.remoteId, psn := u.psn, last := u.last, retx := true, imm := u.imm
                                        addr := u.addr, ord := u.ord, payload := u.payload } s

/-- DATA from a peer device (R285, R398, R399). -/
def peerData (p : RelayPkt) (id : Nat) (c : Conn) (s : State) : State :=
  let psn := p.psn.toNat
  let a := p.addr.toNat
  let n := p.payload.length
  let take (t : State) : State := takePsn id psn n p.ce p.last t
  match recvFor s c.peer p.imm p.ord.toNat with
  | some r =>
    if r.len < a + n then
      let s := sendNak id p.port psn 3 (take s)
      if r.posted then refuseEntry r.itin (r.addr + a) s else s
    else
      let (ok, s) := landRecv r a p.payload s
      if ok then take s else s
  | none => if staleTag s c.peer p.imm then take s else sendNak id p.port psn 1 s

/-- DATA from a guest (R316, R389, R396, R400). A message into a command area is one packet: a packet of a longer one is refused, and one of
which it is not yet known whether it begins its message, because the packet before it has not come, is not taken before that one. -/
def guestData (p : RelayPkt) (id : Nat) (c : Conn) (g : Nat) (s : State) : State :=
  let psn := p.psn.toNat
  let a := p.addr.toNat
  let n := p.payload.length
  let before := (psn + 2 ^ 32 - 1) % 2 ^ 32
  let take (t : State) : State := takePsn id psn n p.ce p.last t
  let area := touchesArea s a n
  if guestRefused s g true a n || (area && (!p.last || c.rxOpen.contains before)) then sendNak id p.port psn 2 (take s)
  else if area && !c.seen before then s
  else
    let (ok, s) := netWrite .network a p.payload s
    if !ok then s else take (if p.immValid then settleGuestRecvs g (noteImm g p.imm a n s) else s)

/-- DATA arrives (R382, R385, R389, R396, R398 to R400). -/
def doData (p : RelayPkt) (s : State) : State :=
  rxPacket p.port p.fcsOk p.crcOk p.ip p.conn p.psn false (fun id c s =>
    if c.seen p.psn.toNat then sendAck id s
    else match c.peer with
      | .device _ => peerData p id c s
      | .guest g => guestData p id c g s) s

/-- The congestion window after some packets have been acknowledged (R387). -/
def Conn.congest (c : Conn) (wmax gShift pkts bytes ce : Nat) : Conn :=
  let c := { c with winSent := c.winSent + pkts, winBytes := c.winBytes + bytes, winCe := c.winCe + ce }
  if c.winSent < c.window then c
  else
    let f : Rat := if c.winBytes = 0 then 0 else (c.winCe : Rat) / (c.winBytes : Rat)
    let g : Rat := 1 / ((2 ^ gShift : Nat) : Rat)
    let al := (1 - g) * c.alpha + g * f
    let w := if 0 < f then max 1 (((c.window : Rat) * (1 - al / 2)).floor.toNat) else min wmax (c.window + 1)
    { c with alpha := al, window := w, winSent := 0, winBytes := 0, winCe := 0 }

/-- How many PSNs above a packet's the SACK ranges show received (R385). -/
def sackedAbove (u : Unacked) (rs : List (Nat × Nat)) : Nat :=
  (rs.map (fun r => if psnBefore u.psn r.1 then (r.2 + 2 ^ 32 - r.1) % 2 ^ 32 + 1 else 0)).foldl (· + ·) 0

/-- A PSN lies in the SACK ranges. -/
def inSack (psn : Nat) (rs : List (Nat × Nat)) : Bool := rs.any (fun r => !psnBefore psn r.1 && !psnBefore r.2 psn)

/-- The guests whose flows have changed keep no transport once closed. -/
def reapPeer (p : Peer) (s : State) : State := match p with | .guest g => reapGuest g s | .device _ => s

/-- An ACK arrives (R385, R387). -/
def doAck (p : RelayPkt) (a : AckBody) (s : State) : State :=
  rxPacket p.port p.fcsOk p.crcOk p.ip p.conn p.psn true (fun id c s =>
    let got (u : Unacked) : Bool := psnBefore u.psn p.psn.toNat || inSack u.psn a.sack
    let acked := c.unacked.filter got
    let rest := c.unacked.filter (fun u => !got u)
    let s := if 0 < a.ceBytes then modPort p.port (fun q => { q with cong := { q.cong with signals := q.cong.signals + 1#32 } }) s else s
    let bytes := (acked.map (fun u => u.payload.length)).foldl (· + ·) 0
    let c := { c with unacked := rest }.congest s.net.relayEff.wmax.toNat s.net.relayEff.gShift.toNat acked.length bytes a.ceBytes
    let s := setConn id (some c) s
    let s := forEach acked (fun u t => if u.type = 1 then creditFlow u.owner u.payload.length t else t) s
    let s := forEach rest (fun u t => if !u.bySack && decide (t.net.relayEff.dupThresh.toNat ≤ sackedAbove u a.sack) then resend id u t else t) s
    reapPeer c.peer (pumpConn id s)) s

/-- A message has been refused by its receiver: it is abandoned, with the outcome its sender's kind gives (R386, R396, R398, R431). -/
def abandonMsg (u : Unacked) (s : State) : State :=
  let s := dropTx (fun o => o == u.owner) s
  match u.owner with
  | .send k _ _ => refuseEntry k 0 s
  | .desc p ow =>
    let s := modPorter p (fun x => { x with
      legQ := x.legQ.filter (fun d => d.owner != ow), cmdQ := x.cmdQ.filter (fun d => d.owner != ow)
      run := { x.run with refuse := { x.run.refuse with refused := satInc x.run.refuse.refused } } }) s
    (match ow with
    | .leg k _ _ => refuseEntry k 0 s
    | .cmd id _ => finishCmd id stDenied u.addr s)
  | .buffer id => finishCmd id stDenied u.addr s
  | _ => s

/-- A NAK arrives (R386). -/
def doNak (p : RelayPkt) (code : Nat) (s : State) : State :=
  rxPacket p.port p.fcsOk p.crcOk p.ip p.conn p.psn false (fun id c s =>
    if code = 2 ∨ code = 3 then
      match c.unacked.find? (fun u => u.psn == p.psn.toNat) with
      | none => s
      | some u => pumpConn id (abandonMsg u (setConn id (some { c with unacked := c.unacked.filter (fun x => x.psn != u.psn) }) s))
    else if code = 4 then
      match c.peer with
      | .guest g => loseGuestIfOpen g (setConn id none s)
      | .device _ => setConn id none s
    else s) s

/-- A guest's READ arrives (R381, R396). -/
def doRead (p : RelayPkt) (target len : Nat) (s : State) : State :=
  rxPacket p.port p.fcsOk p.crcOk p.ip p.conn p.psn false (fun id c s =>
    let psn := p.psn.toNat
    if c.seen psn then sendAck id s
    else
      let s := takePsn id psn p.payload.length p.ce true s
      match c.peer with
      | .guest g =>
        if guestRefused s g false target len then sendNak id p.port psn 2 s
        else if len = 0 then s
        else pumpConn id (queueConn id { owner := .resp, type := 5, addr := 0, len := len, src := .mem target, ord := p.ord.toNat } s)
      | .device _ => sendNak id p.port psn 2 s) s

/-- Bytes of a READ of the device come in: they land where they go, and the transfer is credited when all have come (R402, R427). -/
def takeRead (r : ReadOut) (off : Nat) (bs : List Byte) (s : State) : Option ReadOut × State :=
  let runs := newRuns r.got off bs.length
  let s := match r.dst with
    | some d => forEach runs (fun q t =>
        let rq := match r.owner with | .desc p _ => Requester.porter p | _ => .network
        (netWrite rq (d + q.1) ((bs.drop (q.1 - off)).take q.2) t).2) s
    | none => s
  let got := r.got ++ runs
  if rangesLen got < r.len then (some { r with got := got }, s)
  else
    (none, match r.dst, r.owner with
      | none, o => creditRead o s
      | some _, .desc p ow => modDesc p ow (fun d => { d with acked := d.acked + r.len }) s
      | _, _ => s)

/-- A READ_RESP arrives (R381, R402). -/
def doReadResp (p : RelayPkt) (s : State) : State :=
  rxPacket p.port p.fcsOk p.crcOk p.ip p.conn p.psn false (fun id c s =>
    let psn := p.psn.toNat
    if c.seen psn then sendAck id s
    else
      let s := takePsn id psn p.payload.length p.ce true s
      match c.reads.find? (fun r => r.num == p.ord.toNat) with
      | none => s
      | some r =>
        let (left, s) := takeRead r p.addr.toNat p.payload s
        let s := modConn id (fun d => { d with
          reads := (d.reads.filter (fun x => x.num != r.num)) ++ (match left with | some x => [x] | none => [])
          unacked := d.unacked.filter (fun u => !(u.type == 4 && u.ord == r.num)) }) s
        reapPeer c.peer (pumpConn id s)) s

/-- The retransmission timeout of a packet passes (R385, R405); a packet that found no port yet goes as soon as one takes it. -/
def doRto (id psn : Nat) (s : State) : State :=
  match getConn s id with
  | none => s
  | some c =>
    match c.unacked.find? (fun u => u.psn == psn) with
    | some u => resend id u s
    | none => s

/-- The longest delay before an ACK passes (R385). -/
def doAckTimer (id : Nat) (s : State) : State :=
  match getConn s id with
  | none => s
  | some c => if 0 < c.rxSinceAck then sendAck id s else s

-- RoCEv2

/-- The guest a queue pair number names: 0x1_0000 + g (R391). -/
def qpGuest (qpn : BitVec 24) : Option Nat := if 0x10000 ≤ qpn.toNat ∧ qpn.toNat < 0x14000 then some (qpn.toNat - 0x10000) else none

/-- Change a guest's queue pair. -/
def modQp (g : Nat) (f : Qp → Qp) (s : State) : State := modGuest g (fun x => { x with qp := x.qp.map f }) s

/-- Send one RoCEv2 control packet. -/
def roceSend (g : Nat) (e : Endpoint) (op : RoceOp) (psn : Nat) (s : State) : State := sendRoce g 1 e op psn 0 0#32 [] s

/-- Send a NAK and count it (R396, R422). -/
def roceNak (g : Nat) (e : Endpoint) (op : RoceOp) (psn : Nat) (s : State) : State := roceSend g e op psn (countNak e.port s)

/-- The checks on an arriving RoCEv2 packet (R378, R390); one with ECN CE is answered with a CNP, at most one per queue pair in 50 us (R392). -/
def rxRoce (port : Nat) (icrcOk : Bool) (ip : IpHdr) (qpn : BitVec 24) (act : Nat → Qp → Endpoint → State → State) (s : State) : State :=
  rxFrame port true icrcOk ip 4791#16 (fun s =>
    match qpGuest qpn with
    | none => s
    | some g =>
      match (getGuest s g).qp, (getGuest s g).endpoint with
      | some q, some e =>
        let now := s.stg.upNs
        let due := match q.lastCnp with | some t => decide (t + 50000 ≤ now) | none => true
        let s := if ip.ce && due then roceSend g e .cnp 0 (modQp g (fun q => { q with lastCnp := some now }) s) else s
        act g q e s
      | _, _ => s) s

/-- A lies before B in the 24-bit order. -/
def psn24Before (a b : Nat) : Bool := decide ((b + 2 ^ 24 - a) % 2 ^ 24 ≠ 0) && decide ((b + 2 ^ 24 - a) % 2 ^ 24 < 2 ^ 23)

/-- A packet of an RDMA WRITE arrives (R390, R391, R396), of a message that its first packet opens; the immediate value counts for all bytes of
the message (R400). -/
def doRdmaWrite (p : RocePkt) (withImm : Bool) (s : State) : State :=
  rxRoce p.port p.icrcOk p.ip p.qpn (fun g q e s =>
    let psn := p.psn.toNat
    if psn = q.rxPsn then
      let first := p.first
      let va := if first then p.va.toNat else q.writeVa
      let n := p.payload.length
      if (first && p.rkey != BitVec.ofNat 32 (0x01000000 + g)) || guestRefused s g true va n then
        loseGuestIfOpen g (roceNak g e .nakAccess psn s)
      else
        let (ok, s) := netWrite .network va p.payload s
        if !ok then s
        else
          let total := (if first then 0 else q.msgBytes) + n
          let s := modQp g (fun q => { q with rxPsn := (psn + 1) % 2 ^ 24, writeVa := va + n, msgBytes := total }) s
          let s := if withImm then settleGuestRecvs g (noteImm g p.imm (va + n - total) total s) else s
          if p.ackReq then roceSend g e .ack psn s else s
    else if psn24Before psn q.rxPsn then roceSend g e .ack psn s
    else roceNak g e .nakSequence q.rxPsn s) s

/-- An RDMA READ request arrives (R390, R396): the responses carry the request's PSNs. -/
def doRdmaRead (p : RocePkt) (s : State) : State :=
  rxRoce p.port p.icrcOk p.ip p.qpn (fun g q e s =>
    let psn := p.psn.toNat
    if psn24Before q.rxPsn psn then roceNak g e .nakSequence q.rxPsn s
    else if p.rkey != BitVec.ofNat 32 (0x01000000 + g) || guestRefused s g false p.va.toNat p.dmaLen then
      loseGuestIfOpen g (roceNak g e .nakAccess psn s)
    else
      let span := max 1 (ceilDiv p.dmaLen e.pmtu)
      match nextPayload { owner := .resp, addr := 0, len := p.dmaLen, src := .mem p.va.toNat } p.dmaLen s with
      | (none, s) => s
      | (some (bs, _), s) =>
        let s := if psn = q.rxPsn then modQp g (fun q => { q with rxPsn := (psn + span) % 2 ^ 24 }) s else s
        forEach (List.range span) (fun i t =>
          sendRoce g 3 e .readResp ((psn + i) % 2 ^ 24) 0 0#32 ((bs.drop (i * e.pmtu)).take e.pmtu) t) s) s

/-- A response to an RDMA READ of the device arrives (R402). -/
def doRdmaReadResp (p : RocePkt) (s : State) : State :=
  rxRoce p.port p.icrcOk p.ip p.qpn (fun g q e s =>
    let psn := p.psn.toNat
    match q.reads.find? (fun r => decide ((psn + 2 ^ 24 - r.num) % 2 ^ 24 < max 1 (ceilDiv r.len e.pmtu))) with
    | none => modQp g (fun d => { d with unacked := d.unacked.filter (fun u => !(u.type == 4 && decide ((psn + 2 ^ 24 - u.psn) % 2 ^ 24 < u.span))) }) s
    | some r =>
      let (left, s) := takeRead r ((psn + 2 ^ 24 - r.num) % 2 ^ 24 * e.pmtu) p.payload s
      let s := modQp g (fun d => { d with
        reads := (d.reads.filter (fun x => x.num != r.num)) ++ (match left with | some x => [x] | none => [])
        unacked := d.unacked.filter (fun u => !(u.type == 4 && u.psn == r.num && left.isNone)) }) s
      reapGuest g (pumpQp g s)) s

/-- Send again every packet a queue pair holds unacknowledged (R391: go-back-N). -/
def goBack (g : Nat) (s : State) : State :=
  match (getGuest s g).qp, (getGuest s g).endpoint with
  | some q, some e =>
    if !portUp s e.port then s
    else forEach q.unacked (fun u t =>
      let t := modPort e.port (fun p => { p with err := { p.err with retx := satInc p.err.retx } }) t
      sendRoce g u.owner.cls e (if u.type = 4 then .readReq u.readLen else .write) u.psn u.addr e.rkey u.payload t) s
  | _, _ => s

/-- An acknowledgement or NAK from a guest arrives (R390, R391). A remote NAK ends the connection, as R396 says of the device's own. -/
def doRoceAck (p : RocePkt) (a : RoceAck) (s : State) : State :=
  rxRoce p.port p.icrcOk p.ip p.qpn (fun g q _ s =>
    let psn := p.psn.toNat
    let upto (u : Unacked) : Bool := u.type == 1 && (psn24Before u.psn psn || (a == .ack && u.psn == psn))
    let done := q.unacked.filter upto
    let s := modQp g (fun d => { d with unacked := d.unacked.filter (fun u => !upto u) }) s
    let s := forEach done (fun u t => creditFlow u.owner u.payload.length t) s
    match a with
    | .ack => reapGuest g (pumpQp g s)
    | .nakSequence => goBack g s
    | .nakRemote _ =>
      let s := match q.unacked.find? (fun u => u.psn == psn) with | some u => abandonMsg u s | none => s
      loseGuestIfOpen g s) s

/-- A CNP arrives for a queue pair of the device: its rate is halved (R392). -/
def doCnp (qpn : BitVec 24) (port : Nat) (s : State) : State :=
  if !portUp s port then s
  else match qpGuest qpn with
    | none => s
    | some g => modQp g (fun q => { q with rate := q.rate / 2 })
        (modPort port (fun p => { p with cong := { p.cong with signals := p.cong.signals + 1#32 } }) s)

/-- 55 us without a CNP raise the rate by 1/16 of the port rate (R392). -/
def doRateIncrease (g : Nat) (s : State) : State := modQp g (fun q => { q with rate := min 65536 (q.rate + 4096) }) s

/-- A guest has something outstanding, sent or not, or its RoCEv2 port is down, or it is being opened (R371, R379, R403). -/
def guestWaits (s : State) (g : Nat) : Bool :=
  let x := getGuest s g
  x.openCmd.isSome ||
  (match x.conn with
    | some id => match getConn s id with | some c => !c.unacked.isEmpty || !c.reads.isEmpty || connWaits (some c) | none => false
    | none => false) ||
  (match x.qp, x.endpoint with
    | some q, some e => !q.unacked.isEmpty || !q.reads.isEmpty || !q.queue.isEmpty || !portUp s e.port
    | _, _ => false)

/-- The transport timeout passes (R371, R403): an opening guest is given up, an open one is lost. -/
def doTransportTimeout (g : Nat) (s : State) : State :=
  if !guestWaits s g then s
  else match (getGuest s g).openCmd with
    | some id => finishCmd id stGuestLost 0 (modGuest g (fun x => { x with openCmd := none, openArgs := none }) (endTransport g s))
    | none => loseGuestIfOpen g s

-- ports

/-- A port's link fails (R379, R415): PTP moves to the next best port. The Relay frames in its transmit queue are lost, as on the wire, and
sent again on other ports (R384, R385); RoCEv2 waits. The Pacel link fails with its lanes. -/
def doPortDown (n : Nat) (s : State) : State :=
  if pacelTakes s n then modNet (fun e => { e with pacel := { e.pacel with up := false } }) s
  else if portUp s n then
    followBest (modPort n (fun p => { p with
      up := false, failed := true, master := none, sync := false, line := 0, share := (0, 0)
      txq := p.txq.filter (fun f => match f.flow with | .qp _ => true | _ => false) }) s)
  else s

/-- A port's domain is on and its microcode runs (R484, R510). -/
def portPowered (s : State) (n : Nat) : Bool := s.mdl.st == .running && !s.sec.serdesFail && s.pwr.domOn.getLsbD (22 + n / 4)

/-- A port's link is up, for the first time or after a failure (R378, R379); RoCEv2 guests that wait to open on it connect (R391). Lanes given
to the Pacel link train as one (R417). -/
def doPortUp (n : Nat) (s : State) : State :=
  if portPowered s n ∧ pacelTakes s n then
    if n = 6 ∧ !s.net.pacel.up then
      pumpPacel (modNet (fun e => { e with pacel := { e.pacel with up := true, lanes := e.pacelCfg.lanesReq.toNat } }) s)
    else s
  else if n < 8 ∧ portPowered s n ∧ !pacelTakes s n ∧ !(getPort s n).up then
    let s := modPort n (fun p => { p with up := true, failed := false, retrains := if p.failed then satInc p.retrains else p.retrains }) s
    let s := forEach (s.net.guests.map (·.1)) (fun g t =>
      match (getGuest t g).endpoint, (getGuest t g).transport with
      | some e, some .roce => if e.port = n then guestConnected g t else t
      | _, _ => t) s
    pumpAll s
  else s

/-- An ARP request for the port's address is answered (R378). -/
def doArp (n : Nat) (ip : BitVec 32) (s : State) : State := if portUp s n && portIp4 s n == some ip then sendOwn n 64 (.arpReply n ip) s else s

/-- A neighbour solicitation for the port's address is answered (R378). -/
def doNd (n : Nat) (ip : BitVec 128) (s : State) : State := if portUp s n && portIp6 s n == ip then sendOwn n (frameBytes true 32) (.ndAdvert n ip) s else s

/-- An ICMP echo request to the port is answered (R378). -/
def doIcmp (n : Nat) (ip : BitVec 128) (payload : List Byte) (s : State) : State :=
  if portUp s n && (portIp6 s n == ip || (portIp4 s n).map mapped4 == some ip) then
    sendOwn n (frameBytes (portIp6 s n == ip) (8 + payload.length)) (.icmpReply n payload) s
  else s

/-- A frame that no protocol uses is dropped and counted (R378), a CTRL message of a reserved kind among them (R405). -/
def doUnused (n : Nat) (s : State) : State := if portUp s n then dropFrame n s else s

/-- A priority flow control frame: obeyed on the one priority of RoCEv2 when enabled (R378). -/
def doPfc (n prio : Nat) (pause : Bool) (s : State) : State :=
  if !portUp s n then s
  else if s.net.cfgEff.pfcEn = 1#1 ∧ prio = s.net.cfgEff.pfcPrio.toNat then
    pumpAll (modPort n (fun p => { p with paused := if pause then setBit p.paused prio else clearBit p.paused prio }) s)
  else doUnused n s

/-- A packet with an unsupported opcode is answered with an invalid-request NAK and counted (R390), on the sender's queue pair where the
packet names one of the device's, on one that the spec does not give where it does not, as a datagram. -/
def doUnsupportedOp (port : Nat) (src : BitVec 128) (qpn psn : BitVec 24) (s : State) : State :=
  if !portUp s port then s
  else
    let stranger (t : State) : State :=
      let v6 := (src >>> 32) != 0xFFFF#128
      sendOwn port (frameBytes v6 (8 + roceBytes .nakInvalid)) (.roce { port := port, src := portIp t port v6, dst := src, dscp := t.net.cfgEff.dscp
                                                                        op := .nakInvalid, qpn := (Config.strangerQp src).toNat, psn := psn.toNat }) (countNak port t)
    match qpGuest qpn with
    | none => stranger s
    | some g => match (getGuest s g).endpoint, (getGuest s g).qp with
      | some e, some _ => roceNak g e .nakInvalid psn.toNat s
      | _, _ => stranger s

-- Pacel

/-- The flits kept from a sequence number on are sent again (R418). -/
def replayFlits (seq : BitVec 16) (s : State) : State :=
  forEach (s.net.pacel.sentBuf.dropWhile (fun u => u.psn != seq.toNat)) (fun u t => netSend (.flit (u.imm.getD 0#32) u.ord u.psn u.addr u.payload) t) s

/-- A flit is received (R418, R419). Credits it returns acknowledge the oldest flits sent. -/
def doFlit (f : PacelFlit) (s : State) : State :=
  let p := s.net.pacel
  if !p.up then s
  else if !f.crcOk then
    netSend (.flitReplay p.rxSeq) (modNet (fun e => { e with pacel := { e.pacel with replays := e.pacel.replays + 1#32 } }) s)
  else if f.seq.toNat ≠ p.rxSeq then s
  else
    let s := match f.replay with | some q => replayFlits q s | none => s
    let s := modNet (fun e => { e with pacel := { e.pacel with rxSeq := (p.rxSeq + 1) % 65536 } }) s
    let back := p.sentBuf.take f.credit.toNat
    let s := modNet (fun e => { e with pacel := { e.pacel with credits := min 128 (p.credits + f.credit.toNat), sentBuf := p.sentBuf.drop f.credit.toNat } }) s
    let s := forEach back (fun u t => creditFlow u.owner u.payload.length t) s
    let s := match s.net.recvs.find? (fun r =>
        (match peerAt s r.itin r.peer with | some (.device d) => Config.isT4 d | _ => false) &&
        BitVec.ofNat 32 r.jsn == f.tag && r.ord == f.ord.toNat) with
      | some r =>
        let n := min f.len.toNat f.payload.length
        if r.len < f.offset.toNat + n then (if r.posted then refuseEntry r.itin (r.addr + f.offset.toNat) s else s)
        else (landRecv r f.offset.toNat (f.payload.take n) s).2
      | none => s
    pumpPacel s

/-- DATA (R389). -/
def execData (p : RelayPkt) (s : State) : Host.Outcome State Fault Refusal := .next (doData p s)
/-- ACK (R385). -/
def execAck (p : RelayPkt) (a : AckBody) (s : State) : Host.Outcome State Fault Refusal := .next (doAck p a s)
/-- NAK (R386). -/
def execNak (p : RelayPkt) (code : Nat) (s : State) : Host.Outcome State Fault Refusal := .next (doNak p code s)
/-- READ (R381). -/
def execRead (p : RelayPkt) (target len : Nat) (s : State) : Host.Outcome State Fault Refusal := .next (doRead p target len s)
/-- READ_RESP (R381). -/
def execReadResp (p : RelayPkt) (s : State) : Host.Outcome State Fault Refusal := .next (doReadResp p s)
/-- RTO_EXPIRY (R385). -/
def execRtoExpiry (conn psn : Nat) (s : State) : Host.Outcome State Fault Refusal := .next (doRto conn psn s)
/-- ACK_TIMER (R385). -/
def execAckTimer (conn : Nat) (s : State) : Host.Outcome State Fault Refusal := .next (doAckTimer conn s)
/-- RDMA_WRITE (R390). -/
def execRdmaWrite (p : RocePkt) (s : State) : Host.Outcome State Fault Refusal := .next (doRdmaWrite p false s)
/-- RDMA_WRITE_WITH_IMMEDIATE (R400). -/
def execRdmaWriteWithImmediate (p : RocePkt) (s : State) : Host.Outcome State Fault Refusal := .next (doRdmaWrite p true s)
/-- RDMA_READ_REQUEST (R390). -/
def execRdmaReadRequest (p : RocePkt) (s : State) : Host.Outcome State Fault Refusal := .next (doRdmaRead p s)
/-- RDMA_READ_RESPONSE (R402). -/
def execRdmaReadResponse (p : RocePkt) (s : State) : Host.Outcome State Fault Refusal := .next (doRdmaReadResp p s)
/-- ACKNOWLEDGEMENT (R390). -/
def execAcknowledgement (p : RocePkt) (a : RoceAck) (s : State) : Host.Outcome State Fault Refusal := .next (doRoceAck p a s)
/-- CNP (R392). -/
def execCnp (qpn : BitVec 24) (port : Nat) (s : State) : Host.Outcome State Fault Refusal := .next (doCnp qpn port s)
/-- LOCAL_ACK_TIMEOUT (R391). -/
def execLocalAckTimeout (guest : Nat) (s : State) : Host.Outcome State Fault Refusal := .next (goBack guest s)
/-- RATE_INCREASE (R392). -/
def execRateIncrease (guest : Nat) (s : State) : Host.Outcome State Fault Refusal := .next (doRateIncrease guest s)
/-- TRANSPORT_TIMEOUT (R403). -/
def execTransportTimeout (guest : Nat) (s : State) : Host.Outcome State Fault Refusal := .next (doTransportTimeout guest s)
/-- PORT_LINK_DOWN (R379). -/
def execPortLinkDown (port : Nat) (s : State) : Host.Outcome State Fault Refusal := .next (doPortDown port s)
/-- PORT_RETRAIN_DONE (R379). -/
def execPortRetrainDone (port : Nat) (s : State) : Host.Outcome State Fault Refusal := .next (doPortUp port s)
/-- ARP (R378). -/
def execArp (port : Nat) (ip : BitVec 32) (s : State) : Host.Outcome State Fault Refusal := .next (doArp port ip s)
/-- NEIGHBOR_DISCOVERY (R378). -/
def execNeighborDiscovery (port : Nat) (ip : BitVec 128) (s : State) : Host.Outcome State Fault Refusal := .next (doNd port ip s)
/-- ICMP_ECHO (R378). -/
def execIcmpEcho (port : Nat) (ip : BitVec 128) (payload : List Byte) (s : State) : Host.Outcome State Fault Refusal := .next (doIcmp port ip payload s)
/-- PFC_FRAME (R378). -/
def execPfcFrame (port prio : Nat) (pause : Bool) (s : State) : Host.Outcome State Fault Refusal := .next (doPfc port prio pause s)
/-- UNUSED_FRAME (R378). -/
def execUnusedFrame (port : Nat) (s : State) : Host.Outcome State Fault Refusal := .next (doUnused port s)
/-- FLIT (R418). -/
def execFlit (f : PacelFlit) (s : State) : Host.Outcome State Fault Refusal := .next (doFlit f s)
/-- UNSUPPORTED_OPCODE (R390). -/
def execUnsupportedOpcode (port : Nat) (src : BitVec 128) (q : QpPsn) (s : State) : Host.Outcome State Fault Refusal :=
  .next (doUnsupportedOp port src q.qpn q.psn s)

end Sys2Proof.Machine
end

