-- ==== Sys2Proof/Machine/Sha3.lean ====
section
/-! DEFINITION. SHA3-256 (FIPS 202), the hash of the measurement registers, signature blocks and member lists (R405, R502, R515). -/

namespace Sys2Proof.Machine

/-- The rotation of each lane, index 5 * y + x. -/
def keccakRot : List Nat := [0, 1, 62, 28, 27, 36, 44, 6, 55, 20, 3, 10, 43, 25, 39, 41, 45, 15, 21, 8, 18, 2, 61, 56, 14]

/-- The round constants. -/
def keccakRc : List Word :=
  [0x0000000000000001#64, 0x0000000000008082#64, 0x800000000000808A#64, 0x8000000080008000#64, 0x000000000000808B#64, 0x0000000080000001#64,
   0x8000000080008081#64, 0x8000000000008009#64, 0x000000000000008A#64, 0x0000000000000088#64, 0x0000000080008009#64, 0x000000008000000A#64] ++
  [0x000000008000808B#64, 0x800000000000008B#64, 0x8000000000008089#64, 0x8000000000008003#64, 0x8000000000008002#64, 0x8000000000000080#64,
   0x000000000000800A#64, 0x800000008000000A#64, 0x8000000080008081#64, 0x8000000000008080#64, 0x0000000080000001#64, 0x8000000080008008#64]

/-- A lane of the state. -/
def laneAt (a : List Word) (x y : Nat) : Word := a.getD (5 * (y % 5) + x % 5) 0#64

/-- One round of the permutation. -/
def keccakRound (a : List Word) (rc : Word) : List Word :=
  let c := (List.range 5).map (fun x => laneAt a x 0 ^^^ laneAt a x 1 ^^^ laneAt a x 2 ^^^ laneAt a x 3 ^^^ laneAt a x 4)
  let d := (List.range 5).map (fun x => c.getD ((x + 4) % 5) 0#64 ^^^ (c.getD ((x + 1) % 5) 0#64).rotateLeft 1)
  let t := (List.range 25).map (fun i => a.getD i 0#64 ^^^ d.getD (i % 5) 0#64)
  let b := (List.range 25).map (fun i =>
    let x := i % 5
    let y := i / 5
    let sx := (x + 3 * y) % 5
    (laneAt t sx x).rotateLeft (keccakRot.getD (5 * x + sx) 0))
  let e := (List.range 25).map (fun i => laneAt b (i % 5) (i / 5) ^^^ (~~~(laneAt b (i % 5 + 1) (i / 5)) &&& laneAt b (i % 5 + 2) (i / 5)))
  e.set 0 (e.getD 0 0#64 ^^^ rc)

/-- The permutation. -/
def keccakF (a : List Word) : List Word := keccakRc.foldl keccakRound a

/-- The bytes of a block as lanes. -/
def blockLanes (bs : List Byte) : List Word :=
  (List.range 17).map (fun i => ((bs.drop (8 * i)).take 8).foldr (fun b (w : Word) => (w <<< 8) ||| b.setWidth 64) 0#64)

/-- Absorb a padded message of n blocks of 136 bytes. -/
def keccakAbsorb : Nat → List Byte → List Word → List Word
  | 0, _, a => a
  | n + 1, bs, a =>
    let l := blockLanes (bs.take 136)
    keccakAbsorb n (bs.drop 136) (keccakF ((List.range 25).map (fun i => a.getD i 0#64 ^^^ l.getD i 0#64)))

/-- SHA3-256 of a message; byte 0 of the digest is its least significant byte here. -/
def sha3 (m : List Byte) : BitVec 256 :=
  let z := 135 - m.length % 136
  let pad : List Byte := if z = 0 then [0x86#8] else [0x06#8] ++ List.replicate (z - 1) 0#8 ++ [0x80#8]
  let a := keccakAbsorb ((m.length + 136) / 136) (m ++ pad) (List.replicate 25 0#64)
  (List.range 4).foldr (fun i (v : BitVec 256) => (v <<< 64) ||| (a.getD i 0#64).setWidth 256) 0#256

end Sys2Proof.Machine
end

