-- ==== Sys2Proof/Machine/JobTree.lean ====
section
/-! DEFINITION. Jobs across devices: connections to peers, the prepare tree, CONFIRM and ABANDON, and rollback across devices (R359 to
R361, R383, R404 to R413). -/

namespace Sys2Proof.Machine

/-- The members of a job in rank order: this device and the device entries of the peer table (R406). -/
def membersOf (i : Itin) : List Word := ((Config.deviceId :: i.devicePeers).eraseDups).mergeSort (fun a b => decide (a.toNat ≤ b.toNat))

/-- The position of a member. -/
def posOf (ms : List Word) (d : Word) : Nat := (ms.findIdx? (· == d)).getD 0

/-- Tree A (R407). -/
def treeA (i : Nat) : Nat := if i ≤ 1 then 0 else (i - 2) / 8 + 1

/-- Tree B over m members other than the root: the same shape over the reversed positions (R407). -/
def treeB (m i : Nat) : Nat := let p := treeA (m + 1 - i); if p = 0 then 0 else m + 1 - p

/-- A member's parent in a round, given the members that did not acknowledge the round before (R408). -/
def parentIn (m : Nat) (missing : List Nat) (i : Nat) : Nat :=
  let a := treeA i
  if a ≠ 0 ∧ missing.contains a then (let b := treeB m i; if b ≠ 0 ∧ missing.contains b then 0 else b) else a

/-- A member's children in a round. -/
def childrenIn (m : Nat) (missing : List Nat) (p : Nat) : List Nat :=
  ((List.range m).map (· + 1)).filter (fun i => parentIn m missing i == p)

/-- MHASH of a member list (R405). -/
def membersHash (ms : List Word) : BitVec 256 := sha3 (ms.flatMap (wordBytes 8))

/-- Change the prepare of a job. -/
def modPrep (job : Word) (f : Prep → Prep) (s : State) : State :=
  modNet (fun e => { e with preps := e.preps.map (fun p => if p.job = job then f p else p) }) s

/-- The prepare of a job. -/
def prepOf (s : State) (job : Word) : Option Prep := s.net.preps.find? (fun p => p.job == job)

/-- Remove the prepare of a job. -/
def dropPrep (job : Word) (s : State) : State :=
  modNet (fun e => { e with preps := e.preps.filter (fun p => p.job != job), early := e.early.filter (fun m => m.job != job) }) s

/-- The devices at some positions. -/
def sendTo (ms : List Word) (ps : List Nat) (m : CtrlOut) (s : State) : State :=
  forEach ps (fun i t => match ms[i]? with | some d => sendCtrl d m t | none => t) s

/-- Every member but this one. -/
def sendAll (ms : List Word) (m : CtrlOut) (s : State) : State := forEach (ms.filter (· != Config.deviceId)) (fun d t => sendCtrl d m t) s

/-- The commands of a job that has ended complete: those that wait on it with ST_ABORTED, a `job.stop` with ST_OK (R288, R361). -/
def endJobCmds (job : Word) (n : Nat) (s : State) : State :=
  forEach (s.innk.cmds.map (·.1)) (fun id t =>
    match getCmd t id with
    | some c => if c.opcode == 0x0203#16 && c.phase == .waiting && c.arg 0 == job then finishCmd id stOk n t else t
    | none => t) (abortJobCmds job n s)

/-- An itinerary's job is known no more (R363): what still waits on it completes. -/
def forgetJob (k : Nat) (s : State) : State :=
  match (getItin s k).bind (·.job) with
  | some j => endJobCmds j.id j.endBell (dropRecvs k s)
  | none => s

/-- A job comes into being (R359); of the one before nothing is kept, what landed for its receives neither (R285, R363). -/
def createJob (k : Nat) (id seed : Word) (bell stages : Nat) (confirmed : Bool) (round : Nat) (s : State) : State :=
  modItin k (fun i => { i with
    job := some { id := id, seed := seed, bell := bell, stages := stages, confirmed := confirmed, round := max 1 round }
    discards := 0, history := [], replayAfter := none, started := 0, isReplay := false, ckptPos := [], ckptNew := 0, jsnEnergy := 0#64 }) (forgetJob k s)

/-- The job of an identifier is to stop at the Bell with a stage number (R361, R410). -/
def setStop (k bell : Nat) (s : State) : State :=
  modItin k (fun i => { i with job := i.job.map (fun j => { j with stopAt := some (match j.stopAt with | some b => min b bell | none => bell) }) }) s

/-- The prepare has failed here: job.prepare completes with ST_ABORTED and no job is created (R409). -/
def failPrep (p : Prep) (s : State) : State := finishCmd p.cmd stAborted 0 (dropPrep p.job s)

/-- Send PREPARE of the current round to this member's children (R408). -/
def forwardPrepare (p : Prep) (s : State) : State :=
  sendTo p.members (childrenIn (p.members.length - 1) p.missing p.myPos)
    { kind := 2, job := p.job, round := p.round, members := p.members.length, bell := p.offer, stages := p.stages, mhash := membersHash p.members,
      map := p.missing } s

/-- The root has the answers of a round: the job is prepared, another round begins, or the job is abandoned (R408, R409). -/
def endRound (p : Prep) (s : State) : State :=
  let missing := (List.range p.members.length).filter (fun i => !p.acked.contains i)
  if missing.isEmpty then
    createJob p.itin p.job p.seed p.bell p.stages false p.round (finishCmd p.cmd stOk p.bell (dropPrep p.job s))
  else if p.round < s.net.jobEff.prepRounds.toNat then
    let b := p.reqBell + p.round * s.net.jobEff.reprepLead.toNat
    let q := { p with round := p.round + 1, offer := b, bell := b, missing := missing, acked := [0]
                      answered := [], replied := false }
    forwardPrepare q (modPrep p.job (fun _ => q) (modNet (fun e => { e with reparent := satInc e.reparent }) s))
  else failPrep p (sendAll p.members { kind := 5, job := p.job, round := p.round } s)

/-- A member has what it can get of its subtree: it answers its parent, and with that adopts the round's Bell; the root ends the round (R408). -/
def answerRound (p : Prep) (s : State) : State :=
  if p.replied then s
  else if p.myPos = 0 then endRound p s
  else
    let s := modPrep p.job (fun q => { q with replied := true, bell := q.offer }) s
    sendTo p.members [parentIn (p.members.length - 1) p.missing p.myPos] { kind := 3, job := p.job, round := p.round, map := p.acked } s

/-- Every child of the round has answered. -/
def allAnswered (p : Prep) : Bool := (childrenIn (p.members.length - 1) p.missing p.myPos).all p.answered.contains

/-- A PREPARE is checked against this device's own job.prepare, and forwarded, or its sender answered with ABANDON (R405, R406, R408). -/
def takePrepare (p : Prep) (m : CtrlMsg) (s : State) : State :=
  if m.members ≠ p.members.length ∨ m.mhash ≠ membersHash p.members ∨ m.stages ≠ p.stages then
    sendCtrl m.sender { kind := 5, job := p.job, round := m.round } s
  else if m.round ≤ p.round then s
  else
    let q := { p with round := m.round, offer := m.bell, missing := m.map, acked := [p.myPos], answered := [], replied := false }
    let s := forwardPrepare q (modPrep p.job (fun _ => q) s)
    if allAnswered q then answerRound q s else s

/-- This device's own job.prepare joins or starts the tree (R406, R408). -/
def startPrep (p : Prep) (s : State) : State :=
  let s := modNet (fun e => { e with preps := e.preps ++ [p] }) s
  if p.myPos = 0 then
    let q := { p with round := 1, offer := p.reqBell, acked := [0] }
    let s := forwardPrepare q (modPrep p.job (fun _ => q) s)
    if allAnswered q then answerRound q s else s
  else match s.net.early.find? (fun m => m.job == p.job) with
    | some m => takePrepare p m (modNet (fun e => { e with early := e.early.filter (fun x => x.job != p.job) }) s)
    | none => s

/-- The common part of every CTRL message but HELLO (R382, R385, R405, R408): checked, taken in the sequence, and discarded by an
Innkeeper that restarts or has stopped. A message whose SENDER is not the device the connection leads to is not that sender's. -/
def rxCtrl (kind : Nat) (m : CtrlMsg) (act : State → State) (s : State) : State :=
  rxPacket m.port m.fcsOk m.crcOk m.ip m.conn m.psn false (fun id c s =>
    if !m.wellFormed kind then dropFrame m.port s
    else if c.peer ≠ .device m.sender then noConn m.port m.ip m.psn.toNat s
    else if c.seen m.psn.toNat then sendAck id s
    else
      let s := takePsn id m.psn.toNat m.payload.length m.ce true s
      if innkUp s then act s else s) s

/-- The connection that a HELLO is for: the sending device's, or that of the guest it comes from (R383). -/
def helloConn (s : State) (m : CtrlMsg) : Option (Nat × Conn) :=
  s.net.conns.findSome? (fun q => match q.2 with
    | some c => if peerHas s c.peer m.ip.src && (match c.peer with | .device d => d == m.sender | .guest _ => true) then some (q.1, c) else none
    | none => none)

/-- A connection that begins again, because its other side has opened it anew: what had begun to be sent is given up (DESIGN CHOICE, log 52). -/
def reopened (s : State) (c : Conn) : Conn := { peer := c.peer, queue := c.queue.filter (fun r => r.sent == 0), ctrlq := c.ctrlq, window := firstWindow s }

/-- HELLO opens a connection (R383): it is taken in the sequence and acknowledged like DATA (R405). This side's own HELLO left when the
connection was made, and is sent again until it is acknowledged. An Innkeeper that restarts discards it (R408). -/
def doHello (m : CtrlMsg) (s : State) : State :=
  rxFrame m.port m.fcsOk m.crcOk m.ip s.net.cfgEff.relayUdp (fun s =>
    if !m.wellFormed 1 then dropFrame m.port s
    else if !innkUp s then s
    else match helloConn s m with
      | none => s
      | some (i, c) =>
        if c.opened && c.remoteId == m.connId then
          (if c.seen m.psn.toNat then sendAck i s else takePsn i m.psn.toNat m.payload.length m.ce true s)
        else
          let hello : CtrlOut := { kind := 1, connId := BitVec.ofNat 32 i }
          let c := if c.opened then { reopened s c with ctrlq := hello :: c.ctrlq } else c
          let s := takePsn i m.psn.toNat m.payload.length m.ce true (setConn i (some { c with opened := true, remoteId := m.connId }) s)
          let s := match c.peer with | .guest g => guestConnected g s | .device _ => s
          pumpConn i s) s

/-- PREPARE (R408): held until this device's own job.prepare has been accepted. -/
def doPrepare (m : CtrlMsg) (s : State) : State :=
  rxCtrl 2 m (fun s =>
    match prepOf s m.job with
    | some p => takePrepare p m s
    | none => if (jobSlot s m.job).isSome then s else modNet (fun e => { e with early := e.early.filter (fun x => x.job != m.job) ++ [m] }) s) s

/-- PREP_ACK (R408). -/
def doPrepAck (m : CtrlMsg) (s : State) : State :=
  rxCtrl 3 m (fun s =>
    match prepOf s m.job with
    | none => s
    | some p =>
      let q := posOf p.members m.sender
      if m.round ≠ p.round ∨ p.answered.contains q then s
      else
        let p' := { p with answered := q :: p.answered, acked := p.acked ++ m.map.filter (fun i => !p.acked.contains i) }
        let s := modPrep p.job (fun _ => p') s
        if allAnswered p' then answerRound p' s else s) s

/-- CONFIRM travels down both trees (R410). -/
def forwardConfirm (ms : List Word) (me : Nat) (job : Word) (bell : Nat) (s : State) : State :=
  let m := ms.length - 1
  let ids := (List.range m).map (· + 1)
  let ps := ids.filter (fun i => treeA i == me) ++ ids.filter (fun i => treeB m i == me)
  sendTo ms ps { kind := 4, job := job, bell := bell } s

/-- CONFIRM (R409, R410): the member's job.prepare completes and its job starts at the Bell. -/
def doConfirm (m : CtrlMsg) (s : State) : State :=
  rxCtrl 4 m (fun s =>
    match prepOf s m.job with
    | none => s
    | some p =>
      if p.round = 0 ∨ p.myPos = 0 then s
      else
        forwardConfirm p.members p.myPos p.job m.bell
          (createJob p.itin p.job p.seed m.bell p.stages true p.round (finishCmd p.cmd stOk m.bell (dropPrep p.job s)))) s

/-- ABANDON (R406, R409, R410): the root tells every member, and a member that hears it from another than the root tells the root, which is to
abandon the job. -/
def doAbandon (m : CtrlMsg) (s : State) : State :=
  rxCtrl 5 m (fun s =>
    match prepOf s m.job with
    | some p =>
      let msg : CtrlOut := { kind := 5, job := p.job, round := max 1 p.round }
      failPrep p (if p.myPos = 0 then sendAll p.members msg s else if posOf p.members m.sender ≠ 0 then sendTo p.members [0] msg s else s)
    | none =>
      match jobSlot s m.job with
      | some k => setStop k (nextBellNum s) s
      | none => s) s

/-- The rollback of a job. -/
def rollOf (s : State) (job : Word) : Option JobRoll := s.net.rolls.find? (fun r => r.job == job)

/-- Set or replace the rollback of a job. -/
def putRoll (r : JobRoll) (s : State) : State := modNet (fun e => { e with rolls := e.rolls.filter (fun x => x.job != r.job) ++ [r] }) s

/-- ROLLBACK (R411): the job's leg is discarded, the job held, and the coordinator answered. Of two coordinators the lower DEVICE_ID
prevails. -/
def doRollback (m : CtrlMsg) (s : State) : State :=
  rxCtrl 6 m (fun s =>
    match jobSlot s m.job with
    | none => s
    | some k =>
      let yields := match rollOf s m.job with | some r => decide (m.sender.toNat ≤ r.coordinator.toNat) | none => true
      if !yields then s
      else
        let s := match getItin s k with
          | some i => if i.leg.isSome then discardLeg k { fclass := 0x10 } s else s
          | none => s
        let s := putRoll { job := m.job, coordinator := m.sender, replies := [] } s
        sendCtrl m.sender { kind := 7, job := m.job, ckpt := s.ldg.ckpt } s) s

/-- The restart checkpoint: the lowest of the replies and of this device's own; none where a member has completed none (R411). -/
def lowestCkpt : List (Option Nat) → Option Nat
  | [] => none
  | [x] => x
  | x :: t => match x, lowestCkpt t with | some a, some b => some (min a b) | _, _ => none

/-- The first Bell at or after an instant. -/
def bellAt (s : State) (ns : Nat) : Nat := ceilDiv ns (lenNs s)

/-- Once every member has answered, the coordinator sends RESTART (R411). -/
def settleRoll (r : JobRoll) (i : Itin) (s : State) : State :=
  if !(i.devicePeers.all (fun d => r.replies.any (fun p => p.1 == d))) then s
  else
    let now := s.stg.ptpNow
    let own := match s.ldg.rollback with | some b => bellAt s b.notBefore | none => 0
    let bell := if now + 2 * lenNs s ≤ own * lenNs s then own else bellAt s (now + 2 * lenNs s)
    let ck := lowestCkpt (s.ldg.ckpt :: r.replies.map (·.2))
    let s := putRoll { r with restartBell := some bell, restartCkpt := ck } s
    forEach i.devicePeers (fun d t => sendCtrl d { kind := 8, job := r.job, bell := bell, ckpt := ck } t) s

/-- ROLLBACK_ACK (R411). -/
def doRollbackAck (m : CtrlMsg) (s : State) : State :=
  rxCtrl 7 m (fun s =>
    match rollOf s m.job, jobSlot s m.job with
    | some r, some k =>
      if r.coordinator ≠ Config.deviceId ∨ r.restartBell.isSome then s
      else
        let r := { r with replies := r.replies.filter (fun p => p.1 != m.sender) ++ [(m.sender, m.ckpt)] }
        let s := putRoll r s
        (match getItin s k with | some i => settleRoll r i s | none => s)
    | _, _ => s) s

/-- RESTART (R411). -/
def doRestart (m : CtrlMsg) (s : State) : State :=
  rxCtrl 8 m (fun s =>
    match rollOf s m.job with
    | some r => if r.coordinator = m.sender then putRoll { r with restartBell := some m.bell, restartCkpt := m.ckpt } s else s
    | none => s) s

/-- ACK_WAIT_US passes (R408, R411): a member answers with what it has, the root ends its round; a coordinator whose members have not all
answered stops the job on every member. -/
def doAckWait (job : Word) (s : State) : State :=
  if !innkUp s then s
  else
    let s := match prepOf s job with
      | some p => if p.round = 0 then s else answerRound p s
      | none => s
    match rollOf s job, jobSlot s job with
    | some r, some k =>
      if r.coordinator = Config.deviceId ∧ r.restartBell.isNone then
        match getItin s k with
        | some i =>
          let s := forEach i.devicePeers (fun d t => sendCtrl d { kind := 5, job := job, round := (i.job.map (·.round)).getD 1 } t) s
          setStop k (nextBellNum s) (modNet (fun e => { e with rolls := e.rolls.filter (fun x => x.job != job) }) s)
        | none => s
      else s
    | _, _ => s

/-- HELLO (R383). -/
def execHello (m : CtrlMsg) (s : State) : Host.Outcome State Fault Refusal := .next (doHello m s)
/-- PREPARE (R408). -/
def execPrepare (m : CtrlMsg) (s : State) : Host.Outcome State Fault Refusal := .next (doPrepare m s)
/-- PREP_ACK (R408). -/
def execPrepAck (m : CtrlMsg) (s : State) : Host.Outcome State Fault Refusal := .next (doPrepAck m s)
/-- CONFIRM (R410). -/
def execConfirm (m : CtrlMsg) (s : State) : Host.Outcome State Fault Refusal := .next (doConfirm m s)
/-- ABANDON (R409). -/
def execAbandon (m : CtrlMsg) (s : State) : Host.Outcome State Fault Refusal := .next (doAbandon m s)
/-- ROLLBACK (R411). -/
def execRollback (m : CtrlMsg) (s : State) : Host.Outcome State Fault Refusal := .next (doRollback m s)
/-- ROLLBACK_ACK (R411). -/
def execRollbackAck (m : CtrlMsg) (s : State) : Host.Outcome State Fault Refusal := .next (doRollbackAck m s)
/-- RESTART (R411). -/
def execRestart (m : CtrlMsg) (s : State) : Host.Outcome State Fault Refusal := .next (doRestart m s)
/-- ACK_WAIT_EXPIRY (R408). -/
def execAckWaitExpiry (job : BitVec 64) (s : State) : Host.Outcome State Fault Refusal := .next (doAckWait job s)

end Sys2Proof.Machine
end

