-- ==== Sys2Proof/Machine/Porters.lean ====
section
/-! DEFINITION. The porters (R423 to R440): chunks, checks, refusals, poison, and completion of descriptors. -/

namespace Sys2Proof.Machine

/-- The pigeonhole that issued a piece. -/
def ownerPh (s : State) (o : Owner) : Option Nat :=
  match o with
  | .cmd id _ => (getCmd s id).map (·.ph)
  | .leg _ _ _ => none

/-- A device byte that a descriptor may not touch (R430, R199, R235, R236, R317, R519). -/
def descBad (s : State) (o : Owner) (write : Bool) (x : Nat) : Bool :=
  match usable s x with
  | none => true
  | some r => touchesArea s x 1 || (write && r.ro) || (match ownerPh s o with
    | some ph => decide (64 ≤ ph) && (match (getGuest s (ph - 64)).window with
      | some (b, l, k) => !(decide (b ≤ x) && decide (x < b + l)) || r.pkey != k
      | none => true)
    | none => false)

/-- The edges at which that can change. -/
def descEdges (s : State) (o : Owner) : List Nat :=
  addrEdges s ++ (match ownerPh s o with
    | some ph => if 64 ≤ ph then (match (getGuest s (ph - 64)).window with | some (b, l, _) => [b, b + l] | none => []) else []
    | none => [])

/-- The lower of two addresses. -/
def lower (a b : Option Nat) : Option Nat :=
  match a, b with | some x, some y => some (min x y) | some x, none => some x | none, y => y

/-- Where the remaining range of a descriptor fails the rules of R430, if it does. -/
def descRefused (s : State) (d : Desc) : Option Nat :=
  let left := d.len - d.moved
  let es := descEdges s d.owner
  let src := if d.op = 1 ∨ d.op = 3 then lowestBad es (d.src + d.moved) left (descBad s d.owner false) else none
  let dst := if d.op = 3 then none else lowestBad es (d.dst + d.moved) left (descBad s d.owner true)
  let closed := if (d.op = 3 ∨ d.op = 4) ∧ (getPh s (64 + d.guest)).st ≠ .open_ ∧ 0 < left then some (if d.op = 3 then d.src + d.moved else d.dst + d.moved) else none
  lower closed (lower src dst)

/-- PTR_LAST_ERR takes an event (R431, R436, R442). -/
def ptrErr (p addr cause : Nat) (s : State) : State :=
  modPorter p (fun x => { x with lastErr := { addr := BitVec.ofNat 52 (addr / 32 * 32), cause := BitVec.ofNat 4 cause, valid := 1#1 } }) s

/-- Remove descriptors from every porter. -/
def removeDescs (mine : Owner → Bool) (s : State) : State :=
  { s with porters := s.porters.map (fun p => (p.1, { p.2 with
    legQ := p.2.legQ.filter (fun d => !mine d.owner), cmdQ := p.2.cmdQ.filter (fun d => !mine d.owner) })) }

/-- The owner is a piece of a command. -/
def Owner.ofCmd (id : Nat) : Owner → Bool
  | .cmd i _ => i == id
  | .leg _ _ _ => false

/-- A porter ends a command (R431, R434): its other pieces are dropped. One that has written completes at the next Bell, one whose bytes
are still to be acknowledged by a guest when they are, any other at once. -/
def endCmd (id : Nat) (st : BitVec 16) (res : Nat) (s : State) : State :=
  match getCmd s id with
  | none => s
  | some c =>
    let pend := s.net.flows.filter (fun f => match f.owner with | .desc _ ow => ow.ofCmd id | _ => false)
    let s := removeDescs (Owner.ofCmd id) s
    let s := modInnk (fun i => { i with urgQ := i.urgQ.filter (· != id), normQ := i.normQ.filter (· != id), bulkQ := i.bulkQ.filter (· != id) }) s
    let s := modCmd id (fun d => { d with phase := .waiting, status := st, result := BitVec.ofNat 64 res, refused := some res, outstanding := 0 }) s
    if c.opcode = 0x0403#16 then
      let s := forEach pend (fun f t => modFlow f.owner (fun x => { x with total := min x.total (x.acked + (t.net.conns.map (fun p => match p.2 with
          | some k => ((k.unacked.filter (fun u => u.owner == f.owner)).map (fun u => u.payload.length)).foldl (· + ·) 0
          | none => 0)).foldl (· + ·) 0 + (t.net.guests.map (fun p => match p.2.qp with
          | some q => ((q.unacked.filter (fun u => u.owner == f.owner)).map (fun u => u.payload.length)).foldl (· + ·) 0
          | none => 0)).foldl (· + ·) 0) }) t) s
      if pend.any (fun f => match flowOf s f.owner with | some g => decide (g.acked < g.total) | none => false) then s
      else finishCmd id st res s
    else if c.wrote then modInnk (fun i => { i with acts := i.acts ++ [.complete id] }) s
    else finishCmd id st res s

/-- A refusal (R431): a MOVE's leg takes a fault of class 0x06, a command ends with ST_DENIED, or ST_GUEST_LOST for a lost guest. -/
def refuseDesc (p : Nat) (d : Desc) (addr : Nat) (s : State) : State :=
  let s := modPorter p (fun x => { x with run := { x.run with refuse := { x.run.refuse with refused := satInc x.run.refuse.refused } } }) (ptrErr p addr 2 s)
  match d.owner with
  | .leg k _ _ => stageFault [k] { fclass := 6, addr := BitVec.ofNat 64 addr } (removeDescs (· == d.owner) s)
  | .cmd id _ =>
    let lost := (d.op == 3 || d.op == 4) && (getPh s (64 + d.guest)).st == .lost
    if lost then endCmd id stGuestLost 0 s else endCmd id stDenied addr s

/-- The descriptor a queue works on: the first that has bytes to move (R425, R426). -/
def current (q : List Desc) : Option Desc := q.find? (fun d => decide (d.moved < d.len))

/-- The descriptor of the next chunk, and whether the chunk goes to the command queue (R426). -/
def nextChunk (s : State) (p : Nat) : Option (Desc × Bool) :=
  let x := getPorter s p
  match current x.legQ, current x.cmdQ with
  | some l, some c => if s.ptrCfgEff.cmdEvery.toNat ≤ x.chunks + 1 then some (c, true) else some (l, false)
  | some l, none => some (l, false)
  | none, some c => some (c, true)
  | none, none => none

/-- The record of the error a porter meets (R436, R476). -/
def ptrLog (p cls : Nat) (d : Desc) (addr : Nat) (s : State) : State :=
  match d.owner with
  | .leg k j _ => logErr { cls := cls, action := 1, source := 7, unit := p, addr := BitVec.ofNat 64 addr, itin := k, jsn := BitVec.ofNat 64 j } s
  | .cmd _ _ => logErr { cls := cls, source := 7, unit := p, addr := BitVec.ofNat 64 addr } s

/-- Poisoned words are met (R436): counts, records, and the command's first poisoned address. -/
def notePoison (p : Nat) (d : Desc) (addrs : List Nat) (out : Bool) (s : State) : State :=
  forEach addrs (fun a t =>
    let t := modPorter p (fun x => { x with run := { x.run with integ := { x.run.integ with
      poisonIn := satInc x.run.integ.poisonIn, poisonOut := if out then satInc x.run.integ.poisonOut else x.run.integ.poisonOut } } }) (ptrErr p a 1 t)
    let t := ptrLog p 5 d a t
    match d.owner with
    | .cmd id _ => modCmd id (fun c => { c with poison := match c.poison with | some x => some (min x a) | none => some a }) t
    | .leg _ _ _ => t) s

/-- A MOVE meets a poisoned word (R436): a fault of class 0x03, and the word is not written or sent. -/
def poisonMove (p k : Nat) (d : Desc) (addr : Nat) (s : State) : State :=
  let s := modPorter p (fun x => { x with run := { x.run with integ := { x.run.integ with poisonIn := satInc x.run.integ.poisonIn } } }) (ptrErr p addr 1 s)
  let seq := s.errSeq
  stageFault [k] { fclass := 3, addr := BitVec.ofNat 64 addr, frec := BitVec.ofNat 64 seq } (ptrLog p 4 d addr s)

/-- A chunk has been taken: how many of leg descriptors since the last of a command, while both queues have work (R426). -/
def countChunk (p : Nat) (d : Desc) (s : State) : State :=
  let x := getPorter s p
  let both := (current x.legQ).isSome && (current x.cmdQ).isSome
  modPorter p (fun x => { x with chunks := match d.owner with | .cmd _ _ => 0 | .leg _ _ _ => if both then x.chunks + 1 else 0 }) s

/-- Progress of a descriptor after a chunk, with its counts (R277, R426, R442). -/
def chunkDone (p : Nat) (d : Desc) (n rd wr : Nat) (accepted : Bool) (s : State) : State :=
  let s := countChunk p d s
  let s := modDesc p d.owner (fun x => { x with moved := x.moved + n, acked := if accepted then x.acked + n else x.acked, checked := true }) s
  let s := modPorter p (fun x => { x with run := { x.run with bytes :=
    { rdWords := x.run.bytes.rdWords + BitVec.ofNat 32 rd, wrWords := x.run.bytes.wrWords + BitVec.ofNat 32 wr } } }) s
  match d.owner with
  | .leg k j _ => modLeg k (fun l => if l.jsn = j then { l with porterBytes := l.porterBytes + n } else l) s
  | .cmd id _ => if d.op = 3 then s else modCmd id (fun c => { c with wrote := true }) s

/-- Write whole 32-byte words from an address on, in ascending order (R426, R433). -/
def putWords (p a : Nat) (vs : List SectorVal) (s : State) : State :=
  forEach ((List.range vs.length).zip vs) (fun q t =>
    match usable t (a + 32 * q.1) with
    | some rg => (homeWriteSector (.porter p) (a + 32 * q.1) (BitVec.allOnes 32) q.2 rg t).2
    | none => t) s

/-- The words of a chunk, read from an address on, as the porter hands them over (R433, R435, R467, R476): it corrects what the code corrects and
poisons what it does not; after the word has entered the transport check any mismatch is uncorrectable. -/
def handOver (p a : Nat) (e : Option PathErr) (vs : List SectorVal) (s : State) : List SectorVal × State :=
  match e.bind (fun x => vs[x.word]?.map (fun v => (x, v))) with
  | none => (vs, s)
  | some (x, v) =>
    let syn := syndromes x.err.data (x.err.chk ^^^ (if v.poison then poisonQ else 0#32))
    let d := v.data ^^^ x.err.data
    let at_ := BitVec.ofNat 64 (a + 32 * x.word)
    let lost : List SectorVal × State := (vs.set x.word { data := d, poison := true }, logErr { cls := 2, source := 7, unit := p, addr := at_, syndrome := syn } s)
    match decodeSyndromes syn with
    | .clean => (vs.set x.word { data := d, poison := false }, s)
    | .poison => (vs.set x.word { data := d, poison := true }, s)
    | .uncorrectable => lost
    | .corrected pos w =>
      if x.late then lost
      else (vs.set x.word { data := correctData d pos w, poison := false },
            logErr { cls := 1, source := 7, unit := p, addr := at_, syndrome := syn, symbol := pos, evalue := w }
              (modPorter p (fun q => { q with run := { q.run with integ := { q.run.integ with corrected := satInc q.run.integ.corrected } } }) s))

/-- The addresses of the poisoned words of a chunk. -/
def poisonedAt (a : Nat) (vs : List SectorVal) : List Nat :=
  (((List.range vs.length).zip vs).filter (fun q => q.2.poison)).map (fun q => a + 32 * q.1)

/-- One chunk of a COPY (R433, R436). -/
def copyChunk (p : Nat) (d : Desc) (n : Nat) (e : Option PathErr) (s : State) : State :=
  let a := d.src + d.moved
  let b := d.dst + d.moved
  let (ok, s) := clearAll (.porter p) ((rangeLines b n).map (·.1)) s
  let (v, s) := homeReadLines (.porter p) (rangeLines a n) s
  match ok, v with
  | true, some ls =>
    let (vs, s) := handOver p a (e.map (fun x => { x with late := false })) ((List.range (n / 32)).map (fun i => lineSector ls (a + 32 * i))) s
    let bad := poisonedAt a vs
    (match d.owner, bad with
    | .leg k _ _, x :: _ => poisonMove p k d x (putWords p b (vs.take ((x - a) / 32)) s)
    | _, _ => chunkDone p d n (n / 32) (n / 32) true (putWords p b vs (notePoison p d bad true s)))
  | _, _ => s

/-- The 32-byte word of a FILL (R423). -/
def fillWord (w : Word) : BitVec 256 := w ++ w ++ w ++ w

/-- One chunk of a FILL; the two encoders must agree (R434). -/
def fillChunk (p : Nat) (d : Desc) (n : Nat) (mismatch : Bool) (s : State) : State :=
  let b := d.dst + d.moved
  if mismatch then
    let s := ptrErr p b 3 s
    let seq := s.errSeq
    let s := ptrLog p 9 d b s
    match d.owner with
    | .leg k _ _ => stageFault [k] { fclass := 3, addr := BitVec.ofNat 64 b, frec := BitVec.ofNat 64 seq } s
    | .cmd id _ => endCmd id stPoison b s
  else
    let (ok, s) := clearAll (.porter p) ((rangeLines b n).map (·.1)) s
    if !ok then s else chunkDone p d n 0 (n / 32) true (putWords p b (List.replicate (n / 32) { data := fillWord d.pattern }) s)

/-- One chunk of a PUSH (R400, R401, R435, R436): the bytes go to the guest's transport; the transfer's flow begins with the first. -/
def pushChunk (p : Nat) (d : Desc) (n : Nat) (e : Option PathErr) (s : State) : State :=
  let a := d.src + d.moved
  let (v, s) := homeReadLines (.porter p) (rangeLines a n) s
  match v with
  | none => s
  | some ls =>
    let (vs, s) := handOver p a e ((List.range (n / 32)).map (fun i => lineSector ls (a + 32 * i))) s
    let bad := poisonedAt a vs
    match d.owner, bad with
    | .leg k _ _, x :: _ => poisonMove p k d x s
    | _, _ =>
      let bs := vs.flatMap (fun w => if w.poison then List.replicate 32 0#8 else wordBytes 32 w.data)
      let s := notePoison p d bad false s
      let o := TxOwner.desc p d.owner
      let s := if (flowOf s o).isNone then
          modNet (fun e => { e with flows := e.flows ++ [{ owner := o, total := d.len, flush := d.flush, guest := some d.guest }] }) s
        else s
      let s := chunkDone p d n (n / 32) (n / 32) false s
      pumpGuest d.guest (queueGuest d.guest { owner := o, addr := d.dst + d.moved, len := n, src := .bytes bs } s)

/-- One chunk of a PULL: a READ of the guest's memory (R427, R435). -/
def pullChunk (p : Nat) (d : Desc) (n : Nat) (s : State) : State :=
  let s := chunkDone p d n (n / 32) (n / 32) false s
  pumpGuest d.guest (queueGuest d.guest { owner := .desc p d.owner, type := 4, addr := d.src + d.moved, len := n, src := .mem (d.dst + d.moved) } s)

/-- A porter moves one chunk of up to 4 KiB (R426). -/
def doChunk (p : Nat) (mismatch : Bool) (e : Option PathErr) (s : State) : State :=
  match (if iodCut s then none else nextChunk s p) with
  | none => s
  | some (d, _) =>
    match (if d.checked then none else descRefused s d) with
    | some a => refuseDesc p d a s
    | none =>
      let n := min 4096 (d.len - d.moved)
      match d.op with
      | 1 => copyChunk p d n e s
      | 2 => fillChunk p d n mismatch s
      | 3 => pushChunk p d n e s
      | _ => pullChunk p d n s

/-- Every byte of a descriptor has moved and is accepted or acknowledged, a PUSH with its read-back (R427). -/
def Desc.complete (d : Desc) : Bool := decide (d.len ≤ d.moved) && decide (d.len ≤ d.acked) && (d.op != 3 || d.flushed)

/-- A porter command's last piece is complete (R344, R370): copies, fills and pulls complete at the next Bell. -/
def porterCmdDone (id : Nat) (c : Cmd) (s : State) : State :=
  let st := match c.poison with | some _ => stPoison | none => stOk
  let res := c.poison.getD 0
  let s := modCmd id (fun d => { d with status := st, result := BitVec.ofNat 64 res }) s
  if c.opcode = 0x0403#16 then finishCmd id st res s else modInnk (fun i => { i with acts := i.acts ++ [.complete id] }) s

/-- A descriptor leaves its queue complete (R425, R427). -/
def doDescComplete (p : Nat) (leg : Bool) (idx : Nat) (s : State) : State :=
  let x := getPorter s p
  match (if leg then x.legQ else x.cmdQ)[idx]? with
  | none => s
  | some d =>
    if !d.complete then s
    else
      let s := modPorter p (fun y => if leg then { y with legQ := y.legQ.eraseIdx idx } else { y with cmdQ := y.cmdQ.eraseIdx idx }) s
      match d.owner with
      | .leg k j e => entryDone k j e s
      | .cmd id _ =>
        match getCmd s id with
        | none => s
        | some c =>
          let s := modCmd id (fun y => { y with outstanding := y.outstanding - 1 }) s
          if c.phase == .waiting && c.outstanding ≤ 1 && c.refused.isNone then porterCmdDone id c s else s

/-- CHUNK (R426). -/
def execChunk (porter : Nat) (e : ChunkErr) (s : State) : Host.Outcome State Fault Refusal := .next (doChunk porter e.encoders e.path s)
/-- DESCRIPTOR_COMPLETE (R427). -/
def execDescriptorComplete (porter : Nat) (leg : Bool) (index : Nat) (s : State) : Host.Outcome State Fault Refusal :=
  .next (doDescComplete porter leg index s)

end Sys2Proof.Machine
end

