-- ==== Sys2Proof/Machine/LegEntries.lean ====
section
/-! DEFINITION. The entries of a leg as they issue (R34 to R39, R42, R61 to R64, R397 to R400, R423, R432). -/

namespace Sys2Proof.Machine

/-- Little-endian fields of some bytes. -/
def fieldNat (bs : List Byte) (off n : Nat) : Nat := bytesNat ((bs.drop off).take n)
def fieldWord (bs : List Byte) (off : Nat) : Word := BitVec.ofNat 64 (fieldNat bs off 8)

/-- An entry of a running leg that has not issued, of one kind (R37). -/
def entryDue (s : State) (k e kind : Nat) : Option (Itin × Leg × Entry) :=
  match getItin s k with
  | none => none
  | some i =>
    match i.leg with
    | none => none
    | some l =>
      match l.entries[e]? with
      | none => none
      | some en => if en.kind = kind ∧ !l.issued.contains e then some (i, l, en) else none

/-- Every earlier entry of a leg for the same unit has issued (R37). -/
def inTableOrder (l : Leg) (e : Nat) (en : Entry) : Bool :=
  (List.range e).all (fun x => match l.entries[x]? with
    | some y => !(y.kind == en.kind && y.target == en.target) || l.issued.contains x
    | none => true)

/-- The entry waits for its unit: one slip (R37). -/
def slip (k e : Nat) (s : State) : State :=
  match (getItin s k).bind (·.leg) with
  | none => s
  | some l =>
    if l.slipped.contains e then s
    else
      modStg (fun g => { g with events := { g.events with slip := satInc g.events.slip } })
        (modLeg k (fun l => { l with slipped := e :: l.slipped, slips := l.slips + 1 }) s)

/-- An entry comes to issue (R37): not before its offset from the Bell that started its leg, so the clocks reach that instant first (where
a Bell has to fall before it, nothing happens yet), and not before an earlier entry for the same unit, behind which it waits with one
slip. -/
def comesToIssue (k e kind : Nat) (s : State) (go : Itin → Leg → Entry → State → State) : State :=
  match entryDue s k e kind with
  | none => s
  | some (i, l, en) =>
    let wait := l.begun + en.offset - s.stg.upNs
    if 0 < wait ∧ nextBellNs s ≤ s.stg.ptpNow + wait then s
    else
      let s := passNs wait s
      if inTableOrder l e en then go i l en s else slip k e s

/-- The entry has issued; an empty one counts and is done at once (R14, R64, R277, R432). -/
def issued (k e : Nat) (empty done : Bool) (s : State) : State :=
  modLeg k (fun l => { l with
    issued := e :: l.issued
    empty := if empty then l.empty + 1 else l.empty
    done := if done then e :: l.done else l.done }) s

/-- The bytes of a structure in an itinerary's image. -/
def imageBytes (i : Itin) (off n : Nat) (s : State) : Option (List Byte) × State := homeReadBytes .innkeeper (i.image.base + off) n s

/-- The register file a core's caravans hold, in KiB (R61). -/
def Core.regUsed (c : Core) : Nat := (c.slots.map (fun p => match p.2 with | some v => if p.1 < 16 then v.regGran else 0 | none => 0)).foldl (· + ·) 0

/-- The free caravan slots of a core, ascending. -/
def Core.freeSlots (c : Core) : List Nat := (List.range 16).filter (fun i => (c.slot i).isNone)

/-- A new caravan: registers zero, every thread at ENTRY (R63). -/
def freshCaravan (k e n cvn gran : Nat) (argw : List (BitVec 32)) (entry : Nat) : Caravan :=
  { itin := k, launch := e, cvn := cvn, ncvn := n, regGran := gran, argw := argw
    threads := List.replicate 32 { pc := BitVec.ofNat 40 entry } }

/-- A LAUNCH entry issues (R61, R63, R64), or waits. -/
def doLaunch (k e : Nat) (s : State) : State :=
  comesToIssue k e 1 s (fun i l en s =>
    let (r, s) := imageBytes i en.desc 80 s
    match r, l.clusters[en.target]? with
    | some bs, some cl =>
      let mask := BitVec.ofNat 8 (fieldNat bs 8 1)
      let n := fieldNat bs 9 1
      let gran := fieldNat bs 10 1
      if mask = 0#8 ∨ n = 0 then issued k e true true s
      else
        let cores := (List.range 8).filter (fun c => mask.getLsbD c)
        let fits := cores.all (fun c => let x := getCore s cl c; decide (n ≤ x.freeSlots.length) && decide (x.regUsed + n * gran ≤ 64))
        if !fits then slip k e s
        else
          let argw := (List.range 16).map (fun j => BitVec.ofNat 32 (fieldNat bs (16 + 4 * j) 4))
          let s := forEach cores (fun c t => modCore cl c (fun x =>
            ((x.freeSlots.take n).zip (List.range n)).foldl (fun (y : Core) p => y.setSlot p.1 (some (freshCaravan k e n p.2 gran argw (fieldNat bs 0 8)))) x) t) s
          issued k e false false s
    | _, _ => s)

/-- The descriptor that a MOVE entry names (R423). -/
def moveDesc (bs : List Byte) (o : Owner) : Desc :=
  { op := fieldNat bs 0 1, flush := decide (fieldNat bs 1 1 % 2 = 1), guest := fieldNat bs 2 2 % 2 ^ 14, src := fieldNat bs 8 8, dst := fieldNat bs 16 8
    len := fieldNat bs 24 8, pattern := fieldWord bs 32, owner := o }

/-- A MOVE entry issues into its porter's leg queue (R425, R432, R439), or waits. -/
def doMove (k e : Nat) (s : State) : State :=
  comesToIssue k e 2 s (fun i l en s =>
    let (r, s) := imageBytes i en.desc 64 s
    match r with
    | none => s
    | some bs =>
      let d := moveDesc bs (.leg k l.jsn e)
      if d.len = 0 then
        modPorter en.target (fun x => { x with run := { x.run with refuse := { x.run.refuse with empty := satInc x.run.refuse.empty } } }) (issued k e true true s)
      else if l.suppressed && d.op == 3 then issued k e false true s
      else if 32 ≤ (getPorter s en.target).legQ.length then slip k e s
      else modPorter en.target (fun x => { x with legQ := x.legQ ++ [d] }) (issued k e false false s))

/-- The ordinal of an entry among those of its kind and peer (R398). -/
def ordinal (l : Leg) (e : Nat) (en : Entry) : Nat :=
  (List.range e).countP (fun x => match l.entries[x]? with | some y => y.kind == en.kind && y.target == en.target | none => false)

/-- The transfers of legs that the network queue holds: SENDs under way, and RECVs that still wait for bytes. -/
def netQueued (s : State) : Nat :=
  s.net.sends.length + s.net.recvs.countP (fun r => r.posted && (match (getItin s r.itin).bind (·.leg) with
    | some l => l.jsn == r.jsn && !l.done.contains r.entry
    | none => false))

/-- The network queue is full (R37); how many transfers it holds the spec leaves open. -/
def netFull (s : State) : Bool := decide (Config.netQueueMore < netQueued s)

/-- A SEND entry issues (R397, R398, R400, R419), or waits for the network queue (R37). -/
def doSend (k e : Nat) (s : State) : State :=
  comesToIssue k e 3 s (fun i l en s =>
    let (r, s) := imageBytes i en.desc 32 s
    match r, i.image.peers[en.target]? with
    | some bs, some peer =>
      let addr := fieldNat bs 0 8
      let len := fieldNat bs 8 8
      let remote := fieldNat bs 16 8
      let flush := decide (fieldNat bs 24 1 % 2 = 1)
      let ord := ordinal l e en
      let o := TxOwner.send k l.jsn e
      let x : SendX := { itin := k, jsn := l.jsn, entry := e, peer := en.target, ord := ord, addr := addr, len := len, remote := remote, flush := flush }
      let start (t : State) : State := modNet (fun n => { n with sends := n.sends ++ [x] }) (issued k e false false t)
      if len = 0 then issued k e true true s
      else if netFull s then slip k e s
      else match peer with
        | .guest g =>
          if l.suppressed then issued k e false true s
          else if (getPh s (64 + g)).st != .open_ && (getPh s (64 + g)).st != .draining then refuseEntry k addr (issued k e false false s)
          else guestWrite o g remote (.mem addr) len flush (start s)
        | .device d =>
          let q : TxReq := { owner := o, addr := 0, len := len, src := .mem addr, imm := some (BitVec.ofNat 32 l.jsn), ord := ord }
          let s := modNet (fun n => { n with flows := n.flows ++ [{ owner := o, total := len }] }) (start s)
          if Config.isT4 d then pumpPacel (modNet (fun n => { n with pacel := { n.pacel with queue := n.pacel.queue ++ [q] } }) s)
          else match connOf s peer with
            | some id => pumpConn id (queueConn id q s)
            | none => s
    | _, _ => s)

/-- A RECV entry is posted (R398 to R400), or waits for the network queue (R37): bytes that landed before count. A landing range that may not be
written is refused. -/
def doRecv (k e : Nat) (s : State) : State :=
  comesToIssue k e 4 s (fun i l en s =>
    let (r, s) := imageBytes i en.desc 32 s
    match r, i.image.peers[en.target]? with
    | some bs, some peer =>
      let addr := fieldNat bs 0 8
      let len := fieldNat bs 8 8
      if len = 0 then issued k e true true s
      else if netFull s then slip k e s
      else if (lowestBad (addrEdges s) addr len (descBad s (.leg k l.jsn e) true)).isSome then refuseEntry k addr (issued k e false false s)
      else
        let x : RecvX := match s.net.recvs.find? (fun y => y.itin == k && y.jsn == l.jsn && y.entry == e) with
          | some y => { y with posted := true }
          | none => { itin := k, jsn := l.jsn, entry := e, peer := en.target, ord := ordinal l e en, addr := addr, len := len }
        let s := modNet (fun n => { n with recvs := n.recvs.filter (fun y => !(y.itin == k && y.jsn == l.jsn && y.entry == e)) ++ [x] }) (issued k e false false s)
        match peer with
        | .guest g => if (getPh s (64 + g)).st == .lost then refuseEntry k addr s else settleGuestRecvs g s
        | .device _ => if len ≤ rangesLen x.landed then entryDone k l.jsn e s else s
    | _, _ => s)

/-- LAUNCH (R63). -/
def execLaunch (itin entry : Nat) (s : State) : Host.Outcome State Fault Refusal := .next (doLaunch itin entry s)
/-- MOVE (R425). -/
def execMove (itin entry : Nat) (s : State) : Host.Outcome State Fault Refusal := .next (doMove itin entry s)
/-- SEND (R398). -/
def execSend (itin entry : Nat) (s : State) : Host.Outcome State Fault Refusal := .next (doSend itin entry s)
/-- RECV (R398). -/
def execRecv (itin entry : Nat) (s : State) : Host.Outcome State Fault Refusal := .next (doRecv itin entry s)

end Sys2Proof.Machine
end

