-- ==== Sys2Proof/Machine/CmdBase.lean ====
section
/-! DEFINITION. What every command of the command set shares (R333, R340 to R342): unused arguments, address ranges, output buffers,
empty commands; and the units a record or a sensor reports. -/

namespace Sys2Proof.Machine

/-- Act on a command that has been dispatched and is at work on the piece dispatched; any other state is left as it is. -/
def withCmd (id op : Nat) (s : State) (f : Cmd → State) : State :=
  match atWork s id op with
  | some c => f c
  | none => s

/-- An empty command completes with ST_OK at once (R14, R333). -/
def emptyCmd (id : Nat) (s : State) : State := finishCmd id stOk 0 (modCmd id (fun c => { c with empty := true }) s)

/-- A guest may reach a device byte: it lies in the guest's window (R341). -/
def inWindow (s : State) (g x : Nat) : Bool :=
  match (getGuest s g).window with
  | some (b, l, _) => decide (b ≤ x) && decide (x < b + l)
  | none => false

/-- A byte that a command may not read or write (R341). The control space is never mapped. -/
def cmdByteBad (s : State) (c : Cmd) (write : Bool) (x : Nat) : Bool :=
  match regionAt s x with
  | none => true
  | some r => touchesArea s x 1 || (write && r.ro) || (match c.guest with | some g => !inWindow s g x | none => false)

/-- The lowest address at which a range of a command breaks R341. -/
def cmdRange (s : State) (c : Cmd) (write : Bool) (a n : Nat) : Option Nat :=
  let win := match c.guest with
    | some g => (match (getGuest s g).window with | some (b, l, _) => [b, b + l] | none => [])
    | none => []
  lowestBad (addrEdges s ++ win) a n (cmdByteBad s c write)

/-- Where an output buffer may not be written; a guest's buffer lies in its own memory (R341). -/
def outRange (s : State) (c : Cmd) (a n : Nat) : Option Nat := if c.guest.isSome then none else cmdRange s c true a n

/-- Write a command's output buffer and complete it: through the homes, or through the guest's transport, acknowledged (R341). While a
line waits for a processor cache the command goes on working. -/
def writeOut (id : Nat) (c : Cmd) (a : Nat) (bs : List Byte) (res : Nat) (s : State) : State :=
  match c.guest with
  | none =>
    let (ok, s) := homeWriteBytes .innkeeper a bs s
    if ok then finishCmd id stOk res s else s
  | some g =>
    if bs.isEmpty then finishCmd id stOk res s
    else
      guestWrite (.buffer id) g a (.bytes bs) bs.length c.flush
        (modCmd id (fun d => { d with phase := .waiting, status := stOk, result := BitVec.ofNat 64 res }) s)

/-- The Bell at which a command's decided effect takes place (R343). -/
def addAct (a : BellAct) (id : Nat) (s : State) : State :=
  modInnk (fun i => { i with acts := i.acts ++ [a] }) (waitCmd id s)

/-- Little-endian bytes of a number. -/
def natBytes (n x : Nat) : List Byte := wordBytes n (BitVec.ofNat (8 * n) x)

/-- Zero bytes. -/
def zeros (n : Nat) : List Byte := List.replicate n 0#8

/-- Units in service, as masks: ports, links, homes (R348). -/
def portsLive (s : State) : BitVec 8 := (List.range 8).foldl (fun m n => if portUp s n then setBit m n else m) 0#8
def linksLive (s : State) : BitVec 8 := (List.range 8).foldl (fun m n => if linkLive s n then setBit m n else m) 0#8
def halvesLive (s : State) : BitVec 8 := (List.range 8).foldl (fun m n => if halfLive s n then setBit m n else m) 0#8

/-- The Pacel link can be used (R348, R417). -/
def pacelUsable (s : State) : Bool := s.variant.pacel == 1#8 && s.net.pacel.enabled && s.net.pacel.up

/-- The capability record (R6, R348). Its live fields are those of the last committed Bell (R8); the ports' before the first Bell are as
they stand. -/
def capRecord (s : State) : List Byte :=
  let v := s.variant
  let l := s.ldg
  let np := if s.stg.opened then l.capNp else portsLive s
  wordBytes 2 v.part ++ [v.cdFit, v.msFit, l.capCd, l.capMs, v.fp64Lanes, v.pacel] ++ natBytes 2 v.pmaxW ++ natBytes 2 l.capCl ++
  natBytes 2 l.capPx ++ zeros 2 ++
  wordBytes 8 Config.deviceId ++ wordBytes 4 (tabGet {} s.sec.comps 2 : Component).reg.version ++ natBytes 4 1 ++
  natBytes 2 4096 ++ natBytes 2 16384 ++ natBytes 2 8192 ++ natBytes 1 16 ++ [np, l.capLink, l.capHalf] ++
  natBytes 1 (if pacelUsable s then 7 else 3) ++ zeros 5 ++ natBytes 8 65536 ++ zeros 8

end Sys2Proof.Machine
end

