-- ==== Sys2Proof/Machine/Registers.lean ====
section
/-! DEFINITION. The 64-bit image of every register: each field at the bits its layout gives it, reserved bits 0
(R15, R16). -/

namespace Sys2Proof.Machine

/-- A field placed at its lowest bit. -/
def fieldAt {w : Nat} (x : BitVec w) (lo : Nat) : Word := (x.setWidth 64) <<< lo

/-- The word of STG_CFG (R56). -/
def wordStgCfg (r : StgCfgReg) : Word :=
  fieldAt r.lenUs 0 ||| fieldAt r.winUs 16 ||| fieldAt r.ckptStages 32 ||| fieldAt r.wdogBells 48

/-- The word of STG_CFG_NEXT (R56). -/
def wordStgCfgNext (r : StgCfgNextReg) : Word :=
  fieldAt r.lenUs 0 ||| fieldAt r.winUs 16 ||| fieldAt r.ckptStages 32 ||| fieldAt r.wdogBells 48 ||| fieldAt r.bad 62 ||| fieldAt r.apply 63

/-- The word of STG_NUM (R56). -/
def wordStgNum (r : StgNumReg) : Word :=
  fieldAt r.stage 0

/-- The word of STG_BELL_TIME (R56). -/
def wordStgBellTime (r : StgBellTimeReg) : Word :=
  fieldAt r.tNs 0

/-- The word of STG_PHASE (R56). -/
def wordStgPhase (r : StgPhaseReg) : Word :=
  fieldAt r.elapsedNs 0 ||| fieldAt r.window 25 ||| fieldAt r.itinLate 32 ||| fieldAt r.clustersBound 48

/-- The word of STG_TIME_STATE (R56). -/
def wordStgTimeState (r : StgTimeStateReg) : Word :=
  fieldAt r.state 0 ||| fieldAt r.ppsOk 2 ||| fieldAt r.stepRefused 3 ||| fieldAt r.offsetNs 16 ||| fieldAt r.errBound 48

/-- The word of STG_TIME_CFG (R56). -/
def wordStgTimeCfg (r : StgTimeCfgReg) : Word :=
  fieldAt r.freerunAfterS 0 ||| fieldAt r.slewPpm 16 ||| fieldAt r.stepMs 32 ||| fieldAt r.backstepLimitS 48

/-- The word of STG_EVENTS (R56). -/
def wordStgEvents (r : StgEventsReg) : Word :=
  fieldAt r.late 0 ||| fieldAt r.held 16 ||| fieldAt r.wdog 32 ||| fieldAt r.slip 48

/-- The word of STG_EVENTS_CLR (R56). -/
def wordStgEventsClr (r : StgEventsClrReg) : Word :=
  fieldAt r.clr 0

/-- The word of CL_ID (R102). -/
def wordClId (r : ClIdReg) : Word :=
  fieldAt r.clusterId 0 ||| fieldAt r.live 10 ||| fieldAt r.itin 16 ||| fieldAt r.bound 31 ||| fieldAt r.logical 32

/-- The word of CL_STATE (R102). -/
def wordClState (r : ClStateReg) : Word :=
  fieldAt r.coreActive 0 ||| fieldAt r.cpyQ 8 ||| fieldAt r.clearing 16 ||| fieldAt r.lateHold 17

/-- The word of CL_CTL (R102). -/
def wordClCtl (r : ClCtlReg) : Word :=
  fieldAt r.offline 0

/-- The word of CL_CPY (R102). -/
def wordClCpy (r : ClCpyReg) : Word :=
  fieldAt r.bytes 0 ||| fieldAt r.reqs 48

/-- The word of CL_STORE (R102). -/
def wordClStore (r : ClStoreReg) : Word :=
  fieldAt r.conflict 0

/-- The word of CL_EXC (R102). -/
def wordClExc (r : ClExcReg) : Word :=
  fieldAt r.cores 0

/-- The word of CL_ARRIVE0–CL_ARRIVE31 (R102). -/
def wordClArrive (r : ClArriveReg) : Word :=
  fieldAt r.count 0

/-- The word of CORE_STATUS (R102). -/
def wordCoreStatus (r : CoreStatusReg) : Word :=
  fieldAt r.slots 0 ||| fieldAt r.regFreeKib 16 ||| fieldAt r.halted 24

/-- The word of CORE_EXC (R102). -/
def wordCoreExc (r : CoreExcReg) : Word :=
  fieldAt r.valid 0 ||| fieldAt r.more 1 ||| fieldAt r.cause 8 ||| fieldAt r.slot 16 ||| fieldAt r.threads 24

/-- The word of CORE_EXC_PC (R102). -/
def wordCoreExcPc (r : CoreExcPcReg) : Word :=
  fieldAt r.pc 0

/-- The word of CORE_EXC_ADDR (R102). -/
def wordCoreExcAddr (r : CoreExcAddrReg) : Word :=
  fieldAt r.addr 0

/-- The word of CORE_ISSUE (R102). -/
def wordCoreIssue (r : CoreIssueReg) : Word :=
  fieldAt r.dual 0 ||| fieldAt r.single 32

/-- The word of CORE_STALL (R102). -/
def wordCoreStall (r : CoreStallReg) : Word :=
  fieldAt r.bubble 0 ||| fieldAt r.collFull 32

/-- The word of CORE_WAIT (R102). -/
def wordCoreWait (r : CoreWaitReg) : Word :=
  fieldAt r.splitWait 0 ||| fieldAt r.counterWait 32

/-- The word of CORE_MEM (R102). -/
def wordCoreMem (r : CoreMemReg) : Word :=
  fieldAt r.bankConflict 0 ||| fieldAt r.l1MissWait 32

/-- The word of MXU_FLAGS (R136). -/
def wordMxuFlags (r : MxuFlagsReg) : Word :=
  fieldAt r.of 0 ||| fieldAt r.uf 1 ||| fieldAt r.nx 2 ||| fieldAt r.nv 3 ||| fieldAt r.last 8

/-- The word of MXU_BUSY (R136). -/
def wordMxuBusy (r : MxuBusyReg) : Word :=
  fieldAt r.array 0 ||| fieldAt r.qfull 32

/-- The word of MXU_OPS (R136). -/
def wordMxuOps (r : MxuOpsReg) : Word :=
  fieldAt r.mma 0 ||| fieldAt r.mrd 32 ||| fieldAt r.mld 48

/-- The word of MXU_MACS (R136). -/
def wordMxuMacs (r : MxuMacsReg) : Word :=
  fieldAt r.macs 0

/-- The word of VCH_FLAGS (R193). -/
def wordVchFlags (r : VchFlagsReg) : Word :=
  fieldAt r.of 0 ||| fieldAt r.uf 1 ||| fieldAt r.nx 2 ||| fieldAt r.nv 3 ||| fieldAt r.last 8

/-- The word of VCH_BUSY (R193). -/
def wordVchBusy (r : VchBusyReg) : Word :=
  fieldAt r.active 0 ||| fieldAt r.qfull 32

/-- The word of VCH_OPS (R193). -/
def wordVchOps (r : VchOpsReg) : Word :=
  fieldAt r.ops 0 ||| fieldAt r.trans 32 ||| fieldAt r.fp64 48

/-- The word of VCH_ELEMS (R193). -/
def wordVchElems (r : VchElemsReg) : Word :=
  fieldAt r.elems 0

/-- The word of L2H_ID (R231). -/
def wordL2hId (r : L2hIdReg) : Word :=
  fieldAt r.home 0 ||| fieldAt r.live 3

/-- The word of L2H_CFG (R231). -/
def wordL2hCfg (r : L2hCfgReg) : Word :=
  fieldAt r.satThresh 0 ||| fieldAt r.pinHeavy 8 ||| fieldAt r.pressThresh 16 ||| fieldAt r.pressMinAcc 32 ||| fieldAt r.offerEn 48

/-- The word of L2H_STATUS (R231). -/
def wordL2hStatus (r : L2hStatusReg) : Word :=
  fieldAt r.pinnedLines 0 ||| fieldAt r.evbOcc 20 ||| fieldAt r.pressure 26

/-- The word of L2H_ACCESS (R231). -/
def wordL2hAccess (r : L2hAccessReg) : Word :=
  fieldAt r.hits 0 ||| fieldAt r.misses 32

/-- The word of L2H_PIN (R231). -/
def wordL2hPin (r : L2hPinReg) : Word :=
  fieldAt r.heavyAcc 0 ||| fieldAt r.heavyMiss 32

/-- The word of L2H_EVB (R231). -/
def wordL2hEvb (r : L2hEvbReg) : Word :=
  fieldAt r.writebacks 0 ||| fieldAt r.fullCycles 32

/-- The word of L2H_OFFER (R231). -/
def wordL2hOffer (r : L2hOfferReg) : Word :=
  fieldAt r.accepted 0 ||| fieldAt r.declined 32

/-- The word of L2H_DEAD (R231). -/
def wordL2hDead (r : L2hDeadReg) : Word :=
  fieldAt r.hints 0 ||| fieldAt r.rad 32 ||| fieldAt r.ignored 48

/-- The word of L2H_HOT (R231). -/
def wordL2hHot (r : L2hHotReg) : Word :=
  fieldAt r.qfullCycles 0 ||| fieldAt r.hotSlice 32

/-- The word of L2H_HOT_LINE (R231). -/
def wordL2hHotLine (r : L2hHotLineReg) : Word :=
  fieldAt r.addr 0

/-- The word of L2H_ATOM (R231). -/
def wordL2hAtom (r : L2hAtomReg) : Word :=
  fieldAt r.reqs 0 ||| fieldAt r.operands 32

/-- The word of L2H_COH (R231). -/
def wordL2hCoh (r : L2hCohReg) : Word :=
  fieldAt r.snoops 0 ||| fieldAt r.timeouts 32 ||| fieldAt r.backInv 48

/-- The word of L2H_BYPASS (R231). -/
def wordL2hBypass (r : L2hBypassReg) : Word :=
  fieldAt r.loads 0

/-- The word of L2H_POISON_ADDR (R231). -/
def wordL2hPoisonAddr (r : L2hPoisonAddrReg) : Word :=
  fieldAt r.addr 0 ||| fieldAt r.valid 63

/-- The word of L2H_DEAD0–L2H_DEAD63 (R231). -/
def wordL2hDeadList (r : L2hDeadListReg) : Word :=
  fieldAt r.addr 0 ||| fieldAt r.valid 63

/-- The word of MEM_ID (R271). -/
def wordMemId (r : MemIdReg) : Word :=
  fieldAt r.stack 0 ||| fieldAt r.fitted 3 ||| fieldAt r.live 4 ||| fieldAt r.partner 8 ||| fieldAt r.partnerLive 11

/-- The word of MEM_CFG (R271). -/
def wordMemCfg (r : MemCfgReg) : Word :=
  fieldAt r.ceRetire 0 ||| fieldAt r.scrubHours 8 ||| fieldAt r.wcbHigh 16 ||| fieldAt r.pinRows 23 ||| fieldAt r.idleNs 32

/-- The word of MEM_STATUS (R271). -/
def wordMemStatus (r : MemStatusReg) : Word :=
  fieldAt r.tempC 0 ||| fieldAt r.refresh2x 8 ||| fieldAt r.retraining 9 ||| fieldAt r.retFull 10 ||| fieldAt r.wcbOcc 16 ||| fieldAt r.retired 24 ||| fieldAt r.pinFault 33 ||| fieldAt r.pinPc 34 ||| fieldAt r.pinSymbol 40

/-- The word of MEM_TRAFFIC (R271). -/
def wordMemTraffic (r : MemTrafficReg) : Word :=
  fieldAt r.rdSectors 0 ||| fieldAt r.wrSectors 32

/-- The word of MEM_WCB (R271). -/
def wordMemWcb (r : MemWcbReg) : Word :=
  fieldAt r.merges 0 ||| fieldAt r.rmw 32

/-- The word of MEM_MIRROR (R271). -/
def wordMemMirror (r : MemMirrorReg) : Word :=
  fieldAt r.copyWr 0 ||| fieldAt r.fallback 32

/-- The word of MEM_ECC (R271). -/
def wordMemEcc (r : MemEccReg) : Word :=
  fieldAt r.ce 0 ||| fieldAt r.ue 32 ||| fieldAt r.ifRetry 48

/-- The word of MEM_LAST_ERR (R271). -/
def wordMemLastErr (r : MemLastErrReg) : Word :=
  fieldAt r.addr 0 ||| fieldAt r.ue 52 ||| fieldAt r.valid 63

/-- The word of MEM_SCRUB (R271). -/
def wordMemScrub (r : MemScrubReg) : Word :=
  fieldAt r.offset 0 ||| fieldAt r.passes 48

/-- The word of MEM_RET0–MEM_RET255 (R271). -/
def wordMemRet (r : MemRetReg) : Word :=
  fieldAt r.addr 0 ||| fieldAt r.pending 62 ||| fieldAt r.valid 63

/-- The word of LDG_CFG (R304). -/
def wordLdgCfg (r : LdgCfgReg) : Word :=
  fieldAt r.replayMax 0 ||| fieldAt r.restartMs 8

/-- The word of LDG_SEQ (R304). -/
def wordLdgSeq (r : LdgSeqReg) : Word :=
  fieldAt r.next 0

/-- The word of LDG_OLDEST (R304). -/
def wordLdgOldest (r : LdgOldestReg) : Word :=
  fieldAt r.seq 0

/-- The word of LDG_CKPT (R304). -/
def wordLdgCkpt (r : LdgCkptReg) : Word :=
  fieldAt r.stage 0

/-- The word of LDG_CKPT_STATE (R304). -/
def wordLdgCkptState (r : LdgCkptStateReg) : Word :=
  fieldAt r.valid 0 ||| fieldAt r.flushing 1 ||| fieldAt r.homesPending 8

/-- The word of LDG_CKPT_PEND (R304). -/
def wordLdgCkptPend (r : LdgCkptPendReg) : Word :=
  fieldAt r.stage 0

/-- The word of LDG_FAULTS (R304). -/
def wordLdgFaults (r : LdgFaultsReg) : Word :=
  fieldAt r.stageFaults 0 ||| fieldAt r.replays 16 ||| fieldAt r.stops 32 ||| fieldAt r.stateLoss 48

/-- The word of LDG_DEGRADE (R304). -/
def wordLdgDegrade (r : LdgDegradeReg) : Word :=
  fieldAt r.degraded 0 ||| fieldAt r.cdLost 8 ||| fieldAt r.msLost 16 ||| fieldAt r.linkLost 24 ||| fieldAt r.halfLost 32

/-- The word of LDG_RESTART (R304). -/
def wordLdgRestart (r : LdgRestartReg) : Word :=
  fieldAt r.stage 0

/-- The word of PH_CFG (R339). -/
def wordPhCfg (r : PhCfgReg) : Word :=
  fieldAt r.rtReserve 0 ||| fieldAt r.urgReserve 16

/-- The word of PH_INFLIGHT (R339). -/
def wordPhInflight (r : PhInflightReg) : Word :=
  fieldAt r.total 0 ||| fieldAt r.runtime 16 ||| fieldAt r.urgent 32

/-- The word of PH_QUEUE (R339). -/
def wordPhQueue (r : PhQueueReg) : Word :=
  fieldAt r.urgQ 0 ||| fieldAt r.normQ 16 ||| fieldAt r.bulkQ 32

/-- The word of PH_STAGE (R339). -/
def wordPhStage (r : PhStageReg) : Word :=
  fieldAt r.accepted 0 ||| fieldAt r.dispatched 16 ||| fieldAt r.completed 32 ||| fieldAt r.aged 48

/-- The word of PH_STALL (R339). -/
def wordPhStall (r : PhStallReg) : Word :=
  fieldAt r.limitNs 0 ||| fieldAt r.cqWaits 32

/-- The word of PH_INNK (R339). -/
def wordPhInnk (r : PhInnkReg) : Word :=
  fieldAt r.restarting 0 ||| fieldAt r.halted 1 ||| fieldAt r.restarts 8

/-- The word of PH_RT_BASE (R339). -/
def wordPhRtBase (r : PhRtBaseReg) : Word :=
  fieldAt r.addr 0

/-- The word of PH_SUMMARY0–PH_SUMMARY256 (R339). -/
def wordPhSummary (r : PhSummaryReg) : Word :=
  fieldAt r.full 0

/-- The word of PH_STATE (R339). -/
def wordPhState (r : PhStateReg) : Word :=
  fieldAt r.state 0 ||| fieldAt r.guest 2 ||| fieldAt r.urgentOk 3 ||| fieldAt r.epoch 8

/-- The word of PH_AREA (R339). -/
def wordPhArea (r : PhAreaReg) : Word :=
  fieldAt r.addr 0

/-- The word of PH_CQ (R339). -/
def wordPhCq (r : PhCqReg) : Word :=
  fieldAt r.addr 0

/-- The word of PH_PTR (R339). -/
def wordPhPtr (r : PhPtrReg) : Word :=
  fieldAt r.head 0 ||| fieldAt r.tail 16 ||| fieldAt r.cqTail 32 ||| fieldAt r.cqHead 48

/-- The word of PH_LIMIT (R339). -/
def wordPhLimit (r : PhLimitReg) : Word :=
  fieldAt r.maxInflight 0 ||| fieldAt r.inflight 16

/-- The word of PH_COUNT (R339). -/
def wordPhCount (r : PhCountReg) : Word :=
  fieldAt r.accepted 0 ||| fieldAt r.completed 32

/-- The word of PH_ENERGY (R339). -/
def wordPhEnergy (r : PhEnergyReg) : Word :=
  fieldAt r.mj 0

/-- The word of PH_ERR (R339). -/
def wordPhErr (r : PhErrReg) : Word :=
  fieldAt r.badSeal 0 ||| fieldAt r.partialSeal 16 ||| fieldAt r.denied 32 ||| fieldAt r.badCqh 48

/-- The word of PH_FULL0–PH_FULL3 (R339). -/
def wordPhFull (r : PhFullReg) : Word :=
  fieldAt r.slots 0

/-- The word of NET_CFG (R422). -/
def wordNetCfg (r : NetCfgReg) : Word :=
  fieldAt r.relayUdp 0 ||| fieldAt r.timeoutUs 16 ||| fieldAt r.dscp 32 ||| fieldAt r.pfcEn 40 ||| fieldAt r.pfcPrio 41

/-- The word of NET_RELAY (R422). -/
def wordNetRelay (r : NetRelayReg) : Word :=
  fieldAt r.ackPkts 0 ||| fieldAt r.ackUs 8 ||| fieldAt r.rtoUs 16 ||| fieldAt r.dupThresh 24 ||| fieldAt r.gShift 28 ||| fieldAt r.wmax 32

/-- The word of NET_JOB (R422). -/
def wordNetJob (r : NetJobReg) : Word :=
  fieldAt r.ackWaitUs 0 ||| fieldAt r.prepRounds 16 ||| fieldAt r.confirmLeadUs 32 ||| fieldAt r.reprepLead 48

/-- The word of NET_FABRIC (R422). -/
def wordNetFabric (r : NetFabricReg) : Word :=
  fieldAt r.prefix_ 0

/-- The word of NET_PTP (R422). -/
def wordNetPtp (r : NetPtpReg) : Word :=
  fieldAt r.domain 0 ||| fieldAt r.ports 8 ||| fieldAt r.transport 16 ||| fieldAt r.active 20 ||| fieldAt r.activeValid 23 ||| fieldAt r.mpdNs 32

/-- The word of NET_PACEL (R422). -/
def wordNetPacel (r : NetPacelReg) : Word :=
  fieldAt r.en 0 ||| fieldAt r.present 1 ||| fieldAt r.up 2 ||| fieldAt r.lanesReq 4 ||| fieldAt r.lanes 8 ||| fieldAt r.replays 32

/-- The word of NET_CONN (R422). -/
def wordNetConn (r : NetConnReg) : Word :=
  fieldAt r.guests 0 ||| fieldAt r.peers 16 ||| fieldAt r.lost 32 ||| fieldAt r.reparent 48

/-- The word of NET_PORT_STATUS (R422). -/
def wordNetPortStatus (r : NetPortStatusReg) : Word :=
  fieldAt r.up 0 ||| fieldAt r.ptp 1 ||| fieldAt r.pacel 2 ||| fieldAt r.retrains 8

/-- The word of NET_PORT_MAC (R422). -/
def wordNetPortMac (r : NetPortMacReg) : Word :=
  fieldAt r.mac 0

/-- The word of NET_PORT_V4 (R422). -/
def wordNetPortV4 (r : NetPortV4Reg) : Word :=
  fieldAt r.addr 0 ||| fieldAt r.plen 32

/-- The word of NET_PORT_GW4 (R422). -/
def wordNetPortGw4 (r : NetPortGw4Reg) : Word :=
  fieldAt r.gw 0

/-- The word of NET_PORT_BYTES (R422). -/
def wordNetPortBytes (r : NetPortBytesReg) : Word :=
  fieldAt r.tx 0 ||| fieldAt r.rx 32

/-- The word of NET_PORT_CONG (R422). -/
def wordNetPortCong (r : NetPortCongReg) : Word :=
  fieldAt r.ceRx 0 ||| fieldAt r.signals 32

/-- The word of NET_PORT_ERR (R422). -/
def wordNetPortErr (r : NetPortErrReg) : Word :=
  fieldAt r.fcs 0 ||| fieldAt r.crc 16 ||| fieldAt r.retx 32 ||| fieldAt r.nak 48

/-- The word of PTR_CFG (R442). -/
def wordPtrCfg (r : PtrCfgReg) : Word :=
  fieldAt r.cmdEvery 0

/-- The word of PTR_STATUS (R442). -/
def wordPtrStatus (r : PtrStatusReg) : Word :=
  fieldAt r.busy 0

/-- The word of PTR_Q (R442). -/
def wordPtrQ (r : PtrQReg) : Word :=
  fieldAt r.legQ 0 ||| fieldAt r.cmdQ 8 ||| fieldAt r.queued 16

/-- The word of PTR_BYTES (R442). -/
def wordPtrBytes (r : PtrBytesReg) : Word :=
  fieldAt r.rdWords 0 ||| fieldAt r.wrWords 32

/-- The word of PTR_INTEG (R442). -/
def wordPtrInteg (r : PtrIntegReg) : Word :=
  fieldAt r.corrected 0 ||| fieldAt r.poisonIn 16 ||| fieldAt r.poisonOut 32 ||| fieldAt r.retry 48

/-- The word of PTR_REFUSE (R442). -/
def wordPtrRefuse (r : PtrRefuseReg) : Word :=
  fieldAt r.refused 0 ||| fieldAt r.empty 16 ||| fieldAt r.guestLost 32

/-- The word of PTR_LAST_ERR (R442). -/
def wordPtrLastErr (r : PtrLastErrReg) : Word :=
  fieldAt r.addr 0 ||| fieldAt r.cause 52 ||| fieldAt r.valid 63

/-- The word of mxdevid (R462). -/
def wordMxdevid (r : MxdevidReg) : Word :=
  fieldAt r.deviceId 0

/-- The word of mxcore (R462). -/
def wordMxcore (r : MxcoreReg) : Word :=
  fieldAt r.core 0 ||| fieldAt r.die 6

/-- The word of xstage (R462). -/
def wordXstage (r : XstageReg) : Word :=
  fieldAt r.stage 0

/-- The word of mxctl (R462). -/
def wordMxctl (r : MxctlReg) : Word :=
  fieldAt r.pfEn 0 ||| fieldAt r.stageS 1 ||| fieldAt r.stageU 2 ||| fieldAt r.restart 3

/-- The word of mxfreq (R462). -/
def wordMxfreq (r : MxfreqReg) : Word :=
  fieldAt r.freq 0 ||| fieldAt r.freqNow 8

/-- The word of mxerr (R462). -/
def wordMxerr (r : MxerrReg) : Word :=
  fieldAt r.addr 0 ||| fieldAt r.cause 52 ||| fieldAt r.valid 63

/-- The word of PWR_CFG (R499). -/
def wordPwrCfg (r : PwrCfgReg) : Word :=
  fieldAt r.capW 0 ||| fieldAt r.gainW 16 ||| fieldAt r.nMax 24 ||| fieldAt r.tjSoft 32 ||| fieldAt r.idleOffStages 40

/-- The word of PWR_STATUS (R499). -/
def wordPwrStatus (r : PwrStatusReg) : Word :=
  fieldAt r.pW 0 ||| fieldAt r.n 16 ||| fieldAt r.nCap 22 ||| fieldAt r.nTherm 28 ||| fieldAt r.capUnmet 34 ||| fieldAt r.telemLost 35 ||| fieldAt r.inletHigh 36 ||| fieldAt r.flowLow 37 ||| fieldAt r.coolantWarn 38 ||| fieldAt r.thermLimit 39 ||| fieldAt r.vin10mv 48

/-- The word of PWR_COOL_CFG (R499). -/
def wordPwrCoolCfg (r : PwrCoolCfgReg) : Word :=
  fieldAt r.target 0 ||| fieldAt r.valveMin 16 ||| fieldAt r.tjFlow 24

/-- The word of PWR_COOL (R499). -/
def wordPwrCool (r : PwrCoolReg) : Word :=
  fieldAt r.tIn 0 ||| fieldAt r.tOut 16 ||| fieldAt r.flowMl 32 ||| fieldAt r.valve 48

/-- The word of PWR_TJ (R499). -/
def wordPwrTj (r : PwrTjReg) : Word :=
  fieldAt r.cd0 0 ||| fieldAt r.cd1 8 ||| fieldAt r.cd2 16 ||| fieldAt r.cd3 24 ||| fieldAt r.px0 32 ||| fieldAt r.px1 40 ||| fieldAt r.iod 48 ||| fieldAt r.max 56

/-- The word of PWR_DOM (R499). -/
def wordPwrDom (r : PwrDomReg) : Word :=
  fieldAt r.on 0 ||| fieldAt r.fault 32

/-- The word of PWR_EVENTS (R499). -/
def wordPwrEvents (r : PwrEventsReg) : Word :=
  fieldAt r.capped 0 ||| fieldAt r.therm 16 ||| fieldAt r.unmet 32

/-- The word of PWR_ENERGY (R499). -/
def wordPwrEnergy (r : PwrEnergyReg) : Word :=
  fieldAt r.mj 0

/-- The word of PWR_TRIP (R499). -/
def wordPwrTrip (r : PwrTripReg) : Word :=
  fieldAt r.tripped 0 ||| fieldAt r.junction 1 ||| fieldAt r.outlet 2 ||| fieldAt r.sensor 3 ||| fieldAt r.die 4 ||| fieldAt r.tempC 8

/-- The word of PWR_RAIL0–PWR_RAIL30 (R499). -/
def wordPwrRail (r : PwrRailReg) : Word :=
  fieldAt r.iMa 0 ||| fieldAt r.vMv 20 ||| fieldAt r.pg 36 ||| fieldAt r.fault 37

/-- The word of SEC_STATUS (R523). -/
def wordSecStatus (r : SecStatusReg) : Word :=
  fieldAt r.boot 0 ||| fieldAt r.recovery 2 ||| fieldAt r.dbgLevel 4 ||| fieldAt r.idKeyOk 6 ||| fieldAt r.itinSigned 7

/-- The word of SEC_FW0–SEC_FW3 (R523). -/
def wordSecFw (r : SecFwReg) : Word :=
  fieldAt r.version 0 ||| fieldAt r.bank 32 ||| fieldAt r.staged 33 ||| fieldAt r.pending 34 ||| fieldAt r.fallback 35

/-- The word of SEC_SVN (R523). -/
def wordSecSvn (r : SecSvnReg) : Word :=
  fieldAt r.secmon 0 ||| fieldAt r.serdes 8 ||| fieldAt r.innk 16 ||| fieldAt r.pxBoot 24

/-- The word of SEC_KEYS (R523). -/
def wordSecKeys (r : SecKeysReg) : Word :=
  fieldAt r.fused 0 ||| fieldAt r.revoked 16 ||| fieldAt r.debugMax 32

/-- The word of SEC_REFUSE (R523). -/
def wordSecRefuse (r : SecRefuseReg) : Word :=
  fieldAt r.itin 0 ||| fieldAt r.fw 16 ||| fieldAt r.debug 32

/-- The word of SEC_DBG_NONCE0–SEC_DBG_NONCE3 (R523). -/
def wordSecDbgNonce (r : SecDbgNonceReg) : Word :=
  fieldAt r.nonce 0

/-- The word of SEC_MR (R523). -/
def wordSecMr (r : SecMrReg) : Word :=
  fieldAt r.value 0

/-- The word of MGT_ID (R559). -/
def wordMgtId (r : MgtIdReg) : Word :=
  fieldAt r.slotId 0 ||| fieldAt r.staticAddr 8 ||| fieldAt r.dynAddr 16 ||| fieldAt r.eid 24 ||| fieldAt r.iana 32

/-- The word of MGT_STATUS (R559). -/
def wordMgtStatus (r : MgtStatusReg) : Word :=
  fieldAt r.ibiEn 0 ||| fieldAt r.receiver 1 ||| fieldAt r.updateMode 2 ||| fieldAt r.haltedCl 8 ||| fieldAt r.dropped 16

/-- The word of MGT_EVENT (R559). -/
def wordMgtEvent (r : MgtEventReg) : Word :=
  fieldAt r.trip 0 ||| fieldAt r.capUnmet 1 ||| fieldAt r.telemLost 2 ||| fieldAt r.inletHigh 3 ||| fieldAt r.flowLow 4 ||| fieldAt r.coolantWarn 5 ||| fieldAt r.innkHalted 6 ||| fieldAt r.innkFail 7 ||| fieldAt r.pxRefused 8 ||| fieldAt r.noRtPath 9 ||| fieldAt r.stateLoss 10 ||| fieldAt r.iodCut 11 ||| fieldAt r.pinFault 12

/-- The word of MGT_INTERF0 (R559). -/
def wordMgtInterf0 (r : MgtInterf0Reg) : Word :=
  fieldAt r.core 0 ||| fieldAt r.porter 32

/-- The word of MGT_INTERF1 (R559). -/
def wordMgtInterf1 (r : MgtInterf1Reg) : Word :=
  fieldAt r.net 0 ||| fieldAt r.px 32

/-- The word of MGT_INTERF2 (R559). -/
def wordMgtInterf2 (r : MgtInterf2Reg) : Word :=
  fieldAt r.flush 0

/-- The word of MGT_LINK0–MGT_LINK7 (R559). -/
def wordMgtLink (r : MgtLinkReg) : Word :=
  fieldAt r.corrected 0 ||| fieldAt r.resent 16 ||| fieldAt r.failed 32 ||| fieldAt r.live 48

end Sys2Proof.Machine
end

