-- ==== Sys2Proof/Machine/DeviceCmds.lean ====
section
/-! DEFINITION. The commands for the device, its clusters and its time (R347 to R350), and the stage configuration they share with
STG_CFG_NEXT (R52 to R54). -/

namespace Sys2Proof.Machine

/-- Stage the selected fields (R52, R53): first is the first whole second after the change was accepted, bells how many Bells a checkpoint
period or a watchdog limit waits. A command that changes both kinds completes with the later; it is given to the change that it waits for
last. -/
def stageCfg (len win ckpt wdog mask first bells : Nat) (cmd : Option Nat) (s : State) : State :=
  let lw := mask.testBit 0 || mask.testBit 1
  let cw := mask.testBit 2 || mask.testBit 3
  modStg (fun g => { g with pend := {
    lw := if lw then g.pend.lw ++ [{ len := if mask.testBit 0 then some len else none, win := if mask.testBit 1 then some win else none
                                     first := first, cmd := cmd }] else g.pend.lw
    cw := if cw then g.pend.cw ++ [{ ckpt := if mask.testBit 2 then some ckpt else none, wdog := if mask.testBit 3 then some wdog else none
                                     bells := bells, cmd := cmd }] else g.pend.cw } }) s

/-- `device.ident` (R347). -/
def doDeviceIdent (id : Nat) (s : State) : State :=
  withCmd id 0x0001 s (fun c => if !argsFit c [] then finishCmd id stBadArg 0 s else finishCmd id stOk Config.deviceId.toNat s)

/-- `device.caps` (R348). -/
def doDeviceCaps (id : Nat) (s : State) : State :=
  withCmd id 0x0002 s (fun c =>
    if !argsFit c [allBits, allBits] then finishCmd id stBadArg 0 s
    else if c.num 1 = 0 then emptyCmd id s
    else if c.num 1 ≠ 64 then finishCmd id stBadLen 0 s
    else match outRange s c (c.num 0) 64 with
      | some a => finishCmd id stDenied a s
      | none => writeOut id c (c.num 0) (capRecord s) 64 s)

/-- `cluster.offline` (R349): the cluster leaves service at a Bell. -/
def doClusterOffline (id : Nat) (s : State) : State :=
  withCmd id 0x0003 s (fun c =>
    let n := c.num 0
    if !argsFit c [0x3FF] || !clusterIdWf n then finishCmd id stBadArg 0 s
    else if !clusterFitted s n then finishCmd id stNoUnit 0 s
    else if !clusterLive s n then finishCmd id stOk 0 s
    else addAct (.clusterOffline n id) id (takeOffline n s))

/-- `time.status` (R22). -/
def doTimeStatus (id : Nat) (s : State) : State :=
  withCmd id 0x0010 s (fun c => if !argsFit c [] then finishCmd id stBadArg 0 s else finishCmd id stOk (wordStgTimeState s.stg.time).toNat s)

/-- `stage.config` (R52 to R54, R350): whether a cluster is bound, the second and the Bells are those of its acceptance. -/
def doStageConfig (id : Nat) (s : State) : State :=
  withCmd id 0x0011 s (fun c =>
    let v := c.arg 0
    let mask := c.num 1
    let len := bitsNat v 0 15
    let win := bitsNat v 16 10
    let ckpt := bitsNat v 32 16
    let wdog := bitsNat v 48 8
    if !argsFit c [0x00FFFFFF03FF7FFF, 0xF] then finishCmd id stBadArg 0 s
    else if mask = 0 then finishCmd id stOk (wordStgCfg s.stg.cfg).toNat s
    else if !stageCfgOk (cfgDecided s) len win ckpt wdog mask then finishCmd id stBadArg 0 s
    else if (mask.testBit 0 || mask.testBit 1) && c.seen.bound then finishCmd id stBusy 0 s
    else
      let s := waitCmd id (stageCfg len win ckpt wdog mask c.seen.first (2 - min 1 c.bells) (some id) s)
      modStg (fun g => { g with next := { g.next with
        lenUs := if mask.testBit 0 then BitVec.ofNat 15 len else g.next.lenUs
        winUs := if mask.testBit 1 then BitVec.ofNat 10 win else g.next.winUs
        ckptStages := if mask.testBit 2 then BitVec.ofNat 16 ckpt else g.next.ckptStages
        wdogBells := if mask.testBit 3 then BitVec.ofNat 8 wdog else g.next.wdogBells
        bad := 0#1, apply := 1#1 } }) s)

/-- A write of APPLY to STG_CFG_NEXT stages the register's values or refuses them, all of them (R54, R56). The fields of the write are
taken first. A change of length or window while a cluster is bound is not staged (R52). Values that equal those staged before wait with them. -/
def doCfgNextApply (value : Word) (s : State) : State :=
  if !innkBooted s then s
  else
    let len := bitsNat value 0 15
    let win := bitsNat value 16 10
    let ckpt := bitsNat value 32 16
    let wdog := bitsNat value 48 8
    let s := modStg (fun g => { g with next := { g.next with
      lenUs := BitVec.ofNat 15 len, winUs := BitVec.ofNat 10 win, ckptStages := BitVec.ofNat 16 ckpt, wdogBells := BitVec.ofNat 8 wdog } }) s
    if !value.getLsbD 63 then s
    else
      let c := cfgDecided s
      let mask := (if len = c.lenUs.toNat then 0 else 1) + (if win = c.winUs.toNat then 0 else 2) +
        (if ckpt = c.ckptStages.toNat then 0 else 4) + (if wdog = c.wdogBells.toNat then 0 else 8)
      let busy := (mask.testBit 0 || mask.testBit 1) && decide (0 < boundCount s)
      if !(lenWinOk len win && decide (0 < ckpt) && decide (0 < wdog)) then
        modStg (fun g => { g with next := { g.next with bad := 1#1, apply := 0#1 } }) s
      else if mask = 0 then modStg (fun g => { g with next := { g.next with bad := 0#1, apply := boolBit (!g.pend.lw.isEmpty || !g.pend.cw.isEmpty) } }) s
      else if busy then modStg (fun g => { g with next := { g.next with bad := 0#1, apply := 0#1 } }) s
      else
        modStg (fun g => { g with next := { g.next with bad := 0#1, apply := 1#1 } })
          (stageCfg len win ckpt wdog mask (firstSecond s) 2 none s)

/-- Writing 1 to a bit of STG_EVENTS_CLR clears that counter (R56). -/
def doEventsClr (value : Word) (s : State) : State :=
  if !innkBooted s then s
  else modStg (fun g => { g with events := {
    late := if value.getLsbD 0 then 0#16 else g.events.late
    held := if value.getLsbD 1 then 0#16 else g.events.held
    wdog := if value.getLsbD 2 then 0#16 else g.events.wdog
    slip := if value.getLsbD 3 then 0#16 else g.events.slip } }) s

/-- A write to CL_CTL of a cluster (R102, R349): a cluster once out of service does not return. -/
def doOffline (n : Nat) (value : Word) (s : State) : State :=
  if innkBooted s && clusterFitted s n then
    if value.getLsbD 0 then (if clusterLive s n && !(getCluster s n).offline then takeOffline n s else s)
    else if (getCluster s n).out then s
    else modCluster n (fun c => { c with offline := false }) s
  else s

/-- DEVICE_IDENT (R347). -/
def execDeviceIdent (cmd : Nat) (s : State) : Host.Outcome State Fault Refusal := .next (doDeviceIdent cmd s)
/-- DEVICE_CAPS (R348). -/
def execDeviceCaps (cmd : Nat) (s : State) : Host.Outcome State Fault Refusal := .next (doDeviceCaps cmd s)
/-- CLUSTER_OFFLINE (R349). -/
def execClusterOffline (cmd : Nat) (s : State) : Host.Outcome State Fault Refusal := .next (doClusterOffline cmd s)
/-- TIME_STATUS (R22). -/
def execTimeStatus (cmd : Nat) (s : State) : Host.Outcome State Fault Refusal := .next (doTimeStatus cmd s)
/-- STAGE_CONFIG (R350). -/
def execStageConfig (cmd : Nat) (s : State) : Host.Outcome State Fault Refusal := .next (doStageConfig cmd s)
/-- STG_CFG_NEXT_APPLY (R56). -/
def execStgCfgNextApply (value : Word) (s : State) : Host.Outcome State Fault Refusal := .next (doCfgNextApply value s)
/-- STG_EVENTS_CLR (R56). -/
def execStgEventsClr (value : Word) (s : State) : Host.Outcome State Fault Refusal := .next (doEventsClr value s)
/-- OFFLINE (R102). -/
def execOffline (cluster : Nat) (value : Word) (s : State) : Host.Outcome State Fault Refusal := .next (doOffline cluster value s)

end Sys2Proof.Machine
end

