-- ==== Sys2Proof/Machine/Monitor.lean ====
section
/-! DEFINITION. The security monitor's own operations (R500 to R505, R515): key slots, signature blocks, measurement registers, the debug
nonce. ML-DSA.Verify itself is the standard's, not the spec's: a free value. -/

namespace Sys2Proof.Machine

/-- Change the security monitor's state. -/
def modSec (f : Security → Security) (s : State) : State := { s with sec := f s.sec }

/-- A key slot. -/
def keySlot (s : State) (n : Nat) : KeySlot := tabGet {} s.sec.slots n

/-- A slot verifies signatures: fused and not revoked (R502). -/
def slotUsable (s : State) (n : Nat) : Bool := (keySlot s n).fused && !(keySlot s n).revoked

/-- The digest that a slot holds (R501). -/
def slotDigest (s : State) (n : Nat) : BitVec 256 := (keySlot s n).digest.getD (Config.madeKey n)

/-- Any of the owner's itinerary slots is fused (R505, R523). -/
def itinSigned (s : State) : Bool := [4, 5, 6, 7].any (fun n => (keySlot s n).fused)

/-- A 32-byte value from its bytes. -/
def digestAt (bs : List Byte) (off : Nat) : BitVec 256 := BitVec.ofNat 256 (fieldNat bs off 32)

/-- The bytes of a signature block (R503). -/
def sigBlockLen : Nat := 3780

/-- A signature block as its bytes hold it (R503). -/
def blockAt (bs : List Byte) : SigBlock :=
  { magic := BitVec.ofNat 32 (fieldNat bs 0 4), alg := BitVec.ofNat 16 (fieldNat bs 4 2), slot := fieldNat bs 6 1
    reservedZero := fieldNat bs 7 1 == 0 && fieldNat bs 0x28 8 == 0, digest := digestAt bs 8
    pubkey := (bs.drop 0x30).take 1312, sig := (bs.drop 0x550).take 2420 }

/-- The objects that are signed, by the number of their context string (R504, R557). -/
def ctxFw : Nat := 0
def ctxItin : Nat := 1
def ctxDbg : Nat := 2
def ctxFuse : Nat := 3

/-- Steps 1 and 2 of R504: the block is well formed and its digest is that of the covered bytes. -/
def blockCovers (covered : List Byte) (b : SigBlock) : Bool := b.magic == 0x53494731#32 && b.reservedZero && sha3 covered == b.digest

/-- R504: a signed object, given the slots that may sign it. -/
def verifySigned (s : State) (ctx : Nat) (slots : List Nat) (covered : List Byte) (b : SigBlock) : Bool :=
  blockCovers covered b && b.alg == 1#16 && slots.contains b.slot && slotUsable s b.slot && sha3 b.pubkey == slotDigest s b.slot &&
  Config.mldsaVerify ctx b.pubkey b.digest b.sig

/-- R505: an unsigned object. -/
def verifyUnsigned (covered : List Byte) (b : SigBlock) : Bool :=
  blockCovers covered b && b.alg == 0#16 && b.slot == 0 && b.pubkey.all (· == 0#8) && b.sig.all (· == 0#8)

/-- An itinerary image is approved (R514). -/
def itinApproved (s : State) (covered : List Byte) (b : SigBlock) : Bool :=
  verifySigned s ctxItin [4, 5, 6, 7] covered b || (!itinSigned s && verifyUnsigned covered b)

/-- A measurement register (R515). -/
def getMr (s : State) (n : Nat) : BitVec 256 := tabGet 0#256 s.sec.mrs n

/-- MRn takes SHA3-256 of its old value followed by a digest (R515). -/
def extendMr (n : Nat) (v : BitVec 256) (s : State) : State :=
  modSec (fun m => { m with mrs := tabSet 0#256 m.mrs n (sha3 (wordBytes 32 (getMr s n) ++ wordBytes 32 v)) }) s

/-- The debug nonce is replaced by fresh random bytes (R521, R557). -/
def freshNonce (s : State) : State :=
  let (r, s) := draw 256 s
  modSec (fun m => { m with nonce := r }) s

/-- Count a refusal (R523). -/
def refuseItin (s : State) : State := modSec (fun m => { m with refuse := { m.refuse with itin := satInc m.refuse.itin } }) s
def refuseFw (s : State) : State := modSec (fun m => { m with refuse := { m.refuse with fw := satInc m.refuse.fw } }) s
def refuseDbg (s : State) : State := modSec (fun m => { m with refuse := { m.refuse with debug := satInc m.refuse.debug } }) s

end Sys2Proof.Machine
end

