-- ==== Sys2Proof/Machine/ItinImage.lean ====
section
/-! DEFINITION. Itinerary images (R34, R35, R61, R62, R299, R351 to R354, R397, R423, R424): what `itinerary.load` reads of one and the
checks it makes. -/

namespace Sys2Proof.Machine

/-- The header of an image (R351). -/
structure ImgHdr where
  lenUs : Nat
  winUs : Nat
  ckpt : Nat
  degradeN : Nat
  imageLen : Nat
  codeOff : Nat
  codeLen : Nat
  degradeOff : Nat
  peerOff : Nat
  peerN : Nat
  sigOff : Nat
deriving DecidableEq, Repr

/-- The fields of a header. -/
def imgHdr (bs : List Byte) : ImgHdr :=
  { lenUs := fieldNat bs 8 2, winUs := fieldNat bs 0xA 2, ckpt := fieldNat bs 0xC 2, degradeN := fieldNat bs 0xE 1
    imageLen := fieldNat bs 0x10 8, codeOff := fieldNat bs 0x18 8, codeLen := fieldNat bs 0x20 8, degradeOff := fieldNat bs 0x28 8
    peerOff := fieldNat bs 0x30 8, peerN := fieldNat bs 0x38 2, sigOff := fieldNat bs 0x40 8 }

/-- The header is well formed (R354, order 3). -/
def hdrOk (bs : List Byte) : Bool :=
  let h := imgHdr bs
  fieldNat bs 0 4 == 0x54494E31 && fieldNat bs 4 2 == 1 && decide (fieldNat bs 6 2 < 2) && fieldNat bs 0xF 1 == 0 &&
  fieldNat bs 0x3A 6 == 0 && fieldNat bs 0x48 56 == 0 &&
  lenWinOk h.lenUs h.winUs && decide (0 < h.ckpt) && decide (0 < h.degradeN) && decide (h.degradeN ≤ 64) && decide (h.peerN ≤ 16384) &&
  h.codeOff % 8 == 0 && h.codeLen % 8 == 0

/-- What a scan of a part of an image finds: a table that begins outside the signed content, one that runs past it, a broken rule. -/
structure Scan where
  beyond : Bool := false
  past : Bool := false
  bad : Bool := false
deriving DecidableEq, Repr

/-- Findings together. -/
def Scan.and (a b : Scan) : Scan := { beyond := a.beyond || b.beyond, past := a.past || b.past, bad := a.bad || b.bad }

/-- All findings of a list. -/
def scanAll (xs : List Scan) : Scan := xs.foldl Scan.and {}

/-- Nothing is found. -/
def Scan.clear (a : Scan) : Bool := !a.beyond && !a.past && !a.bad

/-- A table of some bytes at an offset, and what is found inside it if it lies within the signed content. -/
def scanTable (sig off len : Nat) (inside : Unit → Scan) : Scan :=
  if len = 0 then {}
  else if sig ≤ off then { beyond := true }
  else if sig < off + len then { past := true }
  else inside ()

/-- The bits of TARGET that an entry of a kind reads: a logical cluster, a porter, a peer; the others are reserved (R16, R34). -/
def targetBits (kind : Nat) : Nat :=
  match kind with | 1 => 10 | 2 => 4 | 3 => 14 | 4 => 14 | _ => 16

/-- A leg entry (R34). -/
def entryAt (bs : List Byte) (off : Nat) : Entry :=
  { kind := fieldNat bs off 1, target := fieldNat bs (off + 2) 2 % 2 ^ targetBits (fieldNat bs off 1), offset := fieldNat bs (off + 4) 4 % 2 ^ 25, desc := fieldNat bs (off + 8) 8 }

/-- The entries of a leg table up to its END, and whether there is one before a limit. -/
def legEntries (bs : List Byte) (limit : Nat) : Nat → Nat → List Entry × Bool
  | 0, _ => ([], false)
  | fuel + 1, off =>
    if limit < off + 16 then ([], false)
    else
      let e := entryAt bs off
      if e.kind = 0 then ([e], true)
      else let (r, ok) := legEntries bs limit fuel (off + 16); (e :: r, ok)

/-- A peer-table entry, and whether it is well formed (R352). -/
def peerEntry (bs : List Byte) (off : Nat) : Peer × Bool :=
  let kind := fieldNat bs off 1
  if kind = 1 then (.device (fieldWord bs (off + 8)), fieldNat bs (off + 1) 7 == 0)
  else (.guest (fieldNat bs (off + 2) 2 % 2 ^ 14),
    kind == 2 && fieldNat bs (off + 1) 1 == 0 && decide (fieldNat bs (off + 2) 2 < 2 ^ 14) && fieldNat bs (off + 4) 12 == 0)

/-- A launch record breaks R62. -/
def launchBad (h : ImgHdr) (bs : List Byte) (off : Nat) : Bool :=
  let entry := fieldNat bs off 8
  let n := fieldNat bs (off + 9) 1
  let g := fieldNat bs (off + 10) 1
  off % 16 != 0 || entry % 8 != 0 || decide (entry < h.codeOff) || decide (h.codeOff + h.codeLen ≤ entry) || decide (16 < n) ||
  decide (16 < g) || decide (64 < n * g) || fieldNat bs (off + 11) 5 != 0

/-- A porter descriptor breaks R424. -/
def porterDescBad (peers : List Peer) (bs : List Byte) (off : Nat) : Bool :=
  let d := moveDesc (bs.drop off) (.cmd 0 0)
  let flags := fieldNat bs (off + 1) 1
  let guest := fieldNat bs (off + 2) 2
  let fixed := off % 64 != 0 || d.op == 0 || decide (4 < d.op) || decide (1 < flags) || (flags == 1 && d.op != 3) || decide (2 ^ 14 ≤ guest) ||
    (guest != 0 && decide (d.op < 3)) || fieldNat bs (off + 4) 4 != 0 || fieldNat bs (off + 0x28) 24 != 0 ||
    (d.src != 0 && d.op == 2) || (d.pattern != 0#64 && d.op != 2)
  fixed || (d.len != 0 && (d.src % 32 != 0 || d.dst % 32 != 0 || d.len % 32 != 0 || (d.op == 1 && overlaps d.src d.len d.dst d.len) ||
    (decide (3 ≤ d.op) && !peers.contains (.guest guest))))

/-- A transfer descriptor breaks R397. -/
def xferDescBad (send : Bool) (peer : Option Peer) (bs : List Byte) (off : Nat) : Bool :=
  let toGuest := send && (match peer with | some (.guest _) => true | _ => false)
  let flags := fieldNat bs (off + 0x18) 1
  fieldNat bs off 8 % 32 != 0 || fieldNat bs (off + 8) 8 % 32 != 0 || (fieldNat bs (off + 0x10) 8 != 0 && !toGuest) || decide (1 < flags) ||
  (flags == 1 && !toGuest) || fieldNat bs (off + 0x19) 7 != 0

/-- One entry of a leg and what it names (R35, R62, R397, R424). -/
def entryScan (h : ImgHdr) (peers : List Peer) (clusters : Nat) (bs : List Byte) (e : Entry) : Scan :=
  let late := decide ((h.lenUs - h.winUs) * 1000 ≤ e.offset)
  match e.kind with
  | 0 => { bad := e.target != 0 || e.offset != 0 || e.desc != 0 }
  | 1 => Scan.and { bad := late || decide (e.offset < 1000) || decide (clusters ≤ e.target) || e.desc % 16 != 0 }
      (scanTable h.sigOff e.desc 80 (fun _ => { bad := launchBad h bs e.desc }))
  | 2 => Scan.and { bad := late || decide (16 ≤ e.target) } (scanTable h.sigOff e.desc 64 (fun _ => { bad := porterDescBad peers bs e.desc }))
  | 3 => Scan.and { bad := late || decide (h.peerN ≤ e.target) }
      (scanTable h.sigOff e.desc 32 (fun _ => { bad := xferDescBad true peers[e.target]? bs e.desc }))
  | 4 => Scan.and { bad := late || decide (h.peerN ≤ e.target) }
      (scanTable h.sigOff e.desc 32 (fun _ => { bad := xferDescBad false peers[e.target]? bs e.desc }))
  | _ => { bad := true }

/-- Offsets never fall. -/
def risingOffsets : List Entry → Bool
  | a :: b :: t => (b.kind == 0 || decide (a.offset ≤ b.offset)) && risingOffsets (b :: t)
  | _ => true

/-- A leg table (R35). -/
def legScan (h : ImgHdr) (peers : List Peer) (clusters : Nat) (bs : List Byte) (off : Nat) : Scan :=
  if h.sigOff ≤ off then { beyond := true }
  else
    let (es, ok) := legEntries bs h.sigOff (h.sigOff / 16 + 1) off
    Scan.and { past := !ok, bad := decide (65536 < es.length) || !risingOffsets es } (scanAll (es.map (entryScan h peers clusters bs)))

/-- The offsets of the leg tables that a directory names, and how many are the prologue's (R353). -/
def legDirectory (bs : List Byte) (off : Nat) : Nat × List Nat :=
  let n := fieldNat bs off 4 + fieldNat bs (off + 4) 4
  (fieldNat bs off 4, (List.range n).map (fun i => fieldNat bs (off + 8 + 8 * i) 8))

/-- The cluster that a placement entry names; its bits [15:10] are reserved (R16, R299, R357). -/
def placeEntry (bs : List Byte) (off : Nat) : Nat := fieldNat bs off 2 % 1024

/-- A degraded-table entry with the body it names (R299, R353). -/
def bodyAt (bs : List Byte) (off : Nat) : Body :=
  let n := fieldNat bs off 2
  let place := fieldNat bs (off + 8) 8
  let dir := legDirectory bs (fieldNat bs (off + 0x10) 8)
  { clusters := n, cdNeed := fieldNat bs (off + 2) 1, msNeed := fieldNat bs (off + 3) 1
    place := (List.range n).map (fun i => placeEntry bs (place + 2 * i)), nPro := dir.1, legs := dir.2 }

/-- A degraded-table entry, its placement table, its leg directory and its legs (R59, R299, R353). -/
def bodyScan (h : ImgHdr) (peers : List Peer) (bs : List Byte) (off : Nat) : Scan :=
  let n := fieldNat bs off 2
  let place := fieldNat bs (off + 8) 8
  let body := fieldNat bs (off + 0x10) 8
  let legs := fieldNat bs body 4 + fieldNat bs (body + 4) 4
  scanAll [
    { bad := n == 0 || decide (768 < n) || fieldNat bs (off + 4) 4 != 0 || fieldNat bs (off + 0x18) 8 != 0 },
    scanTable h.sigOff place (2 * n) (fun _ => { bad := !((List.range n).all (fun i => clusterIdWf (placeEntry bs (place + 2 * i)))) }),
    scanTable h.sigOff body 8 (fun _ => scanTable h.sigOff body (8 + 8 * legs) (fun _ =>
      scanAll ((legDirectory bs body).2.map (legScan h peers n bs))))]

/-- The whole image (R354, orders 5 to 7). -/
def imageScan (bs : List Byte) : Scan :=
  let h := imgHdr bs
  let ps := (List.range h.peerN).map (fun i => peerEntry bs (h.peerOff + 16 * i))
  let peersIn := h.peerN == 0 || decide (h.peerOff + 16 * h.peerN ≤ h.sigOff)
  let peers := if peersIn then ps.map (·.1) else []
  scanAll [
    scanTable h.sigOff h.codeOff h.codeLen (fun _ => {}),
    scanTable h.sigOff h.peerOff (16 * h.peerN) (fun _ => { bad := !ps.all (·.2) }),
    scanTable h.sigOff h.degradeOff (32 * h.degradeN) (fun _ => Scan.and
      { bad := !((List.range h.degradeN).all (fun i =>
          fieldNat bs (fieldNat bs (h.degradeOff + 32 * i + 0x10) 8) 8 == fieldNat bs (fieldNat bs (h.degradeOff + 0x10) 8) 8)) }
      (scanAll ((List.range h.degradeN).map (fun i => bodyScan h peers bs (h.degradeOff + 32 * i)))))]

/-- What the Innkeeper keeps of an image. -/
def imageOf (base : Nat) (bs : List Byte) : Image :=
  let h := imgHdr bs
  { base := base, len := h.imageLen, det := fieldNat bs 6 2 == 1, lenUs := h.lenUs, winUs := h.winUs, ckptStages := h.ckpt
    codeOff := h.codeOff, codeLen := h.codeLen
    bodies := (List.range h.degradeN).map (fun i => bodyAt bs (h.degradeOff + 32 * i))
    peers := (List.range h.peerN).map (fun i => (peerEntry bs (h.peerOff + 16 * i)).1) }

/-- The devices named by peer tables. -/
def peerDevices (i : Image) : List Word := i.peers.filterMap (fun p => match p with | .device d => some d | .guest _ => none)
def allPeerDevices (s : State) : List Word :=
  (s.itins.flatMap (fun p => match p.2 with | some i => peerDevices i.image | none => [])).eraseDups

/-- The status of the first check of R354 that an image of LEN bytes fails, its range having passed. -/
def imageStatus (s : State) (bs : List Byte) : Option (BitVec 16) :=
  let h := imgHdr bs
  let f := imageScan bs
  if bs.length < 128 then some stBadLen
  else if !hdrOk bs then some stBadArg
  else if bs.length ≠ h.imageLen ∨ h.imageLen ≠ h.sigOff + sigBlockLen then some stBadLen
  else if f.beyond then some stBadArg
  else if f.past then some stBadLen
  else if f.bad then some stBadArg
  else if !itinApproved s (bs.take h.sigOff) (blockAt (bs.drop h.sigOff)) then some stDenied
  else if 4096 ≤ s.itins.length ∨ 4096 < (allPeerDevices s ++ peerDevices (imageOf 0 bs)).eraseDups.length then some stBusy
  else none

/-- A range lies wholly inside one sealed region. -/
def inSealed (s : State) (a n : Nat) : Bool := s.regions.any (fun r => r.sealed && decide (r.base ≤ a) && decide (a + n ≤ r.base + r.len))

/-- The lowest free itinerary slot. -/
def freeSlot (s : State) : Nat := ((List.range 4096).find? (fun k => (getItin s k).isNone)).getD 0

/-- `itinerary.load` (R354, R383, R514). -/
def doItineraryLoad (id : Nat) (s : State) : State :=
  withCmd id 0x0101 s (fun c =>
    if !argsFit c [allBits, allBits] then finishCmd id stBadArg 0 s
    else if c.num 1 = 0 then emptyCmd id s
    else match cmdRange s c false (c.num 0) (c.num 1) with
      | some a => finishCmd id stDenied a s
      | none =>
        if !inSealed s (c.num 0) (c.num 1) then finishCmd id stDenied 0 s
        else
          let (r, s) := homeReadBytes .innkeeper (c.num 0) (c.num 1) s
          match r with
          | none => s
          | some bs =>
            match imageStatus s bs with
            | some st => finishCmd id st 0 (if st = stDenied then refuseItin s else s)
            | none =>
              let h := imgHdr bs
              let b := blockAt (bs.drop h.sigOff)
              let img := imageOf (c.num 0) bs
              let k := freeSlot s
              let s := extendMr 8 (sha3 (natBytes 2 b.slot ++ wordBytes 32 b.digest)) s
              let s := setItin k (some { image := img }) s
              let s := forEach (peerDevices img) (fun d t => if Config.isT4 d then t else openConn (.device d) t) s
              finishCmd id stOk (2 ^ 63 + k) s)

/-- ITINERARY_LOAD (R354). -/
def execItineraryLoad (cmd : Nat) (s : State) : Host.Outcome State Fault Refusal := .next (doItineraryLoad cmd s)

end Sys2Proof.Machine
end

