-- ==== Sys2Proof/Machine/RegionCmds.lean ====
section
/-! DEFINITION. The commands on regions (R209, R257, R279, R364 to R368) and the address map as the decided effects will leave it (R327,
R343). -/

namespace Sys2Proof.Machine

/-- The region of the decided map with a base. -/
def decidedAt (s : State) (base : Nat) : Option Region := (mapDecided s).find? (fun r => r.base == base)

/-- The stack whose memory serves a region, and the range it takes there (R256, R261). -/
def Region.held (r : Region) : List (Nat × Nat) :=
  if r.fromCopy then [(r.base, r.len), (copyAddr r.base, r.len)]
  else if r.mirrored then [(r.base, r.len), (copyAddr r.base, r.len)] else [(r.base, r.len)]

/-- A page lies in a region, or in the copy of one, that a decided effect unmaps. -/
def leavingPage (s : State) (a : Nat) : Bool :=
  s.innk.acts.any (fun x => match x with
    | .unmap base _ => s.regions.any (fun r => r.base == base && r.held.any (fun h => overlaps h.1 h.2 a 4096))
    | _ => false)

/-- Retired pages that no longer serve a region once every decided effect is in force (R266, R343). -/
def retiredPages (s : State) : List Nat :=
  s.ctls.flatMap (fun p => p.2.retired.filterMap (fun e =>
    if e.2.valid == 1#1 && (e.2.pending == 0#1 || leavingPage s e.2.addr.toNat) then some e.2.addr.toNat else none))

/-- The lowest address of a range that other regions, their copies, the runtime pigeonhole region, its copy, or a retired page hold
(R257, R310, R364). A region may be left out. -/
def mapConflict (s : State) (base len : Nat) (skip : Option Nat) : Option Nat :=
  let taken := ((mapDecided s).filter (fun r => skip != some r.base)).flatMap Region.held ++
    [(runtimeAreaBase, runtimeAreaLen), (copyAddr runtimeAreaBase, runtimeAreaLen)] ++ (retiredPages s).map (fun a => (a, 4096))
  (taken.filter (fun p => overlaps p.1 p.2 base len)).foldl (fun m p =>
    let a := max p.1 base
    match m with | some x => some (min x a) | none => some a) none

/-- A region holds the command area of a pigeonhole that is not CLOSED. -/
def holdsArea (s : State) (r : Region) : Bool :=
  overlaps r.base r.len runtimeAreaBase runtimeAreaLen ||
  s.innk.phs.any (fun p => match p.2 with | some h => decide (64 ≤ p.1) && h.st != .closed && overlaps r.base r.len h.area 0x8000 | none => false)

/-- `region.map` (R198, R364). -/
def doRegionMap (id : Nat) (s : State) : State :=
  withCmd id 0x0301 s (fun c =>
    let base := c.num 0
    let len := c.num 1
    let v := c.arg 2
    let ro := v.getLsbD 0
    let policy := bitsNat v 1 2
    let bypass := v.getLsbD 3
    let keep := v.getLsbD 4
    let pkey := bitsNat v 8 8
    let old := (decidedAt s base).filter (fun r => r.len == len)
    if !argsFit c [allBits, allBits, 0xFF1F] then finishCmd id stBadArg 0 s
    else if len = 0 then emptyCmd id s
    else if base % 4096 != 0 || !inDevice base len || stackOf base != stackOf (base + len - 1) || (bypass && !ro) then finishCmd id stBadArg 0 s
    else if len % 4096 ≠ 0 then finishCmd id stBadLen 0 s
    else if !stackLive s (stackOf base) then finishCmd id stNoUnit 0 s
    else match mapConflict s base len (old.map (·.base)) with
      | some a => finishCmd id stDenied a s
      | none =>
        match old with
        | some r =>
          let breaks := holdsArea s r && !(keep && policy == 1 && r.mirrored)
          if (r.sealed && !ro) || breaks then finishCmd id stDenied 0 s
          else addAct (.mapAttr base ro policy bypass keep pkey id) id s
        | none =>
          if 65536 ≤ (mapDecided s).length then finishCmd id stDenied 0 s
          else addAct (.mapNew { base := base, len := len, ro := ro, policy := policy, bypass := bypass, keep := keep, pkey := pkey } id) id s)

/-- A region holds the image of a resident itinerary, one that is being evicted included (R354, R355). -/
def holdsImage (s : State) (r : Region) : Bool :=
  s.itins.any (fun p => match p.2 with | some i => r.has i.image.base | none => false)

/-- `region.unmap` (R365). -/
def doRegionUnmap (id : Nat) (s : State) : State :=
  withCmd id 0x0302 s (fun c =>
    if !argsFit c [allBits] then finishCmd id stBadArg 0 s
    else match decidedAt s (c.num 0) with
      | none => finishCmd id stBadArg 0 s
      | some r =>
        if r.base = runtimeAreaBase then finishCmd id stDenied 0 s
        else if holdsImage s r || holdsArea s r then finishCmd id stBusy 0 s
        else addAct (.unmap r.base id) id s)

/-- `region.seal` (R279, R366). -/
def doRegionSeal (id : Nat) (s : State) : State :=
  withCmd id 0x0303 s (fun c =>
    if !argsFit c [allBits] then finishCmd id stBadArg 0 s
    else match decidedAt s (c.num 0) with
      | none => finishCmd id stBadArg 0 s
      | some r => if r.sealed then finishCmd id stOk 0 s else addAct (.sealRegion r.base id) id s)

/-- `region.mirror` (R257, R366). -/
def doRegionMirror (id : Nat) (s : State) : State :=
  withCmd id 0x0304 s (fun c =>
    if !argsFit c [allBits, 1] then finishCmd id stBadArg 0 s
    else match decidedAt s (c.num 0) with
      | none => finishCmd id stBadArg 0 s
      | some r =>
        if c.num 1 = 0 then
          if holdsArea s r then finishCmd id stDenied 0 s else addAct (.mirrorOff r.base id) id s
        else if r.mirrored then finishCmd id stOk 0 s
        else if r.fromCopy || !stackLive s (partnerOf (stackOf r.base)) || !halfLive s (partnerOf (stackOf r.base)) then finishCmd id stNoUnit 0 s
        else match mapConflict s (copyAddr r.base) r.len (some r.base) with
          | some a => finishCmd id stDenied a s
          | none => addAct (.mirrorOn r.base id) id s)

/-- What `region.pin` and `region.unpin` check alike (R367). -/
def pinChecks (id : Nat) (c : Cmd) (s : State) (go : State) : State :=
  let a := c.num 0
  let n := c.num 1
  let rs := mapDecided s
  let at_ (x : Nat) : Option Region := rs.find? (·.has x)
  let edges := rs.flatMap (fun r => [r.base, r.base + r.len])
  if !argsFit c [allBits, allBits] then finishCmd id stBadArg 0 s
  else if n = 0 then emptyCmd id s
  else if a % 128 != 0 || (lowestBad edges a n (fun x => (at_ x).isNone)).isSome then finishCmd id stBadArg 0 s
  else if n % 128 ≠ 0 then finishCmd id stBadLen 0 s
  else if (lowestBad edges a n (fun x => match at_ x with | some r => !halfLive s (r.home x) | none => false)).isSome then finishCmd id stNoUnit 0 s
  else go

/-- `region.pin` (R209, R367). -/
def doRegionPin (id : Nat) (s : State) : State :=
  withCmd id 0x0305 s (fun c => pinChecks id c s (addAct (.pin (c.num 0) (c.num 1) id) id s))

/-- `region.unpin` (R367). -/
def doRegionUnpin (id : Nat) (s : State) : State :=
  withCmd id 0x0306 s (fun c => pinChecks id c s (addAct (.unpin (c.num 0) (c.num 1) id) id s))

/-- The region word (R368). -/
def regionWord (r : Region) : Nat :=
  r.base % 2 ^ 52 + r.ro.toNat * 2 ^ 52 + (r.policy % 4) * 2 ^ 53 + r.bypass.toNat * 2 ^ 55 + r.keep.toNat * 2 ^ 56 + r.sealed.toNat * 2 ^ 57 +
  r.mirrored.toNat * 2 ^ 58 + 2 ^ 63

/-- `region.query` (R368). -/
def doRegionQuery (id : Nat) (s : State) : State :=
  withCmd id 0x0307 s (fun c =>
    if !argsFit c [allBits] then finishCmd id stBadArg 0 s
    else finishCmd id stOk (match regionAt s (c.num 0) with | some r => regionWord r | none => 0) s)

/-- REGION_MAP (R364). -/
def execRegionMap (cmd : Nat) (s : State) : Host.Outcome State Fault Refusal := .next (doRegionMap cmd s)
/-- REGION_UNMAP (R365). -/
def execRegionUnmap (cmd : Nat) (s : State) : Host.Outcome State Fault Refusal := .next (doRegionUnmap cmd s)
/-- REGION_SEAL (R366). -/
def execRegionSeal (cmd : Nat) (s : State) : Host.Outcome State Fault Refusal := .next (doRegionSeal cmd s)
/-- REGION_MIRROR (R366). -/
def execRegionMirror (cmd : Nat) (s : State) : Host.Outcome State Fault Refusal := .next (doRegionMirror cmd s)
/-- REGION_PIN (R367). -/
def execRegionPin (cmd : Nat) (s : State) : Host.Outcome State Fault Refusal := .next (doRegionPin cmd s)
/-- REGION_UNPIN (R367). -/
def execRegionUnpin (cmd : Nat) (s : State) : Host.Outcome State Fault Refusal := .next (doRegionUnpin cmd s)
/-- REGION_QUERY (R368). -/
def execRegionQuery (cmd : Nat) (s : State) : Host.Outcome State Fault Refusal := .next (doRegionQuery cmd s)

end Sys2Proof.Machine
end

