-- ==== Sys2Proof/Machine/PorterCmds.lean ====
section
/-! DEFINITION. The commands that porters carry out (R324, R369, R370, R425) and the commands on guests (R335, R371, R372, R394, R519). -/

namespace Sys2Proof.Machine

/-- The bytes queued in both queues of a porter. -/
def Porter.queued (p : Porter) : Nat := ((p.legQ ++ p.cmdQ).map (fun d => d.len - d.moved)).foldl (· + ·) 0

/-- The porter a command piece goes to: of those whose command queue has a place, the one with the fewest bytes queued (R425). -/
def choosePorter (s : State) : Option Nat :=
  ((List.range 16).filter (fun p => decide ((getPorter s p).cmdQ.length < 32))).foldl (fun m p =>
    match m with
    | some q => if (getPorter s p).queued < (getPorter s q).queued then some p else some q
    | none => some p) none

/-- A piece moves at most 16 MiB (R324). -/
def pieceLen : Nat := 2 ^ 24

/-- The next piece of a porter command enters a porter's queue; the command's next piece goes to the tail of its class queue (R324,
R425), one that a restart has put back before a new one (R307); none of a lost guest's command (R336). While every command queue is full
it waits. -/
def placePiece (id : Nat) (c : Cmd) (whole : Desc) (s : State) : State :=
  match choosePorter s with
  | none => s
  | some p =>
    let n := c.again.headD c.piece
    let off := n * pieceLen
    let d := { whole with src := if whole.op = 2 then 0 else whole.src + off, dst := whole.dst + off, len := min pieceLen (whole.len - off)
                          owner := .cmd id n }
    let next := if c.again.isEmpty then c.piece + 1 else c.piece
    let left := !c.again.tail.isEmpty || decide (next * pieceLen < whole.len)
    let more := left && c.lost.isNone
    let s := modPorter p (fun x => { x with cmdQ := x.cmdQ ++ [d] }) s
    let s := modCmd id (fun y => { y with
      piece := next, again := y.again.tail, outstanding := y.outstanding + 1, phase := if more then .queued else .waiting
      lost := if left then y.lost.map (fun _ => false) else y.lost }) s
    if more then enqueue c.cls id s else s

/-- An empty porter command: its descriptor counts in PTR_REFUSE.EMPTY (R432). -/
def emptyPiece (id : Nat) (s : State) : State :=
  match choosePorter s with
  | none => s
  | some p => emptyCmd id (modPorter p (fun x => { x with run := { x.run with refuse := { x.run.refuse with empty := satInc x.run.refuse.empty } } }) s)

/-- The lower of what R341 says of two ranges. -/
def bothRanges (s : State) (c : Cmd) (r w : Option (Nat × Nat)) : Option Nat :=
  lower (r.bind (fun p => cmdRange s c false p.1 p.2)) (w.bind (fun p => cmdRange s c true p.1 p.2))

/-- A porter command, its arguments read: the checks of R369 at its first piece, and the piece dispatched. -/
def porterCmd (id : Nat) (c : Cmd) (masks : List Nat) (d : Desc) (s : State) : State :=
  let device := (if d.op = 1 ∨ d.op = 3 then [d.src] else []) ++ (if d.op = 3 then [] else [d.dst])
  if 0 < c.piece then placePiece id c d s
  else if !argsFit c masks then finishCmd id stBadArg 0 s
  else if d.len = 0 then emptyPiece id s
  else if device.any (fun a => a % 32 != 0) || (d.op == 1 && overlaps d.src d.len d.dst d.len) then finishCmd id stBadArg 0 s
  else if d.len % 32 ≠ 0 then finishCmd id stBadLen 0 s
  else match bothRanges s c (if d.op = 1 ∨ d.op = 3 then some (d.src, d.len) else none) (if d.op = 3 then none else some (d.dst, d.len)) with
    | some a => finishCmd id stDenied a s
    | none =>
      let st := (getPh s (64 + d.guest)).st
      if d.op < 3 ∨ st = .open_ then placePiece id c d s
      else finishCmd id (if st = .lost then stGuestLost else stDenied) 0 s

/-- `porter.copy` (R369). -/
def doPorterCopy (id : Nat) (s : State) : State :=
  withCmd id 0x0401 s (fun c => porterCmd id c [allBits, allBits, allBits]
    { op := 1, flush := false, guest := 0, src := c.num 0, dst := c.num 1, len := c.num 2, pattern := 0#64, owner := .cmd id 0 } s)

/-- `porter.fill` (R369). -/
def doPorterFill (id : Nat) (s : State) : State :=
  withCmd id 0x0402 s (fun c => porterCmd id c [allBits, allBits, allBits]
    { op := 2, flush := false, guest := 0, src := 0, dst := c.num 0, len := c.num 1, pattern := c.arg 2, owner := .cmd id 0 } s)

/-- `porter.push` (R369). -/
def doPorterPush (id : Nat) (s : State) : State :=
  withCmd id 0x0403 s (fun c => porterCmd id c [allBits, allBits, allBits, 0x3FFF]
    { op := 3, flush := c.flush, guest := c.num 3, src := c.num 0, dst := c.num 1, len := c.num 2, pattern := 0#64, owner := .cmd id 0 } s)

/-- `porter.pull` (R369). -/
def doPorterPull (id : Nat) (s : State) : State :=
  withCmd id 0x0404 s (fun c => porterCmd id c [allBits, allBits, allBits, 0x3FFF]
    { op := 4, flush := false, guest := c.num 3, src := c.num 0, dst := c.num 1, len := c.num 2, pattern := 0#64, owner := .cmd id 0 } s)

/-- A guest's window once every decided effect is in force. -/
def windowDecided (s : State) (g : Nat) : Option (Nat × Nat × Nat) :=
  s.innk.acts.foldl (fun w a => match a with
    | .window g' b l k _ => if g' = g then some (b, l, k) else w
    | _ => w) (getGuest s g).window

/-- The endpoint record of a guest (R394). -/
def endpointAt (bs : List Byte) : Endpoint :=
  { port := fieldNat bs 1 1, ipver := fieldNat bs 2 1, dscp := fieldNat bs 3 1, qpn := fieldNat bs 4 4, psn := fieldNat bs 8 4
    rkey := BitVec.ofNat 32 (fieldNat bs 12 4), ip := BitVec.ofNat 128 (bytesNat ((bs.drop 16).take 16).reverse), pmtu := fieldNat bs 0x20 2 }

/-- The endpoint record keeps its table (R394). An IPv4 address stands in the IPv4-mapped form. -/
def endpointOk (s : State) (roce : Bool) (bs : List Byte) : Bool :=
  let e := endpointAt bs
  let v4 := e.ip.toNat / 2 ^ 32 == 0xFFFF
  bs.length == 64 && fieldNat bs 0 1 == 1 && (e.ipver == 4 || e.ipver == 6) && decide (e.dscp < 64) && (e.ipver == 6 || v4) &&
  fieldNat bs 0x22 30 == 0 &&
  (if roce then
    decide (e.port < 8) && decide (e.qpn < 2 ^ 24) && decide (e.psn < 2 ^ 24) && (e.pmtu == 1024 || e.pmtu == 2048 || e.pmtu == 4096) &&
      (e.ipver == 6 || (portIp4 s e.port).isSome)
  else (decide (e.port < 8) || e.port == 0xFF) && e.qpn == 0 && e.psn == 0 && e.rkey == 0#32 && e.pmtu == 4096 && e.ipver == 6)

/-- A command area lies in a region that R281 and R311 allow. -/
def areaOk (s : State) (area : Nat) : Bool :=
  area % 0x8000 == 0 && (mapDecided s).any (fun r =>
    decide (r.base ≤ area) && decide (area + 0x8000 ≤ r.base + r.len) && r.keep && r.mirrored && r.policy == 1)

/-- An area overlaps that of another pigeonhole, or one that another guest is being opened with. -/
def areaTaken (s : State) (g area : Nat) : Bool :=
  overlaps area 0x8000 runtimeAreaBase runtimeAreaLen ||
  s.innk.phs.any (fun p => match p.2 with | some h => p.1 != 64 + g && decide (64 ≤ p.1) && h.st != .closed && overlaps area 0x8000 h.area 0x8000 | none => false) ||
  s.net.guests.any (fun p => match p.2.openArgs with | some (a, _, _, _) => p.1 != g && overlaps area 0x8000 a 0x8000 | none => false)

/-- A guest's transport is set up from its endpoint record (R383, R391): a RoCEv2 guest is connected once its port is up, a Relay guest
once its HELLO is answered. -/
def startTransport (g : Nat) (roce : Bool) (e : Endpoint) (s : State) : State :=
  let s := modGuest g (fun x => { x with
    transport := some (if roce then .roce else .relay), endpoint := some e
    qp := if roce then some { txPsn := 0, rxPsn := e.psn } else none }) s
  if roce then (if portUp s e.port then guestConnected g s else s)
  else
    let s := openConn (.guest g) s
    modGuest g (fun x => { x with conn := connOf s (.guest g) }) s

/-- `guest.open` (R335, R371). While a SEAL word waits for a processor cache the connected guest's opening is tried again. -/
def doGuestOpen (id : Nat) (s : State) : State :=
  withCmd id 0x0501 s (fun c =>
    if (getGuest s (c.num 0)).connected && (getGuest s (c.num 0)).openCmd == some id then openPh (c.num 0) id s else
    let g := c.num 0
    let area := c.num 1
    let cq := c.num 2
    let maxIn := bitsNat (c.arg 3) 0 9
    let urgent := (c.arg 3).getLsbD 9
    let tr := bitsNat (c.arg 3) 16 2
    if !argsFit c [0x3FFF, allBits, allBits, 0x303FF, allBits] || !areaOk s area || cq % 0x2000 != 0 || maxIn == 0 || decide (256 < maxIn) ||
        (tr != 1 && tr != 2) then finishCmd id stBadArg 0 s
    else match cmdRange s c false (c.num 4) 64 with
      | some a => finishCmd id stDenied a s
      | none =>
        let (r, s) := homeReadBytes .innkeeper (c.num 4) 64 s
        match r with
        | none => s
        | some bs =>
          let w := (windowDecided s g).filter (fun w => decide (0 < w.2.1))
          let st := (getPh s (64 + g)).st
          if !endpointOk s (tr == 1) bs then finishCmd id stBadArg 0 s
          else if areaTaken s g area || w.isNone then finishCmd id stDenied 0 s
          else if st = .open_ ∨ st = .draining then finishCmd id stBusy 0 s
          else
            let s := waitCmd id (endTransport g s)
            startTransport g (tr == 1) (endpointAt bs) (modGuest g (fun x => { x with openCmd := some id, openArgs := some (area, cq, maxIn, urgent) }) s))

/-- `guest.close` (R334, R335, R372); DRAINING began at its acceptance, unless the pigeonhole opened since. -/
def doGuestClose (id : Nat) (s : State) : State :=
  withCmd id 0x0502 s (fun c =>
    let g := c.num 0
    let ph := 64 + g
    if !argsFit c [0x3FFF] then finishCmd id stBadArg 0 s
    else match (getPh s ph).st with
      | .closed => finishCmd id stOk 0 s
      | .lost => finishCmd id stOk 0 (modPh ph (fun p => { p with st := .closed, lostLog := [] }) s)
      | _ =>
        let s := modPh ph (fun p => { p with st := .draining, full := [] }) (waitCmd id s)
        settleDrain g (modGuest g (fun x => { x with closeCmds := x.closeCmds ++ [id] }) s))

/-- The area of a guest's pigeonhole lies inside a window, in a region with its key (R519). -/
def areaInWindow (s : State) (g base len pkey : Nat) : Bool :=
  let p := getPh s (64 + g)
  p.st == .closed ||
  (decide (base ≤ p.area) && decide (p.area + 0x8000 ≤ base + len) &&
    (mapDecided s).any (fun r => decide (r.base ≤ p.area) && decide (p.area + 0x8000 ≤ r.base + r.len) && r.pkey == pkey))

/-- `guest.window` (R372, R519): the window changes at the next Bell. -/
def doGuestWindow (id : Nat) (s : State) : State :=
  withCmd id 0x0503 s (fun c =>
    let g := c.num 0
    let base := c.num 1
    let len := c.num 2
    let pkey := c.num 3
    if !argsFit c [0x3FFF, allBits, allBits, 0xFF] then finishCmd id stBadArg 0 s
    else if len = 0 then
      emptyCmd id (modInnk (fun i => { i with acts := i.acts ++ [.window g base len pkey id] }) s)
    else if base % 4096 != 0 || !inDevice base len || pkey == 0 then finishCmd id stBadArg 0 s
    else if len % 4096 ≠ 0 then finishCmd id stBadLen 0 s
    else if !areaInWindow s g base len pkey then finishCmd id stDenied 0 s
    else addAct (.window g base len pkey id) id s)

/-- PORTER_COPY (R369). -/
def execPorterCopy (cmd : Nat) (s : State) : Host.Outcome State Fault Refusal := .next (doPorterCopy cmd s)
/-- PORTER_FILL (R369). -/
def execPorterFill (cmd : Nat) (s : State) : Host.Outcome State Fault Refusal := .next (doPorterFill cmd s)
/-- PORTER_PUSH (R369). -/
def execPorterPush (cmd : Nat) (s : State) : Host.Outcome State Fault Refusal := .next (doPorterPush cmd s)
/-- PORTER_PULL (R369). -/
def execPorterPull (cmd : Nat) (s : State) : Host.Outcome State Fault Refusal := .next (doPorterPull cmd s)
/-- GUEST_OPEN (R371). -/
def execGuestOpen (cmd : Nat) (s : State) : Host.Outcome State Fault Refusal := .next (doGuestOpen cmd s)
/-- GUEST_CLOSE (R372). -/
def execGuestClose (cmd : Nat) (s : State) : Host.Outcome State Fault Refusal := .next (doGuestClose cmd s)
/-- GUEST_WINDOW (R519). -/
def execGuestWindow (cmd : Nat) (s : State) : Host.Outcome State Fault Refusal := .next (doGuestWindow cmd s)

end Sys2Proof.Machine
end

