-- ==== Sys2Proof/Machine/RecordCmds.lean ====
section
/-! DEFINITION. The commands for power, coolant and energy (R373), and the bytes of ledger, error and completion records with the commands
that read them (R275, R277, R278, R374, R475). -/

namespace Sys2Proof.Machine

/-- Change the power state. -/
def modPwr (f : Power → Power) (s : State) : State := { s with pwr := f s.pwr }

/-- An energy in femtojoules as millijoules in 32.32 fixed point, truncated and wrapping (R495). -/
def energyWord (fj : Nat) : Nat := fj * 2 ^ 32 / 10 ^ 12 % 2 ^ 64

/-- `power.cap` (R373, R489). -/
def doPowerCap (id : Nat) (s : State) : State :=
  withCmd id 0x0601 s (fun c =>
    let w := c.num 0
    if !argsFit c [0xFFFF] || decide (w < 900) || decide (s.variant.pmaxW < w) then finishCmd id stBadArg 0 s
    else finishCmd id stOk s.pwr.cfg.capW.toNat (modPwr (fun p => { p with cfg := { p.cfg with capW := BitVec.ofNat 16 w } }) s))

/-- `coolant.target` (R373, R493). -/
def doCoolantTarget (id : Nat) (s : State) : State :=
  withCmd id 0x0602 s (fun c =>
    let t := c.num 0
    if !argsFit c [0xFFFF] || decide (t < 450) || decide (650 < t) then finishCmd id stBadArg 0 s
    else finishCmd id stOk s.pwr.coolCfg.target.toNat (modPwr (fun p => { p with coolCfg := { p.coolCfg with target := BitVec.ofNat 10 t } }) s))

/-- `energy.read` (R373, R497). -/
def doEnergyRead (id : Nat) (s : State) : State :=
  withCmd id 0x0603 s (fun c =>
    let n := c.num 1
    if !argsFit c [3, allBits] then finishCmd id stBadArg 0 s
    else match c.num 0 with
      | 0 => if n = 0 then finishCmd id stOk (energyWord s.pwr.energyFj) s else finishCmd id stBadArg 0 s
      | 1 => match (if n < 4096 then getItin s n else none) with
        | some i => if i.evicting then finishCmd id stBusy 0 s else finishCmd id stOk i.energy.toNat s
        | none => finishCmd id stBadArg 0 s
      | 2 => if n < 16384 then finishCmd id stOk (getGuest s n).energy.toNat s else finishCmd id stBadArg 0 s
      | _ => if n < phCount then finishCmd id stOk (getPh s n).energy.mj.toNat s else finishCmd id stBadArg 0 s)

/-- A value that saturates in its field. -/
def satBytes (n x : Nat) : List Byte := natBytes n (min x (2 ^ (8 * n) - 1))

/-- The OUTCOME codes (R277). -/
def LegOutcome.code : LegOutcome → Nat
  | .commit => 0 | .late => 1 | .held => 2 | .discard => 3 | .restart => 4 | .stopped => 5

/-- All bits of a 64-bit field, for none. -/
def noneWord : Nat := 2 ^ 64 - 1

/-- The 256 bytes of a leg record (R277). -/
def LegRec.bytes (r : LegRec) : List Byte :=
  natBytes 8 r.seq ++ natBytes 8 r.bell ++ natBytes 1 1 ++ natBytes 1 r.outcome.code ++ natBytes 2 r.itin ++ natBytes 1 r.config ++
  natBytes 1 (r.det.toNat + 2 * r.suppressed.toNat + 4 * r.replay.toNat) ++ satBytes 2 r.missed ++
  wordBytes 8 r.job ++ natBytes 8 r.jsn ++ natBytes 8 r.start ++ natBytes 1 r.mxFlags.toNat ++ natBytes 1 r.vcFlags.toNat ++ satBytes 1 r.replays ++
  (match r.fault with
    | some f => natBytes 1 f.fclass ++ natBytes 2 f.cluster ++ natBytes 1 f.cause ++ natBytes 1 f.core ++ wordBytes 8 f.addr ++ wordBytes 8 f.frec
    | none => natBytes 1 0 ++ natBytes 2 0xFFFF ++ natBytes 1 0 ++ natBytes 1 0xFF ++ natBytes 8 0 ++ natBytes 8 noneWord) ++
  wordBytes 8 r.energy ++ natBytes 4 r.entries ++ natBytes 4 r.empty ++ natBytes 8 r.macs ++ natBytes 8 r.elems ++ natBytes 8 r.porterBytes ++
  natBytes 8 r.txBytes ++ natBytes 8 r.rxBytes ++ natBytes 4 r.slips ++ zeros 124

/-- The 256 bytes of a Bell record (R278). -/
def BellRec.bytes (r : BellRec) : List Byte :=
  natBytes 8 r.seq ++ natBytes 8 r.bell ++ natBytes 1 2 ++
  natBytes 1 (r.ckpt.toNat + 2 * r.ckptDone.toNat + 4 * r.ckptAbandoned.toNat + 8 * r.restart.toNat + 16 * r.config.toNat + 32 * r.loss.toNat) ++
  natBytes 2 r.committed ++ natBytes 2 r.late ++ natBytes 2 r.held ++ natBytes 2 r.discarded ++ natBytes 2 r.bound ++ [r.cdLive, r.msLive] ++
  natBytes 2 r.clustersLive ++ natBytes 8 r.tNs ++ natBytes 8 (r.lastCkpt.getD noneWord) ++ [r.pinPressure] ++ natBytes 1 r.timeState.toNat ++
  natBytes 1 r.throttle ++ natBytes 1 0 ++ natBytes 4 r.cmds ++ natBytes 4 r.cmdsEmpty ++ natBytes 4 r.faults ++ natBytes 8 (energyWord r.energyFj) ++
  zeros 184

/-- A ledger record's sequence number and bytes. -/
def LedgerRec.seq : LedgerRec → Nat
  | .leg r => r.seq
  | .bell r => r.seq
def LedgerRec.bytes : LedgerRec → List Byte
  | .leg r => r.bytes
  | .bell r => r.bytes

/-- The 64 bytes of an error record (R475). -/
def ErrRec.bytes (r : ErrRec) : List Byte :=
  natBytes 8 r.seq ++ natBytes 8 r.bell ++ natBytes 1 r.cls ++ natBytes 1 r.action ++ natBytes 1 r.source ++ natBytes 1 0 ++ natBytes 2 r.unit ++
  natBytes 2 r.sub ++ natBytes 8 (r.addr.toNat / 32 * 32) ++ natBytes 4 r.row ++ wordBytes 4 r.syndrome ++ natBytes 1 r.symbol ++ [r.evalue] ++
  satBytes 2 r.count ++ natBytes 2 r.itin ++ natBytes 2 0 ++ wordBytes 8 r.jsn ++ natBytes 8 r.tNs

/-- The 32 bytes of a completion record (R329). -/
def CplRec.bytes (r : CplRec) : List Byte := bytesOfWords (r.words ++ [r.sealWord])

/-- The oldest ledger record still held (R275). -/
def ldgOldest (s : State) : Nat := s.ldg.next - s.ldg.records.length

/-- How many of COUNT records from SEQ on are lost (R374). -/
def lostCount (oldest seq count : Nat) : Nat := if seq < oldest then min count (oldest - seq) else 0

/-- Records read into a buffer of COUNT places (R374). -/
def readRecords (id : Nat) (c : Cmd) (buf size count lost : Nat) (recs : List (List Byte)) (s : State) : State :=
  match outRange s c buf (size * count) with
  | some a => finishCmd id stDenied a s
  | none => writeOut id c buf recs.flatten (recs.length + lost * 2 ^ 32) s

/-- `ledger.read` (R374). -/
def doLedgerRead (id : Nat) (s : State) : State :=
  withCmd id 0x0701 s (fun c =>
    let seq := c.num 0
    let n := c.num 1
    if !argsFit c [allBits, allBits, allBits] then finishCmd id stBadArg 0 s
    else if n = 0 then emptyCmd id s
    else if 4096 < n then finishCmd id stBadLen 0 s
    else
      let recs := (s.ldg.records.filter (fun r => decide (seq ≤ r.seq) && decide (r.seq < seq + n))).reverse
      readRecords id c (c.num 2) 256 n (lostCount (ldgOldest s) seq n) (recs.map LedgerRec.bytes) s)

/-- `fault.read` (R374). -/
def doFaultRead (id : Nat) (s : State) : State :=
  withCmd id 0x0702 s (fun c =>
    let seq := c.num 1
    let n := c.num 2
    if !argsFit c [1, allBits, allBits, allBits] || (c.num 0 == 1 && decide (16384 ≤ seq)) then finishCmd id stBadArg 0 s
    else if n = 0 then emptyCmd id s
    else if 4096 < n then finishCmd id stBadLen 0 s
    else if c.num 0 = 1 then
      readRecords id c (c.num 3) 32 n 0 (((getPh s (64 + seq)).lostLog.take n).map CplRec.bytes) s
    else
      let recs := (s.errs.filter (fun r => decide (seq ≤ r.seq) && decide (r.seq < seq + n))).reverse
      readRecords id c (c.num 3) 64 n (lostCount (errOldest s) seq n) (recs.map ErrRec.bytes) s)

/-- POWER_CAP (R373). -/
def execPowerCap (cmd : Nat) (s : State) : Host.Outcome State Fault Refusal := .next (doPowerCap cmd s)
/-- COOLANT_TARGET (R373). -/
def execCoolantTarget (cmd : Nat) (s : State) : Host.Outcome State Fault Refusal := .next (doCoolantTarget cmd s)
/-- ENERGY_READ (R373). -/
def execEnergyRead (cmd : Nat) (s : State) : Host.Outcome State Fault Refusal := .next (doEnergyRead cmd s)
/-- LEDGER_READ (R374). -/
def execLedgerRead (cmd : Nat) (s : State) : Host.Outcome State Fault Refusal := .next (doLedgerRead cmd s)
/-- FAULT_READ (R374). -/
def execFaultRead (cmd : Nat) (s : State) : Host.Outcome State Fault Refusal := .next (doFaultRead cmd s)

end Sys2Proof.Machine
end

