-- ==== Sys2Proof/Machine/FwCmds.lean ====
section
/-! DEFINITION. Firmware images and banks (R506 to R513), the commands on them, and quotes (R375, R376, R515, R516). -/

namespace Sys2Proof.Machine

/-- A component (R506). -/
def getComp (s : State) (n : Nat) : Component := tabGet {} s.sec.comps n

/-- Change a component. -/
def modComp (n : Nat) (f : Component → Component) (s : State) : State :=
  modSec (fun m => { m with comps := tabSet {} m.comps n (f (tabGet {} m.comps n)) }) s

/-- The largest image of a component (R506). -/
def fwMax (n : Nat) : Nat :=
  match n with | 0 => 192 * 1024 | 1 => 256 * 1024 | 2 => 4 * 2 ^ 20 | _ => 32 * 2 ^ 20

/-- The bank that is not running (R507, R508): bank B is number 1. -/
def Component.inactive (c : Component) : Nat := 1 - c.reg.bank.toNat

/-- A bank, and its replacement. -/
def Component.bankOf (c : Component) (b : Nat) : Option FwBank := if b = 0 then c.bankA else c.bankB
def Component.putBank (b : Nat) (v : Option FwBank) (c : Component) : Component := if b = 0 then { c with bankA := v } else { c with bankB := v }

/-- The SVN of a version (R507). -/
def svnOf (v : BitVec 32) : Nat := bitsNat v 16 16

/-- A firmware image passes the monitor (R504, R507, R511). -/
def fwApproved (s : State) (n : Nat) (bs : List Byte) : Bool :=
  let payload := fieldNat bs 0x18 8
  let off := fieldNat bs 0x20 8
  let v := BitVec.ofNat 32 (fieldNat bs 8 4)
  fieldNat bs 0 4 == 0x44465731 && fieldNat bs 4 1 == n && fieldNat bs 5 3 == 0 && fieldNat bs 0xC 4 == 0 && fieldNat bs 0x28 24 == 0 &&
  off == 0x40 + payload && bs.length == off + sigBlockLen && fieldNat bs 0x10 8 == bs.length &&
  verifySigned s ctxFw [0, 1, 2, 3] (bs.take off) (blockAt (bs.drop off)) && decide (svnOf v ≤ 64) && decide ((getComp s n).svn ≤ svnOf v)

/-- What a bank holds of an image. -/
def fwBankOf (bs : List Byte) : FwBank :=
  let off := fieldNat bs 0x20 8
  let b := blockAt (bs.drop off)
  { version := BitVec.ofNat 32 (fieldNat bs 8 4), image := bs, digest := some b.digest, slot := b.slot }

/-- An image is copied into the inactive bank and verified there (R512): the bank stays empty where the monitor refuses it. -/
def stageImage (n : Nat) (bs : List Byte) (s : State) : Bool × State :=
  let b := (getComp s n).inactive
  if fwApproved s n bs then
    (true, modComp n (fun c => { c.putBank b (some (fwBankOf bs)) with reg := { c.reg with staged := 1#1 } }) s)
  else (false, refuseFw (modComp n (fun c => { c.putBank b none with reg := { c.reg with staged := 0#1 } }) s))

/-- The staged image becomes the one that the next boot takes (R513); its version. -/
def commitImage (n : Nat) (s : State) : Nat × State :=
  let c := getComp s n
  let v := match c.bankOf c.inactive with | some b => b.version.toNat | none => 0
  (v, modComp n (fun c => { c with commitB := decide (c.inactive = 1), reg := { c.reg with staged := 0#1, pending := 1#1 } }) s)

/-- PLDM update mode (R552). -/
def updating (s : State) : Bool := s.sb.updState != .idle

/-- `fw.stage` (R375, R512). -/
def doFwStage (id : Nat) (s : State) : State :=
  withCmd id 0x0801 s (fun c =>
    let n := c.num 2
    let len := c.num 1
    if !argsFit c [allBits, allBits, 0xF] then finishCmd id stBadArg 0 s
    else if len = 0 then emptyCmd id s
    else if 4 ≤ n then finishCmd id stBadArg 0 s
    else match cmdRange s c false (c.num 0) len with
      | some a => finishCmd id stDenied a s
      | none =>
        let (r, s) := homeReadBytes .innkeeper (c.num 0) len s
        match r with
        | none => s
        | some bs =>
          if fieldNat bs 4 1 ≠ n then finishCmd id stBadArg 0 s
          else if fieldNat bs 0x10 8 ≠ len ∨ fwMax n < len then finishCmd id stBadLen 0 s
          else if (getComp s n).reg.pending = 1#1 ∨ updating s then finishCmd id stBusy 0 s
          else
            let (ok, s) := stageImage n bs s
            finishCmd id (if ok then stOk else stDenied) 0 s)

/-- `fw.commit` (R375, R513). -/
def doFwCommit (id : Nat) (s : State) : State :=
  withCmd id 0x0802 s (fun c =>
    let n := c.num 0
    if !argsFit c [0xF] || decide (4 ≤ n) || (getComp s n).reg.staged == 0#1 then finishCmd id stBadArg 0 s
    else if updating s then finishCmd id stBusy 0 s
    else
      let (v, s) := commitImage n s
      finishCmd id stOk v s)

/-- `fw.status` (R344, R375). -/
def doFwStatus (id : Nat) (s : State) : State :=
  withCmd id 0x0803 s (fun c =>
    let n := c.num 0
    if !argsFit c [0xF] || decide (4 ≤ n) then finishCmd id stBadArg 0 s
    else
      let k := getComp s n
      let staged := if k.reg.staged = 1#1 then (match k.bankOf k.inactive with | some b => b.version.toNat | none => 0) else 0
      finishCmd id stOk (k.reg.version.toNat + staged * 2 ^ 32) s)

/-- Byte n of a 256-bit value is its n-th lowest. -/
def digestBytes (v : BitVec 256) : List Byte := wordBytes 32 v

/-- The registers a mask selects, ascending. -/
def maskRegs (mask : BitVec 16) : List Nat := (List.range 16).filter (fun n => mask.getLsbD n)

/-- The bytes of a signature with the identity key (R518). -/
def idSignature (transcript : List Byte) : List Byte := (List.range 2420).map (Config.idSign transcript)

/-- The MEASUREMENTS response before its signature (R516). -/
def measureBody (s : State) (mask : BitVec 16) (nonce : BitVec 256) : List Byte :=
  Config.spdmHeader mask ++ (maskRegs mask).flatMap (fun n => Config.spdmBlockHeader (n + 1) ++ digestBytes (getMr s n)) ++ digestBytes nonce

/-- What `attest.quote` writes (R516): the signature is made over all the messages. -/
def quoteBytes (s : State) (mask : BitVec 16) (reqNonce nonce : BitVec 256) : List Byte :=
  let req := Config.spdmRequest mask ++ digestBytes reqNonce ++ Config.spdmRequestTail
  let body := measureBody s mask nonce
  natBytes 4 Config.spdmVca.length ++ Config.spdmVca ++ natBytes 4 req.length ++ req ++ body ++ idSignature (Config.spdmVca ++ req ++ body)

/-- `attest.quote` (R376, R516). -/
def doAttestQuote (id : Nat) (s : State) : State :=
  withCmd id 0x0804 s (fun c =>
    let mask := (c.arg 3).setWidth 16
    if !argsFit c [allBits, allBits, allBits, 0xFFFFFFFF] then finishCmd id stBadArg 0 s
    else if c.num 2 = 0 then emptyCmd id s
    else if mask == 0#16 || decide (2 ^ 16 ≤ c.num 3) then finishCmd id stBadArg 0 s
    else
      let need := (quoteBytes s mask 0#256 0#256).length
      if c.num 2 < need then finishCmd id stBadLen need s
      else match lower (cmdRange s c false (c.num 0) 32) (outRange s c (c.num 1) need) with
        | some a => finishCmd id stDenied a s
        | none =>
          if !s.sec.idKeyOk then finishCmd id stDenied 0 s
          else
            let (r, s) := homeReadBytes .innkeeper (c.num 0) 32 s
            match r with
            | none => s
            | some bs =>
              let (nonce, s) := draw 256 s
              writeOut id c (c.num 1) (quoteBytes s mask (digestAt bs 0) nonce) need s)

/-- FW_STAGE (R512). -/
def execFwStage (cmd : Nat) (s : State) : Host.Outcome State Fault Refusal := .next (doFwStage cmd s)
/-- FW_COMMIT (R513). -/
def execFwCommit (cmd : Nat) (s : State) : Host.Outcome State Fault Refusal := .next (doFwCommit cmd s)
/-- FW_STATUS (R375). -/
def execFwStatus (cmd : Nat) (s : State) : Host.Outcome State Fault Refusal := .next (doFwStatus cmd s)
/-- ATTEST_QUOTE (R516). -/
def execAttestQuote (cmd : Nat) (s : State) : Host.Outcome State Fault Refusal := .next (doAttestQuote cmd s)

end Sys2Proof.Machine
end

