-- ==== Sys2Proof/Machine/JobCmds.lean ====
section
/-! DEFINITION. The commands on resident itineraries, bindings and jobs (R48 to R50, R355 to R363, R406, R410). -/

namespace Sys2Proof.Machine

/-- The instant of a Bell under a configuration (R17). -/
def bellUnder (c : StgCfgReg) (bell : Nat) : Nat := bell * (c.lenUs.toNat * 1000)

/-- The configuration of length and window that will be in force at a Bell, from what a command found when it was accepted (R21). A number
whose Bell has fallen under one length can name a Bell to come under a longer one (R28). -/
def cfgAtBell (c : Cmd) (bell : Nat) : StgCfgReg :=
  c.seen.lw.foldl (fun f p =>
    if p.first ≤ bellUnder f bell ∨ (bellUnder f bell ≤ c.accepted ∧ p.first ≤ bellUnder (cfgLw f [p]) bell) then cfgLw f [p]
    else f) c.seen.cfg

/-- The instant of the Bell that a command names. -/
def bellInstant (c : Cmd) (bell : Nat) : Nat := bellUnder (cfgAtBell c bell) bell

/-- The configuration in force in the stage that ends at an instant, whose window precedes it (R30, R52). -/
def cfgBefore (c : Cmd) (t : Nat) : StgCfgReg := cfgLw c.seen.cfg (c.seen.lw.filter (fun p => decide (p.first < t)))

/-- A command that names a Bell came too late (R48): not before the window that precedes the Bell opens. -/
def tooLate (c : Cmd) (bell : Nat) : Bool :=
  let t := bellInstant c bell
  decide (t ≤ c.accepted + (cfgBefore c t).winUs.toNat * 1000)

/-- A rollback has not reached its restart Bell, and a Bell at an instant falls before that (R294). -/
def beforeRestart (s : State) (t : Nat) : Bool :=
  match s.ldg.rollback with
  | some r => decide (t < r.notBefore)
  | none => false

/-- The halves of some clusters that are off power up (R483). -/
def warmHalves (place : List Nat) (s : State) : State :=
  forEach ((List.range 8).filter (fun h => place.any (fun c => c / 128 == h))) (fun h t =>
    if t.pwr.domOn.getLsbD (3 * (h / 2) + h % 2) || t.pwr.domFault.getLsbD (3 * (h / 2) + h % 2) then t
    else { t with pwr := { t.pwr with warming := setBit t.pwr.warming h } }) s

/-- Binds decided for the same Bell that give a cluster of a placement to another itinerary (R50): each with the command that asked. -/
def clashes (s : State) (k due : Nat) (place : List Nat) : List Nat :=
  s.innk.acts.filterMap (fun a => match a with
    | .bind k' t pl cmd => if k' ≠ k ∧ t = due ∧ pl.any place.contains then some cmd else none
    | _ => none)

/-- Drop the effect that a command has had decided. -/
def dropBind (cmd : Nat) (s : State) : State :=
  modInnk (fun i => { i with acts := i.acts.filter (fun a => match a with | .bind _ _ _ c => c != cmd | _ => true) }) s

/-- The clusters that a placement's entries name (R357). -/
def placeOf (bs : List Byte) (n : Nat) : List Nat := (List.range n).map (fun i => placeEntry bs (2 * i))

/-- A bind whose placement is legal (R48 to R50, R294). -/
def bindChecked (id : Nat) (c : Cmd) (k bell : Nat) (place : List Nat) (evicting : Bool) (s : State) : State :=
  let due := bellInstant c bell
  let others := clashes s k due place
  if place.any (fun x => !clusterLive s x || (getCluster s x).offline) then finishCmd id stNoUnit 0 s
  else if s.stg.time.state = timeUnset || evicting || beforeRestart s due || others.any (fun o => decide (o < id)) then finishCmd id stBusy 0 s
  else if tooLate c bell then finishCmd id stLate 0 s
  else
    let s := forEach others (fun o t => finishCmd o stBusy 0 (dropBind o t)) s
    addAct (.bind k due place id) id (warmHalves place s)

/-- A bind or unbind accepted before an eviction of its itinerary that has been decided ends (R343). -/
def endedByEvict (s : State) (k id : Nat) : Bool :=
  s.innk.acts.any (fun a => match a with | .evict j cmd => j == k && decide (id < cmd) | _ => false)

/-- `stage.bind` (R48 to R50, R343, R357). -/
def doStageBind (id : Nat) (s : State) : State :=
  withCmd id 0x0104 s (fun c =>
    let k := c.num 0
    let bell := c.num 1
    let n := c.num 3
    if !argsFit c [0xFFF, allBits, allBits, allBits] then finishCmd id stBadArg 0 s
    else if n = 0 then emptyCmd id s
    else if endedByEvict s k id then finishCmd id stAborted 0 s
    else match getItin s k with
      | none => finishCmd id stBadArg 0 s
      | some i =>
        let f := cfgAtBell c bell
        let want := match i.image.bodies[i.config]? with | some b => b.clusters | none => 0
        if n ≠ want ∨ i.image.lenUs ≠ f.lenUs.toNat ∨ i.image.winUs ≠ f.winUs.toNat ∨
            (!(peerDevices i.image).isEmpty ∧ i.image.ckptStages ≠ s.stg.cfg.ckptStages.toNat) then finishCmd id stBadArg 0 s
        else match cmdRange s c false (c.num 2) (2 * n) with
          | some a => finishCmd id stDenied a s
          | none =>
            let (r, s) := homeReadBytes .innkeeper (c.num 2) (2 * n) s
            match r with
            | none => s
            | some bs =>
              let place := placeOf bs n
              if !place.all clusterIdWf || place.eraseDups.length ≠ n then finishCmd id stBadArg 0 s
              else bindChecked id c k bell place i.evicting s)

/-- `stage.unbind` (R343, R358). -/
def doStageUnbind (id : Nat) (s : State) : State :=
  withCmd id 0x0105 s (fun c =>
    if !argsFit c [0xFFF, allBits] then finishCmd id stBadArg 0 s
    else if endedByEvict s (c.num 0) id then finishCmd id stAborted 0 s
    else match getItin s (c.num 0) with
      | none => finishCmd id stBadArg 0 s
      | some i =>
        if i.evicting then finishCmd id stBusy 0 s
        else if tooLate c (c.num 1) then finishCmd id stLate 0 s
        else addAct (.unbind (c.num 0) (bellInstant c (c.num 1)) id) id s)

/-- An itinerary's job is prepared or running, or is being prepared. -/
def jobActive (s : State) (k : Nat) : Bool :=
  (match (getItin s k).bind (·.job) with | some j => j.active | none => false) || s.net.preps.any (fun p => p.itin == k)

/-- `itinerary.evict` (R355). -/
def doItineraryEvict (id : Nat) (s : State) : State :=
  withCmd id 0x0102 s (fun c =>
    if !argsFit c [0xFFF] then finishCmd id stBadArg 0 s
    else match getItin s (c.num 0) with
      | none => finishCmd id stBadArg 0 s
      | some i =>
        if i.evicting || jobActive s (c.num 0) then finishCmd id stBusy 0 s
        else addAct (.evict (c.num 0) id) id (modItin (c.num 0) (fun x => { x with evicting := true }) s))

/-- The codes of a job's state in `itinerary.query` and `job.status` (R356, R363). -/
def jobCode : Option Job → Nat
  | none => 0
  | some j => match j.st with | .prepared => 1 | .running => 2 | .finished => 3 | .stopped => 4

/-- `itinerary.query` (R356). -/
def doItineraryQuery (id : Nat) (s : State) : State :=
  withCmd id 0x0103 s (fun c =>
    if !argsFit c [0xFFF] then finishCmd id stBadArg 0 s
    else match getItin s (c.num 0) with
      | none => finishCmd id stBadArg 0 s
      | some i =>
        if i.evicting then finishCmd id stBusy 0 s
        else finishCmd id stOk ((i.binding.getD []).length + i.config * 2 ^ 16 + jobCode i.job * 2 ^ 24) s)

/-- The loop of an image has no leg (R353). -/
def noLoop (i : Image) : Bool := match i.bodies with | b :: _ => decide (b.legs.length ≤ b.nPro) | [] => true
def prologue (i : Image) : Nat := match i.bodies with | b :: _ => b.nPro | [] => 0

/-- `job.prepare` (R359, R406). A job of more than 4,096 members, which R406 rules out, is a bad argument (DESIGN CHOICE, log 52). -/
def doJobPrepare (id : Nat) (s : State) : State :=
  withCmd id 0x0201 s (fun c =>
    let k := c.num 1
    let bell := c.num 3
    let stages := c.num 4
    if !argsFit c [allBits, 0xFFF, allBits, allBits, allBits] then finishCmd id stBadArg 0 s
    else if stages = 0 then emptyCmd id s
    else match getItin s k with
      | none => finishCmd id stBadArg 0 s
      | some i =>
        if noLoop i.image && decide (prologue i.image < stages) then finishCmd id stBadArg 0 s
        else if i.evicting || jobActive s k || (jobSlotIf s (c.arg 0) Job.active).isSome || (prepOf s (c.arg 0)).isSome ||
            s.stg.time.state == timeUnset || (s.stg.time.state == timeFreerun && !(peerDevices i.image).isEmpty) then finishCmd id stBusy 0 s
        else if bell < c.acceptedStage + 4 then finishCmd id stLate 0 s
        else if i.devicePeers.isEmpty then finishCmd id stOk bell (createJob k (c.arg 0) (c.arg 2) bell stages false 1 s)
        else
          let ms := membersOf i
          if 4096 < ms.length then finishCmd id stBadArg 0 s
          else
            startPrep { job := c.arg 0, cmd := id, itin := k, seed := c.arg 2, reqBell := bell, stages := stages, members := ms
                        myPos := posOf ms Config.deviceId, offer := bell, bell := bell } (waitCmd id s))

/-- A prepared job is given up here and on every member (R360, R410). -/
def abandonJob (k : Nat) (i : Itin) (j : Job) (s : State) : State :=
  let s := if i.devicePeers.isEmpty then s else sendAll (membersOf i) { kind := 5, job := j.id, round := j.round } s
  endJobCmds j.id s.stg.num (modItin k (fun x => { x with job := some { j with st := .stopped, endBell := s.stg.num } }) s)

/-- Another `job.confirm` of the job waits for its Bell. -/
def confirming (s : State) (job : Word) : Bool :=
  s.innk.cmds.any (fun p => match p.2 with | some d => d.opcode == 0x0202#16 && d.phase == .waiting && d.arg 0 == job | none => false)

/-- `job.confirm` (R360, R410). -/
def doJobConfirm (id : Nat) (s : State) : State :=
  withCmd id 0x0202 s (fun c =>
    if !argsFit c [allBits] then finishCmd id stBadArg 0 s
    else match jobSlotIf s (c.arg 0) (fun j => j.st == .prepared) with
      | none => finishCmd id stBadArg 0 s
      | some k =>
        match getItin s k with
        | none => s
        | some i =>
          match i.job with
          | none => s
          | some j =>
            let ms := membersOf i
            let alone := i.devicePeers.isEmpty
            let root := posOf ms Config.deviceId == 0
            let late := if alone then decide (j.bell ≤ c.acceptedStage + 1)
              else root && decide ((j.bell - 1) * lenNs s < c.accepted + s.net.jobEff.confirmLeadUs.toNat * 1000)
            if confirming s j.id then finishCmd id stBusy 0 s
            else if late then finishCmd id stLate 0 (abandonJob k i j s)
            else
              let s := waitCmd id (modItin k (fun x => { x with job := some { j with confirmed := true } }) s)
              if alone || !root then s else forwardConfirm ms 0 j.id j.bell s)

/-- A job has been stopped in this stage: the Bell at which it stops, whose number the commands on it report, is still to fall. -/
def stopDue (s : State) (job : Word) : Bool := s.ldg.stops.any (fun r => r.job == job)

/-- `job.stop` (R361). -/
def doJobStop (id : Nat) (s : State) : State :=
  withCmd id 0x0203 s (fun c =>
    if !argsFit c [allBits, allBits] then finishCmd id stBadArg 0 s
    else match jobSlot s (c.arg 0) with
      | none => finishCmd id stBadArg 0 s
      | some k =>
        match (getItin s k).bind (·.job) with
        | none => s
        | some j =>
          if !j.active then (if stopDue s j.id then waitCmd id s else finishCmd id stOk j.endBell s)
          else
            let b := if c.num 1 ≤ max c.acceptedStage s.stg.num then s.stg.num + 1 else c.num 1
            let s := setStop k b (waitCmd id s)
            -- the other members stop the job at the next Bell once they hear of it (R410)
            match getItin s k with
            | some i => if b = s.stg.num + 1 then sendAll (membersOf i) { kind := 5, job := j.id, round := j.round } s else s
            | none => s)

/-- `job.await` (R362). -/
def doJobAwait (id : Nat) (s : State) : State :=
  withCmd id 0x0204 s (fun c =>
    if !argsFit c [allBits, allBits] then finishCmd id stBadArg 0 s
    else match jobSlot s (c.arg 0) with
      | none => finishCmd id stBadArg 0 s
      | some k =>
        match (getItin s k).bind (·.job) with
        | none => s
        | some j =>
          if j.stages ≤ c.num 1 then finishCmd id stBadArg 0 s
          else if c.num 1 < j.released then finishCmd id stOk s.stg.num s
          else if j.st = .stopped && !stopDue s j.id then finishCmd id stAborted j.endBell s
          else waitCmd id s)

/-- `job.status` (R363). -/
def doJobStatus (id : Nat) (s : State) : State :=
  withCmd id 0x0205 s (fun c =>
    if !argsFit c [allBits] then finishCmd id stBadArg 0 s
    else match jobSlot s (c.arg 0) with
      | none => finishCmd id stBadArg 0 s
      | some k =>
        match getItin s k with
        | none => s
        | some i =>
          finishCmd id stOk ((match i.job with | some j => j.next % 2 ^ 48 | none => 0) + (jobCode i.job - 1) * 2 ^ 48 + i.config * 2 ^ 52) s)

/-- ITINERARY_EVICT (R355). -/
def execItineraryEvict (cmd : Nat) (s : State) : Host.Outcome State Fault Refusal := .next (doItineraryEvict cmd s)
/-- ITINERARY_QUERY (R356). -/
def execItineraryQuery (cmd : Nat) (s : State) : Host.Outcome State Fault Refusal := .next (doItineraryQuery cmd s)
/-- STAGE_BIND (R357). -/
def execStageBind (cmd : Nat) (s : State) : Host.Outcome State Fault Refusal := .next (doStageBind cmd s)
/-- STAGE_UNBIND (R358). -/
def execStageUnbind (cmd : Nat) (s : State) : Host.Outcome State Fault Refusal := .next (doStageUnbind cmd s)
/-- JOB_PREPARE (R359). -/
def execJobPrepare (cmd : Nat) (s : State) : Host.Outcome State Fault Refusal := .next (doJobPrepare cmd s)
/-- JOB_CONFIRM (R360). -/
def execJobConfirm (cmd : Nat) (s : State) : Host.Outcome State Fault Refusal := .next (doJobConfirm cmd s)
/-- JOB_STOP (R361). -/
def execJobStop (cmd : Nat) (s : State) : Host.Outcome State Fault Refusal := .next (doJobStop cmd s)
/-- JOB_AWAIT (R362). -/
def execJobAwait (cmd : Nat) (s : State) : Host.Outcome State Fault Refusal := .next (doJobAwait cmd s)
/-- JOB_STATUS (R363). -/
def execJobStatus (cmd : Nat) (s : State) : Host.Outcome State Fault Refusal := .next (doJobStatus cmd s)

end Sys2Proof.Machine
end

