-- ==== Sys2Proof/Machine/BellActs.lean ====
section
/-! DEFINITION. What takes effect at a Bell, in dispatch order (R327, R343): bindings, evictions, the region map, pins, guest windows, and
clusters and configurations leaving and taking service (R48 to R51, R197, R209, R257, R266, R279, R288, R300, R301, R349, R355, R358,
R364 to R367, R372, R453). -/

namespace Sys2Proof.Machine

/-- No cluster is bound any more: the IOD is cut off or the Innkeeper has halted for good (R243, R307). -/
def noBind (s : State) : Bool := iodCut s || s.innk.innk.halted == 1#1

/-- The clusters of the legs that run. -/
def heldClusters (s : State) : List Nat :=
  s.itins.flatMap (fun p => match p.2.bind (·.leg) with | some l => l.clusters | none => [])

/-- Every binding that holds one of some clusters ends, but that of one itinerary (R357). -/
def endBindings (k : Nat) (place : List Nat) (s : State) : State :=
  { s with itins := s.itins.map (fun p => (p.1, p.2.map (fun i =>
      if p.1 ≠ k ∧ (i.binding.getD []).any place.contains then { i with binding := none } else i))) }

/-- An itinerary's binding. -/
def bindTo (k : Nat) (place : List Nat) (s : State) : State :=
  modItin k (fun i => { i with binding := some place }) (endBindings k place s)

/-- Every L1 of some clusters is invalidated (R51, R197). -/
def invalidateL1 (want : Nat → Bool) (s : State) : State :=
  { s with clusters := s.clusters.map (fun p => if want p.1 then
      (p.1, { p.2 with cores := p.2.cores.map (fun q => (q.1, { q.2 with l1 := [] })) }) else p) }

/-- A die cache's owned lines of a region are downgraded and their dirty sectors written (R453). -/
def downgradeRegion (rg : Region) (s : State) : State :=
  forEach [0, 1] (fun d t =>
    let ls := (getPx t d).cache.filterMap (fun q => match q.2 with
      | some x => if x.owned && rg.has (q.1 * 128) then some q.1 else none
      | none => none)
    forEach ls (fun l u => cleanLine (rg.home rg.base) l (pxWriteBack d l true (countSnoops (rg.home rg.base) 1 u))) t) s

/-- Retired pages that a region's mapping kept in use retire (R266). -/
def retirePending (rg : Region) (s : State) : State :=
  { s with ctls := s.ctls.map (fun p => (p.1, { p.2 with retired := p.2.retired.map (fun e =>
      (e.1, if e.2.valid = 1#1 ∧ rg.held.any (fun h => overlaps h.1 h.2 e.2.addr.toNat 4096) then { e.2 with pending := 0#1 } else e.2)) })) }

/-- A region is unmapped (R365): its lines leave without write-back, pins end, a copy under way ends. -/
def unmapRegion (rg : Region) (s : State) : State :=
  let s := match rg.mirrorCmd with | some c => finishCmd c stAborted 0 s | none => s
  let s := retirePending rg (discardRegionLines rg s)
  invalidateL1 (fun _ => true) { s with regions := s.regions.filter (fun r => r.base != rg.base) }

/-- The stack that holds a region's primary, with its home, is in service. -/
def regionLive (s : State) (r : Region) : Bool := stackLive s (r.home r.base) && halfLive s (r.home r.base)

/-- Act on the region with a base; a command whose region has been lost completes with ST_ABORTED. -/
def onRegion (base cmd : Nat) (s : State) (f : Region → State) : State :=
  match s.regions.find? (fun r => r.base == base) with
  | some r => f r
  | none => finishCmd cmd stAborted 0 s

/-- The connections to devices that no resident itinerary names any more are closed (R383 says when one opens and how many there are; DESIGN
CHOICE, log 49). -/
def closePeers (s : State) : State :=
  modNet (fun e => { e with conns := e.conns.filter (fun p => match p.2 with
    | some c => (match c.peer with | .device d => (allPeerDevices s).contains d | .guest _ => true)
    | none => false) }) s

/-- An eviction ends the binds and unbinds of its itinerary that were accepted before it and have not taken effect (R343, R355). -/
def evictItin (k cmd : Nat) (s : State) : State :=
  let mine := s.innk.acts.filterMap (fun a => match a with
    | .bind j _ _ c => if j = k then some c else none
    | .unbind j _ c => if j = k then some c else none
    | _ => none)
  let early := s.innk.cmds.filterMap (fun p => match p.2 with
    | some c => if (c.opcode == 0x0104#16 || c.opcode == 0x0105#16) && c.num 0 == k && decide (p.1 < cmd) then some p.1 else none
    | none => none)
  let s := forEach (mine ++ early) (fun c t => finishCmd c stAborted 0 t) s
  let s := modInnk (fun i => { i with acts := i.acts.filter (fun a => match a with
    | .bind j _ _ _ => j != k
    | .unbind j _ _ => j != k
    | _ => true) }) s
  finishCmd cmd stOk 0 (closePeers (setItin k none (forgetJob k s)))

/-- Pins of one range at a Bell (R209, R210, R367); the command completes once every line is resident. -/
def pinRange (addr len cmd : Nat) (on : Bool) (s : State) : State :=
  let ls := linesOf addr len
  if ls.any (fun l => (regionAt s (l * 128)).isNone) then finishCmd cmd stAborted 0 s
  else if ls.any (fun l => (usable s (l * 128)).isNone) then finishCmd cmd stNoUnit 0 s
  else if on then
    match pinConflict s ls with
    | some l => finishCmd cmd stDenied (l * 128) s
    | none =>
      let s := forEach ls (pinLine cmd) s
      if pinWaits s cmd then s else finishCmd cmd stOk 0 s
  else finishCmd cmd stOk 0 (forEach ls unpinLine s)

/-- A guest's window takes effect and is measured (R372, R515, R519). -/
def setWindow (g base len pkey cmd : Nat) (s : State) : State :=
  let s := modGuest g (fun x => { x with window := if len = 0 then none else some (base, len, pkey) }) s
  finishCmd cmd stOk 0 (extendMr 9 (sha3 (natBytes 2 g ++ natBytes 8 base ++ natBytes 8 len ++ natBytes 1 pkey)) s)

/-- One decided effect takes place at Bell n. -/
def doAct (n : Nat) (a : BellAct) (s : State) : State :=
  match a with
  | .bind k _ place cmd =>
    if noBind s then s
    else match getItin s k with
      | none => finishCmd cmd stAborted 0 s
      | some _ => if place.all (clusterLive s) then finishCmd cmd stOk n (bindTo k place s) else finishCmd cmd stNoUnit 0 s
  | .unbind k _ cmd => finishCmd cmd stOk n (modItin k (fun i => { i with binding := none }) s)
  | .evict k cmd => evictItin k cmd s
  | .mapNew r cmd => if regionLive s r then finishCmd cmd stOk 0 { s with regions := insertRegion r s.regions } else finishCmd cmd stAborted 0 s
  | .mapAttr base ro policy bypass keep pkey cmd => onRegion base cmd s (fun r =>
      let s := if ro && !r.ro then downgradeRegion r s else s
      let s := if r.ro && !ro then invalidateL1 (fun _ => true) s else s
      finishCmd cmd stOk 0 (modRegion base (fun x => { x with ro := ro, policy := policy, bypass := bypass, keep := keep, pkey := pkey }) s))
  | .unmap base cmd => onRegion base cmd s (fun r => finishCmd cmd stOk 0 (unmapRegion r s))
  | .sealRegion base cmd => onRegion base cmd s (fun r =>
      let s := modRegion base (fun x => { x with sealed := true, ro := true }) (downgradeRegion r s)
      finishCmd cmd stOk 0 (flushRegion r s))
  | .mirrorOn base cmd => onRegion base cmd s (fun r =>
      let p := partnerOf (stackOf base)
      if r.fromCopy || !stackLive s p || !halfLive s p then finishCmd cmd stAborted 0 s
      else modRegion base (fun x => { x with mirrored := true, mirrorNext := some base, mirrorCmd := some cmd }) s)
  | .mirrorOff base cmd => onRegion base cmd s (fun r =>
      let s := match r.mirrorCmd with | some c => finishCmd c stAborted 0 s | none => s
      finishCmd cmd stOk 0 (modRegion base (fun x => { x with mirrored := false, mirrorNext := none, mirrorCmd := none }) s))
  | .pin addr len cmd => pinRange addr len cmd true s
  | .unpin addr len cmd => pinRange addr len cmd false s
  | .window g base len pkey cmd => setWindow g base len pkey cmd s
  | .clusterOffline c cmd => if clusterLive s c then modInnk (fun i => { i with acts := i.acts ++ [.clusterOffline c cmd] }) s else finishCmd cmd stOk 0 s
  | .complete cmd => match getCmd s cmd with | some c => finishCmd cmd c.status c.result.toNat s | none => s

/-- An effect is due at a Bell at an instant: a binding's at the Bell it names, any other at the first. -/
def BellAct.due (t : Nat) : BellAct → Bool
  | .bind _ b _ _ => decide (b ≤ t)
  | .unbind _ b _ => decide (b ≤ t)
  | _ => true

/-- The command of an effect that pins or unpins. -/
def BellAct.pinCmd : BellAct → Option Nat
  | .pin _ _ c => some c
  | .unpin _ _ c => some c
  | _ => none

/-- Pins among themselves take effect in the order of acceptance (R209), in the places that dispatch gave them. -/
def orderPins (acts : List BellAct) : List BellAct :=
  let pins := (acts.filter (fun a => a.pinCmd.isSome)).mergeSort (fun a b => decide (a.pinCmd.getD 0 ≤ b.pinCmd.getD 0))
  (acts.foldl (fun (p : List BellAct × List BellAct) a =>
    if a.pinCmd.isSome then match p.2 with | x :: t => (p.1 ++ [x], t) | [] => p else (p.1 ++ [a], p.2)) ([], pins)).1

/-- Every effect that is due at Bell n, which falls at an instant, takes place (R327, R343). -/
def doActs (n t : Nat) (s : State) : State :=
  let due := orderPins (s.innk.acts.filter (BellAct.due t))
  let s := modInnk (fun i => { i with acts := i.acts.filter (fun a => !a.due t) }) s
  forEach due (doAct n) s

/-- A selected configuration replaces the binding; its halves are switched on (R300, R483). -/
def install (k c : Nat) (s : State) : State :=
  match (getItin s k).bind (fun i => i.image.bodies[c]?) with
  | none => s
  | some b => modItin k (fun i => { i with config := c, reselect := false, reselectNow := false, selected := none }) (bindTo k b.place s)

/-- An itinerary holds one of some clusters, or is to take one at the restart Bell. -/
def Itin.names (out : List Nat) (i : Itin) : Bool :=
  (i.binding.getD []).any out.contains ||
  (match i.selected.bind (fun n => i.image.bodies[n]?) with | some b => b.place.any out.contains | none => false)

/-- A `cluster.offline` takes a cluster out. -/
def offlineActs (s : State) : List Nat := s.innk.acts.filterMap (fun a => match a with | .clusterOffline c _ => some c | _ => none)

/-- Clusters that are to leave service leave it, unless a late leg holds them (R102, R288, R349); the itineraries bound to them select
again at this Bell, those that a discard told to select at their replay Bell apart. CLUSTERS_LIVE loses them at this Bell, also before a restart Bell (R8, R349). -/
def takeOut (s : State) : State :=
  let held := heldClusters s
  let out := s.clusters.filterMap (fun p => if p.2.offline && !p.2.out && !held.contains p.1 then some p.1 else none)
  let gone := out.countP (clusterLive s)
  let s := forEach out (fun c t => modCluster c (fun x => { x with out := true }) t) s
  let s := modLdg (fun l => { l with capCl := l.capCl - gone }) s
  forEach (itinSlots s) (fun k t => modItin k (fun i =>
    if i.names ((offlineActs s).filter out.contains) || (i.names out && !i.reselect) then { i with reselect := true, reselectNow := true } else i) t) s

/-- The commands that took them out complete (R349). -/
def finishOffline (s : State) : State :=
  let s := forEach s.innk.acts (fun a t => match a with
    | .clusterOffline c cmd => if clusterLive t c then t else finishCmd cmd stOk 0 t
    | _ => t) s
  modInnk (fun i => { i with acts := i.acts.filter (fun a => match a with | .clusterOffline c _ => clusterLive s c | _ => true) }) s

/-- The itineraries that select again at a Bell at an instant: at the one at which a cluster of theirs leaves service (R349), or at the
replay Bell (R288). -/
def reselecting (now : Nat) (s : State) : List Nat :=
  s.itins.filterMap (fun p => match p.2 with
    | some i => if i.reselect && (i.reselectNow || match i.replayAfter with | some t => decide (t ≤ now) | none => true) then some p.1 else none
    | none => none)

/-- Configurations are selected again without a rollback (R288, R300, R301, R349); between a state-loss fault and its restart Bell the
selection made for that Bell is made again. -/
def reselect (now : Nat) (s : State) : State :=
  match reselecting now s with
  | [] => s
  | ks =>
    if s.ldg.rollback.isSome then
      selectForRestart (forEach ks (fun k t => modItin k (fun i => { i with reselect := false, reselectNow := false }) t) s)
    else
      forEach (selection s ks []) (fun r t =>
        match r.2 with
        | some (c, place) => modLdg (fun l => { l with configChange := true }) (install r.1 c (warmHalves place t))
        | none => stopJob r.1 0x21 none (modItin r.1 (fun i => { i with binding := none, reselect := false, reselectNow := false }) t)) s

/-- The L1s of every cluster whose itinerary has changed are invalidated (R51). -/
def switchL1 (before : State) (s : State) : State :=
  invalidateL1 (fun c => decide ((boundTo before c).map (·.1) ≠ (boundTo s c).map (·.1))) s

end Sys2Proof.Machine
end

