-- ==== Sys2Proof/Machine/Operands.lean ====
section
/-! DEFINITION. Operands of the compute cores' instructions: the issuing group, predicates, operand codes, registers with
their poison marks, and the encoding checks of R85 (R67, R68, R75, R85, R86, R471). -/

namespace Sys2Proof.Machine

/-- Causes of R97. -/
def cIllegalInsn : Nat := 1
def cIllegalReg : Nat := 2
def cAlign : Nat := 3
def cAddr : Nat := 4
def cProt : Nat := 5
def cStoreRange : Nat := 6
def cSplit : Nat := 7
def cPoison : Nat := 8
def cTrap : Nat := 9

/-- The units of R87 that accept instructions: integer, load/store, control, matrix, chain. -/
def unitInt : Nat := 0
def unitLs : Nat := 1
def unitCtl : Nat := 2
def unitMx : Nat := 3
def unitVc : Nat := 4
/-- A CPY.IN, which the control unit executes and which, unlike a CTL instruction, may open a pair (R70, R87); and the unit itself. -/
def unitCpy : Nat := 5
def unitOf (u : Nat) : Nat := if u = unitCpy then unitCtl else u

/-- Threads 0 to 31. -/
def threads32 : List Nat := List.range 32

/-- The threads of a mask, ascending. -/
def maskThreads (m : BitVec 32) : List Nat := threads32.filter (fun t => m.getLsbD t)

/-- The mask of the threads that meet a condition. -/
def threadMask (p : Nat → Bool) : BitVec 32 := threads32.foldl (fun m t => if p t then setBit m t else m) 0#32

/-- Thread t of a caravan. -/
def Caravan.thread (c : Caravan) (t : Nat) : Thread := c.threads.getD t { pc := 0#40, exited := true }

/-- A thread takes part in choosing the issuing group (R67). -/
def Thread.live (t : Thread) : Bool := !t.exited && !t.parked

/-- The lowest program counter of a caravan's live threads (R67). -/
def Caravan.issuePc (c : Caravan) : Option (BitVec 40) :=
  (c.threads.filter Thread.live).foldl (fun m t => match m with
    | none => some t.pc
    | some p => if t.pc.ult p then some t.pc else some p) none

/-- The issuing group: the live threads at the lowest program counter (R67). -/
def Caravan.group (c : Caravan) (pc : BitVec 40) : BitVec 32 := threadMask (fun t => (c.thread t).live && (c.thread t).pc == pc)

/-- What an issuing instruction works with: where it runs, its fields, the caravan, the caravan as its sources read it, the
active threads and the threads that execute it, whether it closes a pair (R71), its unit, and what the operand codes of the launch read. -/
structure Issue where
  at_ : CoreSlot
  f : Insn
  car : Caravan
  src : Caravan
  pc : BitVec 40
  act : BitVec 32
  exe : BitVec 32
  closes : Bool
  unit : Nat
  jsn : Word
  lcl : Nat
  seed : Word
deriving DecidableEq, Repr

/-- The register limit of a caravan (R75, R85). -/
def Caravan.regLimit (c : Caravan) : Nat := c.regGran * 8

/-- A thread's register. -/
def Caravan.reg (c : Caravan) (t n : Nat) : BitVec 32 := tabGet 0#32 c.regs (n * 32 + t)

/-- The poison mark of the word that holds a thread's register (R469). -/
def Caravan.mark (c : Caravan) (t n : Nat) : Mark := tabGet .clean c.marks (n * 4 + t / 8)

/-- Write one register of the threads a function gives a value; a word all of whose threads are written loses its poison, a
word written in part keeps it (R471). -/
def Caravan.writeReg (n : Nat) (v : Nat → Option (BitVec 32)) (c : Caravan) : Caravan :=
  { c with
    regs := threads32.foldl (fun r t => match v t with | some x => tabSet 0#32 r (n * 32 + t) x | none => r) c.regs
    marks := (List.range 4).foldl (fun m w =>
      if (List.range 8).all (fun i => (v (8 * w + i)).isSome) then tabSet .clean m (n * 4 + w) .clean else m) c.marks }

/-- Change the threads of a mask. -/
def Caravan.modThreads (m : BitVec 32) (f : Thread → Thread) (c : Caravan) : Caravan :=
  { c with threads := c.threads.mapIdx (fun i t => if m.getLsbD i then f t else t) }

/-- A predicate of a thread. -/
def Caravan.predOf (c : Caravan) (t p : Nat) : Bool := (c.thread t).preds.getLsbD p

/-- Write a predicate of the threads of a mask. -/
def Caravan.setPred (m : BitVec 32) (p : Nat) (v : Nat → Bool) (c : Caravan) : Caravan :=
  { c with threads := c.threads.mapIdx (fun i t => if m.getLsbD i then { t with preds := if v i then setBit t.preds p else clearBit t.preds p } else t) }

/-- The leader: the lowest-numbered thread that executes the instruction (R67). -/
def Issue.leader (i : Issue) : Nat := (maskThreads i.exe).headD 0

/-- An argument word of the launch (R86). -/
def Caravan.arg (c : Caravan) (n : Nat) : BitVec 32 := c.argw.getD n 0#32

/-- A 32-bit source operand of a thread (R86). -/
def Issue.src32 (i : Issue) (t : Nat) (code : BitVec 8) : BitVec 32 :=
  let n := code.toNat
  if n < 0x80 then i.src.reg t n
  else if n = 0x81 then BitVec.ofNat 32 t
  else if n = 0x82 then BitVec.ofNat 32 i.src.cvn
  else if n = 0x83 then BitVec.ofNat 32 i.at_.core
  else if n = 0x84 then BitVec.ofNat 32 i.lcl
  else if n = 0x85 then BitVec.ofNat 32 (i.lcl * 8 + i.at_.core)
  else if n = 0x86 then i.jsn.extractLsb' 0 32
  else if n = 0x87 then i.jsn.extractLsb' 32 32
  else if 0x88 ≤ n ∧ n ≤ 0x97 then i.src.arg (n - 0x88)
  else if n = 0x98 then BitVec.ofNat 32 i.src.ncvn
  else 0#32

/-- A 64-bit source operand of a thread (R75, R86): a register pair, the whole job stage number, a pair of argument words, or a
special code zero-extended. -/
def Issue.src64 (i : Issue) (t : Nat) (code : BitVec 8) : Word :=
  let n := code.toNat
  if n < 0x80 then i.src.reg t (n + 1) ++ i.src.reg t n
  else if n = 0x86 then i.jsn
  else if 0x88 ≤ n ∧ n ≤ 0x97 ∧ n % 2 = 0 then i.src.arg (n - 0x87) ++ i.src.arg (n - 0x88)
  else (i.src32 t code).setWidth 64

/-- A 128-bit source operand of a thread (R75, R86). R86 gives special codes a 32-bit and a 64-bit value alone: one named as a 128-bit
operand reads its 64-bit value zero-extended (DESIGN CHOICE, log 10). -/
def Issue.src128 (i : Issue) (t : Nat) (code : BitVec 8) : BitVec 128 :=
  let n := code.toNat
  if n < 0x80 then i.src.reg t (n + 3) ++ i.src.reg t (n + 2) ++ i.src.reg t (n + 1) ++ i.src.reg t n
  else (i.src64 t code).setWidth 128

/-- The immediate of the instruction: IMM24 sign-extended or zero-extended (R84). -/
def insnImm (f : Insn) : BitVec 24 := f.sb ++ f.sc ++ f.sd
def insnImmS (f : Insn) : Word := (insnImm f).signExtend 64
def insnImmZ (f : Insn) : Word := (insnImm f).setWidth 64

/-- A use of an operand field: its code, how many registers the operand spans, and whether it is written. -/
structure OpUse where
  code : BitVec 8
  width : Nat
  dst : Bool := false
deriving DecidableEq, Repr

/-- An operand code that is reserved for its place, or a register that is not aligned (R75, R85, R86). -/
def OpUse.bad (u : OpUse) : Bool :=
  let n := u.code.toNat
  if n < 0x80 then decide (n % u.width ≠ 0)
  else if u.dst then decide (n ≠ 0x80)
  else decide (0x98 < n)

/-- A register at or above the caravan's limit (R85). -/
def OpUse.over (u : OpUse) (c : Caravan) : Bool :=
  decide (u.code.toNat < 0x80) && decide (c.regLimit < u.code.toNat + u.width)

/-- The registers an operand use names. -/
def OpUse.regs (u : OpUse) : List Nat := if u.code.toNat < 0x80 then (List.range u.width).map (u.code.toNat + ·) else []

/-- The encoding check of an instruction (R85): a condition that makes it illegal, its operand uses, and the fields that must
be 0; then the register limit. None when it passes. -/
def checkInsn (c : Caravan) (f : Insn) (illegal : Bool) (uses : List OpUse) (zero : List (BitVec 8)) : Option Nat :=
  if illegal || (f.pred == 15#4 && f.pn) || uses.any OpUse.bad || zero.any (· != 0#8) then some cIllegalInsn
  else if uses.any (fun u => u.over c) then some cIllegalReg
  else none

/-- The threads of a mask that read a poisoned register word in some operand use, and whether all that poison is the cluster's
own (R97, R468). -/
def poisonReaders (i : Issue) (m : BitVec 32) (uses : List OpUse) : BitVec 32 × Bool :=
  let rs := (uses.filter (fun u => !u.dst)).flatMap OpUse.regs
  let bad := threadMask (fun t => m.getLsbD t && rs.any (fun n => i.src.mark t n != .clean))
  (bad, (maskThreads bad).all (fun t => rs.all (fun n => i.src.mark t n != .outside)))

end Sys2Proof.Machine
end

