-- ==== Sys2Proof/Machine/Flags.lean ====
section
/-! DEFINITION. The sticky flags of the matrix unit and the vector chain (R129, R133, R166, R167): set, collected at a
commit, cleared at a discard. -/

namespace Sys2Proof.Machine

/-- The matrix unit's flags after an instruction: a flag once set stays set (R129). -/
def Core.addMx (fl : Flags) (c : Core) : Core :=
  { c with mxFlags := { c.mxFlags with
      of := c.mxFlags.of ||| boolBit fl.of, uf := c.mxFlags.uf ||| boolBit fl.uf
      nx := c.mxFlags.nx ||| boolBit fl.nx, nv := c.mxFlags.nv ||| boolBit fl.nv } }

/-- The vector chain's flags after an operation (R166). -/
def Core.addVc (fl : Flags) (c : Core) : Core :=
  { c with vcFlags := { c.vcFlags with
      of := c.vcFlags.of ||| boolBit fl.of, uf := c.vcFlags.uf ||| boolBit fl.uf
      nx := c.vcFlags.nx ||| boolBit fl.nx, nv := c.vcFlags.nv ||| boolBit fl.nv } }

/-- The four flags as they stand in a record: OF, UF, NX, NV from bit 0 (R277). -/
def Core.mxNibble (c : Core) : BitVec 4 := c.mxFlags.nv ++ c.mxFlags.nx ++ c.mxFlags.uf ++ c.mxFlags.of
def Core.vcNibble (c : Core) : BitVec 4 := c.vcFlags.nv ++ c.vcFlags.nx ++ c.vcFlags.uf ++ c.vcFlags.of

/-- At a commit the flags are copied into LAST and cleared (R133, R167). -/
def Core.collectFlags (c : Core) : Core :=
  { c with mxFlags := { of := 0#1, uf := 0#1, nx := 0#1, nv := 0#1, last := c.mxNibble }
           vcFlags := { of := 0#1, uf := 0#1, nx := 0#1, nv := 0#1, last := c.vcNibble } }

end Sys2Proof.Machine
end

