-- ==== Sys2Proof/Machine/BellLegs.lean ====
section
/-! DEFINITION. What a Bell does with legs and jobs (R29, R30, R36, R39 to R46, R272, R276, R277, R283, R286 to R288, R294, R295, R300, R353,
R358 to R362, R410, R411): commits, misses, discards, stops, restarts and starts, with their ledger records. -/

namespace Sys2Proof.Machine

/-- An attempt's share of the energy of the stage that closes (R496, R497): the spec gives no measure of a rail's idle part, so the share
is a free value. -/
def chargeLeg (k : Nat) (l : Leg) (s : State) : Leg × State :=
  let (e, s) := draw 64 s
  ({ l with energy := l.energy + e }, modItin k (fun i => { i with energy := i.energy + e, jsnEnergy := i.jsnEnergy + e }) s)

/-- A leg record (R277). Count fields read 0 in LATE and HELD records. -/
def legRec (n k : Nat) (o : LegOutcome) (i : Itin) (l : Leg) (f : Option FaultInfo) : LegRec :=
  let full (x : Nat) : Nat := match o with | .late => 0 | .held => 0 | _ => x
  { seq := 0, bell := n, outcome := o, itin := k, config := i.config, det := i.image.det, suppressed := l.suppressed, replay := l.replay
    missed := l.missed, job := l.job, jsn := l.jsn, start := l.start, mxFlags := 0#4, vcFlags := 0#4, replays := i.discards, fault := f
    energy := l.energy, entries := full l.issued.length, empty := full l.empty, macs := full l.macs, elems := full l.elems
    porterBytes := full l.porterBytes, txBytes := full l.txBytes, rxBytes := full l.rxBytes, slips := full l.slips }

/-- The leg that would run next, where no attempt runs (R277). -/
def nextLeg (n : Nat) (i : Itin) (j : Job) : Leg :=
  { job := j.id, jsn := j.next, start := n, replay := decide (j.next < i.started), suppressed := decide (j.next < j.released), clusters := [], entries := [] }

/-- The flags of every core of some clusters, together (R133, R167). -/
def clusterFlags (s : State) (cls : List Nat) (f : Core → BitVec 4) : BitVec 4 :=
  cls.foldl (fun m c => (getCluster s c).cores.foldl (fun m p => m ||| f p.2) m) 0#4

/-- The commands that wait for a leg complete, with the energy of its attempts (R287, R332, R362). -/
def finishAwaits (job : Word) (jsn n : Nat) (st : BitVec 16) (e : Word) (s : State) : State :=
  forEach (s.innk.cmds.map (·.1)) (fun id t =>
    match getCmd t id with
    | some c => if c.opcode == 0x0204#16 && c.phase == .waiting && c.arg 0 == job && c.num 1 == jsn then
        finishCmd id st n (modCmd id (fun d => { d with energy := e }) t) else t
    | none => t) s

/-- A done leg commits at Bell n (R39, R272, R277, R287, R295). -/
def commitLeg (n k : Nat) (s : State) : List LegRec × State :=
  match getItin s k with
  | none => ([], s)
  | some i =>
    match i.leg, i.job with
    | some l, some j =>
      let mx := clusterFlags s l.clusters Core.mxNibble
      let vc := clusterFlags s l.clusters Core.vcNibble
      let s := forEach l.clusters (fun c t => modCluster c (fun x => { x with cores := x.cores.map (fun p => (p.1, p.2.collectFlags)) }) t) s
      let (l, s) := chargeLeg k l s
      let e := match getItin s k with | some i => i.jsnEnergy | none => 0#64
      let s := finishAwaits j.id l.jsn n (if l.replay then stReplayed else stOk) e s
      let last := decide (j.stages ≤ l.jsn + 1)
      let j := { j with next := l.jsn + 1, released := max j.released (l.jsn + 1), st := if last then JobState.finished else j.st
                        endBell := if last then n else j.endBell }
      let s := modItin k (fun i => { i with leg := none, discards := 0, history := [], isReplay := false, jsnEnergy := 0#64, job := some j }) s
      let s := modNet (fun e => { e with
        sends := e.sends.filter (fun x => x.itin != k), recvs := e.recvs.filter (fun x => !(x.itin == k && x.jsn == l.jsn)) }) s
      ([{ legRec n k .commit i l none with mxFlags := mx, vcFlags := vc }], s)
    | _, _ => ([], s)

/-- A leg that is not done misses Bell n (R30, R42, R46). -/
def missLeg (n k : Nat) (s : State) : List LegRec × State :=
  match getItin s k with
  | none => ([], s)
  | some i =>
    match i.leg with
    | none => ([], s)
    | some l =>
      let (l, s) := chargeLeg k { l with missed := l.missed + 1, windowDone := false } s
      let s := modStg (fun g => { g with events := { g.events with late := satInc g.events.late } }) (modItin k (fun i => { i with leg := some l }) s)
      ([legRec n k .late i l none], s)

/-- Do something for each of some itineraries, gathering the records. -/
def forLegs {α : Type} (xs : List α) (f : α → State → List LegRec × State) (s : State) : List LegRec × State :=
  xs.foldl (fun p x => let r := f x p.2; (p.1 ++ r.1, r.2)) ([], s)

/-- The records of the legs discarded in the stage that closes (R276). -/
def discardRec (n : Nat) (d : Discard) (s : State) : List LegRec × State :=
  let (l, s) := chargeLeg d.itin d.leg s
  match getItin s d.itin with
  | some i => ([legRec n d.itin .discard i l (some d.fault)], s)
  | none => ([], s)

/-- A job stopped in the stage that closes gets its record (R243, R277, R288, R301, R307); its itinerary's binding ends where the
itinerary is stopped. -/
def stopRec (n : Nat) (r : StopReq) (s : State) : List LegRec × State :=
  let s := endJobCmds r.job n (modItin r.itin (fun i => { i with
    binding := if r.fclass = 0x20 ∨ r.fclass = 0x21 then none else i.binding
    job := i.job.map (fun j => if j.id = r.job ∧ j.st = .stopped then { j with endBell := n } else j) }) s)
  match getItin s r.itin with
  | none => ([], s)
  | some i =>
    let f : Option FaultInfo := if r.fclass = 0 then none else some { fclass := r.fclass }
    match r.leg with
    | some l =>
      let (l, s) := chargeLeg r.itin l s
      ([legRec n r.itin .stopped i l f], s)
    | none => ([legRec n r.itin .stopped i { job := r.job, jsn := r.jsn, start := n, clusters := [], entries := [] } f], s)

/-- Every job stopped since the last Bell (R276). -/
def settleStops (n : Nat) (s : State) : List LegRec × State :=
  forLegs s.ldg.stops (stopRec n) (modLdg (fun l => { l with stops := [] }) s)

/-- `job.stop` at its Bell, after the done legs have committed (R361): a leg that still runs is discarded. -/
def stopAtBell (n k : Nat) (s : State) : List LegRec × State :=
  match getItin s k with
  | none => ([], s)
  | some i =>
    match i.job with
    | none => ([], s)
    | some j =>
      match j.stopAt with
      | none => ([], s)
      | some b =>
        if n < b ∨ j.st = .stopped then ([], s)
        else
          let s := dropRecvs k (match i.leg with | some l => stopLegWork k l s | none => s)
          let s := modItin k (fun i => { i with
            leg := none, replayAfter := none
            job := some { j with st := if j.st = .finished then .finished else .stopped, endBell := if j.st = .finished then j.endBell else n, stopAt := none } }) s
          stopRec n { itin := k, job := j.id, jsn := j.next, fclass := 0, leg := i.leg, fault := none } s

/-- The stop of a job reaches its other members: it is sent in the stage before the stop Bell, so that each stops the job at that Bell
(R361, R410). -/
def announceStops (n : Nat) (s : State) : State :=
  forEach (itinSlots s) (fun k t =>
    match getItin t k with
    | some i => match i.job with
      | some j => if j.stopAt = some (n + 1) ∧ j.active then sendAll (membersOf i) { kind := 5, job := j.id, round := j.round } t else t
      | none => t
    | none => t) s

/-- A member that has not received CONFIRM when the Bell before its job's falls abandons the job (R410), one that has had no PREPARE either. -/
def abandonPreps (n : Nat) (s : State) : State :=
  forEach s.net.preps (fun p t =>
    if p.myPos ≠ 0 ∧ p.bell ≤ n + 1 then failPrep p (sendAll p.members { kind := 5, job := p.job, round := max 1 p.round } t) else t) s

/-- A confirmed job starts at its Bell, and its `job.confirm` completes (R360). -/
def startJobs (n : Nat) (s : State) : State :=
  forEach (itinSlots s) (fun k t =>
    match getItin t k with
    | some i => match i.job with
      | some j =>
        if j.st = .prepared ∧ j.confirmed ∧ j.bell ≤ n then
          let t := modItin k (fun i => { i with job := some { j with st := .running } }) t
          forEach (t.innk.cmds.map (·.1)) (fun id u =>
            match getCmd u id with
            | some c => if c.opcode == 0x0202#16 && c.phase == .waiting && c.arg 0 == j.id then finishCmd id stOk j.bell u else u
            | none => u) t
        else t
      | none => t
    | none => t) s

/-- A job resumes from a checkpoint (R294, R298, R411), its count of discards starting afresh (R288). One that finished after the
checkpoint runs its last legs again. In a RESTART record no transfer has been suppressed yet (R277). -/
def resume (n k : Nat) (ck : Option Nat) (s : State) : List LegRec × State :=
  match getItin s k with
  | none => ([], s)
  | some i =>
    match i.job with
    | none => ([], s)
    | some j =>
      let pos := i.posAt ck
      if j.st = .prepared ∨ j.st = .stopped ∨ j.stages ≤ pos then ([], s)
      else
        let j := { j with next := pos, st := JobState.running }
        let s := modItin k (fun i => { i with job := some j, replayAfter := none, jsnEnergy := 0#64, isReplay := false, discards := 0, history := [] }) s
        let i := { i with discards := 0 }
        (if i.binding.isSome then [legRec n k .restart i { nextLeg n i j with suppressed := false } none] else [], s)

/-- The halves of a placement selected at a state loss are warm by its restart Bell (R483). -/
def heatHalves (place : List Nat) (s : State) : State :=
  forEach ((List.range 8).filter (fun h => place.any (fun c => c / 128 == h))) (fun h t =>
    { t with pwr := { t.pwr with domOn := setBit t.pwr.domOn (3 * (h / 2) + h % 2), warming := clearBit t.pwr.warming h } }) s

/-- The restart Bell of a rollback (R294), which falls at an instant: the selected configurations take effect and the itineraries resume,
but those whose job other devices share. -/
def restartBell (n t : Nat) (s : State) : List LegRec × State :=
  match s.ldg.rollback with
  | none => ([], s)
  | some r =>
    if t < r.notBefore ∨ noBind s then ([], s)
    else
      let sel := s.itins.filterMap (fun p => match p.2 with | some i => i.selected.map (fun c => (p.1, c)) | none => none)
      let s := forEach sel (fun p u =>
        heatHalves (match (getItin u p.1).bind (fun i => i.image.bodies[p.2]?) with | some b => b.place | none => []) (install p.1 p.2 u)) s
      let s := modLdg (fun l => { l with rollback := none, restart := n, restarted := true, configChange := true }) s
      forLegs (itinSlots s) (fun k u =>
        match (getItin u k).bind (·.job) with
        | some j => if (rollOf u j.id).isSome then ([], u) else resume n k u.ldg.ckpt u
        | none => ([], u)) s

/-- The jobs shared with other devices whose common restart Bell this is (R298, R411). -/
def restartRolls (n : Nat) (s : State) : List LegRec × State :=
  if s.ldg.rollback.isSome then ([], s)
  else
    forLegs (s.net.rolls.filter (fun r => match r.restartBell with | some b => decide (b ≤ n) | none => false)) (fun r u =>
      let u := modNet (fun e => { e with rolls := e.rolls.filter (fun x => x.job != r.job) }) u
      match jobSlot u r.job with
      | some k => resume n k r.restartCkpt (modLdg (fun l => { l with restart := n, restarted := true }) u)
      | none => ([], u)) s

/-- A cluster half is on (R483). -/
def halfOn (s : State) (h : Nat) : Bool := s.pwr.domOn.getLsbD (3 * (h / 2) + h % 2) && !s.pwr.warming.getLsbD h

/-- A cluster is free for a leg (R43, R483, R556). -/
def clusterFree (s : State) (c : Nat) : Bool := clusterLive s c && (heldBy s c).isNone && !(getCluster s c).halted && halfOn s (c / 128)

/-- The offset of the leg table that a job stage number runs (R353). -/
def legOffset (b : Body) (jsn : Nat) : Option Nat :=
  let loop := b.legs.length - b.nPro
  if jsn < b.nPro then b.legs[jsn]? else if loop = 0 then none else b.legs[b.nPro + (jsn - b.nPro) % loop]?

/-- A leg's entries up to its END, read from the image (R34). -/
def readLeg (base : Nat) : Nat → Nat → State → Option (List Entry) × State
  | 0, _, s => (some [], s)
  | fuel + 1, off, s =>
    let (r, s) := homeReadBytes .innkeeper (base + off) 16 s
    match r with
    | none => (none, s)
    | some bs =>
      let e := entryAt bs 0
      if e.kind = 0 then (some [], s)
      else
        let (es, s) := readLeg base fuel (off + 16) s
        (es.map (fun t => e :: t), s)

/-- A leg that cannot start at this Bell is held (R43). -/
def holdLeg (n k : Nat) (i : Itin) (j : Job) (s : State) : List LegRec × State :=
  ([legRec n k .held i (nextLeg n i j) none], modStg (fun g => { g with events := { g.events with held := satInc g.events.held } }) s)

/-- An itinerary starts its leg at Bell n, or is held (R40, R41, R43, R286, R294, R295, R304, R358, R361). -/
def startLeg (n t k : Nat) (s : State) : List LegRec × State :=
  match getItin s k with
  | none => ([], s)
  | some i =>
    match i.job, i.binding with
    | some j, some place =>
      let due := match i.replayAfter with | some x => decide (x ≤ t) | none => true
      if j.st ≠ .running ∨ i.leg.isSome ∨ j.stages ≤ j.next ∨ !due ∨ s.ldg.rollback.isSome ∨ (rollOf s j.id).isSome then ([], s)
      else if !place.all (clusterFree s) then holdLeg n k i j s
      else match (i.image.bodies[i.config]?).bind (fun b => legOffset b j.next) with
        | none => ([], s)
        | some off =>
          let (r, s) := readLeg i.image.base 65536 off s
          match r with
          | none => holdLeg n k i j s
          | some es =>
            let l := { nextLeg n i j with clusters := place, entries := es, begun := s.stg.upNs }
            let s := if i.isReplay then modLdg (fun d => { d with faults := { d.faults with replays := satInc d.faults.replays } }) s else s
            ([], modItin k (fun i => { i with leg := some l, isReplay := false, replayAfter := none, started := max i.started (j.next + 1) }) s)
    | _, _ => ([], s)

/-- An entry that has issued is done (R29): a LAUNCH once its caravans have retired on every core. -/
def entryIsDone (s : State) (k : Nat) (l : Leg) (e : Nat) (en : Entry) : Bool :=
  l.issued.contains e && (l.done.contains e || (en.kind == 1 && l.clusters.all (fun c => (getCluster s c).cores.all (fun p => p.2.slots.all (fun q =>
    match q.2 with | some v => !(decide (q.1 < 16) && v.itin == k && v.launch == e) | none => true)))))

/-- A leg is done (R29, R36). -/
def legDone (s : State) (k : Nat) (l : Leg) : Bool := ((List.range l.entries.length).zip l.entries).all (fun p => entryIsDone s k l p.1 p.2)

end Sys2Proof.Machine
end

