-- ==== Sys2Proof/Machine/Bell.lean ====
section
/-! DEFINITION. The Bell, the commit window and the watchdog (R17, R28 to R33, R45, R52, R53, R57, R66, R103, R211, R272, R273, R276, R278,
R291, R292, R430, R440, R561). The effects of a Bell are taken in this order: staged configuration, counts of the closed stage, legs that
commit, miss or have been discarded, stops, decided effects, restarts, clearing, starts, the checkpoint, the records. -/

namespace Sys2Proof.Machine

/-- Bells fall: the module runs and the time unit has left UNSET (R22). -/
def bellsFall (s : State) : Bool := s.mdl.st == .running && s.stg.time.state != timeUnset

-- staged configuration (R52, R53)

/-- The commands of the changes that enter, whose every change is then in force. -/
def enteredCmds (p : CfgPending) (entered : List (Option Nat)) : List Nat :=
  (entered.filterMap id).eraseDups.filter (fun c => !p.lw.any (fun x => x.cmd == some c) && !p.cw.any (fun x => x.cmd == some c))

/-- The staged changes that are due enter STG_CFG; registers written by firmware take effect (R52, R53, R230, R270, R303, R338, R421,
R441). -/
def enterConfig (t : Nat) (s : State) : State :=
  let p := s.stg.pend
  let lw := p.lw.filter (lwDue t)
  let cw := p.cw.filter cwDue
  let rest : CfgPending := { lw := p.lw.filter (fun x => !lwDue t x)
                             cw := (p.cw.filter (fun x => !cwDue x)).map (fun x => { x with bells := x.bells - 1 }) }
  let s := modStg (fun g => { g with cfg := cfgCw (cfgLw g.cfg lw) cw, pend := rest
                                     next := if rest.lw.isEmpty && rest.cw.isEmpty then { g.next with apply := 0#1 } else g.next }) s
  let s := forEach (enteredCmds rest (lw.map (·.cmd) ++ cw.map (·.cmd))) (fun c u => finishCmd c stOk (wordStgCfg s.stg.cfg).toNat u) s
  let s := { s with
    ldg := { s.ldg with cfgEff := s.ldg.cfg }
    innk := { s.innk with cfgEff := s.innk.cfg }
    net := { s.net with cfgEff := s.net.cfg, relayEff := s.net.relay, jobEff := s.net.job }
    ptrCfgEff := s.ptrCfg
    homes := s.homes.map (fun p => (p.1, { p.2 with cfgEff := p.2.cfg }))
    ctls := s.ctls.map (fun p => (p.1, { p.2 with cfgEff := p.2.cfg })) }
  forEach (s.ctls.map (·.1)) drainDown (clampWindows s)

-- counts of the closed stage (R103)

/-- A field of a word of free bits. -/
def freeField (r : BitVec 384) (n : Nat) : BitVec 32 := r.extractLsb' (32 * n) 32

/-- The closed-stage registers of a core whose leg has ended (R102, R136, R193); counts of cycles are free values. -/
def Core.close (r : BitVec 384) (x : Core) : Core :=
  { x with run := {}, closed := {
      issue := { dual := freeField r 0, single := freeField r 1 }
      stall := { bubble := freeField r 2, collFull := freeField r 3 }
      wait := { splitWait := freeField r 4, counterWait := freeField r 5 }
      mem := { bankConflict := freeField r 6, l1MissWait := freeField r 7 }
      mxuBusy := { array := freeField r 8, qfull := freeField r 9 }
      mxuOps := { mma := BitVec.ofNat 32 x.run.mma, mrd := satAdd 0#16 x.run.mrd, mld := satAdd 0#16 x.run.mld }
      mxuMacs := { macs := BitVec.ofNat 64 x.run.macs }
      vchBusy := { active := freeField r 10, qfull := freeField r 11 }
      vchOps := { ops := BitVec.ofNat 32 x.run.vOps, trans := satAdd 0#16 x.run.vTrans, fp64 := satAdd 0#16 x.run.vFp64 }
      vchElems := { elems := BitVec.ofNat 64 x.run.vElems } } }

/-- A cluster that ran no leg counts nothing: it is clock-gated. -/
def Cluster.closeIdle (c : Cluster) : Cluster :=
  { c with closedCpy := {}, closedStore := {}, cores := c.cores.map (fun p => (p.1, { p.2 with run := {}, closed := {} })) }

/-- A cluster closes its counts. -/
def closeCluster (id : Nat) (worked : Bool) (s : State) : State :=
  if !worked then modCluster id Cluster.closeIdle s
  else
    let (b, s) := draw 32 s
    let s := modCluster id (fun c => { c with
      closedCpy := { bytes := BitVec.ofNat 48 c.cpyBytes, reqs := satAdd 0#16 c.cpyReqs }, closedStore := { conflict := b } }) s
    forEach ((getCluster s id).cores.map (·.1)) (fun n t => let (r, t) := draw 384 t; modCore id n (Core.close r) t) s

/-- Every cluster that no late leg holds closes its counts (R103). -/
def closeClusters (worked held : List Nat) (s : State) : State :=
  forEach (s.clusters.map (·.1)) (fun id t => if held.contains id then t else closeCluster id (worked.contains id) t) s

/-- Pin pressure in the closed stage (R211). -/
def Home.pressed (h : Home) : Bool :=
  decide (h.cfgEff.pressMinAcc.toNat ≤ h.run.pin.heavyAcc.toNat) &&
  decide (h.run.pin.heavyAcc.toNat * h.cfgEff.pressThresh.toNat < h.run.pin.heavyMiss.toNat * 256)

/-- A home closes its counts (R211, R228, R231); how full its queues were is a free value. -/
def closeHome (n : Nat) (s : State) : State :=
  if (getHome s n).run = {} then modHome n (fun h => { h with closed := {}, pressure := false }) s
  else
    let (r, s) := draw 70 s
    modHome n (fun h => { h with
      pressure := h.pressed, run := {}
      closed := { h.run with hot := { qfullCycles := r.extractLsb' 0 32, hotSlice := r.extractLsb' 64 6 }
                             evb := { h.run.evb with fullCycles := r.extractLsb' 32 32 } } }) s

/-- A port closes its counts (R421, R422); which bytes of a frame count the spec does not say. -/
def closePort (n : Nat) (s : State) : State :=
  let (r, s) := draw 64 s
  modPort n (fun p => { p with
    closedBytes := if p.up || p.failed then { tx := r.extractLsb' 0 32, rx := r.extractLsb' 32 32 } else {}
    closedCong := p.cong, closedErr := p.err, cong := {}, err := {} }) s

/-- Connections open to guests and to peers (R422). -/
def connCount (s : State) (guest : Bool) : Nat :=
  s.net.conns.countP (fun p => match p.2 with
    | some c => c.opened && (match c.peer with | .guest _ => guest | .device _ => !guest)
    | none => false) +
  (if guest then s.net.guests.countP (fun p => p.2.qp.isSome) else 0)

/-- Every other closed-stage register takes its counts (R102, R271, R339, R422, R442, R499, R559). -/
def closeStage (s : State) : State :=
  let s := forEach (s.homes.map (·.1)) closeHome s
  let s := forEach (s.net.ports.map (·.1)) closePort s
  let conn : NetConnReg := { guests := BitVec.ofNat 15 (connCount s true), peers := BitVec.ofNat 13 (connCount s false)
                             lost := s.net.lost, reparent := s.net.reparent }
  let units (n : Nat) : BitVec 32 := BitVec.ofNat 32 (n / 16)
  { s with
    ctls := s.ctls.map (fun p => if stackLive s p.1 then (p.1, { p.2 with closed := p.2.run, run := {}, ueChannels := [] }) else p)
    porters := s.porters.map (fun p => (p.1, { p.2 with closed := p.2.run, run := {} }))
    net := { s.net with closedConn := conn }
    innk := { s.innk with closedStage := s.innk.stage, stage := {}
                          closedStall := s.innk.stall, stall := {} }
    pwr := { s.pwr with closedEvents := s.pwr.events, events := {} }
    sb := { s.sb with
      closedInterf0 := { core := units s.sb.movedCore, porter := units s.sb.movedPorter }
      closedInterf1 := { net := units s.sb.movedNet, px := units s.sb.movedPx }
      closedInterf2 := { flush := units s.sb.movedFlush }
      movedCore := 0, movedPorter := 0, movedNet := 0, movedPx := 0, movedFlush := 0 } }

/-- Guests whose transfers moved bytes are charged for them (R497); the share is a free value. -/
def chargeGuests (s : State) : State :=
  forEach ((s.net.flows.filterMap (·.guest)).eraseDups) (fun g t => let (e, t) := draw 64 t; modGuest g (fun x => { x with energy := x.energy + e }) t) s

/-- Each half counts the stages in a row in which none of its clusters was bound (R483). -/
def countIdle (s : State) : State :=
  let bound := s.itins.flatMap (fun p => match p.2 with | some i => i.binding.getD [] | none => [])
  { s with pwr := { s.pwr with idle := (List.range (2 * s.variant.dies)).foldl (fun t h =>
      tabSet 0 t h (if bound.any (fun c => c / 128 == h) then 0 else tabGet 0 s.pwr.idle h + 1)) s.pwr.idle } }

-- the clearing (R32, R33, R66, R468)

/-- A core begins the stage empty. -/
def Core.clear (x : Core) : Core := { x with slots := [], last := 16, halted := false, lag := 0, tie := 0, mxq := [], vcq := [], l1Miss := none, l1Buf := [] }

/-- A cluster begins the stage empty; its L1s, its registers and what the sideband set stay. -/
def Cluster.clear (c : Cluster) : Cluster :=
  { c with stopped := false, store := [], marks := [], counters := [], cpyQ := [], cpyBytes := 0, cpyReqs := 0
           cores := c.cores.map (fun p => (p.1, p.2.clear)) }

/-- Every cluster is cleared but those that a late leg holds and those that are halted (R32, R66, R556). -/
def clearClusters (s : State) : State :=
  let held := heldClusters s
  { s with clusters := s.clusters.map (fun p => if held.contains p.1 || p.2.halted then p else (p.1, p.2.clear)) }

-- checkpoints (R291, R292)

/-- The open durable regions (R279, R291). -/
def ckptRegions (s : State) : List Region := s.regions.filter (fun r => r.keep && !r.sealed)

/-- A flush that has not completed is abandoned (R292). -/
def abandonFlush (s : State) : State :=
  if s.ldg.flushing.isSome then
    { s with
      ldg := { s.ldg with flushing := none, pending := 0#8, ckptAbandoned := true }
      homes := s.homes.map (fun p => (p.1, { p.2 with flushLines := [] }))
      ctls := s.ctls.map (fun p => (p.1, { p.2 with wcb := p.2.wcb.map (fun e => { e with marked := false }) })) }
  else s

/-- A checkpoint Bell records every itinerary's position and starts the flush (R229, R250, R291). -/
def startCkpt (n : Nat) (s : State) : State :=
  let s := abandonFlush s
  let rs := ckptRegions s
  let s := { s with
    itins := s.itins.map (fun p => (p.1, p.2.map (fun i => { i with ckptNew := i.nextJsn })))
    homes := s.homes.map (fun p => (p.1, { p.2 with
      flushLines := (rs.filter (fun r => r.home r.base == p.1)).flatMap (fun r => dirtyLines p.2 r) }))
    ctls := s.ctls.map (fun p => (p.1, { p.2 with wcb := p.2.wcb.map (fun e => { e with marked := true }) })) }
  let mask := (List.range 8).foldl (fun m h =>
    if halfLive s h && stackLive s h && (!(getHome s h).flushLines.isEmpty || !(getCtl s h).wcb.isEmpty) then setBit m h else m) 0#8
  modLdg (fun l => { l with flushing := some n, pending := mask }) s

-- the records (R273, R276, R278)

/-- Records of one outcome. -/
def countOutcome (o : LegOutcome) (rs : List LegRec) : Nat := rs.countP (fun r => r.outcome == o)

/-- The Bell record (R278). -/
def bellRecord (n t : Nat) (ckpt restarted : Bool) (press : BitVec 8) (rs : List LegRec) (s : State) : BellRec :=
  let l := s.ldg
  { seq := l.next, bell := n, ckpt := ckpt, ckptDone := l.ckptDone, ckptAbandoned := l.ckptAbandoned, restart := restarted
    config := l.configChange, loss := l.loss, committed := countOutcome .commit rs, late := countOutcome .late rs, held := countOutcome .held rs
    discarded := countOutcome .discard rs, bound := boundCount s, cdLive := l.capCd, msLive := l.capMs, clustersLive := l.capCl, tNs := t
    lastCkpt := l.ckpt, pinPressure := press, timeState := s.stg.time.state, throttle := l.maxThrottle, cmds := l.cmds
    cmdsEmpty := l.cmdsEmpty, faults := l.faultCount, energyFj := s.pwr.stageFj }

/-- The Bell's records enter the ring, the Bell record first, then the leg records in ascending slot order (R273, R275); what the Bell
record reports starts anew. A throttle interval that the Bell splits is added when it ends (R561). -/
def writeRecords (n t : Nat) (ckpt restarted : Bool) (press : BitVec 8) (rs : List LegRec) (s : State) : State :=
  let b := bellRecord n t ckpt restarted press rs s
  let sorted := rs.mergeSort (fun x y => decide (x.itin ≤ y.itin))
  let legs := ((List.range sorted.length).zip sorted).map (fun p => LedgerRec.leg { p.2 with seq := b.seq + 1 + p.1 })
  let s := modLdg (fun l => { l with
    next := l.next + 1 + legs.length, records := (legs.reverse ++ [LedgerRec.bell b] ++ l.records).take 65536
    ckptDone := false, ckptAbandoned := false, loss := false, configChange := false, faultCount := 0, cmds := 0, cmdsEmpty := 0
    restarted := false, maxThrottle := s.pwr.n, discards := [] }) s
  { s with pwr := { s.pwr with stageFj := 0, splits := s.pwr.splits ++ [(s.stg.upNs, b.seq)] } }

/-- Processor cores that the capability record still counts: those in service, and until the restart Bell those that a state-loss fault
took (R8, R294). -/
def pxCoresCounted (lost : BitVec 2) (s : State) : Nat :=
  ([0, 1].map (fun d => if (getPx s d).live || lost.getLsbD d then 48 else 0)).foldl (· + ·) 0

/-- The live fields of the capability record change at a Bell; between a state-loss fault and its restart Bell those of the units it took
stand (R8, R294), and a processor die that its power domain took leaves at the next Bell all the same (R456). -/
def refreshCaps (s : State) : State :=
  match s.ldg.rollback with
  | some r => modLdg (fun l => { l with capNp := portsLive s, capPx := min l.capPx (pxCoresCounted r.px s) }) s
  | none =>
  modLdg (fun l => { l with
    capCd := cdLiveMask s, capMs := msLiveMask s, capCl := clustersLiveCount s, capPx := pxCoresLive s, capLink := linksLive s
    capHalf := halvesLive s, capNp := portsLive s }) s

/-- Running porter descriptors are checked again (R430, R431, R440). -/
def recheckPorters (s : State) : State :=
  forEach (s.porters.map (·.1)) (fun p t =>
    let x := getPorter t p
    forEach ((x.legQ ++ x.cmdQ).filter (fun d => d.checked && decide (d.moved < d.len))) (fun d u =>
      match descRefused u d with
      | some a => if ((getPorter u p).legQ ++ (getPorter u p).cmdQ).contains d then refuseDesc p d a u else u
      | none => u) t) s

/-- The homes under pin pressure, as a mask. -/
def pressMask (s : State) : BitVec 8 := s.homes.foldl (fun m p => if p.2.pressure then setBit m p.1 else m) 0#8

/-- Work ends for good where the IOD is cut off or the Innkeeper has halted (R243, R307): every bound itinerary's job stops, every binding
ends. -/
def endAllWork (s : State) : State :=
  if noBind s then
    let s := forEach (boundItins s) (fun k t =>
      match (getItin t k).bind (·.job) with
      | some j => if j.active then stopJob k (if iodCut t then 0x10 else 0) none t else t
      | none => t) s
    { s with itins := s.itins.map (fun p => (p.1, p.2.map (fun i => { i with binding := none }))) }
  else s

/-- Every command has waited one more Bell since it was accepted, and since its last piece was dispatched (R53, R325). -/
def ageCmds (s : State) : State :=
  modInnk (fun i => { i with cmds := i.cmds.map (fun p => (p.1, p.2.map (fun c => { c with waitBells := c.waitBells + 1, bells := c.bells + 1 }))) }) s

/-- The Bell judges the legs of the stage that closes: done ones commit, jobs due to stop stop, the rest miss the Bell (R30, R272, R361). -/
def judgeLegs (n : Nat) (s : State) : List LegRec × State :=
  let ks := itinSlots s
  let done (k : Nat) (t : State) : Bool := match (getItin t k).bind (·.leg) with | some l => l.windowDone | none => false
  let (a, s) := forLegs ks (fun k t => if done k t then commitLeg n k t else ([], t)) s
  let (b, s) := forLegs ks (stopAtBell n) s
  let (c, s) := forLegs ks (missLeg n) s
  let (d, s) := forLegs s.ldg.discards (discardRec n) s
  (a ++ c ++ d ++ b, s)

/-- BELL (R17): one stage closes and the next opens. -/
def doBell (s : State) : State :=
  if !bellsFall s then s
  else
    let t := nextBellNs s
    let before := s
    let s := advanceTo t s
    -- the closed stage
    let worked := heldClusters s ++ s.ldg.discards.flatMap (fun d => d.leg.clusters) ++
      s.ldg.stops.flatMap (fun r => match r.leg with | some l => l.clusters | none => [])
    let s := chargeGuests (countIdle (closeStage s))
    let s := enterConfig t s
    let n := t / lenNs s
    let s := modStg (fun g => { g with num := n, bellTime := t, bellUp := g.upNs, opened := true, window := false, suspended := false }) s
    let s := endAllWork s
    let (r1, s) := judgeLegs n s
    let s := closeClusters worked (heldClusters s) s
    let (r2, s) := settleStops n s
    let s := announceStops n (abandonPreps n (startJobs n s))
    -- what takes effect
    let s := finishOffline (takeOut (doActs n t s))
    let s := reselect t s
    let (r3, s) := restartBell n t s
    let (r4, s) := restartRolls n s
    let (r5, s) := settleStops n s
    let s := switchL1 before s
    let s := clearClusters s
    -- the stage that opens
    let s := refreshCaps s
    let (r6, s) := if noBind s then ([], s) else forLegs (itinSlots s) (startLeg n t) s
    let ckpt := n % s.stg.cfg.ckptStages.toNat == 0 && s.ldg.rollback.isNone
    let s := if ckpt then startCkpt n s else s
    let s := modStg (fun g => { g with itinLate := s.itins.countP (fun p => match p.2.bind (·.leg) with | some l => decide (0 < l.missed) | none => false) }) s
    let s := writeRecords n t ckpt s.ldg.restarted (pressMask s) (r1 ++ r2 ++ r5 ++ r3 ++ r4 ++ r6) s
    let s := completeCkpt s
    syncEvents (recheckPorters (ageCmds s))

/-- COMMIT_WINDOW_OPEN (R29, R30): every running leg is tested for done. -/
def doWindow (s : State) : State :=
  if !bellsFall s || !s.stg.opened || s.stg.window then s
  else
    let s := modStg (fun g => { g with window := true }) (advanceTo (windowNs s) s)
    forEach (itinSlots s) (fun k t => modLeg k (fun l => { l with windowDone := legDone t k l }) t) s

/-- WATCHDOG_FAULT (R45): at the opening of the commit window, a leg that has missed WDOG_BELLS Bells and is not done. R45's words fault such
a leg whether or not it has become done by then, R30 commits a leg that is done when the window opens: the model lets it commit
(DEDUCED, log 76). -/
def doWatchdog (k : Nat) (s : State) : State :=
  match (getItin s k).bind (·.leg) with
  | some l =>
    if s.stg.window && !l.windowDone && decide (s.stg.cfg.wdogBells.toNat ≤ l.missed) then
      stageFault [k] { fclass := 5 } (modStg (fun g => { g with events := { g.events with wdog := satInc g.events.wdog } }) s)
    else s
  | none => s

/-- BELL (R17). -/
def execBell (s : State) : Host.Outcome State Fault Refusal := .next (doBell s)
/-- COMMIT_WINDOW_OPEN (R30). -/
def execCommitWindowOpen (s : State) : Host.Outcome State Fault Refusal := .next (doWindow s)
/-- WATCHDOG_FAULT (R45). -/
def execWatchdogFault (itin : Nat) (s : State) : Host.Outcome State Fault Refusal := .next (doWatchdog itin s)

end Sys2Proof.Machine
end

