-- ==== Sys2Proof/Machine/IssueOps.lean ====
section
/-! DEFINITION. Issue on a compute core (R63, R67 to R74, R95 to R100): whether a caravan issues, the pairing view, exceptions
and the stage fault they report, advancing and retiring, and parking at caravan-wide instructions. -/

namespace Sys2Proof.Machine

/-- The running leg of an itinerary. -/
def legOf (s : State) (k : Nat) : Option Leg := (getItin s k).bind (·.leg)

/-- The logical index of a cluster in a leg's placement (R60). -/
def logicalOf (l : Leg) (cl : Nat) : Nat := (l.clusters.findIdx? (· == cl)).getD 0

/-- A core issues: not halted by an exception, its cluster neither halted, stopped nor out of service (R99, R283, R556). -/
def coreIssues (s : State) (cl co : Nat) : Bool :=
  let c := getCluster s cl
  clusterFitted s cl && decide (co < 8) && !c.halted && !c.stopped && !c.out && !(c.core co).halted

/-- A core that an exception has halted still issues: within 4 cycles it stops (R99). How many instructions that is, a free value says. -/
def lateIssues (s : State) (cl co : Nat) : Bool :=
  let c := getCluster s cl
  clusterFitted s cl && decide (co < 8) && !c.halted && !c.stopped && !c.out && (c.core co).halted && decide (0 < (c.core co).lag)

/-- Registers of a slot that an instruction still queued in a unit will write; an instruction that reads or writes them is not
ready (R69, R74). -/
def MxJob.dests (slot : Nat) : MxJob → List Nat
  | .mrd sl _ fmt _ _ dst _ => if sl = slot then (List.range (if fmt == 9 || fmt == 10 then 8 else 16)).map (dst + ·) else []
  | _ => []
def VcJob.dests (slot : Nat) (j : VcJob) : List Nat :=
  if j.slot = slot ∧ j.dst.toNat < 0x80 ∧ bitsNat j.cfg 146 3 ≠ 0 then (List.range (if bitsNat j.cfg 128 2 = 2 then 2 else 1)).map (j.dst.toNat + ·)
  else []
def Core.busyRegs (c : Core) (slot : Nat) : List Nat := c.mxq.flatMap (MxJob.dests slot) ++ c.vcq.flatMap (VcJob.dests slot)

/-- A caravan as it stood before the first instruction of a pair (R71). -/
def Caravan.beforePair (c : Caravan) : Caravan :=
  match c.pair with
  | some v => { c with regs := v.regs, marks := v.marks, threads := c.threads.mapIdx (fun i t => { t with preds := v.preds.getD i t.preds }) }
  | none => c

/-- What comes of the issue of an instruction for a slot: nothing, a fetch outside the image's code region by the active threads, or
a word with a reserved class or operation code, or an instruction that issues, with the state it issues in. -/
inductive Issuing where
  | idle
  | outside (pc : BitVec 40) (act : BitVec 32) (addr : Nat)
  | reserved (i : Issue) (s : State)
  | go (i : Issue) (s : State)
deriving DecidableEq, Repr

/-- Issue an instruction for a slot's issuing group (R67 to R71): nothing happens where the slot has no
live thread. A fetch outside the image's code region is told apart (R92, R97), and so is a reserved code (R85). An instruction that closes a
pair reads its sources as they stood before the first of the pair; whether two instructions issue together depends on the other
units, so a free value decides it (DESIGN CHOICE, log 10). -/
def issueGroup (at_ : CoreSlot) (f : Insn) (unit : Nat) (s : State) : Issuing :=
  match (getCore s at_.cluster at_.core).slot at_.slot with
  | none => .idle
  | some car =>
    match car.issuePc, getItin s car.itin with
    | some pc, some it =>
      let act := car.group pc
      let base := it.image.base + it.image.codeOff
      let p := it.image.base + pc.toNat
      if p < base ∨ base + it.image.codeLen < p + 8 then .outside pc act p
      else
        let can : Bool := match car.pair with
          | some v => (getCore s at_.cluster at_.core).last == at_.slot && v.threads == act && v.pc == pc &&
              (v.unit != unitOf unit || unit == unitInt) && (unit != unitMx || act == BitVec.allOnes 32)
          | none => false
        let (w, s) := if can then draw 1 s else (0#1, s)
        let closes := can && w == 1#1
        let src : Caravan := if closes then car.beforePair else car
        let exe := if f.pred = 15#4 then act else act &&& threadMask (fun t => src.predOf t f.pred.toNat != f.pn)
        let leg := it.leg
        let jsn : Word := match leg with | some l => BitVec.ofNat 64 l.jsn | none => 0#64
        let lcl := match leg with | some l => logicalOf l at_.cluster | none => 0
        let seed := match it.job with
          | some j => bellSeed j.seed jsn (BitVec.ofNat 32 (lcl * 8 + at_.core))
          | none => bellSeed 0#64 jsn (BitVec.ofNat 32 (lcl * 8 + at_.core))
        let i : Issue := { at_ := at_, f := f, car := car, src := src, pc := pc, act := act, exe := exe, closes := closes, unit := unit, jsn := jsn, lcl := lcl, seed := seed }
        if f.reserved then .reserved i s else .go i s
    | _, _ => .idle

/-- Issue on a core that no exception has halted (R99). -/
def issueAt (at_ : CoreSlot) (f : Insn) (unit : Nat) (s : State) : Issuing :=
  if !coreIssues s at_.cluster at_.core then .idle else issueGroup at_ f unit s

/-- Change the caravan in a slot. -/
def modCaravan (at_ : CoreSlot) (g : Caravan → Caravan) (s : State) : State :=
  modCore at_.cluster at_.core (fun c => c.setSlot at_.slot ((c.slot at_.slot).map g)) s

/-- An instruction that may open a pair: its P bit is set, it is no CTL instruction, and it closes none itself (R70). -/
def Issue.opens (i : Issue) (unit : Nat) : Bool := i.f.p && unit != unitCtl && !i.closes

/-- The slot of an instruction is the one that issued last on its core (R70, R72). -/
def issuedLast (at_ : CoreSlot) (s : State) : State := modCore at_.cluster at_.core (fun c => { c with last := at_.slot }) s

/-- After an instruction has issued: what its pair partner may read, when it opens a pair (R70, R71). -/
def notePair (i : Issue) (unit : Nat) (s : State) : State :=
  let v : PairView := { threads := i.act, pc := i.pc + 8#40, unit := unitOf unit, regs := i.car.regs, marks := i.car.marks, preds := i.car.threads.map (·.preds) }
  issuedLast i.at_ (modCaravan i.at_ (fun c => { c with pair := if i.opens unit then some v else none }) s)

/-- The active threads go on to the next instruction. -/
def advance (i : Issue) (unit : Nat) (s : State) : State :=
  notePair i unit (modCaravan i.at_ (Caravan.modThreads i.act (fun t => { t with pc := i.pc + 8#40 })) s)

/-- A core's exception registers take an exception (R100, R102): the first since VALID was last cleared is recorded and leaves MORE as it
stands; a later one sets MORE, and where both fell into one cycle the one from the lowest slot is the one recorded. On its first exception
in a stage the core halts; a free value says how many instructions still issue within 4 cycles, at most 7 beside the excepting one, and
whether the first of them issues in the same cycle (R99, R100). -/
def Core.recordExc (pc : BitVec 40) (addr : Word) (first : CoreExcReg) (w : BitVec 4) (c : Core) : Core :=
  let r :=
    if c.exc.valid = 0#1 then { c with excPc := pc, excAddr := addr, exc := { first with more := c.exc.more } }
    else if c.halted && decide (c.tie = 1) && decide (first.slot.toNat < c.exc.slot.toNat) then { c with excPc := pc, excAddr := addr, exc := { first with more := 1#1 } }
    else { c with exc := { c.exc with more := 1#1 } }
  if c.halted then r else { r with halted := true, lag := w.toNat % 8, tie := if c.exc.valid = 0#1 ∧ 8 ≤ w.toNat then 2 else 0 }

/-- A core records an exception and, on its first one, stops issuing and reports a stage fault against the leg of the kernel
(R97, R99, R100, R102, R476). -/
def raiseExc (cl co slot itin cause : Nat) (pc : BitVec 40) (ths : BitVec 32) (addr : Word) (own : Bool) (s : State) : State :=
  let c := getCore s cl co
  let addr : Word := if cause = cIllegalInsn ∨ cause = cIllegalReg ∨ cause = cSplit ∨ cause = cTrap then 0#64 else addr
  let first : CoreExcReg := { valid := 1#1, more := 0#1, cause := BitVec.ofNat 8 cause, slot := BitVec.ofNat 4 slot, threads := ths }
  let (w, s) := if c.halted then (0#4, s) else draw 4 s
  let s := modCore cl co (Core.recordExc pc addr first w) s
  if c.halted then s
  else
    let jsn : Word := match legOf s itin with | some l => BitVec.ofNat 64 l.jsn | none => 0xFFFFFFFFFFFFFFFF#64
    let seq := s.errSeq
    let s := if cause = cPoison then
        logErr { cls := 3, action := 1, source := 1, unit := cl, sub := co + (if own then 2 ^ 15 else 0), addr := (addr >>> 5) <<< 5, itin := itin, jsn := jsn } s
      else s
    let frec : Word := if cause = cPoison then BitVec.ofNat 64 seq else 0xFFFFFFFFFFFFFFFF#64
    stageFault [itin] { fclass := 1, cluster := cl, cause := cause, core := co, addr := addr, ownPoison := own, frec := frec } s

/-- An exception of the instruction that is issuing. Where another instruction issues in the same cycle and this one opens a pair, that
one may be the second of the pair (R70, R100). -/
def exc (i : Issue) (cause : Nat) (ths : BitVec 32) (addr : Word) (own : Bool) (s : State) : State :=
  let t := raiseExc i.at_.cluster i.at_.core i.at_.slot i.car.itin cause i.pc ths addr own s
  if i.opens i.unit && (getCore t i.at_.cluster i.at_.core).tie == 2 then advance i i.unit t else t

/-- A fetch outside the code region (R92, R97). -/
def fetchExc (at_ : CoreSlot) (pc : BitVec 40) (act : BitVec 32) (p : Nat) (s : State) : State :=
  match (getCore s at_.cluster at_.core).slot at_.slot with
  | some car => raiseExc at_.cluster at_.core at_.slot car.itin cAddr pc act (BitVec.ofNat 64 p) false s
  | none => s

/-- A word with a reserved CLS or OPC (R85, R113): ILLEGAL_INSN in the threads that execute it. Where none does, nothing happens but in
the classes whose encoding checks apply all the same (R67, R95). -/
def reservedExc (i : Issue) (s : State) : State :=
  if i.exe ≠ 0#32 then exc i cIllegalInsn i.exe 0#64 false s
  else if i.f.cls = 3#4 ∨ i.f.cls = 6#4 ∨ i.f.cls = 7#4 then exc i cIllegalInsn i.act 0#64 false s
  else advance i i.unit s

/-- One of the instructions that a halted core still issues has issued (R99). -/
def countLag (at_ : CoreSlot) (s : State) : State :=
  modCore at_.cluster at_.core (fun c => { c with lag := c.lag - 1, tie := c.tie - 1 }) s

/-- Run an instruction of a unit for a slot: an instruction that issues runs its body. -/
def withIssue (at_ : CoreSlot) (f : Insn) (unit : Nat) (body : Issue → State → State) (s : State) : State :=
  let run (r : Issuing) (u : State) : State := match r with
    | .idle => s
    | .outside pc act p => fetchExc at_ pc act p u
    | .reserved i t => reservedExc i t
    | .go i t => body i t
  if lateIssues s at_.cluster at_.core then run (issueGroup at_ f unit (countLag at_ s)) (countLag at_ s)
  else run (issueAt at_ f unit s) s

/-- An operand register that a queued instruction will still write (R74). -/
def regsBusy (i : Issue) (uses : List OpUse) (s : State) : Bool :=
  let busy := (getCore s i.at_.cluster i.at_.core).busyRegs i.at_.slot
  (uses.flatMap OpUse.regs).any busy.contains

/-- An instruction that is performed only after the chain has completed what its caravan queued (R185). -/
def afterChain (i : Issue) (eff : State → State) (s : State) : State :=
  if (getCore s i.at_.cluster i.at_.core).vcq.any (fun j => j.slot == i.at_.slot) then s else eff s

/-- The common start of an instruction executed per thread: with no executing thread it only advances (R68, R98); the encoding
check, the interlock and the poison of its sources come before its effect (R74, R85, R97). -/
def perThread (i : Issue) (unit : Nat) (illegal : Bool) (uses : List OpUse) (zero : List (BitVec 8)) (eff : State → State)
    (s : State) : State :=
  if i.exe = 0#32 then advance i unit s
  else match checkInsn i.car i.f illegal uses zero with
    | some c => exc i c i.exe 0#64 false s
    | none =>
      if regsBusy i uses s then s
      else
        let (bad, own) := poisonReaders i i.exe uses
        if bad ≠ 0#32 then exc i cPoison bad 0#64 own s else eff s

/-- The common start of an instruction executed once for the group: its encoding is checked even if no thread executes it, and
then it does nothing (R67). The leader reads its operands. -/
def perGroup (i : Issue) (unit : Nat) (illegal : Bool) (uses : List OpUse) (zero : List (BitVec 8)) (eff : State → State)
    (s : State) : State :=
  match checkInsn i.car i.f illegal uses zero with
  | some c => exc i c (if i.exe = 0#32 then i.act else i.exe) 0#64 false s
  | none =>
    if i.exe = 0#32 then advance i unit s
    else if regsBusy i uses s then s
    else
      let (bad, own) := poisonReaders i (maskBit 32 i.leader) uses
      if bad ≠ 0#32 then exc i cPoison bad 0#64 own s else eff s

/-- Write a 32-bit result into DST of the executing threads (R86: ZERO discards it). -/
def putRes32 (i : Issue) (v : Nat → BitVec 32) (s : State) : State :=
  if i.f.dst.toNat < 0x80 then
    modCaravan i.at_ (Caravan.writeReg i.f.dst.toNat (fun t => if i.exe.getLsbD t then some (v t) else none)) s
  else s

/-- Write a 64-bit result into the pair DST of the threads of a mask (R75). -/
def putPair (i : Issue) (code : BitVec 8) (m : BitVec 32) (v : Nat → Word) (s : State) : State :=
  if code.toNat < 0x80 then
    modCaravan i.at_ (fun c =>
      (c.writeReg code.toNat (fun t => if m.getLsbD t then some ((v t).extractLsb' 0 32) else none)).writeReg (code.toNat + 1)
        (fun t => if m.getLsbD t then some ((v t).extractLsb' 32 32) else none)) s
  else s

/-- The slot of a queued instruction. -/
def MxJob.slotOf : MxJob → Nat
  | .mma sl _ _ _ _ _ _ _ _ => sl
  | .mld sl _ _ _ => sl
  | .mrd sl _ _ _ _ _ _ => sl

/-- A queued instruction of a slot has still to complete. -/
def Core.hasJobs (c : Core) (slot : Nat) : Bool := c.mxq.any (fun j => j.slotOf == slot) || c.vcq.any (fun j => j.slot == slot)

/-- A queued matrix instruction of another slot number. -/
def MxJob.reslot (n : Nat) : MxJob → MxJob
  | .mma _ a b c d e f g h => .mma n a b c d e f g h
  | .mld _ a b c => .mld n a b c
  | .mrd _ a b c d e f => .mrd n a b c d e f

/-- What a retired caravan left queued in the units goes on under a number of 16 or more that ends in its slot (log 12). -/
def Core.keepJobs (slot : Nat) (car : Caravan) (c : Core) : Core :=
  let n := (((List.range 4).map (fun k => 16 * (k + 1) + slot)).find? (fun n => (c.slot n).isNone)).getD (80 + slot)
  Core.setSlot n (some car) { c with
    mxq := c.mxq.map (fun j => if j.slotOf = slot then j.reslot n else j)
    vcq := c.vcq.map (fun j => if j.slot = slot then { j with slot := n } else j) }

/-- A caravan whose threads have all exited retires: its slot and registers are free (R65). What it queued in the matrix unit or the
chain still completes there, without its registers (log 12). -/
def retire (at_ : CoreSlot) (s : State) : State :=
  modCore at_.cluster at_.core (fun c =>
    match c.slot at_.slot with
    | some car =>
      if !car.threads.all (·.exited) then c
      else if !c.hasJobs at_.slot then c.setSlot at_.slot none
      else if at_.slot < 16 then Core.setSlot at_.slot none (c.keepJobs at_.slot car)
      else c
    | none => c) s

/-- The parked threads of a caravan, and the lowest address at which threads are parked (R96). -/
def Caravan.parkedMask (c : Caravan) : BitVec 32 := threadMask (fun t => (c.thread t).parked && !(c.thread t).exited)
def Caravan.parkedPcs (c : Caravan) : List (BitVec 40) := ((c.threads.filter (fun t => t.parked && !t.exited)).map (·.pc)).eraseDups
def lowestPc (l : List (BitVec 40)) : BitVec 40 := l.foldl (fun m p => if p.ult m then p else m) (l.headD 0#40)

/-- Every thread that has not exited is parked, at two or more addresses: the missing threads can never arrive (R96). -/
def Caravan.splitStuck (c : Caravan) : Bool := c.threads.all (fun t => t.exited || t.parked) && decide (2 ≤ c.parkedPcs.length)

/-- The SPLIT exception of a caravan: THREADS names the parked threads (R95, R96, R102). Where they are parked at several addresses
CORE_EXC_PC takes the lowest: R102 says the excepting instruction and no more (DESIGN CHOICE, log 11). -/
def raiseSplit (at_ : CoreSlot) (s : State) : State :=
  match (getCore s at_.cluster at_.core).slot at_.slot with
  | some car => raiseExc at_.cluster at_.core at_.slot car.itin cSplit (lowestPc car.parkedPcs) car.parkedMask 0#64 false s
  | none => s

/-- A caravan-wide instruction after its encoding check (R95, R96): a group of fewer than 32 threads parks; once all 32 threads
stand there, they unpark and it issues. -/
def caravanWide (i : Issue) (go : Issue → State → State) (s : State) : State :=
  let here := i.act ||| threadMask (fun t => (i.car.thread t).parked && !(i.car.thread t).exited && (i.car.thread t).pc == i.pc)
  if here = BitVec.allOnes 32 then
    let s := modCaravan i.at_ (Caravan.modThreads here (fun t => { t with parked := false })) s
    let car := (i.car).modThreads here (fun t => { t with parked := false })
    go { i with act := here, exe := here, car := car, src := (i.src).modThreads here (fun t => { t with parked := false }) } s
  else
    let car := i.car.modThreads i.act (fun t => { t with parked := true })
    let s := modCaravan i.at_ (fun _ => { car with pair := none }) s
    if i.car.threads.any (·.exited) || car.splitStuck then raiseSplit i.at_ s else s

end Sys2Proof.Machine
end

