-- ==== Sys2Proof/Machine/LoadStore.lean ====
section
/-! DEFINITION. Loads, stores, dead hints and atomics of the compute cores (R78, R89, R90, R194 to R197, R212, R217, R221, R222,
R317, R471, R519), and the fill of an L1 miss. -/

namespace Sys2Proof.Machine

/-- The size of a cluster store (R78). -/
def storeBytes : Nat := 524288

/-- The protection keys an itinerary's kernels may use (R519): 0 and the key of every guest window its peer table names. -/
def keySet (s : State) (itin : Nat) : List Nat :=
  0 :: (match getItin s itin with
    | some it => it.image.peers.filterMap (fun p => match p with
        | .guest g => ((tabGet {} s.net.guests g : Guest).window).map (fun w => w.2.2)
        | .device _ => none)
    | none => [])

/-- What is wrong with a core's access of n bytes to a global address (R89, R97, R199, R236, R317, R519). Where a thread's address is
misaligned and wrong in another way too, ALIGN is the cause recorded: the spec names no order (DESIGN CHOICE, log 11). -/
def globalFault (s : State) (itin : Nat) (write : Bool) (a n : Nat) : Option Nat :=
  if a % n ≠ 0 then some cAlign
  else match usable s a with
    | none => some cAddr
    | some r =>
      if !(keySet s itin).contains r.pkey || (write && (r.ro || touchesArea s a n)) then some cProt else none

/-- What is wrong with an access to the cluster store (R89), in the same order (log 11). -/
def storeFault (a n : Nat) : Option Nat :=
  if a % n ≠ 0 then some cAlign else if storeBytes ≤ a then some cStoreRange else none

/-- Per-thread faults of one instruction: the lowest faulting thread gives the cause and the address, and THREADS names every
thread with that cause (DESIGN CHOICE, log 11). -/
def groupFault (ts : List Nat) (fault : Nat → Option (Nat × Word)) : Option (Nat × Word × BitVec 32) :=
  (ts.findSome? fault).map (fun c => (c.1, c.2, threadMask (fun t => ts.contains t && (match fault t with | some d => d.1 == c.1 | none => false))))

/-- The offset an LS or AT instruction adds (R89): SB sign-extended, or IMM24. -/
def lsOff (i : Issue) (t : Nat) : Word := if i.f.i then insnImmS i.f else (i.src32 t i.f.sb).signExtend 64

/-- The global address, and the cluster-store address, of a thread (R89). -/
def globalAddr (i : Issue) (t : Nat) : Nat := (i.src64 t i.f.sa + lsOff i t).toNat
def localAddr (i : Issue) (t : Nat) : Nat := (i.src32 t i.f.sa + (lsOff i t).setWidth 32).toNat

/-- The MOD fields of the LS class (R89). -/
def lsWidth (f : Insn) : Nat := bitsNat f.md 3 3
def lsLocal (f : Insn) : Bool := f.md.getLsbD 2
def lsSx (f : Insn) : Bool := f.md.getLsbD 1

/-- The bytes and the registers of a width (R75, R89). -/
def widthBytes (w : Nat) : Nat := 2 ^ w
def widthRegs (w : Nat) : Nat := if w = 3 then 2 else if w = 4 then 4 else 1

/-- The operation of the LS class. -/
inductive LsOp where
  | ld | st | dead
deriving DecidableEq, Repr

/-- An LS instruction with a reserved MOD value (R85, R89). -/
def lsIllegal (op : LsOp) (f : Insn) : Bool :=
  f.md.getLsbD 0 || decide (4 < lsWidth f) ||
  (lsSx f && !(op == .ld && decide (lsWidth f ≤ 1))) ||
  (op == .dead && (lsWidth f != 0 || lsLocal f))

/-- The operand uses of an LS instruction (R75, R89). DST of ST is a source and may be any source code (DEDUCED, log 12). -/
def lsUses (op : LsOp) (f : Insn) : List OpUse :=
  (match op with
    | .ld => [⟨f.dst, widthRegs (lsWidth f), true⟩]
    | .st => [⟨f.dst, widthRegs (lsWidth f), false⟩]
    | .dead => []) ++
  [⟨f.sa, if lsLocal f then 1 else 2, false⟩] ++ (if f.i then [] else [⟨f.sb, 1, false⟩])

/-- The fields an LS instruction leaves unused (R85). -/
def lsZero (op : LsOp) (f : Insn) : List (BitVec 8) :=
  (if op == .dead then [f.dst] else []) ++ (if f.i then [] else [f.sc, f.sd])

/-- Write a result of up to four registers into DST of the executing threads. -/
def putWide (i : Issue) (regs : Nat) (v : Nat → BitVec 128) (s : State) : State :=
  if i.f.dst.toNat < 0x80 then
    modCaravan i.at_ (fun c => (List.range regs).foldl (fun c k =>
      Caravan.writeReg (i.f.dst.toNat + k) (fun t => if i.exe.getLsbD t then some ((v t).extractLsb' (32 * k) 32) else none) c) c) s
  else s

/-- A loaded value widened to its register (R89). -/
def lsExtend (w : Nat) (sx : Bool) (v : Nat) : BitVec 128 :=
  if sx && w = 0 then ((BitVec.ofNat 8 v).signExtend 32).setWidth 128
  else if sx && w = 1 then ((BitVec.ofNat 16 v).signExtend 32).setWidth 128
  else BitVec.ofNat 128 v

-- the L1 (R194 to R196)

/-- The lines that some accesses touch, ascending, with the sectors needed of each (R196, R202). -/
def linesTouched (as : List Nat) (n : Nat) : List (Nat × BitVec 4) :=
  as.foldl (fun acc a => insertLine (lineOf a) (sectorMask a n) acc) []

/-- The sectors of a mask that are not valid. -/
def missingOf (mask : BitVec 4) (secs : List Sector) : BitVec 4 :=
  (List.range 4).foldl (fun m k => if mask.getLsbD k && !(secAt secs k).valid then setBit m k else m) 0#4

/-- An access of one line of read-only data through the core's L1 (R195, R196): None while the L1 is blocked on a miss. -/
def l1Read (cl co l : Nat) (mask : BitVec 4) (s : State) : Option (List SectorVal) × State :=
  let c := getCore s cl co
  if c.l1Miss.isSome then (none, s)
  else
    match c.l1Buf.find? (fun b => b.1 == l && maskValid mask b.2) with
    | some b => (some (b.2.map Sector.val), s)
    | none =>
      let secs := match tabGet none c.l1 l with | some x => x.sectors | none => noSectors
      if maskValid mask secs then
        let x : L1Line := { sectors := secs, used := c.l1Clock + 1 }
        (some (secs.map Sector.val),
         modCore cl co (fun c => { c with l1 := tabSet none c.l1 l (some x), l1Clock := c.l1Clock + 1, l1Buf := (l, secs) :: c.l1Buf }) s)
      else (none, modCore cl co (fun c => { c with l1Miss := some { line := l, sectors := missingOf mask secs } }) s)

/-- The way that a new line of an L1 set takes: none while a way is free, else the least recently used line (R194). -/
def l1Victim (c : Core) (l : Nat) : Option Nat :=
  let ws := c.l1.filterMap (fun p => match p.2 with | some x => if p.1 % 64 = l % 64 ∧ p.1 ≠ l then some (p.1, x.used) else none | none => none)
  if ws.length < 8 then none
  else (ws.foldl (fun (m : Option (Nat × Nat)) x => match m with
    | some y => if x.2 < y.2 then some x else some y
    | none => some x) none).map (·.1)

/-- The requests of an L1 miss, one of 32 bytes for each missing sector (R196): none while the line waits for a processor cache. -/
def fillSectors (cl co l : Nat) (rg : Region) : List Nat → State → Option (List (Nat × SectorVal)) × State
  | [], s => (some [], s)
  | k :: t, s =>
    let (got, s) := homeReadLine (.core cl co) l (maskBit 4 k) rg s
    match got with
    | none => (none, s)
    | some vs =>
      let (rest, s) := fillSectors cl co l rg t s
      (rest.map (fun r => (k, vs.getD k noVal) :: r), s)

/-- The sectors of an L1 miss arrive (R194, R196); a request whose line waits for a processor cache arrives later. -/
def doL1Fill (cl co : Nat) (s : State) : State :=
  match (getCore s cl co).l1Miss with
  | none => s
  | some m =>
    match usable s (m.line * 128) with
    | none => modCore cl co (fun c => { c with l1Miss := none, l1Buf := [] }) s
    | some rg =>
      let (got, s) := fillSectors cl co m.line rg ((List.range 4).filter (fun k => m.sectors.getLsbD k)) s
      match got with
      | none => s
      | some vs =>
        modCore cl co (fun c =>
          let old := match tabGet none c.l1 m.line with | some x => x.sectors | none => noSectors
          let secs := (List.range 4).map (fun k =>
            match vs.find? (fun v => v.1 == k) with
            | some v => ({ valid := true, poison := v.2.poison, data := v.2.data } : Sector)
            | none => secAt old k)
          let l1 := match l1Victim c m.line with | some v => tabSet none c.l1 v none | none => c.l1
          let x : L1Line := { sectors := secs, used := c.l1Clock + 1 }
          { c with l1 := tabSet none l1 m.line (some x), l1Clock := c.l1Clock + 1, l1Miss := none, l1Buf := (m.line, secs) :: c.l1Buf }) s

-- loads

/-- The sectors of one line that a core loads: through the L1 in a read-only region, from the home otherwise (R89, R195). -/
def coreReadLine (cl co l : Nat) (mask : BitVec 4) (s : State) : Option (List SectorVal) × State :=
  match usable s (l * 128) with
  | none => (some [], s)
  | some rg => if rg.ro then l1Read cl co l mask s else homeReadLine (.core cl co) l mask rg s

/-- Lines in ascending order; none as soon as one has to wait. -/
def coreReadLines (cl co : Nat) : List (Nat × BitVec 4) → State → Option (List (Nat × List SectorVal)) × State
  | [], s => (some [], s)
  | (l, m) :: t, s =>
    let (v, s) := coreReadLine cl co l m s
    match v with
    | none => (none, s)
    | some vs =>
      let (rest, s) := coreReadLines cl co t s
      (rest.map (fun r => (l, vs) :: r), s)

/-- The sector of the lines read that holds an address. -/
def sectorOf (ls : List (Nat × List SectorVal)) (a : Nat) : SectorVal :=
  match ls.find? (fun p => p.1 == lineOf a) with
  | some p => p.2.getD (a / 32 % 4) noVal
  | none => noVal

/-- n bytes at an address of the lines read, lowest address least significant (R15). -/
def bytesAt (ls : List (Nat × List SectorVal)) (a n : Nat) : Nat :=
  ((sectorOf ls a).data.toNat / 2 ^ (8 * (a % 32))) % 2 ^ (8 * n)

/-- A global load (R89): the registers take the data, or a consumed poisoned sector raises POISON (R97, R227). -/
def loadGlobal (i : Issue) (s : State) : State :=
  let w := lsWidth i.f
  let n := widthBytes w
  let ts := maskThreads i.exe
  match groupFault ts (fun t => (globalFault s i.car.itin false (globalAddr i t) n).map (fun c => (c, BitVec.ofNat 64 (globalAddr i t)))) with
  | some (c, a, m) => exc i c m a false s
  | none =>
    let (got, s) := coreReadLines i.at_.cluster i.at_.core (linesTouched (ts.map (globalAddr i)) n) s
    match got with
    | none => s
    | some ls =>
      let s := modCore i.at_.cluster i.at_.core (fun c => { c with l1Buf := [] }) s
      match groupFault ts (fun t => if (sectorOf ls (globalAddr i t)).poison then some (cPoison, BitVec.ofNat 64 (globalAddr i t)) else none) with
      | some (c, a, m) => exc i c m a false s
      | none => advance i unitLs (putWide i (widthRegs w) (fun t => lsExtend w (lsSx i.f) (bytesAt ls (globalAddr i t) n)) s)

/-- n bytes of a cluster store at an offset. -/
def Cluster.bytes (c : Cluster) (a n : Nat) : Nat := bytesNat ((List.range n).map (fun k => tabGet 0#8 c.store (a + k)))

/-- The poison mark of the word of a cluster store that holds an offset (R468, R469). -/
def Cluster.markAt (c : Cluster) (a : Nat) : Mark := tabGet .clean c.marks (a / 32)

/-- Store one byte into a cluster store. -/
def Cluster.putByte (a : Nat) (b : Byte) (c : Cluster) : Cluster := { c with store := tabSet 0#8 c.store a b }

/-- A load from the cluster store (R83, R89). -/
def loadLocal (i : Issue) (s : State) : State :=
  let w := lsWidth i.f
  let n := widthBytes w
  let ts := maskThreads i.exe
  match groupFault ts (fun t => (storeFault (localAddr i t) n).map (fun c => (c, BitVec.ofNat 64 (localAddr i t)))) with
  | some (c, a, m) => exc i c m a false s
  | none =>
    let cl := getCluster s i.at_.cluster
    match groupFault ts (fun t => if cl.markAt (localAddr i t) ≠ .clean then some (cPoison, BitVec.ofNat 64 (localAddr i t)) else none) with
    | some (c, a, m) => exc i c m a ((maskThreads m).all (fun t => cl.markAt (localAddr i t) == .created)) s
    | none => advance i unitLs (putWide i (widthRegs w) (fun t => lsExtend w (lsSx i.f) (cl.bytes (localAddr i t) n)) s)

-- stores

/-- The bytes that one ST writes, in ascending thread order: address and value (R89). -/
def storeList (i : Issue) (addr : Nat → Nat) : List (Nat × Byte) :=
  (maskThreads i.exe).flatMap (fun t =>
    (List.range (widthBytes (lsWidth i.f))).map (fun k => (addr t + k, byteOf (i.src128 t i.f.dst) k)))

/-- A global store (R89, R199, R217, R471). -/
def storeGlobal (i : Issue) (s : State) : State :=
  let n := widthBytes (lsWidth i.f)
  let ts := maskThreads i.exe
  match groupFault ts (fun t => (globalFault s i.car.itin true (globalAddr i t) n).map (fun c => (c, BitVec.ofNat 64 (globalAddr i t)))) with
  | some (c, a, m) => exc i c m a false s
  | none =>
    let bs := storeList i (globalAddr i)
    let r := Requester.core i.at_.cluster i.at_.core
    let (ok, s) := clearAll r ((wordsOf bs).map (· / 4)) s
    if !ok then s
    else
      advance i unitLs (forEach (wordsOf bs) (fun w t =>
        match usable t (w * 32) with
        | some rg => (homeWriteSector r (w * 32) (wordEnables bs w) { data := wordData bs w } rg t).2
        | none => t) s)

/-- A store to the cluster store (R78, R89, R471): a write that covers a whole 32-byte word replaces its poison. -/
def storeLocal (i : Issue) (s : State) : State :=
  let n := widthBytes (lsWidth i.f)
  let ts := maskThreads i.exe
  match groupFault ts (fun t => (storeFault (localAddr i t) n).map (fun c => (c, BitVec.ofNat 64 (localAddr i t)))) with
  | some (c, a, m) => exc i c m a false s
  | none =>
    let bs := storeList i (localAddr i)
    advance i unitLs (modCluster i.at_.cluster (fun cl =>
      let cl := bs.foldl (fun c b => c.putByte b.1 b.2) cl
      { cl with marks := (wordsOf bs).foldl (fun m w =>
          if wordEnables bs w = BitVec.allOnes 32 then tabSet .clean m w .clean else m) cl.marks }) s)

/-- Dead hints (R89, R212, R213): one for each line that the executing threads name (DEDUCED, log 12). -/
def deadHints (i : Issue) (s : State) : State :=
  let ts := maskThreads i.exe
  match groupFault ts (fun t => (globalFault s i.car.itin false (globalAddr i t) 1).map (fun c => (c, BitVec.ofNat 64 (globalAddr i t)))) with
  | some (c, a, m) => exc i c m a false s
  | none =>
    advance i unitLs (forEach ((linesTouched (ts.map (globalAddr i)) 1).map (·.1)) (fun l t =>
      match usable t (l * 128) with
      | some rg => homeDead l rg t
      | none => t) s)

/-- An LS instruction issues. -/
def doLs (op : LsOp) (eff : Issue → State → State) (c : CoreSlot) (f : Insn) (s : State) : State :=
  withIssue c f unitLs (fun i s =>
    perThread i unitLs (lsIllegal op f) (lsUses op f) (lsZero op f) (eff i) s) s

/-- LD (R89). -/
def execLd (c : CoreSlot) (f : Insn) (s : State) : Host.Outcome State Fault Refusal :=
  .next (doLs .ld (fun i => afterChain i (if lsLocal f then loadLocal i else loadGlobal i)) c f s)
/-- ST (R89). -/
def execSt (c : CoreSlot) (f : Insn) (s : State) : Host.Outcome State Fault Refusal :=
  .next (doLs .st (fun i => afterChain i (if lsLocal f then storeLocal i else storeGlobal i)) c f s)
/-- DEAD (R89, R212). -/
def execDead (c : CoreSlot) (f : Insn) (s : State) : Host.Outcome State Fault Refusal := .next (doLs .dead deadHints c f s)

-- atomics

/-- An AT instruction that is illegal (R85, R90). -/
def atIllegal (op : AtOp) (f : Insn) : Bool :=
  bitsNat f.md 0 3 != 0 || !(lsWidth f == 2 || (lsWidth f == 3 && op != .fadd32)) || (op == .cas && f.i)

/-- The operand uses of an AT instruction (R75, R90): DST is read as a source as well, except by CAS. -/
def atUses (op : AtOp) (f : Insn) : List OpUse :=
  let w := widthRegs (lsWidth f)
  [⟨f.dst, w, true⟩, ⟨f.sa, 2, false⟩] ++ (if f.i then [] else [⟨f.sb, 1, false⟩]) ++
  (if op == .cas then [⟨f.sc, w, false⟩, ⟨f.sd, w, false⟩] else [⟨f.dst, w, false⟩])

/-- The fields an AT instruction leaves unused (R85, R90). -/
def atZero (op : AtOp) (f : Insn) : List (BitVec 8) := if op == .cas || f.i then [] else [f.sc, f.sd]

/-- The operand of a thread (R90). -/
def atOperand (op : AtOp) (i : Issue) (t : Nat) : AtOperand :=
  if op == .cas then { value := i.src64 t i.f.sd, compare := i.src64 t i.f.sc }
  else { value := i.src64 t i.f.dst, compare := 0#64 }

/-- In the 32-bit form an operand is one register; the upper half is not used. -/
def atOperand32 (op : AtOp) (i : Issue) (t : Nat) : AtOperand :=
  if op == .cas then { value := (i.src32 t i.f.sd).setWidth 64, compare := (i.src32 t i.f.sc).setWidth 64 }
  else { value := (i.src32 t i.f.dst).setWidth 64, compare := 0#64 }

/-- The requests of an AT instruction, one for each distinct address, in ascending order of the lowest thread of each (R90,
R222): the prior value of each thread and the threads that met poison. -/
def atRequests (op : AtOp) (i : Issue) (wide : Bool) : List Nat → State → List (Nat × Word) × BitVec 32 × State
  | [], s => ([], 0#32, s)
  | a :: rest, s =>
    let ts := (maskThreads i.exe).filter (fun t => globalAddr i t == a)
    let os := ts.map (fun t => if wide then atOperand op i t else atOperand32 op i t)
    match usable s a with
    | none => atRequests op i wide rest s
    | some rg =>
      let (got, s) := homeAtomicOp (.core i.at_.cluster i.at_.core) op wide a os rg s
      let (more, bad, s) := atRequests op i wide rest s
      match got with
      | some (ps, pz) => (ts.zip ps ++ more, (if pz then threadMask (fun t => ts.contains t) else 0#32) ||| bad, s)
      | none => (more, bad, s)

/-- The effect of an AT instruction (R90, R199, R217, R221 to R223): all its lines are cleared of other copies first. -/
def atEffect (op : AtOp) (i : Issue) (s : State) : State :=
  let wide := lsWidth i.f == 3
  let n := if wide then 8 else 4
  let ts := maskThreads i.exe
  match groupFault ts (fun t => (globalFault s i.car.itin true (globalAddr i t) n).map (fun c => (c, BitVec.ofNat 64 (globalAddr i t)))) with
  | some (c, a, m) => exc i c m a false s
  | none =>
    let as := (ts.map (globalAddr i)).eraseDups
    let (ok, s) := clearAll (.core i.at_.cluster i.at_.core) (as.map lineOf).eraseDups s
    if !ok then s
    else
      let (priors, bad, s) := atRequests op i wide as s
      if bad ≠ 0#32 then exc i cPoison bad (BitVec.ofNat 64 (globalAddr i ((maskThreads bad).headD 0))) false s
      else
        let v (t : Nat) : BitVec 128 := ((((priors.find? (fun p => p.1 == t)).map (·.2)).getD 0#64)).setWidth 128
        advance i unitLs (putWide i (if wide then 2 else 1) v s)

/-- An AT instruction issues. -/
def doAt (op : AtOp) (c : CoreSlot) (f : Insn) (s : State) : State :=
  withIssue c f unitLs (fun i s =>
    perThread i unitLs (atIllegal op f) (atUses op f) (atZero op f) (afterChain i (atEffect op i)) s) s

/-- AT ADD (R90). -/
def execAtAdd (c : CoreSlot) (f : Insn) (s : State) : Host.Outcome State Fault Refusal := .next (doAt .add c f s)
/-- AT FADD32 (R90). -/
def execFadd32 (c : CoreSlot) (f : Insn) (s : State) : Host.Outcome State Fault Refusal := .next (doAt .fadd32 c f s)
/-- AT MIN (R90). -/
def execAtMin (c : CoreSlot) (f : Insn) (s : State) : Host.Outcome State Fault Refusal := .next (doAt .min c f s)
/-- AT MAX (R90). -/
def execAtMax (c : CoreSlot) (f : Insn) (s : State) : Host.Outcome State Fault Refusal := .next (doAt .max c f s)
/-- AT AND (R90). -/
def execAtAnd (c : CoreSlot) (f : Insn) (s : State) : Host.Outcome State Fault Refusal := .next (doAt .and c f s)
/-- AT OR (R90). -/
def execAtOr (c : CoreSlot) (f : Insn) (s : State) : Host.Outcome State Fault Refusal := .next (doAt .or c f s)
/-- AT XOR (R90). -/
def execAtXor (c : CoreSlot) (f : Insn) (s : State) : Host.Outcome State Fault Refusal := .next (doAt .xor c f s)
/-- AT XCHG (R90). -/
def execXchg (c : CoreSlot) (f : Insn) (s : State) : Host.Outcome State Fault Refusal := .next (doAt .xchg c f s)
/-- AT CAS (R90). -/
def execCas (c : CoreSlot) (f : Insn) (s : State) : Host.Outcome State Fault Refusal := .next (doAt .cas c f s)

/-- The fill of an L1 miss (R196). -/
def execL1MissFill (cl co : Nat) (s : State) : Host.Outcome State Fault Refusal := .next (doL1Fill cl co s)

end Sys2Proof.Machine
end

