-- ==== Sys2Proof/Machine/CoreCtl.lean ====
section
/-! DEFINITION. The copy, control and exchange classes of the compute cores (R80 to R83, R91 to R93), the delivery of a copied
sector, and the end of the wait for a split caravan (R95). -/

namespace Sys2Proof.Machine

-- the copy engine (R80 to R83)

/-- The addresses of a range at which its region may change: its start and every page start inside it. -/
def rangeProbes (a n : Nat) : List Nat :=
  if n = 0 then [] else a :: (List.range ((a + n - 1) / 4096 - a / 4096)).map (fun k => (a / 4096 + 1 + k) * 4096)

/-- What is wrong with a CPY.IN, with the address reported (R80). R80 names no order among the checks: of several that fail the first in
the order of its list is reported, and of several misaligned operands SRC, then DST, then LEN (DESIGN CHOICE, log 11). -/
def copyFault (s : State) (itin : Nat) (src : Word) (dst len : Nat) : Option (Nat × Word) :=
  if src.toNat % 32 ≠ 0 then some (cAlign, src)
  else if dst % 32 ≠ 0 then some (cAlign, BitVec.ofNat 64 dst)
  else if len % 32 ≠ 0 then some (cAlign, BitVec.ofNat 64 len)
  else if storeBytes < dst + len then some (cStoreRange, BitVec.ofNat 64 (dst + len))
  else (rangeProbes src.toNat len).findSome? (fun a => (globalFault s itin false a 1).map (fun c => (c, BitVec.ofNat 64 a)))

/-- How many sectors from the front of a request are in the store. -/
def CopyReq.prefixLen (r : CopyReq) : Nat := ((List.range (r.len / 32)).takeWhile r.delivered.contains).length

/-- A request has delivered every byte (R82). -/
def CopyReq.complete (r : CopyReq) : Bool := r.prefixLen == r.len / 32

/-- Count delivered bytes on the arrival counters: in the order the requests were accepted, a request only after every earlier one
on its counter is complete (R81). -/
def countCopies : List CopyReq → List Nat → Tab (BitVec 64) → List CopyReq × Tab (BitVec 64)
  | [], _, cs => ([], cs)
  | r :: t, held, cs =>
    let n := if held.contains r.counter then r.counted else 32 * r.prefixLen
    let cs := tabSet 0#64 cs r.counter (tabGet 0#64 cs r.counter + BitVec.ofNat 64 (n - r.counted))
    let (rest, cs) := countCopies t (if r.complete then held else r.counter :: held) cs
    ({ r with counted := n } :: rest, cs)

/-- Requests leave the queue in the order they were accepted, once complete (R82, R83). -/
def Cluster.settleCopies (c : Cluster) : Cluster :=
  let (q, cs) := countCopies c.cpyQ [] c.counters
  { c with cpyQ := q.dropWhile CopyReq.complete, counters := cs }

/-- CPY.IN gives the copy engine a request (R80, R82, R91). -/
def copyIn (i : Issue) (s : State) : State :=
  let t := i.leader
  let src := i.src64 t i.f.sa
  let dst := (i.src32 t i.f.sb).toNat
  let len := (i.src32 t i.f.sc).toNat
  if 32 ≤ (getCluster s i.at_.cluster).cpyQ.length then s
  else match copyFault s i.car.itin src dst len with
    | some (c, a) => exc i c i.exe a false s
    | none =>
      advance i unitCpy (modCluster i.at_.cluster (fun c =>
        Cluster.settleCopies { c with cpyReqs := c.cpyReqs + 1
                                      cpyQ := c.cpyQ ++ [{ src := src.toNat, dst := dst, len := len, counter := bitsNat i.f.md 0 5 }] }) s)

/-- CPY.IN issues (R67, R91). -/
def doCpyIn (c : CoreSlot) (f : Insn) (s : State) : State :=
  withIssue c f unitCpy (fun i s =>
    perGroup i unitCpy (f.i || f.md.getLsbD 5) [⟨f.sa, 2, false⟩, ⟨f.sb, 1, false⟩, ⟨f.sc, 1, false⟩] [f.dst, f.sd] (afterChain i (copyIn i)) s) s

/-- A sector of a request arrives through the L2 in the cluster store, poison included (R80, R81, R83). -/
def deliverCopy (cl req sector : Nat) (s : State) : State :=
  match (getCluster s cl).cpyQ[req]? with
  | none => s
  | some r =>
    if r.len / 32 ≤ sector ∨ r.delivered.contains sector then s
    else
      let a := r.src + 32 * sector
      match usable s a with
      | none => s
      | some rg =>
        let (got, s) := homeReadLine (.core cl 0) (lineOf a) (maskBit 4 (a / 32 % 4)) rg s
        match got with
        | none => s
        | some vs =>
          let v := vs.getD (a / 32 % 4) noVal
          let d := r.dst + 32 * sector
          modCluster cl (fun c => Cluster.settleCopies
            { (List.range 32).foldl (fun c k => c.putByte (d + k) (byteOf v.data k)) c with
              cpyBytes := c.cpyBytes + 32
              marks := tabSet .clean c.marks (d / 32) (if v.poison then .outside else .clean)
              cpyQ := c.cpyQ.mapIdx (fun n x => if n = req then { x with delivered := sector :: x.delivered } else x) }) s

-- control

/-- The active threads that execute go on at their own targets, the others fall through (R68, R92). -/
def branch (i : Issue) (target : Nat → BitVec 40) (s : State) : State :=
  issuedLast i.at_ <| modCaravan i.at_ (fun c => { c with
    pair := none
    threads := c.threads.mapIdx (fun t x =>
      if i.exe.getLsbD t then { x with pc := target t } else if i.act.getLsbD t then { x with pc := i.pc + 8#40 } else x) }) s

/-- MOD[45] L of a branch writes the next address to the pair DST (R92). -/
def branchLink (f : Insn) : Bool := f.md.getLsbD 5
def linkWrite (i : Issue) (s : State) : State :=
  if branchLink i.f then putPair i i.f.dst i.exe (fun _ => (i.pc + 8#40).setWidth 64) s else s
def linkUses (f : Insn) : List OpUse := if branchLink f then [⟨f.dst, 2, true⟩] else []
def linkZero (f : Insn) : List (BitVec 8) := if branchLink f then [] else [f.dst]

/-- BRA issues (R92). -/
def doBra (c : CoreSlot) (f : Insn) (s : State) : State :=
  withIssue c f unitCtl (fun i s =>
    perThread i unitCtl (!f.i || bitsNat f.md 0 5 != 0) (linkUses f) (f.sa :: linkZero f)
      (fun s => branch i (fun _ => i.pc + ((insnImmS f) <<< 3).setWidth 40) (linkWrite i s)) s) s

/-- BRX issues (R92): a target that is no multiple of 8 raises ALIGN. -/
def doBrx (c : CoreSlot) (f : Insn) (s : State) : State :=
  withIssue c f unitCtl (fun i s =>
    perThread i unitCtl (f.i || bitsNat f.md 0 5 != 0) (⟨f.sa, 2, false⟩ :: linkUses f) ([f.sb, f.sc, f.sd] ++ linkZero f)
      (fun s =>
        match groupFault (maskThreads i.exe) (fun t => if (i.src64 t f.sa).toNat % 8 ≠ 0 then some (cAlign, i.src64 t f.sa) else none) with
        | some (c, a, m) => exc i c m a false s
        | none => branch i (fun t => (i.src64 t f.sa).setWidth 40) (linkWrite i s)) s) s

/-- Every field of a CTL instruction without operands is 0 (R85, R92). -/
def ctlZero (f : Insn) : List (BitVec 8) := if f.i then [f.dst, f.sa] else [f.dst, f.sa, f.sb, f.sc, f.sd]

/-- NOP issues (R92). -/
def doNop (c : CoreSlot) (f : Insn) (s : State) : State :=
  withIssue c f unitCtl (fun i s => perThread i unitCtl (f.i || f.md != 0#6) [] (ctlZero f) (advance i unitCtl) s) s

/-- EXIT issues (R65, R92): its threads exit, and a caravan all of whose threads have exited retires. R96 raises SPLIT in the cycle of
parking: an EXIT that leaves every other thread parked at several addresses raises nothing itself, and the count of R95 ends the wait
(DESIGN CHOICE, log 11). -/
def doExit (c : CoreSlot) (f : Insn) (s : State) : State :=
  withIssue c f unitCtl (fun i s =>
    perThread i unitCtl (f.i || f.md != 0#6) [] (ctlZero f)
      (fun s => retire i.at_ (modCaravan i.at_ (Caravan.modThreads i.exe (fun t => { t with exited := true })) (advance i unitCtl s))) s) s

/-- TRAP issues (R92, R97). -/
def doTrap (c : CoreSlot) (f : Insn) (s : State) : State :=
  withIssue c f unitCtl (fun i s =>
    perThread i unitCtl (!f.i || f.md != 0#6) [] (ctlZero f) (exc i cTrap i.exe 0#64 false) s) s

/-- The value WAITC waits for and ARV adds (R92): the leader's SA or IMM24 zero-extended. -/
def groupValue (i : Issue) (wide : Bool) : Word :=
  if i.f.i then insnImmZ i.f else if wide then i.src64 i.leader i.f.sa else (i.src32 i.leader i.f.sa).setWidth 64

/-- An arrival counter of a cluster. -/
def Cluster.counter (c : Cluster) (n : Nat) : BitVec 64 := tabGet 0#64 c.counters n

/-- The fields of WAITC and ARV that are unused (R85, R92). -/
def waitZero (f : Insn) : List (BitVec 8) := if f.i then [f.dst, f.sa] else [f.dst, f.sb, f.sc, f.sd]

/-- WAITC issues once its counter has reached the value; until then nothing happens (R69, R83, R92). -/
def doWaitc (c : CoreSlot) (f : Insn) (s : State) : State :=
  withIssue c f unitCtl (fun i s =>
    perGroup i unitCtl (f.md.getLsbD 5) (if f.i then [] else [⟨f.sa, 2, false⟩]) (waitZero f)
      (fun s => if (groupValue i true).toNat ≤ ((getCluster s c.cluster).counter (bitsNat f.md 0 5)).toNat then advance i unitCtl s else s) s) s

/-- ARV issues (R79, R92, R217): the group's earlier stores have taken effect, since each is performed as it issues. -/
def doArv (c : CoreSlot) (f : Insn) (s : State) : State :=
  withIssue c f unitCtl (fun i s =>
    perGroup i unitCtl (f.md.getLsbD 5) (if f.i then [] else [⟨f.sa, 1, false⟩]) (waitZero f)
      (afterChain i (fun s => advance i unitCtl (modCluster c.cluster (fun cl =>
        let n := bitsNat f.md 0 5
        { cl with counters := tabSet 0#64 cl.counters n (cl.counter n + groupValue i false) }) s))) s) s

-- exchange among the threads of the issuing group (R93)

/-- The thread a SHFL reads from: SB mod 32 if it is active, else the reading thread (R93). -/
def shflFrom (i : Issue) (t : Nat) : Nat :=
  let u := (i.src32 t i.f.sb).toNat % 32
  if i.act.getLsbD u then u else t

/-- SHFL issues (R93); a poisoned source of another thread is consumed as well. -/
def doShfl (c : CoreSlot) (f : Insn) (s : State) : State :=
  withIssue c f unitLs (fun i s =>
    perThread i unitLs (f.i || f.md != 0#6) [⟨f.dst, 1, true⟩, ⟨f.sa, 1, false⟩, ⟨f.sb, 1, false⟩] [f.sc, f.sd]
      (fun s =>
        let mk (t : Nat) : Mark := if f.sa.toNat < 0x80 then i.src.mark (shflFrom i t) f.sa.toNat else .clean
        let bad := threadMask (fun t => i.exe.getLsbD t && mk t != .clean)
        if bad ≠ 0#32 then exc i cPoison bad 0#64 ((maskThreads bad).all (fun t => mk t == .created)) s
        else advance i unitLs (putRes32 i (fun t => i.src32 (shflFrom i t) f.sa) s)) s) s

/-- The active threads whose predicate SA is 1 (R93). -/
def ballotMask (i : Issue) : BitVec 32 := threadMask (fun t => i.act.getLsbD t && i.src.predOf t (i.f.sa.toNat % 16))

/-- VOTE issues (R93): any active thread, or every active thread. R93 says nothing of bits [7:4] of a predicate field: a value other than 0
there is a reserved operand code (R85; DESIGN CHOICE, log 10). -/
def doVote (c : CoreSlot) (f : Insn) (s : State) : State :=
  withIssue c f unitLs (fun i s =>
    perThread i unitLs (f.i || bitsNat f.md 0 5 != 0 || decide (14 < f.dst.toNat) || decide (14 < f.sa.toNat)) [] [f.sb, f.sc, f.sd]
      (fun s =>
        let v : Bool := if f.md.getLsbD 5 then ballotMask i == i.act else ballotMask i != 0#32
        advance i unitLs (modCaravan i.at_ (Caravan.setPred i.exe f.dst.toNat (fun _ => v)) s)) s) s

/-- BALLOT issues (R93), with bits [7:4] of SA as in VOTE (log 10). -/
def doBallot (c : CoreSlot) (f : Insn) (s : State) : State :=
  withIssue c f unitLs (fun i s =>
    perThread i unitLs (f.i || f.md != 0#6 || decide (14 < f.sa.toNat)) [⟨f.dst, 1, true⟩] [f.sb, f.sc, f.sd]
      (fun s => advance i unitLs (putRes32 i (fun _ => ballotMask i) s)) s) s

/-- The count of 1024 cycles of a parked caravan ends (R95): SPLIT, unless its threads have met. -/
def doSplitTimeout (c : CoreSlot) (s : State) : State :=
  if !coreIssues s c.cluster c.core && !lateIssues s c.cluster c.core then s
  else match (getCore s c.cluster c.core).slot c.slot with
    | some car => if car.parkedMask ≠ 0#32 then raiseSplit c s else s
    | none => s

/-- CPY.IN (R91). -/
def execCpyIn (c : CoreSlot) (f : Insn) (s : State) : Host.Outcome State Fault Refusal := .next (doCpyIn c f s)
/-- NOP (R92). -/
def execNop (c : CoreSlot) (f : Insn) (s : State) : Host.Outcome State Fault Refusal := .next (doNop c f s)
/-- BRA (R92). -/
def execBra (c : CoreSlot) (f : Insn) (s : State) : Host.Outcome State Fault Refusal := .next (doBra c f s)
/-- BRX (R92). -/
def execBrx (c : CoreSlot) (f : Insn) (s : State) : Host.Outcome State Fault Refusal := .next (doBrx c f s)
/-- EXIT (R92). -/
def execExit (c : CoreSlot) (f : Insn) (s : State) : Host.Outcome State Fault Refusal := .next (doExit c f s)
/-- WAITC (R92). -/
def execWaitc (c : CoreSlot) (f : Insn) (s : State) : Host.Outcome State Fault Refusal := .next (doWaitc c f s)
/-- ARV (R92). -/
def execArv (c : CoreSlot) (f : Insn) (s : State) : Host.Outcome State Fault Refusal := .next (doArv c f s)
/-- TRAP (R92). -/
def execTrap (c : CoreSlot) (f : Insn) (s : State) : Host.Outcome State Fault Refusal := .next (doTrap c f s)
/-- SHFL (R93). -/
def execShfl (c : CoreSlot) (f : Insn) (s : State) : Host.Outcome State Fault Refusal := .next (doShfl c f s)
/-- VOTE (R93). -/
def execVote (c : CoreSlot) (f : Insn) (s : State) : Host.Outcome State Fault Refusal := .next (doVote c f s)
/-- BALLOT (R93). -/
def execBallot (c : CoreSlot) (f : Insn) (s : State) : Host.Outcome State Fault Refusal := .next (doBallot c f s)
/-- SPLIT_TIMEOUT (R95). -/
def execSplitTimeout (c : CoreSlot) (s : State) : Host.Outcome State Fault Refusal := .next (doSplitTimeout c s)
/-- COPY_DELIVERY (R80 to R83). -/
def execCopyDelivery (cl req sector : Nat) (s : State) : Host.Outcome State Fault Refusal := .next (deliverCopy cl req sector s)

end Sys2Proof.Machine
end

