-- ==== Sys2Proof/Machine/Matrix.lean ====
section
/-! DEFINITION. The matrix unit (R104 to R134): the encoding checks, the tiles an instruction reads, and what it computes when it
leaves the queue. -/

namespace Sys2Proof.Machine

/-- The three matrix instructions (R112). -/
inductive MxOp where
  | mma | mld | mrd
deriving DecidableEq, Repr

/-- The width class of a format code (R107). -/
def mxWidth (c : Nat) : Nat :=
  if c = 1 ∨ c = 8 then 4 else if c ≤ 7 then 8 else if c ≤ 10 then 16 else 32

/-- Whether a format code is an MX format (R107). -/
def isMxFmt (c : Nat) : Bool := decide (4 ≤ c) && decide (c ≤ 8)

/-- The operand pairs an MMA accepts (R108). -/
def pairOk (a b : Nat) : Bool :=
  let one (x y : Nat) : Bool :=
    if x ≤ 1 then decide (y ≤ 1)
    else if x ≤ 3 then decide (2 ≤ y) && decide (y ≤ 10)
    else if x ≤ 8 then decide (2 ≤ y) && decide (y ≤ 8)
    else if x ≤ 10 then y == 2 || y == 3 || y == 9 || y == 10
    else x == 11 && y == 11
  one a b && one b a

/-- K of a pair, and the registers its operands occupy (R109). -/
def mxK (a b : Nat) : Nat := 256 / max (mxWidth a) (mxWidth b)
def aRegs (a b : Nat) : Nat := mxK a b * mxWidth a / 64
def bRegs (a b : Nat) : Nat := mxK a b * mxWidth b / 32

/-- The fields of the matrix instructions (R112). -/
def mxAFmt (f : Insn) : Nat := bitsNat f.sd 0 4
def mxBFmt (f : Insn) : Nat := bitsNat f.sd 4 4
def mxPass (f : Insn) : Nat := bitsNat f.md 4 2
def mxZ (f : Insn) : Bool := f.md.getLsbD 3
def mxKind (f : Insn) : Nat := bitsNat f.md 3 3
def mxClr (f : Insn) : Bool := f.md.getLsbD 2

/-- The registers of a 32-bit and of a 16-bit readout (R113). -/
def mrdRegs (fmt : Nat) : Nat := if fmt = 9 ∨ fmt = 10 then 8 else 16

/-- The conditions of R113 that make a matrix instruction illegal. -/
def mxIllegal (op : MxOp) (f : Insn) : Bool :=
  f.i || f.pn || f.pred != 15#4 ||
  match op with
  | .mma =>
    let a := mxAFmt f
    let b := mxBFmt f
    let mx := isMxFmt a || isMxFmt b
    bitsNat f.md 0 3 != 0 || decide (1 < f.dst.toNat) || decide (11 < a) || decide (11 < b) || !pairOk a b ||
    mxPass f == 3 || (mxPass f != 0 && a != 11) ||
    decide (0x80 ≤ f.sa.toNat) || decide (0x80 ≤ f.sb.toNat) || decide (0x80 ≤ f.sc.toNat) ||
    f.sa.toNat % 4 != 0 || f.sb.toNat % 8 != 0 || (!mx && f.sc != 0#8)
  | .mld =>
    f.md != 0#6 || decide (1 < f.dst.toNat) || !(f.sd == 0x0B#8 || f.sd == 0x0C#8) || f.sb != 0#8 || f.sc != 0#8 ||
    decide (0x80 ≤ f.sa.toNat) || f.sa.toNat % 16 != 0
  | .mrd =>
    bitsNat f.md 0 2 != 0 || decide (4 < mxKind f) || decide (1 < f.sa.toNat) || f.sb != 0#8 || f.sc != 0#8 ||
    decide (f.sd.toNat < 9) || decide (13 < f.sd.toNat) || (mxKind f == 4 && f.sd != 0x0C#8) ||
    decide (0x80 ≤ f.dst.toNat) || f.dst.toNat % mrdRegs f.sd.toNat != 0

/-- The register words a matrix instruction reads or writes (R109, R111). -/
def mxUses (op : MxOp) (f : Insn) : List OpUse :=
  match op with
  | .mma =>
    let a := mxAFmt f
    let b := mxBFmt f
    [⟨f.sa, aRegs a b, false⟩, ⟨f.sb, bRegs a b, false⟩] ++ (if isMxFmt a || isMxFmt b then [⟨f.sc, 1, false⟩] else [])
  | .mld => [⟨f.sa, 16, false⟩]
  | .mrd => [⟨f.dst, mrdRegs f.sd.toNat, true⟩]

/-- The encoding check of a matrix instruction (R95, R113). -/
def mxCheck (c : Caravan) (op : MxOp) (f : Insn) : Option Nat :=
  if mxIllegal op f then some cIllegalInsn
  else if (mxUses op f).any (fun u => u.over c) then some cIllegalReg
  else none

/-- The bit string of a tile of n registers from register b, thread-major (R110). -/
def tileBits (c : Caravan) (b n : Nat) : Nat :=
  threads32.foldl (fun acc t =>
    (List.range n).foldl (fun acc r => acc + (c.reg t (b + r)).toNat * 2 ^ (32 * (t * n + r))) acc) 0

/-- The job an issuing matrix instruction puts into the queue. -/
def mxJobOf (op : MxOp) (i : Issue) : MxJob :=
  let f := i.f
  match op with
  | .mma =>
    .mma i.at_.slot f.dst.toNat (mxAFmt f) (mxBFmt f) (mxPass f) (mxZ f)
      (BitVec.ofNat 4096 (tileBits i.src f.sa.toNat (aRegs (mxAFmt f) (mxBFmt f))))
      (BitVec.ofNat 8192 (tileBits i.src f.sb.toNat (bRegs (mxAFmt f) (mxBFmt f))))
      (threads32.map (fun t => i.src.reg t f.sc.toNat))
  | .mld => .mld i.at_.slot f.dst.toNat f.sd.toNat (BitVec.ofNat 16384 (tileBits i.src f.sa.toNat 16))
  | .mrd => .mrd i.at_.slot f.sa.toNat f.sd.toNat (mxKind f) (mxClr f) f.dst.toNat i.car.conv

/-- A matrix instruction enters the queue of two, if there is room and its registers are ready (R69, R74, R116); a readout of kind
gradient counts as a conversion (R159). -/
def mxEnter (op : MxOp) (i : Issue) (s : State) : State :=
  if 2 ≤ (getCore s i.at_.cluster i.at_.core).mxq.length || regsBusy i (mxUses op i.f) s then s
  else
    let (bad, own) := poisonReaders i (BitVec.allOnes 32) (mxUses op i.f)
    if bad ≠ 0#32 then exc i cPoison bad 0#64 own s
    else
      let s := if op = .mrd ∧ mxKind i.f = 2 then modCaravan i.at_ (fun c => { c with conv := c.conv + 1 }) s else s
      advance i unitMx (modCore i.at_.cluster i.at_.core (fun c => { c with mxq := c.mxq ++ [mxJobOf op i] }) s)

/-- A matrix instruction issues (R94 to R96, R113, R134). -/
def doMx (op : MxOp) (c : CoreSlot) (f : Insn) (s : State) : State :=
  withIssue c f unitMx (fun i s =>
    match mxCheck i.car op f with
    | some cause => exc i cause i.act 0#64 false s
    | none => caravanWide i (mxEnter op) s) s

-- what the unit computes

/-- The value of an operand element of a format code (R107, R137). -/
def mxValue (c : Nat) (w : Nat) : Num :=
  if c = 0 then .ofInt (BitVec.ofNat 8 w).toInt
  else if c = 1 then .ofInt (BitVec.ofNat 4 w).toInt
  else if c = 2 ∨ c = 4 then fmtE4M3.decode w
  else if c = 3 ∨ c = 5 then fmtE5M2.decode w
  else if c = 6 then fmtE3M2.decode w
  else if c = 7 then fmtE2M3.decode w
  else if c = 8 then fmtE2M1.decode w
  else if c = 9 then fmtFP16.decode w
  else if c = 10 then fmtBF16.decode w
  else if c = 11 then fmtFP32.decode w
  else fmtEWF32.decode w

/-- An element times its E8M0 scale byte; the byte 0xFF makes it NaN (R111, R138). -/
def scaled (b : Nat) (v : Num) : Num := if b = 0xFF then .nan else v.scale ((b : Int) - 127)

/-- An element of a tile at an index of its bit string. -/
def tileElem (bits : Nat) (w idx : Nat) : Nat := bits / 2 ^ (idx * w) % 2 ^ w

/-- The values A[i][k] and B[k][j] of an MMA, scaled (R110, R111). -/
def mmaA (aF bF : Nat) (bits : Nat) (sc : List (BitVec 32)) (i k : Nat) : Num :=
  let v := mxValue aF (tileElem bits (mxWidth aF) (i * mxK aF bF + k))
  if isMxFmt aF then scaled (bitsNat (sc.getD i 0#32) (8 * (k / 32)) 8) v else v
def mmaB (_aF bF : Nat) (bits : Nat) (sc : List (BitVec 32)) (k j : Nat) : Num :=
  let v := mxValue bF (tileElem bits (mxWidth bF) (k * 32 + j))
  if isMxFmt bF then scaled (bitsNat (sc.getD j 0#32) (16 + 8 * (k / 32)) 8) v else v

/-- The high part of an FP32 value: its significand truncated to 12 bits; the low part is the rest (R121). -/
def hiPart : Num → Num
  | .fin neg m e =>
    let d := Nat.log2 m - 11
    if m = 0 then .fin neg 0 0 else .fin neg (m / 2 ^ d) (e + d)
  | x => x
def loPart (x : Num) : Num := x.add (hiPart x).neg

/-- A product is special: NaN, infinite, or overflowed in FP32 (R123). -/
def specialProduct (a b : Num) : Option Num :=
  match a.mul b with
  | .nan => some .nan
  | .inf n => some (.inf n)
  | .fin n m e => if (fmtFP32.convert .nearest (.fin n m e)).2.of then some (.inf n) else none

/-- The flags of a product: 0 times infinity and NaN factors are invalid; a finite product that overflows sets OF and NX (R123,
R129). -/
def productFlags (a b : Num) : Flags :=
  match a.mul b with
  | .nan => flagNV
  | .inf _ => {}
  | .fin n m e => if (fmtFP32.convert .nearest (.fin n m e)).2.of then flagOF else {}

/-- The terms of one element, in order, with the flags of its products (R122 to R124). -/
def mmaTerms (fp32 : Bool) (pass : Nat) (ps : List (Num × Num)) : List Num × Flags :=
  if !fp32 then (ps.map (fun p => p.1.mul p.2), {})
  else
    let z : Num := .fin false 0 0
    let first := ps.map (fun p => match specialProduct p.1 p.2 with | some v => v | none => (hiPart p.1).mul (hiPart p.2))
    let later (g : Num × Num → List Num) (n : Nat) : List Num :=
      ps.flatMap (fun p => if (specialProduct p.1 p.2).isSome then List.replicate n z else g p)
    let cross := later (fun p => [(hiPart p.1).mul (loPart p.2), (loPart p.1).mul (hiPart p.2)]) 2
    let low := later (fun p => [(loPart p.1).mul (loPart p.2)]) 1
    let fl := ps.foldl (fun fl p => fl.or (productFlags p.1 p.2)) {}
    (first ++ (if 1 ≤ pass then cross else []) ++ (if pass = 2 then low else []), fl)

/-- The exponent of a non-zero finite value. -/
def Num.expo : Num → Option Int
  | .fin _ m e => if m = 0 then none else some (e + Nat.log2 m)
  | _ => none

/-- The largest exponent among some terms. -/
def maxExpo (ts : List Num) : Option Int :=
  ts.foldl (fun m t => match m, t.expo with
    | none, x => x
    | some a, some b => some (max a b)
    | some a, none => some a) none

/-- A term truncated toward zero to whole units of 2^l, as an integer count, and whether bits were discarded (R124). -/
def truncTerm (l : Int) : Num → Int × Bool
  | .fin neg m e =>
    let q := if l ≤ e then m * 2 ^ (e - l).toNat else m / 2 ^ (l - e).toNat
    let cut := !decide (l ≤ e) && m % 2 ^ (l - e).toNat != 0
    (if neg then -(q : Int) else q, cut)
  | _ => (0, false)

/-- The sum of a group of terms (R124, R131). -/
def groupSum (ts : List Num) : Num × Flags :=
  if ts.any Num.isNan then (.nan, flagNV)
  else if ts.any (fun t => t == .inf false) && ts.any (fun t => t == .inf true) then (.nan, flagNV)
  else if ts.any (fun t => t == .inf false) then (.inf false, {})
  else if ts.any (fun t => t == .inf true) then (.inf true, {})
  else
    match maxExpo ts with
    | none => (.fin (ts.all (fun t => match t with | .fin n _ _ => n | _ => false)) 0 0, {})
    | some em =>
      let l := em - 39
      let parts := ts.map (truncTerm l)
      let sum := (parts.map (·.1)).foldl (· + ·) 0
      let v : Num := if sum = 0 then .fin false 0 0 else .fin (decide (sum < 0)) sum.natAbs l
      let (a, fl) := toAcc v
      (a.num, fl.or { nx := parts.any (·.2) })

/-- The terms of an element in groups of 8; each group's result is the first term of the next (R124). -/
def groupChain : Nat → Num → List Num → Num × Flags
  | 0, acc, _ => (acc, {})
  | n + 1, acc, ts =>
    let (v, fl) := groupSum (acc :: ts.take 8)
    if (ts.drop 8).isEmpty then (v, fl)
    else
      let (w, fl') := groupChain n v (ts.drop 8)
      (w, fl.or fl')

/-- One element of an MMA (R106, R124). -/
def mmaElem (fp32 : Bool) (pass : Nat) (acc : Num) (ps : List (Num × Num)) : Acc × Flags :=
  let (ts, fl) := mmaTerms fp32 pass ps
  let (v, fl') := groupChain (ts.length / 8 + 1) acc ts
  ((toAcc v).1, fl.or fl')

/-- An accumulator element of a caravan. -/
def Caravan.accAt (c : Caravan) (n idx : Nat) : Acc := tabGet (.zero false) (if n = 0 then c.acc0 else c.acc1) idx

/-- Replace an accumulator of a caravan by 512 elements. -/
def Caravan.setAcc (n : Nat) (v : List Acc) (c : Caravan) : Caravan :=
  let t := (v.mapIdx (fun i a => (i, a))).filter (fun p => p.2 ≠ .zero false)
  if n = 0 then { c with acc0 := t } else { c with acc1 := t }

/-- The 512 elements of an accumulator. -/
def accIdx : List Nat := List.range 512

/-- An MMA leaves the array (R106, R124 to R132). -/
def runMma (c : Caravan) (n aF bF pass : Nat) (z : Bool) (a b : Nat) (sc : List (BitVec 32)) : Caravan × Flags :=
  let k := mxK aF bF
  let out := accIdx.map (fun e =>
    let acc : Num := if z then .fin false 0 0 else (c.accAt n e).num
    mmaElem (aF == 11) pass acc ((List.range k).map (fun x => (mmaA aF bF a sc (e / 32) x, mmaB aF bF b sc x (e % 32)))))
  (c.setAcc n (out.map (·.1)), out.foldl (fun fl o => fl.or o.2) {})

/-- The partial products of an MMA, each counted as one (R136). -/
def mmaMacs (aF bF pass : Nat) : Nat := 512 * mxK aF bF * (if pass = 0 then 1 else if pass = 1 then 3 else 4)

/-- An MLD: FP32 or EWF32 elements enter the accumulator exactly (R115). -/
def runMld (c : Caravan) (n fmt src : Nat) : Caravan × Flags :=
  let vs := accIdx.map (fun e => mxValue fmt (tileElem src 32 e))
  (c.setAcc n (vs.map (fun v => (toAcc v).1)), if vs.any Num.isNan then flagNV else {})

/-- One element of a readout (R114, R132, R143). -/
def mrdElem (fmt : Nat) (mode : RMode) (v : Num) : Nat × Flags :=
  if fmt = 13 then (let r := toInt32 v; (r.1.toNat, r.2))
  else if fmt = 9 then fmtFP16.convert mode v
  else if fmt = 10 then fmtBF16.convert mode v
  else if fmt = 11 then fmtFP32.convert mode v
  else fmtEWF32.convert mode v

/-- An MRD: the accumulator's elements into the destination registers (R110, R114). -/
def runMrd (c : Caravan) (n fmt kind : Nat) (clr : Bool) (dst conv : Nat) (seed : Word) : Caravan × Flags :=
  let out := accIdx.map (fun e =>
    mrdElem fmt (if kind = 2 then .stoch (rand32 seed c.launch c.cvn conv e) else .nearest) (c.accAt n e).num)
  let regs := mrdRegs fmt
  let word (t r : Nat) : BitVec 32 :=
    let w := t * regs + r
    if regs = 16 then BitVec.ofNat 32 ((out.getD w (0, {})).1)
    else BitVec.ofNat 32 ((out.getD (2 * w) (0, {})).1 + (out.getD (2 * w + 1) (0, {})).1 * 2 ^ 16)
  let c := (List.range regs).foldl (fun c r => Caravan.writeReg (dst + r) (fun t => some (word t r)) c) c
  (if clr then c.setAcc n [] else c, out.foldl (fun fl o => fl.or o.2) {})

/-- The Bell seed of a core for a caravan's leg (R158). -/
def caravanSeed (s : State) (cl co : Nat) (car : Caravan) : Word :=
  match getItin s car.itin with
  | some it =>
    let job := match it.job with | some j => j.seed | none => 0#64
    match it.leg with
    | some l => bellSeed job (BitVec.ofNat 64 l.jsn) (BitVec.ofNat 32 (logicalOf l cl * 8 + co))
    | none => bellSeed job 0#64 (BitVec.ofNat 32 co)
  | none => 0#64

/-- The oldest queued matrix instruction completes (R116): its result, its flags and its counts. An instruction that issues after it
reads its result, so an open pair of its caravan ends (R74). -/
def doMxComplete (cl co : Nat) (s : State) : State :=
  match (getCore s cl co).mxq with
  | [] => s
  | j :: rest =>
    let sl := j.slotOf
    match (getCore s cl co).slot sl with
    | none => modCore cl co (fun c => { c with mxq := rest }) s
    | some car =>
      let (car', fl, cnt) : Caravan × Flags × (CoreCounts → CoreCounts) := match j with
        | .mma _ n aF bF pass z a b sc =>
          let r := runMma car n aF bF pass z a.toNat b.toNat sc
          (r.1, r.2, fun k => { k with mma := k.mma + 1, macs := k.macs + mmaMacs aF bF pass })
        | .mld _ n fmt src => let r := runMld car n fmt src.toNat; (r.1, r.2, fun k => { k with mld := k.mld + 1 })
        | .mrd _ n fmt kind clr dst conv =>
          let r := runMrd car n fmt kind clr dst conv (caravanSeed s cl co car)
          (r.1, r.2, fun k => { k with mrd := k.mrd + 1 })
      let macs : Nat := match j with | .mma _ _ aF bF pass _ _ _ _ => mmaMacs aF bF pass | _ => 0
      let s := modCore cl co (fun c => Core.addMx fl { c.setSlot sl (some { car' with pair := none }) with mxq := rest, run := cnt c.run }) s
      retire { cluster := cl, core := co, slot := sl } (modLeg car.itin (fun l => { l with macs := l.macs + macs }) s)

/-- MMA (R106, R112). -/
def execMma (c : CoreSlot) (f : Insn) (s : State) : Host.Outcome State Fault Refusal := .next (doMx .mma c f s)
/-- MLD (R112, R115). -/
def execMld (c : CoreSlot) (f : Insn) (s : State) : Host.Outcome State Fault Refusal := .next (doMx .mld c f s)
/-- MRD (R112, R114). -/
def execMrd (c : CoreSlot) (f : Insn) (s : State) : Host.Outcome State Fault Refusal := .next (doMx .mrd c f s)
/-- MX_OP_COMPLETE (R116). -/
def execMxOpComplete (cl co : Nat) (s : State) : Host.Outcome State Fault Refusal := .next (doMxComplete cl co s)

end Sys2Proof.Machine
end

