-- ==== Sys2Proof/Machine/Chain.lean ====
section
/-! DEFINITION. The vector chain (R169 to R187, R191): the instruction and its configuration word, and what an operation does when
it leaves the queue, with the scaled conversions of R148 to R154. -/

namespace Sys2Proof.Machine

-- the configuration word (R176)

/-- A field of the configuration word. -/
def cw (c : BitVec 256) (lo n : Nat) : Nat := bitsNat c lo n

/-- An element stream of the configuration word: mode, register, format, stride (R176). -/
structure Strm where
  mode : Nat
  reg : Nat
  fmt : Nat
  stride : Nat
deriving DecidableEq, Repr

/-- The streams A, B, C and O. -/
def strmAt (c : BitVec 256) (lo : Nat) : Strm := ⟨cw c lo 2, cw c (lo + 2) 7, cw c (lo + 9) 4, cw c (lo + 13) 16⟩
def strmA (c : BitVec 256) : Strm := strmAt c 0
def strmB (c : BitVec 256) : Strm := strmAt c 32
def strmC (c : BitVec 256) : Strm := strmAt c 64
def strmO (c : BitVec 256) : Strm := strmAt c 96

/-- The other fields. -/
def cwCt (c : BitVec 256) : Nat := cw c 128 2
def cwAa (c : BitVec 256) : Nat := cw c 130 5
def cwAb (c : BitVec 256) : Nat := cw c 135 5
def cwAbSrc (c : BitVec 256) : Nat := cw c 140 2
def cwTr (c : BitVec 256) : Nat := cw c 142 4
def cwRed (c : BitVec 256) : Nat := cw c 146 3
def cwSeg (c : BitVec 256) : Nat := cw c 149 4
def cwKind (c : BitVec 256) : Nat := cw c 153 3
def cwSiMode (c : BitVec 256) : Nat := cw c 192 2
def cwSiReg (c : BitVec 256) : Nat := cw c 194 7
def cwSiKind (c : BitVec 256) : Nat := cw c 201 3
def cwSoMode (c : BitVec 256) : Nat := cw c 204 2
def cwSoReg (c : BitVec 256) : Nat := cw c 206 7
def cwMMode (c : BitVec 256) : Nat := cw c 213 2
def cwMReg (c : BitVec 256) : Nat := cw c 215 7
def cwMInv (c : BitVec 256) : Bool := c.getLsbD 222
def cwRMode (c : BitVec 256) : Nat := cw c 223 2
def cwRReg (c : BitVec 256) : Nat := cw c 225 7
def cwWReg (c : BitVec 256) : Nat := cw c 232 7

/-- The bits of an element of a format code (R107, R137, R176). -/
def chainBits (f : Nat) : Nat := if f = 14 then 64 else mxWidth f

/-- The stride as a signed number. -/
def Strm.strideI (x : Strm) : Int := (BitVec.ofNat 16 x.stride).toInt

/-- A weight recipe sets the groups of the output, or of a scaled A (R148, R178). -/
def weightOut (c : BitVec 256) : Bool := (strmO c).mode != 0 && cwKind c == 0 && decide ((strmO c).fmt ≤ 3)
def weightIn (c : BitVec 256) : Bool := cwSiMode c != 0 && cwSiKind c == 0 && decide ((strmA c).fmt ≤ 3)

/-- An ALU function that takes a second operand (R180). -/
def binaryOp (op : Nat) : Bool := (decide (1 ≤ op) && decide (op ≤ 6)) || decide (9 ≤ op)

/-- A function code that its compute type does not have (R180). -/
def aluBad (ct op : Nat) : Bool := decide (14 < op) || (decide (9 ≤ op) && ct != 3)

/-- An input stream that breaks R176 or R178. -/
def strmBad (ct : Nat) (x : Strm) : Bool :=
  if x.mode = 0 then x.reg != 0 || x.fmt != 0 || x.stride != 0
  else x.fmt == 15 ||
    (x.mode == 3 && (x.stride != 0 || decide (x.fmt < 9) || (x.fmt == 14 && x.reg % 2 != 0))) ||
    (x.mode == 1 && x.reg % 2 != 0) ||
    (ct == 3 && x.fmt != 13) ||
    (chainBits x.fmt == 4 && decide (1 < x.stride))

/-- A stream of a mode and an address register only (R176). -/
def sideBad (mode reg : Nat) : Bool := mode == 3 || (mode == 0 && reg != 0) || (mode == 1 && reg % 2 != 0)

/-- A configuration word that makes a VOP illegal, its channel length apart (R176, R178). -/
def cwIllegal (c : BitVec 256) (len : Nat) : Bool :=
  let a := strmA c
  let b := strmB c
  let d := strmC c
  let o := strmO c
  let ct := cwCt c
  let scA := decide (a.fmt ≤ 8)
  let scO := o.mode != 0 && decide (o.fmt ≤ 8)
  let weight := weightOut c || weightIn c
  cw c 29 3 != 0 || cw c 61 3 != 0 || cw c 93 3 != 0 || cw c 125 3 != 0 || cw c 156 36 != 0 || cw c 239 17 != 0 ||
  a.mode == 0 || strmBad ct a || strmBad ct b || strmBad ct d ||
  (b.mode != 0 && decide (b.fmt ≤ 8)) || (d.mode != 0 && decide (d.fmt ≤ 8)) ||
  o.mode == 3 || (o.mode == 0 && (o.reg != 0 || o.fmt != 0 || o.stride != 0)) ||
  (o.mode != 0 && (o.fmt == 15 || o.stride == 0 || (chainBits o.fmt == 4 && o.stride != 1) || (o.mode == 1 && o.reg % 2 != 0))) ||
  aluBad ct (cwAa c) || aluBad ct (cwAb c) || cwAb c == 4 ||
  (binaryOp (cwAa c) && b.mode == 0) || (cwAa c == 4 && d.mode == 0) ||
  (if binaryOp (cwAb c) then cwAbSrc c == 3 || (cwAbSrc c == 1 && b.mode == 0) || (cwAbSrc c == 2 && d.mode == 0)
   else cwAbSrc c != 0) ||
  decide (7 < cwTr c) || (cwTr c != 0 && decide (2 ≤ ct)) ||
  decide (4 < cwRed c) || decide (12 < cwSeg c) || (cwRed c == 0 && (cwSeg c != 0 || cwRMode c != 0)) ||
  decide (4 < cwKind c) || (o.mode == 0 && cwKind c != 0) || (cwKind c == 4 && o.fmt != 12) ||
  sideBad (cwSiMode c) (cwSiReg c) || (cwSiMode c == 0 && cwSiKind c != 0) || decide (4 ≤ cwSiKind c) ||
  (scA != (cwSiMode c != 0)) ||
  sideBad (cwSoMode c) (cwSoReg c) || (scO != (cwSoMode c != 0)) ||
  sideBad (cwMMode c) (cwMReg c) || (cwMMode c == 0 && cwMInv c) ||
  sideBad (cwRMode c) (cwRReg c) ||
  (if weight then cwWReg c % 4 != 0 else cwWReg c != 0) ||
  decide (4096 < len)

/-- The registers that the configuration word names, from the leader (R175, R176). -/
def strmUse (x : Strm) : List OpUse :=
  if x.mode = 0 then []
  else if x.mode = 1 ∨ (x.mode = 3 ∧ x.fmt = 14) then [⟨BitVec.ofNat 8 x.reg, 2, false⟩]
  else [⟨BitVec.ofNat 8 x.reg, 1, false⟩]
def sideUse (mode reg : Nat) : List OpUse := strmUse ⟨mode, reg, 0, 0⟩
def cwUses (c : BitVec 256) : List OpUse :=
  strmUse (strmA c) ++ strmUse (strmB c) ++ strmUse (strmC c) ++ strmUse (strmO c) ++
  sideUse (cwSiMode c) (cwSiReg c) ++ sideUse (cwSoMode c) (cwSoReg c) ++ sideUse (cwMMode c) (cwMReg c) ++
  sideUse (cwRMode c) (cwRReg c) ++ (if weightOut c || weightIn c then [⟨BitVec.ofNat 8 (cwWReg c), 4, false⟩] else [])

-- issue (R94, R173 to R175, R178, R187)

/-- The fields of the instruction word that make a VOP illegal (R85, R174). -/
def vopIllegal (f : Insn) : Bool :=
  f.md != 0#6 || (f.pred == 15#4 && f.pn) || decide (0x80 ≤ f.sa.toNat) || f.sa.toNat % 8 != 0 || decide (0x80 < f.dst.toNat) ||
  (!f.i && (f.sb != 0#8 || f.sc != 0#8 || decide (0x98 < f.sd.toNat)))

/-- The uses of the instruction word itself. -/
def vopUses (f : Insn) : List OpUse := ⟨f.sa, 8, false⟩ :: (if f.i then [] else [⟨f.sd, 1, false⟩])

/-- The configuration word and the vector length of an issuing VOP, from the leader (R175). -/
def vopCw (i : Issue) : BitVec 256 :=
  let r (k : Nat) : BitVec 32 := i.src.reg i.leader (i.f.sa.toNat + k)
  r 7 ++ r 6 ++ r 5 ++ r 4 ++ r 3 ++ r 2 ++ r 1 ++ r 0
def vopLen (i : Issue) : Nat := if i.f.i then (insnImm i.f).toNat else (i.src32 i.leader i.f.sd).toNat

/-- The DST field fits the operation (R174). -/
def vopDstBad (f : Insn) (c : BitVec 256) : Bool :=
  if cwRed c = 0 then f.dst != 0#8 else f.dst.toNat < 0x80 && cwCt c == 2 && f.dst.toNat % 2 != 0

/-- What a stream's register supplies: an address, or the value of a register-mode stream (R176, R177). -/
def strmVal (i : Issue) (x : Strm) : Word :=
  if x.mode = 1 ∨ (x.mode = 3 ∧ x.fmt = 14) then i.src.reg i.leader (x.reg + 1) ++ i.src.reg i.leader x.reg
  else (i.src.reg i.leader x.reg).setWidth 64

/-- The operation that enters the queue. -/
def vopJob (i : Issue) (c : BitVec 256) (len : Nat) : VcJob :=
  let side (mode reg : Nat) : Word := strmVal i ⟨mode, reg, 0, 0⟩
  let w (k : Nat) : BitVec 32 := i.src.reg i.leader (cwWReg c + k)
  { slot := i.at_.slot, lanes := i.exe, pc := i.pc, cfg := c, len := len, dst := i.f.dst
    aVal := strmVal i (strmA c), bVal := strmVal i (strmB c), cVal := strmVal i (strmC c), oAddr := strmVal i (strmO c)
    siAddr := side (cwSiMode c) (cwSiReg c), soAddr := side (cwSoMode c) (cwSoReg c)
    mAddr := side (cwMMode c) (cwMReg c), rAddr := side (cwRMode c) (cwRReg c)
    chanLen := (w 0).toNat, chan0 := (w 1).toNat, recAddr := w 3 ++ w 2, conv := i.car.conv }

/-- A VOP enters the queue of two, if there is room (R159, R187). -/
def vopEnter (i : Issue) (j : VcJob) (s : State) : State :=
  if 2 ≤ (getCore s i.at_.cluster i.at_.core).vcq.length then s
  else
    let s := if cwKind j.cfg = 2 ∧ j.len ≠ 0 then modCaravan i.at_ (fun c => { c with conv := c.conv + 1 }) s else s
    advance i unitVc (modCore i.at_.cluster i.at_.core (fun c => { c with vcq := c.vcq ++ [j] }) s)

/-- The operation of a group no thread of which executes: as one of length 0 (R173). -/
def emptyVop (i : Issue) : VcJob :=
  { slot := i.at_.slot, lanes := 0#32, pc := i.pc, cfg := 0#256, len := 0, dst := 0x80#8, aVal := 0#64, bVal := 0#64, cVal := 0#64
    oAddr := 0#64, siAddr := 0#64, soAddr := 0#64, mAddr := 0#64, rAddr := 0#64, chanLen := 0, chan0 := 0, recAddr := 0#64
    conv := i.car.conv }

/-- A VOP that some thread executes: its configuration word is read, checked and queued (R172, R175, R178, R191). -/
def vopConfigured (i : Issue) (s : State) : State :=
  let lead := maskBit 32 i.leader
  let (bad, own) := poisonReaders i lead (vopUses i.f)
  let c := vopCw i
  let len := vopLen i
  if regsBusy i (vopUses i.f) s then s
  else if bad ≠ 0#32 then exc i cPoison i.exe 0#64 own s
  else if cwIllegal c len || vopDstBad i.f c then exc i cIllegalInsn i.exe 0#64 false s
  else if (cwUses c).any (fun u => u.over i.car) || (cwRed c != 0 && (⟨i.f.dst, if cwCt c = 2 then 2 else 1, true⟩ : OpUse).over i.car) then
    exc i cIllegalReg i.exe 0#64 false s
  else if regsBusy i (⟨i.f.dst, if cwRed c = 0 then 0 else if cwCt c = 2 then 2 else 1, true⟩ :: cwUses c) s then s
  else
    let (bad, own) := poisonReaders i lead (cwUses c)
    if bad ≠ 0#32 then exc i cPoison i.exe 0#64 own s
    else
      let j := vopJob i c len
      if (weightOut c || weightIn c) && j.chanLen == 0 then exc i cIllegalInsn i.exe 0#64 false s else vopEnter i j s

/-- A VOP issues once for its group (R94, R173, R174); it is not ready while the chain's queue is full (R187). -/
def doVop (c : CoreSlot) (f : Insn) (s : State) : State :=
  withIssue c f unitVc (fun i s =>
    let th := if i.exe = 0#32 then i.act else i.exe
    if 2 ≤ (getCore s c.cluster c.core).vcq.length then s
    else if vopIllegal f then exc i cIllegalInsn th 0#64 false s
    else if (vopUses f).any (fun u => u.over i.car) then exc i cIllegalReg th 0#64 false s
    else if i.exe = 0#32 then vopEnter i (emptyVop i) s
    else vopConfigured i s) s

-- formats and functions of the chain

/-- The code and the format of a compute type (R176). -/
def ctCode (ct : Nat) : Nat := if ct = 0 then 11 else if ct = 1 then 12 else if ct = 2 then 14 else 13
def ctFmt (ct : Nat) : Fmt := if ct = 0 then fmtFP32 else if ct = 1 then fmtEWF32 else fmtFP64
def ctBytes (ct : Nat) : Nat := if ct = 2 then 8 else 4

/-- The value of an encoding in a format code of the chain (R137, R176). -/
def chainNum (code raw : Nat) : Num :=
  if code = 13 then .ofInt (BitVec.ofNat 32 raw).toInt
  else if code = 14 then fmtFP64.decode raw
  else mxValue code raw

/-- The value of an encoding in a compute type. -/
def ctNum (ct raw : Nat) : Num := chainNum (ctCode ct) raw

/-- The encoding that the chain writes for an encoding in a compute type: every NaN as the canonical one, every zero with fraction 0
(R139, R140). -/
def ctCanon (ct raw : Nat) : Nat :=
  if ct = 3 then raw
  else match ctNum ct raw with
    | .nan => (ctFmt ct).nanBits
    | .fin neg m _ => if m = 0 then (ctFmt ct).signBit neg else raw
    | _ => raw

/-- Convert-in of one element (R146, R154, R166, R179). scale is the scale byte of a scaled A. -/
def convIn (ct : Nat) (mode : RMode) (code : Nat) (scale : Option Nat) (raw : Nat) : Nat × Flags :=
  if code = ctCode ct then (raw, if ct ≠ 3 ∧ (ctNum ct raw).isNan then flagNV else {})
  else
    let v := chainNum code raw
    (ctFmt ct).convert mode (match scale with | some b => scaled b v | none => v)

/-- The lesser of two values, with −0 below +0 (R180). -/
def numMin (a b : Num) : Num :=
  if a.lt b then a else if b.lt a then b
  else match a, b with
    | .fin true 0 _, _ => a
    | _, .fin true 0 _ => b
    | _, _ => a

/-- The greater of two values, with −0 below +0 (R180). -/
def numMax (a b : Num) : Num :=
  if a.lt b then b else if b.lt a then a
  else match a, b with
    | .fin true 0 _, _ => b
    | _, _ => a

/-- A floating-point function of an ALU (R180). -/
def aluFloat (ct op : Nat) (p q r : Nat) : Nat × Flags :=
  let a := ctNum ct p
  let b := ctNum ct q
  let c := ctNum ct r
  let out (v : Num) : Nat × Flags := (ctFmt ct).convert .nearest v
  let two (v : Num) : Num := if a.isNan || b.isNan then .nan else v
  match op with
  | 0 => (p, {})
  | 1 => out (a.add b)
  | 2 => out (a.add b.neg)
  | 3 => out (a.mul b)
  | 4 => out ((a.mul b).add c)
  | 5 => out (two (numMin a b))
  | 6 => out (two (numMax a b))
  | 7 => out a.abs
  | _ => out a.neg

/-- An INT32 function of an ALU (R180). -/
def aluInt (op : Nat) (p q r : BitVec 32) : BitVec 32 :=
  match op with
  | 0 => p
  | 1 => p + q
  | 2 => p - q
  | 3 => p * q
  | 4 => p * q + r
  | 5 => if q.slt p then q else p
  | 6 => if p.slt q then q else p
  | 7 => if p.msb then -p else p
  | 8 => -p
  | 9 => p &&& q
  | 10 => p ||| q
  | 11 => p ^^^ q
  | 12 => p <<< (q.toNat % 32)
  | 13 => p >>> (q.toNat % 32)
  | _ => p.sshiftRight (q.toNat % 32)

/-- A function of an ALU in its compute type. -/
def aluRun (ct op : Nat) (p q r : Nat) : Nat × Flags :=
  if ct = 3 then ((aluInt op (BitVec.ofNat 32 p) (BitVec.ofNat 32 q) (BitVec.ofNat 32 r)).toNat, {}) else aluFloat ct op p q r

-- the transcendental stage

/-- A power of two, the magnitude of a rational number, and the exponent of the power of two at or below a positive one. -/
def ratPow2 (e : Int) : Rat := if 0 ≤ e then ((2 ^ e.toNat : Nat) : Rat) else mkRat 1 (2 ^ (-e).toNat)
def ratAbs (x : Rat) : Rat := if x < 0 then -x else x
def ratLog2 (x : Rat) : Int :=
  let k : Int := (Nat.log2 x.num.natAbs : Int) - Nat.log2 x.den
  if ratPow2 k ≤ x then k else k - 1

/-- The rational number a finite value stands for. -/
def Num.rat : Num → Rat
  | .fin neg m e => (if neg then -1 else 1) * ((m : Rat) * ratPow2 e)
  | _ => 0

/-- The sum of the first terms of a series, a factorial, the exponential of a number between 0 and 1, the natural logarithm of 2, and
the integer square root of a number of at most 1400 bits. -/
def seriesSum (n : Nat) (f : Nat → Rat) : Rat := (List.range n).foldl (fun a k => a + f k) 0
def factNat (n : Nat) : Nat := (List.range n).foldl (fun a k => a * (k + 1)) 1
def expSeries (x : Rat) : Rat := seriesSum 40 (fun k => x ^ k / (factNat k : Rat))
def ln2Series : Rat := seriesSum 120 (fun k => mkRat 1 ((k + 1) * 2 ^ (k + 1)))
def isqrtNat (n : Nat) : Nat := (List.range 700).foldr (fun k r => if (r + 2 ^ k) * (r + 2 ^ k) ≤ n then r + 2 ^ k else r) 0

/-- The value of a function of the transcendental stage for an argument in its domain (R181), as a rational number that differs from
it by less than one part in 2^90 of it, or by less than 2^-90. 2^y is given as 2^-2000 where it is smaller still. -/
def transValue (op : Nat) (y : Rat) : Rat :=
  match op with
  | 1 => if y < -2000 then ratPow2 (-2000) else expSeries ((y - (y.floor : Rat)) * ln2Series) * ratPow2 y.floor
  | 2 =>
    let k := ratLog2 y
    let x := y / ratPow2 k
    let u := (x - 1) / (x + 1)
    (k : Rat) + 2 * seriesSum 60 (fun j => u ^ (2 * j + 1) / ((2 * j + 1 : Nat) : Rat)) / ln2Series
  | 3 => mkRat (isqrtNat (1 / y * ((4 ^ 400 : Nat) : Rat)).floor.toNat) (2 ^ 400)
  | 4 => 1 / y
  | 5 =>
    let a := ratAbs y
    let e := expSeries (a / 64) ^ 128
    (if y < 0 then -1 else 1) * (if 40 ≤ a then 1 - ratPow2 (-100) else (e - 1) / (e + 1))
  | 6 => seriesSum 24 (fun k => (if k % 2 = 0 then 1 else -1) * y ^ (2 * k + 1) / (factNat (2 * k + 1) : Rat))
  | _ => seriesSum 24 (fun k => (if k % 2 = 0 then 1 else -1) * y ^ (2 * k) / (factNat (2 * k) : Rat))

/-- That value is a rational number, and the one of the definition above is exact. -/
def transRational (op : Nat) (y : Rat) : Bool :=
  match op with
  | 1 => decide (y.den = 1 ∧ -2000 ≤ y)
  | 2 => decide (y = ratPow2 (ratLog2 y))
  | 3 => decide (transValue 3 y * transValue 3 y * y = 1)
  | 4 => true
  | _ => decide (y = 0)

/-- The bound of R181 on the error of a result, for an argument and its exact value, which lies in the normal range or is 0. -/
def transBound (f : Fmt) (op : Nat) (y a : Rat) : Rat :=
  let ulp := ratPow2 (max (ratLog2 (ratAbs a)) f.emin - f.fbits)
  match op with
  | 1 => 2 * ulp
  | 2 => if 1 / 2 ≤ y ∧ y ≤ 2 then ratPow2 (-21) else 2 * ulp
  | 5 => if 2 * ulp < ratPow2 (-23) ∨ a = 0 then ratPow2 (-23) else 2 * ulp
  | 6 | 7 => if f.sub then ratPow2 (-22) else ratPow2 (-20)
  | _ => ulp

/-- A result is one that R181 allows for an argument whose exact value is a. Below the normal range FP32 allows an error of 2^-149, and
EWF32 has only 0 and its smallest magnitude (R140). A zero has the sign of the value it stands for (R145). -/
def transAllowed (f : Fmt) (op : Nat) (y a : Rat) (r : Num) : Bool :=
  let near (b : Rat) : Bool := decide (ratAbs (r.rat - a) ≤ b)
  let signed : Bool := match r with | .fin neg m _ => m != 0 || a == 0 || neg == decide (a < 0) | _ => true
  r.isFin && signed && (if a ≠ 0 ∧ ratAbs a < ratPow2 f.emin then
    (if f.sub then near (ratPow2 (f.emin - f.fbits)) else r.rat == 0 || (ratAbs r.rat == ratPow2 f.emin && decide (0 < r.rat * a)))
    else near (transBound f op y a))

/-- The value of a format nearest to a rational number within its range. -/
def ratNearest (f : Fmt) (a : Rat) : Nat :=
  let l := if a = 0 then f.emin else if ratAbs a < ratPow2 f.emin then (if f.sub then f.emin - f.fbits else f.emin) else ratLog2 (ratAbs a) - f.fbits
  f.finBits (decide (a < 0)) (ratAbs a / ratPow2 l + 1 / 2).floor.toNat l

/-- A result of the transcendental stage that the spec gives by bounds only (R181): a free value of the argument within the bounds (log
13). A free value outside them stands for the nearest result. A result that is not the exact value sets NX, and UF below the normal
range (R145). -/
def transFree (ct op raw : Nat) : Nat × Flags :=
  let f := ctFmt ct
  let y := (ctNum ct raw).rat
  let a := transValue op y
  let free := ctNum ct (Config.transcend op ct (BitVec.ofNat 32 raw)).toNat
  let w := if transAllowed f op y a free then (f.convert .nearest free).1 else ratNearest f a
  let nx := !(transRational op y && decide ((ctNum ct w).rat = a))
  (w, { nx := nx, uf := nx && decide (ratAbs (ctNum ct w).rat < ratPow2 f.emin) })

/-- The transcendental stage (R181): domains, special results and overflow as the spec gives them. -/
def transRun (ct op raw : Nat) : Nat × Flags :=
  let y := ctNum ct raw
  let f := ctFmt ct
  let nan : Nat × Flags := (f.nanBits, flagNV)
  let top : Int := if ct = 0 then 128 else 512
  if op = 0 then (raw, {})
  else match y with
    | .nan => nan
    | .inf neg =>
      match op with
      | 1 => (if neg then 0 else f.infBits false, {})
      | 2 => if neg then nan else (f.infBits false, {})
      | 3 => if neg then nan else (0, {})
      | 4 => (f.signBit neg, {})
      | 5 => ((f.convert .nearest (.fin neg 1 0)).1, {})
      | _ => nan
    | .fin neg m e =>
      match op with
      | 1 => if y.lt (.ofInt top) then transFree ct op raw else (f.infBits false, flagOF)
      | 2 => if m = 0 then (f.infBits true, {}) else if neg then nan else transFree ct op raw
      | 3 => if m = 0 then (f.infBits neg, {}) else if neg then nan else transFree ct op raw
      | 4 => if m = 0 then (f.infBits neg, {}) else if ct = 0 && !magGt m e 1 (-128) then (f.infBits neg, flagOF) else transFree ct op raw
      | 5 => transFree ct op raw
      | _ => if (fmtFP32.decode 0x40490FDB).lt y.abs then nan else transFree ct op raw

/-- One combination of the reduce stage (R182, R183). -/
def redCombine (ct op : Nat) (a b : Nat) : Nat × Flags :=
  if ct = 3 then
    let x := BitVec.ofNat 32 a
    let y := BitVec.ofNat 32 b
    ((match op with
      | 1 => x + y
      | 2 => if x.slt y then y else x
      | 3 => if y.slt x then y else x
      | _ => if x.ult y then y else x).toNat, {})
  else
    let x := ctNum ct a
    let y := ctNum ct b
    let v : Num := if x.isNan || y.isNan then .nan else match op with
      | 1 => x.add y
      | 3 => numMin x y
      | _ => numMax x y
    (ctFmt ct).convert .nearest v

/-- What an element brings into a reduction: itself, or its magnitude for AMAX; a NaN element is the canonical NaN and sets NV. -/
def redEnter (ct op z : Nat) : Nat × Flags :=
  if ct = 3 then
    let x := BitVec.ofNat 32 z
    ((if op = 4 ∧ x.msb then -x else x).toNat, {})
  else
    let v := ctNum ct z
    if v.isNan then ((ctFmt ct).nanBits, flagNV) else if op = 4 then (ctFmt ct).convert .nearest v.abs else (ctCanon ct z, {})

/-- Combine two partials, of which either may be empty. -/
def redPair (ct op : Nat) (a b : Option Nat) : Option Nat × Flags :=
  match a, b with
  | none, y => (y, {})
  | x, none => (x, {})
  | some x, some y => let r := redCombine ct op x y; (some r.1, r.2)

/-- One level of the tree: neighbours combine (R182). -/
def redLevel (ct op : Nat) : List (Option Nat) → List (Option Nat) × Flags
  | a :: b :: t =>
    let (x, fl) := redPair ct op a b
    let (r, fl') := redLevel ct op t
    (x :: r, fl.or fl')
  | l => (l, {})

/-- The fold of one segment: lanes in ascending element order, then five levels (R182). None where it has no active element. -/
def redSegment (ct op : Nat) (zs : List (Nat × Nat)) : Option Nat × Flags :=
  let lane (l : Nat) : Option Nat × Flags :=
    (zs.filter (fun p => p.1 % 32 == l)).foldl (fun (acc : Option Nat × Flags) p =>
      let (v, fl) := redEnter ct op p.2
      let (x, fl') := redPair ct op acc.1 (some v)
      (x, (acc.2.or fl).or fl')) (none, {})
  let start := threads32.map lane
  let fl := start.foldl (fun f x => f.or x.2) {}
  let (out, fl) := (List.range 5).foldl (fun (p : List (Option Nat) × Flags) _ =>
    let (l, g) := redLevel ct op p.1
    (l, p.2.or g)) (start.map (·.1), fl)
  (out.headD none, fl)

/-- The identity of a reduction (R183). -/
def redIdentity (ct op : Nat) : Nat :=
  if ct = 3 then (if op = 2 then 0x80000000 else if op = 3 then 0x7FFFFFFF else 0)
  else if op = 2 then (ctFmt ct).infBits true else if op = 3 then (ctFmt ct).infBits false else 0

-- scaled conversions (R148 to R154)

/-- The group size of a recipe that is not a weight channel (R148). -/
def groupSize (kind fmt : Nat) : Nat := if 4 ≤ fmt then 32 else if kind = 2 then 16 else if kind = 3 then 128 else 32

/-- The group of an element. -/
def groupIdx (weight : Bool) (chanLen kind fmt e : Nat) : Nat := if weight then e / chanLen else e / groupSize kind fmt

/-- The element format of a scaled code, and its largest finite value (R137, R149). -/
def elemFmt (code : Nat) : Fmt :=
  if code = 2 ∨ code = 4 then fmtE4M3 else if code = 3 ∨ code = 5 then fmtE5M2 else if code = 6 then fmtE3M2
  else if code = 7 then fmtE2M3 else fmtE2M1
def elemMax (code : Nat) : Nat × Int := if code = 0 then (127, 0) else if code = 1 then (7, 0) else (elemFmt code).maxFin

/-- The scale exponent of a magnitude, before and after clamping (R149). -/
def scaleExp (code : Nat) (a : Num) : Int :=
  match a with
  | .fin _ m e =>
    if m = 0 then 0
    else
      let (mm, me) := elemMax code
      let x := (e + Nat.log2 m) - (me + Nat.log2 mm)
      let x := if magGt m e mm (me + x) then x + 1 else x
      max (-127) (min 127 x)
  | _ => 0

/-- One element of a scaled conversion with scale exponent x (R149). -/
def scaledElem (code : Nat) (mode : RMode) (x : Int) (v : Num) : Nat × Flags :=
  if code = 0 then toIntElem 8 mode (v.scale (-x))
  else if code = 1 then toIntElem 4 mode (v.scale (-x))
  else (elemFmt code).convert mode (v.scale (-x))

/-- The largest magnitude among some values that are finite. -/
def amaxOf (vs : List Num) : Num :=
  (vs.filter Num.isFin).foldl (fun m v => if m.lt v.abs then v.abs else m) (.fin false 0 0)

/-- The scale of a group: 0xFF where a member or the record is not finite (R149, R150, R152). -/
def groupScale (code : Nat) (record : Option Num) (vs : List Num) : Nat × Int :=
  if vs.any (fun v => !v.isFin) then (0xFF, 0)
  else match record with
    | some r => if r.isFin then (let x := scaleExp code (r.abs.scale 1); ((x + 127).toNat, x)) else (0xFF, 0)
    | none => let x := scaleExp code (amaxOf vs); ((x + 127).toNat, x)

-- the streams in memory (R177)

/-- Where a piece of a stream lies: 1 global or 2 cluster store, address, size in bytes, the element it belongs to, and whether
the piece is written. -/
structure Piece where
  space : Nat
  addr : Nat
  n : Nat
  elem : Nat
  write : Bool := false
  nib : Option Nat := none
deriving DecidableEq, Repr

/-- Element e of a stream (R141, R177). -/
def strmPiece (x : Strm) (base : Word) (write : Bool) (e : Nat) : Piece :=
  let bits := chainBits x.fmt
  if bits = 4 then { space := x.mode, addr := (base + BitVec.ofNat 64 (e * x.stride / 2)).toNat, n := 1, elem := e, write := write, nib := some (e * x.stride % 2) }
  else { space := x.mode, addr := (base + BitVec.ofInt 64 (e * x.strideI * ((bits / 8 : Nat) : Int))).toNat, n := bits / 8, elem := e, write := write }

/-- Item k of a consecutive stream of n-byte items (R177). -/
def sidePiece (mode : Nat) (base : Word) (n k elem : Nat) (write : Bool) : Piece :=
  { space := mode, addr := (base + BitVec.ofNat 64 (k * n)).toNat, n := n, elem := elem, write := write }

/-- What is wrong with an access of the chain (R97, R191). -/
def Piece.fault (s : State) (itin : Nat) (p : Piece) : Option Nat :=
  if p.space = 1 then globalFault s itin p.write p.addr p.n else storeFault p.addr p.n

/-- What the reads of an operation have brought: the lines of device memory, and the cluster store. -/
structure Fetched where
  lines : List (Nat × List SectorVal)
  cl : Cluster
deriving DecidableEq, Repr

/-- The bytes of a piece as they were read. -/
def Fetched.raw (g : Fetched) (p : Piece) : Nat :=
  let v := if p.space = 1 then bytesAt g.lines p.addr p.n else g.cl.bytes p.addr p.n
  match p.nib with
  | some k => v / 16 ^ k % 16
  | none => v

/-- The poison of a piece: poisoned, and of the cluster's own making (R172, R468). -/
def Fetched.mark (g : Fetched) (p : Piece) : Mark :=
  if p.space = 1 then (if (sectorOf g.lines p.addr).poison then .outside else .clean) else g.cl.markAt p.addr

/-- The lowest element whose access faults, and why: addresses first, poison of what is read with them (R172, R191). -/
def pieceFault (s : State) (itin : Nat) (g : Fetched) (ps : List Piece) : Option (Nat × Nat × Bool) :=
  let one (p : Piece) : Option (Nat × Nat × Bool) :=
    match p.fault s itin with
    | some c => some (c, p.addr, false)
    | none => if !p.write && g.mark p != .clean then some (cPoison, p.addr, g.mark p == .created) else none
  (ps.foldl (fun (m : Option (Nat × Nat × Nat × Bool)) p =>
    match one p with
    | none => m
    | some f => match m with
      | some q => if p.elem < q.1 then some (p.elem, f) else m
      | none => some (p.elem, f)) none).map (·.2)

/-- Read the device memory that some pieces need; None while a line has to wait. -/
def fetchPieces (cl co itin : Nat) (ps : List Piece) (s : State) : Option Fetched × State :=
  let gs := ps.filter (fun p => p.space == 1 && (p.fault s itin).isNone)
  let ls := gs.foldl (fun acc p => insertLine (lineOf p.addr) (sectorMask p.addr p.n) acc) []
  let (got, s) := coreReadLines cl co ls s
  (got.map (fun l => { lines := l, cl := getCluster s cl }), s)

/-- Two pieces share a byte. -/
def Piece.meets (a b : Piece) : Bool := a.space == b.space && overlaps a.addr a.n b.addr b.n

/-- Write a list of global bytes, merged per sector, and of cluster-store bytes (R185, R471). -/
def writeBytes (cl co : Nat) (gs ls : List (Nat × Byte)) (s : State) : State :=
  let s := forEach (wordsOf gs) (fun w t =>
    match usable t (w * 32) with
    | some rg => (homeWriteSector (.core cl co) (w * 32) (wordEnables gs w) { data := wordData gs w } rg t).2
    | none => t) s
  if ls.isEmpty then s
  else modCluster cl (fun c =>
    let c := ls.foldl (fun c b => c.putByte b.1 b.2) c
    { c with marks := (wordsOf ls).foldl (fun m w => if wordEnables ls w = BitVec.allOnes 32 then tabSet .clean m w .clean else m) c.marks }) s

/-- The bytes of a piece with a value. -/
def Piece.bytesOf (p : Piece) (v : Nat) : List (Nat × Byte) := (List.range p.n).map (fun k => (p.addr + k, BitVec.ofNat 8 (v / 256 ^ k)))

-- an operation (R169, R185)

/-- The streams of an operation that are on, with their bases. -/
def VcJob.inputs (j : VcJob) : List (Strm × Word) :=
  [(strmA j.cfg, j.aVal), (strmB j.cfg, j.bVal), (strmC j.cfg, j.cVal)]

/-- The pieces of the mask stream: ceil(LEN / 8) bytes (R171). -/
def VcJob.maskPieces (j : VcJob) : List Piece :=
  if cwMMode j.cfg = 0 then [] else (List.range ((j.len + 7) / 8)).map (fun k => sidePiece (cwMMode j.cfg) j.mAddr 1 k k false)

/-- The active elements (R171). -/
def VcJob.active (j : VcJob) (g : Fetched) : List Nat :=
  (List.range j.len).filter (fun e => j.lanes.getLsbD (e % 32) &&
    (cwMMode j.cfg == 0 || ((g.raw (sidePiece (cwMMode j.cfg) j.mAddr 1 (e / 8) 0 false) / 2 ^ (e % 8) % 2 == 1) != cwMInv j.cfg)))

/-- Groups of the scaled A and of the scaled output, and the segments, that hold active elements, with their first active element. -/
def firstOf (act : List Nat) (g : Nat → Nat) : List (Nat × Nat) :=
  act.foldl (fun acc e => if acc.any (fun p => p.1 == g e) then acc else acc ++ [(g e, e)]) []
def VcJob.inGroup (j : VcJob) (e : Nat) : Nat := groupIdx (weightIn j.cfg) j.chanLen (cwSiKind j.cfg) (strmA j.cfg).fmt e
def VcJob.outGroup (j : VcJob) (e : Nat) : Nat := groupIdx (weightOut j.cfg) j.chanLen (cwKind j.cfg) (strmO j.cfg).fmt e
def VcJob.segOf (j : VcJob) (e : Nat) : Nat := e / 2 ^ cwSeg j.cfg

/-- The record word of a channel (R152). -/
def VcJob.recPiece (j : VcJob) (n elem : Nat) (write : Bool) : Piece := sidePiece 1 j.recAddr 4 (j.chan0 + n) elem write

/-- What an operation reads beside its mask. -/
def VcJob.reads (j : VcJob) (act : List Nat) : List Piece :=
  act.flatMap (fun e => (j.inputs.filter (fun x => x.1.mode == 1 || x.1.mode == 2)).map (fun x => strmPiece x.1 x.2 false e)) ++
  (if cwSiMode j.cfg = 0 then [] else (firstOf act j.inGroup).map (fun p => sidePiece (cwSiMode j.cfg) j.siAddr 1 p.1 p.2 false)) ++
  (if weightOut j.cfg then (firstOf act j.outGroup).map (fun p => j.recPiece p.1 p.2 false) else [])

/-- What an operation writes. -/
def VcJob.outPieces (j : VcJob) (act : List Nat) : List Piece :=
  if (strmO j.cfg).mode = 0 then [] else act.map (strmPiece (strmO j.cfg) j.oAddr true)
def VcJob.sidePieces (j : VcJob) (act : List Nat) : List Piece :=
  (if cwSoMode j.cfg = 0 then [] else (firstOf act j.outGroup).map (fun p => sidePiece (cwSoMode j.cfg) j.soAddr 1 p.1 p.2 true)) ++
  (if cwRMode j.cfg = 0 then [] else (firstOf act j.segOf).map (fun p => sidePiece (cwRMode j.cfg) j.rAddr (ctBytes (cwCt j.cfg)) p.1 p.2 true))
def VcJob.recWrites (j : VcJob) (act : List Nat) : List Piece :=
  if weightOut j.cfg then (firstOf act j.outGroup).map (fun p => j.recPiece p.1 p.2 true) else []

/-- An input stream that the output overwrites in place keeps its old values (R186). -/
def VcJob.inPlace (j : VcJob) (x : Strm) (base : Word) : Bool :=
  let o := strmO j.cfg
  x.mode == o.mode && base == j.oAddr && x.stride == o.stride && chainBits x.fmt == chainBits o.fmt

/-- The raw elements of an input stream for the active elements. -/
def readStream (g : Fetched) (act : List Nat) (x : Strm) (base : Word) : List (Nat × Nat) :=
  if x.mode = 0 then []
  else act.map (fun e => (e, if x.mode = 3 then base.toNat % 2 ^ chainBits x.fmt else g.raw (strmPiece x base false e)))

/-- The 32-byte sectors of some pieces, with the space they lie in. -/
def pieceSectors (ps : List Piece) : List (Nat × Nat) := (ps.map (fun p => (p.space, p.addr / 32))).eraseDups

/-- A free choice for each of some sectors: those that a read finds as the operation leaves them (R186). -/
def drawSectors : List (Nat × Nat) → State → List (Nat × Nat) × State
  | [], s => ([], s)
  | x :: t, s =>
    let (w, s) := draw 1 s
    let (r, s) := drawSectors t s
    (if w = 1#1 then x :: r else r, s)

/-- What the reads of an operation bring where some sectors hold what the operation has written into them (R186). -/
def Fetched.written (news : List (Nat × Nat)) (gs ls : List (Nat × Byte)) (g : Fetched) : Fetched :=
  let gs := gs.filter (fun b => news.contains (1, b.1 / 32))
  let ls := ls.filter (fun b => news.contains (2, b.1 / 32))
  { lines := g.lines.map (fun p => (p.1, p.2.mapIdx (fun k v =>
      let w := p.1 * 4 + k
      { v with data := mergeBytes v.data (wordData gs w) (wordEnables gs w) })))
    cl := ls.foldl (fun c b => c.putByte b.1 b.2) g.cl }

/-- A value at a key of a list of pairs. -/
def valAt (l : List (Nat × Nat)) (e : Nat) : Nat := match l.find? (fun p => p.1 == e) with | some p => p.2 | none => 0

/-- Convert-in of a whole stream (R179); scales gives the scale byte of each element's group. -/
def convStream (ct : Nat) (mode : Nat → RMode) (x : Strm) (scales : Option (Nat → Nat)) (l : List (Nat × Nat)) : List (Nat × Nat) × Flags :=
  l.foldl (fun (p : List (Nat × Nat) × Flags) q =>
    let (v, fl) := convIn ct (mode q.1) x.fmt (scales.map (fun f => f q.1)) q.2
    (p.1 ++ [(q.1, v)], p.2.or fl)) ([], {})

/-- ALU A, ALU B and the transcendental stage for one element (R180, R181). -/
def chainElem (c : BitVec 256) (a b d : Nat) : Nat × Flags :=
  let ct := cwCt c
  let (x, f1) := aluRun ct (cwAa c) a b d
  let q := if cwAbSrc c = 0 then a else if cwAbSrc c = 1 then b else d
  let (y, f2) := aluRun ct (cwAb c) x q 0
  let (z, f3) := transRun ct (cwTr c) y
  (z, (f1.or f2).or f3)

/-- Convert-out to an unscaled format (R114, R143, R179); a bypassed element is written with its canonical NaN and zero (R139, R140). -/
def convOut (ct fmt : Nat) (mode : RMode) (z : Nat) : Nat × Flags :=
  if fmt = ctCode ct then (ctCanon ct z, {})
  else
    let v := ctNum ct z
    if fmt = 13 then (let r := toInt32 v; (r.1.toNat, r.2))
    else if fmt = 14 then fmtFP64.convert mode v
    else mrdElem fmt mode v

/-- The results of convert-out: elements, scale bytes by group, and flags. -/
def convOutAll (j : VcJob) (mode : Nat → RMode) (rec_ : Nat → Num) (zs : List (Nat × Nat)) : List (Nat × Nat) × List (Nat × Nat) × Flags :=
  let o := strmO j.cfg
  let ct := cwCt j.cfg
  if o.mode = 0 then ([], [], {})
  else if 8 < o.fmt then
    zs.foldl (fun (p : List (Nat × Nat) × List (Nat × Nat) × Flags) z =>
      let (v, fl) := convOut ct o.fmt (mode z.1) z.2
      (p.1 ++ [(z.1, v)], [], p.2.2.or fl)) ([], [], {})
  else
    (firstOf (zs.map (·.1)) j.outGroup).foldl (fun (p : List (Nat × Nat) × List (Nat × Nat) × Flags) g =>
      let mem := zs.filter (fun z => j.outGroup z.1 == g.1)
      let (byte, x) := groupScale o.fmt (if weightOut j.cfg then some (rec_ g.1) else none) (mem.map (fun z => ctNum ct z.2))
      let (es, fl) := mem.foldl (fun (q : List (Nat × Nat) × Flags) z =>
        let (v, f) := if byte = 0xFF then (0, flagNV) else scaledElem o.fmt (mode z.1) x (ctNum ct z.2)
        (q.1 ++ [(z.1, v)], q.2.or f)) ([], {})
      (p.1 ++ es, p.2.1 ++ [(g.1, byte)], p.2.2.or fl)) ([], [], {})

/-- The output bytes of the element stream; the half of a byte that holds no active 4-bit element keeps what it held, and the bits
past an odd end are 0 (R141, R172). -/
def outBytes (j : VcJob) (g : Fetched) (vals : List (Nat × Nat)) : List (Nat × Byte) :=
  let o := strmO j.cfg
  vals.flatMap (fun p =>
    let q := strmPiece o j.oAddr true p.1
    match q.nib with
    | none => q.bytesOf p.2
    | some k =>
      let mate := if k = 0 then p.1 + 1 else p.1 - 1
      let other := if j.len ≤ mate then 0 else if vals.any (fun r => r.1 == mate) then valAt vals mate
        else g.raw { q with nib := some (1 - k) }
      [(q.addr, BitVec.ofNat 8 (if k = 0 then p.2 + 16 * other else other + 16 * p.2))])

/-- A free word for each channel of a weight conversion. -/
def drawChannels : List (Nat × Nat) → State → List (Nat × Nat) × State
  | [], s => ([], s)
  | x :: t, s =>
    let (w, s) := draw 32 s
    let (r, s) := drawChannels t s
    ((x.1, w.toNat) :: r, s)

/-- The record words after a weight conversion: the larger of the old magnitude and the channel's amax (R152). The spec states no larger
of a NaN and an amax: such a record becomes a free value, a NaN among them the canonical one (R139; DESIGN CHOICE, log 13). -/
def recBytes (j : VcJob) (g : Fetched) (free zs : List (Nat × Nat)) : List (Nat × Byte) :=
  if !weightOut j.cfg then []
  else
    (firstOf (zs.map (·.1)) j.outGroup).flatMap (fun q =>
      let old := fmtFP32.decode (g.raw (j.recPiece q.1 q.2 false))
      let am := amaxOf ((zs.filter (fun z => j.outGroup z.1 == q.1)).map (fun z => ctNum (cwCt j.cfg) z.2))
      (j.recPiece q.1 q.2 true).bytesOf (match old with
        | .nan => ctCanon 0 (valAt free q.1)
        | .inf _ => fmtFP32.infBits false
        | .fin _ _ _ => (fmtFP32.convert .nearest (if old.abs.lt am then am else old.abs)).1))

/-- The results of the reduce stage by segment (R182). -/
def reduceAll (j : VcJob) (zs : List (Nat × Nat)) : List (Nat × Nat) × Flags :=
  if cwRed j.cfg = 0 then ([], {})
  else (firstOf (zs.map (·.1)) j.segOf).foldl (fun (p : List (Nat × Nat) × Flags) q =>
    let (v, fl) := redSegment (cwCt j.cfg) (cwRed j.cfg) (zs.filter (fun z => j.segOf z.1 == q.1))
    (p.1 ++ (match v with | some x => [(q.1, x)] | none => []), p.2.or fl)) ([], {})

/-- The chain's exception (R191): the job ends and the leg is discarded. -/
def vopExc (cl co : Nat) (j : VcJob) (itin : Nat) (f : Nat × Nat × Bool) (s : State) : State :=
  raiseExc cl co j.slot itin f.1 j.pc j.lanes (BitVec.ofNat 64 f.2.1) f.2.2
    (modCore cl co (fun c => { c with vcq := c.vcq.drop 1 }) s)

/-- The end of an operation: the counts of R193, its DST, and the slot. -/
def vopEnd (cl co : Nat) (j : VcJob) (itin act : Nat) (fl : Flags) (dst : Option Nat) (s : State) : State :=
  let i : CoreSlot := { cluster := cl, core := co, slot := j.slot }
  let s := modCore cl co (fun c => Core.addVc fl { c with
    vcq := c.vcq.drop 1
    run := { c.run with vOps := c.run.vOps + 1, vElems := c.run.vElems + act
                        vTrans := c.run.vTrans + (if cwTr j.cfg ≠ 0 ∧ j.len ≠ 0 then 1 else 0)
                        vFp64 := c.run.vFp64 + (if cwCt j.cfg = 2 ∧ j.len ≠ 0 then 1 else 0) } }) s
  let s := match dst with
    | some v =>
      if j.dst.toNat < 0x80 then
        modCaravan i (fun c => (List.range (if cwCt j.cfg = 2 then 2 else 1)).foldl (fun c k =>
          Caravan.writeReg (j.dst.toNat + k) (fun t => if j.lanes.getLsbD t then some (BitVec.ofNat 32 (v / 2 ^ (32 * k))) else none) c)
        { c with pair := none }) s
      else s
    | none => s
  retire i (modLeg itin (fun l => { l with elems := l.elems + act }) s)

/-- What an operation brings forth: the bytes of its element stream and of its other streams, in device memory and in the cluster store,
its flags, and the value of DST. -/
structure ChainOut where
  outG : List (Nat × Byte)
  outL : List (Nat × Byte)
  sideG : List (Nat × Byte)
  sideL : List (Nat × Byte)
  flags : Flags
  dst : Option Nat
deriving DecidableEq, Repr

/-- The stages of an operation on what it has read (R169, R179 to R183). old is what stood there before it, plain what the streams find that
the output does not overwrite in place, and held what those find that it does (R186). -/
def chainPass (j : VcJob) (car : Caravan) (seed : Word) (act : List Nat) (free : List (Nat × Nat)) (old plain held : Fetched) : ChainOut :=
  let c := j.cfg
  let ct := cwCt c
  let mode (e : Nat) : RMode := if cwKind c = 2 then .stoch (rand32 seed car.launch car.cvn j.conv e) else .nearest
  let from_ (x : Strm) (base : Word) : List (Nat × Nat) := readStream (if j.inPlace x base then held else plain) act x base
  let scale (e : Nat) : Nat := plain.raw (sidePiece (cwSiMode c) j.siAddr 1 (j.inGroup e) e false)
  let (a, f1) := convStream ct mode (strmA c) (if cwSiMode c = 0 then none else some scale) (from_ (strmA c) j.aVal)
  let (b, f2) := convStream ct mode (strmB c) none (from_ (strmB c) j.bVal)
  let (d, f3) := convStream ct mode (strmC c) none (from_ (strmC c) j.cVal)
  let (zs, f4) := act.foldl (fun (p : List (Nat × Nat) × Flags) e =>
    let (z, fl) := chainElem c (valAt a e) (valAt b e) (valAt d e)
    (p.1 ++ [(e, z)], p.2.or fl)) ([], {})
  let rec_ (n : Nat) : Num := fmtFP32.decode (plain.raw (j.recPiece n 0 false))
  let recNan := weightOut c && (firstOf act j.outGroup).any (fun p => (rec_ p.1).isNan)
  let (os, bytes, f5) := convOutAll j mode rec_ zs
  let (rs, f6) := reduceAll j zs
  let elems := outBytes j old os
  let so := bytes.flatMap (fun p => (sidePiece (cwSoMode c) j.soAddr 1 p.1 0 true).bytesOf p.2)
  let rd := if cwRMode c = 0 then [] else rs.flatMap (fun p => (sidePiece (cwRMode c) j.rAddr (ctBytes ct) p.1 0 true).bytesOf p.2)
  let pick (sp mode : Nat) (l : List (Nat × Byte)) : List (Nat × Byte) := if mode = sp then l else []
  { outG := pick 1 (strmO c).mode elems, outL := pick 2 (strmO c).mode elems
    sideG := pick 1 (cwSoMode c) so ++ pick 1 (cwRMode c) rd ++ recBytes j plain free zs
    sideL := pick 2 (cwSoMode c) so ++ pick 2 (cwRMode c) rd
    flags := ((((f1.or f2).or f3).or f4).or f5).or (f6.or (if recNan then flagNV else {}))
    dst := if cwRed c = 0 then none else some (match rs.find? (fun p => p.1 == 0) with | some p => p.2 | none => redIdentity ct (cwRed c)) }

/-- An operation whose reads find, in some sectors, what it writes into them itself: the outcome that agrees with its own reads, looked
for from the one in which every read finds the old content, once for each active element. -/
def chainSettle (j : VcJob) (car : Caravan) (seed : Word) (act : List Nat) (free : List (Nat × Nat)) (news : List (Nat × Nat)) (g : Fetched) :
    Nat → ChainOut → Option ChainOut
  | 0, _ => none
  | n + 1, o =>
    let o' := chainPass j car seed act free g (g.written news (o.outG ++ o.sideG) (o.outL ++ o.sideL)) (g.written news o.sideG o.sideL)
    if o' = o then some o else chainSettle j car seed act free news g n o'

/-- An operation on what it has read, and its writes (R169, R185). Where a stream it reads overlaps one it writes other than in place, each
sector is read as it stood before or as the operation writes it: a free choice (R186). A choice with which no outcome agrees, since an
element would have to read what depends on it, is not taken (log 13). -/
def vopRun (cl co : Nat) (j : VcJob) (car : Caravan) (g : Fetched) (act : List Nat) (s : State) : State :=
  let seed := caravanSeed s cl co car
  let (free, s) := drawChannels (if weightOut j.cfg then firstOf act j.outGroup else []) s
  let writes := pieceSectors (j.outPieces act ++ j.sidePieces act ++ j.recWrites act)
  let (news, s) := drawSectors ((pieceSectors (j.reads act)).filter writes.contains) s
  let first := chainPass j car seed act free g g g
  let o := if news.isEmpty then first else (chainSettle j car seed act free news g (act.length + 2) first).getD first
  vopEnd cl co j car.itin act.length o.flags o.dst (writeBytes cl co (o.outG ++ o.sideG) (o.outL ++ o.sideL) s)

/-- The oldest operation of a chain runs to its end (R169 to R173, R185, R191). While a line it reads or writes waits for a
processor cache, or for its L1, nothing happens. -/
def doVopComplete (cl co : Nat) (s : State) : State :=
  match (getCore s cl co).vcq with
  | [] => s
  | j :: _ =>
    match (getCore s cl co).slot j.slot with
    | none => modCore cl co (fun c => { c with vcq := c.vcq.drop 1 }) s
    | some car =>
      if j.len = 0 then vopEnd cl co j car.itin 0 {} none s
      else
        let mp := j.maskPieces
        let (got, s) := fetchPieces cl co car.itin mp s
        match got with
        | none => s
        | some mg =>
          match pieceFault s car.itin mg mp with
          | some f => vopExc cl co j car.itin f s
          | none =>
            let act := j.active mg
            let rp := j.reads act
            let wp := j.outPieces act ++ j.sidePieces act ++ j.recWrites act
            let (got, s) := fetchPieces cl co car.itin (rp ++ (if chainBits (strmO j.cfg).fmt = 4 then j.outPieces act else [])) s
            match got with
            | none => s
            | some g =>
              match pieceFault s car.itin g (rp ++ wp) with
              | some f => vopExc cl co j car.itin f s
              | none =>
                let ls := ((wp.filter (fun p => p.space == 1)).map (fun p => lineOf p.addr)).eraseDups
                let (ok, s) := clearAll (.core cl co) ls s
                if !ok then s
                else vopRun cl co j car g act (modCore cl co (fun c => { c with l1Buf := [] }) s)

/-- VOP (R174). -/
def execVop (c : CoreSlot) (f : Insn) (s : State) : Host.Outcome State Fault Refusal := .next (doVop c f s)
/-- VOP_COMPLETE (R185). -/
def execVopComplete (cl co : Nat) (s : State) : Host.Outcome State Fault Refusal := .next (doVopComplete cl co s)

end Sys2Proof.Machine
end

