-- ==== Sys2Proof/Machine/IntOps.lean ====
section
/-! DEFINITION. The integer class (R88). -/

namespace Sys2Proof.Machine

/-- The operations of the integer class (R88). -/
inductive IntOp where
  | add | sub | mul | mulh | mad | and | or | xor | shl | shr | sar | min | max | sel | cmp | mov | popc | clz
deriving DecidableEq, Repr

/-- The number of set bits, and of leading zeros, of a word (R88). -/
def popCount {w : Nat} (x : BitVec w) : Nat := (List.range w).countP (fun i => x.getLsbD i)
def leadZeros {w : Nat} (x : BitVec w) : Nat := ((List.range w).find? (fun i => x.getLsbD (w - 1 - i))).getD w

/-- The result of an integer operation on operands of w bits; the shift count uses the low bits (R88). -/
def intResult {w : Nat} (op : IntOp) (uns : Bool) (a b c : BitVec w) (sel : Bool) : BitVec w :=
  match op with
  | .add => a + b
  | .sub => a - b
  | .mul => a * b
  | .mulh => if uns then BitVec.ofNat w (a.toNat * b.toNat / 2 ^ w) else BitVec.ofInt w (a.toInt * b.toInt / (2 ^ w : Nat))
  | .mad => a * b + c
  | .and => a &&& b
  | .or => a ||| b
  | .xor => a ^^^ b
  | .shl => a <<< (b.toNat % w)
  | .shr => a >>> (b.toNat % w)
  | .sar => a.sshiftRight (b.toNat % w)
  | .min => if uns then (if b.ult a then b else a) else (if b.slt a then b else a)
  | .max => if uns then (if a.ult b then b else a) else (if a.slt b then b else a)
  | .sel => if sel then a else b
  | .cmp => a
  | .mov => a
  | .popc => BitVec.ofNat w (popCount a)
  | .clz => BitVec.ofNat w (leadZeros a)

/-- The condition of a comparison: 0 EQ, 1 NE, 2 LT, 3 LE, 4 GT, 5 GE (R88). -/
def intCond {w : Nat} (cc : Nat) (uns : Bool) (a b : BitVec w) : Bool :=
  let lt (x y : BitVec w) : Bool := if uns then x.ult y else x.slt y
  match cc with
  | 0 => a == b
  | 1 => a != b
  | 2 => lt a b
  | 3 => !lt b a
  | 4 => lt b a
  | _ => !lt a b

/-- MOD fields of the integer class (R88): W, U and CC. -/
def intW (f : Insn) : Bool := f.md.getLsbD 5
def intU (f : Insn) : Bool := f.md.getLsbD 4
def intCC (f : Insn) : Nat := bitsNat f.md 1 3

/-- The operations with an immediate form (R88). -/
def IntOp.immOk : IntOp → Bool
  | .mad | .sel | .popc | .clz => false
  | _ => true

/-- The operations to which U belongs (R88). -/
def IntOp.usesU : IntOp → Bool
  | .mulh | .min | .max | .cmp => true
  | _ => false

/-- An integer instruction with a reserved or misplaced field (R85, R88). -/
def intIllegal (op : IntOp) (f : Insn) : Bool :=
  f.md.getLsbD 0 || (f.i && !op.immOk) || (intU f && !op.usesU && !f.i) || (intCC f != 0 && op != .cmp) ||
  (op == .cmp && (decide (5 < intCC f) || decide (14 < f.dst.toNat))) ||
  (op == .sel && decide (14 < f.sc.toNat))

/-- The operand uses of an integer instruction (R75, R88). -/
def intUses (op : IntOp) (f : Insn) : List OpUse :=
  let w := if intW f then 2 else 1
  let a : List OpUse := if op == .mov && f.i then [] else [⟨f.sa, w, false⟩]
  let b : List OpUse := if f.i || op == .mov || op == .popc || op == .clz then [] else [⟨f.sb, w, false⟩]
  let c : List OpUse := if op == .mad then [⟨f.sc, w, false⟩] else []
  let d : List OpUse := if op == .cmp then [] else [⟨f.dst, w, true⟩]
  a ++ b ++ c ++ d

/-- The fields an integer instruction does not use, which must be 0 (R85). -/
def intZero (op : IntOp) (f : Insn) : List (BitVec 8) :=
  if f.i then (if op == .mov then [f.sa] else [])
  else
    (if op == .mov || op == .popc || op == .clz then [f.sb] else []) ++
    (if op == .mad || op == .sel then [] else [f.sc]) ++ [f.sd]

/-- The immediate of an integer instruction: U selects zero-extension (R88). -/
def intImm (f : Insn) : Word := if intU f then insnImmZ f else insnImmS f

/-- The operands of a thread in 32 bits and in 64 bits: SA, SB or the immediate, SC. MOV with I = 1 moves the immediate. -/
def intA32 (op : IntOp) (i : Issue) (t : Nat) : BitVec 32 :=
  if op == .mov && i.f.i then (intImm i.f).setWidth 32 else i.src32 t i.f.sa
def intB32 (i : Issue) (t : Nat) : BitVec 32 := if i.f.i then (intImm i.f).setWidth 32 else i.src32 t i.f.sb
def intA64 (op : IntOp) (i : Issue) (t : Nat) : Word := if op == .mov && i.f.i then intImm i.f else i.src64 t i.f.sa
def intB64 (i : Issue) (t : Nat) : Word := if i.f.i then intImm i.f else i.src64 t i.f.sb

/-- SEL's predicate of a thread (R88). -/
def intSel (i : Issue) (t : Nat) : Bool := i.src.predOf t (i.f.sc.toNat % 16)

/-- The effect of an integer instruction (R88): a predicate for CMP, a register or a pair for the others. -/
def intEffect (op : IntOp) (i : Issue) (s : State) : State :=
  if op = .cmp then
    modCaravan i.at_ (Caravan.setPred i.exe i.f.dst.toNat (fun t =>
      if intW i.f then intCond (intCC i.f) (intU i.f) (intA64 op i t) (intB64 i t)
      else intCond (intCC i.f) (intU i.f) (intA32 op i t) (intB32 i t))) s
  else if intW i.f then
    putPair i i.f.dst i.exe (fun t => intResult op (intU i.f) (intA64 op i t) (intB64 i t) (i.src64 t i.f.sc) (intSel i t)) s
  else
    putRes32 i (fun t => intResult op (intU i.f) (intA32 op i t) (intB32 i t) (i.src32 t i.f.sc) (intSel i t)) s

/-- An integer instruction issues (R88). -/
def doInt (op : IntOp) (c : CoreSlot) (f : Insn) (s : State) : State :=
  withIssue c f unitInt (fun i s =>
    perThread i unitInt (intIllegal op f) (intUses op f) (intZero op f) (fun s => advance i unitInt (intEffect op i s)) s) s

/-- INT ADD (R88): SA + SB. -/
def execIntAdd (c : CoreSlot) (f : Insn) (s : State) : Host.Outcome State Fault Refusal := .next (doInt .add c f s)
/-- INT SUB (R88): SA − SB. -/
def execIntSub (c : CoreSlot) (f : Insn) (s : State) : Host.Outcome State Fault Refusal := .next (doInt .sub c f s)
/-- INT MUL (R88): the low half of SA × SB. -/
def execIntMul (c : CoreSlot) (f : Insn) (s : State) : Host.Outcome State Fault Refusal := .next (doInt .mul c f s)
/-- INT MULH (R88): the high half of SA × SB. -/
def execIntMulh (c : CoreSlot) (f : Insn) (s : State) : Host.Outcome State Fault Refusal := .next (doInt .mulh c f s)
/-- INT MAD (R88): the low half of SA × SB + SC. -/
def execIntMad (c : CoreSlot) (f : Insn) (s : State) : Host.Outcome State Fault Refusal := .next (doInt .mad c f s)
/-- INT AND (R88). -/
def execIntAnd (c : CoreSlot) (f : Insn) (s : State) : Host.Outcome State Fault Refusal := .next (doInt .and c f s)
/-- INT OR (R88). -/
def execIntOr (c : CoreSlot) (f : Insn) (s : State) : Host.Outcome State Fault Refusal := .next (doInt .or c f s)
/-- INT XOR (R88). -/
def execIntXor (c : CoreSlot) (f : Insn) (s : State) : Host.Outcome State Fault Refusal := .next (doInt .xor c f s)
/-- INT SHL (R88). -/
def execIntShl (c : CoreSlot) (f : Insn) (s : State) : Host.Outcome State Fault Refusal := .next (doInt .shl c f s)
/-- INT SHR (R88): zero fill. -/
def execIntShr (c : CoreSlot) (f : Insn) (s : State) : Host.Outcome State Fault Refusal := .next (doInt .shr c f s)
/-- INT SAR (R88): sign fill. -/
def execIntSar (c : CoreSlot) (f : Insn) (s : State) : Host.Outcome State Fault Refusal := .next (doInt .sar c f s)
/-- INT MIN (R88). -/
def execIntMin (c : CoreSlot) (f : Insn) (s : State) : Host.Outcome State Fault Refusal := .next (doInt .min c f s)
/-- INT MAX (R88). -/
def execIntMax (c : CoreSlot) (f : Insn) (s : State) : Host.Outcome State Fault Refusal := .next (doInt .max c f s)
/-- SEL (R88): SA where the predicate SC is 1, else SB. -/
def execSel (c : CoreSlot) (f : Insn) (s : State) : Host.Outcome State Fault Refusal := .next (doInt .sel c f s)
/-- CMP (R88): a predicate takes SA CC SB. -/
def execCmp (c : CoreSlot) (f : Insn) (s : State) : Host.Outcome State Fault Refusal := .next (doInt .cmp c f s)
/-- MOV (R88). -/
def execMov (c : CoreSlot) (f : Insn) (s : State) : Host.Outcome State Fault Refusal := .next (doInt .mov c f s)
/-- POPC (R88). -/
def execPopc (c : CoreSlot) (f : Insn) (s : State) : Host.Outcome State Fault Refusal := .next (doInt .popc c f s)
/-- CLZ (R88). -/
def execClz (c : CoreSlot) (f : Insn) (s : State) : Host.Outcome State Fault Refusal := .next (doInt .clz c f s)

end Sys2Proof.Machine
end

