-- ==== Sys2Proof/Machine/Readout.lean ====
section
/-! DEFINITION. What a read of the control space returns (R57, R102, R103, R136, R193, R231, R234, R271, R304, R339, R422, R442, R499, R523,
R559): every register at the address its chapter gives it. An offset that no register occupies, a write-only register, and a page of an
absent unit read 0. -/

namespace Sys2Proof.Machine

/-- The control space: ten blocks of 2^24 bytes (R233, R234). -/
def ctlBase : Nat := 0xFF0000000000
def ctlBlock : Nat := 0x1000000

/-- An array of registers at a base, 8 bytes apart. -/
def inArray (off base n : Nat) : Option Nat := if base ≤ off ∧ off < base + 8 * n ∧ (off - base) % 8 = 0 then some ((off - base) / 8) else none

/-- A flag as a bit. -/
def flag (b : Bool) : BitVec 1 := BitVec.ofBool b

/-- Nanoseconds since the Bell that opened the current stage, 0 before the first Bell. They are counted on the device's own clock since
reset, so a step of the PTP estimate, forward or backward, leaves them alone: R56 names no clock (DESIGN CHOICE, log 35). -/
def elapsedNs (s : State) : Nat := if s.stg.opened then s.stg.upNs - s.stg.bellUp else 0

/-- Block 0: STG_ and LDG_ (R56, R304). -/
def readStg (s : State) (off : Nat) : Word :=
  match off with
  | 0x000 => wordStgCfg s.stg.cfg
  | 0x008 => wordStgCfgNext s.stg.next
  | 0x010 => wordStgNum { stage := BitVec.ofNat 64 s.stg.num }
  | 0x018 => wordStgBellTime { tNs := BitVec.ofNat 64 s.stg.bellTime }
  | 0x020 => wordStgPhase { elapsedNs := BitVec.ofNat 25 (elapsedNs s), window := flag s.stg.window, itinLate := BitVec.ofNat 13 s.stg.itinLate
                            clustersBound := BitVec.ofNat 10 (boundCount s) }
  | 0x028 => wordStgTimeState s.stg.time
  | 0x030 => wordStgTimeCfg s.stg.timeCfg
  | 0x038 => wordStgEvents s.stg.events
  | 0x100 => wordLdgCfg s.ldg.cfg
  | 0x108 => wordLdgSeq { next := BitVec.ofNat 64 s.ldg.next }
  | 0x110 => wordLdgOldest { seq := BitVec.ofNat 64 (s.ldg.next - s.ldg.records.length) }
  | 0x118 => wordLdgCkpt { stage := BitVec.ofNat 64 (s.ldg.ckpt.getD 0) }
  | 0x120 => wordLdgCkptState { valid := flag s.ldg.ckpt.isSome, flushing := flag s.ldg.flushing.isSome, homesPending := s.ldg.pending }
  | 0x128 => wordLdgCkptPend { stage := BitVec.ofNat 64 (s.ldg.flushing.getD 0) }
  | 0x130 => wordLdgFaults s.ldg.faults
  | 0x138 => wordLdgDegrade { degraded := flag (degraded s), cdLost := s.ldg.cdLost, msLost := s.ldg.msLost, linkLost := s.ldg.linkLost
                              halfLost := s.ldg.halfLost }
  | 0x140 => wordLdgRestart { stage := BitVec.ofNat 64 s.ldg.restart }
  | _ => 0#64

/-- The registers of a core (R102, R136, R193). -/
def readCore (c : Core) (off : Nat) : Word :=
  match off with
  | 0x00 => wordCoreStatus { slots := (List.range 16).foldl (fun m i => if (c.slot i).isSome then setBit m i else m) 0#16
                             regFreeKib := BitVec.ofNat 7 (64 - c.regUsed), halted := flag c.halted }
  | 0x08 => wordCoreExc c.exc
  | 0x10 => wordCoreExcPc { pc := c.excPc }
  | 0x18 => wordCoreExcAddr { addr := c.excAddr }
  | 0x20 => wordCoreIssue c.closed.issue
  | 0x28 => wordCoreStall c.closed.stall
  | 0x30 => wordCoreWait c.closed.wait
  | 0x38 => wordCoreMem c.closed.mem
  | 0x40 => wordMxuFlags c.mxFlags
  | 0x48 => wordMxuBusy c.closed.mxuBusy
  | 0x50 => wordMxuOps c.closed.mxuOps
  | 0x58 => wordMxuMacs c.closed.mxuMacs
  | 0x60 => wordVchFlags c.vcFlags
  | 0x68 => wordVchBusy c.closed.vchBusy
  | 0x70 => wordVchOps c.closed.vchOps
  | 0x78 => wordVchElems c.closed.vchElems
  | _ => 0#64

/-- A late leg holds the cluster (R66, R102). -/
def lateHold (s : State) (id : Nat) : Bool :=
  s.itins.any (fun p => match p.2.bind (·.leg) with | some l => l.clusters.contains id && decide (0 < l.missed) | none => false)

/-- Block 1: the page of a cluster in service (R102). Clearing takes no time in this model: CLEARING reads 0. -/
def readCl (s : State) (off : Nat) : Word :=
  let id := off / 0x1000
  let o := off % 0x1000
  let c := getCluster s id
  if !clusterLive s id then 0#64
  else if 0x400 ≤ o ∧ o < 0x800 then readCore (c.core ((o - 0x400) / 0x80)) ((o - 0x400) % 0x80)
  else match inArray o 0x100 32 with
    | some n => wordClArrive { count := tabGet 0#64 c.counters n }
    | none => match o with
      | 0x000 =>
        let b := boundTo s id
        wordClId { clusterId := BitVec.ofNat 10 id, live := 1#1, itin := BitVec.ofNat 12 ((b.map (·.1)).getD 0), bound := flag b.isSome
                   logical := BitVec.ofNat 10 ((b.map (·.2)).getD 0) }
      | 0x008 => wordClState {
          coreActive := (List.range 8).foldl (fun m n => if (c.core n).slots.any (fun p => decide (p.1 < 16) && p.2.isSome) then setBit m n else m) 0#8
          cpyQ := BitVec.ofNat 6 c.cpyQ.length, lateHold := flag (lateHold s id) }
      | 0x010 => wordClCtl { offline := flag c.offline }
      | 0x018 => wordClCpy c.closedCpy
      | 0x020 => wordClStore c.closedStore
      | 0x028 => wordClExc { cores := (List.range 8).foldl (fun m n => if (c.core n).exc.valid = 1#1 then setBit m n else m) 0#8 }
      | _ => 0#64

/-- Block 2: the page of a home in service (R231). -/
def readL2h (s : State) (off : Nat) : Word :=
  let n := off / 0x1000
  let o := off % 0x1000
  let h := getHome s n
  if !halfLive s n then 0#64
  else match inArray o 0x200 64 with
    | some i => match h.deadList[i]? with
      | some l => wordL2hDeadList { addr := BitVec.ofNat 52 (l * 128), valid := 1#1 }
      | none => 0#64
    | none => match o with
      | 0x000 => wordL2hId { home := BitVec.ofNat 3 n, live := 1#1 }
      | 0x008 => wordL2hCfg h.cfg
      | 0x010 => wordL2hStatus {
          pinnedLines := BitVec.ofNat 19 (h.lines.countP (fun p => match p.2 with | some l => l.pinned | none => false))
          evbOcc := BitVec.ofNat 6 h.evb.length, pressure := flag h.pressure }
      | 0x018 => wordL2hAccess h.closed.access
      | 0x020 => wordL2hPin h.closed.pin
      | 0x028 => wordL2hEvb h.closed.evb
      | 0x030 => wordL2hOffer h.closed.offer
      | 0x038 => wordL2hDead h.closed.dead
      | 0x040 => wordL2hHot h.closed.hot
      | 0x048 => wordL2hHotLine h.hotLine
      | 0x050 => wordL2hAtom h.closed.atom
      | 0x058 => wordL2hCoh h.closed.coh
      | 0x060 => wordL2hBypass h.closed.bypass
      | 0x068 => wordL2hPoisonAddr h.poisonAddr
      | _ => 0#64

/-- Block 3: the page of a fitted stack's controller; a lost stack's keeps its last values (R271). -/
def readMem (s : State) (off : Nat) : Word :=
  let n := off / 0x1000
  let o := off % 0x1000
  let c := getCtl s n
  if s.variant.stacks ≤ n then 0#64
  else match inArray o 0x400 256 with
    | some i => wordMemRet (tabGet {} c.retired i)
    | none => match o with
      | 0x000 => wordMemId { stack := BitVec.ofNat 3 n, fitted := 1#1, live := flag (stackLive s n), partner := BitVec.ofNat 3 (partnerOf n)
                             partnerLive := flag (stackLive s (partnerOf n)) }
      | 0x008 => wordMemCfg c.cfg
      | 0x010 => wordMemStatus { tempC := c.tempC, refresh2x := flag c.refresh2x, retraining := flag c.retraining
                                 retFull := flag (c.retiredCount == 256), wcbOcc := BitVec.ofNat 7 c.wcb.length
                                 retired := BitVec.ofNat 9 c.retiredCount, pinFault := c.pinFaultFlag, pinPc := c.pinPc, pinSymbol := c.pinSymbol }
      | 0x018 => wordMemTraffic c.closed.traffic
      | 0x020 => wordMemWcb c.closed.wcb
      | 0x028 => wordMemMirror c.closed.mirror
      | 0x030 => wordMemEcc c.closed.ecc
      | 0x038 => wordMemLastErr c.lastErr
      | 0x040 => wordMemScrub c.scrub
      | _ => 0#64

/-- How many slots are full one after the other from HEAD (R339). -/
def fullRun (p : Pigeonhole) : Nat → Nat → Nat
  | 0, _ => 0
  | fuel + 1, slot => if (tabGet none p.full (slot % 256)).isSome then 1 + fullRun p fuel (slot + 1) else 0

/-- The registers of a pigeonhole (R339). -/
def readPhPage (s : State) (n o : Nat) : Word :=
  let p := getPh s n
  match inArray o 0x40 4 with
  | some k => wordPhFull { slots := (List.range 64).foldl (fun m b => if (tabGet none p.full (64 * k + b)).isSome then setBit m b else m) 0#64 }
  | none => match o with
    | 0x00 => wordPhState { state := (match p.st with | .closed => 0#2 | .open_ => 1#2 | .draining => 2#2 | .lost => 3#2)
                            guest := flag (decide (64 ≤ n)), urgentOk := flag p.urgentOk, epoch := p.epoch }
    | 0x08 => wordPhArea { addr := BitVec.ofNat 52 p.area }
    | 0x10 => wordPhCq { addr := BitVec.ofNat 64 p.cq }
    | 0x18 => wordPhPtr { head := p.head, tail := p.head + BitVec.ofNat 16 (fullRun p 256 p.head.toNat), cqTail := p.cqTail, cqHead := p.cqHead }
    | 0x20 => wordPhLimit { maxInflight := BitVec.ofNat 9 p.maxInflight, inflight := BitVec.ofNat 9 (phInflight s n) }
    | 0x28 => wordPhCount p.count
    | 0x30 => wordPhEnergy p.energy
    | 0x38 => wordPhErr p.err
    | _ => 0#64

/-- Commands in flight that a test holds of. -/
def countCmds (s : State) (f : Cmd → Bool) : Nat := s.innk.cmds.countP (fun p => match p.2 with | some c => f c | none => false)

/-- Where the pages of the pigeonholes lie in block 4 (R339). -/
def phPages : Nat := 0x100000

/-- Block 4: PH_ (R339). -/
def readPh (s : State) (off : Nat) : Word :=
  if phPages ≤ off ∧ off < phPages + 0x80 * phCount then readPhPage s ((off - phPages) / 0x80) ((off - phPages) % 0x80)
  else match inArray off 0x1000 257 with
    | some n => wordPhSummary { full := (List.range 64).foldl (fun m b => if phSummary s (64 * n + b) then setBit m b else m) 0#64 }
    | none => match off with
      | 0x000 => wordPhCfg s.innk.cfg
      | 0x008 => wordPhInflight { total := BitVec.ofNat 14 (inflightTotal s), runtime := BitVec.ofNat 14 (countCmds s (fun c => decide (c.ph < 64)))
                                  urgent := BitVec.ofNat 14 (countCmds s (fun c => c.cls == 0)) }
      | 0x010 => wordPhQueue { urgQ := BitVec.ofNat 14 s.innk.urgQ.length, normQ := BitVec.ofNat 14 s.innk.normQ.length
                               bulkQ := BitVec.ofNat 14 s.innk.bulkQ.length }
      | 0x018 => wordPhStage s.innk.closedStage
      | 0x020 => wordPhStall s.innk.closedStall
      | 0x028 => wordPhInnk s.innk.innk
      | 0x030 => wordPhRtBase {}
      | _ => 0#64

/-- The page of a port (R422). -/
def readPort (s : State) (n o : Nat) : Word :=
  let p := getPort s n
  match o with
  | 0x00 => wordNetPortStatus { up := flag p.up, ptp := flag (s.net.ptp.activeValid == 1#1 && s.net.ptp.active.toNat == n)
                                pacel := flag (pacelTakes s n), retrains := p.retrains }
  | 0x08 => wordNetPortMac { mac := Config.portMac n }
  | 0x10 => wordNetPortV4 p.v4
  | 0x18 => wordNetPortGw4 p.gw4
  | 0x20 => wordNetPortBytes p.closedBytes
  | 0x28 => wordNetPortCong p.closedCong
  | 0x30 => wordNetPortErr p.closedErr
  | _ => 0#64

/-- Block 5: NET_ (R422). -/
def readNet (s : State) (off : Nat) : Word :=
  if 0x1000 ≤ off ∧ off < 0x1800 then readPort s ((off - 0x1000) / 0x100) ((off - 0x1000) % 0x100)
  else match off with
    | 0x000 => wordNetCfg s.net.cfg
    | 0x008 => wordNetRelay s.net.relay
    | 0x010 => wordNetJob s.net.job
    | 0x018 => wordNetFabric s.net.fabric
    | 0x020 => wordNetPtp s.net.ptp
    | 0x028 => wordNetPacel { s.net.pacelCfg with present := flag (s.variant.pacel != 0#8), up := flag s.net.pacel.up
                                                  lanes := BitVec.ofNat 4 s.net.pacel.lanes, replays := s.net.pacel.replays }
    | 0x030 => wordNetConn s.net.closedConn
    | _ => 0#64

/-- The page of a porter (R442). -/
def readPorterPage (p : Porter) (o : Nat) : Word :=
  match o with
  | 0x00 => wordPtrQ { legQ := BitVec.ofNat 6 p.legQ.length, cmdQ := BitVec.ofNat 6 p.cmdQ.length
                       queued := BitVec.ofNat 48 (((p.legQ ++ p.cmdQ).map (fun d => d.len - d.moved)).sum / 32) }
  | 0x08 => wordPtrBytes p.closed.bytes
  | 0x10 => wordPtrInteg p.closed.integ
  | 0x18 => wordPtrRefuse p.closed.refuse
  | 0x20 => wordPtrLastErr p.lastErr
  | _ => 0#64

/-- Block 6: PTR_ (R442). -/
def readPtr (s : State) (off : Nat) : Word :=
  if 0x1000 ≤ off ∧ off < 0x2000 then readPorterPage (getPorter s ((off - 0x1000) / 0x100)) ((off - 0x1000) % 0x100)
  else match off with
    | 0x000 => wordPtrCfg s.ptrCfg
    | 0x008 => wordPtrStatus { busy := (List.range 16).foldl (fun m n =>
        if (getPorter s n).legQ.isEmpty && (getPorter s n).cmdQ.isEmpty then m else setBit m n) 0#16 }
    | _ => 0#64

/-- The domains that are on: those of fitted units in service whose switch is on (R482, R483). -/
def domsOn (s : State) : BitVec 30 :=
  (List.range 30).foldl (fun m n =>
    let live := if n < 12 then dieLive s (n / 3) else if n < 20 then stackLive s (n - 12) else if n < 22 then (getPx s (n - 20)).live else true
    if s.pwr.domOn.getLsbD n && live then setBit m n else m) 0#30

/-- One femtojoule total as whole millijoules (R495). -/
def wholeMj (fj : Nat) : Nat := fj / 10 ^ 12

/-- Block 7: PWR_ (R499). -/
def readPwr (s : State) (off : Nat) : Word :=
  let p := s.pwr
  match inArray off 0x100 31 with
  | some n => wordPwrRail (tabGet {} p.rails n)
  | none => match off with
    | 0x000 => wordPwrCfg p.cfg
    | 0x008 => wordPwrStatus { pW := BitVec.ofNat 16 p.pW, n := BitVec.ofNat 6 p.n, nCap := BitVec.ofNat 6 p.nCap, nTherm := BitVec.ofNat 6 p.nTherm
                               capUnmet := flag p.unmet, telemLost := flag p.telemLost, inletHigh := flag p.inletHigh, flowLow := flag p.flowLow
                               coolantWarn := flag p.coolantWarn, thermLimit := flag (decide (0 < p.nTherm) || p.override_)
                               vin10mv := BitVec.ofNat 16 (p.vin.1 / 10) }
    | 0x010 => wordPwrCoolCfg p.coolCfg
    | 0x018 => wordPwrCool p.cool
    | 0x020 => wordPwrTj p.tj
    | 0x028 => wordPwrDom { on := domsOn s, fault := p.domFault }
    | 0x030 => wordPwrEvents p.closedEvents
    | 0x038 => wordPwrEnergy { mj := BitVec.ofNat 64 (wholeMj p.energyFj) }
    | 0x040 => wordPwrTrip p.trip
    | _ => 0#64

/-- Key slots that a test holds of, as a mask. -/
def slotMask (s : State) (f : KeySlot → Bool) : BitVec 16 := (List.range 16).foldl (fun m n => if f (keySlot s n) then setBit m n else m) 0#16

/-- Block 8: SEC_ (R523). -/
def readSec (s : State) (off : Nat) : Word :=
  let svn (n : Nat) : BitVec 7 := BitVec.ofNat 7 (getComp s n).svn
  match inArray off 0x100 64 with
  | some i => wordSecMr { value := (getMr s (i / 4)).extractLsb' (64 * (i % 4)) 64 }
  | none => match inArray off 0x040 4 with
    | some w => wordSecDbgNonce { nonce := s.sec.nonce.extractLsb' (64 * w) 64 }
    | none => match inArray off 0x008 4 with
      | some c => wordSecFw (getComp s c).reg
      | none => match off with
        | 0x000 => wordSecStatus { boot := s.sec.boot, recovery := flag s.sec.recovery, dbgLevel := BitVec.ofNat 2 s.sec.dbgLevel
                                   idKeyOk := flag s.sec.idKeyOk, itinSigned := flag (itinSigned s) }
        | 0x028 => wordSecSvn { secmon := svn 0, serdes := svn 1, innk := svn 2, pxBoot := svn 3 }
        | 0x030 => wordSecKeys { fused := slotMask s (·.fused), revoked := slotMask s (·.revoked), debugMax := BitVec.ofNat 2 s.sec.debugMax }
        | 0x038 => wordSecRefuse s.sec.refuse
        | _ => 0#64

/-- Clusters that CL_HALT holds (R556). -/
def haltedCount (s : State) : Nat := s.clusters.countP (fun p => p.2.halted)

/-- Block 9: MGT_ (R559). -/
def readMgt (s : State) (off : Nat) : Word :=
  let b := s.sb
  match inArray off 0x100 8 with
  | some n => if s.variant.hasLink n then wordMgtLink { (tabGet {} b.links n : Link).regs with live := flag (linkLive s n) } else 0#64
  | none => match off with
    | 0x000 => wordMgtId { slotId := b.slotId, staticAddr := 0x30#7 + b.slotId.setWidth 7, dynAddr := b.dynAddr, eid := b.eid, iana := Config.iana }
    | 0x008 => wordMgtStatus { ibiEn := flag b.ibiEn, receiver := flag b.receiver.isSome, updateMode := flag (updating s)
                               haltedCl := BitVec.ofNat 4 (min 15 (haltedCount s)), dropped := b.dropped }
    | 0x010 => BitVec.setWidth 64 b.event
    | 0x018 => wordMgtInterf0 b.closedInterf0
    | 0x020 => wordMgtInterf1 b.closedInterf1
    | 0x028 => wordMgtInterf2 b.closedInterf2
    | _ => 0#64

/-- A read of the register at an address of the control space (R234). -/
def readReg (s : State) (a : Nat) : Word :=
  let off := (a - ctlBase) % ctlBlock
  if a < ctlBase then 0#64
  else match (a - ctlBase) / ctlBlock with
    | 0 => readStg s off
    | 1 => readCl s off
    | 2 => readL2h s off
    | 3 => readMem s off
    | 4 => readPh s off
    | 5 => readNet s off
    | 6 => readPtr s off
    | 7 => readPwr s off
    | 8 => readSec s off
    | 9 => readMgt s off
    | _ => 0#64

end Sys2Proof.Machine
end

