-- ==== Sys2Proof/Machine/Processor.lean ====
section
/-! DEFINITION. The processor complex as the device sees it (R443 to R462): what each access of a hart does, the device's own CSRs, the
start and the restart of the complex, the frequency of a die. The harts' instruction set is RISC-V's; a hart's accesses come as commands. -/

namespace Sys2Proof.Machine

-- harts

/-- A hart, and the die that holds it (R443). -/
def hartDie (h : Nat) : Nat := h / 48
def getHart (s : State) (h : Nat) : Hart := tabGet {} (getPx s (hartDie h)).harts h
def modHart (h : Nat) (f : Hart → Hart) (s : State) : State :=
  modPx (hartDie h) (fun p => { p with harts := tabSet {} p.harts h (f (tabGet {} p.harts h)) }) s

/-- A hart runs: released, on a die in service, not halted by the debug module. -/
def hartRuns (s : State) (h : Nat) : Bool :=
  decide (h < 96) && s.mdl.st == .running && (getPx s (hartDie h)).live && (getHart s h).released && !tabGet false s.sb.dmiHalted h

/-- An access completes; what it returned, if anything. -/
def hartOk (h : Nat) (v : Option (BitVec 256)) (s : State) : State := modHart h (fun x => { x with lastValue := v, trap := none }) s

/-- An access raises an exception (R444, R461). -/
def hartTrap (h : Nat) (t : HartTrap) (tval : Nat) (s : State) : State :=
  modHart h (fun x => { x with trap := some t, mtval := BitVec.ofNat 64 tval, lastValue := none }) s

/-- An exception of R448: mxerr holds the first one since its VALID was cleared. -/
def hartFault (a : HartAccess) (t : HartTrap) (cause : BitVec 4) (s : State) : State :=
  modHart a.hart (fun x => { x with
    err := if x.err.valid = 1#1 then x.err else { addr := BitVec.ofNat 52 a.pa, cause := cause, valid := 1#1 } }) (hartTrap a.hart t a.va s)

/-- What an access is to the checks of R448. -/
def kindFetches : HartKind → Bool | .fetch => true | _ => false
def kindLoads : HartKind → Bool | .load => true | .vectorLoad => true | .lr => true | _ => false
def kindWrites : HartKind → Bool
  | .store _ => true | .vectorStore _ => true | .amo _ _ _ => true | .sc _ => true | .cboZero => true | _ => false
def kindScalar : HartKind → Bool | .load => true | .store _ => true | _ => false
/-- An access that consumes what it reads: loads, fetches, LR and AMOs. -/
def kindReads : HartKind → Bool
  | .fetch => true | .load => true | .vectorLoad => true | .lr => true | .amo _ _ _ => true | _ => false

/-- The access fault of an access (R448). -/
def accessFault (k : HartKind) : HartTrap := if kindFetches k then .instrAccess else if kindLoads k then .loadAccess else .storeAccess

-- where an address lies (R445)

/-- The attribute of an address. -/
inductive PxRange where
  | memory (r : Region)
  | pigeonholes
  | status
  | vacant
deriving DecidableEq, Repr

/-- The attribute of an address as a hart sees it (R236, R445). -/
def pxRange (s : State) (a : Nat) : PxRange :=
  if ctlBase ≤ a ∧ a < ctlBase + 10 * ctlBlock then .status
  else match usable s a with
    | some r => if runtimeAreaBase ≤ a ∧ a < runtimeAreaBase + runtimeAreaLen then .pigeonholes else .memory r
    | none => .vacant

/-- An I/O range permits the access (R445). -/
def ioPermits (a : HartAccess) : PxRange → Bool
  | .pigeonholes => kindScalar a.kind && (a.size == 1 || a.size == 2 || a.size == 4 || a.size == 8) && a.pa % a.size == 0
  | .status => (match a.kind with | .load => true | _ => false) && (a.size == 4 || a.size == 8) && a.pa % a.size == 0
  | _ => true

/-- The bytes an access touches: a cache-block operation takes its whole block (R444). -/
def accSpan (a : HartAccess) : Nat × Nat :=
  match a.kind with
  | .cboZero => (a.pa / 128 * 128, 128) | .cboClean => (a.pa / 128 * 128, 128)
  | .cboFlush => (a.pa / 128 * 128, 128) | .cboInval => (a.pa / 128 * 128, 128)
  | _ => (a.pa, a.size)

/-- The ranges that the ends of an access lie in; main memory lies in units of 4 KiB, far longer than an access. -/
def spanRanges (s : State) (a : HartAccess) : List PxRange :=
  let (b, n) := accSpan a
  [pxRange s b, pxRange s (b + n - 1)]

-- the die cache (R451, R452, R454)

/-- Every line of a range is in the die cache, owned where it is to be written. False while a line is being called back elsewhere. -/
def pxHold (d : Nat) (own : Bool) : List Nat → State → Bool × State
  | [], s => (true, s)
  | l :: t, s =>
    let have_ := match (getPx s d).line l with | some x => x.owned || !own | none => false
    if have_ then pxHold d own t s
    else match usable s (l * 128) with
      | none => (false, s)
      | some rg =>
        let (ok, s) := pxObtain d l own rg s
        if ok then pxHold d own t s else (false, s)

/-- The lines of a range. -/
def spanLines (a n : Nat) : List Nat := (rangeLines a n).map (·.1)

/-- A sector as the die cache holds it. -/
def pxSector (s : State) (d a : Nat) : Sector :=
  match (getPx s d).line (a / 128) with | some x => secAt x.sectors (a / 32 % 4) | none => {}

/-- A byte as the die cache holds it, and whether any sector of a range is poisoned. -/
def pxByte (s : State) (d a : Nat) : Byte := byteOf (pxSector s d a).data (a % 32)
def pxPoison (s : State) (d a n : Nat) : Bool :=
  (List.range ((a + n + 31) / 32 - a / 32)).any (fun i => (pxSector s d ((a / 32 + i) * 32)).poison)

/-- The bytes of a range as the die cache holds them, as a number. -/
def pxBytes (s : State) (d a n : Nat) : Nat := bytesNat ((List.range n).map (fun i => pxByte s d (a + i)))

/-- A store takes effect in the die cache: one narrower than a sector leaves its poison, one of a whole sector clears it (R454). -/
def pxStore (d a : Nat) (bs : List Byte) (s : State) : State :=
  let ps := (List.range bs.length).zip bs |>.map (fun p => (a + p.1, p.2))
  forEach (wordsOf ps) (fun w t =>
    match (getPx t d).line (w / 4) with
    | some x =>
      let en := wordEnables ps w
      setPxLine d (w / 4) (some { x with sectors := (List.range 4).map (fun k =>
        if k = w % 4 then Sector.store (secAt x.sectors k) en { data := wordData ps w } true else secAt x.sectors k) }) t
    | none => t) s

/-- The reservation set of an address: its aligned 64 bytes (PRESUMED: the profile bounds the set at 64 bytes). -/
def resSet (a : Nat) : Nat := a / 64 * 64

/-- A store ends the reservations that other harts hold on the bytes stored. -/
def breakRes (h a n : Nat) (s : State) : State :=
  { s with px := s.px.map (fun p => (p.1, { p.2 with harts := p.2.harts.map (fun q => (q.1,
      if q.1 != h && (match q.2.reservation with | some r => overlaps a n r 64 | none => false) then { q.2 with reservation := none } else q.2)) })) }

/-- What an AMO stores, over w bits (R444). -/
def amoCompute (op : AmoOp) (w : Nat) (cur v c : BitVec w) : BitVec w :=
  match op with
  | .swap => v
  | .add => cur + v
  | .and => cur &&& v
  | .or => cur ||| v
  | .xor => cur ^^^ v
  | .min => if v.slt cur then v else cur
  | .max => if cur.slt v then v else cur
  | .minu => if v.ult cur then v else cur
  | .maxu => if cur.ult v then v else cur
  | .cas => if cur = c then v else cur

/-- Sizes an access of a kind has. -/
def accSizeOk (a : HartAccess) : Bool :=
  match a.kind with
  | .amo op _ _ => a.size == 1 || a.size == 2 || a.size == 4 || a.size == 8 || (a.size == 16 && op == .cas)
  | .lr => a.size == 4 || a.size == 8
  | .sc _ => a.size == 4 || a.size == 8
  | .store _ => a.size == 1 || a.size == 2 || a.size == 4 || a.size == 8
  | .cboZero => true | .cboClean => true | .cboFlush => true | .cboInval => true
  | _ => decide (1 ≤ a.size) && decide (a.size ≤ 32)

/-- An AMO, LR or SC that is not naturally aligned (R444). -/
def accMisaligned (a : HartAccess) : Bool :=
  (match a.kind with | .amo _ _ _ => true | .lr => true | .sc _ => true | _ => false) && a.pa % a.size != 0

/-- A number as 256 bits. -/
def asValue (n : Nat) : Option (BitVec 256) := some (BitVec.ofNat 256 n)

/-- The effect of an access to main memory, given how its bytes are read and stored. -/
def memEffect (a : HartAccess) (rd : Nat) (st : List Byte → State → State) (s : State) : State :=
  let h := a.hart
  let put (n : Nat) (v : Nat) (t : State) : State := breakRes h a.pa n (st (natBytes n v) t)
  match a.kind with
  | .fetch => hartOk h none s
  | .load => hartOk h (asValue rd) s
  | .vectorLoad => hartOk h (asValue rd) s
  | .store v => hartOk h none (put a.size v.toNat s)
  | .vectorStore v => hartOk h none (put a.size v.toNat s)
  | .amo op v c =>
    let w := 8 * a.size
    hartOk h (asValue rd) (put a.size (amoCompute op w (BitVec.ofNat w rd) (v.setWidth w) (c.setWidth w)).toNat s)
  | .lr => modHart h (fun x => { x with reservation := some (resSet a.pa) }) (hartOk h (asValue rd) s)
  | .sc v =>
    if (getHart s h).reservation = some (resSet a.pa) then
      modHart h (fun x => { x with reservation := none }) (hartOk h (asValue 0) (put a.size v.toNat s))
    else modHart h (fun x => { x with reservation := none }) (hartOk h (asValue 1) s)
  | .cboZero => hartOk h none (breakRes h (a.pa / 128 * 128) 128 (st (List.replicate 128 0#8) s))
  | _ => hartOk h none s

/-- A die cache gives a line back to its home, with or without what it modified (R451, R454). -/
def pxGive (d l : Nat) (write keep : Bool) (s : State) : State :=
  if write then pxWriteBack d l keep s
  else match regionAt s (l * 128) with
    | some rg => modHome (rg.home (l * 128)) (fun h => h.setDir l (Dir.dropPx d (h.dirOf l))) (setPxLine d l none s)
    | none => setPxLine d l none s

/-- A hart's store into a guest's command area, which the network engine alone writes, has no effect (R317; the exceptions of R448 do not
name it: DESIGN CHOICE, log 86). -/
def hartStores (a : HartAccess) (s : State) (st : List Byte → State → State) : List Byte → State → State :=
  if touchesArea s (accSpan a).1 (accSpan a).2 then fun _ t => t else st

/-- A cacheable access to main memory, in the die cache (R452, R454). It waits while a line is called back elsewhere. -/
def cachedAccess (a : HartAccess) (s : State) : State :=
  let d := hartDie a.hart
  let (b, n) := accSpan a
  match a.kind with
  | .cboClean => hartOk a.hart none (pxGive d (b / 128) true true s)
  | .cboFlush => hartOk a.hart none (pxGive d (b / 128) true false s)
  | .cboInval => hartOk a.hart none (pxGive d (b / 128) false false s)
  | _ =>
    let (ok, s) := pxHold d (kindWrites a.kind) (spanLines b n) s
    if !ok then s
    else
      if kindReads a.kind && pxPoison s d b n then hartFault a (accessFault a.kind) 1#4 s
      else memEffect a (pxBytes s d b n) (hartStores a s (fun bs t => pxStore d b bs t)) s

/-- A non-cacheable access to main memory is performed at the home (R446); the die's own copy is given back first. -/
def homeAccess (a : HartAccess) (s : State) : State :=
  let d := hartDie a.hart
  let (b, n) := accSpan a
  let s := forEach (spanLines b n) (fun l t => pxWriteBack d l false t) s
  let (ok, s) := if kindWrites a.kind then clearLines (!kindReads a.kind) (.px d) (spanLines b n) s else (true, s)
  let (r, s) := if !ok then (none, s) else if kindReads a.kind then homeReadLines (.px d) (rangeLines b n) s else (some [], s)
  match r with
  | none => s
  | some ls =>
    let bad := (List.range n).any (fun i => (lineSector ls (b + i)).poison)
    let rd := bytesNat ((List.range n).map (fun i => byteOf (lineSector ls (b + i)).data ((b + i) % 32)))
    if kindReads a.kind && bad then hartFault a (accessFault a.kind) 1#4 s
    else memEffect a rd (hartStores a s (fun bs t => (homeWriteBytes (.px d) b bs t).2)) s

/-- A scalar access to the pigeonholes, performed at the home in program order (R445, R449); a store into a completion ring, which the
Innkeeper alone writes, has no effect (R317, log 86). -/
def pigeonAccess (a : HartAccess) (s : State) : State :=
  match a.kind with
  | .store v => if !mayWrite s (.px (hartDie a.hart)) a.pa then hartOk a.hart none s else hartOk a.hart none (homeWriteBytes (.px (hartDie a.hart)) a.pa (natBytes a.size v.toNat) s).2
  | _ =>
    let (r, s) := homeReadBytes (.px (hartDie a.hart)) a.pa a.size s
    match r with
    | some bs => hartOk a.hart (asValue (bytesNat bs)) s
    | none => s

/-- A load of the status window (R459). -/
def statusLoad (a : HartAccess) (s : State) : State :=
  let w := readReg s (a.pa / 8 * 8)
  hartOk a.hart (asValue (if a.size = 8 then w.toNat else if a.pa % 8 = 0 then w.toNat % 2 ^ 32 else w.toNat / 2 ^ 32)) s

/-- An access to memory: the checks of R444, R445 and R448 in order, then its effect. -/
def memAccess (a : HartAccess) (s : State) : State :=
  if !accSizeOk a then s
  else
    let rs := spanRanges s a
    if rs.contains .vacant then hartFault a (accessFault a.kind) 3#4 s
    else if rs.any (fun r => !ioPermits a r) then hartFault a (accessFault a.kind) 4#4 s
    else if accMisaligned a then hartTrap a.hart .storeMisaligned a.va s
    else if kindWrites a.kind && rs.any (fun r => match r with | .memory rg => rg.ro | _ => false) then hartFault a (accessFault a.kind) 2#4 s
    else match rs.head? with
      | some .pigeonholes => pigeonAccess a s
      | some .status => statusLoad a s
      | _ => if a.nonCacheable then homeAccess a s else cachedAccess a s

-- CSRs (R443, R444, R461, R462)

/-- A hart and mode that may read xstage. -/
def stageReadable (x : Hart) (mode : Nat) : Bool := mode == 3 || (mode == 1 && x.ctl.stageS == 1#1) || (mode == 0 && x.ctl.stageU == 1#1)

/-- A read of a CSR. The CSRs of RISC-V that the spec does not describe answer a free value. -/
def csrRead (h csr mode : Nat) (s : State) : State :=
  let x := getHart s h
  let m (v : Word) : State := if mode = 3 then hartOk h (asValue v.toNat) s else hartTrap h .illegal 0 s
  match csr with
  | 0xFC0 => m (wordMxdevid { deviceId := Config.deviceId })
  | 0xFC1 => m (wordMxcore { core := BitVec.ofNat 6 (h % 48), die := BitVec.ofNat 1 (hartDie h) })
  | 0xCC0 => if stageReadable x mode then hartOk h (asValue (wordXstage { stage := BitVec.ofNat 64 s.stg.num }).toNat) s else hartTrap h .illegal 0 s
  | 0x7C0 => m (wordMxctl { x.ctl with restart := 0#1 })
  | 0x7C1 => m (wordMxfreq (getPx s (hartDie h)).freq)
  | 0x7C2 => m (wordMxerr x.err)
  | 0xF14 => m (BitVec.ofNat 64 h)
  | _ =>
    if csr = 0xC01 ∧ mode = 3 then hartOk h (asValue (s.stg.upNs % 2 ^ 64)) s
    else
      let (v, s) := draw 64 s
      hartOk h (asValue v.toNat) s

/-- MXFREQ_WRITE (R461, R462): a frequency outside 8 to 32 is refused. -/
def putFreq (d : Nat) (v : Word) (s : State) : State :=
  let f := v.setWidth 6
  if 8 ≤ f.toNat ∧ f.toNat ≤ 32 then modPx d (fun p => { p with freq := { p.freq with freq := f } }) s else s

-- the start of the complex (R457, R458)

/-- Where the first processor region lies, and how long it must be (R457). -/
def pxBase : Nat := 0x1200000000
def pxLen : Nat := 0x1000000000
def pxTreeOff : Nat := 0x2000000
def pxNeeds : Nat := 0x2010000

/-- An image in a bank passes the tests of boot (R504, R510, R511); one of manufacture was signed with a slot of its class. -/
def bankPasses (s : State) (n : Nat) (b : FwBank) : Bool :=
  if b.digest.isSome then fwApproved s n b.image
  else b.good && slotUsable s b.slot && decide (svnOf b.version ≤ 64) && decide ((getComp s n).svn ≤ svnOf b.version)

/-- The digest and the bytes of a bank's image. -/
def bankDigest (n : Nat) (b : FwBank) : BitVec 256 := b.digest.getD (Config.madeImage n)
def bankBytes (n : Nat) (b : FwBank) : List Byte := if b.digest.isSome then b.image else (Config.madeImageBytes n).take (fwMax n)

/-- Every hart is held in reset. -/
def holdHarts (s : State) : State := { s with px := s.px.map (fun p => (p.1, { p.2 with harts := [] })) }

/-- The harts of the dies in service are released together, in M-mode at the image base (R457). -/
def releaseHarts (s : State) : State :=
  forEach ((List.range 96).filter (fun h => (getPx s (hartDie h)).live)) (fun h t =>
    modHart h (fun _ => { released := true, entry := pxBase, a0 := h, a1 := pxBase + pxTreeOff }) t) s

/-- Every hart stays in reset; the sideband reports it (R457). -/
def refusePx (s : State) : State := syncEvents (modSec (fun m => { m with pxRefused := true }) (holdHarts s))

/-- Steps 4 and 5 of R457: the image and the devicetree are placed, the harts released. -/
def placeImage (b : FwBank) (s : State) : State :=
  match usable s pxBase with
  | some rg =>
    if rg.base = pxBase ∧ pxNeeds ≤ rg.len then
      let s := (homeWriteBytes .innkeeper pxBase (bankBytes 3 b) s).2
      let s := (homeWriteBytes .innkeeper (pxBase + pxTreeOff) ((Config.devicetree s.freeCtr).take 0x10000) s).2
      let s := modSec (fun m => { m with pxRefused := false }) { s with freeCtr := s.freeCtr + 1 }
      syncEvents (releaseHarts s)
    else refusePx s
  | none => refusePx s

/-- A die cache is written back and invalidated (R458). -/
def emptyPxCache (d : Nat) (s : State) : State := forEach ((getPx s d).cache.map (·.1)) (fun l t => pxWriteBack d l false t) s

/-- MXCTL_RESTART (R458): the harts stop, the die caches are written back, steps 3 to 5 of R457 are repeated. -/
def restartComplex (s : State) : State :=
  if !innkUp s then s
  else
    let s := holdHarts (emptyPxCache 1 (emptyPxCache 0 s))
    let k := getComp s 3
    match k.bankOf k.reg.bank.toNat with
    | some b => if bankPasses s 3 b then placeImage b s else refuseFw (refusePx s)
    | none => refusePx s

/-- A write of a CSR. -/
def csrWrite (h csr mode : Nat) (v : Word) (s : State) : State :=
  if mode ≠ 3 ∨ csr = 0xFC0 ∨ csr = 0xFC1 ∨ csr = 0xCC0 ∨ csr = 0xF14 then
    (if csr = 0xFC0 ∨ csr = 0xFC1 ∨ csr = 0xCC0 ∨ csr = 0x7C0 ∨ csr = 0x7C1 ∨ csr = 0x7C2 ∨ csr = 0xF14 then hartTrap h .illegal 0 s else hartOk h none s)
  else match csr with
    | 0x7C0 =>
      let s := modHart h (fun x => { x with ctl := { pfEn := v.extractLsb' 0 1, stageS := v.extractLsb' 1 1, stageU := v.extractLsb' 2 1 } }) (hartOk h none s)
      if v.getLsbD 3 then restartComplex s else s
    | 0x7C1 => putFreq (hartDie h) v (hartOk h none s)
    | 0x7C2 => modHart h (fun x => { x with err := { x.err with valid := if v.getLsbD 63 then 0#1 else x.err.valid } }) (hartOk h none s)
    | _ => hartOk h none s

/-- HART_ACCESS (R448). -/
def doHartAccess (a : HartAccess) (s : State) : State :=
  if !hartRuns s a.hart then s
  else match a.kind with
    | .csrRead c m => csrRead a.hart c m s
    | .csrWrite c m v => csrWrite a.hart c m v s
    | _ => memAccess a s

/-- MXCTL_RESTART (R458): a running hart writes 1 to RESTART. -/
def doMxctlRestart (h : Nat) (s : State) : State := if hartRuns s h then restartComplex s else s

/-- MXFREQ_WRITE (R462). -/
def doMxfreqWrite (h : Nat) (v : Word) (s : State) : State := if hartRuns s h then putFreq (hartDie h) v s else s

/-- FREQ_CHANGE_DONE (R462). -/
def doFreqDone (d : Nat) (s : State) : State :=
  if d < 2 ∧ (getPx s d).live ∧ s.mdl.st = .running then modPx d (fun p => { p with freq := { p.freq with freqNow := p.freq.freq } }) s else s

/-- HART_ACCESS (R448). -/
def execHartAccess (a : HartAccess) (s : State) : Host.Outcome State Fault Refusal := .next (doHartAccess a s)
/-- MXCTL_RESTART (R458). -/
def execMxctlRestart (hart : Nat) (s : State) : Host.Outcome State Fault Refusal := .next (doMxctlRestart hart s)
/-- MXFREQ_WRITE (R462). -/
def execMxfreqWrite (hart : Nat) (value : Word) (s : State) : Host.Outcome State Fault Refusal := .next (doMxfreqWrite hart value s)
/-- FREQ_CHANGE_DONE (R462). -/
def execFreqChangeDone (die : Nat) (s : State) : Host.Outcome State Fault Refusal := .next (doFreqDone die s)

end Sys2Proof.Machine
end

