-- ==== Sys2Proof/Machine/PowerRows.lean ====
section
/-! DEFINITION. Power, heat and coolant (R478 to R496, R561), and the states of the module that faults and trips lead to (R484, R491, R538 to
R542). -/

namespace Sys2Proof.Machine

/-- The module has power and its units run. -/
def moduleRuns (s : State) : Bool := s.mdl.st == .running

-- energy (R479, R480, R495, R561)

/-- The length of a throttle interval in nanoseconds (R479). -/
def intervalNs : Nat := 10000

/-- The part of an interval that lies between two instants. -/
def overlapNs (from_ to_ a b : Nat) : Nat := min to_ b - max from_ a

/-- An interval's energy goes to the stages it lies in (R561): to the record of each Bell that has closed one, the rest to the stage that
is open. uW times ns are femtojoules. -/
def shareEnergy (start uw : Nat) : Nat → List (Nat × Nat) → State → State
  | from_, [], s => modPwr (fun p => { p with stageFj := p.stageFj + uw * overlapNs from_ (start + intervalNs) start (start + intervalNs) }) s
  | from_, (t, seq) :: rest, s =>
    let e := uw * overlapNs from_ t start (start + intervalNs)
    shareEnergy start uw (max from_ t) rest (modLdg (fun l => { l with records := l.records.map (fun r => match r with
      | .bell b => if b.seq = seq then .bell { b with energyFj := b.energyFj + e } else .bell b
      | .leg x => .leg x) }) s)

/-- The energy of an interval at a power in microwatts. -/
def addEnergy (uw : Nat) (s : State) : State :=
  let start := s.pwr.evalNs
  let s := shareEnergy start uw start s.pwr.splits s
  modPwr (fun p => { p with energyFj := p.energyFj + uw * intervalNs, evalNs := start + intervalNs
                            splits := p.splits.filter (fun x => decide (start + intervalNs < x.1)) }) s

-- the throttle (R486 to R488)

/-- Nearest integer of a quotient, ties away from zero (R486). -/
def roundAway (a : Int) (b : Nat) : Int :=
  let q : Int := (((2 * a.natAbs + b) / (2 * b) : Nat) : Int)
  if a < 0 then -q else q

/-- A value held between two bounds. -/
def clampInt (lo hi x : Int) : Int := max lo (min hi x)

/-- n_cap after an evaluation with an excess in microwatts (R486). -/
def nextCap (n nMax gain : Nat) (e : Int) : Nat := (clampInt 0 nMax ((n : Int) + roundAway e (gain * 1000000))).toNat

/-- n_therm after an evaluation (R486). -/
def nextTherm (n nMax soft tj : Nat) : Nat :=
  if soft ≤ tj then min (n + 1) nMax else if tj + 3 ≤ soft then n - 1 else n

/-- CAP_UNMET follows 100 evaluations in a row (R488). -/
def settleUnmet (s : State) : State :=
  syncEvents (modPwr (fun p => { p with unmet := if 100 ≤ p.unmetRun then true else if 100 ≤ p.okRun then false else p.unmet }) s)

/-- From the third missing report on, telemetry is lost (R480). -/
def settleTelem (s : State) : State := syncEvents (modPwr (fun p => { p with telemLost := decide (3 ≤ p.missing) }) s)

/-- The junction readings of dies in service; a die that is absent or lost reads 0 (R499). -/
def junctions (s : State) (tj : List Nat) : List Nat :=
  (List.range 7).map (fun n =>
    let live := if n < 4 then dieLive s n else if n < 6 then (getPx s (n - 4)).live else true
    if live then tj.getD n 0 else 0)

/-- PWR_TJ (R499). -/
def putTj (js : List Nat) : PwrTjReg :=
  let b (n : Nat) : BitVec 8 := BitVec.ofNat 8 (js.getD n 0)
  { cd0 := b 0, cd1 := b 1, cd2 := b 2, cd3 := b 3, px0 := b 4, px1 := b 5, iod := b 6, max := BitVec.ofNat 8 (js.foldl max 0) }

/-- A rail is fitted (R478). -/
def railFitted (v : Variant) (n : Nat) : Bool :=
  if n = 0 then true else if n < 5 then decide (n - 1 < v.dies) else if n < 9 then decide (n - 5 < v.dies)
  else if n < 17 then decide (n - 9 < v.stacks) else if n < 25 then decide (n - 17 < v.stacks) else decide (n < 31)

/-- The rails' registers take the interval's reports, given as millivolts and milliamperes (R479, R499); a missing report leaves the last. -/
def putRails (v : Variant) (rs : List (Option (Nat × Nat))) (old : Tab PwrRailReg) : Tab PwrRailReg :=
  (List.range 31).foldl (fun t n =>
    match rs.getD n none with
    | some (mv, ma) =>
      if railFitted v n then tabSet {} t n { tabGet {} t n with iMa := BitVec.ofNat 20 (min ma 0xFFFFF), vMv := BitVec.ofNat 16 mv, pg := 1#1 } else t
    | none => t) old

/-- THROTTLE_EVALUATION (R486): the end of a 10 us interval. -/
def doThrottle (t : Telemetry) (s : State) : State :=
  if !moduleRuns s then s
  else
    let s := modPwr (fun p => { p with
      vin := t.vin.getD p.vin, missing := if t.vin.isSome then 0 else p.missing + 1, rails := putRails s.variant t.rails p.rails }) s
    let s := settleTelem s
    let uw := if s.pwr.telemLost then s.variant.pmaxW * 1000000 else s.pwr.vin.1 * s.pwr.vin.2
    let s := addEnergy uw s
    let js := junctions s t.tj
    let c := s.pwr.cfg
    let e : Int := (uw : Int) - c.capW.toNat * 1000000
    let nc := nextCap s.pwr.nCap c.nMax.toNat c.gainW.toNat e
    let nt := nextTherm s.pwr.nTherm c.nMax.toNat c.tjSoft.toNat (js.foldl max 0)
    let un := decide (nc = c.nMax.toNat ∧ 0 < e)
    let s := modPwr (fun p => { p with
      pW := uw / 1000000, nCap := nc, nTherm := nt, n := max nc nt, tj := putTj js
      unmetRun := if un then p.unmetRun + 1 else 0
      okRun := if e ≤ 0 then p.okRun + 1 else 0
      events := { capped := if 0 < nc then satInc p.events.capped else p.events.capped
                  therm := if 0 < nt then satInc p.events.therm else p.events.therm
                  unmet := if un then satInc p.events.unmet else p.events.unmet } }) s
    settleUnmet (modLdg (fun l => { l with maxThrottle := max l.maxThrottle s.pwr.n }) s)

/-- TELEM_LOST (R480). -/
def doTelemLost (s : State) : State := if moduleRuns s then settleTelem s else s

/-- CAP_UNMET (R488). -/
def doCapUnmet (s : State) : State := if moduleRuns s then settleUnmet s else s

-- the coolant loop (R492 to R494)

/-- What the warnings' conditions say of the latest readings (R494), temperatures in 0.1 degree. -/
def inletBad (s : State) : Bool := decide (450 < s.pwr.cool.tIn.toNat) || decide (s.pwr.cool.tIn.toNat < 200)
def flowBad (s : State) : Bool := decide (s.pwr.cool.flowMl.toNat < 500) && decide (50 ≤ s.pwr.cool.valve.toNat)
def outletBad (s : State) : Bool := decide (s.pwr.coolCfg.target.toNat + 50 < s.pwr.cool.tOut.toNat) && s.pwr.cool.valve == 100#7

/-- The valve and the integral after an evaluation (R492): in percent, and in hundredths of a degree second. -/
def nextValve (hot : Bool) (valve vmin target tOut : Nat) (integ : Int) : Nat × Int :=
  if hot then (min 100 (valve + 10), integ)
  else
    let e : Int := (tOut : Int) - target
    let i := clampInt (-5000) 5000 (integ + e)
    ((clampInt vmin 100 (roundAway (80 * e + 2 * i) 100)).toNat, i)

/-- VALVE_EVALUATION (R492, R494): every 100 ms. -/
def doValve (r : CoolReadings) (s : State) : State :=
  if !innkBooted s then s
  else
    let c := s.pwr.coolCfg
    let hot := if c.tjFlow.toNat ≤ r.tjAll then true else if r.tjAll + 5 ≤ c.tjFlow.toNat then false else s.pwr.override_
    let (v, i) := nextValve hot s.pwr.cool.valve.toNat c.valveMin.toNat c.target.toNat r.tOut s.pwr.integ
    let s := modPwr (fun p => { p with
      override_ := hot, integ := i
      cool := { tIn := BitVec.ofNat 10 r.tIn, tOut := BitVec.ofNat 10 r.tOut, flowMl := BitVec.ofNat 16 r.flowMl, valve := BitVec.ofNat 7 v } }) s
    syncEvents (modPwr (fun p => { p with inletHigh := p.inletHigh || inletBad s, flowLow := p.flowLow || flowBad s }) s)

/-- WARNING_TIMER (R494): a condition has lasted, or has been absent, for 10 s. -/
def doWarning (w : Warning) (s : State) : State :=
  if !innkBooted s then s
  else
    syncEvents (match w with
      | .inletHigh => modPwr (fun p => { p with inletHigh := inletBad s }) s
      | .flowLow => modPwr (fun p => { p with flowLow := flowBad s }) s
      | .coolantWarn => modPwr (fun p => { p with coolantWarn := outletBad s }) s)

-- resets, power-off, the trip (R491, R538 to R542)

/-- The domains of the units a variant has (R482). -/
def fittedDomains (v : Variant) : BitVec 30 :=
  (List.range 30).foldl (fun m n => if (decide (n < 12) && decide (v.dies ≤ n / 3)) || (decide (12 ≤ n) && decide (n < 20) && decide (v.stacks ≤ n - 12))
    then m else setBit m n) 0#30

/-- A component as its flash keeps it through a reset (R508, R511, R538): its banks, its commit record, its fused SVN. -/
def Component.kept (c : Component) : Component := { bankA := c.bankA, bankB := c.bankB, commitB := c.commitB, reg := { pending := c.reg.pending }, svn := c.svn }

/-- A stack's retired list as the flash keeps it (R267): no region is mapped, so no page waits. -/
def Ctl.kept (c : Ctl) : Ctl := { retired := c.retired.map (fun p => (p.1, { p.2 with pending := 0#1 })) }

/-- What a module reset leaves (R538): every register at its reset value, but the trip latch; contents of memories, caches, ledger and
error log gone; flash and fuses kept. The Pacel link takes NP6 and NP7 from this reset if EN was set (R417). Units lost to faults stay
lost until they pass their start-up tests. -/
def resetState (s : State) : State :=
  let (nonce, s) := draw 256 s
  let z : State := {}
  refreshCaps { z with
    variant := s.variant
    ctls := s.ctls.map (fun p => (p.1, p.2.kept))
    ldg := { z.ldg with cdLost := s.ldg.cdLost, msLost := s.ldg.msLost, linkLost := s.ldg.linkLost, halfLost := s.ldg.halfLost }
    px := s.px.map (fun p => (p.1, { ({} : PxDie) with live := p.2.live }))
    net := { z.net with pacel := { z.net.pacel with enabled := s.variant.pacel != 0#8 && s.net.pacelCfg.en == 1#1 } }
    pwr := { z.pwr with cfg := { capW := BitVec.ofNat 16 s.variant.pmaxW }, trip := s.pwr.trip, domOn := fittedDomains s.variant }
    sec := { z.sec with comps := s.sec.comps.map (fun p => (p.1, p.2.kept)), slots := s.sec.slots, debugMax := s.sec.debugMax, nonce := nonce }
    sb := { z.sb with persisted := s.sb.persisted }
    freeCtr := s.freeCtr
    pending := s.pending }

/-- The module without power: nothing answers (R485, R541). -/
def offState (st : PowerState) (hold : Bool) (s : State) : State :=
  let en := s.mdl.pwrEn
  let s := resetState s
  { s with
    mdl := { st := st, pwrEn := en, pwrGood := false, thermTripN := true, holdoff := hold }
    pwr := { s.pwr with domOn := 0#30, trip := {}, cool := { s.pwr.cool with valve := 30#7 } } }

/-- The module has main power. -/
def mainPower (s : State) : Bool := s.mdl.st != .off && s.mdl.st != .latchedOff

/-- An unscheduled power-off (R540): off until PWR_EN has been low for 500 ms and rises again. A module that has tripped stays in its trip. -/
def powerOff (s : State) : State := if mainPower s && s.mdl.st != .tripped then offState .latchedOff false s else s

/-- Tests of R490: above the limit, or a sensor that reads out of range. -/
def sensorTrips : TripSensor → Bool
  | .junction _ r => match r with | some t => decide (1150 < t) | none => true
  | .outlet r => match r with | some t => decide (750 < t) | none => true

/-- PWR_TRIP as a sensor leaves it (R499, R542). -/
def tripReg (x : TripSensor) : PwrTripReg :=
  let temp (r : Option Nat) : BitVec 8 := match r with | some t => BitVec.ofNat 8 (min 0xFE (t / 10)) | none => 0xFF#8
  match x with
  | .junction d r => { tripped := 1#1, junction := 1#1, sensor := flag r.isNone, die := BitVec.ofNat 3 d, tempC := temp r }
  | .outlet r => { tripped := 1#1, outlet := 1#1, sensor := flag r.isNone, die := 7#3, tempC := temp r }

/-- CRITICAL_TRIP (R490, R491): the compute and memory rails go, the harts are held in reset, device memory is lost; the IOD and the sideband
stay. The trip is armed from the moment PWD29 is on. -/
def doTrip (x : TripSensor) (s : State) : State :=
  if !mainPower s || s.mdl.st == .tripped || !sensorTrips x then s
  else
    let s := holdHarts s
    syncEvents { s with
      mdl := { s.mdl with st := .tripped, pwrGood := false, thermTripN := false }
      pwr := { s.pwr with
        trip := tripReg x, domOn := s.pwr.domOn &&& 0x3FF00000#30, cool := { s.pwr.cool with valve := 100#7 }
        rails := s.pwr.rails.map (fun p => (p.1, if 1 ≤ p.1 ∧ p.1 ≤ 24 then { p.2 with pg := 0#1 } else p.2)) }
      clusters := [], homes := [], mem := [], chkXor := [], regions := [] }

-- domains (R483, R484)

/-- The domains that a rail feeds (R478). -/
def railFeeds (r : Nat) : List Nat :=
  if r = 0 then [] else if r < 5 then [3 * (r - 1), 3 * (r - 1) + 1] else if r < 9 then [3 * (r - 5) + 2] else if r < 17 then [r + 3] else if r < 25 then [r - 5]
  else match r with | 25 => [20] | 26 => [21] | 27 => [24, 25, 26, 27, 28] | 28 => [22, 23] | 29 => [29] | 30 => [29] | _ => []

/-- One domain faults (R484). -/
def faultDomain (n : Nat) (s : State) : State :=
  if !mainPower s || 30 ≤ n || !(fittedDomains s.variant).getLsbD n then s
  else if 24 ≤ n then powerOff s
  else if !moduleRuns s then modPwr (fun p => { p with domFault := setBit p.domFault n, domOn := clearBit p.domOn n }) s
  else
    let s := modPwr (fun p => { p with domFault := setBit p.domFault n, domOn := clearBit p.domOn n }) s
    if n < 12 then dieLoss (n / 3) n s
    else if n < 20 then stackLoss (n - 12) 0x0B n s
    else if n < 22 then
      if (getPx s (n - 20)).live then syncEvents (losePx (n - 20) (logErr { cls := 0x0D, action := 3, source := 0x0B, unit := n } s)) else s
    else
      forEach (List.range 4) (fun i t => doPortDown (4 * (n - 22) + i) t) s

/-- POWER_DOMAIN_FAULT (R484, R499): by its own power switch, or by a rail that feeds it, which faults every domain it feeds. -/
def doDomainFault (n : Nat) (rail : Option Nat) (s : State) : State :=
  match rail with
  | none => faultDomain n s
  | some r =>
    if !mainPower s || !railFitted s.variant r || !(railFeeds r).contains n then s
    else
      let s := modPwr (fun p => { p with rails := tabSet {} p.rails r { tabGet {} p.rails r with fault := 1#1 } }) s
      forEach (n :: (railFeeds r).filter (· != n)) faultDomain s

/-- A binding, or one decided for a Bell to come, names a cluster of a half. -/
def halfNamed (s : State) (h : Nat) : Bool :=
  s.itins.any (fun p => match p.2 with | some i => (i.binding.getD []).any (fun c => c / 128 == h) | none => false) ||
  s.innk.acts.any (fun a => match a with | .bind _ _ place _ => place.any (fun c => c / 128 == h) | _ => false)

/-- The cluster domain of a half (R481). -/
def halfDomain (h : Nat) : Nat := 3 * (h / 2) + h % 2

/-- CLUSTER_HALF_POWER_OFF (R483): no cluster of the half has been bound for IDLE_OFF_STAGES stages in a row. -/
def doHalfOff (h : Nat) (s : State) : State :=
  let k := s.pwr.cfg.idleOffStages.toNat
  if innkBooted s && decide (h < s.variant.stacks) && decide (0 < k) && decide (k ≤ tabGet 0 s.pwr.idle h) && !halfNamed s h then
    modPwr (fun p => { p with domOn := clearBit p.domOn (halfDomain h), warming := clearBit p.warming h }) s
  else s

/-- CLUSTER_HALF_POWER_ON (R483): the 40 us of a power-up have passed. -/
def doHalfOn (h : Nat) (s : State) : State :=
  if moduleRuns s && s.pwr.warming.getLsbD h && !s.pwr.domFault.getLsbD (halfDomain h) then
    modPwr (fun p => { p with domOn := setBit p.domOn (halfDomain h), warming := clearBit p.warming h }) s
  else s

/-- THROTTLE_EVALUATION (R486). -/
def execThrottleEvaluation (t : Telemetry) (s : State) : Host.Outcome State Fault Refusal := .next (doThrottle t s)
/-- TELEM_LOST (R480). -/
def execTelemLost (s : State) : Host.Outcome State Fault Refusal := .next (doTelemLost s)
/-- CAP_UNMET (R488). -/
def execCapUnmet (s : State) : Host.Outcome State Fault Refusal := .next (doCapUnmet s)
/-- VALVE_EVALUATION (R492). -/
def execValveEvaluation (r : CoolReadings) (s : State) : Host.Outcome State Fault Refusal := .next (doValve r s)
/-- WARNING_TIMER (R494). -/
def execWarningTimer (w : Warning) (s : State) : Host.Outcome State Fault Refusal := .next (doWarning w s)
/-- CRITICAL_TRIP (R491). -/
def execCriticalTrip (x : TripSensor) (s : State) : Host.Outcome State Fault Refusal := .next (doTrip x s)
/-- POWER_DOMAIN_FAULT (R484). -/
def execPowerDomainFault (f : DomFault) (s : State) : Host.Outcome State Fault Refusal := .next (doDomainFault f.pwd f.rail s)
/-- CLUSTER_HALF_POWER_OFF (R483). -/
def execClusterHalfPowerOff (half : Nat) (s : State) : Host.Outcome State Fault Refusal := .next (doHalfOff half s)
/-- CLUSTER_HALF_POWER_ON (R483). -/
def execClusterHalfPowerOn (half : Nat) (s : State) : Host.Outcome State Fault Refusal := .next (doHalfOn half s)

end Sys2Proof.Machine
end

