-- ==== Sys2Proof/Machine/RegWrites.lean ====
section
/-! DEFINITION. What a firmware write to a register of the control space does (R16, R56, R102, R230, R231, R234, R270, R271, R303, R304, R338,
R339, R421, R422, R441, R442, R498, R499). A value outside a field's range is refused and leaves that field unchanged; a reserved field, a
read-only field and an address without a register ignore the write. -/

namespace Sys2Proof.Machine

/-- A field of a written value. -/
def fld (v : Word) (lo w : Nat) : BitVec w := v.extractLsb' lo w

/-- A field takes a new value that lies within a range, or keeps the old one. -/
def inRange {w : Nat} (lo hi : Nat) (new old : BitVec w) : BitVec w := if lo ≤ new.toNat ∧ new.toNat ≤ hi then new else old

/-- A bit that writing 1 clears. -/
def w1c (v : Word) (lo : Nat) (old : BitVec 1) : BitVec 1 := if v.getLsbD lo then 0#1 else old

/-- STG_TIME_CFG (R56). -/
def putTimeCfg (v : Word) (r : StgTimeCfgReg) : StgTimeCfgReg :=
  { freerunAfterS := inRange 1 0xFFFF (fld v 0 16) r.freerunAfterS, slewPpm := inRange 1 200 (fld v 16 8) r.slewPpm
    stepMs := inRange 1 0xFFFF (fld v 32 16) r.stepMs, backstepLimitS := fld v 48 16 }

/-- LDG_CFG (R304). -/
def putLdgCfg (v : Word) (r : LdgCfgReg) : LdgCfgReg :=
  { replayMax := inRange 1 15 (fld v 0 4) r.replayMax, restartMs := inRange 1 1000 (fld v 8 10) r.restartMs }

/-- L2H_CFG (R231). -/
def putL2hCfg (v : Word) (r : L2hCfgReg) : L2hCfgReg :=
  { satThresh := inRange 1 16 (fld v 0 5) r.satThresh, pinHeavy := inRange 1 12 (fld v 8 4) r.pinHeavy
    pressThresh := inRange 1 255 (fld v 16 8) r.pressThresh, pressMinAcc := fld v 32 16, offerEn := fld v 48 1 }

/-- MEM_CFG (R271). -/
def putMemCfg (v : Word) (r : MemCfgReg) : MemCfgReg :=
  { ceRetire := inRange 1 15 (fld v 0 4) r.ceRetire, scrubHours := inRange 1 255 (fld v 8 8) r.scrubHours
    wcbHigh := inRange 1 64 (fld v 16 7) r.wcbHigh, pinRows := inRange 2 15 (fld v 23 4) r.pinRows
    idleNs := inRange 1 0xFFFF (fld v 32 16) r.idleNs }

/-- MEM_RETn (R266, R271). -/
def putMemRet (v : Word) : MemRetReg := { addr := fld v 12 40 ++ 0#12, pending := fld v 62 1, valid := fld v 63 1 }

/-- PH_CFG (R339). -/
def putPhCfg (v : Word) (r : PhCfgReg) : PhCfgReg :=
  { rtReserve := inRange 0 2048 (fld v 0 13) r.rtReserve, urgReserve := inRange 0 2048 (fld v 16 13) r.urgReserve }

/-- NET_CFG (R422). -/
def putNetCfg (v : Word) (r : NetCfgReg) : NetCfgReg :=
  { relayUdp := inRange 1 0xFFFF (fld v 0 16) r.relayUdp, timeoutUs := inRange 1 0xFFFF (fld v 16 16) r.timeoutUs
    dscp := fld v 32 6, pfcEn := fld v 40 1, pfcPrio := fld v 41 3 }

/-- NET_RELAY (R422). -/
def putNetRelay (v : Word) (r : NetRelayReg) : NetRelayReg :=
  { ackPkts := inRange 1 255 (fld v 0 8) r.ackPkts, ackUs := inRange 1 255 (fld v 8 8) r.ackUs, rtoUs := inRange 1 255 (fld v 16 8) r.rtoUs
    dupThresh := inRange 1 15 (fld v 24 4) r.dupThresh, gShift := inRange 1 15 (fld v 28 4) r.gShift
    wmax := inRange 1 4096 (fld v 32 13) r.wmax }

/-- NET_JOB (R422). -/
def putNetJob (v : Word) (r : NetJobReg) : NetJobReg :=
  { ackWaitUs := inRange 1 0xFFFF (fld v 0 16) r.ackWaitUs, prepRounds := inRange 1 15 (fld v 16 4) r.prepRounds
    confirmLeadUs := inRange 1 0xFFFF (fld v 32 16) r.confirmLeadUs, reprepLead := inRange 1 255 (fld v 48 8) r.reprepLead }

/-- NET_PTP (R422). -/
def putNetPtp (v : Word) (r : NetPtpReg) : NetPtpReg :=
  { r with domain := fld v 0 8, ports := fld v 8 8, transport := inRange 0 2 (fld v 16 2) r.transport }

/-- NET_PACEL (R422). -/
def putNetPacel (v : Word) (r : NetPacelReg) : NetPacelReg :=
  let lanes : BitVec 4 := fld v 4 4
  { r with en := fld v 0 1, lanesReq := if lanes = 2#4 ∨ lanes = 4#4 ∨ lanes = 8#4 then lanes else r.lanesReq }

/-- NET_PORT_V4 (R422). -/
def putPortV4 (v : Word) (r : NetPortV4Reg) : NetPortV4Reg := { addr := fld v 0 32, plen := inRange 0 32 (fld v 32 6) r.plen }

/-- PWR_CFG (R499). -/
def putPwrCfg (pmax : Nat) (v : Word) (r : PwrCfgReg) : PwrCfgReg :=
  { capW := inRange 900 pmax (fld v 0 16) r.capW, gainW := inRange 1 255 (fld v 16 8) r.gainW, nMax := inRange 1 63 (fld v 24 6) r.nMax
    tjSoft := inRange 80 110 (fld v 32 7) r.tjSoft, idleOffStages := fld v 40 16 }

/-- PWR_COOL_CFG (R499). -/
def putCoolCfg (v : Word) (r : PwrCoolCfgReg) : PwrCoolCfgReg :=
  { target := inRange 450 650 (fld v 0 10) r.target, valveMin := inRange 5 100 (fld v 16 7) r.valveMin
    tjFlow := inRange 80 110 (fld v 24 7) r.tjFlow }

/-- Block 0. -/
def writeStg (off : Nat) (v : Word) (s : State) : State :=
  match off with
  | 0x008 => doCfgNextApply v s
  | 0x030 => modStg (fun g => { g with timeCfg := putTimeCfg v g.timeCfg }) s
  | 0x040 => doEventsClr v s
  | 0x100 => modLdg (fun l => { l with cfg := putLdgCfg v l.cfg }) s
  | _ => s

/-- Block 1: CL_CTL and the acknowledgement bits of CORE_EXC. -/
def writeCl (off : Nat) (v : Word) (s : State) : State :=
  let id := off / 0x1000
  let o := off % 0x1000
  if !clusterLive s id then s
  else if o = 0x010 then doOffline id v s
  else if 0x400 ≤ o ∧ o < 0x800 ∧ (o - 0x400) % 0x80 = 0x08 then
    modCore id ((o - 0x400) / 0x80) (fun c => { c with exc := { c.exc with valid := w1c v 0 c.exc.valid, more := w1c v 1 c.exc.more } }) s
  else s

/-- Block 2. -/
def writeL2h (off : Nat) (v : Word) (s : State) : State :=
  let n := off / 0x1000
  if !halfLive s n then s
  else match off % 0x1000 with
    | 0x008 => modHome n (fun h => { h with cfg := putL2hCfg v h.cfg }) s
    | 0x068 => modHome n (fun h => { h with poisonAddr := { h.poisonAddr with valid := w1c v 63 h.poisonAddr.valid } }) s
    | _ => s

/-- Block 3; a declared failing pin is reported on the sideband (R265). A lost stack's page keeps its values. -/
def writeMem (off : Nat) (v : Word) (s : State) : State :=
  let n := off / 0x1000
  let o := off % 0x1000
  if !stackLive s n then s
  else match inArray o 0x400 256 with
    | some i => modCtl n (fun c => { c with retired := tabSet {} c.retired i (putMemRet v) }) s
    | none => match o with
      | 0x008 => modCtl n (fun c => { c with cfg := putMemCfg v c.cfg }) s
      | 0x010 => syncEvents (modCtl n (fun c => { c with
          pinFaultFlag := fld v 33 1, pinPc := fld v 34 6, pinSymbol := inRange 0 35 (fld v 40 6) c.pinSymbol }) s)
      | 0x038 => modCtl n (fun c => { c with lastErr := { c.lastErr with valid := w1c v 63 c.lastErr.valid } }) s
      | _ => s

/-- The registers of a pigeonhole. -/
def writePhPage (n o : Nat) (v : Word) (s : State) : State :=
  match o with
  | 0x00 => modPh n (fun p => { p with urgentOk := if v.getLsbD 3 then true else if n < 64 then p.urgentOk else false }) s
  | 0x20 => modPh n (fun p => { p with
      maxInflight := if 1 ≤ (fld v 0 9).toNat ∧ (fld v 0 9).toNat ≤ 256 then (fld v 0 9).toNat else p.maxInflight }) s
  | _ => s

/-- Block 4. -/
def writePh (off : Nat) (v : Word) (s : State) : State :=
  if phPages ≤ off ∧ off < phPages + 0x80 * phCount then writePhPage ((off - phPages) / 0x80) ((off - phPages) % 0x80) v s
  else if off = 0 then modInnk (fun i => { i with cfg := putPhCfg v i.cfg }) s
  else s

/-- The writable registers of a port. -/
def writePort (n o : Nat) (v : Word) (s : State) : State :=
  match o with
  | 0x10 => modPort n (fun p => { p with v4 := putPortV4 v p.v4 }) s
  | 0x18 => modPort n (fun p => { p with gw4 := { gw := fld v 0 32 } }) s
  | _ => s

/-- Block 5. NET_PACEL.EN acts at the next module reset, and ignores writes where there is no Pacel link (R417). -/
def writeNet (off : Nat) (v : Word) (s : State) : State :=
  if 0x1000 ≤ off ∧ off < 0x1800 then writePort ((off - 0x1000) / 0x100) ((off - 0x1000) % 0x100) v s
  else match off with
    | 0x000 => modNet (fun e => { e with cfg := putNetCfg v e.cfg }) s
    | 0x008 => modNet (fun e => { e with relay := putNetRelay v e.relay }) s
    | 0x010 => modNet (fun e => { e with job := putNetJob v e.job }) s
    | 0x018 => modNet (fun e => { e with fabric := { prefix_ := v } }) s
    | 0x020 => followBest (modNet (fun e => { e with ptp := putNetPtp v e.ptp }) s)
    | 0x028 => modNet (fun e => { e with pacelCfg := { putNetPacel v e.pacelCfg with en := if s.variant.pacel = 0#8 then e.pacelCfg.en else fld v 0 1 } }) s
    | _ => s

/-- Block 6. -/
def writePtr (off : Nat) (v : Word) (s : State) : State :=
  if off = 0 then { s with ptrCfg := { cmdEvery := inRange 1 15 (fld v 0 4) s.ptrCfg.cmdEvery } }
  else if 0x1000 ≤ off ∧ off < 0x2000 ∧ (off - 0x1000) % 0x100 = 0x20 then
    modPorter ((off - 0x1000) / 0x100) (fun p => { p with lastErr := { p.lastErr with valid := w1c v 63 p.lastErr.valid } }) s
  else s

/-- Block 7. -/
def writePwr (off : Nat) (v : Word) (s : State) : State :=
  match off with
  | 0x000 => { s with pwr := { s.pwr with cfg := putPwrCfg s.variant.pmaxW v s.pwr.cfg } }
  | 0x010 => { s with pwr := { s.pwr with coolCfg := putCoolCfg v s.pwr.coolCfg } }
  | _ => s

/-- A firmware write of 8 bytes at an address of the control space; blocks 8 and 9 take none (R522, R558). -/
def writeReg (a : Nat) (v : Word) (s : State) : State :=
  let off := (a - ctlBase) % ctlBlock
  if a < ctlBase then s
  else match (a - ctlBase) / ctlBlock with
    | 0 => writeStg off v s
    | 1 => writeCl off v s
    | 2 => writeL2h off v s
    | 3 => writeMem off v s
    | 4 => writePh off v s
    | 5 => writeNet off v s
    | 6 => writePtr off v s
    | 7 => writePwr off v s
    | _ => s

/-- REGISTER_WRITE (R338): the Innkeeper firmware writes a register. -/
def doRegisterWrite (a : Nat) (v : Word) (s : State) : State := if innkBooted s then writeReg a v s else s

/-- REGISTER_WRITE (R338). -/
def execRegisterWrite (addr : Nat) (value : Word) (s : State) : Host.Outcome State Fault Refusal := .next (doRegisterWrite addr value s)

end Sys2Proof.Machine
end

