-- ==== Sys2Proof/Machine/ModuleRows.lean ====
section
/-! DEFINITION. Power-up, boot, reset and power-down of the module (R457, R509 to R511, R526, R527, R530, R537 to R541). -/

namespace Sys2Proof.Machine

/-- Change the module's state. -/
def modMdl (f : Module → Module) (s : State) : State := { s with mdl := f s.mdl }

-- power-up (R537)

/-- The rails start to come up. -/
def startUp (s : State) : State := modPwr (fun p => { p with domOn := fittedDomains s.variant }) (modMdl (fun m => { m with st := .starting }) s)

/-- PWR_EN_RISE (R537): a rise within 500 ms of a fall is acted on later. -/
def doPwrEnRise (s : State) : State :=
  if s.mdl.pwrEn then s
  else
    let s := modMdl (fun m => { m with pwrEn := true }) s
    if s.mdl.st = .off ∧ !s.mdl.holdoff then startUp s else s

/-- PWR_EN_HOLDOFF (R537, R540): 500 ms have passed since PWR_EN fell. An unscheduled power-off ends only if PWR_EN has stayed low. -/
def doHoldoff (s : State) : State :=
  if !s.mdl.holdoff then s
  else
    let s := modMdl (fun m => { m with holdoff := false, st := if m.st = .latchedOff ∧ !m.pwrEn then .off else m.st }) s
    if s.mdl.st = .off ∧ s.mdl.pwrEn then startUp s else s

/-- PWR_GOOD (R493, R537): every fitted rail reports power-good. -/
def doPwrGood (s : State) : State :=
  if s.mdl.st ≠ .starting then s
  else
    modPwr (fun p => { p with
      cool := { p.cool with valve := 100#7 }
      rails := (List.range 31).foldl (fun t n => if railFitted s.variant n then tabSet {} t n { tabGet {} t n with pg := 1#1 } else t) p.rails })
      (modMdl (fun m => { m with st := .waitRelease, pwrGood := true }) s)

/-- POWER_GOOD_TIMEOUT (R537, R540). -/
def doPgTimeout (s : State) : State := if s.mdl.st = .starting then powerOff s else s

-- boot (R509 to R511)

/-- The digest of the fuse record: slots, revocations, SVNs and DEBUG_MAX (R509); its format is the monitor's. -/
def fuseRecord (s : State) : BitVec 256 :=
  Config.fuseDigest (slotMask s (·.fused)).toNat (slotMask s (·.revoked)).toNat
    ((getComp s 0).svn + 65 * (getComp s 1).svn + 65 * 65 * (getComp s 2).svn + 65 * 65 * 65 * (getComp s 3).svn) s.sec.debugMax

/-- The fused SVN of a component rises to that of the image it runs (R511). -/
def raiseSvn (n : Nat) (s : State) : State := modComp n (fun c => { c with svn := max c.svn (min 64 (svnOf c.reg.version)) }) s

/-- A component is started from a bank (R510, R515): the commit record names that bank from then on. -/
def runBank (n bank : Nat) (fallback : Bool) (b : FwBank) (s : State) : State :=
  extendMr (n + 1) (bankDigest n b) (modComp n (fun c => { c with
    commitB := decide (bank = 1)
    reg := { version := b.version, bank := BitVec.ofNat 1 bank, staged := 0#1, pending := 0#1, fallback := flag fallback } }) s)

/-- A bank's image, if it passes; a failure counts as a refusal (R523). -/
def tryBank (n bank : Nat) (s : State) : Option FwBank × State :=
  match (getComp s n).bankOf bank with
  | some b => if bankPasses s n b then (some b, s) else (none, refuseFw s)
  | none => (none, s)

/-- Boot takes a component's committed bank, or else the other one (R510). -/
def bootComp (n : Nat) (s : State) : Option FwBank × State :=
  let first := if (getComp s n).commitB then 1 else 0
  match tryBank n first s with
  | (some b, s) => (some b, runBank n first false b s)
  | (none, s) =>
    match tryBank n (1 - first) s with
    | (some b, s) => (some b, runBank n (1 - first) true b s)
    | (none, s) => (none, s)

/-- The Innkeeper's firmware is verified and released, or both its banks have failed (R510). -/
def bootInnk (s : State) : State :=
  match bootComp 2 s with
  | (some _, s) => s
  | (none, s) => modSec (fun m => { m with innkFail := true }) s

/-- SERDES is verified and loaded (R509, R510). -/
def bootSerdes (s : State) : State :=
  match bootComp 1 s with
  | (some _, s) => raiseSvn 1 s
  | (none, s) => modSec (fun m => { m with serdesFail := true }) s

/-- RELEASE_INSTANT (R509, R537, R545): boot from the ROM to the release of the Innkeeper. -/
def doRelease (slotId : Nat) (s : State) : State :=
  if s.mdl.st ≠ .waitRelease then s
  else
    let s := modMdl (fun m => { m with st := .running }) s
    let s := modSb (fun b => { b with slotId := BitVec.ofNat 4 slotId, onBus := true }) (modStg (fun g => { g with upNs := 0 }) s)
    let s := extendMr 5 (fuseRecord s) (extendMr 0 Config.romDigest s)
    match bootComp 0 s with
    | (none, s) => modSec (fun m => { m with recovery := true }) s
    | (some _, s) => syncEvents (modSec (fun m => { m with boot := 1#2 }) (bootInnk (bootSerdes (raiseSvn 0 s))))

/-- The outcome of the start-up tests of the units that were lost (R8, R482, R538): the spec gives no rule, so it is a free value. Units
in service pass. -/
def startUpTests (s : State) : State :=
  if s.ldg.cdLost = 0#8 ∧ s.ldg.msLost = 0#8 ∧ s.ldg.linkLost = 0#8 ∧ s.ldg.halfLost = 0#8 ∧ (getPx s 0).live ∧ (getPx s 1).live then s
  else
    let (r, s) := draw 34 s
    let s := modLdg (fun l => { l with
      cdLost := l.cdLost &&& r.extractLsb' 0 8, msLost := l.msLost &&& r.extractLsb' 8 8, linkLost := l.linkLost &&& r.extractLsb' 16 8
      halfLost := l.halfLost &&& r.extractLsb' 24 8 }) s
    let s := modPx 0 (fun p => { p with live := p.live || r.getLsbD 32 }) s
    modPx 1 (fun p => { p with live := p.live || r.getLsbD 33 }) s

/-- The runtime pigeonhole region (R310); where MS0 or MS2 failed its tests it stands as the loss of that stack leaves it (R261). -/
def runtimeRegion : Region := { base := runtimeAreaBase, len := runtimeAreaLen, policy := 1, keep := true, mirrored := true }
def mapRuntime (s : State) : State :=
  let r := if stackLive s 0 && halfLive s 0 then some runtimeRegion else Region.afterLoss 0 runtimeRegion
  let r := if stackLive s 2 && halfLive s 2 then r else r.bind (Region.afterLoss 2)
  match r with
  | some r => { s with regions := insertRegion r s.regions }
  | none => s

/-- The processor region that the Innkeeper maps when the flash lists none (R457): write-back, transient and unmirrored, on MS1. -/
def mapProcessor (s : State) : State :=
  if stackLive s 1 && halfLive s 1 then { s with regions := insertRegion { base := pxBase, len := pxLen } s.regions } else s

/-- The settings that CFG_SET has persisted are written (R421, R489, R555); CAP_W as one of them. -/
def loadSettings (s : State) : State := forEach s.sb.persisted (fun p t => match p.2 with | some v => writeReg p.1 v t | none => t) s

/-- The configuration a module reset starts with holds from the first Bell on. -/
def settleSettings (s : State) : State :=
  clampWindows { s with net := { s.net with cfgEff := s.net.cfg, relayEff := s.net.relay, jobEff := s.net.job } }

/-- PX_BOOT is verified and copied, and the harts are released (R457, R509). -/
def bootPx (s : State) : State :=
  match bootComp 3 s with
  | (some b, s) =>
    let s := placeImage b s
    if s.sec.pxRefused then s else modSec (fun m => { m with boot := 3#2 }) (raiseSvn 3 s)
  | (none, s) => refusePx s

/-- INNKEEPER_READY (R267, R309, R310, R457, R509): the Innkeeper reports ready, maps its regions and starts the processor complex. -/
def doInnkReady (s : State) : State :=
  if s.mdl.st ≠ .running ∨ s.sec.boot ≠ 1#2 ∨ s.sec.innkFail then s
  else
    let s := settleSettings (loadSettings (refreshCaps (startUpTests s)))
    let s := extendMr 6 (Config.configDigest (s.sb.persisted.filterMap (fun p => p.2.map (fun v => (p.1, v))))) s
    let s := raiseSvn 2 (modSec (fun m => { m with boot := 2#2 }) s)
    syncEvents (bootPx (mapProcessor (mapRuntime s)))

/-- INNK_READY_TIMEOUT (R510): no ready report within 2 s. The other bank is tried once. -/
def doInnkTimeout (s : State) : State :=
  if s.mdl.st ≠ .running ∨ s.sec.boot ≠ 1#2 ∨ s.sec.innkFail then s
  else
    let fail (t : State) : State := syncEvents (modSec (fun m => { m with innkFail := true }) t)
    let other := (getComp s 2).inactive
    if (getComp s 2).reg.fallback = 1#1 ∨ 0 < s.sec.innkTries then fail s
    else
      let s := modSec (fun m => { m with innkTries := m.innkTries + 1 }) s
      match tryBank 2 other s with
      | (some b, s) => runBank 2 other true b s
      | (none, s) => fail s

-- reset and power-down (R538 to R540)

/-- MODULE_RESET (R538): RESET_N low for at least 1 us while PWR_GOOD is high. -/
def doModuleReset (lowNs : Nat) (s : State) : State :=
  if lowNs < 1000 ∨ !s.mdl.pwrGood then s
  else
    let m := s.mdl
    { resetState s with mdl := { m with st := .waitRelease } }

/-- PWR_EN_FALL (R491, R493, R539): an orderly power-down; 500 ms begin. -/
def doPwrEnFall (s : State) : State :=
  if !s.mdl.pwrEn then s
  else
    let s := modMdl (fun m => { m with pwrEn := false }) s
    if mainPower s then offState .off true s else modMdl (fun m => { m with holdoff := true }) s

/-- VIN_SHUTDOWN (R526, R540): VIN below 44 V or above 57 V for 20 us. -/
def doVinShutdown (vinMv durNs : Nat) (s : State) : State :=
  if (vinMv < 44000 ∨ 57000 < vinMv) ∧ 20000 ≤ durNs then powerOff s else s

/-- CURRENT_LIMIT (R527, R540): the limit in force for more than 2 ms. -/
def doCurrentLimit (durNs : Nat) (s : State) : State := if 2000000 < durNs then powerOff s else s

/-- REFCLK_LOSS (R530, R540): for more than 10 us while PWR_GOOD is high, a fault of PWD28. -/
def doRefclkLoss (durNs : Nat) (s : State) : State := if 10000 < durNs ∧ s.mdl.pwrGood then faultDomain 28 s else s

/-- PWR_EN_RISE (R537). -/
def execPwrEnRise (s : State) : Host.Outcome State Fault Refusal := .next (doPwrEnRise s)
/-- PWR_EN_HOLDOFF (R537). -/
def execPwrEnHoldoff (s : State) : Host.Outcome State Fault Refusal := .next (doHoldoff s)
/-- PWR_GOOD (R537). -/
def execPwrGood (s : State) : Host.Outcome State Fault Refusal := .next (doPwrGood s)
/-- POWER_GOOD_TIMEOUT (R537). -/
def execPowerGoodTimeout (s : State) : Host.Outcome State Fault Refusal := .next (doPgTimeout s)
/-- RELEASE_INSTANT (R537). -/
def execReleaseInstant (slotId : Nat) (s : State) : Host.Outcome State Fault Refusal := .next (doRelease slotId s)
/-- INNKEEPER_READY (R509). -/
def execInnkeeperReady (s : State) : Host.Outcome State Fault Refusal := .next (doInnkReady s)
/-- INNK_READY_TIMEOUT (R510). -/
def execInnkReadyTimeout (s : State) : Host.Outcome State Fault Refusal := .next (doInnkTimeout s)
/-- PWR_EN_FALL (R539). -/
def execPwrEnFall (s : State) : Host.Outcome State Fault Refusal := .next (doPwrEnFall s)
/-- MODULE_RESET (R538). -/
def execModuleReset (lowNs : Nat) (s : State) : Host.Outcome State Fault Refusal := .next (doModuleReset lowNs s)
/-- VIN_SHUTDOWN (R526). -/
def execVinShutdown (vinMv durNs : Nat) (s : State) : Host.Outcome State Fault Refusal := .next (doVinShutdown vinMv durNs s)
/-- CURRENT_LIMIT (R527). -/
def execCurrentLimit (durNs : Nat) (s : State) : Host.Outcome State Fault Refusal := .next (doCurrentLimit durNs s)
/-- REFCLK_LOSS (R530). -/
def execRefclkLoss (durNs : Nat) (s : State) : Host.Outcome State Fault Refusal := .next (doRefclkLoss durNs s)

end Sys2Proof.Machine
end

