-- ==== Sys2Proof/Machine/Sideband.lean ====
section
/-! DEFINITION. The management sideband: the I3C target, the MCTP endpoint, PLDM and SPDM (R510, R516 to R518, R545 to R553). Each command
is one request; what the endpoint answers is recorded. -/

namespace Sys2Proof.Machine

/-- The sideband is on its bus: from 8 ms after the release instant, and through a critical trip (R485, R491, R545). -/
def sbUp (s : State) : Bool := s.sb.onBus && (s.mdl.st == .running || s.mdl.st == .tripped)

/-- Answer a request. -/
def answer (r : SbResp) (s : State) : State := modSb (fun b => { b with resp := r }) s

/-- On the bus, do something; otherwise nothing answers. -/
def onBus (f : State → State) (s : State) : State := if sbUp s then f s else s

-- I3C (R545, R546)

/-- The provisioned ID (R545). -/
def provisionedId (s : State) : Word :=
  (0x31C7#64 <<< 33) ||| (s.variant.part.setWidth 64 <<< 16) ||| (s.sb.slotId.setWidth 64 <<< 12)

/-- The static address (R545). -/
def staticAddr (s : State) : BitVec 7 := 0x30#7 + s.sb.slotId.setWidth 7

/-- A module without a dynamic address takes one (R545). -/
def takeAddr (a : BitVec 7) (s : State) : State :=
  onBus (fun s => if s.sb.dynAddr = 0#7 then answer .ok (modSb (fun b => { b with dynAddr := a }) s) else s) s

/-- SETDASA names the static address (R545). -/
def doSetdasa (st a : BitVec 7) (s : State) : State := if st = staticAddr s then takeAddr a s else s

/-- SETNEWDA changes a dynamic address (R545). -/
def doSetnewda (a : BitVec 7) (s : State) : State :=
  onBus (fun s => if s.sb.dynAddr = 0#7 then s else answer .ok (modSb (fun b => { b with dynAddr := a }) s)) s

/-- RSTDAA (R545). -/
def doRstdaa (s : State) : State := onBus (fun s => answer .ok (modSb (fun b => { b with dynAddr := 0#7 }) s)) s

/-- ENEC and DISEC (R546). -/
def setIbi (v : Bool) (s : State) : State := onBus (fun s => answer .ok (modSb (fun b => { b with ibiEn := v }) s)) s

/-- GETSTATUS (R545): the I3C standard's status word, a free value. -/
def doGetstatus (s : State) : State :=
  onBus (fun s =>
    let (w, s) := draw 16 s
    answer (.word (w.setWidth 64)) s) s

/-- The BCR of R545: IBI-capable, an IBI carries one byte, SDR only (PRESUMED: MIPI's bit places). -/
def bcr : Byte := 0x06#8

/-- SETMRL and SETMWL accept 64 to 256 (R545). -/
def setLen (n : Nat) (f : Sideband → Sideband) (s : State) : State :=
  onBus (fun s => if 64 ≤ n ∧ n ≤ 256 then answer .ok (modSb f s) else s) s

-- MCTP (R547)

/-- Set Endpoint ID: the null and the broadcast EID are no endpoint's (PRESUMED: DMTF's). -/
def doSetEid (e : Byte) (s : State) : State :=
  onBus (fun s => if e = 0#8 ∨ e = 0xFF#8 then answer .none s else answer .ok (modSb (fun b => { b with eid := e }) s)) s

/-- Get MCTP Version Support: the versions are not the spec's, a free value. -/
def doMctpVersion (s : State) : State :=
  onBus (fun s =>
    let (w, s) := draw 32 s
    answer (.word (w.setWidth 64)) s) s

/-- MESSAGE_DROPPED (R547): a message beyond the length, or a request beyond the queue, gets no response; MGT_STATUS.DROPPED counts the
requests dropped under R547, both kinds. -/
def doDropped (s : State) : State := onBus (modSb (fun b => { b with dropped := satInc b.dropped })) s

-- what the boot phase lets through (R548)

/-- A request of PLDM. type 0 always; type 5 once the monitor runs, in recovery for SECMON alone; the rest once the Innkeeper is ready. -/
def pldm (type : Nat) (f : State → State) (s : State) : State :=
  onBus (fun s =>
    if s.sec.recovery then (if type = 0 ∨ type = 5 then f s else answer (.pldmError .notReady) s)
    else if type ≠ 0 ∧ type ≠ 5 ∧ s.sec.boot.toNat < 2 then answer (.pldmError .notReady) s
    else f s) s

/-- A request of SPDM: dropped in recovery. -/
def spdm (f : State → State) (s : State) : State := onBus (fun s => if s.sec.recovery then s else f s) s

-- PLDM types 0 and 2 (R549 to R551)

/-- The commands of a type (R549), by DMTF's codes (PRESUMED). -/
def pldmCommands (type : Nat) : List Byte :=
  match type with
  | 0 => [0x01#8, 0x02#8, 0x03#8, 0x04#8, 0x05#8]
  | 2 => [0x04#8, 0x11#8, 0x21#8, 0x50#8, 0x51#8]
  | 5 => [0x01#8, 0x02#8, 0x10#8, 0x13#8, 0x14#8, 0x16#8, 0x17#8, 0x18#8, 0x1A#8, 0x1B#8, 0x1C#8, 0x1D#8]
  | _ => []

/-- SetTID: 0 and 0xFF are no terminus (PRESUMED: DMTF's). -/
def doSetTid (t : Byte) (s : State) : State :=
  pldm 0 (fun s => if t = 0#8 ∨ t = 0xFF#8 then answer (.pldmError .invalidData) s else answer .ok (modSb (fun b => { b with tid := t }) s)) s

/-- GetPLDMCommands and GetPLDMVersion: a type the endpoint has. -/
def doPldmCommands (type : Nat) (s : State) : State :=
  pldm 0 (fun s => if (pldmCommands type).isEmpty then answer (.pldmError .unsupportedCmd) s else answer (.bytes (pldmCommands type)) s) s
def doPldmVersion (type : Nat) (s : State) : State :=
  pldm 0 (fun s =>
    if (pldmCommands type).isEmpty then answer (.pldmError .unsupportedCmd) s
    else
      let (w, s) := draw 32 s
      answer (.word (w.setWidth 64)) s) s

/-- The numeric sensors of R550, in the order of its table, and one state sensor per bit of MGT_EVENT. -/
def numericSensors : List Nat :=
  [0x0001, 0x0002] ++ (List.range 31).map (· + 0x10) ++ (List.range 7).map (· + 0x40) ++ [0x50, 0x51, 0x52, 0x53] ++
  (List.range 8).map (· + 0x60) ++ [0x70, 0x71]
def stateSensors : List Nat := List.range 13

/-- A rail's unit is fitted and in service (R478, R550). -/
def railLive (s : State) (n : Nat) : Bool :=
  railFitted s.variant n &&
  (if 1 ≤ n ∧ n ≤ 4 then dieLive s (n - 1) else if 5 ≤ n ∧ n ≤ 8 then dieLive s (n - 5) else if 9 ≤ n ∧ n ≤ 16 then stackLive s (n - 9)
   else if 17 ≤ n ∧ n ≤ 24 then stackLive s (n - 17) else if n = 25 ∨ n = 26 then (getPx s (n - 25)).live else true)

/-- A sensor's availability and the value of its source register (R550). -/
def sensorOf (s : State) (n : Nat) : Option (Bool × Nat) :=
  let p := s.pwr
  if n = 0x0001 then some (true, p.pW)
  else if n = 0x0002 then some (true, p.vin.1 / 10)
  else if 0x10 ≤ n ∧ n < 0x10 + 31 then some (railLive s (n - 0x10), (tabGet {} p.rails (n - 0x10) : PwrRailReg).iMa.toNat)
  else if 0x40 ≤ n ∧ n < 0x47 then
    let k := n - 0x40
    some (if k < 4 then dieLive s k else if k < 6 then (getPx s (k - 4)).live else true,
      ((wordPwrTj p.tj).extractLsb' (8 * k) 8).toNat)
  else if n = 0x50 then some (true, p.cool.tIn.toNat)
  else if n = 0x51 then some (true, p.cool.tOut.toNat)
  else if n = 0x52 then some (true, p.cool.flowMl.toNat)
  else if n = 0x53 then some (true, p.cool.valve.toNat)
  else if 0x60 ≤ n ∧ n < 0x68 then some (stackLive s (n - 0x60), (getCtl s (n - 0x60)).tempC.toNat)
  else if n = 0x70 then some (true, wholeMj p.energyFj)
  else if n = 0x71 then some (true, p.n)
  else none

/-- GetSensorReading and GetStateSensorReadings (R550); a state sensor goes by the number of its bit. -/
def doSensor (n : Nat) (s : State) : State :=
  pldm 2 (fun s => match sensorOf s n with | some (a, v) => answer (.sensor a (if a then v else 0)) s | none => answer (.pldmError .invalidSensor) s) s
def doStateSensor (n : Nat) (s : State) : State :=
  pldm 2 (fun s => if n < 13 then answer (.sensor true (s.sb.event.getLsbD n).toNat) s else answer (.pldmError .invalidSensor) s) s

/-- GetPDR: records go by their place in R550, numeric sensors first. -/
def doGetPdr (r : Nat) (s : State) : State :=
  pldm 2 (fun s => match numericSensors[r]? with
    | some n => answer (.pdr true n) s
    | none => if r < numericSensors.length + 13 then answer (.pdr false (r - numericSensors.length)) s else answer (.pldmError .invalidRecord) s) s

/-- SetEventReceiver (R551). -/
def doSetReceiver (e : Byte) (s : State) : State := pldm 2 (fun s => answer .ok (modSb (fun b => { b with receiver := some e }) s)) s

/-- PLATFORM_EVENT_RETRY (R551): the event that waits for acknowledgement is sent again. -/
def doEventRetry (s : State) : State :=
  onBus (fun s => match s.sb.waiting with
    | e :: _ => if s.sb.receiver.isSome then modSb (fun b => { b with sent := b.sent ++ [e] }) s else s
    | [] => s) s

/-- PLATFORM_EVENT_ACKNOWLEDGED (R551): the next event that waits is sent. -/
def doEventAck (s : State) : State :=
  onBus (fun s => match s.sb.waiting with
    | _ :: e :: t => modSb (fun b => { b with waiting := e :: t, sent := b.sent ++ [e] }) s
    | _ => modSb (fun b => { b with waiting := [] }) s) s

-- PLDM type 5 (R552)

/-- GetFirmwareParameters: each component's running version, and the one staged or committed and not yet booted. -/
def doFwParams (s : State) : State :=
  pldm 5 (fun s => answer (.words ((List.range 4).map (fun n =>
    let k := getComp s n
    let next := if k.reg.staged = 1#1 ∨ k.reg.pending = 1#1 then (match k.bankOf k.inactive with | some b => b.version.toNat | none => 0) else 0
    BitVec.ofNat 64 (k.reg.version.toNat + next * 2 ^ 32)))) s) s

/-- A fw. command is in flight (R552). -/
def fwInFlight (s : State) : Bool :=
  s.innk.cmds.any (fun p => match p.2 with
    | some c => (c.opcode == 0x0801#16 || c.opcode == 0x0802#16 || c.opcode == 0x0803#16) && c.phase != .done
    | none => false)

/-- RequestUpdate (R552). -/
def doRequestUpdate (s : State) : State :=
  pldm 5 (fun s =>
    if updating s then answer (.pldmError .alreadyUpdating) s
    else if fwInFlight s || (List.range 4).any (fun n => (getComp s n).reg.pending == 1#1) then answer (.pldmError .retryRequestUpdate) s
    else answer .ok (modSb (fun b => { b with updState := .learn, updStaged := [] }) s)) s

/-- In update mode, in one of some states. -/
def inUpdate (sts : List UpdState) (f : State → State) (s : State) : State :=
  pldm 5 (fun s =>
    if !updating s then answer (.pldmError .notUpdating) s
    else if !sts.contains s.sb.updState then answer (.pldmError .invalidState) s
    else f s) s

/-- PassComponentTable (R552): it names components of R506. -/
def doPassTable (n : Nat) (s : State) : State :=
  inUpdate [.learn, .ready] (fun s =>
    if n < 4 ∧ (s.sec.recovery → n = 0) then answer .ok (modSb (fun b => { b with updState := .ready }) s) else answer (.pldmError .invalidData) s) s

/-- The bank that an update writes (R510, R552): the inactive one, in recovery bank A. -/
def updateBank (s : State) (n : Nat) : Nat := if s.sec.recovery then 0 else (getComp s n).inactive

/-- UpdateComponent (R512, R552): the size is checked and the bank is marked empty; in recovery only SECMON. -/
def doUpdateComponent (u : UpdateReq) (s : State) : State :=
  inUpdate [.ready] (fun s =>
    let n := u.component
    if 4 ≤ n ∨ (s.sec.recovery ∧ n ≠ 0) then answer (.pldmError .unableToUpdate) s
    else if u.size = 0 ∨ fwMax n < u.size ∨ (getComp s n).reg.pending = 1#1 then answer (.pldmError .unableToUpdate) s
    else
      let b := updateBank s n
      let s := modComp n (fun c => { c.putBank b none with reg := { c.reg with staged := 0#1 } }) s
      answer .ok (modSb (fun x => { x with updState := .download, updComp := n, updSize := u.size, updBuf := [], updStaged := x.updStaged.filter (· != n) }) s)) s

/-- A RequestFirmwareData response (R552): the next bytes of the image. -/
def doFirmwareData (off : Nat) (bs : List Byte) (s : State) : State :=
  inUpdate [.download] (fun s =>
    if off = s.sb.updBuf.length ∧ off + bs.length ≤ s.sb.updSize then answer .ok (modSb (fun x => { x with updBuf := x.updBuf ++ bs }) s)
    else answer (.pldmError .invalidData) s) s

/-- TransferComplete (R552). -/
def doTransferComplete (ok : Bool) (s : State) : State :=
  inUpdate [.download] (fun s =>
    answer .ok (modSb (fun x => { x with updState := if ok && x.updBuf.length == x.updSize then .verify else .ready }) s)) s

/-- VerifyComplete (R511, R512, R552): the copy in the bank is verified; a refused image leaves it empty. -/
def doVerifyComplete (s : State) : State :=
  inUpdate [.verify] (fun s =>
    let n := s.sb.updComp
    let bs := s.sb.updBuf
    if s.sec.recovery then
      if fwApproved s 0 bs then answer .ok (modSb (fun x => { x with updState := .apply }) (modComp 0 (fun c => { c with bankA := some (fwBankOf bs) }) s))
      else answer (.pldmError .verifyFailed) (modSb (fun x => { x with updState := .ready }) (refuseFw s))
    else if fieldNat bs 0x10 8 ≠ bs.length then answer (.pldmError .verifyFailed) (modSb (fun x => { x with updState := .ready }) s)
    else
      let (ok, s) := stageImage n bs s
      if ok then answer .ok (modSb (fun x => { x with updState := .apply }) s)
      else answer (.pldmError .verifyFailed) (modSb (fun x => { x with updState := .ready }) s)) s

/-- ApplyComplete (R552): the image is left staged. -/
def doApplyComplete (s : State) : State :=
  inUpdate [.apply] (fun s => answer .ok (modSb (fun x => { x with updState := .ready, updStaged := x.updStaged ++ [x.updComp], updBuf := [] }) s)) s

/-- Update mode ends. -/
def endUpdate (s : State) : State := modSb (fun x => { x with updState := .idle, updBuf := [], updStaged := [] }) s

/-- ActivateFirmware (R513, R552): every image staged in this update is committed. -/
def doActivate (s : State) : State :=
  inUpdate [.ready] (fun s =>
    if s.sb.updStaged.isEmpty then answer (.pldmError .invalidState) s
    else
      let s := if s.sec.recovery then modComp 0 (fun c => { c with commitB := false }) s
        else forEach s.sb.updStaged (fun n t => (commitImage n t).2) s
      answer .ok (endUpdate s)) s

/-- GetStatus: where the update stands. -/
def updNum : UpdState → Nat
  | .idle => 0 | .learn => 1 | .ready => 2 | .download => 3 | .verify => 4 | .apply => 5
def doUpdateStatus (s : State) : State := pldm 5 (fun s => answer (.word (BitVec.ofNat 64 (updNum s.sb.updState))) s) s

/-- CancelUpdateComponent, CancelUpdate and the 60 s without a request (R552). -/
def doCancelComponent (s : State) : State :=
  inUpdate [.download, .verify, .apply] (fun s => answer .ok (modSb (fun x => { x with updState := .ready, updBuf := [] }) s)) s
def doCancelUpdate (s : State) : State :=
  pldm 5 (fun s => if updating s then answer .ok (endUpdate s) else answer (.pldmError .notUpdating) s) s
def doUpdateTimeout (s : State) : State := if sbUp s && updating s then endUpdate s else s

-- SPDM (R516 to R518, R553)

/-- NEGOTIATE_ALGORITHMS (R517): bit 0 of each operand stands for the one algorithm offered, ML-DSA-44 and SHA3-256. -/
def doNegotiate (asym hash : Nat) (s : State) : State :=
  spdm (fun s => if asym % 2 = 1 ∧ hash % 2 = 1 then answer .ok (modSb (fun b => { b with negotiated := true }) s) else answer .spdmInvalid s) s

/-- GET_CAPABILITIES (R517): the flags are not the spec's, a free value. -/
def doCapabilities (s : State) : State :=
  spdm (fun s =>
    let (w, s) := draw 32 s
    answer (.word (w.setWidth 64)) s) s

/-- GET_CERTIFICATE (R517, R553): slot 0 alone, at most 4,096 bytes at a time. -/
def doCertificate (slot off len : Nat) (s : State) : State :=
  spdm (fun s =>
    let chain := Config.certChain
    if slot ≠ 0 ∨ chain.length ≤ off then answer .spdmInvalid s
    else
      let n := min (min len 4096) (chain.length - off)
      answer (.cert off n (chain.length - off - n) ((chain.drop off).take n)) s) s

/-- CHALLENGE (R517, R518): signed with the identity key unless it is disabled (R520). -/
def doChallenge (slot : Nat) (nonce : BitVec 256) (s : State) : State :=
  spdm (fun s =>
    if slot ≠ 0 ∨ !s.sec.idKeyOk then answer .spdmInvalid s
    else
      let (n, s) := draw 256 s
      let body := digestBytes (sha3 Config.certChain) ++ digestBytes n
      answer (.bytes (body ++ idSignature (Config.spdmVca ++ digestBytes nonce ++ body))) s) s

/-- GET_MEASUREMENTS (R516, R517): index 0 asks how many there are, 0xFF for all, n + 1 for MRn; with a nonce the answer is signed. -/
def doMeasurements (index : Nat) (nonce : Option (BitVec 256)) (s : State) : State :=
  spdm (fun s =>
    if index = 0 then answer (.word 16#64) s
    else if index ≠ 0xFF ∧ 16 < index then answer .spdmInvalid s
    else
      let mask : BitVec 16 := if index = 0xFF then 0xFFFF#16 else maskBit 16 (index - 1)
      match nonce with
      | none =>
        let (n, s) := draw 256 s
        answer (.bytes (measureBody s mask n)) s
      | some r =>
        if !s.sec.idKeyOk then answer .spdmInvalid s
        else
          let (n, s) := draw 256 s
          let body := measureBody s mask n
          answer (.bytes (body ++ idSignature (Config.spdmVca ++ Config.spdmRequest mask ++ digestBytes r ++ Config.spdmRequestTail ++ body))) s) s

/-- A request the endpoint does not support (R517, R549). -/
def doUnsupported (u : Unsupported) (s : State) : State :=
  match u with
  | .pldm t _ => pldm t (answer (.pldmError .unsupportedCmd)) s
  | .spdm _ => spdm (answer .spdmUnsupported) s

/-- ENTDAA (R545). -/
def execEntdaa (addr : BitVec 7) (s : State) : Host.Outcome State Fault Refusal := .next (takeAddr addr s)
/-- SETDASA (R545). -/
def execSetdasa (st addr : BitVec 7) (s : State) : Host.Outcome State Fault Refusal := .next (doSetdasa st addr s)
/-- SETNEWDA (R545). -/
def execSetnewda (addr : BitVec 7) (s : State) : Host.Outcome State Fault Refusal := .next (doSetnewda addr s)
/-- RSTDAA (R545). -/
def execRstdaa (s : State) : Host.Outcome State Fault Refusal := .next (doRstdaa s)
/-- ENEC (R546). -/
def execEnec (s : State) : Host.Outcome State Fault Refusal := .next (setIbi true s)
/-- DISEC (R546). -/
def execDisec (s : State) : Host.Outcome State Fault Refusal := .next (setIbi false s)
/-- GETPID (R545). -/
def execGetpid (s : State) : Host.Outcome State Fault Refusal := .next (onBus (fun s => answer (.word (provisionedId s)) s) s)
/-- GETBCR (R545). -/
def execGetbcr (s : State) : Host.Outcome State Fault Refusal := .next (onBus (answer (.byte bcr)) s)
/-- GETDCR (R545). -/
def execGetdcr (s : State) : Host.Outcome State Fault Refusal := .next (onBus (answer (.byte Config.dcr)) s)
/-- GETSTATUS (R545). -/
def execGetstatus (s : State) : Host.Outcome State Fault Refusal := .next (doGetstatus s)
/-- GETMRL (R545). -/
def execGetmrl (s : State) : Host.Outcome State Fault Refusal := .next (onBus (fun s => answer (.word (BitVec.ofNat 64 s.sb.mrl)) s) s)
/-- GETMWL (R545). -/
def execGetmwl (s : State) : Host.Outcome State Fault Refusal := .next (onBus (fun s => answer (.word (BitVec.ofNat 64 s.sb.mwl)) s) s)
/-- SETMRL (R545). -/
def execSetmrl (n : Nat) (s : State) : Host.Outcome State Fault Refusal := .next (setLen n (fun b => { b with mrl := n }) s)
/-- SETMWL (R545). -/
def execSetmwl (n : Nat) (s : State) : Host.Outcome State Fault Refusal := .next (setLen n (fun b => { b with mwl := n }) s)
/-- SET_ENDPOINT_ID (R547). -/
def execSetEndpointId (eid : Byte) (s : State) : Host.Outcome State Fault Refusal := .next (doSetEid eid s)
/-- GET_ENDPOINT_ID (R547). -/
def execGetEndpointId (s : State) : Host.Outcome State Fault Refusal := .next (onBus (fun s => answer (.byte s.sb.eid) s) s)
/-- GET_ENDPOINT_UUID (R547). -/
def execGetEndpointUuid (s : State) : Host.Outcome State Fault Refusal := .next (onBus (answer (.bytes (wordBytes 16 Config.endpointUuid))) s)
/-- GET_MCTP_VERSION_SUPPORT (R547). -/
def execGetMctpVersionSupport (s : State) : Host.Outcome State Fault Refusal := .next (doMctpVersion s)
/-- GET_MESSAGE_TYPE_SUPPORT (R547). -/
def execGetMessageTypeSupport (s : State) : Host.Outcome State Fault Refusal := .next (onBus (answer (.bytes [0x00#8, 0x01#8, 0x05#8, 0x7F#8])) s)
/-- MESSAGE_DROPPED (R547). -/
def execMessageDropped (_a : Arrival) (s : State) : Host.Outcome State Fault Refusal := .next (doDropped s)
/-- GETTID (R549). -/
def execGetTid (s : State) : Host.Outcome State Fault Refusal := .next (pldm 0 (fun s => answer (.byte s.sb.tid) s) s)
/-- SETTID (R549). -/
def execSetTid (tid : Byte) (s : State) : Host.Outcome State Fault Refusal := .next (doSetTid tid s)
/-- GETPLDMTYPES (R549). -/
def execGetPldmTypes (s : State) : Host.Outcome State Fault Refusal := .next (pldm 0 (answer (.bytes [0#8, 2#8, 5#8])) s)
/-- GETPLDMCOMMANDS (R549). -/
def execGetPldmCommands (type : Nat) (s : State) : Host.Outcome State Fault Refusal := .next (doPldmCommands type s)
/-- GETPLDMVERSION (R549). -/
def execGetPldmVersion (type : Nat) (s : State) : Host.Outcome State Fault Refusal := .next (doPldmVersion type s)
/-- SETEVENTRECEIVER (R551). -/
def execSetEventReceiver (eid : Byte) (s : State) : Host.Outcome State Fault Refusal := .next (doSetReceiver eid s)
/-- GETPDRREPOSITORYINFO (R550). -/
def execGetPdrRepositoryInfo (s : State) : Host.Outcome State Fault Refusal :=
  .next (pldm 2 (answer (.word (BitVec.ofNat 64 (numericSensors.length + stateSensors.length)))) s)
/-- GETPDR (R550). -/
def execGetPdr (record : Nat) (s : State) : Host.Outcome State Fault Refusal := .next (doGetPdr record s)
/-- GETSENSORREADING (R550). -/
def execGetSensorReading (sensor : Nat) (s : State) : Host.Outcome State Fault Refusal := .next (doSensor sensor s)
/-- GETSTATESENSORREADINGS (R550). -/
def execGetStateSensorReadings (sensor : Nat) (s : State) : Host.Outcome State Fault Refusal := .next (doStateSensor sensor s)
/-- QUERYDEVICEIDENTIFIERS (R552): the vendor's enterprise number (PRESUMED: DMTF's first descriptor). -/
def execQueryDeviceIdentifiers (s : State) : Host.Outcome State Fault Refusal := .next (pldm 5 (answer (.word (Config.iana.setWidth 64))) s)
/-- GETFIRMWAREPARAMETERS (R552). -/
def execGetFirmwareParameters (s : State) : Host.Outcome State Fault Refusal := .next (doFwParams s)
/-- REQUESTUPDATE (R552). -/
def execRequestUpdate (s : State) : Host.Outcome State Fault Refusal := .next (doRequestUpdate s)
/-- PASSCOMPONENTTABLE (R552). -/
def execPassComponentTable (component : Nat) (s : State) : Host.Outcome State Fault Refusal := .next (doPassTable component s)
/-- UPDATECOMPONENT (R552). -/
def execUpdateComponent (u : UpdateReq) (s : State) : Host.Outcome State Fault Refusal := .next (doUpdateComponent u s)
/-- FIRMWARE_DATA (R552). -/
def execFirmwareData (offset : Nat) (bytes : List Byte) (s : State) : Host.Outcome State Fault Refusal := .next (doFirmwareData offset bytes s)
/-- TRANSFERCOMPLETE (R552). -/
def execTransferComplete (ok : Bool) (s : State) : Host.Outcome State Fault Refusal := .next (doTransferComplete ok s)
/-- VERIFYCOMPLETE (R552). -/
def execVerifyComplete (s : State) : Host.Outcome State Fault Refusal := .next (doVerifyComplete s)
/-- APPLYCOMPLETE (R552). -/
def execApplyComplete (s : State) : Host.Outcome State Fault Refusal := .next (doApplyComplete s)
/-- ACTIVATEFIRMWARE (R552). -/
def execActivateFirmware (s : State) : Host.Outcome State Fault Refusal := .next (doActivate s)
/-- PLDM GetStatus (R549). -/
def execPldmGetStatus (s : State) : Host.Outcome State Fault Refusal := .next (doUpdateStatus s)
/-- CANCELUPDATECOMPONENT (R549). -/
def execCancelUpdateComponent (s : State) : Host.Outcome State Fault Refusal := .next (doCancelComponent s)
/-- CANCELUPDATE (R552). -/
def execCancelUpdate (s : State) : Host.Outcome State Fault Refusal := .next (doCancelUpdate s)
/-- UPDATE_MODE_TIMEOUT (R552). -/
def execUpdateModeTimeout (s : State) : Host.Outcome State Fault Refusal := .next (doUpdateTimeout s)
/-- GET_VERSION (R517): SPDM 1.4. -/
def execGetVersion (s : State) : Host.Outcome State Fault Refusal := .next (spdm (answer (.byte 0x14#8)) s)
/-- GET_CAPABILITIES (R517). -/
def execGetCapabilities (s : State) : Host.Outcome State Fault Refusal := .next (doCapabilities s)
/-- NEGOTIATE_ALGORITHMS (R517). -/
def execNegotiateAlgorithms (baseAsym baseHash : Nat) (s : State) : Host.Outcome State Fault Refusal := .next (doNegotiate baseAsym baseHash s)
/-- GET_DIGESTS (R517): of slot 0, the only one. -/
def execGetDigests (s : State) : Host.Outcome State Fault Refusal := .next (spdm (answer (.bytes (digestBytes (sha3 Config.certChain)))) s)
/-- GET_CERTIFICATE (R553). -/
def execGetCertificate (slot offset length : Nat) (s : State) : Host.Outcome State Fault Refusal := .next (doCertificate slot offset length s)
/-- CHALLENGE (R517). -/
def execChallenge (slot : Nat) (nonce : BitVec 256) (s : State) : Host.Outcome State Fault Refusal := .next (doChallenge slot nonce s)
/-- GET_MEASUREMENTS (R517). -/
def execGetMeasurements (index : Nat) (nonce : Option (BitVec 256)) (s : State) : Host.Outcome State Fault Refusal := .next (doMeasurements index nonce s)
/-- PLATFORM_EVENT_RETRY (R551). -/
def execPlatformEventRetry (s : State) : Host.Outcome State Fault Refusal := .next (doEventRetry s)
/-- PLATFORM_EVENT_ACKNOWLEDGED (R551). -/
def execPlatformEventAcknowledged (s : State) : Host.Outcome State Fault Refusal := .next (doEventAck s)
/-- UNSUPPORTED_REQUEST (R549). -/
def execUnsupportedRequest (u : Unsupported) (s : State) : Host.Outcome State Fault Refusal := .next (doUnsupported u s)

end Sys2Proof.Machine
end

