-- ==== Sys2Proof/Machine/Vendor.lean ====
section
/-! DEFINITION. Daxent's own sideband messages (R548, R554 to R557) and what they reach: registers, the error log, settings, debug tokens,
debug modules, halted clusters, fuses (R502, R520, R521). -/

namespace Sys2Proof.Machine

/-- A vendor response without a payload, or with one. -/
def vend (st : BitVec 16) (s : State) : State := answer (.status st []) s
def vendBytes (st : BitVec 16) (bs : List Byte) (s : State) : State := answer (.status st bs) s

/-- A vendor message: dropped in recovery; before the Innkeeper is ready only some are served (R548). -/
def vendor (early : Bool) (f : State → State) (s : State) : State :=
  onBus (fun s => if s.sec.recovery then s else if s.sec.boot.toNat < 2 && !early then vend stBusy s else f s) s

/-- A debug level has been granted (R520, R554). -/
def level (n : Nat) (f : State → State) (s : State) : State := if s.sec.dbgLevel < n then vend stDenied s else f s

/-- REG_READ (R548, R554): an 8-byte aligned address of the control space; before the Innkeeper is ready, blocks 8 and 9. -/
def doRegRead (a : Nat) (s : State) : State :=
  vendor (decide (ctlBase + 8 * ctlBlock ≤ a) && decide (a < ctlBase + 10 * ctlBlock)) (fun s =>
    if a % 8 ≠ 0 ∨ a < ctlBase ∨ ctlBase + 10 * ctlBlock ≤ a then vend stBadArg s else vendBytes stOk (wordBytes 8 (readReg s a)) s) s

/-- FAULT_READ (R374, R554). -/
def doSbFaultRead (seq n : Nat) (s : State) : State :=
  vendor false (fun s =>
    if n = 0 ∨ 64 < n then vend stBadArg s
    else
      let recs := (s.errs.filter (fun r => decide (seq ≤ r.seq) && decide (r.seq < seq + n))).reverse
      answer (.faults stOk recs.length (lostCount (errOldest s) seq n) recs) s) s

/-- The registers whose RW fields CFG_SET accepts (R555). -/
def cfgSettable (a : Nat) : Bool :=
  let net := ctlBase + 5 * ctlBlock
  let pwr := ctlBase + 7 * ctlBlock
  [0x00, 0x08, 0x10, 0x18, 0x20, 0x28].any (fun o => a == net + o) ||
  (List.range 8).any (fun n => (List.range 7).any (fun k => a == net + 0x1000 + 0x100 * n + 8 * k)) || a == pwr || a == pwr + 0x10

/-- CFG_SET (R548, R555): the Innkeeper performs the write. -/
def doCfgSet (a : Nat) (v : Word) (persist : Bool) (s : State) : State :=
  vendor false (fun s =>
    if s.innk.innk.restarting = 1#1 ∨ s.innk.innk.halted = 1#1 ∨ s.innk.dmiHalt then vend stBusy s
    else if !cfgSettable a then vend stDenied s
    else
      let s := writeReg a v s
      vend stOk (if persist then modSb (fun b => { b with persisted := tabSet none b.persisted a (some v) }) s else s)) s

/-- A debug token passes (R504, R521). -/
def tokenOk (s : State) (t : DbgToken) : Bool :=
  let b := t.bytes
  let lv := fieldNat b 4 1
  b.length == 64 && fieldNat b 0 4 == 0x44424731 && fieldNat b 5 3 == 0 && fieldNat b 0x30 16 == 0 && decide (1 ≤ lv) && decide (lv ≤ 3) &&
  verifySigned s ctxDbg ([8, 9] ++ (if lv ≤ 2 then [10, 11] else [])) b t.block &&
  fieldNat b 8 8 == Config.deviceId.toNat && digestAt b 0x10 == s.sec.nonce && decide (lv ≤ s.sec.debugMax)

/-- DBG_UNLOCK (R520, R521): a fresh nonce, MR7, then the level; level 3 disables the identity key. -/
def doUnlock (t : DbgToken) (s : State) : State :=
  vendor true (fun s =>
    if !tokenOk s t then vend stDenied (refuseDbg s)
    else
      let lv := max s.sec.dbgLevel (fieldNat t.bytes 4 1)
      let s := extendMr 7 (sha3 t.bytes) (freshNonce s)
      vend stOk (modSec (fun m => { m with dbgLevel := lv, idKeyOk := m.idKeyOk && decide (lv < 3) }) s)) s

/-- The bits of dmcontrol that halt and resume (PRESUMED: the RISC-V debug module's). -/
def dmControl : BitVec 32 := 0x10#32

/-- A debug module is written: a halt or a resume takes effect (R451, R556). -/
def dmiWrite (target : Nat) (addr data : BitVec 32) (s : State) : State :=
  if addr ≠ dmControl then s
  else
    let set (v : Bool) (t : State) : State :=
      if target = 96 then modInnk (fun i => { i with dmiHalt := v }) t
      else modSb (fun b => { b with dmiHalted := tabSet false b.dmiHalted target v }) t
    if data.getLsbD 31 then set true s else if data.getLsbD 30 then set false s else s

/-- DMI (R520, R554): what a debug module's register reads the spec does not say, a free value. -/
def doDmi (target : Nat) (write : Bool) (addr data : BitVec 32) (s : State) : State :=
  vendor false (fun s =>
    if 96 < target then vend stBadArg s
    else level (if target = 96 then 3 else 1) (fun s =>
      let s := if write then dmiWrite target addr data s else s
      let (r, s) := draw 32 s
      vendBytes stOk (wordBytes 4 r) s) s) s

/-- A cluster a vendor message names (R5, R59). -/
def vendCluster (n : Nat) (f : State → State) (s : State) : State :=
  if !clusterIdWf n then vend stBadArg s else if !clusterLive s n then vend stNoUnit s else f s

/-- CL_HALT (R556). -/
def doClHalt (n : Nat) (halt : Bool) (s : State) : State :=
  vendor false (level 2 (vendCluster n (fun s => vend stOk (modCluster n (fun c => { c with halted := halt }) s)))) s

/-- Device memory as DBG_READ returns it: poisoned words read as zeros (R556). -/
def dbgMemory (a n : Nat) (s : State) : State :=
  match (List.range n).find? (fun i => (usable s (a + i)).isNone) with
  | some _ => vend stDenied s
  | none =>
    let (r, s) := homeReadLines .sideband (rangeLines a n) s
    match r with
    | none => s
    | some ls =>
      let bs := (List.range n).map (fun i =>
        let v := lineSector ls (a + i)
        if v.poison then 0#8 else byteOf v.data ((a + i) % 32))
      vendBytes (if (List.range n).any (fun i => (lineSector ls (a + i)).poison) then stPoison else stOk) bs s

/-- The register of a caravan slot that an address names: 128 bytes, one word per thread (R556). The core is taken from address [14:12]
(DESIGN CHOICE: the spec names none). An empty slot's registers are free values. -/
def dbgRegs (n a : Nat) (s : State) : State :=
  match (getCore s n (a / 2 ^ 12 % 8)).slot (a / 2 ^ 8 % 16) with
  | some v => vendBytes stOk ((List.range 32).flatMap (fun t => wordBytes 4 (v.reg t (a % 2 ^ 8)))) s
  | none =>
    let (r, s) := draw 1024 s
    vendBytes stOk (wordBytes 128 r) s

/-- DBG_READ (R556). -/
def doDbgRead (space n a len : Nat) (s : State) : State :=
  vendor false (level 2 (fun s =>
    if len < 32 ∨ 4096 < len ∨ 2 < space then vend stBadArg s
    else if space = 0 then dbgMemory a len s
    else vendCluster n (fun s =>
      if !(getCluster s n).halted then vend stBusy s
      else if space = 1 then
        if storeBytes < a + len then vend stBadArg s
        else vendBytes stOk ((List.range len).map (fun i => tabGet 0#8 (getCluster s n).store (a + i))) s
      else dbgRegs n a s) s)) s

/-- The slots that may sign a fuse request, by its OP and slot (R557). -/
def fuseSigners (op slot : Nat) : List Nat :=
  if op = 1 then (if (4 ≤ slot ∧ slot ≤ 7) ∨ slot = 10 ∨ slot = 11 then [4, 5, 6, 7] else [])
  else if op = 2 then (if slot ≤ 3 ∨ slot = 8 ∨ slot = 9 then [0, 1, 2, 3] else if slot ≤ 11 then [4, 5, 6, 7] else [])
  else if op = 3 then [0, 1, 2, 3, 4, 5, 6, 7] else []

/-- A fuse request passes (R502, R504, R557). -/
def fuseOk (s : State) (r : FuseReq) : Bool :=
  let b := r.bytes
  let op := fieldNat b 4 1
  let slot := fieldNat b 5 1
  let lv := fieldNat b 6 1
  b.length == 80 && fieldNat b 0 4 == 0x46555331 && fieldNat b 7 1 == 0 &&
  (verifySigned s ctxFuse (fuseSigners op slot) b r.block ||
    (op == 1 && decide (4 ≤ slot) && decide (slot ≤ 7) && !itinSigned s && verifyUnsigned b r.block)) &&
  fieldNat b 8 8 == Config.deviceId.toNat && digestAt b 0x10 == s.sec.nonce &&
  (if op = 1 then !(keySlot s slot).fused
   else if op = 2 then !(decide (slot ≤ 3) && (List.range 4).all (fun n => n == slot || (keySlot s n).revoked || !(keySlot s n).fused))
   else decide (lv ≤ 2) && decide (lv < s.sec.debugMax))

/-- FUSE (R502, R557): a fresh nonce, the fuse, MR5. -/
def doFuse (r : FuseReq) (s : State) : State :=
  vendor true (fun s =>
    if !fuseOk s r then vend stDenied s
    else
      let op := fieldNat r.bytes 4 1
      let slot := fieldNat r.bytes 5 1
      let s := freshNonce s
      let s :=
        if op = 1 then modSec (fun m => { m with slots := tabSet {} m.slots slot { fused := true, digest := some (digestAt r.bytes 0x30) } }) s
        else if op = 2 then modSec (fun m => { m with slots := tabSet {} m.slots slot { tabGet {} m.slots slot with revoked := true } }) s
        else modSec (fun m => { m with debugMax := fieldNat r.bytes 6 1 }) s
      vend stOk (extendMr 5 (fuseRecord s) s)) s

/-- REG_READ (R554). -/
def execRegRead (addr : Nat) (s : State) : Host.Outcome State Fault Refusal := .next (doRegRead addr s)
/-- SIDEBAND_FAULT_READ (R554). -/
def execSidebandFaultRead (seq count : Nat) (s : State) : Host.Outcome State Fault Refusal := .next (doSbFaultRead seq count s)
/-- CFG_SET (R555). -/
def execCfgSet (addr : Nat) (value : Word) (persist : Bool) (s : State) : Host.Outcome State Fault Refusal := .next (doCfgSet addr value persist s)
/-- DBG_UNLOCK (R521). -/
def execDbgUnlock (t : DbgToken) (s : State) : Host.Outcome State Fault Refusal := .next (doUnlock t s)
/-- DMI (R554). -/
def execDmi (target : Nat) (write : Bool) (addr data : BitVec 32) (s : State) : Host.Outcome State Fault Refusal := .next (doDmi target write addr data s)
/-- CL_HALT (R556). -/
def execClHalt (cluster : Nat) (halt : Bool) (s : State) : Host.Outcome State Fault Refusal := .next (doClHalt cluster halt s)
/-- DBG_READ (R556). -/
def execDbgRead (space cluster addr len : Nat) (s : State) : Host.Outcome State Fault Refusal := .next (doDbgRead space cluster addr len s)
/-- FUSE (R557). -/
def execFuse (r : FuseReq) (s : State) : Host.Outcome State Fault Refusal := .next (doFuse r s)

end Sys2Proof.Machine
end

