-- ==== Sys2Proof/Machine/Dispatch.lean ====
section
/-! DEFINITION. The dispatch: one arm for each command of the table, each a direct call of its meaning. -/

namespace Sys2Proof.Machine

/-- The effect of a command on everything but the queue. -/
def exec (i : Instr) (s : State) : Host.Outcome State Fault Refusal :=
  match i with
  -- the Bell, the legs and time
  | .bell => Sys2Proof.Machine.execBell s
  | .commitWindowOpen => Sys2Proof.Machine.execCommitWindowOpen s
  | .watchdogFault itin => Sys2Proof.Machine.execWatchdogFault itin s
  | .launch itin entry => Sys2Proof.Machine.execLaunch itin entry s
  | .move itin entry => Sys2Proof.Machine.execMove itin entry s
  | .send itin entry => Sys2Proof.Machine.execSend itin entry s
  | .recv itin entry => Sys2Proof.Machine.execRecv itin entry s
  | .ptpMessage u => Sys2Proof.Machine.execPtpMessage u s
  | .freerunTimeout => Sys2Proof.Machine.execFreerunTimeout s
  | .announceTimeout port => Sys2Proof.Machine.execAnnounceTimeout port s
  | .ppsEdge offsetNs => Sys2Proof.Machine.execPpsEdge offsetNs s
  | .stgCfgNextApply value => Sys2Proof.Machine.execStgCfgNextApply value s
  | .stgEventsClr value => Sys2Proof.Machine.execStgEventsClr value s
  | .offline cluster value => Sys2Proof.Machine.execOffline cluster value s
  | .registerWrite addr value => Sys2Proof.Machine.execRegisterWrite addr value s
  -- the instructions of the compute cores
  | .intAdd c f => Sys2Proof.Machine.execIntAdd c f s
  | .intSub c f => Sys2Proof.Machine.execIntSub c f s
  | .intMul c f => Sys2Proof.Machine.execIntMul c f s
  | .intMulh c f => Sys2Proof.Machine.execIntMulh c f s
  | .intMad c f => Sys2Proof.Machine.execIntMad c f s
  | .intAnd c f => Sys2Proof.Machine.execIntAnd c f s
  | .intOr c f => Sys2Proof.Machine.execIntOr c f s
  | .intXor c f => Sys2Proof.Machine.execIntXor c f s
  | .intShl c f => Sys2Proof.Machine.execIntShl c f s
  | .intShr c f => Sys2Proof.Machine.execIntShr c f s
  | .intSar c f => Sys2Proof.Machine.execIntSar c f s
  | .intMin c f => Sys2Proof.Machine.execIntMin c f s
  | .intMax c f => Sys2Proof.Machine.execIntMax c f s
  | .sel c f => Sys2Proof.Machine.execSel c f s
  | .cmp c f => Sys2Proof.Machine.execCmp c f s
  | .mov c f => Sys2Proof.Machine.execMov c f s
  | .popc c f => Sys2Proof.Machine.execPopc c f s
  | .clz c f => Sys2Proof.Machine.execClz c f s
  | .ld c f => Sys2Proof.Machine.execLd c f s
  | .st c f => Sys2Proof.Machine.execSt c f s
  | .dead c f => Sys2Proof.Machine.execDead c f s
  | .atAdd c f => Sys2Proof.Machine.execAtAdd c f s
  | .fadd32 c f => Sys2Proof.Machine.execFadd32 c f s
  | .atMin c f => Sys2Proof.Machine.execAtMin c f s
  | .atMax c f => Sys2Proof.Machine.execAtMax c f s
  | .atAnd c f => Sys2Proof.Machine.execAtAnd c f s
  | .atOr c f => Sys2Proof.Machine.execAtOr c f s
  | .atXor c f => Sys2Proof.Machine.execAtXor c f s
  | .xchg c f => Sys2Proof.Machine.execXchg c f s
  | .cas c f => Sys2Proof.Machine.execCas c f s
  | .cpyIn c f => Sys2Proof.Machine.execCpyIn c f s
  | .nop c f => Sys2Proof.Machine.execNop c f s
  | .bra c f => Sys2Proof.Machine.execBra c f s
  | .brx c f => Sys2Proof.Machine.execBrx c f s
  | .exit c f => Sys2Proof.Machine.execExit c f s
  | .waitc c f => Sys2Proof.Machine.execWaitc c f s
  | .arv c f => Sys2Proof.Machine.execArv c f s
  | .trap c f => Sys2Proof.Machine.execTrap c f s
  | .shfl c f => Sys2Proof.Machine.execShfl c f s
  | .vote c f => Sys2Proof.Machine.execVote c f s
  | .ballot c f => Sys2Proof.Machine.execBallot c f s
  | .mma c f => Sys2Proof.Machine.execMma c f s
  | .mld c f => Sys2Proof.Machine.execMld c f s
  | .mrd c f => Sys2Proof.Machine.execMrd c f s
  | .vop c f => Sys2Proof.Machine.execVop c f s
  -- what the units of a core do after an instruction has issued
  | .splitTimeout c => Sys2Proof.Machine.execSplitTimeout c s
  | .copyDelivery cluster req sector => Sys2Proof.Machine.execCopyDelivery cluster req sector s
  | .l1MissFill cluster core => Sys2Proof.Machine.execL1MissFill cluster core s
  | .mxOpComplete cluster core => Sys2Proof.Machine.execMxOpComplete cluster core s
  | .vopComplete cluster core => Sys2Proof.Machine.execVopComplete cluster core s
  -- the coherence homes
  | .homeRead r addr sectors => Sys2Proof.Machine.execHomeRead r addr sectors s
  | .homeWrite r addr enables data => Sys2Proof.Machine.execHomeWrite r addr enables data s
  | .homeAtomic r op width64 addr operands => Sys2Proof.Machine.execHomeAtomic r op width64 addr operands s
  | .homeDeadHint r addr => Sys2Proof.Machine.execHomeDeadHint r addr s
  | .evictionWriteback home => Sys2Proof.Machine.execEvictionWriteback home s
  | .snoopAnswer home line die => Sys2Proof.Machine.execSnoopAnswer home line die s
  | .coherenceTimeout home line => Sys2Proof.Machine.execCoherenceTimeout home line s
  | .homeFlushDone home => Sys2Proof.Machine.execHomeFlushDone home s
  -- the memory controllers and the links
  | .wcbWrite addr enables data => Sys2Proof.Machine.execWcbWrite addr enables data s
  | .wcbIdleDrain stack line => Sys2Proof.Machine.execWcbIdleDrain stack line s
  | .memRead addr err copyErr ifFails => Sys2Proof.Machine.execMemRead addr err copyErr ifFails s
  | .phyRetrainDone stack ok => Sys2Proof.Machine.execPhyRetrainDone stack ok s
  | .refresh stack pc bank => Sys2Proof.Machine.execRefresh stack pc bank s
  | .tempRead stack tempC => Sys2Proof.Machine.execTempRead stack tempC s
  | .patrolScrub stack err copyErr => Sys2Proof.Machine.execPatrolScrub stack err copyErr s
  | .mirrorLineCopy base => Sys2Proof.Machine.execMirrorLineCopy base s
  | .sramScrub word err => Sys2Proof.Machine.execSramScrub word err s
  | .linkResend link lane e => Sys2Proof.Machine.execLinkResend link lane e s
  | .linkTrainingFail link => Sys2Proof.Machine.execLinkTrainingFail link s
  -- the Innkeeper and its pigeonholes
  | .sealWrite ph slot width value => Sys2Proof.Machine.execSealWrite ph slot width value s
  | .accept ph => Sys2Proof.Machine.execAccept ph s
  | .dispatch => Sys2Proof.Machine.execDispatch s
  | .agingPromotion cmd => Sys2Proof.Machine.execAgingPromotion cmd s
  | .completionRecord cmd => Sys2Proof.Machine.execCompletionRecord cmd s
  | .cqCtl ph width value => Sys2Proof.Machine.execCqCtl ph width value s
  | .lockstepMismatch => Sys2Proof.Machine.execLockstepMismatch s
  | .innkeeperRestartDone => Sys2Proof.Machine.execInnkeeperRestartDone s
  -- the commands of the command set, each on an entry of the command table
  | .deviceIdent cmd => Sys2Proof.Machine.execDeviceIdent cmd s
  | .deviceCaps cmd => Sys2Proof.Machine.execDeviceCaps cmd s
  | .clusterOffline cmd => Sys2Proof.Machine.execClusterOffline cmd s
  | .timeStatus cmd => Sys2Proof.Machine.execTimeStatus cmd s
  | .stageConfig cmd => Sys2Proof.Machine.execStageConfig cmd s
  | .itineraryLoad cmd => Sys2Proof.Machine.execItineraryLoad cmd s
  | .itineraryEvict cmd => Sys2Proof.Machine.execItineraryEvict cmd s
  | .itineraryQuery cmd => Sys2Proof.Machine.execItineraryQuery cmd s
  | .stageBind cmd => Sys2Proof.Machine.execStageBind cmd s
  | .stageUnbind cmd => Sys2Proof.Machine.execStageUnbind cmd s
  | .jobPrepare cmd => Sys2Proof.Machine.execJobPrepare cmd s
  | .jobConfirm cmd => Sys2Proof.Machine.execJobConfirm cmd s
  | .jobStop cmd => Sys2Proof.Machine.execJobStop cmd s
  | .jobAwait cmd => Sys2Proof.Machine.execJobAwait cmd s
  | .jobStatus cmd => Sys2Proof.Machine.execJobStatus cmd s
  | .regionMap cmd => Sys2Proof.Machine.execRegionMap cmd s
  | .regionUnmap cmd => Sys2Proof.Machine.execRegionUnmap cmd s
  | .regionSeal cmd => Sys2Proof.Machine.execRegionSeal cmd s
  | .regionMirror cmd => Sys2Proof.Machine.execRegionMirror cmd s
  | .regionPin cmd => Sys2Proof.Machine.execRegionPin cmd s
  | .regionUnpin cmd => Sys2Proof.Machine.execRegionUnpin cmd s
  | .regionQuery cmd => Sys2Proof.Machine.execRegionQuery cmd s
  | .porterCopy cmd => Sys2Proof.Machine.execPorterCopy cmd s
  | .porterFill cmd => Sys2Proof.Machine.execPorterFill cmd s
  | .porterPush cmd => Sys2Proof.Machine.execPorterPush cmd s
  | .porterPull cmd => Sys2Proof.Machine.execPorterPull cmd s
  | .guestOpen cmd => Sys2Proof.Machine.execGuestOpen cmd s
  | .guestClose cmd => Sys2Proof.Machine.execGuestClose cmd s
  | .guestWindow cmd => Sys2Proof.Machine.execGuestWindow cmd s
  | .powerCap cmd => Sys2Proof.Machine.execPowerCap cmd s
  | .coolantTarget cmd => Sys2Proof.Machine.execCoolantTarget cmd s
  | .energyRead cmd => Sys2Proof.Machine.execEnergyRead cmd s
  | .ledgerRead cmd => Sys2Proof.Machine.execLedgerRead cmd s
  | .faultRead cmd => Sys2Proof.Machine.execFaultRead cmd s
  | .fwStage cmd => Sys2Proof.Machine.execFwStage cmd s
  | .fwCommit cmd => Sys2Proof.Machine.execFwCommit cmd s
  | .fwStatus cmd => Sys2Proof.Machine.execFwStatus cmd s
  | .attestQuote cmd => Sys2Proof.Machine.execAttestQuote cmd s
  -- the network engine
  | .data p => Sys2Proof.Machine.execData p s
  | .ack p a => Sys2Proof.Machine.execAck p a s
  | .nak p code => Sys2Proof.Machine.execNak p code s
  | .read p target len => Sys2Proof.Machine.execRead p target len s
  | .readResp p => Sys2Proof.Machine.execReadResp p s
  | .hello m => Sys2Proof.Machine.execHello m s
  | .prepare m => Sys2Proof.Machine.execPrepare m s
  | .prepAck m => Sys2Proof.Machine.execPrepAck m s
  | .confirm m => Sys2Proof.Machine.execConfirm m s
  | .abandon m => Sys2Proof.Machine.execAbandon m s
  | .rollback m => Sys2Proof.Machine.execRollback m s
  | .rollbackAck m => Sys2Proof.Machine.execRollbackAck m s
  | .restart m => Sys2Proof.Machine.execRestart m s
  | .rtoExpiry conn psn => Sys2Proof.Machine.execRtoExpiry conn psn s
  | .ackTimer conn => Sys2Proof.Machine.execAckTimer conn s
  | .ackWaitExpiry job => Sys2Proof.Machine.execAckWaitExpiry job s
  | .rdmaWrite p => Sys2Proof.Machine.execRdmaWrite p s
  | .rdmaWriteWithImmediate p => Sys2Proof.Machine.execRdmaWriteWithImmediate p s
  | .rdmaReadRequest p => Sys2Proof.Machine.execRdmaReadRequest p s
  | .rdmaReadResponse p => Sys2Proof.Machine.execRdmaReadResponse p s
  | .acknowledgement p a => Sys2Proof.Machine.execAcknowledgement p a s
  | .cnp qpn port => Sys2Proof.Machine.execCnp qpn port s
  | .localAckTimeout guest => Sys2Proof.Machine.execLocalAckTimeout guest s
  | .rateIncrease guest => Sys2Proof.Machine.execRateIncrease guest s
  | .transportTimeout guest => Sys2Proof.Machine.execTransportTimeout guest s
  | .portLinkDown port => Sys2Proof.Machine.execPortLinkDown port s
  | .portRetrainDone port => Sys2Proof.Machine.execPortRetrainDone port s
  | .arp port ip => Sys2Proof.Machine.execArp port ip s
  | .neighborDiscovery port ip => Sys2Proof.Machine.execNeighborDiscovery port ip s
  | .icmpEcho port ip payload => Sys2Proof.Machine.execIcmpEcho port ip payload s
  | .pfcFrame port prio pause => Sys2Proof.Machine.execPfcFrame port prio pause s
  | .unusedFrame port => Sys2Proof.Machine.execUnusedFrame port s
  | .flit f => Sys2Proof.Machine.execFlit f s
  -- the porters
  | .chunk porter e => Sys2Proof.Machine.execChunk porter e s
  | .descriptorComplete porter leg index => Sys2Proof.Machine.execDescriptorComplete porter leg index s
  -- the processor complex
  | .hartAccess a => Sys2Proof.Machine.execHartAccess a s
  | .mxctlRestart hart => Sys2Proof.Machine.execMxctlRestart hart s
  | .mxfreqWrite hart value => Sys2Proof.Machine.execMxfreqWrite hart value s
  | .freqChangeDone die => Sys2Proof.Machine.execFreqChangeDone die s
  -- power, heat and coolant
  | .throttleEvaluation t => Sys2Proof.Machine.execThrottleEvaluation t s
  | .telemLost => Sys2Proof.Machine.execTelemLost s
  | .capUnmet => Sys2Proof.Machine.execCapUnmet s
  | .valveEvaluation r => Sys2Proof.Machine.execValveEvaluation r s
  | .warningTimer w => Sys2Proof.Machine.execWarningTimer w s
  | .criticalTrip x => Sys2Proof.Machine.execCriticalTrip x s
  | .platformEventRetry => Sys2Proof.Machine.execPlatformEventRetry s
  | .powerDomainFault f => Sys2Proof.Machine.execPowerDomainFault f s
  | .clusterHalfPowerOff half => Sys2Proof.Machine.execClusterHalfPowerOff half s
  | .clusterHalfPowerOn half => Sys2Proof.Machine.execClusterHalfPowerOn half s
  -- the module interface
  | .pwrEnRise => Sys2Proof.Machine.execPwrEnRise s
  | .pwrEnHoldoff => Sys2Proof.Machine.execPwrEnHoldoff s
  | .pwrGood => Sys2Proof.Machine.execPwrGood s
  | .powerGoodTimeout => Sys2Proof.Machine.execPowerGoodTimeout s
  | .releaseInstant slotId => Sys2Proof.Machine.execReleaseInstant slotId s
  | .innkeeperReady => Sys2Proof.Machine.execInnkeeperReady s
  | .innkReadyTimeout => Sys2Proof.Machine.execInnkReadyTimeout s
  | .pwrEnFall => Sys2Proof.Machine.execPwrEnFall s
  | .moduleReset lowNs => Sys2Proof.Machine.execModuleReset lowNs s
  | .vinShutdown vinMv durNs => Sys2Proof.Machine.execVinShutdown vinMv durNs s
  | .currentLimit durNs => Sys2Proof.Machine.execCurrentLimit durNs s
  | .refclkLoss durNs => Sys2Proof.Machine.execRefclkLoss durNs s
  -- the management sideband
  | .entdaa addr => Sys2Proof.Machine.execEntdaa addr s
  | .setdasa static addr => Sys2Proof.Machine.execSetdasa static addr s
  | .setnewda addr => Sys2Proof.Machine.execSetnewda addr s
  | .rstdaa => Sys2Proof.Machine.execRstdaa s
  | .enec => Sys2Proof.Machine.execEnec s
  | .disec => Sys2Proof.Machine.execDisec s
  | .getpid => Sys2Proof.Machine.execGetpid s
  | .getbcr => Sys2Proof.Machine.execGetbcr s
  | .getdcr => Sys2Proof.Machine.execGetdcr s
  | .getstatus => Sys2Proof.Machine.execGetstatus s
  | .getmrl => Sys2Proof.Machine.execGetmrl s
  | .getmwl => Sys2Proof.Machine.execGetmwl s
  | .setmrl n => Sys2Proof.Machine.execSetmrl n s
  | .setmwl n => Sys2Proof.Machine.execSetmwl n s
  | .setEndpointId eid => Sys2Proof.Machine.execSetEndpointId eid s
  | .getEndpointId => Sys2Proof.Machine.execGetEndpointId s
  | .getEndpointUuid => Sys2Proof.Machine.execGetEndpointUuid s
  | .getMctpVersionSupport => Sys2Proof.Machine.execGetMctpVersionSupport s
  | .getMessageTypeSupport => Sys2Proof.Machine.execGetMessageTypeSupport s
  | .messageDropped a => Sys2Proof.Machine.execMessageDropped a s
  | .getTid => Sys2Proof.Machine.execGetTid s
  | .setTid tid => Sys2Proof.Machine.execSetTid tid s
  | .getPldmTypes => Sys2Proof.Machine.execGetPldmTypes s
  | .getPldmCommands type => Sys2Proof.Machine.execGetPldmCommands type s
  | .getPldmVersion type => Sys2Proof.Machine.execGetPldmVersion type s
  | .setEventReceiver eid => Sys2Proof.Machine.execSetEventReceiver eid s
  | .getPdrRepositoryInfo => Sys2Proof.Machine.execGetPdrRepositoryInfo s
  | .getPdr record => Sys2Proof.Machine.execGetPdr record s
  | .getSensorReading sensor => Sys2Proof.Machine.execGetSensorReading sensor s
  | .getStateSensorReadings sensor => Sys2Proof.Machine.execGetStateSensorReadings sensor s
  | .queryDeviceIdentifiers => Sys2Proof.Machine.execQueryDeviceIdentifiers s
  | .getFirmwareParameters => Sys2Proof.Machine.execGetFirmwareParameters s
  | .requestUpdate => Sys2Proof.Machine.execRequestUpdate s
  | .passComponentTable component => Sys2Proof.Machine.execPassComponentTable component s
  | .updateComponent u => Sys2Proof.Machine.execUpdateComponent u s
  | .firmwareData offset bytes => Sys2Proof.Machine.execFirmwareData offset bytes s
  | .transferComplete ok => Sys2Proof.Machine.execTransferComplete ok s
  | .verifyComplete => Sys2Proof.Machine.execVerifyComplete s
  | .applyComplete => Sys2Proof.Machine.execApplyComplete s
  | .activateFirmware => Sys2Proof.Machine.execActivateFirmware s
  | .pldmGetStatus => Sys2Proof.Machine.execPldmGetStatus s
  | .cancelUpdateComponent => Sys2Proof.Machine.execCancelUpdateComponent s
  | .cancelUpdate => Sys2Proof.Machine.execCancelUpdate s
  | .updateModeTimeout => Sys2Proof.Machine.execUpdateModeTimeout s
  | .getVersion => Sys2Proof.Machine.execGetVersion s
  | .getCapabilities => Sys2Proof.Machine.execGetCapabilities s
  | .negotiateAlgorithms baseAsym baseHash => Sys2Proof.Machine.execNegotiateAlgorithms baseAsym baseHash s
  | .getDigests => Sys2Proof.Machine.execGetDigests s
  | .getCertificate slot offset length => Sys2Proof.Machine.execGetCertificate slot offset length s
  | .challenge slot nonce => Sys2Proof.Machine.execChallenge slot nonce s
  | .getMeasurements index nonce => Sys2Proof.Machine.execGetMeasurements index nonce s
  | .regRead addr => Sys2Proof.Machine.execRegRead addr s
  | .sidebandFaultRead seq count => Sys2Proof.Machine.execSidebandFaultRead seq count s
  | .cfgSet addr value persist => Sys2Proof.Machine.execCfgSet addr value persist s
  | .dbgUnlock t => Sys2Proof.Machine.execDbgUnlock t s
  | .dmi target write addr data => Sys2Proof.Machine.execDmi target write addr data s
  | .clHalt cluster halt => Sys2Proof.Machine.execClHalt cluster halt s
  | .dbgRead space cluster addr len => Sys2Proof.Machine.execDbgRead space cluster addr len s
  | .fuse r => Sys2Proof.Machine.execFuse r s
  -- the rows at the end of the table
  | .errBoundExceeded bound => Sys2Proof.Machine.execErrBoundExceeded bound s
  | .ppsFallingEdge highNs => Sys2Proof.Machine.execPpsFallingEdge highNs s
  | .l2HalfLoss home => Sys2Proof.Machine.execL2HalfLoss home s
  | .platformEventAcknowledged => Sys2Proof.Machine.execPlatformEventAcknowledged s
  | .unsupportedRequest u => Sys2Proof.Machine.execUnsupportedRequest u s
  | .unsupportedOpcode port src q => Sys2Proof.Machine.execUnsupportedOpcode port src q s

end Sys2Proof.Machine
end

