-- ==== Sys2Proof/Safety.lean ====
section
/-! DEFINITION. The vocabulary of the claims: the invariant every step keeps, what an instruction of a core may leave
unchanged, and what it takes for an instruction to have its own effect. -/

namespace Sys2Proof.Machine

/-- The canonical form of device memory: addresses strictly rising, no entry equal to what an unlisted address reads as. -/
def Memory.wf (m : List Host.Cell) : Bool := tabWf 0#8 m

/-- A list that counts down without a gap from the number below n. -/
def countDown : Nat → List Nat → Bool
  | _, [] => true
  | 0, _ :: _ => false
  | n + 1, x :: t => decide (x = n) && countDown n t

/-- The sequence number of a ledger record (R273). -/
def LedgerRec.seqOf : LedgerRec → Nat
  | .bell b => b.seq
  | .leg r => r.seq

/-- The invariant of the machine: device memory and its check bytes are kept in canonical form; the error log holds at most
16384 records whose sequence numbers have no gap (R473); the ledger holds at most 65536 records whose sequence numbers have no gap
(R273). -/
structure Inv (s : State) : Prop where
  mem : Memory.wf s.mem = true
  chk : tabWf 0#32 s.chkXor = true
  errLen : s.errs.length ≤ errLogSize
  errSeq : countDown s.errSeq (s.errs.map (·.seq)) = true
  recLen : s.ldg.records.length ≤ 65536
  recSeq : countDown s.ldg.next (s.ldg.records.map LedgerRec.seqOf) = true

/-- The caravan in a slot of a core. -/
def caravanIn (s : State) (c : CoreSlot) : Option Caravan := (getCore s c.cluster c.core).slot c.slot

/-- A register of a thread, its program counter and its predicates, as they stand in a slot. -/
def regIn (s : State) (c : CoreSlot) (th n : Nat) : BitVec 32 := match caravanIn s c with | some k => k.reg th n | none => 0#32
def pcIn (s : State) (c : CoreSlot) (th : Nat) : BitVec 40 := match caravanIn s c with | some k => (k.thread th).pc | none => 0#40
def predIn (s : State) (c : CoreSlot) (th p : Nat) : Bool := match caravanIn s c with | some k => k.predOf th p | none => false
def exitedIn (s : State) (c : CoreSlot) (th : Nat) : Bool := match caravanIn s c with | some k => (k.thread th).exited | none => true

/-- Nothing outside the caravan in a slot has changed (the count of free values drawn, and the core's note of the slot that issued last,
apart): no memory, no other cluster, core or slot, nothing else of the core. -/
structure OnlyCaravan (c : CoreSlot) (s t : State) : Prop where
  rest : { t with clusters := s.clusters, freeCtr := s.freeCtr } = s
  clusters : ∀ id, id ≠ c.cluster → getCluster t id = getCluster s id
  cluster : { getCluster t c.cluster with cores := (getCluster s c.cluster).cores } = getCluster s c.cluster
  cores : ∀ n, n ≠ c.core → getCore t c.cluster n = getCore s c.cluster n
  core : { getCore t c.cluster c.core with slots := (getCore s c.cluster c.core).slots, last := (getCore s c.cluster c.core).last } =
    getCore s c.cluster c.core
  slots : ∀ k, k ≠ c.slot → (getCore t c.cluster c.core).slot k = (getCore s c.cluster c.core).slot k

/-- The registers, and the predicates, of the threads of a slot are as before. -/
def SameRegs (c : CoreSlot) (s t : State) : Prop := ∀ th n, th < 32 → regIn t c th n = regIn s c th n
def SamePreds (c : CoreSlot) (s t : State) : Prop := ∀ th p, predIn t c th p = predIn s c th p

/-- The active threads of an issue have gone on to the next instruction; every other thread is where it was, and no thread has
exited. -/
def Advanced (i : Issue) (s t : State) : Prop :=
  ∀ th, pcIn t i.at_ th = (if i.act.getLsbD th then i.pc + 8#40 else pcIn s i.at_ th) ∧ exitedIn t i.at_ th = exitedIn s i.at_ th

/-- What an exception of a core that had not halted leaves (R97, R99, R100, R102): the core halted; the first exception's cause, slot,
threads, instruction and address recorded, MORE as it stood, or MORE set beside what an earlier one recorded; every other slot, the
registers and predicates of the slot's own caravan, device memory and the region map as they were, and the whole of every slot but where
another instruction issues in the same cycle (log 11); one stage fault counted. -/
structure Excepts (c : CoreSlot) (pc : BitVec 40) (cause : Nat) (ths : BitVec 32) (addr : Word) (s t : State) : Prop where
  halted : (getCore t c.cluster c.core).halted = true
  first : (getCore s c.cluster c.core).exc.valid = 0#1 →
    (getCore t c.cluster c.core).exc = { valid := 1#1, more := (getCore s c.cluster c.core).exc.more, cause := BitVec.ofNat 8 cause, slot := BitVec.ofNat 4 c.slot, threads := ths } ∧
    (getCore t c.cluster c.core).excPc = pc ∧ (getCore t c.cluster c.core).excAddr = addr
  later : (getCore s c.cluster c.core).exc.valid = 1#1 →
    (getCore t c.cluster c.core).exc = { (getCore s c.cluster c.core).exc with more := 1#1 } ∧
    (getCore t c.cluster c.core).excPc = (getCore s c.cluster c.core).excPc ∧
    (getCore t c.cluster c.core).excAddr = (getCore s c.cluster c.core).excAddr
  slots : ∀ k, k ≠ c.slot → (getCore t c.cluster c.core).slot k = (getCore s c.cluster c.core).slot k
  regs : SameRegs c s t
  preds : SamePreds c s t
  alone : (getCore t c.cluster c.core).tie ≠ 2 → (getCore t c.cluster c.core).slots = (getCore s c.cluster c.core).slots
  mem : t.mem = s.mem
  regions : t.regions = s.regions
  fault : t.ldg.faultCount = s.ldg.faultCount + 1

/-- Nothing outside the clusters has changed (the count of free values drawn apart). -/
def OnlyClusters (s t : State) : Prop := { t with clusters := s.clusters, freeCtr := s.freeCtr } = s

/-- An instruction executed per thread has its own effect: a thread executes it, its encoding and its registers pass (R85), no
register it uses waits for a queued result (R74) and no source is poisoned (R97). -/
def ClearThreads (i : Issue) (illegal : Bool) (uses : List OpUse) (zero : List (BitVec 8)) (s : State) : Prop :=
  i.exe ≠ 0#32 ∧ checkInsn i.car i.f illegal uses zero = none ∧ regsBusy i uses s = false ∧ (poisonReaders i i.exe uses).1 = 0#32

/-- An instruction executed once for its group has its own effect (R67): the same with the leader's operands. -/
def ClearGroup (i : Issue) (illegal : Bool) (uses : List OpUse) (zero : List (BitVec 8)) (s : State) : Prop :=
  i.exe ≠ 0#32 ∧ checkInsn i.car i.f illegal uses zero = none ∧ regsBusy i uses s = false ∧
  (poisonReaders i (maskBit 32 i.leader) uses).1 = 0#32

/-- No chain operation of the caravan waits (R185). -/
def ChainDone (i : Issue) (s : State) : Prop :=
  (getCore s i.at_.cluster i.at_.core).vcq.any (fun j => j.slot == i.at_.slot) = false

/-- Nothing outside one home (the count of free values drawn apart), or one memory controller, has changed. -/
def OnlyHome (n : Nat) (s t : State) : Prop := { t with homes := s.homes, freeCtr := s.freeCtr } = s ∧ ∀ m, m ≠ n → getHome t m = getHome s m
def OnlyCtl (n : Nat) (s t : State) : Prop := { t with ctls := s.ctls } = s ∧ ∀ m, m ≠ n → getCtl t m = getCtl s m

/-- A home holds a line, with no copy of it outside and none in its eviction buffer. -/
def HoldsAlone (s : State) (n l : Nat) (x : Line) : Prop :=
  (getHome s n).line l = some x ∧ x.sectors.length = 4 ∧ (getHome s n).dirOf l = .invalid ∧
  (∀ e ∈ (getHome s n).evb, e.line ≠ l) ∧ (getHome s (otherHalf n)).line l = none

/-- A write inside one 32-byte word of device memory is performed at its home at once (R202, R203, R219, R253): the word has a home in service,
which holds its sector valid and its line alone, nothing that the write needs retrains, no earlier store of the requester to the line was
completed by a timeout, and a write-through finds room in the write-combining buffers. -/
structure WriteReady (r : Requester) (a : Nat) (rg : Region) (x : Line) (s : State) : Prop where
  homes : usable s (a / 32 * 32) = some rg ∧ usable s (a / 8 * 8) = some rg ∧ usable s (lineOf a * 128) = some rg
  ready : memWaits s rg (lineOf a) true = false
  line : HoldsAlone s (rg.home (a / 32 * 32)) (lineOf a) x
  sector : (secAt x.sectors (a / 32 % 4)).valid = true
  done : isVoided s r (lineOf a) = false
  room : rg.policy = 1 → ∀ b, b = rg.memAddr a ∨ b = copyAddr (rg.memAddr a) →
    (getCtl s (stackOf b)).entry (lineOf b) = none ∧ (getCtl s (stackOf b)).wcb.length + 1 < min 64 (getCtl s (stackOf b)).cfgEff.wcbHigh.toNat

/-- The home of a 32-byte word holds bytes at an offset in it; device memory, the regions, the clusters and the ledger's records are as they
were. -/
def WordWritten (a : Nat) (rg : Region) (bs : List Byte) (s t : State) : Prop :=
  (∃ y, (getHome t (rg.home (a / 32 * 32))).line (lineOf a) = some y ∧
    ∀ b, b < bs.length → byteOf (secAt y.sectors (a / 32 % 4)).data (a % 32 + b) = bs.getD b 0#8) ∧
  t.mem = s.mem ∧ t.regions = s.regions ∧ t.clusters = s.clusters ∧ t.ldg.records = s.ldg.records

/-- A guest's RoCEv2 queue pair has nothing queued and a port in service. -/
structure IdleRoce (g : Nat) (q : Qp) (e : Endpoint) (s : State) : Prop where
  kind : (getGuest s g).transport = some .roce ∧ (getGuest s g).conn = none
  qp : (getGuest s g).qp = some q ∧ q.queue = []
  endpoint : (getGuest s g).endpoint = some e
  port : portUp s e.port = true

/-- A guest's Relay connection is open, has nothing queued, and has room in its window and in the queue of a port. -/
structure IdleRelay (g k : Nat) (n : Conn) (port : Nat) (s : State) : Prop where
  kind : (getGuest s g).transport = some .relay ∧ (getGuest s g).conn = some k
  conn : getConn s k = some n
  opened : n.opened = true
  empty : n.queue = [] ∧ n.ctrlq = []
  window : n.unacked.length < n.window
  port : pickPort s n.peer n.nextPort = some port

/-- The output buffer of a guest's command goes to the guest; the command waits for the acknowledgement (R341). -/
structure BufferSent (id g : Nat) (c : Cmd) (len res : Nat) (s t : State) : Prop where
  cmd : getCmd t id = some { c with phase := .waiting, status := stOk, result := BitVec.ofNat 64 res }
  others : ∀ k, k ≠ id → getCmd t k = getCmd s k
  flow : ∃ f ∈ t.net.flows, f.owner = .buffer id ∧ f.total = len ∧ f.guest = some g ∧ f.flush = c.flush
  rest : t.mem = s.mem ∧ t.innk.phs = s.innk.phs

/-- A command has completed with a status and a RESULT (R329); it is in no class queue; nothing else has changed. -/
structure CmdDone (id : Nat) (st : BitVec 16) (res : Nat) (s t : State) : Prop where
  cmd : ∃ c, getCmd s id = some c ∧
    getCmd t id = some { c with phase := .done, status := st, result := BitVec.ofNat 64 res, doneAt := s.innk.doneCtr }
  others : ∀ k, k ≠ id → getCmd t k = getCmd s k
  queues : t.innk.urgQ = s.innk.urgQ.filter (· != id) ∧ t.innk.normQ = s.innk.normQ.filter (· != id) ∧ t.innk.bulkQ = s.innk.bulkQ.filter (· != id)
  rest : { t with innk := { t.innk with
    cmds := s.innk.cmds, urgQ := s.innk.urgQ, normQ := s.innk.normQ, bulkQ := s.innk.bulkQ, doneCtr := s.innk.doneCtr } } = s

/-- A command has done its own work and waits (R327, R331); nothing else has changed. -/
structure CmdWaits (id : Nat) (s t : State) : Prop where
  cmd : ∃ c, getCmd s id = some c ∧ getCmd t id = some { c with phase := .waiting }
  others : ∀ k, k ≠ id → getCmd t k = getCmd s k
  rest : { t with innk := { t.innk with cmds := s.innk.cmds } } = s

/-- A command's effect has been decided and takes place at a Bell (R327, R343); nothing else has changed. -/
structure CmdDecided (id : Nat) (a : BellAct) (s t : State) : Prop where
  cmd : ∃ c, getCmd s id = some c ∧ getCmd t id = some { c with phase := .waiting }
  others : ∀ k, k ≠ id → getCmd t k = getCmd s k
  acts : t.innk.acts = s.innk.acts ++ [a]
  rest : { t with innk := { t.innk with cmds := s.innk.cmds, acts := s.innk.acts } } = s

/-- A piece of a porter command has entered the queue of the porter chosen (R324, R425): the command waits for it, or is queued again
for its next piece. -/
structure PieceQueued (id : Nat) (c : Cmd) (d : Desc) (more : Bool) (p : Nat) (s t : State) : Prop where
  cmd : getCmd t id = some { c with piece := c.piece + 1, outstanding := c.outstanding + 1, phase := if more then .queued else .waiting }
  others : ∀ k, k ≠ id → getCmd t k = getCmd s k
  queue : (getPorter t p).cmdQ = (getPorter s p).cmdQ ++ [d] ∧ (getPorter t p).legQ = (getPorter s p).legQ
  porters : ∀ q, q ≠ p → getPorter t q = getPorter s q
  again : more = true → id ∈ t.innk.urgQ ++ t.innk.normQ ++ t.innk.bulkQ
  rest : { t with innk := s.innk, porters := s.porters } = s

/-- Nothing outside the network engine has changed. -/
def OnlyNet (s t : State) : Prop := { t with net := s.net } = s

/-- A frame passes the checks on arrival (R378, R380, R382): at a port in service, with a good FCS and CRC, for an address and a UDP port of
this device, without a congestion mark. -/
structure FrameFits (n : Nat) (fcsOk crcOk : Bool) (ip : IpHdr) (dport : BitVec 16) (s : State) : Prop where
  port : portUp s n = true
  fcs : fcsOk = true
  crc : crcOk = true
  dst : addressed s n ip.v6 ip.dst = true
  udp : ip.dport = dport
  ce : ip.ce = false

/-- A Relay packet passes the checks of R382 on an open connection to the peer that its source address names. -/
structure RelayFits (p : RelayPkt) (c : Conn) (s : State) : Prop where
  frame : FrameFits p.port p.fcsOk p.crcOk p.ip s.net.cfgEff.relayUdp s
  conn : getConn s p.conn.toNat = some c
  opened : c.opened = true
  src : peerHas s c.peer p.ip.src = true

/-- A RoCEv2 packet passes the checks of R390 for a guest's queue pair. -/
structure RoceFits (p : RocePkt) (g : Nat) (q : Qp) (e : Endpoint) (s : State) : Prop where
  frame : FrameFits p.port true p.icrcOk p.ip 4791#16 s
  guest : qpGuest p.qpn = some g
  qp : (getGuest s g).qp = some q
  endpoint : (getGuest s g).endpoint = some e

/-- A CTRL message of a kind passes the checks of R382 and R385 on an open connection to its sender, new in the sequence, and the Innkeeper
takes it. -/
structure CtrlFits (kind : Nat) (m : CtrlMsg) (c : Conn) (s : State) : Prop where
  frame : FrameFits m.port m.fcsOk m.crcOk m.ip s.net.cfgEff.relayUdp s
  form : m.wellFormed kind = true
  conn : getConn s m.conn.toNat = some c
  opened : c.opened = true
  src : peerHas s c.peer m.ip.src = true
  peer : c.peer = .device m.sender
  fresh : c.seen m.psn.toNat = false
  innk : innkUp s = true

/-- A frame has joined the end of a port's transmit queue. -/
def FrameQueued (n : Nat) (f : TxFrame) (s t : State) : Prop := (getPort t n).txq = (getPort s n).txq ++ [f]

/-- A Relay packet of a connection, with the headers that R381 gives it, has joined the end of its port's transmit queue in a class (R395). -/
def RelayQueued (id cls : Nat) (p : Peer) (x : RelayTx) (s t : State) : Prop :=
  FrameQueued x.port { cls := cls, flow := .conn id cls, len := frameBytes (relayHdr s x.port p x.psn).v6 (8 + 32 + x.payload.length + 4)
                       msg := .relay { x with ip := relayHdr s x.port p x.psn } } s t

/-- A RoCEv2 packet of a guest's queue pair has joined the end of its port's transmit queue in a class (R393, R395). -/
def RoceQueued (g cls : Nat) (e : Endpoint) (op : RoceOp) (psn : Nat) (payload : List Byte) (s t : State) : Prop :=
  ∃ f x, FrameQueued e.port f s t ∧ f.cls = cls ∧ f.flow = .qp g ∧ f.msg = .roce x ∧ x.op = op ∧ x.qpn = e.qpn ∧ x.psn = psn ∧ x.payload = payload ∧
    x.dst = e.ip

/-- The last frame of some port's transmit queue is a Relay NAK with a code for a PSN of a connection (R386). -/
def NakLast (c : Conn) (psn : Nat) (code : Byte) (t : State) : Prop :=
  ∃ n f x, (getPort t n).txq.getLast? = some f ∧ f.msg = .relay x ∧ x.type = 3 ∧ x.conn = c.remoteId ∧ x.psn = psn ∧ x.payload = [code]

/-- An entry of a running leg issues now (R37): it is of the kind and has not issued, its offset from the Bell that started its leg has come, and
no earlier entry for its unit waits. -/
def IssuesNow (s : State) (k e kind : Nat) (i : Itin) (l : Leg) (en : Entry) : Prop :=
  entryDue s k e kind = some (i, l, en) ∧ l.begun + en.offset ≤ s.stg.upNs ∧ inTableOrder l e en = true

/-- The commands of the four kinds of entry. -/
def entryCommand (k e : Nat) : Nat → Instr
  | 1 => .launch k e
  | 2 => .move k e
  | 3 => .send k e
  | _ => .recv k e

/-- A connection can send nothing just now: no CTRL message waits, and its congestion window is full (R387). -/
def WindowFull (s : State) (id : Nat) (c : Conn) : Prop := getConn s id = some c ∧ c.ctrlq = [] ∧ c.window ≤ c.unacked.length

/-- A PTP message is the unit's (R414, R415): of its domain and transport, on a port in service that runs PTP. -/
def PtpFits (u : PtpUpdate) (s : State) : Prop :=
  ptpPort s u.port = true ∧ u.domain = s.net.ptp.domain ∧ u.transport = s.net.ptp.transport

/-- A message drives the servo: a one-step Sync, the Follow_Up of a Sync, or a Delay_Resp, on the port that the unit follows (R414). -/
def DrivesServo (u : PtpUpdate) (s : State) : Prop :=
  PtpFits u s ∧ activePort s = some u.port ∧
  (u.kind = .sync false ∨ (u.kind = .followUp ∧ (getPort s u.port).sync = true) ∨ u.kind = .delayResp)

/-- The engine holds nothing that waits to be sent. -/
def NothingToSend (s : State) : Prop :=
  (∀ id c, getConn s id = some c → c.queue = [] ∧ c.ctrlq = []) ∧ (∀ g q, (getGuest s g).qp = some q → q.queue = []) ∧ s.net.pacel.queue = []

/-- The sideband has answered, and nothing else has changed (the count of free values drawn apart). -/
def AnswersWith (r : SbResp) (s t : State) : Prop :=
  t.sb.resp = r ∧ { t with sb := { t.sb with resp := s.sb.resp }, freeCtr := s.freeCtr } = s

/-- The module is without power, with a state, and what stood in its volatile memories and registers is gone (R538 to R541). -/
structure PoweredOff (st : PowerState) (s t : State) : Prop where
  state : t.mdl.st = st
  good : t.mdl.pwrGood = false
  trip : t.mdl.thermTripN = true
  empty : t.mem = [] ∧ t.chkXor = [] ∧ t.regions = [] ∧ t.clusters = [] ∧ t.homes = [] ∧ t.itins = [] ∧ t.errs = [] ∧ t.ldg.records = []
  domains : t.pwr.domOn = 0#30
  kept : t.variant = s.variant ∧ t.sec.slots = s.sec.slots ∧ t.sb.persisted = s.sb.persisted ∧ t.pending = s.pending

/-- The command of an integer operation (R88). -/
def intCommand : IntOp → CoreSlot → Insn → Instr
  | .add, c, f => .intAdd c f
  | .sub, c, f => .intSub c f
  | .mul, c, f => .intMul c f
  | .mulh, c, f => .intMulh c f
  | .mad, c, f => .intMad c f
  | .and, c, f => .intAnd c f
  | .or, c, f => .intOr c f
  | .xor, c, f => .intXor c f
  | .shl, c, f => .intShl c f
  | .shr, c, f => .intShr c f
  | .sar, c, f => .intSar c f
  | .min, c, f => .intMin c f
  | .max, c, f => .intMax c f
  | .sel, c, f => .sel c f
  | .cmp, c, f => .cmp c f
  | .mov, c, f => .mov c f
  | .popc, c, f => .popc c f
  | .clz, c, f => .clz c f

/-- The command of an atomic operation (R90). -/
def atCommand : AtOp → CoreSlot → Insn → Instr
  | .add, c, f => .atAdd c f
  | .fadd32, c, f => .fadd32 c f
  | .min, c, f => .atMin c f
  | .max, c, f => .atMax c f
  | .and, c, f => .atAnd c f
  | .or, c, f => .atOr c f
  | .xor, c, f => .atXor c f
  | .xchg, c, f => .xchg c f
  | .cas, c, f => .cas c f

end Sys2Proof.Machine
end

