-- ==== Sys2Proof/Certificates/Slice0/Obligations.lean ====
section
/-! DEFINITION. The statements for the provers: what each command, and each kind of state, does by the rules of the spec. A statement
over states that no run reaches holds there too. Where a clause rests on a choice of the model, the log entry is named. -/

open Sys2Proof Sys2Proof.Machine

/-- R327: A step runs the command at the front of the queue on the rest of the queue, for every command and state. Choices and readings of
the model that it rests on: log 2. -/
def Obligations.StepRunsFrontCommand : Prop :=
  ∀ (c : Instr) (s : State), step { s with pending := c :: s.pending } = exec c s

/-- R273, R275, R473, R474: Every step keeps the invariant Inv, whatever command is at the front of the queue: device memory and its check
bytes in canonical form (the model's own form of memory), at most 16384 error records and 65536 ledger records, whose sequence numbers
count down without a gap from the next number. -/
def Obligations.StepKeepsInvariant : Prop :=
  ∀ (s t : State), Inv s → step s = .next t → Inv t

/-- R273, R473: The state right after reset has the invariant that every step keeps, and nothing waits in its queue. -/
def Obligations.ResetHasInvariant : Prop :=
  Inv State.reset ∧ State.reset.pending = []

/-- R54: A stage.config one of whose selected fields is invalid completes with ST_BAD_ARG and changes none of the fields. A stage length is
invalid that R18 does not permit, a commit window that R31 does not, a checkpoint period or a watchdog limit of 0; a length and a window
are judged together, the one not selected as it will stand. -/
def Obligations.InvalidConfigChangesNothing : Prop :=
  ∀ (id len win ckpt wdog mask : Nat) (c : Cmd) (s : State), atWork s id 0x0011 = some c → argsFit c [0x00FFFFFF03FF7FFF, 0xF] = true →
    len = bitsNat (c.arg 0) 0 15 → win = bitsNat (c.arg 0) 16 10 → ckpt = bitsNat (c.arg 0) 32 16 → wdog = bitsNat (c.arg 0) 48 8 → mask = c.num 1 →
    ((mask.testBit 0 = true ∧ mask.testBit 1 = true ∧ lenWinOk len win = false) ∨
     (mask.testBit 0 = true ∧ mask.testBit 1 = false ∧ lenWinOk len (cfgDecided s).winUs.toNat = false) ∨
     (mask.testBit 0 = false ∧ mask.testBit 1 = true ∧ lenWinOk (cfgDecided s).lenUs.toNat win = false) ∨
     (mask.testBit 2 = true ∧ ckpt = 0) ∨ (mask.testBit 3 = true ∧ wdog = 0)) →
    ∃ t d, exec (.stageConfig id) s = .next t ∧ getCmd t id = some d ∧ d.phase = .done ∧ d.status = stBadArg ∧
      (∀ k, k ≠ id → getCmd t k = getCmd s k) ∧ t.stg = s.stg ∧ { t with innk := s.innk } = s

/-- R368: A region.query completes with the word of the region that holds ADDR, field by field, and with 0 where ADDR is in no region. -/
def Obligations.RegionQueryWord : Prop :=
  ∀ (id : Nat) (c : Cmd) (s : State), atWork s id 0x0307 = some c → argsFit c [allBits] = true →
    ∃ t d, exec (.regionQuery id) s = .next t ∧ getCmd t id = some d ∧ d.phase = .done ∧ d.status = stOk ∧ { t with innk := s.innk } = s ∧
      (∀ r, regionAt s (c.num 0) = some r →
        d.result.extractLsb' 0 52 = BitVec.ofNat 52 r.base ∧ d.result.getLsbD 52 = r.ro ∧ d.result.extractLsb' 53 2 = BitVec.ofNat 2 r.policy ∧
        d.result.getLsbD 55 = r.bypass ∧ d.result.getLsbD 56 = r.keep ∧ d.result.getLsbD 57 = r.sealed ∧ d.result.getLsbD 58 = r.mirrored ∧
        d.result.extractLsb' 59 4 = 0#4 ∧ d.result.getLsbD 63 = true) ∧
      (regionAt s (c.num 0) = none → d.result = 0#64)

/-- R67, R68: The threads that an issuing instruction takes with it are the threads of its caravan that have neither exited nor parked and
stand at the lowest program counter any of them holds; those whose predicate lets them execute it. -/
def Obligations.IssuingGroupStandsLowest : Prop :=
  ∀ (c : CoreSlot) (f : Insn) (u : Nat) (s t : State) (i : Issue), issueAt c f u s = .go i t →
    ∃ k, caravanIn s c = some k ∧
      (∀ x ∈ k.threads, x.exited = false → x.parked = false → i.pc.toNat ≤ x.pc.toNat) ∧
      (∃ x ∈ k.threads, x.exited = false ∧ x.parked = false ∧ x.pc = i.pc) ∧
      (∀ th, i.act.getLsbD th = true ↔
        th < 32 ∧ (k.thread th).exited = false ∧ (k.thread th).parked = false ∧ (k.thread th).pc = i.pc) ∧
      (∀ th, i.exe.getLsbD th = true ↔
        i.act.getLsbD th = true ∧ (f.pred ≠ 15#4 → i.src.predOf th f.pred.toNat ≠ f.pn))

/-- R75, R86, R88: An INT operation other than CMP (INT_ADD, INT_SUB, INT_MUL, INT_MULH, INT_MAD, INT_AND, INT_OR, INT_XOR, INT_SHL,
INT_SHR, INT_SAR, INT_MIN, INT_MAX, SEL, MOV, POPC, CLZ) whose threads may execute it writes its result into DST of the executing
threads, a 32-bit form into the register DST, a 64-bit form into the pair DST, low half first, and DST = ZERO discards it; nothing else
of any register, predicate, slot, core or memory changes, and the group goes on to the next instruction. Choices and readings of the
model that it rests on: log 10. -/
def Obligations.IntegerResults : Prop :=
  (∀ (op : IntOp) (c : CoreSlot) (f : Insn) (s t0 : State) (i : Issue), op ≠ .cmp → intW f = false →
    issueAt c f unitInt s = .go i t0 → ClearThreads i (intIllegal op f) (intUses op f) (intZero op f) t0 →
    ∃ t, exec (intCommand op c f) s = .next t ∧ OnlyCaravan c s t ∧ SamePreds c s t ∧ Advanced i s t ∧
      ∀ th n, th < 32 → regIn t c th n =
        if i.exe.getLsbD th = true ∧ n = f.dst.toNat ∧ f.dst.toNat < 0x80 then
          intResult op (intU f) (intA32 op i th) (intB32 i th) (i.src32 th f.sc) (intSel i th)
        else regIn s c th n) ∧
  (∀ (op : IntOp) (c : CoreSlot) (f : Insn) (s t0 : State) (i : Issue), op ≠ .cmp → intW f = true →
    issueAt c f unitInt s = .go i t0 → ClearThreads i (intIllegal op f) (intUses op f) (intZero op f) t0 →
    ∃ t, exec (intCommand op c f) s = .next t ∧ OnlyCaravan c s t ∧ SamePreds c s t ∧ Advanced i s t ∧
      ∀ th n, th < 32 → regIn t c th n =
        if i.exe.getLsbD th = true ∧ n = f.dst.toNat ∧ f.dst.toNat < 0x80 then
          (intResult op (intU f) (intA64 op i th) (intB64 i th) (i.src64 th f.sc) (intSel i th)).extractLsb' 0 32
        else if i.exe.getLsbD th = true ∧ n = f.dst.toNat + 1 ∧ f.dst.toNat < 0x80 then
          (intResult op (intU f) (intA64 op i th) (intB64 i th) (i.src64 th f.sc) (intSel i th)).extractLsb' 32 32
        else regIn s c th n)

/-- R88: CMP writes one predicate of the executing threads, signed or unsigned, in either form. Choices and readings of the model that it
rests on: log 10. -/
def Obligations.CompareWritesPredicate : Prop :=
  ∀ (c : CoreSlot) (f : Insn) (s t0 : State) (i : Issue), issueAt c f unitInt s = .go i t0 →
    ClearThreads i (intIllegal .cmp f) (intUses .cmp f) (intZero .cmp f) t0 →
    ∃ t, exec (.cmp c f) s = .next t ∧ OnlyCaravan c s t ∧ SameRegs c s t ∧ Advanced i s t ∧
      ∀ th p, p < 15 → predIn t c th p =
        if i.exe.getLsbD th = true ∧ p = f.dst.toNat then
          (if intW f then intCond (intCC f) (intU f) (intA64 .cmp i th) (intB64 i th)
           else intCond (intCC f) (intU f) (intA32 .cmp i th) (intB32 i th))
        else predIn s c th p

/-- R88: What the results of the arithmetic that wraps, divides into halves, shifts and counts are as numbers. -/
def Obligations.IntegerArithmetic : Prop :=
  ∀ (w : Nat) (a b c : BitVec w) (sel : Bool), (w = 32 ∨ w = 64) →
    (∀ u, (intResult .add u a b c sel).toNat = (a.toNat + b.toNat) % 2 ^ w) ∧
    (∀ u, (intResult .sub u a b c sel).toInt = (a.toInt - b.toInt).bmod (2 ^ w)) ∧
    (∀ u, (intResult .mad u a b c sel).toNat = (a.toNat * b.toNat + c.toNat) % 2 ^ w) ∧
    ((intResult .mulh true a b c sel).toNat * 2 ^ w + (intResult .mul true a b c sel).toNat = a.toNat * b.toNat) ∧
    ((intResult .mulh false a b c sel).toInt * 2 ^ w + ((intResult .mul false a b c sel).toNat : Int) = a.toInt * b.toInt) ∧
    (∀ u, (intResult .shl u a b c sel).toNat = (a.toNat * 2 ^ (b.toNat % w)) % 2 ^ w) ∧
    (∀ u, (intResult .shr u a b c sel).toNat = a.toNat / 2 ^ (b.toNat % w)) ∧
    (∀ u, (intResult .sar u a b c sel).toInt = a.toInt / 2 ^ (b.toNat % w)) ∧
    ((intResult .min true a b c sel).toNat = min a.toNat b.toNat ∧ (intResult .min false a b c sel).toInt = min a.toInt b.toInt) ∧
    ((intResult .max true a b c sel).toNat = max a.toNat b.toNat ∧ (intResult .max false a b c sel).toInt = max a.toInt b.toInt) ∧
    (∀ u, intResult .sel u a b c sel = if sel then a else b) ∧
    (∀ u, (intResult .popc u a b c sel).toNat = ((List.range w).filter (fun k => a.getLsbD k)).length) ∧
    (∀ u k, (intResult .clz u a b c sel).toNat = k ↔ k ≤ w ∧ a.toNat < 2 ^ (w - k) ∧ (k < w → 2 ^ (w - k - 1) ≤ a.toNat))

/-- R78, R83, R89: LD from the cluster store: DST takes the bytes at each executing thread's offset, little-endian, widened to the registers
of the width, sign-extended where SX asks for it. ST to the cluster store: every byte that an executing thread stores holds the
highest-numbered such thread's value, and every other byte of the cluster store is as before; a 32-byte word written whole loses its
poison, any other keeps its mark. Choices and readings of the model that it rests on: log 3, 10. -/
def Obligations.ClusterStoreAccesses : Prop :=
  (∀ (c : CoreSlot) (f : Insn) (s t0 : State) (i : Issue), lsLocal f = true → issueAt c f unitLs s = .go i t0 →
    ClearThreads i (lsIllegal .ld f) (lsUses .ld f) (lsZero .ld f) t0 → ChainDone i t0 →
    (∀ th, i.exe.getLsbD th = true → localAddr i th % widthBytes (lsWidth f) = 0 ∧ localAddr i th < storeBytes ∧
      (getCluster s c.cluster).markAt (localAddr i th) = .clean) →
    ∃ t, exec (.ld c f) s = .next t ∧ OnlyCaravan c s t ∧ SamePreds c s t ∧ Advanced i s t ∧
      ∀ th n, th < 32 → regIn t c th n =
        if i.exe.getLsbD th = true ∧ f.dst.toNat < 0x80 ∧ f.dst.toNat ≤ n ∧ n < f.dst.toNat + widthRegs (lsWidth f) then
          (lsExtend (lsWidth f) (lsSx f) ((getCluster s c.cluster).bytes (localAddr i th) (widthBytes (lsWidth f)))).extractLsb'
            (32 * (n - f.dst.toNat)) 32
        else regIn s c th n) ∧
  (∀ (c : CoreSlot) (f : Insn) (s t0 : State) (i : Issue), lsLocal f = true → issueAt c f unitLs s = .go i t0 →
    ClearThreads i (lsIllegal .st f) (lsUses .st f) (lsZero .st f) t0 → ChainDone i t0 →
    (∀ th, i.exe.getLsbD th = true → localAddr i th % widthBytes (lsWidth f) = 0 ∧ localAddr i th < storeBytes) →
    ∃ t, exec (.st c f) s = .next t ∧ OnlyClusters s t ∧ SameRegs c s t ∧ SamePreds c s t ∧ Advanced i s t ∧
      (∀ id, id ≠ c.cluster → getCluster t id = getCluster s id) ∧
      (∀ a, tabGet 0#8 (getCluster t c.cluster).store a =
        match ((maskThreads i.exe).reverse).find? (fun th => decide (localAddr i th ≤ a ∧ a < localAddr i th + widthBytes (lsWidth f))) with
        | some th => byteOf (i.src128 th f.dst) (a - localAddr i th)
        | none => tabGet 0#8 (getCluster s c.cluster).store a) ∧
      (∀ w, tabGet .clean (getCluster t c.cluster).marks w =
        if (List.range 32).all (fun k => (maskThreads i.exe).any (fun th =>
            decide (localAddr i th ≤ 32 * w + k ∧ 32 * w + k < localAddr i th + widthBytes (lsWidth f)))) then .clean
        else tabGet .clean (getCluster s c.cluster).marks w))

/-- R89, R97, R98: A cluster-store access that an executing thread names misaligned, or beyond the store, raises its exception for the
lowest such thread's cause and has no other effect. Choices and readings of the model that it rests on: log 11. -/
def Obligations.ClusterStoreFaults : Prop :=
  ∀ (c : CoreSlot) (f : Insn) (s t0 : State) (i : Issue) (th cause : Nat), lsLocal f = true → issueAt c f unitLs s = .go i t0 →
    ChainDone i t0 → i.exe.getLsbD th = true → (∀ u, u < th → i.exe.getLsbD u = true → storeFault (localAddr i u) (widthBytes (lsWidth f)) = none) →
    ((localAddr i th % widthBytes (lsWidth f) ≠ 0 ∧ cause = cAlign) ∨
     (localAddr i th % widthBytes (lsWidth f) = 0 ∧ storeBytes ≤ localAddr i th ∧ cause = cStoreRange)) →
    (ClearThreads i (lsIllegal .ld f) (lsUses .ld f) (lsZero .ld f) t0 →
      ∃ t m, exec (.ld c f) s = .next t ∧ Excepts c i.pc cause m (BitVec.ofNat 64 (localAddr i th)) s t ∧ m.getLsbD th = true) ∧
    (ClearThreads i (lsIllegal .st f) (lsUses .st f) (lsZero .st f) t0 →
      ∃ t m, exec (.st c f) s = .next t ∧ Excepts c i.pc cause m (BitVec.ofNat 64 (localAddr i th)) s t ∧ m.getLsbD th = true)

/-- R85, R92, R97, R98, R99: An INT instruction whose encoding breaks a rule, or that names a register at or above the caravan's limit,
raises its exception in the executing threads; with no executing thread it only advances. A word of a reserved class or operation that
the integer unit meets raises ILLEGAL_INSN in the threads that execute it. A fetch outside the image's code region raises ADDR for the
active threads, here where an INT instruction or a NOP is to be fetched. Choices and readings of the model that it rests on: log 6, 11,
14. -/
def Obligations.CoreExceptions : Prop :=
  (∀ (op : IntOp) (c : CoreSlot) (f : Insn) (s t0 : State) (i : Issue), issueAt c f unitInt s = .go i t0 →
    (i.exe ≠ 0#32 → ∀ cause, checkInsn i.car f (intIllegal op f) (intUses op f) (intZero op f) = some cause →
      ∃ t, exec (intCommand op c f) s = .next t ∧ Excepts c i.pc cause i.exe 0#64 s t) ∧
    (i.exe = 0#32 → ∃ t, exec (intCommand op c f) s = .next t ∧ OnlyCaravan c s t ∧ SameRegs c s t ∧ SamePreds c s t ∧ Advanced i s t)) ∧
  (∀ (op : IntOp) (c : CoreSlot) (f : Insn) (s t0 : State) (i : Issue), issueAt c f unitInt s = .reserved i t0 → i.exe ≠ 0#32 →
    ∃ t, exec (intCommand op c f) s = .next t ∧ Excepts c i.pc cIllegalInsn i.exe 0#64 s t) ∧
  (∀ (op : IntOp) (c : CoreSlot) (f : Insn) (s : State) (pc : BitVec 40) (act : BitVec 32) (a : Nat),
    (issueAt c f unitInt s = .outside pc act a → ∃ t, exec (intCommand op c f) s = .next t ∧ Excepts c pc cAddr act (BitVec.ofNat 64 a) s t) ∧
    (issueAt c f unitCtl s = .outside pc act a → ∃ t, exec (.nop c f) s = .next t ∧ Excepts c pc cAddr act (BitVec.ofNat 64 a) s t))

/-- R68, R92, R97: NOP only advances. BRA sends the executing threads to the address of the instruction plus 8 times the sign-extended
IMM24, BRX each to the address in its own register pair; the active threads that do not execute go on past the instruction, no other
thread moves and none exits, and with L set the executing threads take the address of the next instruction into the pair DST, ZERO
discarding it. A BRX target that is no multiple of 8 raises ALIGN with the lowest such thread's target, for the threads that have one.
TRAP takes the TRAP exception. Choices and readings of the model that it rests on: log 11, 15. -/
def Obligations.ControlFlow : Prop :=
  ∀ (c : CoreSlot) (f : Insn) (s t0 : State) (i : Issue), issueAt c f unitCtl s = .go i t0 →
    (ClearThreads i (f.i || f.md != 0#6) [] (ctlZero f) t0 →
      ∃ t, exec (.nop c f) s = .next t ∧ OnlyCaravan c s t ∧ SameRegs c s t ∧ SamePreds c s t ∧ Advanced i s t) ∧
    (ClearThreads i (!f.i || bitsNat f.md 0 5 != 0) (linkUses f) (f.sa :: linkZero f) t0 →
      ∃ t, exec (.bra c f) s = .next t ∧ OnlyCaravan c s t ∧ SamePreds c s t ∧
        (∀ th, exitedIn t c th = exitedIn s c th ∧
          pcIn t c th = if i.exe.getLsbD th then i.pc + ((insnImmS f) <<< 3).setWidth 40
            else if i.act.getLsbD th then i.pc + 8#40 else pcIn s c th) ∧
        (∀ th n, th < 32 → regIn t c th n =
          if i.exe.getLsbD th = true ∧ f.md.getLsbD 5 = true ∧ f.dst.toNat < 0x80 ∧ n = f.dst.toNat then ((i.pc + 8#40).setWidth 64 : Word).extractLsb' 0 32
          else if i.exe.getLsbD th = true ∧ f.md.getLsbD 5 = true ∧ f.dst.toNat < 0x80 ∧ n = f.dst.toNat + 1 then ((i.pc + 8#40).setWidth 64 : Word).extractLsb' 32 32
          else regIn s c th n)) ∧
    (ClearThreads i (f.i || bitsNat f.md 0 5 != 0) (⟨f.sa, 2, false⟩ :: linkUses f) ([f.sb, f.sc, f.sd] ++ linkZero f) t0 →
      ((∀ th, i.exe.getLsbD th = true → (i.src64 th f.sa).toNat % 8 = 0) →
        ∃ t, exec (.brx c f) s = .next t ∧ OnlyCaravan c s t ∧ SamePreds c s t ∧
        (∀ th, exitedIn t c th = exitedIn s c th ∧
          pcIn t c th = if i.exe.getLsbD th then (i.src64 th f.sa).setWidth 40
            else if i.act.getLsbD th then i.pc + 8#40 else pcIn s c th) ∧
        (∀ th n, th < 32 → regIn t c th n =
          if i.exe.getLsbD th = true ∧ f.md.getLsbD 5 = true ∧ f.dst.toNat < 0x80 ∧ n = f.dst.toNat then ((i.pc + 8#40).setWidth 64 : Word).extractLsb' 0 32
          else if i.exe.getLsbD th = true ∧ f.md.getLsbD 5 = true ∧ f.dst.toNat < 0x80 ∧ n = f.dst.toNat + 1 then ((i.pc + 8#40).setWidth 64 : Word).extractLsb' 32 32
          else regIn s c th n)) ∧
      (∀ th, i.exe.getLsbD th = true → (i.src64 th f.sa).toNat % 8 ≠ 0 →
        (∀ u, u < th → i.exe.getLsbD u = true → (i.src64 u f.sa).toNat % 8 = 0) →
        ∃ t m, exec (.brx c f) s = .next t ∧ Excepts c i.pc cAlign m (i.src64 th f.sa) s t ∧
          ∀ u, m.getLsbD u = (i.exe.getLsbD u && decide ((i.src64 u f.sa).toNat % 8 ≠ 0)))) ∧
    (ClearThreads i (!f.i || f.md != 0#6) [] (ctlZero f) t0 → ∃ t, exec (.trap c f) s = .next t ∧ Excepts c i.pc cTrap i.exe 0#64 s t)

/-- R65, R92: The executing threads of EXIT exit and the others of its group go on; a thread's registers and predicates stay while its
caravan has a thread left. A caravan all of whose threads have exited leaves its slot; what it still has queued in the matrix unit or
the chain stays queued there under another number, and nothing else changes. Choices and readings of the model that it rests on: log 12. -/
def Obligations.ExitRetires : Prop :=
  ∀ (c : CoreSlot) (f : Insn) (s t0 : State) (i : Issue), c.slot < 16 → issueAt c f unitCtl s = .go i t0 →
    ClearThreads i (f.i || f.md != 0#6) [] (ctlZero f) t0 →
    ((∃ th, th < i.car.threads.length ∧ (i.exe.getLsbD th || exitedIn s c th) = false) →
      ∃ t, exec (.exit c f) s = .next t ∧ OnlyCaravan c s t ∧ SameRegs c s t ∧ SamePreds c s t ∧
        ∀ th, exitedIn t c th = (i.exe.getLsbD th || exitedIn s c th) ∧ pcIn t c th = if i.act.getLsbD th then i.pc + 8#40 else pcIn s c th) ∧
    ((∀ th, th < i.car.threads.length → (i.exe.getLsbD th || exitedIn s c th) = true) →
      ∃ t, exec (.exit c f) s = .next t ∧ caravanIn t c = none ∧ OnlyClusters s t ∧ (∀ id, id ≠ c.cluster → getCluster t id = getCluster s id) ∧
        (∀ n, n ≠ c.core → getCore t c.cluster n = getCore s c.cluster n) ∧ (getCluster t c.cluster).store = (getCluster s c.cluster).store ∧
        (∀ k, k < 16 → k ≠ c.slot → (getCore t c.cluster c.core).slot k = (getCore s c.cluster c.core).slot k) ∧
        ((getCore s c.cluster c.core).hasJobs c.slot = false → OnlyCaravan c s t) ∧
        ((getCore s c.cluster c.core).hasJobs c.slot = true → ∃ n, 16 ≤ n ∧
          (getCore t c.cluster c.core).mxq = (getCore s c.cluster c.core).mxq.map (fun j => if j.slotOf = c.slot then j.reslot n else j) ∧
          (getCore t c.cluster c.core).vcq = (getCore s c.cluster c.core).vcq.map (fun j => if j.slot = c.slot then { j with slot := n } else j)))

/-- R67, R79, R83, R92, R93: WAITC advances once its counter has reached the value and changes nothing before; ARV adds the leader's value
to its counter, modulo 2^64, and to no other. SHFL reads SA of the thread SB names if it is active, else the reader's own; VOTE gives a
predicate the vote of the active threads; BALLOT gives DST the mask of the active threads whose predicate is 1. Choices and readings of
the model that it rests on: log 10. -/
def Obligations.ArrivalAndExchange : Prop :=
  (∀ (c : CoreSlot) (f : Insn) (s t0 : State) (i : Issue), issueAt c f unitCtl s = .go i t0 →
    ClearGroup i (f.md.getLsbD 5) (if f.i then [] else [⟨f.sa, 2, false⟩]) (waitZero f) t0 →
    ((groupValue i true).toNat ≤ ((getCluster s c.cluster).counter (bitsNat f.md 0 5)).toNat →
      ∃ t, exec (.waitc c f) s = .next t ∧ OnlyCaravan c s t ∧ SameRegs c s t ∧ SamePreds c s t ∧ Advanced i s t) ∧
    (((getCluster s c.cluster).counter (bitsNat f.md 0 5)).toNat < (groupValue i true).toNat →
      exec (.waitc c f) s = .next t0 ∧ (t0 = s ∨ t0 = { s with freeCtr := s.freeCtr + 1 })) ∧
    (ClearGroup i (f.md.getLsbD 5) (if f.i then [] else [⟨f.sa, 1, false⟩]) (waitZero f) t0 → ChainDone i t0 →
      ∃ t, exec (.arv c f) s = .next t ∧ OnlyClusters s t ∧ SameRegs c s t ∧ SamePreds c s t ∧ Advanced i s t ∧
        (∀ id, id ≠ c.cluster → getCluster t id = getCluster s id) ∧
        (∀ n, (getCluster t c.cluster).counter n =
          if n = bitsNat f.md 0 5 then (getCluster s c.cluster).counter n + groupValue i false else (getCluster s c.cluster).counter n) ∧
        (getCluster t c.cluster).store = (getCluster s c.cluster).store)) ∧
  (∀ (c : CoreSlot) (f : Insn) (s t0 : State) (i : Issue), issueAt c f unitLs s = .go i t0 →
    (ClearThreads i (f.i || f.md != 0#6) [⟨f.dst, 1, true⟩, ⟨f.sa, 1, false⟩, ⟨f.sb, 1, false⟩] [f.sc, f.sd] t0 →
      (∀ th, i.exe.getLsbD th = true → f.sa.toNat < 0x80 → i.src.mark (shflFrom i th) f.sa.toNat = .clean) →
      ∃ t, exec (.shfl c f) s = .next t ∧ OnlyCaravan c s t ∧ SamePreds c s t ∧ Advanced i s t ∧
        ∀ th n, th < 32 → regIn t c th n =
          if i.exe.getLsbD th = true ∧ n = f.dst.toNat ∧ f.dst.toNat < 0x80 then
            (if i.act.getLsbD ((i.src32 th f.sb).toNat % 32) then i.src32 ((i.src32 th f.sb).toNat % 32) f.sa else i.src32 th f.sa)
          else regIn s c th n) ∧
    (ClearThreads i (f.i || bitsNat f.md 0 5 != 0 || decide (14 < f.dst.toNat) || decide (14 < f.sa.toNat)) [] [f.sb, f.sc, f.sd] t0 →
      ∃ t, exec (.vote c f) s = .next t ∧ OnlyCaravan c s t ∧ SameRegs c s t ∧ Advanced i s t ∧
        ∀ th p, p < 15 → predIn t c th p =
          if i.exe.getLsbD th = true ∧ p = f.dst.toNat then
            (if f.md.getLsbD 5 then (maskThreads i.act).all (fun u => i.src.predOf u f.sa.toNat)
             else (maskThreads i.act).any (fun u => i.src.predOf u f.sa.toNat))
          else predIn s c th p) ∧
    (ClearThreads i (f.i || f.md != 0#6 || decide (14 < f.sa.toNat)) [⟨f.dst, 1, true⟩] [f.sb, f.sc, f.sd] t0 →
      ∃ t, exec (.ballot c f) s = .next t ∧ OnlyCaravan c s t ∧ SamePreds c s t ∧ Advanced i s t ∧
        ∀ th n, th < 32 → ∀ b, b < 32 → (regIn t c th n).getLsbD b =
          if i.exe.getLsbD th = true ∧ n = f.dst.toNat ∧ f.dst.toNat < 0x80 then i.act.getLsbD b && i.src.predOf b f.sa.toNat
          else (regIn s c th n).getLsbD b))

/-- R89, R195: A global LD whose accesses are in order gives DST what the homes, or the L1, answer, widened; while a line has to wait
nothing but what the read itself did has changed. Choices and readings of the model that it rests on: log 8, 16. -/
def Obligations.GlobalLoad : Prop :=
  ∀ (c : CoreSlot) (f : Insn) (s t0 t1 : State) (i : Issue), lsLocal f = false → issueAt c f unitLs s = .go i t0 →
    ClearThreads i (lsIllegal .ld f) (lsUses .ld f) (lsZero .ld f) t0 → ChainDone i t0 →
    (∀ th, i.exe.getLsbD th = true → globalFault t0 i.car.itin false (globalAddr i th) (widthBytes (lsWidth f)) = none) →
    (coreReadLines c.cluster c.core (linesTouched ((maskThreads i.exe).map (globalAddr i)) (widthBytes (lsWidth f))) t0 = (none, t1) →
      exec (.ld c f) s = .next t1) ∧
    (∀ ls, coreReadLines c.cluster c.core (linesTouched ((maskThreads i.exe).map (globalAddr i)) (widthBytes (lsWidth f))) t0 = (some ls, t1) →
      caravanIn t1 c = some i.car → (∀ th, i.exe.getLsbD th = true → (sectorOf ls (globalAddr i th)).poison = false) →
      ∃ t, exec (.ld c f) s = .next t ∧ OnlyCaravan c (modCore c.cluster c.core (fun k => { k with l1Buf := [] }) t1) t ∧
        SamePreds c s t ∧ Advanced i s t ∧
        ∀ th n, th < 32 → regIn t c th n =
          if i.exe.getLsbD th = true ∧ f.dst.toNat < 0x80 ∧ f.dst.toNat ≤ n ∧ n < f.dst.toNat + widthRegs (lsWidth f) then
            (lsExtend (lsWidth f) (lsSx f) (bytesAt ls (globalAddr i th) (widthBytes (lsWidth f)))).extractLsb' (32 * (n - f.dst.toNat)) 32
          else regIn s c th n)

/-- R89, R202, R217, R471: A global ST whose accesses are in order sends one write for each 32-byte sector its threads touch, in ascending
order, with the merged bytes and their enables, once every line is free of other copies; a DEAD sends one hint for each line. Choices
and readings of the model that it rests on: log 8, 12. -/
def Obligations.GlobalStoreAndDead : Prop :=
  ∀ (c : CoreSlot) (f : Insn) (s t0 : State) (i : Issue), issueAt c f unitLs s = .go i t0 →
    (lsLocal f = false → ClearThreads i (lsIllegal .st f) (lsUses .st f) (lsZero .st f) t0 → ChainDone i t0 →
      (∀ th, i.exe.getLsbD th = true → globalFault t0 i.car.itin true (globalAddr i th) (widthBytes (lsWidth f)) = none) →
      ∀ t1, clearAll (.core c.cluster c.core) ((wordsOf (storeList i (globalAddr i))).map (· / 4)) t0 = (true, t1) →
        caravanIn t1 c = some i.car →
        let w := forEach (wordsOf (storeList i (globalAddr i))) (fun w t =>
          match usable t (w * 32) with
          | some rg => (homeWriteSector (.core c.cluster c.core) (w * 32) (wordEnables (storeList i (globalAddr i)) w)
              { data := wordData (storeList i (globalAddr i)) w } rg t).2
          | none => t) t1
        caravanIn w c = some i.car →
        ∃ t, exec (.st c f) s = .next t ∧ OnlyCaravan c w t ∧ SameRegs c s t ∧ SamePreds c s t ∧ Advanced i s t) ∧
    (ClearThreads i (lsIllegal .dead f) (lsUses .dead f) (lsZero .dead f) t0 →
      (∀ th, i.exe.getLsbD th = true → globalFault t0 i.car.itin false (globalAddr i th) 1 = none) →
      let w := forEach ((linesTouched ((maskThreads i.exe).map (globalAddr i)) 1).map (·.1)) (fun l t =>
        match usable t (l * 128) with
        | some rg => homeDead l rg t
        | none => t) t0
      caravanIn w c = some i.car →
      ∃ t, exec (.dead c f) s = .next t ∧ OnlyCaravan c w t ∧ SameRegs c s t ∧ SamePreds c s t ∧ Advanced i s t)

/-- R90, R221, R222: An AT instruction of any operation (AT_ADD, FADD32, AT_MIN, AT_MAX, AT_AND, AT_OR, AT_XOR, XCHG, CAS), on lines that
their homes hold valid and alone, with no fault and no poison, in regions that are not write-through: each executing thread's DST takes
the value that its address held after the operations of the lower-numbered executing threads that name the same address and before its
own; the address then holds the value after all of them, its sector is dirty, and no other byte of those lines changes; nothing changes
but the caravan and the homes. Choices and readings of the model that it rests on: log 8, 16. -/
def Obligations.AtomicReturnsPriorValue : Prop :=
  ∀ (op : AtOp) (c : CoreSlot) (f : Insn) (s t0 : State) (i : Issue) (rg : Nat → Region) (x : Nat → Line), issueAt c f unitLs s = .go i t0 →
    ClearThreads i (atIllegal op f) (atUses op f) (atZero op f) t0 → ChainDone i t0 →
    let wide := lsWidth f == 3
    let w := if wide then 64 else 32
    let addr (th : Nat) : Nat := globalAddr i th
    let home (th : Nat) : Nat := (rg th).home (addr th)
    let operand (th : Nat) : AtOperand := if wide then atOperand op i th else atOperand32 op i th
    let held (y : Line) (th : Nat) : BitVec w := (secAt y.sectors (addr th / 32 % 4)).data.extractLsb' (8 * (addr th % 32)) w
    let after (th n : Nat) : BitVec w :=
      (((maskThreads i.exe).filter (fun u => addr u == addr th && decide (u < n))).map operand).foldl (atCompute op w) (held (x th) th)
    (∀ th, i.exe.getLsbD th = true → globalFault t0 i.car.itin true (addr th) (w / 8) = none ∧
      usable t0 (addr th) = some (rg th) ∧ usable t0 (lineOf (addr th) * 128) = some (rg th) ∧ (rg th).policy ≠ 1 ∧
      memWaits t0 (rg th) (lineOf (addr th)) true = false ∧ HoldsAlone t0 (home th) (lineOf (addr th)) (x th) ∧
      (secAt (x th).sectors (addr th / 32 % 4)).valid = true ∧ (secAt (x th).sectors (addr th / 32 % 4)).poison = false) →
    ∃ t, exec (atCommand op c f) s = .next t ∧ OnlyCaravan c { s with homes := t.homes } t ∧ SamePreds c s t ∧ Advanced i s t ∧
      (∀ th n, th < 32 → regIn t c th n =
        if i.exe.getLsbD th = true ∧ f.dst.toNat < 0x80 ∧ f.dst.toNat ≤ n ∧ n < f.dst.toNat + w / 32 then
          ((after th th).setWidth 64).extractLsb' (32 * (n - f.dst.toNat)) 32
        else regIn s c th n) ∧
      (∀ th, i.exe.getLsbD th = true → ∃ y, (getHome t (home th)).line (lineOf (addr th)) = some y ∧ held y th = after th 32 ∧
        (secAt y.sectors (addr th / 32 % 4)).dirty = true ∧
        ∀ b, b < 128 → (∀ u, i.exe.getLsbD u = true → ¬ (addr u ≤ lineOf (addr th) * 128 + b ∧ lineOf (addr th) * 128 + b < addr u + w / 8)) →
          byteOf (secAt y.sectors (b / 32)).data (b % 32) = byteOf (secAt (x th).sectors (b / 32)).data (b % 32))

/-- R80, R81, R82, R83, R91: CPY.IN waits while 32 requests hold places, raises its exception where a check fails, and otherwise gives the
copy engine its request. A sector that the copy engine delivers stands in the cluster store at its offset, with its poison, and no other
byte of the store has changed; what has filled an L1 miss stands in the L1, and the L1 serves again; a caravan still parked when its
count ends raises SPLIT for its parked threads. Choices and readings of the model that it rests on: log 20, 22. -/
def Obligations.CopyEngine : Prop :=
  (∀ (c : CoreSlot) (f : Insn) (s t0 : State) (i : Issue), issueAt c f unitCpy s = .go i t0 →
    ClearGroup i (f.i || f.md.getLsbD 5) [⟨f.sa, 2, false⟩, ⟨f.sb, 1, false⟩, ⟨f.sc, 1, false⟩] [f.dst, f.sd] t0 → ChainDone i t0 →
    let src := i.src64 i.leader f.sa
    let dst := (i.src32 i.leader f.sb).toNat
    let len := (i.src32 i.leader f.sc).toNat
    (32 ≤ (getCluster s c.cluster).cpyQ.length → exec (.cpyIn c f) s = .next t0 ∧ (t0 = s ∨ t0 = { s with freeCtr := s.freeCtr + 1 })) ∧
    ((getCluster s c.cluster).cpyQ.length < 32 →
      (∀ cause a, copyFault t0 i.car.itin src dst len = some (cause, a) →
        ∃ t, exec (.cpyIn c f) s = .next t ∧ Excepts c i.pc cause i.exe a s t) ∧
      (copyFault t0 i.car.itin src dst len = none →
        ∃ t, exec (.cpyIn c f) s = .next t ∧ OnlyClusters s t ∧ SameRegs c s t ∧ SamePreds c s t ∧ Advanced i s t ∧
          (∀ id, id ≠ c.cluster → getCluster t id = getCluster s id) ∧
          (getCluster t c.cluster).cpyReqs = (getCluster s c.cluster).cpyReqs + 1 ∧
          (getCluster t c.cluster).store = (getCluster s c.cluster).store ∧
          (getCluster t c.cluster).cpyQ = (Cluster.settleCopies { getCluster s c.cluster with
            cpyQ := (getCluster s c.cluster).cpyQ ++ [{ src := src.toNat, dst := dst, len := len, counter := bitsNat f.md 0 5 }] }).cpyQ))) ∧
  ((∀ (cl req sector : Nat) (s s1 : State) (r : CopyReq) (rg : Region) (vs : List SectorVal),
    (getCluster s cl).cpyQ[req]? = some r → sector < r.len / 32 → r.delivered.contains sector = false →
    usable s (r.src + 32 * sector) = some rg →
    homeReadLine (.core cl 0) (lineOf (r.src + 32 * sector)) (maskBit 4 ((r.src + 32 * sector) / 32 % 4)) rg s = (some vs, s1) →
    ∃ t, exec (.copyDelivery cl req sector) s = .next t ∧ { t with clusters := s1.clusters } = s1 ∧
      (∀ id, id ≠ cl → getCluster t id = getCluster s1 id) ∧ (getCluster t cl).cores = (getCluster s1 cl).cores ∧
      (∀ a, tabGet 0#8 (getCluster t cl).store a =
        if r.dst + 32 * sector ≤ a ∧ a < r.dst + 32 * sector + 32 then
          byteOf (vs.getD ((r.src + 32 * sector) / 32 % 4) noVal).data (a - (r.dst + 32 * sector))
        else tabGet 0#8 (getCluster s1 cl).store a) ∧
      (∀ w, tabGet .clean (getCluster t cl).marks w =
        if w = (r.dst + 32 * sector) / 32 then (if (vs.getD ((r.src + 32 * sector) / 32 % 4) noVal).poison then .outside else .clean)
        else tabGet .clean (getCluster s1 cl).marks w)) ∧
  (∀ (cl co : Nat) (s s1 : State) (m : L1Miss) (rg : Region) (vs : List (Nat × SectorVal)),
    (getCore s cl co).l1Miss = some m → usable s (m.line * 128) = some rg →
    fillSectors cl co m.line rg ((List.range 4).filter (fun k => m.sectors.getLsbD k)) s = (some vs, s1) →
    ∃ t x, exec (.l1MissFill cl co) s = .next t ∧ { t with clusters := s1.clusters } = s1 ∧ (getCore t cl co).l1Miss = none ∧
      tabGet none (getCore t cl co).l1 m.line = some x ∧ (getCore t cl co).slots = (getCore s1 cl co).slots ∧
      ∀ k, k < 4 → m.sectors.getLsbD k = true →
        ∃ v, (k, v) ∈ vs ∧ secAt x.sectors k = { valid := true, poison := v.poison, data := v.data }) ∧
  (∀ (c : CoreSlot) (s : State) (k : Caravan), coreIssues s c.cluster c.core = true → caravanIn s c = some k → k.parkedMask ≠ 0#32 →
    ∃ t, exec (.splitTimeout c) s = .next t ∧ Excepts c (lowestPc k.parkedPcs) cSplit k.parkedMask 0#64 s t))

/-- R95, R96, R106, R113, R114, R115, R116, R129: A matrix instruction whose encoding breaks a rule, or that names a register at or above
the caravan's limit, raises its exception in the active threads. Once all 32 threads have reached it, its group and those parked there,
it enters the queue of two and they go on; until then its group parks, unless the missing threads can never come (one has exited, or all
are parked and some elsewhere): then SPLIT is raised for the parked threads. The oldest queued matrix instruction completes: an MLD
loads its accumulator, an MMA adds its products to it, or starts from +0 with Z, an MRD of either register width and any format,
rounding kind and CLR writes its destination registers and no other; its flags are added to the core's sticky flags, and the queue keeps
the rest in order. Choices and readings of the model that it rests on: log 11, 22. -/
def Obligations.MatrixInstructions : Prop :=
  (∀ (op : MxOp) (c : CoreSlot) (f : Insn) (s t0 : State) (i : Issue), issueAt c f unitMx s = .go i t0 →
    let cmd : Instr := match op with | .mma => .mma c f | .mld => .mld c f | .mrd => .mrd c f
    let here (th : Nat) : Bool := i.act.getLsbD th || ((i.car.thread th).parked && !(i.car.thread th).exited && (i.car.thread th).pc == i.pc)
    (∀ cause, mxCheck i.car op f = some cause → ∃ t, exec cmd s = .next t ∧ Excepts c i.pc cause i.act 0#64 s t) ∧
    (mxCheck i.car op f = none → (∀ th, th < 32 → here th = true) → (getCore s c.cluster c.core).mxq.length < 2 → regsBusy i (mxUses op f) t0 = false →
      (poisonReaders i (BitVec.allOnes 32) (mxUses op f)).1 = 0#32 →
      ∃ t k, exec cmd s = .next t ∧ OnlyClusters s t ∧ SameRegs c s t ∧ SamePreds c s t ∧ caravanIn t c = some k ∧
        (∀ th, th < 32 → (k.thread th).pc = i.pc + 8#40 ∧ (k.thread th).parked = false ∧ (k.thread th).exited = false) ∧
        k.acc0 = i.car.acc0 ∧ k.acc1 = i.car.acc1 ∧ k.conv = i.car.conv + (if op = .mrd ∧ mxKind f = 2 then 1 else 0) ∧
        (∀ id, id ≠ c.cluster → getCluster t id = getCluster s id) ∧ (∀ n, n ≠ c.core → getCore t c.cluster n = getCore s c.cluster n) ∧
        (∀ n, n ≠ c.slot → (getCore t c.cluster c.core).slot n = (getCore s c.cluster c.core).slot n) ∧
        (getCore t c.cluster c.core).mxq = (getCore s c.cluster c.core).mxq ++ [mxJobOf op i]) ∧
    (mxCheck i.car op f = none → (∀ x ∈ i.car.threads, x.exited = false) →
      (∃ th, th < i.car.threads.length ∧ th < 32 ∧ i.act.getLsbD th = false ∧ (i.car.thread th).parked = false) →
      ∃ t k, exec cmd s = .next t ∧ OnlyCaravan c s t ∧ caravanIn t c = some k ∧ SameRegs c s t ∧ SamePreds c s t ∧
        ∀ th, (k.thread th).pc = (i.car.thread th).pc ∧ (k.thread th).exited = (i.car.thread th).exited ∧
          (k.thread th).parked = ((i.car.thread th).parked || i.act.getLsbD th)) ∧
    (mxCheck i.car op f = none → (∃ th, th < 32 ∧ here th = false) →
      ((∃ x ∈ i.car.threads, x.exited = true) ∨
       ((∀ th, th < i.car.threads.length → i.act.getLsbD th = true ∨ (i.car.thread th).parked = true) ∧
        (∃ th, th < i.car.threads.length ∧ i.act.getLsbD th = false ∧ (i.car.thread th).exited = false ∧ (i.car.thread th).pc ≠ i.pc))) →
      let k : Caravan := { i.car.modThreads i.act (fun x => { x with parked := true }) with pair := none }
      ∃ t, exec cmd s = .next t ∧ Excepts c (lowestPc k.parkedPcs) cSplit k.parkedMask 0#64 (modCaravan c (fun _ => k) s) t)) ∧
  (∀ (cl co : Nat) (s : State) (j : MxJob) (rest : List MxJob) (car : Caravan), (getCore s cl co).mxq = j :: rest →
    caravanIn s ⟨cl, co, j.slotOf⟩ = some car → (∃ x ∈ car.threads, x.exited = false) →
    ∃ t k, exec (.mxOpComplete cl co) s = .next t ∧ caravanIn t ⟨cl, co, j.slotOf⟩ = some k ∧ (getCore t cl co).mxq = rest ∧
      (∀ n, n ≠ j.slotOf → (getCore t cl co).slot n = (getCore s cl co).slot n) ∧ (∀ id, id ≠ cl → getCluster t id = getCluster s id) ∧
      k.threads = car.threads ∧ { t with clusters := s.clusters, itins := s.itins } = s ∧ (getCluster t cl).store = (getCluster s cl).store ∧
      (∀ sl n fmt src, j = .mld sl n fmt src → k.regs = car.regs ∧ (n = 0 → k.acc1 = car.acc1) ∧ (n ≠ 0 → k.acc0 = car.acc0) ∧
        (∀ e, e < 512 → k.accAt n e = (toAcc (mxValue fmt (tileElem src.toNat 32 e))).1) ∧
        (getCore t cl co).mxFlags = (Core.addMx (runMld car n fmt src.toNat).2 (getCore s cl co)).mxFlags) ∧
      (∀ sl n a b pass z x y sc, j = .mma sl n a b pass z x y sc → k.regs = car.regs ∧ (n = 0 → k.acc1 = car.acc1) ∧ (n ≠ 0 → k.acc0 = car.acc0) ∧
        (∀ e, e < 512 → k.accAt n e = (mmaElem (a == 11) pass (if z then .fin false 0 0 else (car.accAt n e).num)
          ((List.range (mxK a b)).map (fun q => (mmaA a b x.toNat sc (e / 32) q, mmaB a b y.toNat sc q (e % 32))))).1) ∧
        (getCore t cl co).mxFlags = (Core.addMx (runMma car n a b pass z x.toNat y.toNat sc).2 (getCore s cl co)).mxFlags) ∧
      (∀ sl n fmt kind clr dst conv, j = .mrd sl n fmt kind clr dst conv →
        let el (e : Nat) : Nat := (mrdElem fmt (if kind = 2 then .stoch (rand32 (caravanSeed s cl co car) car.launch car.cvn conv e) else .nearest)
          (car.accAt n e).num).1
        (n = 0 → k.acc1 = car.acc1) ∧ (n ≠ 0 → k.acc0 = car.acc0) ∧
        (∀ e, e < 512 → k.accAt n e = if clr then .zero false else car.accAt n e) ∧
        (∀ th q, th < 32 → q < mrdRegs fmt → k.reg th (dst + q) =
          if fmt = 9 ∨ fmt = 10 then BitVec.ofNat 32 (el (2 * (th * 8 + q)) + el (2 * (th * 8 + q) + 1) * 2 ^ 16)
          else BitVec.ofNat 32 (el (th * 16 + q))) ∧
        (∀ th m, th < 32 → m < dst ∨ dst + mrdRegs fmt ≤ m → k.reg th m = car.reg th m) ∧
        (getCore t cl co).mxFlags = (Core.addMx (runMrd car n fmt kind clr dst conv (caravanSeed s cl co car)).2 (getCore s cl co)).mxFlags))

/-- R67, R173, R175, R185, R187: A VOP that passes the checks of its word and of its configuration word enters the chain's queue of two with
the leader's operands; one that no thread executes enters as an operation of length 0; while the queue is full it does not issue. The
oldest operation of a chain: of length 0, it reads and writes nothing and leaves the queue; else it runs on the elements its mask leaves
active, once everything it reads has come and no access faults. Where all its streams lie in the cluster store, apart from one another,
it stores the bytes that the stages give, adds their flags to the core's sticky flags, gives DST of the issuing threads the value of the
reduction, and changes no other byte and no other register. Choices and readings of the model that it rests on: log 13, 21. -/
def Obligations.ChainOperations : Prop :=
  (∀ (c : CoreSlot) (f : Insn) (s t0 : State) (i : Issue), issueAt c f unitVc s = .go i t0 →
    (2 ≤ (getCore s c.cluster c.core).vcq.length → exec (.vop c f) s = .next t0 ∧ (t0 = s ∨ t0 = { s with freeCtr := s.freeCtr + 1 })) ∧
    (vopIllegal f = false → (vopUses f).any (fun u => u.over i.car) = false → (getCore s c.cluster c.core).vcq.length < 2 →
    (i.exe = 0#32 → ∃ t, exec (.vop c f) s = .next t ∧ OnlyClusters s t ∧ SameRegs c s t ∧ SamePreds c s t ∧ Advanced i s t ∧
      (∀ id, id ≠ c.cluster → getCluster t id = getCluster s id) ∧
      (getCore t c.cluster c.core).vcq = (getCore s c.cluster c.core).vcq ++ [emptyVop i]) ∧
    (i.exe ≠ 0#32 → regsBusy i (vopUses f) t0 = false → (poisonReaders i (maskBit 32 i.leader) (vopUses f)).1 = 0#32 →
      cwIllegal (vopCw i) (vopLen i) = false → vopDstBad f (vopCw i) = false → (cwUses (vopCw i)).any (fun u => u.over i.car) = false →
      (cwRed (vopCw i) = 0 ∨ (⟨f.dst, if cwCt (vopCw i) = 2 then 2 else 1, true⟩ : OpUse).over i.car = false) →
      regsBusy i (⟨f.dst, if cwRed (vopCw i) = 0 then 0 else if cwCt (vopCw i) = 2 then 2 else 1, true⟩ :: cwUses (vopCw i)) t0 = false →
      (poisonReaders i (maskBit 32 i.leader) (cwUses (vopCw i))).1 = 0#32 →
      ((weightOut (vopCw i) || weightIn (vopCw i)) = false ∨ (vopJob i (vopCw i) (vopLen i)).chanLen ≠ 0) →
      ∃ t, exec (.vop c f) s = .next t ∧ OnlyClusters s t ∧ SameRegs c s t ∧ SamePreds c s t ∧ Advanced i s t ∧
        (∀ id, id ≠ c.cluster → getCluster t id = getCluster s id) ∧
        (getCore t c.cluster c.core).vcq = (getCore s c.cluster c.core).vcq ++ [vopJob i (vopCw i) (vopLen i)]))) ∧
  (∀ (cl co : Nat) (s : State) (j : VcJob) (rest : List VcJob) (car : Caravan), (getCore s cl co).vcq = j :: rest →
    caravanIn s ⟨cl, co, j.slot⟩ = some car → (∃ x ∈ car.threads, x.exited = false) →
    (j.len = 0 → ∃ t, exec (.vopComplete cl co) s = .next t ∧ caravanIn t ⟨cl, co, j.slot⟩ = some car ∧
      (getCore t cl co).vcq = rest ∧ t.mem = s.mem ∧ (getCluster t cl).store = (getCluster s cl).store) ∧
    (j.len ≠ 0 → ∀ s1 s2 s3 mg g,
      fetchPieces cl co car.itin j.maskPieces s = (some mg, s1) → pieceFault s1 car.itin mg j.maskPieces = none →
      let act := j.active mg
      let wp := j.outPieces act ++ j.sidePieces act ++ j.recWrites act
      fetchPieces cl co car.itin (j.reads act ++ (if chainBits (strmO j.cfg).fmt = 4 then j.outPieces act else [])) s1 = (some g, s2) →
      pieceFault s2 car.itin g (j.reads act ++ wp) = none →
      clearAll (.core cl co) ((wp.filter (fun p => p.space == 1)).map (fun p => lineOf p.addr)).eraseDups s2 = (true, s3) →
      exec (.vopComplete cl co) s = .next (vopRun cl co j car g act (modCore cl co (fun c => { c with l1Buf := [] }) s3))) ∧
    (j.len ≠ 0 →
      let g : Fetched := { lines := [], cl := getCluster s cl }
      let act := j.active g
      let wp := j.outPieces act ++ j.sidePieces act ++ j.recWrites act
      let rp := j.reads act ++ (if chainBits (strmO j.cfg).fmt = 4 then j.outPieces act else [])
      let o := chainPass j car (caravanSeed s cl co car) act [] g g g
      (∀ p ∈ j.maskPieces ++ rp ++ wp, p.space = 2 ∧ storeFault p.addr p.n = none) → (∀ p ∈ j.maskPieces ++ rp, g.mark p = .clean) →
      (∀ p ∈ j.reads act, ∀ q ∈ wp, p.addr / 32 ≠ q.addr / 32) →
      ∃ t k, exec (.vopComplete cl co) s = .next t ∧ { t with clusters := s.clusters, itins := s.itins } = s ∧
        (∀ id, id ≠ cl → getCluster t id = getCluster s id) ∧ (getCore t cl co).vcq = rest ∧
        (∀ n, n ≠ j.slot → (getCore t cl co).slot n = (getCore s cl co).slot n) ∧
        (∀ a, tabGet 0#8 (getCluster t cl).store a = match (o.outL ++ o.sideL).reverse.find? (fun b => b.1 == a) with
          | some b => b.2 | none => tabGet 0#8 (getCluster s cl).store a) ∧
        (getCore t cl co).vcFlags = (Core.addVc o.flags (getCore s cl co)).vcFlags ∧
        caravanIn t ⟨cl, co, j.slot⟩ = some k ∧ k.threads = car.threads ∧
        ∀ th n, th < 32 → k.reg th n = match o.dst with
          | some v => if j.lanes.getLsbD th = true ∧ j.dst.toNat < 0x80 ∧ j.dst.toNat ≤ n ∧ n < j.dst.toNat + (if cwCt j.cfg = 2 then 2 else 1) then
              BitVec.ofNat 32 (v / 2 ^ (32 * (n - j.dst.toNat))) else car.reg th n
          | none => car.reg th n))

/-- R199, R202, R203, R216, R221, R222, R223, R226, R471: A read that finds every sector it needs valid in its home's line delivers them,
counts a hit and changes nothing outside the home; the line's sectors stay as they are. A write to a valid sector of a line under
write-back, write-around or streaming replaces the enabled bytes, marks the sector dirty, and loses the sector's poison only when it
covers all 32 bytes; outside the home it changes nothing but what the pigeonhole unit is told of a command area. A region with RO set
refuses the write, and a command area that of any but its owner. An atomic request on a valid sector applies its operations in the order
given, with nothing between them; each answer is the value that preceded its own operation, and the last value stands in the line.
Choices and readings of the model that it rests on: log 8, 17. -/
def Obligations.HomeHits : Prop :=
  (∀ (r : Requester) (addr : Nat) (mask : BitVec 4) (s : State) (rg : Region) (x : Line), reachesHomes s r = true → usable s addr = some rg → rg.bypass = false →
    (∀ d, r ≠ .px d) → HoldsAlone s (rg.home (lineOf addr * 128)) (lineOf addr) x → (∀ k, k < 4 → mask.getLsbD k = true → (secAt x.sectors k).valid = true) →
    ∃ t y, exec (.homeRead r addr mask) s = .next t ∧ OnlyHome (rg.home (lineOf addr * 128)) s t ∧
      (homeReadLine r (lineOf addr) mask rg s).1 = some (x.sectors.map Sector.val) ∧
      (getHome t (rg.home (lineOf addr * 128))).line (lineOf addr) = some y ∧ y.sectors = x.sectors ∧ y.pinned = x.pinned ∧
      (getHome t (rg.home (lineOf addr * 128))).run.access.hits = (getHome s (rg.home (lineOf addr * 128))).run.access.hits + 1#32) ∧
  (∀ (r : Requester) (addr : Nat) (en : BitVec 32) (d : BitVec 256) (s : State) (rg : Region), usable s addr = some rg →
    let n := rg.home (addr / 32 * 32)
    let l := lineOf (addr / 32 * 32)
    let k := addr / 32 * 32 / 32 % 4
    (rg.ro = true ∨ mayWrite s r addr = false → exec (.homeWrite r addr en d) s = .next s) ∧
    (∀ x, reachesHomes s r = true → rg.ro = false → mayWrite s r addr = true → isVoided s r (lineOf addr) = false → rg.policy ≠ 1 → en ≠ 0#32 → HoldsAlone s n l x → (secAt x.sectors k).valid = true →
      ∃ t y, exec (.homeWrite r addr en d) s = .next t ∧ OnlyHome n s { t with innk := s.innk } ∧
        ((∀ j, j < 4 → phAt s (addr / 32 * 32 + 8 * j) = none) → t.innk = s.innk) ∧ (getHome t n).line l = some y ∧
        (∀ j, j ≠ k → secAt y.sectors j = secAt x.sectors j) ∧ (secAt y.sectors k).valid = true ∧ (secAt y.sectors k).dirty = true ∧
        (secAt y.sectors k).poison = (if en = BitVec.allOnes 32 then false else (secAt x.sectors k).poison) ∧
        (∀ b, b < 32 → byteOf (secAt y.sectors k).data b = if en.getLsbD b then byteOf d b else byteOf (secAt x.sectors k).data b) ∧
        l ∉ (getHome t n).deadList)) ∧
  (∀ (r : Requester) (op : AtOp) (wide : Bool) (addr : Nat) (os : List AtOperand) (s : State) (rg : Region) (x : Line),
    let w := if wide then 64 else 32
    let n := rg.home addr
    let l := lineOf addr
    let k := addr / 32 % 4
    reachesHomes s r = true → usable s addr = some rg → rg.ro = false → mayWrite s r addr = true → rg.policy ≠ 1 → addr % (if wide then 8 else 4) = 0 → (wide = true → op ≠ .fadd32) →
    HoldsAlone s n l x → (secAt x.sectors k).valid = true →
    let cur : BitVec w := (secAt x.sectors k).data.extractLsb' (8 * (addr % 32)) w
    ∃ t y, exec (.homeAtomic r op wide addr os) s = .next t ∧ OnlyHome n s t ∧
      (homeAtomicOp r op wide addr os rg s).1 = some ((List.range os.length).map (fun j => ((os.take j).foldl (atCompute op w) cur).setWidth 64), (secAt x.sectors k).poison) ∧
      (getHome t n).line l = some y ∧ (∀ j, j ≠ k → secAt y.sectors j = secAt x.sectors j) ∧
      (secAt y.sectors k).dirty = true ∧ (secAt y.sectors k).poison = (secAt x.sectors k).poison ∧
      (∀ b, b < 32 → byteOf (secAt y.sectors k).data b =
        if addr % 32 ≤ b ∧ b < addr % 32 + w / 8 then byteOf (os.foldl (atCompute op w) cur) (b - addr % 32)
        else byteOf (secAt x.sectors k).data b))

/-- R212, R213, R214: A dead hint to a line that its home holds, and that no processor cache holds, drops the line and its buffered copies
without writing anything back, but for sectors whose poison memory does not hold; a pinned line keeps its way; the partner's copy goes
too; the hint is counted and heads the list of the last 64. A hint to a line that is not present is neither counted nor listed. One to a
read-only region, or to a line that a processor cache holds, is ignored and counted, and the home's line stays. Choices and readings of
the model that it rests on: log 12, 85. -/
def Obligations.DeadHints : Prop :=
  ∀ (r : Requester) (addr : Nat) (s : State) (rg : Region), usable s addr = some rg →
    let n := rg.home (lineOf addr * 128)
    let l := lineOf addr
    (rg.ro = false → (getHome s n).dirOf l = .invalid ∨ (getHome s n).dirOf l = .shared false false true →
      ∃ t, exec (.homeDeadHint r addr) s = .next t ∧ t.mem = s.mem ∧ t.chkXor = s.chkXor ∧ t.ctls = s.ctls ∧ (getHome t n).dirOf l = .invalid ∧
        ((getHome s n).dirOf l = .invalid → OnlyHome n s t) ∧
        (getHome t n).line l = ((getHome s n).line l).bind (fun x =>
          if x.pinned || !nothingLeft (deadRest x.sectors) then some { x with sectors := deadRest x.sectors } else none) ∧
        (∀ m, m ≠ l → (getHome t n).line m = (getHome s n).line m) ∧
        (∀ e ∈ (getHome t n).evb, e.line = l → ∀ z ∈ e.sectors, z.valid = true → z.dirty = true ∧ z.poison = true) ∧
        (getHome t n).evb.filter (fun e => e.line != l) = (getHome s n).evb.filter (fun e => e.line != l) ∧
        ((getHome s n).line l ≠ none → (getHome t n).deadList = (l :: (getHome s n).deadList).take 64 ∧
          (getHome t n).run.dead.hints = (getHome s n).run.dead.hints + 1#32) ∧
        ((getHome s n).line l = none → (getHome t n).deadList = (getHome s n).deadList ∧ (getHome t n).run.dead = (getHome s n).run.dead)) ∧
    ((rg.ro = true ∨ (∃ d, (getHome s n).dirOf l = .owned d) ∨ (∃ a b f, (getHome s n).dirOf l = .shared a b f ∧ (a || b) = true)) →
      ∃ t, exec (.homeDeadHint r addr) s = .next t ∧ t.mem = s.mem ∧ t.ctls = s.ctls ∧ (getHome t n).lines = (getHome s n).lines ∧
        (getHome t n).evb = (getHome s n).evb ∧ (getHome t n).run.dead.ignored = satInc (getHome s n).run.dead.ignored ∧
        (getHome t n).deadList = (getHome s n).deadList ∧
        (∀ a b, rg.ro = false → (getHome s n).dirOf l = .shared a b true → (getHome t n).dirOf l = .shared a b false))

/-- R205, R219, R225: The oldest line of an eviction buffer leaves it: its dirty sectors are given to the memory controllers, one after the
other, and nothing else is done. A processor cache that answers an invalidation or a recall with a clean copy gives it up, and the
directory follows; an owner's modified sectors go into the home's line, the owner giving its copy up after a recall and keeping it clean
and shared after a downgrade. A snoop without an answer in time poisons the line in the home, clears its directory entry, drops the
processors' copies, names the line in L2H_POISON_ADDR, counts the timeout, and voids the stores of the network, the Innkeeper and the
harts that waited for it. Choices and readings of the model that it rests on: log 8, 18. -/
def Obligations.BufferAndSnoops : Prop :=
  (∀ (n : Nat) (s : State) (e : EvbLine) (rest : List EvbLine), halfLive s n = true → (getHome s n).evb = e :: rest →
    (∀ rg, regionAt s (e.line * 128) = some rg → memWaits s rg e.line true = false) →
    let w := writeSectors e.line e.sectors (fun _ x => x.valid && x.dirty) s
    ∃ t, exec (.evictionWriteback n) s = .next t ∧ (getHome t n).evb = rest ∧ { t with homes := w.homes } = w ∧
      (∀ m, m ≠ n → getHome t m = getHome w m) ∧ (getHome t n).lines = (getHome w n).lines ∧
      ((∀ y ∈ e.sectors, y.dirty = false) → OnlyHome n s t ∧ (getHome t n).lines = (getHome s n).lines)) ∧
  (∀ (n l d : Nat) (s : State) (sn : Snoop) (x : PxLine), (getHome s n).snoops.find? (fun y => y.line == l && y.die == d) = some sn →
    (getPx s d).line l = some x → (getHome s n).pinWait = [] →
    (sn.kind ≠ .downgrade → x.owned = false →
      ∃ t, exec (.snoopAnswer n l d) s = .next t ∧ (getPx t d).line l = none ∧
        (getHome t n).dirOf l = Dir.dropPx d ((getHome s n).dirOf l) ∧ (getHome t n).lines = (getHome s n).lines ∧
        (∀ y ∈ (getHome t n).snoops, ¬ (y.line = l ∧ y.die = d)) ∧ t.mem = s.mem) ∧
    (∀ rg z, x.owned = true → (getHome s n).dirOf l = .owned d → regionAt s (l * 128) = some rg → rg.policy ≠ 1 →
      (getHome s n).line l = some z → z.sectors.length = 4 → (∀ e ∈ (getHome s n).evb, e.line ≠ l) →
      ∃ t y, exec (.snoopAnswer n l d) s = .next t ∧ t.mem = s.mem ∧ (getHome t n).line l = some y ∧
        (∀ k, k < 4 → secAt y.sectors k = if (secAt x.sectors k).valid && (secAt x.sectors k).dirty then secAt x.sectors k else secAt z.sectors k) ∧
        (∀ m, m ≠ l → (getHome t n).line m = (getHome s n).line m) ∧ (∀ q ∈ (getHome t n).snoops, ¬ (q.line = l ∧ q.die = d)) ∧
        (sn.kind ≠ .downgrade → (getPx t d).line l = none ∧ (getHome t n).dirOf l = .invalid) ∧
        (sn.kind = .downgrade → (getPx t d).line l = some { sectors := x.sectors.map (fun q => { q with dirty := false }), owned := false } ∧
          (getHome t n).dirOf l = .shared (d == 0) (d == 1) false))) ∧
  (∀ (n l : Nat) (s : State) (x : Line), HoldsAlone s n l x ∨ (∃ d, (getHome s n).dirOf l = .owned d ∧ (getHome s n).line l = some x ∧ x.sectors.length = 4 ∧ ∀ e ∈ (getHome s n).evb, e.line ≠ l) →
    (∃ y ∈ (getHome s n).snoops, y.line = l) → (getHome s n).pinWait = [] →
    ∃ t y, exec (.coherenceTimeout n l) s = .next t ∧ (getHome t n).line l = some y ∧ (∀ z ∈ y.sectors, z.valid = true ∧ z.dirty = true ∧ z.poison = true) ∧
      (getHome t n).dirOf l = .invalid ∧ (∀ z ∈ (getHome t n).snoops, z.line ≠ l) ∧
      (getHome t n).run.coh.timeouts = satInc (getHome s n).run.coh.timeouts ∧
      (∀ q ∈ (getHome s n).snoops, q.line = l → ∀ r ∈ q.stores, voidsStore r = true → (l, r) ∈ (getHome t n).voided) ∧
      (getHome t n).poisonAddr = { addr := BitVec.ofNat 52 (l * 128), valid := 1#1 } ∧ (getPx t 0).line l = none ∧ (getPx t 1).line l = none)

/-- R201, R250, R291, R292, R293: A home with nothing left to flush ends its part of a checkpoint, and the last one completes it; the loss
of an L2 half takes its stack with it and sets a rollback. Choices and readings of the model that it rests on: log 28. -/
def Obligations.FlushAndHalfLoss : Prop :=
  (∀ (n c : Nat) (s : State), s.ldg.flushing = some c → n < 8 → s.ldg.pending.getLsbD n = true → (getHome s n).flushLines = [] → (getCtl s n).retraining = false →
    (∀ e ∈ (getCtl s n).wcb, e.marked = false) →
    ∃ t, exec (.homeFlushDone n) s = .next t ∧ t.mem = s.mem ∧
      (clearBit s.ldg.pending n ≠ 0#8 → t.ldg.pending = clearBit s.ldg.pending n ∧ t.ldg.flushing = some c ∧ t.ldg.ckpt = s.ldg.ckpt) ∧
      (clearBit s.ldg.pending n = 0#8 → t.ldg.pending = 0#8 ∧ t.ldg.flushing = none ∧ t.ldg.ckpt = some c ∧ t.ldg.ckptDone = true)) ∧
  (∀ (n : Nat) (s : State), halfLive s n = true →
    ∃ t, exec (.l2HalfLoss n) s = .next t ∧ t.ldg.halfLost.getLsbD n = true ∧ stackLive t n = false ∧ t.ldg.rollback.isSome = true ∧
      t.ldg.faultCount = s.ldg.faultCount + 1 ∧ t.ldg.flushing = none)

/-- R246, R247, R249: A write of one sector to a line without an entry takes an entry of its own while the buffer is far from its limits;
device memory keeps its bytes, and a read gives the enabled bytes from the buffer over those of the stack. An entry without partly
enabled sectors drains: it leaves the buffer; each of its whole sectors stands in device memory with right check bytes, or with the
poison syndrome where the data came poisoned, or where several writes together covered a sector that memory holds poisoned; every other
byte of memory is as before. Choices and readings of the model that it rests on: log 24. -/
def Obligations.WriteCombiningBuffer : Prop :=
  (∀ (addr : Nat) (en : BitVec 32) (d : BitVec 256) (s : State),
    let a := addr / 32 * 32
    let n := stackOf a
    ctlServes s n = true → en ≠ 0#32 → (getCtl s n).entry (lineOf a) = none → (getCtl s n).wcb.length < 64 →
    (getCtl s n).wcb.length + 1 < (getCtl s n).cfgEff.wcbHigh.toNat →
    ∃ t e, exec (.wcbWrite addr en d) s = .next t ∧ OnlyCtl n s t ∧ (getCtl t n).wcb = (getCtl s n).wcb ++ [e] ∧ e.line = lineOf a ∧
      (∀ j, j < 4 → e.en j = if j = a / 32 % 4 then en else 0#32) ∧
      (chkAt s a = 0#32 → (ctlRead a t).1.poison = false ∧
        ∀ b, b < 32 → byteOf (ctlRead a t).1.data b = if en.getLsbD b then byteOf d b else memByte s (a + b))) ∧
  (∀ (n line : Nat) (s : State) (e : WcbEntry), (getCtl s n).entry line = some e → ctlServes s n = true →
    (∀ k, k < 4 → e.en k = 0#32 ∨ e.en k = BitVec.allOnes 32) →
    ∃ t, exec (.wcbIdleDrain n line) s = .next t ∧ (∀ x ∈ (getCtl t n).wcb, x.line ≠ line) ∧
      (∀ k b, k < 4 → b < 32 → e.en k = BitVec.allOnes 32 → memByte t (line * 128 + 32 * k + b) = byteOf (e.dat k) b) ∧
      (∀ k, k < 4 → e.en k = BitVec.allOnes 32 → chkAt t (line * 128 + 32 * k) =
        if e.poison.getLsbD k || (!e.covers k && storedDecode s (line * 128 + 32 * k) == .poison) then poisonQ else 0#32) ∧
      (∀ x, (∀ k, k < 4 → e.en k = BitVec.allOnes 32 → ¬ (line * 128 + 32 * k ≤ x ∧ x < line * 128 + 32 * k + 32)) → memByte t x = memByte s x) ∧
      t.regions = s.regions ∧ t.errs = s.errs)

/-- R245, R251, R252, R253, R467: A read that meets no error counts one sector and the transfers it retried, at most four, and changes no
byte of memory; a fifth failure of the transfer starts the PHY's retraining, and its end lets the controller serve again or loses the
stack. A refresh leaves every byte of memory; refresh doubles from 85 degrees and returns below 80; the patrol scrub steps to the next
sector, wraps at the end of the stack, rewrites a corrected sector with right check bytes, and changes no byte of a sector without an
error. Choices and readings of the model that it rests on: log 23, 24. -/
def Obligations.MemoryUpkeep : Prop :=
  ((∀ (addr fails : Nat) (s : State), ctlServes s (stackOf (addr / 32 * 32)) = true → fails ≤ 4 → chkAt s (addr / 32 * 32) = 0#32 →
    (getCtl s (stackOf (addr / 32 * 32))).entry (lineOf (addr / 32 * 32)) = none →
    ∃ t, exec (.memRead addr ⟨0#256, 0#32⟩ ⟨0#256, 0#32⟩ fails) s = .next t ∧ OnlyCtl (stackOf (addr / 32 * 32)) s t ∧
      (getCtl t (stackOf (addr / 32 * 32))).run.traffic.rdSectors = (getCtl s (stackOf (addr / 32 * 32))).run.traffic.rdSectors + 1#32 ∧
      (getCtl t (stackOf (addr / 32 * 32))).run.ecc.ifRetry = satAdd (getCtl s (stackOf (addr / 32 * 32))).run.ecc.ifRetry fails ∧
      (getCtl t (stackOf (addr / 32 * 32))).retraining = false) ∧
  (∀ (addr fails : Nat) (s : State), ctlServes s (stackOf (addr / 32 * 32)) = true → 4 < fails →
    ∃ t, exec (.memRead addr ⟨0#256, 0#32⟩ ⟨0#256, 0#32⟩ fails) s = .next t ∧ OnlyCtl (stackOf (addr / 32 * 32)) s t ∧
      (getCtl t (stackOf (addr / 32 * 32))).retraining = true ∧ ctlServes t (stackOf (addr / 32 * 32)) = false) ∧
  (∀ (n : Nat) (s : State), (getCtl s n).retraining = true →
    ((getHome s n).pinWait = [] → ∃ t, exec (.phyRetrainDone n true) s = .next t ∧ OnlyCtl n s t ∧ (getCtl t n).retraining = false) ∧
    (stackLive s n = true → ∃ t, exec (.phyRetrainDone n false) s = .next t ∧ stackLive t n = false ∧ t.ldg.rollback.isSome = true))) ∧
  ((∀ (n pc bank : Nat) (s : State), stackLive s n = true → pc < 64 → bank < 64 →
    ∃ t, exec (.refresh n pc bank) s = .next t ∧ OnlyCtl n s t ∧
      ∀ k, tabGet 0 (getCtl t n).refreshed k = tabGet 0 (getCtl s n).refreshed k + if k = pc * 64 + bank then 1 else 0) ∧
  (∀ (n : Nat) (c : BitVec 8) (s : State), stackLive s n = true →
    ∃ t, exec (.tempRead n c) s = .next t ∧ OnlyCtl n s t ∧ (getCtl t n).tempC = c ∧
      (85 ≤ c.toNat → (getCtl t n).refresh2x = true) ∧ (c.toNat < 80 → (getCtl t n).refresh2x = false) ∧
      (80 ≤ c.toNat → c.toNat < 85 → (getCtl t n).refresh2x = (getCtl s n).refresh2x)) ∧
  (∀ (n : Nat) (s : State), ctlServes s n = true → (getCtl s n).scrub.offset.toNat + 32 ≤ stackBytes → (getCtl s n).scrub.offset.toNat % 32 = 0 →
    let a := n * stackBytes + (getCtl s n).scrub.offset.toNat
    (chkAt s a = 0#32 → ∃ t, exec (.patrolScrub n ⟨0#256, 0#32⟩ ⟨0#256, 0#32⟩) s = .next t ∧ OnlyCtl n s t ∧
      (getCtl t n).scrub = if (getCtl s n).scrub.offset.toNat + 32 = stackBytes then { offset := 0#37, passes := satInc (getCtl s n).scrub.passes }
        else { (getCtl s n).scrub with offset := BitVec.ofNat 37 ((getCtl s n).scrub.offset.toNat + 32) }) ∧
    (∀ p v, storedDecode s a = .corrected p v → (getCtl s n).entry (lineOf a) = none →
      ∃ t, exec (.patrolScrub n ⟨0#256, 0#32⟩ ⟨0#256, 0#32⟩) s = .next t ∧ chkAt t a = 0#32 ∧ memSector t a = correctData (memSector s a) p v ∧
        ∀ x, ¬ (a ≤ x ∧ x < a + 32) → memByte t x = memByte s x)))

/-- R256, R257: Copying one line of a region that is being mirrored puts its four sectors into the copy and steps to the next line; the last
line ends the copying and completes the command. -/
def Obligations.MirrorCopy : Prop :=
  ∀ (base a : Nat) (s : State) (rg : Region), s.regions.find? (fun r => r.base == base) = some rg → rg.mirrorNext = some a → a % 128 = 0 →
    ctlServes s (stackOf a) = true → ctlServes s (partnerOf (stackOf a)) = true →
    (getCtl s (stackOf a)).wcb = [] → (getCtl s (partnerOf (stackOf a))).wcb = [] → 1 < (getCtl s (partnerOf (stackOf a))).cfgEff.wcbHigh.toNat →
    (∀ k, k < 4 → chkAt s (a + 32 * k) = 0#32) →
    ∃ t, exec (.mirrorLineCopy base) s = .next t ∧
      (∀ b, b < 128 → memByte t (copyAddr a + b) = memByte s (a + b)) ∧ (∀ k, k < 4 → chkAt t (copyAddr a + 32 * k) = 0#32) ∧
      (∀ x, ¬ (copyAddr a ≤ x ∧ x < copyAddr a + 128) → memByte t x = memByte s x) ∧
      (∀ r ∈ t.regions, r.base = base → r.mirrorNext = if rg.base + rg.len ≤ a + 128 then none else some (a + 128)) ∧
      (∀ id c, rg.mirrorCmd = some id → getCmd s id = some c → c.phase ≠ .done → rg.base + rg.len ≤ a + 128 →
        ∃ c', getCmd t id = some c' ∧ c'.phase = .done ∧ c'.status = stOk ∧ c'.result = 0#64)

/-- R472, R473, R474, R476: The SRAM scrub records a corrected or an uncorrectable word and nothing else; a new error record takes the next
sequence number, the stage and the time at the head of a log of 16384; an error that merges only raises the count of the record it
merges into. -/
def Obligations.ErrorRecords : Prop :=
  (∀ (word : Nat) (err : WordErr) (s : State),
    (∀ p v, decodeSyndromes (syndromes err.data err.chk) = .corrected p v → exec (.sramScrub word err) s =
      .next (logErr { cls := 1, source := 0x0A, addr := BitVec.ofNat 64 (32 * word), syndrome := syndromes err.data err.chk, symbol := p, evalue := v } s)) ∧
    (decodeSyndromes (syndromes err.data err.chk) = .uncorrectable → exec (.sramScrub word err) s =
      .next (logErr { cls := 2, source := 0x0A, addr := BitVec.ofNat 64 (32 * word), syndrome := syndromes err.data err.chk } s)) ∧
    (err = ⟨0#256, 0#32⟩ → exec (.sramScrub word err) s = .next s)) ∧
  (∀ (r : ErrRec) (s : State),
    ((∀ x ∈ s.errs, mergesWith x { r with seq := s.errSeq, bell := s.stg.num, tNs := s.stg.ptpNow } = false) →
      logErr r s = { s with errs := ({ r with seq := s.errSeq, bell := s.stg.num, tNs := s.stg.ptpNow } :: s.errs).take 16384, errSeq := s.errSeq + 1 }) ∧
    (∀ x ∈ s.errs, mergesWith x { r with seq := s.errSeq, bell := s.stg.num, tNs := s.stg.ptpNow } = true →
      (logErr r s).errSeq = s.errSeq ∧ (logErr r s).errs.length = s.errs.length ∧
      { x with count := min (x.count + 1) 0xFFFF } ∈ (logErr r s).errs ∧ { logErr r s with errs := s.errs } = s))

/-- R241, R242: A word that arrives with an error the code corrects is counted and goes on. One that arrives uncorrectable is sent again: if
it then arrives right or correctable, that is counted; if it fails once more, every running leg is discarded, and the third such fault
within one second loses the link. None of this changes a byte of memory. A link that fails its training is lost, and the link to a
processor die takes the die. Choices and readings of the model that it rests on: log 27. -/
def Obligations.DieToDieLinks : Prop :=
  (∀ (n lane : Nat) (err again : WordErr) (s : State), linkLive s n = true →
    (∀ p v, decodeSyndromes (syndromes err.data err.chk) = .corrected p v →
      ∃ t, exec (.linkResend n lane ⟨err, again⟩) s = .next t ∧ t.mem = s.mem ∧ t.itins = s.itins ∧ t.ldg = s.ldg ∧
        (tabGet {} t.sb.links n : Link).regs = { (tabGet {} s.sb.links n : Link).regs with corrected := satInc (tabGet {} s.sb.links n : Link).regs.corrected }) ∧
    (decodeSyndromes (syndromes err.data err.chk) = .uncorrectable → decodeSyndromes (syndromes again.data again.chk) ≠ .uncorrectable →
      ∃ t, exec (.linkResend n lane ⟨err, again⟩) s = .next t ∧ t.mem = s.mem ∧ t.itins = s.itins ∧ t.ldg = s.ldg ∧
        (tabGet {} t.sb.links n : Link).regs.resent = satInc (tabGet {} s.sb.links n : Link).regs.resent ∧
        (tabGet {} t.sb.links n : Link).regs.failed = (tabGet {} s.sb.links n : Link).regs.failed) ∧
    (decodeSyndromes (syndromes err.data err.chk) = .uncorrectable → decodeSyndromes (syndromes again.data again.chk) = .uncorrectable →
      ∃ t, exec (.linkResend n lane ⟨err, again⟩) s = .next t ∧ (∀ k, legOf t k = none) ∧ t.mem = s.mem ∧
        (tabGet {} t.sb.links n : Link).regs.failed = satInc (tabGet {} s.sb.links n : Link).regs.failed ∧
        (2 ≤ ((tabGet {} s.sb.links n : Link).faultTimes.filter (fun x => decide (s.stg.upNs < x + secNs))).length → linkLive t n = false))) ∧
  (∀ (n : Nat) (s : State), linkLive s n = true →
    ∃ t, exec (.linkTrainingFail n) s = .next t ∧ linkLive t n = false ∧ t.ldg.linkLost.getLsbD n = true ∧ t.mem = s.mem ∧
      (n = 4 → (getPx t 0).live = false) ∧ (n = 5 → (getPx t 1).live = false))

/-- R310, R311, R314, R330: An 8-byte SEAL write with the right EPOCH and the expected SEQ makes its slot full with the value written; one
that fails a test, or is narrower, only counts. A CQ_CTL write of 8 bytes with the right EPOCH and a head that the ring's tail allows is
taken; any other only counts. A SEAL or CQ_CTL write of any width by a pigeonhole's owner, at a word that its home holds valid and
alone, is performed there and reported to its pigeonhole, and to no other. Choices and readings of the model that it rests on: log 67. -/
def Obligations.SealAndRingWrites : Prop :=
  (∀ (n : Nat) (v : Word) (s : State),
    (∀ slot, n < phCount → slot < 256 → (getPh s n).st = .open_ →
      ((v.extractLsb' 16 8 = (getPh s n).epoch ∧ (v.setWidth 16 : BitVec 16).toNat % 256 = slot ∧ ((v.setWidth 16 : BitVec 16) - (getPh s n).head).toNat < 256) →
        tabGet none (getPh (sealReport n slot true v s) n).full slot = some v ∧
        (getPh (sealReport n slot true v s) n).err = (getPh s n).err ∧
        ∀ k, k ≠ slot → tabGet none (getPh (sealReport n slot true v s) n).full k = tabGet none (getPh s n).full k) ∧
      (¬ (v.extractLsb' 16 8 = (getPh s n).epoch ∧ (v.setWidth 16 : BitVec 16).toNat % 256 = slot ∧ ((v.setWidth 16 : BitVec 16) - (getPh s n).head).toNat < 256) →
        (getPh (sealReport n slot true v s) n).full = (getPh s n).full ∧
        (getPh (sealReport n slot true v s) n).err = { (getPh s n).err with badSeal := satInc (getPh s n).err.badSeal }) ∧
      (getPh (sealReport n slot false v s) n).full = (getPh s n).full ∧
      (getPh (sealReport n slot false v s) n).err = { (getPh s n).err with partialSeal := satInc (getPh s n).err.partialSeal }) ∧
    ((v.extractLsb' 16 8 = (getPh s n).epoch ∧ ((getPh s n).cqTail - (v.setWidth 16 : BitVec 16)).toNat ≤ 256 →
        (getPh (cqReport n true v s) n) = { getPh s n with cqHead := v.setWidth 16 }) ∧
     (¬ (v.extractLsb' 16 8 = (getPh s n).epoch ∧ ((getPh s n).cqTail - (v.setWidth 16 : BitVec 16)).toNat ≤ 256) →
        (getPh (cqReport n true v s) n) = { getPh s n with err := { (getPh s n).err with badCqh := satInc (getPh s n).err.badCqh } }) ∧
     (getPh (cqReport n false v s) n) = { getPh s n with err := { (getPh s n).err with badCqh := satInc (getPh s n).err.badCqh } })) ∧
  (∀ (n width : Nat) (v : Word) (s : State) (rg : Region) (x : Line), n < phCount → (getPh s n).st ≠ .closed → (getPh s n).area % 128 = 0 → 0 < width →
    (∀ slot, slot < 256 → phAt s ((getPh s n).area + slot * 64 + 0x38) = some n →
      WriteReady (if n < 64 then .px 0 else .network) ((getPh s n).area + slot * 64 + 0x38) rg x s →
      ∃ t, exec (.sealWrite n slot width v) s = .next t ∧
        WordWritten ((getPh s n).area + slot * 64 + 0x38) rg ((wordBytes 8 v).take width) s t ∧
        getPh t n = getPh (sealReport n slot (decide (8 ≤ width)) v s) n ∧ ∀ m, m ≠ n → getPh t m = getPh s m) ∧
    (phAt s ((getPh s n).area + 0x4000) = some n → WriteReady (if n < 64 then .px 0 else .network) ((getPh s n).area + 0x4000) rg x s →
      ∃ t, exec (.cqCtl n width v) s = .next t ∧ WordWritten ((getPh s n).area + 0x4000) rg ((wordBytes 8 v).take width) s t ∧
        getPh t n = getPh (cqReport n (decide (8 ≤ width)) v s) n ∧ ∀ m, m ≠ n → getPh t m = getPh s m))

/-- R319, R322, R323, R334: The Innkeeper accepts the slot at HEAD of the pigeonhole whose turn it is: HEAD steps, the slot is free, and the
command enters the table under the next identifier. Where its checks pass it joins the tail of its class queue, and a guest.close puts
the open pigeonhole that it names into DRAINING and drops its full slots; where one fails, it is done with that status. No other
pigeonhole and no other command changes. Choices and readings of the model that it rests on: log 37, 38, 39. -/
def Obligations.Acceptance : Prop :=
  ∀ (n slot : Nat) (sealV : Word) (bs : List Byte) (s s1 : State), innkUp s = true → isTurn s n = true → headSlot s n = some (slot, sealV) →
    homeReadBytes .innkeeper ((getPh s n).area + slot * 64) 64 s = (some bs, s1) → s1.innk = s.innk →
    ∃ t, exec (.accept n) s = .next t ∧ t.innk.nextCmd = s.innk.nextCmd + 1 ∧ t.innk.lastVisited = n ∧ t.mem = s1.mem ∧
      (getPh t n).head = (getPh s n).head + 1#16 ∧ tabGet none (getPh t n).full slot = none ∧ (∀ id, id ≠ s.innk.nextCmd → getCmd t id = getCmd s id) ∧
      (acceptCheck s1 (slotCmd s1 n slot bs) sealV (bs.getD 2 0#8) (bs.getD 3 0#8) = none →
        getCmd t s.innk.nextCmd = some { slotCmd s1 n slot bs with seen := seenNow s1 } ∧
        (∀ m, m ≠ n → getPh t m = if (slotCmd s1 n slot bs).opcode = 0x0502#16 ∧ m = 64 + (slotCmd s1 n slot bs).num 0 ∧ (getPh s m).st = .open_ then
          { getPh s m with st := .draining, full := [] } else getPh s m) ∧
        ((slotCmd s1 n slot bs).opcode = 0x0502#16 → n = 64 + (slotCmd s1 n slot bs).num 0 → (getPh s n).st = .open_ →
          (getPh t n).st = .draining ∧ (getPh t n).full = []) ∧
        ((slotCmd s1 n slot bs).cls = 0 → t.innk.urgQ = s.innk.urgQ ++ [s.innk.nextCmd] ∧ t.innk.normQ = s.innk.normQ ∧ t.innk.bulkQ = s.innk.bulkQ) ∧
        ((slotCmd s1 n slot bs).cls = 1 → t.innk.normQ = s.innk.normQ ++ [s.innk.nextCmd] ∧ t.innk.urgQ = s.innk.urgQ ∧ t.innk.bulkQ = s.innk.bulkQ) ∧
        ((slotCmd s1 n slot bs).cls = 2 → t.innk.bulkQ = s.innk.bulkQ ++ [s.innk.nextCmd] ∧ t.innk.urgQ = s.innk.urgQ ∧ t.innk.normQ = s.innk.normQ)) ∧
      (∀ st, acceptCheck s1 (slotCmd s1 n slot bs) sealV (bs.getD 2 0#8) (bs.getD 3 0#8) = some st →
        (∀ m, m ≠ n → getPh t m = getPh s m) ∧
        ∃ c, getCmd t s.innk.nextCmd = some c ∧ c.phase = .done ∧ c.status = st ∧ c.result = 0#64)

/-- R324, R325, R326: The piece dispatched is the first that may run of the urgent queue, then of the normal, then of the bulk queue; it
leaves its queue and is at work. A bulk piece that has waited 16 Bells moves to the tail of the urgent queue. Choices and readings of
the model that it rests on: log 39. -/
def Obligations.DispatchAndAging : Prop :=
  (∀ (s : State) (id : Nat) (c : Cmd), innkUp s = true → nextPiece s = some id → getCmd s id = some c →
    ∃ t, exec .dispatch s = .next t ∧ atWork t id c.opcode.toNat = some { c with phase := .working, waitBells := 0 } ∧
      t.innk.urgQ = s.innk.urgQ.filter (· != id) ∧ t.innk.normQ = s.innk.normQ.filter (· != id) ∧ t.innk.bulkQ = s.innk.bulkQ.filter (· != id) ∧
      (∀ k, k ≠ id → getCmd t k = getCmd s k) ∧ { t with innk := s.innk } = s ∧
      (∃ before after, s.innk.urgQ ++ s.innk.normQ ++ s.innk.bulkQ = before ++ id :: after ∧ ∀ k ∈ before, dispatchable s k = false)) ∧
  (∀ (s : State), nextPiece s = none → exec .dispatch s = .next s) ∧
  (∀ (s : State) (id : Nat) (c : Cmd), innkUp s = true → getCmd s id = some c → id ∈ s.innk.bulkQ → 16 ≤ c.waitBells →
    ∃ t, exec (.agingPromotion id) s = .next t ∧ t.innk.urgQ = s.innk.urgQ ++ [id] ∧ t.innk.bulkQ = s.innk.bulkQ.filter (· != id) ∧
      t.innk.normQ = s.innk.normQ ∧ (∀ k, getCmd t k = getCmd s k) ∧ t.innk.stage.aged = satInc s.innk.stage.aged ∧ { t with innk := s.innk } = s)

/-- R329, R330, R336, R404: A command that is done leaves the table when its record is written: into the next entry of a runtime ring, at
its home; to an open guest as one write of the record's first three words, under RoCEv2 followed by one of its SEAL word. While the ring
holds 256 unconsumed records the command keeps its place and counts one wait; the record of a lost guest goes into the guest's lost log
of 256. The record of a command whose guest was lost carries ST_GUEST_LOST. The command has no porter or network work of its own to be
charged for. Choices and readings of the model that it rests on: log 32, 40, 44. -/
def Obligations.CompletionRecords : Prop :=
  ∀ (s : State) (id : Nat) (c : Cmd), getCmd s id = some c → c.phase = .done → innkWrites s c.ph = true →
    let p := getPh s c.ph
    let r := recordOf s p c.outcome
    let a := p.cq + 32 * (p.cqTail.toNat % 256)
    let next := isNextRecord s c = true ∧ cmdMoves s c.outcome = false
    (∀ rg x, c.ph < 64 → p.st ≠ .lost → (p.cqTail - p.cqHead).toNat < 256 → next → p.area = runtimeAreaBase + c.ph * 0x8000 → p.cq = p.area + 0x6000 →
      WriteReady .innkeeper a rg x s →
      ∃ t, exec (.completionRecord id) s = .next t ∧ getCmd t id = none ∧ (∀ k, k ≠ id → getCmd t k = getCmd s k) ∧
        (getPh t c.ph).cqTail = p.cqTail + 1#16 ∧ WordWritten a rg r.bytes s t ∧ t.ldg.cmds = s.ldg.cmds + 1) ∧
    (∀ q e, 64 ≤ c.ph → p.st = .open_ → (p.cqTail - p.cqHead).toNat < 256 → next → IdleRoce (c.ph - 64) q e s → 24 ≤ e.pmtu →
      ∃ t, exec (.completionRecord id) s = .next t ∧ getCmd t id = none ∧ (∀ k, k ≠ id → getCmd t k = getCmd s k) ∧
        (getPh t c.ph).cqTail = p.cqTail + 1#16 ∧ t.mem = s.mem ∧ t.ldg.cmds = s.ldg.cmds + 1 ∧
        ∃ q', (getGuest t (c.ph - 64)).qp = some q' ∧ q'.queue = [] ∧
          q'.unacked = q.unacked ++ [{ psn := q.txPsn, owner := .record c.ph r (p.cqTail.toNat % 256), type := 1, addr := a, payload := r.bytes.take 24 },
            { psn := (q.txPsn + 1) % 2 ^ 24, owner := .sealW c.ph (p.cqTail.toNat % 256), type := 1, addr := a + 24, payload := r.bytes.drop 24 }]) ∧
    (∀ k n port, 64 ≤ c.ph → p.st = .open_ → (p.cqTail - p.cqHead).toNat < 256 → next → IdleRelay (c.ph - 64) k n port s →
      ∃ t, exec (.completionRecord id) s = .next t ∧ getCmd t id = none ∧ (∀ j, j ≠ id → getCmd t j = getCmd s j) ∧
        (getPh t c.ph).cqTail = p.cqTail + 1#16 ∧ t.mem = s.mem ∧ t.ldg.cmds = s.ldg.cmds + 1 ∧
        ∃ n', getConn t k = some n' ∧ n'.queue = [] ∧
          n'.unacked = n.unacked ++ [{ psn := n.txPsn, owner := .record c.ph r (p.cqTail.toNat % 256), type := 1, addr := a, payload := r.bytes.take 24 }]) ∧
    (p.st ≠ .lost → 256 ≤ (p.cqTail - p.cqHead).toNat → c.cqWaited = false →
      ∃ t, exec (.completionRecord id) s = .next t ∧ getCmd t id = some { c with cqWaited := true } ∧
        t.innk.stall.cqWaits = satInc s.innk.stall.cqWaits ∧ { t with innk := s.innk } = s) ∧
    (p.st = .lost → next → c.ph ≥ 64 → p.lostLog.length < 256 →
      ∃ t, exec (.completionRecord id) s = .next t ∧ getCmd t id = none ∧ (getPh t c.ph).lostLog = p.lostLog ++ [r] ∧ t.mem = s.mem) ∧
    (∀ w, c.lost = some w → r.status = stGuestLost ∧ r.result = if w then 1#64 else 0#64)

/-- R307: A lockstep mismatch restarts the Innkeeper, and a second one within 10 seconds halts it. After a restart the porters hold no
pieces of commands; a command that was at work, or that waited for pieces that porters held, is queued again, with those pieces to be
dispatched again from their start; nothing else of the command table has changed. Choices and readings of the model that it rests on:
log 39. -/
def Obligations.LockstepRestart : Prop :=
  (∀ (s : State), s.innk.innk.halted ≠ 1#1 → s.mdl.st = .running →
    ((∀ t0, s.innk.lastMismatch = some t0 → t0 + 10000000000 < s.stg.upNs) →
      ∃ t, exec .lockstepMismatch s = .next t ∧ t.innk.innk.restarting = 1#1 ∧ t.innk.innk.restarts = satInc s.innk.innk.restarts ∧
        t.innk.lastMismatch = some s.stg.upNs ∧ t.innk.cmds = s.innk.cmds ∧ innkUp t = false) ∧
    ((∃ t0, s.innk.lastMismatch = some t0 ∧ s.stg.upNs ≤ t0 + 10000000000) →
      ∃ t, exec .lockstepMismatch s = .next t ∧ t.innk.innk.halted = 1#1 ∧ t.innk.cmds = s.innk.cmds ∧ innkUp t = false ∧ t.mem = s.mem)) ∧
  (∀ (s : State), s.innk.innk.restarting = 1#1 →
    ∃ t, exec .innkeeperRestartDone s = .next t ∧ t.innk.innk.restarting = 0#1 ∧ t.mem = s.mem ∧ t.innk.phs = s.innk.phs ∧
      (∀ p, (getPorter t p).cmdQ = [] ∧ (getPorter t p).legQ = (getPorter s p).legQ) ∧
      (∀ id c, getCmd s id = some c →
        ((c.phase = .working ∨ (heldPieces s id ≠ [] ∧ c.phase = .waiting)) →
          getCmd t id = some { c with again := c.again ++ heldPieces s id, outstanding := c.outstanding - (heldPieces s id).length, phase := .queued } ∧
          (id ∈ t.innk.urgQ ∨ id ∈ t.innk.normQ ∨ id ∈ t.innk.bulkQ)) ∧
        (¬ (c.phase = .working ∨ (heldPieces s id ≠ [] ∧ c.phase = .waiting)) →
          getCmd t id = some { c with again := c.again ++ heldPieces s id, outstanding := c.outstanding - (heldPieces s id).length })))

/-- R340: A command at work whose argument words have a bit set that the command does not read completes with ST_BAD_ARG; a porter command
is checked at its first piece, a guest.open before its transport is up. Choices and readings of the model that it rests on: log 38. -/
def Obligations.UnusedArgumentBits : Prop :=
  ∀ (id op : Nat) (masks : List Nat) (i : Instr) (c : Cmd) (s : State),
    (i, op, masks) ∈ ([
      (.deviceIdent id, 0x0001, []), (.deviceCaps id, 0x0002, [allBits, allBits]), (.clusterOffline id, 0x0003, [0x3FF]), (.timeStatus id, 0x0010, []),
      (.stageConfig id, 0x0011, [0x00FFFFFF03FF7FFF, 0xF]), (.itineraryLoad id, 0x0101, [allBits, allBits]), (.itineraryEvict id, 0x0102, [0xFFF]),
      (.itineraryQuery id, 0x0103, [0xFFF]), (.stageBind id, 0x0104, [0xFFF, allBits, allBits, allBits]), (.stageUnbind id, 0x0105, [0xFFF, allBits]),
      (.jobPrepare id, 0x0201, [allBits, 0xFFF, allBits, allBits, allBits]), (.jobConfirm id, 0x0202, [allBits]), (.jobStop id, 0x0203, [allBits, allBits]),
      (.jobAwait id, 0x0204, [allBits, allBits]), (.jobStatus id, 0x0205, [allBits]), (.regionMap id, 0x0301, [allBits, allBits, 0xFF1F]),
      (.regionUnmap id, 0x0302, [allBits]), (.regionSeal id, 0x0303, [allBits]), (.regionMirror id, 0x0304, [allBits, 1]),
      (.regionPin id, 0x0305, [allBits, allBits]), (.regionUnpin id, 0x0306, [allBits, allBits]), (.regionQuery id, 0x0307, [allBits]),
      (.porterCopy id, 0x0401, [allBits, allBits, allBits]), (.porterFill id, 0x0402, [allBits, allBits, allBits]),
      (.porterPush id, 0x0403, [allBits, allBits, allBits, 0x3FFF]), (.porterPull id, 0x0404, [allBits, allBits, allBits, 0x3FFF]),
      (.guestOpen id, 0x0501, [0x3FFF, allBits, allBits, 0x303FF, allBits]), (.guestClose id, 0x0502, [0x3FFF]),
      (.guestWindow id, 0x0503, [0x3FFF, allBits, allBits, 0xFF]), (.powerCap id, 0x0601, [0xFFFF]), (.coolantTarget id, 0x0602, [0xFFFF]),
      (.energyRead id, 0x0603, [3, allBits]), (.ledgerRead id, 0x0701, [allBits, allBits, allBits]), (.faultRead id, 0x0702, [1, allBits, allBits, allBits]),
      (.fwStage id, 0x0801, [allBits, allBits, 0xF]), (.fwCommit id, 0x0802, [0xF]), (.fwStatus id, 0x0803, [0xF]),
      (.attestQuote id, 0x0804, [allBits, allBits, allBits, 0xFFFFFFFF])] : List (Instr × Nat × List Nat)) →
    (op = 0x0501 → ((getGuest s (c.num 0)).connected && (getGuest s (c.num 0)).openCmd == some id) = false) →
    atWork s id op = some c → c.piece = 0 → argsFit c masks = false →
    ∃ t, exec i s = .next t ∧ CmdDone id stBadArg 0 s t

/-- R22, R333, R343, R347, R348, R349, R350, R354, R355, R356, R357, R358: What the commands on the device, its time and its stage
configuration, and those on resident itineraries do when their checks pass: each completes with the RESULT the spec gives, or is decided
now, to take effect at its Bell. A stage.bind or stage.unbind accepted before an eviction of its itinerary that has been decided
completes with ST_ABORTED. Choices and readings of the model that it rests on: log 37, 38, 41. -/
def Obligations.DeviceAndItineraryCommands : Prop :=
  ∀ (id : Nat) (c : Cmd) (s : State),
    (atWork s id 0x0001 = some c → argsFit c [] = true → ∃ t, exec (.deviceIdent id) s = .next t ∧ CmdDone id stOk Config.deviceId.toNat s t) ∧
    (atWork s id 0x0002 = some c → argsFit c [allBits, allBits] = true → c.num 1 = 64 → c.guest = none → cmdRange s c true (c.num 0) 64 = none →
      ∀ s1, homeWriteBytes .innkeeper (c.num 0) (capRecord s) s = (true, s1) → getCmd s1 id = some c →
        ∃ t, exec (.deviceCaps id) s = .next t ∧ CmdDone id stOk 64 s1 t) ∧
    (∀ g q e, atWork s id 0x0002 = some c → argsFit c [allBits, allBits] = true → c.num 1 = 64 → c.guest = some g → IdleRoce g q e s → 0 < e.pmtu →
      ∃ t, exec (.deviceCaps id) s = .next t ∧ BufferSent id g c 64 64 s t) ∧
    (atWork s id 0x0003 = some c → argsFit c [0x3FF] = true → clusterIdWf (c.num 0) = true →
      (clusterFitted s (c.num 0) = true → clusterLive s (c.num 0) = true →
        ∃ t, exec (.clusterOffline id) s = .next t ∧ CmdDecided id (.clusterOffline (c.num 0) id) (takeOffline (c.num 0) s) t ∧
          (getCluster t (c.num 0)).offline = true) ∧
      (clusterFitted s (c.num 0) = true → clusterLive s (c.num 0) = false →
        ∃ t, exec (.clusterOffline id) s = .next t ∧ CmdDone id stOk 0 s t) ∧
      (clusterFitted s (c.num 0) = false →
        ∃ t, exec (.clusterOffline id) s = .next t ∧ CmdDone id stNoUnit 0 s t)) ∧
    (atWork s id 0x0010 = some c → argsFit c [] = true →
      ∃ t, exec (.timeStatus id) s = .next t ∧ CmdDone id stOk (wordStgTimeState s.stg.time).toNat s t) ∧
    (atWork s id 0x0011 = some c → argsFit c [0x00FFFFFF03FF7FFF, 0xF] = true →
      (c.num 1 = 0 → ∃ t, exec (.stageConfig id) s = .next t ∧ CmdDone id stOk (wordStgCfg s.stg.cfg).toNat s t) ∧
      (c.num 1 ≠ 0 → stageCfgOk (cfgDecided s) (bitsNat (c.arg 0) 0 15) (bitsNat (c.arg 0) 16 10) (bitsNat (c.arg 0) 32 16) (bitsNat (c.arg 0) 48 8) (c.num 1) = true →
        (((c.num 1).testBit 0 = false ∧ (c.num 1).testBit 1 = false) ∨ c.seen.bound = false) →
        ∃ t, exec (.stageConfig id) s = .next t ∧ getCmd t id = some { c with phase := .waiting } ∧ t.stg.cfg = s.stg.cfg ∧
          t.stg.next.apply = 1#1 ∧ t.stg.next.bad = 0#1 ∧ t.mem = s.mem ∧ t.itins = s.itins ∧ t.clusters = s.clusters ∧
          t.stg.pend.lw = s.stg.pend.lw ++ (if (c.num 1).testBit 0 ∨ (c.num 1).testBit 1 then
            [{ len := if (c.num 1).testBit 0 then some (bitsNat (c.arg 0) 0 15) else none
               win := if (c.num 1).testBit 1 then some (bitsNat (c.arg 0) 16 10) else none, first := c.seen.first, cmd := some id }] else []) ∧
          t.stg.pend.cw = s.stg.pend.cw ++ (if (c.num 1).testBit 2 ∨ (c.num 1).testBit 3 then
            [{ ckpt := if (c.num 1).testBit 2 then some (bitsNat (c.arg 0) 32 16) else none
               wdog := if (c.num 1).testBit 3 then some (bitsNat (c.arg 0) 48 8) else none, bells := 2 - min 1 c.bells, cmd := some id }] else []))) ∧
    (∀ bs s1, atWork s id 0x0101 = some c → argsFit c [allBits, allBits] = true → c.num 1 ≠ 0 → cmdRange s c false (c.num 0) (c.num 1) = none →
      inSealed s (c.num 0) (c.num 1) = true → homeReadBytes .innkeeper (c.num 0) (c.num 1) s = (some bs, s1) → getCmd s1 id = some c →
      (imageStatus s1 bs = none →
        ∃ t d, exec (.itineraryLoad id) s = .next t ∧ getCmd t id = some d ∧ d.phase = .done ∧ d.status = stOk ∧
          d.result = BitVec.ofNat 64 (2 ^ 63 + freeSlot s1) ∧ getItin t (freeSlot s1) = some { image := imageOf (c.num 0) bs } ∧
          (∀ k, k ≠ freeSlot s1 → getItin t k = getItin s1 k) ∧ t.mem = s1.mem) ∧
      (∀ st, imageStatus s1 bs = some st → st ≠ stDenied → ∃ t, exec (.itineraryLoad id) s = .next t ∧ CmdDone id st 0 s1 t)) ∧
    (∀ i, getItin s (c.num 0) = some i → i.evicting = false →
      (atWork s id 0x0102 = some c → argsFit c [0xFFF] = true → jobActive s (c.num 0) = false →
        ∃ t, exec (.itineraryEvict id) s = .next t ∧
          CmdDecided id (.evict (c.num 0) id) (modItin (c.num 0) (fun x => { x with evicting := true }) s) t) ∧
      (atWork s id 0x0103 = some c → argsFit c [0xFFF] = true →
        ∃ t, exec (.itineraryQuery id) s = .next t ∧
          CmdDone id stOk ((i.binding.getD []).length + i.config * 2 ^ 16 + jobCode i.job * 2 ^ 24) s t) ∧
      (atWork s id 0x0105 = some c → argsFit c [0xFFF, allBits] = true →
        (endedByEvict s (c.num 0) id = true → ∃ t, exec (.stageUnbind id) s = .next t ∧ CmdDone id stAborted 0 s t) ∧
        (endedByEvict s (c.num 0) id = false → tooLate c (c.num 1) = true → ∃ t, exec (.stageUnbind id) s = .next t ∧ CmdDone id stLate 0 s t) ∧
        (endedByEvict s (c.num 0) id = false → tooLate c (c.num 1) = false →
          ∃ t, exec (.stageUnbind id) s = .next t ∧ CmdDecided id (.unbind (c.num 0) (bellInstant c (c.num 1)) id) s t)) ∧
      (atWork s id 0x0104 = some c → argsFit c [0xFFF, allBits, allBits, allBits] = true → c.num 3 ≠ 0 → endedByEvict s (c.num 0) id = true →
        ∃ t, exec (.stageBind id) s = .next t ∧ CmdDone id stAborted 0 s t) ∧
      (∀ b bs s1, atWork s id 0x0104 = some c → argsFit c [0xFFF, allBits, allBits, allBits] = true → c.num 3 ≠ 0 → endedByEvict s (c.num 0) id = false → i.image.bodies[i.config]? = some b →
        c.num 3 = b.clusters → i.image.lenUs = (cfgAtBell c (c.num 1)).lenUs.toNat →
        i.image.winUs = (cfgAtBell c (c.num 1)).winUs.toNat → (peerDevices i.image = [] ∨ i.image.ckptStages = s.stg.cfg.ckptStages.toNat) →
        cmdRange s c false (c.num 2) (2 * c.num 3) = none → homeReadBytes .innkeeper (c.num 2) (2 * c.num 3) s = (some bs, s1) → getCmd s1 id = some c →
        (placeOf bs (c.num 3)).all clusterIdWf = true → (placeOf bs (c.num 3)).eraseDups.length = c.num 3 →
        (∀ x ∈ placeOf bs (c.num 3), clusterLive s1 x = true ∧ (getCluster s1 x).offline = false) → s1.stg.time.state ≠ timeUnset →
        beforeRestart s1 (bellInstant c (c.num 1)) = false →
        clashes s1 (c.num 0) (bellInstant c (c.num 1)) (placeOf bs (c.num 3)) = [] → tooLate c (c.num 1) = false →
        ∃ t, exec (.stageBind id) s = .next t ∧
          CmdDecided id (.bind (c.num 0) (bellInstant c (c.num 1)) (placeOf bs (c.num 3)) id) (warmHalves (placeOf bs (c.num 3)) s1) t))

/-- R359, R360, R361, R362, R363: What the commands on jobs of one device do when their checks pass: job.prepare creates the job;
job.confirm waits for its Bell, or comes too late and stops the job; job.stop sets the stage at which the job stops and waits for it;
job.await and job.status report. A job that has been stopped in this stage keeps job.stop and job.await waiting until its Bell. Choices
and readings of the model that it rests on: log 38, 42, 63. -/
def Obligations.JobCommands : Prop :=
  ∀ (id k : Nat) (c : Cmd) (i : Itin) (s : State), getItin s k = some i → i.devicePeers = [] →
    (atWork s id 0x0201 = some c → argsFit c [allBits, 0xFFF, allBits, allBits, allBits] = true → c.num 4 ≠ 0 → c.num 1 = k →
      (noLoop i.image = false ∨ c.num 4 ≤ prologue i.image) → i.evicting = false → jobActive s k = false → jobSlotIf s (c.arg 0) Job.active = none →
      prepOf s (c.arg 0) = none → s.stg.time.state ≠ timeUnset → peerDevices i.image = [] → c.acceptedStage + 4 ≤ c.num 3 →
      ∃ t, exec (.jobPrepare id) s = .next t ∧ CmdDone id stOk (c.num 3) (createJob k (c.arg 0) (c.arg 2) (c.num 3) (c.num 4) false 1 s) t ∧
        ∃ i', getItin t k = some i' ∧ i'.job = some { id := c.arg 0, seed := c.arg 2, bell := c.num 3, stages := c.num 4, confirmed := false }) ∧
    (∀ j, i.job = some j → atWork s id 0x0202 = some c → argsFit c [allBits] = true → jobSlotIf s (c.arg 0) (fun j => j.st == .prepared) = some k →
      confirming s j.id = false →
      (c.acceptedStage + 1 < j.bell →
        ∃ t, exec (.jobConfirm id) s = .next t ∧ CmdWaits id (modItin k (fun x => { x with job := some { j with confirmed := true } }) s) t) ∧
      (j.bell ≤ c.acceptedStage + 1 →
        ∃ t, exec (.jobConfirm id) s = .next t ∧
          CmdDone id stLate 0 (endJobCmds j.id s.stg.num (modItin k (fun x => { x with job := some { j with st := .stopped, endBell := s.stg.num } }) s)) t ∧
          (getItin t k).bind (·.job) = some { j with st := .stopped, endBell := s.stg.num })) ∧
    (∀ j, i.job = some j → jobSlot s (c.arg 0) = some k →
      (atWork s id 0x0203 = some c → argsFit c [allBits, allBits] = true →
        (j.active = true →
          ∃ t, exec (.jobStop id) s = .next t ∧
            CmdWaits id (setStop k (if c.num 1 ≤ max c.acceptedStage s.stg.num then s.stg.num + 1 else c.num 1) s) t ∧
            ∃ j', (getItin t k).bind (·.job) = some j' ∧
              j'.stopAt = some (min (j.stopAt.getD (if c.num 1 ≤ max c.acceptedStage s.stg.num then s.stg.num + 1 else c.num 1))
                (if c.num 1 ≤ max c.acceptedStage s.stg.num then s.stg.num + 1 else c.num 1))) ∧
        (j.active = false → stopDue s j.id = true → ∃ t, exec (.jobStop id) s = .next t ∧ CmdWaits id s t) ∧
        (j.active = false → stopDue s j.id = false → ∃ t, exec (.jobStop id) s = .next t ∧ CmdDone id stOk j.endBell s t)) ∧
      (atWork s id 0x0204 = some c → argsFit c [allBits, allBits] = true → c.num 1 < j.stages →
        (c.num 1 < j.released → ∃ t, exec (.jobAwait id) s = .next t ∧ CmdDone id stOk s.stg.num s t) ∧
        (j.released ≤ c.num 1 → j.st = .stopped → stopDue s j.id = false → ∃ t, exec (.jobAwait id) s = .next t ∧ CmdDone id stAborted j.endBell s t) ∧
        (j.released ≤ c.num 1 → j.st ≠ .stopped ∨ stopDue s j.id = true → ∃ t, exec (.jobAwait id) s = .next t ∧ CmdWaits id s t)) ∧
      (atWork s id 0x0205 = some c → argsFit c [allBits] = true →
        ∃ t, exec (.jobStatus id) s = .next t ∧
          CmdDone id stOk (j.next % 2 ^ 48 + (jobCode i.job - 1) * 2 ^ 48 + i.config * 2 ^ 52) s t))

/-- R257, R343, R364, R365, R366, R367, R368: What the commands on regions do when their checks pass: region.map of a free range or of a
mapped one, region.unmap, region.seal, region.mirror, region.pin and region.unpin are decided now, to take effect at a Bell; sealing a
sealed region and mirroring a mirrored one complete at once; region.query answers the region word. Choices and readings of the model
that it rests on: log 43, 71. -/
def Obligations.RegionCommands : Prop :=
  ∀ (id : Nat) (c : Cmd) (s : State),
    (atWork s id 0x0301 = some c → argsFit c [allBits, allBits, 0xFF1F] = true → c.num 1 ≠ 0 → c.num 0 % 4096 = 0 → c.num 1 % 4096 = 0 →
      inDevice (c.num 0) (c.num 1) = true → stackOf (c.num 0) = stackOf (c.num 0 + c.num 1 - 1) →
      ((c.arg 2).getLsbD 3 = true → (c.arg 2).getLsbD 0 = true) → stackLive s (stackOf (c.num 0)) = true →
      (decidedAt s (c.num 0) = none → mapConflict s (c.num 0) (c.num 1) none = none → (mapDecided s).length < 65536 →
        ∃ t, exec (.regionMap id) s = .next t ∧
          CmdDecided id (.mapNew { base := c.num 0, len := c.num 1, ro := (c.arg 2).getLsbD 0, policy := bitsNat (c.arg 2) 1 2,
                                   bypass := (c.arg 2).getLsbD 3, keep := (c.arg 2).getLsbD 4, pkey := bitsNat (c.arg 2) 8 8 } id) s t) ∧
      (∀ r, decidedAt s (c.num 0) = some r → r.len = c.num 1 → mapConflict s (c.num 0) (c.num 1) (some r.base) = none →
        (r.sealed = true → (c.arg 2).getLsbD 0 = true) →
        (holdsArea s r = true → (c.arg 2).getLsbD 4 = true ∧ bitsNat (c.arg 2) 1 2 = 1 ∧ r.mirrored = true) →
        ∃ t, exec (.regionMap id) s = .next t ∧
          CmdDecided id (.mapAttr (c.num 0) ((c.arg 2).getLsbD 0) (bitsNat (c.arg 2) 1 2) ((c.arg 2).getLsbD 3) ((c.arg 2).getLsbD 4)
            (bitsNat (c.arg 2) 8 8) id) s t)) ∧
    (∀ r, decidedAt s (c.num 0) = some r →
      (atWork s id 0x0302 = some c → argsFit c [allBits] = true → r.base ≠ runtimeAreaBase → holdsImage s r = false → holdsArea s r = false →
        ∃ t, exec (.regionUnmap id) s = .next t ∧ CmdDecided id (.unmap r.base id) s t) ∧
      (atWork s id 0x0303 = some c → argsFit c [allBits] = true →
        (r.sealed = false → ∃ t, exec (.regionSeal id) s = .next t ∧ CmdDecided id (.sealRegion r.base id) s t) ∧
        (r.sealed = true → ∃ t, exec (.regionSeal id) s = .next t ∧ CmdDone id stOk 0 s t)) ∧
      (atWork s id 0x0304 = some c → argsFit c [allBits, 1] = true →
        (c.num 1 = 0 → holdsArea s r = false → ∃ t, exec (.regionMirror id) s = .next t ∧ CmdDecided id (.mirrorOff r.base id) s t) ∧
        (c.num 1 = 1 → r.mirrored = true → ∃ t, exec (.regionMirror id) s = .next t ∧ CmdDone id stOk 0 s t) ∧
        (c.num 1 = 1 → r.mirrored = false → r.fromCopy = false → stackLive s (partnerOf (stackOf r.base)) = true →
          halfLive s (partnerOf (stackOf r.base)) = true → mapConflict s (copyAddr r.base) r.len (some r.base) = none →
          ∃ t, exec (.regionMirror id) s = .next t ∧ CmdDecided id (.mirrorOn r.base id) s t))) ∧
    (argsFit c [allBits, allBits] = true → c.num 1 ≠ 0 → c.num 0 % 128 = 0 → c.num 1 % 128 = 0 →
      lowestBad ((mapDecided s).flatMap (fun r => [r.base, r.base + r.len])) (c.num 0) (c.num 1) (fun x => ((mapDecided s).find? (·.has x)).isNone) = none →
      lowestBad ((mapDecided s).flatMap (fun r => [r.base, r.base + r.len])) (c.num 0) (c.num 1)
        (fun x => match (mapDecided s).find? (·.has x) with | some r => !halfLive s (r.home x) | none => false) = none →
      (atWork s id 0x0305 = some c → ∃ t, exec (.regionPin id) s = .next t ∧ CmdDecided id (.pin (c.num 0) (c.num 1) id) s t) ∧
      (atWork s id 0x0306 = some c → ∃ t, exec (.regionUnpin id) s = .next t ∧ CmdDecided id (.unpin (c.num 0) (c.num 1) id) s t)) ∧
    (atWork s id 0x0307 = some c → argsFit c [allBits] = true →
      (∀ r, regionAt s (c.num 0) = some r → ∃ t, exec (.regionQuery id) s = .next t ∧ CmdDone id stOk (regionWord r) s t) ∧
      (regionAt s (c.num 0) = none → ∃ t, exec (.regionQuery id) s = .next t ∧ CmdDone id stOk 0 s t))

/-- R324, R334, R335, R369, R370, R371, R372, R425, R519: A porter command's next piece enters the queue of the porter that has the fewest
bytes queued. A guest.open waits for its transport; where RoCEv2 has its port, the pigeonhole opens at once with the next EPOCH, or,
where a SEAL word waits for a processor cache, the opening is tried again. A guest.close of a closed or lost pigeonhole completes; of
another it begins draining, and closes it where nothing of it is in flight. A guest.window is decided now, to take effect at a Bell.
Choices and readings of the model that it rests on: log 44. -/
def Obligations.PorterAndGuestCommands : Prop :=
  ∀ (id : Nat) (c : Cmd) (s : State),
    (∀ i op d masks p, (i, op, d, masks) ∈ ([
        (.porterCopy id, 0x0401, { op := 1, flush := false, guest := 0, src := c.num 0, dst := c.num 1, len := c.num 2, pattern := 0#64, owner := .cmd id 0 },
          [allBits, allBits, allBits]),
        (.porterFill id, 0x0402, { op := 2, flush := false, guest := 0, src := 0, dst := c.num 0, len := c.num 1, pattern := c.arg 2, owner := .cmd id 0 },
          [allBits, allBits, allBits]),
        (.porterPush id, 0x0403, { op := 3, flush := c.flush, guest := c.num 3, src := c.num 0, dst := c.num 1, len := c.num 2, pattern := 0#64, owner := .cmd id 0 },
          [allBits, allBits, allBits, 0x3FFF]),
        (.porterPull id, 0x0404, { op := 4, flush := false, guest := c.num 3, src := c.num 0, dst := c.num 1, len := c.num 2, pattern := 0#64, owner := .cmd id 0 },
          [allBits, allBits, allBits, 0x3FFF])] : List (Instr × Nat × Desc × List Nat)) →
      atWork s id op = some c → choosePorter s = some p → c.again = [] → c.lost = none →
      (c.piece = 0 → argsFit c masks = true ∧ d.len ≠ 0 ∧ d.len % 32 = 0 ∧ (d.op ≠ 2 → d.src % 32 = 0 ∨ d.op = 4) ∧ (d.op ≠ 3 → d.dst % 32 = 0) ∧
        (d.op = 1 → overlaps d.src d.len d.dst d.len = false) ∧ ((d.op = 1 ∨ d.op = 3) → cmdRange s c false d.src d.len = none) ∧
        (d.op ≠ 3 → cmdRange s c true d.dst d.len = none) ∧ ((d.op = 3 ∨ d.op = 4) → (getPh s (64 + d.guest)).st = .open_)) →
      ∃ t, exec i s = .next t ∧
        PieceQueued id c { d with src := if d.op = 2 then 0 else d.src + c.piece * 2 ^ 24, dst := d.dst + c.piece * 2 ^ 24
                                  len := min (2 ^ 24) (d.len - c.piece * 2 ^ 24), owner := .cmd id c.piece }
          (decide (c.piece * 2 ^ 24 + 2 ^ 24 < d.len)) p s t) ∧
    (∀ bs s1, ((getGuest s (c.num 0)).connected && (getGuest s (c.num 0)).openCmd == some id) = false → atWork s id 0x0501 = some c → argsFit c [0x3FFF, allBits, allBits, 0x303FF, allBits] = true → areaOk s (c.num 1) = true →
      c.num 2 % 0x2000 = 0 → 0 < bitsNat (c.arg 3) 0 9 → bitsNat (c.arg 3) 0 9 ≤ 256 → (bitsNat (c.arg 3) 16 2 = 1 ∨ bitsNat (c.arg 3) 16 2 = 2) →
      cmdRange s c false (c.num 4) 64 = none → homeReadBytes .innkeeper (c.num 4) 64 s = (some bs, s1) → getCmd s1 id = some c →
      endpointOk s1 (bitsNat (c.arg 3) 16 2 == 1) bs = true → areaTaken s1 (c.num 0) (c.num 1) = false →
      (∃ b l k, windowDecided s1 (c.num 0) = some (b, l, k) ∧ 0 < l) →
      (getPh s1 (64 + c.num 0)).st ≠ .open_ → (getPh s1 (64 + c.num 0)).st ≠ .draining →
      ((bitsNat (c.arg 3) 16 2 = 2 ∨ portUp s1 (endpointAt bs).port = false) →
        ∃ t, exec (.guestOpen id) s = .next t ∧ getCmd t id = some { c with phase := .waiting } ∧ (getGuest t (c.num 0)).openCmd = some id ∧
          (getGuest t (c.num 0)).endpoint = some (endpointAt bs) ∧ getPh t (64 + c.num 0) = getPh s1 (64 + c.num 0) ∧ t.mem = s1.mem) ∧
      (bitsNat (c.arg 3) 16 2 = 1 → portUp s1 (endpointAt bs).port = true → (getPh s1 (64 + c.num 0)).lostLog = [] →
        let s2 := modGuest (c.num 0) (fun x => { x with transport := some .roce, endpoint := some (endpointAt bs)
                                                        qp := some { txPsn := 0, rxPsn := (endpointAt bs).psn } })
          (modGuest (c.num 0) (fun x => { x with openCmd := some id, openArgs := some (c.num 1, c.num 2, bitsNat (c.arg 3) 0 9, (c.arg 3).getLsbD 9) })
            (waitCmd id (endTransport (c.num 0) s1)))
        ((zeroSeals (c.num 1) s2).1 = true →
          ∃ t, exec (.guestOpen id) s = .next t ∧
            getPh t (64 + c.num 0) = { st := .open_, urgentOk := (c.arg 3).getLsbD 9, epoch := nextEpoch (getPh s1 (64 + c.num 0)).epoch, area := c.num 1
                                       cq := c.num 2, maxInflight := bitsNat (c.arg 3) 0 9 }) ∧
        ((zeroSeals (c.num 1) s2).1 = false →
          ∃ t, exec (.guestOpen id) s = .next t ∧ (getGuest t (c.num 0)).connected = true ∧ (getGuest t (c.num 0)).openCmd = some id))) ∧
    (atWork s id 0x0502 = some c → argsFit c [0x3FFF] = true →
      ((getPh s (64 + c.num 0)).st = .closed → ∃ t, exec (.guestClose id) s = .next t ∧ CmdDone id stOk 0 s t) ∧
      ((getPh s (64 + c.num 0)).st = .lost →
        ∃ t, exec (.guestClose id) s = .next t ∧ CmdDone id stOk 0 (modPh (64 + c.num 0) (fun p => { p with st := .closed, lostLog := [] }) s) t ∧
          (getPh t (64 + c.num 0)).st = .closed) ∧
      (((getPh s (64 + c.num 0)).st = .open_ ∨ (getPh s (64 + c.num 0)).st = .draining) → (∃ k d, getCmd s k = some d ∧ d.ph = 64 + c.num 0 ∧ k ∉ (getGuest s (c.num 0)).closeCmds ∧ k ≠ id) →
        ∃ t, exec (.guestClose id) s = .next t ∧ getCmd t id = some { c with phase := .waiting } ∧
          getPh t (64 + c.num 0) = { getPh s (64 + c.num 0) with st := .draining, full := [] } ∧
          (getGuest t (c.num 0)).closeCmds = (getGuest s (c.num 0)).closeCmds ++ [id] ∧ t.mem = s.mem) ∧
      (((getPh s (64 + c.num 0)).st = .open_ ∨ (getPh s (64 + c.num 0)).st = .draining) → (∀ k d, getCmd s k = some d → d.ph ≠ 64 + c.num 0) →
        (getGuest s (c.num 0)).closeCmds = [] →
        ∃ t d, exec (.guestClose id) s = .next t ∧ getCmd t id = some d ∧ d.phase = .done ∧ d.status = stOk ∧
          getPh t (64 + c.num 0) = { getPh s (64 + c.num 0) with st := .closed, full := [] } ∧ t.mem = s.mem)) ∧
    (atWork s id 0x0503 = some c → argsFit c [0x3FFF, allBits, allBits, 0xFF] = true → c.num 2 ≠ 0 → c.num 1 % 4096 = 0 → c.num 2 % 4096 = 0 →
      inDevice (c.num 1) (c.num 2) = true → c.num 3 ≠ 0 → areaInWindow s (c.num 0) (c.num 1) (c.num 2) (c.num 3) = true →
      ∃ t, exec (.guestWindow id) s = .next t ∧ CmdDecided id (.window (c.num 0) (c.num 1) (c.num 2) (c.num 3) id) s t) ∧
    (atWork s id 0x0503 = some c → argsFit c [0x3FFF, allBits, allBits, 0xFF] = true → c.num 2 = 0 →
      ∃ t d, exec (.guestWindow id) s = .next t ∧ t.innk.acts = s.innk.acts ++ [.window (c.num 0) (c.num 1) 0 (c.num 3) id] ∧
        getCmd t id = some d ∧ d.phase = .done ∧ d.status = stOk)

/-- R373, R374, R375, R376, R489, R493, R497, R512, R513, R516: What the commands for power, coolant and energy, those that read records,
and those for firmware and quotes do when their checks pass: the settings they write, the records they deliver, the bank they fill or
commit, and their RESULT. The quote of a guest goes to the guest. Choices and readings of the model that it rests on: log 38, 45. -/
def Obligations.RecordAndFirmwareCommands : Prop :=
  ∀ (id : Nat) (c : Cmd) (s : State),
    (atWork s id 0x0601 = some c → argsFit c [0xFFFF] = true → 900 ≤ c.num 0 → c.num 0 ≤ s.variant.pmaxW →
      ∃ t, exec (.powerCap id) s = .next t ∧ t.pwr.cfg.capW.toNat = c.num 0 % 2 ^ 16 ∧
        CmdDone id stOk s.pwr.cfg.capW.toNat { s with pwr := t.pwr } t) ∧
    (atWork s id 0x0602 = some c → argsFit c [0xFFFF] = true → 450 ≤ c.num 0 → c.num 0 ≤ 650 →
      ∃ t, exec (.coolantTarget id) s = .next t ∧ t.pwr.coolCfg.target.toNat = c.num 0 ∧
        CmdDone id stOk s.pwr.coolCfg.target.toNat { s with pwr := t.pwr } t) ∧
    (atWork s id 0x0603 = some c → argsFit c [3, allBits] = true →
      (c.num 0 = 0 → c.num 1 = 0 → ∃ t, exec (.energyRead id) s = .next t ∧ CmdDone id stOk (energyWord s.pwr.energyFj) s t) ∧
      (∀ i, c.num 0 = 1 → c.num 1 < 4096 → getItin s (c.num 1) = some i → i.evicting = false → ∃ t, exec (.energyRead id) s = .next t ∧ CmdDone id stOk i.energy.toNat s t) ∧
      (c.num 0 = 2 → c.num 1 < 16384 → ∃ t, exec (.energyRead id) s = .next t ∧ CmdDone id stOk (getGuest s (c.num 1)).energy.toNat s t) ∧
      (c.num 0 = 3 → c.num 1 < phCount → ∃ t, exec (.energyRead id) s = .next t ∧ CmdDone id stOk (getPh s (c.num 1)).energy.mj.toNat s t)) ∧
    (∀ s1, c.guest = none → getCmd s1 id = some c →
      (atWork s id 0x0701 = some c → argsFit c [allBits, allBits, allBits] = true → 0 < c.num 1 → c.num 1 ≤ 4096 →
        cmdRange s c true (c.num 2) (256 * c.num 1) = none →
        homeWriteBytes .innkeeper (c.num 2)
          ((s.ldg.records.filter (fun r => decide (c.num 0 ≤ r.seq) && decide (r.seq < c.num 0 + c.num 1))).reverse.flatMap LedgerRec.bytes) s = (true, s1) →
        ∃ t, exec (.ledgerRead id) s = .next t ∧
          CmdDone id stOk ((s.ldg.records.filter (fun r => decide (c.num 0 ≤ r.seq) && decide (r.seq < c.num 0 + c.num 1))).length +
            lostCount (ldgOldest s) (c.num 0) (c.num 1) * 2 ^ 32) s1 t) ∧
      (atWork s id 0x0702 = some c → argsFit c [1, allBits, allBits, allBits] = true → 0 < c.num 2 → c.num 2 ≤ 4096 →
        (c.num 0 = 0 → cmdRange s c true (c.num 3) (64 * c.num 2) = none →
          homeWriteBytes .innkeeper (c.num 3)
            ((s.errs.filter (fun r => decide (c.num 1 ≤ r.seq) && decide (r.seq < c.num 1 + c.num 2))).reverse.flatMap ErrRec.bytes) s = (true, s1) →
          ∃ t, exec (.faultRead id) s = .next t ∧
            CmdDone id stOk ((s.errs.filter (fun r => decide (c.num 1 ≤ r.seq) && decide (r.seq < c.num 1 + c.num 2))).length +
              lostCount (errOldest s) (c.num 1) (c.num 2) * 2 ^ 32) s1 t) ∧
        (c.num 0 = 1 → c.num 1 < 16384 → cmdRange s c true (c.num 3) (32 * c.num 2) = none →
          homeWriteBytes .innkeeper (c.num 3) (((getPh s (64 + c.num 1)).lostLog.take (c.num 2)).flatMap CplRec.bytes) s = (true, s1) →
          ∃ t, exec (.faultRead id) s = .next t ∧ CmdDone id stOk ((getPh s (64 + c.num 1)).lostLog.take (c.num 2)).length s1 t)) ∧
      (∀ bs, atWork s id 0x0801 = some c → argsFit c [allBits, allBits, 0xF] = true → 0 < c.num 1 → c.num 2 < 4 → cmdRange s c false (c.num 0) (c.num 1) = none →
        homeReadBytes .innkeeper (c.num 0) (c.num 1) s = (some bs, s1) → fieldNat bs 0x10 8 = c.num 1 → c.num 1 ≤ fwMax (c.num 2) →
        fieldNat bs 4 1 = c.num 2 → (getComp s1 (c.num 2)).reg.pending = 0#1 → updating s1 = false → fwApproved s1 (c.num 2) bs = true →
        ∃ t d, exec (.fwStage id) s = .next t ∧ getCmd t id = some d ∧ d.phase = .done ∧ d.status = stOk ∧
          (getComp t (c.num 2)).bankOf (getComp s1 (c.num 2)).inactive = some (fwBankOf bs) ∧ (getComp t (c.num 2)).reg.staged = 1#1 ∧ t.mem = s1.mem)) ∧
    (atWork s id 0x0802 = some c → argsFit c [0xF] = true → c.num 0 < 4 → (getComp s (c.num 0)).reg.staged = 1#1 → updating s = false →
      ∃ t d, exec (.fwCommit id) s = .next t ∧ getCmd t id = some d ∧ d.phase = .done ∧ d.status = stOk ∧
        (∀ b, (getComp s (c.num 0)).bankOf (getComp s (c.num 0)).inactive = some b → d.result = BitVec.ofNat 64 b.version.toNat) ∧
        (getComp t (c.num 0)).reg.pending = 1#1 ∧ (getComp t (c.num 0)).reg.staged = 0#1 ∧
        ((getComp t (c.num 0)).commitB = true ↔ (getComp s (c.num 0)).inactive = 1)) ∧
    (atWork s id 0x0803 = some c → argsFit c [0xF] = true → c.num 0 < 4 →
      ∃ t, exec (.fwStatus id) s = .next t ∧
        CmdDone id stOk ((getComp s (c.num 0)).reg.version.toNat +
          (if (getComp s (c.num 0)).reg.staged = 1#1 then
            (match (getComp s (c.num 0)).bankOf (getComp s (c.num 0)).inactive with | some b => b.version.toNat | none => 0) else 0) * 2 ^ 32) s t) ∧
    (∀ bs s1 s2, atWork s id 0x0804 = some c → argsFit c [allBits, allBits, allBits, 0xFFFFFFFF] = true → c.guest = none →
      (c.arg 3).setWidth 16 ≠ 0#16 → c.num 3 < 2 ^ 16 → c.num 2 ≠ 0 → (quoteBytes s ((c.arg 3).setWidth 16) 0#256 0#256).length ≤ c.num 2 →
      cmdRange s c false (c.num 0) 32 = none → cmdRange s c true (c.num 1) (quoteBytes s ((c.arg 3).setWidth 16) 0#256 0#256).length = none →
      s.sec.idKeyOk = true → homeReadBytes .innkeeper (c.num 0) 32 s = (some bs, s1) →
      homeWriteBytes .innkeeper (c.num 1) (quoteBytes (draw 256 s1).2 ((c.arg 3).setWidth 16) (digestAt bs 0) (draw 256 s1).1) (draw 256 s1).2 = (true, s2) →
      getCmd s2 id = some c →
      ∃ t, exec (.attestQuote id) s = .next t ∧ CmdDone id stOk (quoteBytes s ((c.arg 3).setWidth 16) 0#256 0#256).length s2 t) ∧
    (∀ bs s1 g q e, atWork s id 0x0804 = some c → argsFit c [allBits, allBits, allBits, 0xFFFFFFFF] = true → c.guest = some g →
      (c.arg 3).setWidth 16 ≠ 0#16 → c.num 3 < 2 ^ 16 → c.num 2 ≠ 0 → (quoteBytes s ((c.arg 3).setWidth 16) 0#256 0#256).length ≤ c.num 2 →
      cmdRange s c false (c.num 0) 32 = none → s.sec.idKeyOk = true → homeReadBytes .innkeeper (c.num 0) 32 s = (some bs, s1) → getCmd s1 id = some c →
      IdleRoce g q e s1 → 0 < e.pmtu →
      ∃ t, exec (.attestQuote id) s = .next t ∧ BufferSent id g c (quoteBytes s ((c.arg 3).setWidth 16) 0#256 0#256).length
        (quoteBytes s ((c.arg 3).setWidth 16) 0#256 0#256).length s1 t)

/-- R378, R380, R382, R385, R386, R389, R396, R398, R399, R402: What the Relay engine does with a packet that arrives, and when a timer of a
connection passes. A frame that fails a check only counts; a packet without its connection is answered NO_CONN. A sequence number taken
before is acknowledged and nothing of it lands. New DATA of a guest lands at its address, or is refused; DATA of a device lands in its
RECV, is refused where it does not fit, or is not ready. An acknowledgement retires packets and credits their transfer. A NAK ends the
connection, or the message it names; a READ is queued for answer or refused; the last read-back of a path is counted; a packet whose
timeout passes, and an acknowledgement that has waited, leave again. Choices and readings of the model that it rests on: log 49, 51. -/
def Obligations.RelayPackets : Prop :=
  (∀ (p : RelayPkt) (a : AckBody) (code target len : Nat) (i : Instr) (s : State), i ∈ [Instr.data p, .ack p a, .nak p code, .read p target len, .readResp p] →
    (portUp s p.port = false → exec i s = .next s) ∧
    (portUp s p.port = true → (p.fcsOk = false ∨ addressed s p.port p.ip.v6 p.ip.dst = false ∨ p.ip.dport ≠ s.net.cfgEff.relayUdp) →
      ∃ t, exec i s = .next t ∧ OnlyNet s t ∧ (getPort t p.port).err = { (getPort s p.port).err with fcs := satInc (getPort s p.port).err.fcs }) ∧
    (portUp s p.port = true → p.fcsOk = true → addressed s p.port p.ip.v6 p.ip.dst = true → p.ip.dport = s.net.cfgEff.relayUdp → p.crcOk = false →
      ∃ t, exec i s = .next t ∧ OnlyNet s t ∧ (getPort t p.port).err = { (getPort s p.port).err with crc := satInc (getPort s p.port).err.crc }) ∧
    (FrameFits p.port p.fcsOk p.crcOk p.ip s.net.cfgEff.relayUdp s →
      (getConn s p.conn.toNat = none ∨ (∃ c, getConn s p.conn.toNat = some c ∧ peerHas s c.peer p.ip.src = false)) →
      ∃ t x, exec i s = .next t ∧ OnlyNet s t ∧ (getPort t p.port).txq = (getPort s p.port).txq ++ [x] ∧
        (∃ y, x.msg = .relay y ∧ y.type = 3 ∧ y.psn = p.psn.toNat ∧ y.payload = [4#8] ∧ y.ip.dst = p.ip.src ∧ y.ip.src = p.ip.dst) ∧
        (getPort t p.port).err = { (getPort s p.port).err with nak := satInc (getPort s p.port).err.nak })) ∧
  (∀ (p : RelayPkt) (c : Conn) (s : State), RelayFits p c s →
    let id := p.conn.toNat
    let psn := p.psn.toNat
    (∀ target len i, c.seen psn = true → i ∈ [Instr.data p, .read p target len, .readResp p] →
      (pickPort s c.peer c.nextPort = none → exec i s = .next s) ∧
      (∀ port, pickPort s c.peer c.nextPort = some port → ∃ t pay, exec i s = .next t ∧ OnlyNet s t ∧
        RelayQueued id 1 c.peer { port := port, ip := noHdr, type := 2, conn := c.remoteId, psn := c.rxCum, payload := pay } s t ∧
        getConn t id = some { c with rxSinceAck := 0, ceBytes := 0, nextPort := (port + 1) % 8 })) ∧
    (c.seen psn = false →
      (∀ g s1, c.peer = .guest g → guestRefused s g true p.addr.toNat p.payload.length = false → p.immValid = false → iodCut s = false →
        (touchesArea s p.addr.toNat p.payload.length = true →
          p.last = true ∧ c.rxOpen.contains ((psn + 2 ^ 32 - 1) % 2 ^ 32) = false ∧ c.seen ((psn + 2 ^ 32 - 1) % 2 ^ 32) = true) →
        homeWriteBytes .network p.addr.toNat p.payload s = (true, s1) → getConn s1 id = some c →
        ∃ t d, exec (.data p) s = .next t ∧ OnlyNet s1 t ∧ getConn t id = some d ∧ d.peer = c.peer ∧
          d.rxCum = (c.receive psn).rxCum ∧ d.rxAbove = (c.receive psn).rxAbove ∧
          (∀ port, pickPort s1 c.peer c.nextPort = some port →
            d.rxSinceAck = if psn ≠ c.rxCum ∨ s1.net.relayEff.ackPkts.toNat ≤ c.rxSinceAck + 1 then 0 else c.rxSinceAck + 1)) ∧
      (∀ g s1, c.peer = .guest g → guestRefused s g true p.addr.toNat p.payload.length = false → p.immValid = true → p.payload ≠ [] → iodCut s = false →
        touchesArea s p.addr.toNat p.payload.length = false → homeWriteBytes .network p.addr.toNat p.payload s = (true, s1) → s1.net.recvs = [] →
        ∃ t ps, exec (.data p) s = .next t ∧ OnlyNet s1 t ∧ (getGuest t g).landed.head? = some (p.imm, (p.addr.toNat, p.payload.length) :: ps)) ∧
      (∀ d r s1, c.peer = .device d → recvFor s c.peer p.imm p.ord.toNat = some r → p.addr.toNat + p.payload.length ≤ r.len →
        landRecv r p.addr.toNat p.payload s = (true, s1) → getConn s1 id = some c →
        ∃ t d', exec (.data p) s = .next t ∧ OnlyNet s1 t ∧ getConn t id = some d' ∧ d'.rxCum = (c.receive psn).rxCum) ∧
      (∀ d r, c.peer = .device d → recvFor s c.peer p.imm p.ord.toNat = some r → r.len < p.addr.toNat + p.payload.length → r.posted = false →
        ∃ t, exec (.data p) s = .next t ∧ OnlyNet s t ∧ NakLast c psn 3#8 t) ∧
      (∀ d, c.peer = .device d → recvFor s c.peer p.imm p.ord.toNat = none → staleTag s c.peer p.imm = false →
        ∃ t, exec (.data p) s = .next t ∧ OnlyNet s t ∧ NakLast c psn 1#8 t) ∧
      (∀ g, c.peer = .guest g → guestRefused s g true p.addr.toNat p.payload.length = true →
        ∃ t, exec (.data p) s = .next t ∧ OnlyNet s t ∧ NakLast c psn 2#8 t)) ∧
    (∀ (a : AckBody), c.queue = [] → c.ctrlq = [] → a.sack = [] → a.ceBytes = 0 → s.net.relayEff.dupThresh ≠ 0#4 →
      (∀ g, c.peer = .guest g → (getPh s (64 + g)).st ≠ .closed) →
      ((∀ u ∈ c.unacked, flowOf s u.owner = none) →
        ∃ t d, exec (.ack p a) s = .next t ∧ OnlyNet s t ∧ getConn t id = some d ∧ d.unacked = c.unacked.filter (fun u => !psnBefore u.psn psn)) ∧
      (∀ u f, c.unacked = [u] → u.type = 1 → psnBefore u.psn psn = true → flowOf s u.owner = some f → f.acked + u.payload.length < f.total →
        ∃ t d, exec (.ack p a) s = .next t ∧ OnlyNet s t ∧ getConn t id = some d ∧ d.unacked = [] ∧
          flowOf t u.owner = some { f with acked := f.acked + u.payload.length })) ∧
    (exec (.nak p 1) s = .next s) ∧
    (∀ d, c.peer = .device d → ∃ t, exec (.nak p 4) s = .next t ∧ OnlyNet s t ∧ getConn t id = none) ∧
    (∀ g, c.peer = .guest g → (getPh s (64 + g)).st = .open_ →
      ∃ t, exec (.nak p 4) s = .next t ∧ (getPh t (64 + g)).st = .lost ∧ (getPh t (64 + g)).full = []) ∧
    (∀ code u k kc, code = 2 ∨ code = 3 → c.queue = [] → c.ctrlq = [] → c.unacked.find? (fun u => u.psn == psn) = some u → u.owner = .buffer k →
      getCmd s k = some kc → kc.phase ≠ .done →
      ∃ t d k', exec (.nak p code) s = .next t ∧ getConn t id = some d ∧ d.unacked.map (·.psn) = (c.unacked.filter (fun x => x.psn != u.psn)).map (·.psn) ∧
        getCmd t k = some k' ∧ k'.phase = .done ∧ k'.status = stDenied ∧ k'.result = BitVec.ofNat 64 u.addr ∧ t.mem = s.mem) ∧
    (∀ target len, c.seen psn = false →
      (∀ d, c.peer = .device d → ∃ t, exec (.read p target len) s = .next t ∧ OnlyNet s t ∧ NakLast c psn 2#8 t) ∧
      (∀ g, c.peer = .guest g → guestRefused s g false target len = true →
        ∃ t, exec (.read p target len) s = .next t ∧ OnlyNet s t ∧ NakLast c psn 2#8 t) ∧
      (∀ g, c.peer = .guest g → guestRefused s g false target len = false → 0 < len → c.ctrlq = [] → c.window ≤ c.unacked.length →
        ∃ t d, exec (.read p target len) s = .next t ∧ OnlyNet s t ∧ getConn t id = some d ∧
          d.queue = c.queue ++ [{ owner := .resp, type := 5, addr := 0, len := len, src := .mem target, ord := p.ord.toNat }])) ∧
    (∀ r f, c.seen psn = false → c.queue = [] → c.ctrlq = [] → c.reads.find? (fun r => r.num == p.ord.toNat) = some r → r.dst = none →
      r.len ≤ rangesLen (r.got ++ newRuns r.got p.addr.toNat p.payload.length) → flowOf s r.owner = some f → 2 ≤ f.reads →
      (∀ g, c.peer = .guest g → (getPh s (64 + g)).st ≠ .closed) →
      ∃ t d, exec (.readResp p) s = .next t ∧ OnlyNet s t ∧ getConn t id = some d ∧ d.reads = c.reads.filter (fun x => x.num != r.num) ∧
        flowOf t r.owner = some { f with reads := f.reads - 1 })) ∧
  (∀ (id psn port : Nat) (c : Conn) (s : State), getConn s id = some c →
    (∀ u, c.unacked.find? (fun u => u.psn == psn) = some u →
      ((u.via = none ∧ pickPort s c.peer c.nextPort = some port) ∨ (u.via = some port ∧ portUp s port = true)) →
      ∃ t, exec (.rtoExpiry id psn) s = .next t ∧ OnlyNet s t ∧
        RelayQueued id u.owner.cls c.peer { port := port, ip := noHdr, type := u.type, conn := c.remoteId, psn := u.psn, last := u.last, retx := true, imm := u.imm
                                            addr := u.addr, ord := u.ord, payload := u.payload } s t ∧
        (getPort t port).err.retx = satInc (getPort s port).err.retx) ∧
    (0 < c.rxSinceAck → pickPort s c.peer c.nextPort = some port →
      ∃ t pay, exec (.ackTimer id) s = .next t ∧ OnlyNet s t ∧
        RelayQueued id 1 c.peer { port := port, ip := noHdr, type := 2, conn := c.remoteId, psn := c.rxCum, payload := pay } s t ∧
        getConn t id = some { c with rxSinceAck := 0, ceBytes := 0, nextPort := (port + 1) % 8 }))

/-- R371, R390, R391, R392, R396, R400, R402, R403: What the RoCEv2 engine does with a packet of a guest's queue pair, and when a timer of
it passes: a write lands, an immediate value is kept with what has landed, a read is answered, a packet out of sequence is refused, one
taken before is acknowledged again, an access that is not allowed ends the connection, read-backs and acknowledgements credit their
transfer, a CNP halves the rate and time raises it again, a timeout sends everything unacknowledged again or gives the guest up, and an
unsupported opcode is refused. Choices and readings of the model that it rests on: log 49, 50, 51. -/
def Obligations.RoceConnections : Prop :=
  (∀ (p : RocePkt) (g : Nat) (q : Qp) (e : Endpoint) (s : State), RoceFits p g q e s →
    let psn := p.psn.toNat
    let va := if p.first then p.va.toNat else q.writeVa
    let total := (if p.first then 0 else q.msgBytes) + p.payload.length
    let key := BitVec.ofNat 32 (0x01000000 + g)
    (∀ s1, psn = q.rxPsn → (p.first = true → p.rkey = key) → guestRefused s g true va p.payload.length = false → iodCut s = false →
      homeWriteBytes .network va p.payload s = (true, s1) → getGuest s1 g = getGuest s g →
      (∃ t, exec (.rdmaWrite p) s = .next t ∧ OnlyNet s1 t ∧
        (getGuest t g).qp = some { q with rxPsn := (psn + 1) % 2 ^ 24, writeVa := va + p.payload.length, msgBytes := total } ∧
        (p.ackReq = true → RoceQueued g 1 e .ack psn [] s1 t) ∧ (p.ackReq = false → t.net.ports = s1.net.ports)) ∧
      (0 < total → ∃ t ps, exec (.rdmaWriteWithImmediate p) s = .next t ∧ t.mem = s1.mem ∧
        (getGuest t g).qp = some { q with rxPsn := (psn + 1) % 2 ^ 24, writeVa := va + p.payload.length, msgBytes := total } ∧
        (getGuest t g).landed.head? = some (p.imm, (va + p.payload.length - total, total) :: ps))) ∧
    (∀ i, i ∈ [Instr.rdmaWrite p, .rdmaWriteWithImmediate p] →
      (psn ≠ q.rxPsn → psn24Before psn q.rxPsn = true → ∃ t, exec i s = .next t ∧ OnlyNet s t ∧ RoceQueued g 1 e .ack psn [] s t) ∧
      (psn ≠ q.rxPsn → psn24Before psn q.rxPsn = false →
        ∃ t, exec i s = .next t ∧ OnlyNet s t ∧ RoceQueued g 1 e .nakSequence q.rxPsn [] s t ∧
          (getPort t e.port).err.nak = satInc (getPort s e.port).err.nak) ∧
      (psn = q.rxPsn → ((p.first = true ∧ p.rkey ≠ key) ∨ guestRefused s g true va p.payload.length = true) → (getPh s (64 + g)).st = .open_ →
        ∃ t, exec i s = .next t ∧ (getPh t (64 + g)).st = .lost ∧ (getPh t (64 + g)).full = [])) ∧
    (∀ bs b s1, psn = q.rxPsn → p.rkey = key → guestRefused s g false p.va.toNat p.dmaLen = false →
      nextPayload { owner := .resp, addr := 0, len := p.dmaLen, src := .mem p.va.toNat } p.dmaLen s = (some (bs, b), s1) → getGuest s1 g = getGuest s g →
      ∃ t fs, exec (.rdmaReadRequest p) s = .next t ∧ OnlyNet s1 t ∧
        (getGuest t g).qp = some { q with rxPsn := (psn + max 1 (ceilDiv p.dmaLen e.pmtu)) % 2 ^ 24 } ∧
        (getPort t e.port).txq = (getPort s1 e.port).txq ++ fs ∧ fs.length = max 1 (ceilDiv p.dmaLen e.pmtu) ∧
        ∀ (i : Nat) (f : TxFrame), fs[i]? = some f → f.cls = 3 ∧ ∃ x, f.msg = .roce x ∧ x.op = .readResp ∧ x.qpn = e.qpn ∧ x.psn = (psn + i) % 2 ^ 24 ∧
          x.payload = (bs.drop (i * e.pmtu)).take e.pmtu) ∧
    (p.rkey ≠ key → psn24Before q.rxPsn psn = false → (getPh s (64 + g)).st = .open_ →
      ∃ t, exec (.rdmaReadRequest p) s = .next t ∧ (getPh t (64 + g)).st = .lost ∧ (getPh t (64 + g)).full = []) ∧
    (∀ r f, q.queue = [] → q.reads.find? (fun r => decide ((psn + 2 ^ 24 - r.num) % 2 ^ 24 < max 1 (ceilDiv r.len e.pmtu))) = some r → r.dst = none →
      r.len ≤ rangesLen (r.got ++ newRuns r.got ((psn + 2 ^ 24 - r.num) % 2 ^ 24 * e.pmtu) p.payload.length) → flowOf s r.owner = some f →
      2 ≤ f.reads → (getPh s (64 + g)).st ≠ .closed →
      ∃ t q', exec (.rdmaReadResponse p) s = .next t ∧ OnlyNet s t ∧ (getGuest t g).qp = some q' ∧ q'.reads = q.reads.filter (fun x => x.num != r.num) ∧
        flowOf t r.owner = some { f with reads := f.reads - 1 }) ∧
    (∀ u f, q.queue = [] → q.unacked = [u] → u.type = 1 → u.psn = psn → flowOf s u.owner = some f → f.acked + u.payload.length < f.total →
      (getPh s (64 + g)).st ≠ .closed →
      ∃ t q', exec (.acknowledgement p .ack) s = .next t ∧ OnlyNet s t ∧ (getGuest t g).qp = some q' ∧ q'.unacked = [] ∧
        flowOf t u.owner = some { f with acked := f.acked + u.payload.length }) ∧
    (∀ u, q.unacked = [u] → u.psn = psn → portUp s e.port = true →
      ∃ t, exec (.acknowledgement p .nakSequence) s = .next t ∧ OnlyNet s t ∧ (getGuest t g).qp = some q ∧
        RoceQueued g u.owner.cls e (if u.type = 4 then .readReq u.readLen else .write) u.psn u.payload s t) ∧
    (∀ code, q.unacked = [] → (getPh s (64 + g)).st = .open_ →
      ∃ t, exec (.acknowledgement p (.nakRemote code)) s = .next t ∧ (getPh t (64 + g)).st = .lost ∧ (getPh t (64 + g)).full = [])) ∧
  (∀ (g : Nat) (q : Qp) (s : State), (getGuest s g).qp = some q →
    (∀ qpn port, qpGuest qpn = some g → portUp s port = true →
      ∃ t, exec (.cnp qpn port) s = .next t ∧ OnlyNet s t ∧ (getGuest t g).qp = some { q with rate := q.rate / 2 } ∧
        (getPort t port).cong.signals = (getPort s port).cong.signals + 1#32) ∧
    (∃ t, exec (.rateIncrease g) s = .next t ∧ OnlyNet s t ∧ (getGuest t g).qp = some { q with rate := min 65536 (q.rate + 4096) } ∧
      ∀ h, h ≠ g → getGuest t h = getGuest s h) ∧
    (∀ e, (getGuest s g).endpoint = some e →
      (portUp s e.port = true →
        ∃ t fs, exec (.localAckTimeout g) s = .next t ∧ OnlyNet s t ∧ getGuest t g = getGuest s g ∧
          (getPort t e.port).txq = (getPort s e.port).txq ++ fs ∧ fs.length = q.unacked.length ∧
          ∀ (i : Nat) (f : TxFrame) (u : Unacked), fs[i]? = some f → q.unacked[i]? = some u → f.cls = u.owner.cls ∧ ∃ x, f.msg = .roce x ∧
            x.op = (if u.type = 4 then .readReq u.readLen else .write) ∧ x.qpn = e.qpn ∧ x.psn = u.psn ∧ x.va = u.addr ∧ x.rkey = e.rkey ∧
            x.payload = u.payload) ∧
      (∀ port src qpn psn, portUp s port = true → qpGuest qpn = some g →
        ∃ t, exec (.unsupportedOpcode port src ⟨qpn, psn⟩) s = .next t ∧ OnlyNet s t ∧ RoceQueued g 1 e .nakInvalid psn.toNat [] s t ∧
          (getPort t e.port).err.nak = satInc (getPort s e.port).err.nak))) ∧
  (∀ (port : Nat) (src : BitVec 128) (qpn psn : BitVec 24) (s : State), portUp s port = true → qpGuest qpn = none →
    ∃ t f x, exec (.unsupportedOpcode port src ⟨qpn, psn⟩) s = .next t ∧ OnlyNet s t ∧ FrameQueued port f s t ∧ f.msg = .roce x ∧ x.op = .nakInvalid ∧
      x.dst = src ∧ x.psn = psn.toNat ∧ (getPort t port).err.nak = satInc (getPort s port).err.nak) ∧
  (∀ (g : Nat) (s : State),
    (∀ id c, (getGuest s g).openCmd = some id → getCmd s id = some c → c.phase ≠ .done →
      ∃ t c', exec (.transportTimeout g) s = .next t ∧ (getGuest t g).openCmd = none ∧ (getGuest t g).transport = none ∧ getCmd t id = some c' ∧
        c'.phase = .done ∧ c'.status = stGuestLost ∧ t.mem = s.mem) ∧
    ((getGuest s g).openCmd = none → guestWaits s g = true → (getPh s (64 + g)).st = .open_ →
      ∃ t, exec (.transportTimeout g) s = .next t ∧ (getPh t (64 + g)).st = .lost ∧ (getPh t (64 + g)).full = []) ∧
    (guestWaits s g = false → exec (.transportTimeout g) s = .next s))

/-- R378, R379, R415, R417, R418: Ports that fail and train, the frames the engine answers itself, priority flow control, and the flits of
the Pacel link. A port that fails keeps its RoCEv2 frames, loses its Relay frames, and PTP follows the best port that is left. An answer
joins its port's transmit queue. A flit that fails its check asks for a replay, one out of sequence is dropped, one in sequence lands in
its RECV, and a request for a replay is met from the flits kept. Choices and readings of the model that it rests on: log 35, 51. -/
def Obligations.PortsAndFlits : Prop :=
  (∀ (n : Nat) (s : State), pacelTakes s n = false →
    (portUp s n = true →
      ∃ t, exec (.portLinkDown n) s = .next t ∧ { t with net := s.net, stg := s.stg } = s ∧
        getPort t n = { getPort s n with up := false, failed := true, master := none, sync := false, line := 0, share := (0, 0)
                                         txq := (getPort s n).txq.filter (fun f => match f.flow with | .qp _ => true | _ => false) } ∧
        (∀ m, m ≠ n → { getPort t m with sync := false } = { getPort s m with sync := false }) ∧
        t.net.conns = s.net.conns ∧ t.net.guests = s.net.guests ∧ activePort t = bestPort t ∧ bestPort t ≠ some n ∧
        (∀ m, bestPort t = some m → t.stg = s.stg)) ∧
    (n < 8 → portPowered s n = true → (getPort s n).up = false → NothingToSend s → (∀ g, (getGuest s g).openCmd = none) →
      ∃ t, exec (.portRetrainDone n) s = .next t ∧ OnlyNet s t ∧ (∀ m, m ≠ n → getPort t m = getPort s m) ∧
        getPort t n = { getPort s n with up := true, failed := false
                                         retrains := if (getPort s n).failed then satInc (getPort s n).retrains else (getPort s n).retrains }) ∧
    (portUp s n = true →
      (∀ ip, portIp4 s n = some ip →
        ∃ t, exec (.arp n ip) s = .next t ∧ OnlyNet s t ∧ FrameQueued n { cls := 1, flow := .own, len := 64, msg := .arpReply n ip } s t) ∧
      (∃ t, exec (.neighborDiscovery n (portIp6 s n)) s = .next t ∧ OnlyNet s t ∧
        FrameQueued n { cls := 1, flow := .own, len := frameBytes true 32, msg := .ndAdvert n (portIp6 s n) } s t) ∧
      (∀ ip payload, (ip = portIp6 s n ∨ (∃ v, portIp4 s n = some v ∧ ip = mapped4 v ∧ ip ≠ portIp6 s n)) →
        ∃ t, exec (.icmpEcho n ip payload) s = .next t ∧ OnlyNet s t ∧
          FrameQueued n { cls := 1, flow := .own, len := frameBytes (portIp6 s n == ip) (8 + payload.length), msg := .icmpReply n payload } s t) ∧
      (∃ t, exec (.unusedFrame n) s = .next t ∧ OnlyNet s t ∧ (∀ m, m ≠ n → getPort t m = getPort s m) ∧
        getPort t n = { getPort s n with err := { (getPort s n).err with fcs := satInc (getPort s n).err.fcs } }) ∧
      (∀ pause, s.net.cfgEff.pfcEn = 1#1 → NothingToSend s →
        ∃ t, exec (.pfcFrame n s.net.cfgEff.pfcPrio.toNat pause) s = .next t ∧ OnlyNet s t ∧
          (getPort t n).paused.getLsbD s.net.cfgEff.pfcPrio.toNat = pause) ∧
      (∀ prio pause, s.net.cfgEff.pfcEn = 0#1 ∨ prio ≠ s.net.cfgEff.pfcPrio.toNat → exec (.pfcFrame n prio pause) s = exec (.unusedFrame n) s))) ∧
  (∀ (s : State), s.net.pacel.enabled = true →
    (∀ n, n = 6 ∨ n = 7 → ∃ t, exec (.portLinkDown n) s = .next t ∧ OnlyNet s t ∧ t.net.pacel.up = false) ∧
    (portPowered s 6 = true → s.net.pacel.up = false → s.net.pacel.queue = [] →
      exec (.portRetrainDone 6) s = .next { s with net := { s.net with pacel := { s.net.pacel with up := true, lanes := s.net.pacelCfg.lanesReq.toNat } } })) ∧
  (∀ (f : PacelFlit) (s : State), s.net.pacel.up = true →
    let accepted := { s with net := { s.net with pacel := { s.net.pacel with
      rxSeq := (s.net.pacel.rxSeq + 1) % 65536, credits := min 128 s.net.pacel.credits } } }
    let recv := s.net.recvs.find? (fun r => (match peerAt s r.itin r.peer with | some (.device d) => Config.isT4 d | _ => false) &&
      BitVec.ofNat 32 r.jsn == f.tag && r.ord == f.ord.toNat)
    (f.crcOk = false →
      exec (.flit f) s = .next { s with net := { s.net with
        tx := .flitReplay s.net.pacel.rxSeq :: s.net.tx, pacel := { s.net.pacel with replays := s.net.pacel.replays + 1#32 } } }) ∧
    (f.crcOk = true → f.seq.toNat ≠ s.net.pacel.rxSeq → exec (.flit f) s = .next s) ∧
    (∀ r s1, f.crcOk = true → f.seq.toNat = s.net.pacel.rxSeq → f.credit = 0#16 → f.replay = none → recv = some r →
      f.offset.toNat + min f.len.toNat f.payload.length ≤ r.len →
      landRecv r f.offset.toNat (f.payload.take (min f.len.toNat f.payload.length)) accepted = (true, s1) →
      s1.net.pacel.queue = [] → exec (.flit f) s = .next s1) ∧
    (∀ q, f.crcOk = true → f.seq.toNat = s.net.pacel.rxSeq → f.credit = 0#16 → f.replay = some q → recv = none → s.net.pacel.queue = [] →
      exec (.flit f) s = .next { accepted with net := { accepted.net with
        tx := ((s.net.pacel.sentBuf.dropWhile (fun u => u.psn != q.toNat)).map
          (fun u => TxMsg.flit (u.imm.getD 0#32) u.ord u.psn u.addr u.payload)).reverse ++ s.net.tx } }))

/-- R383, R405, R406, R408, R409, R410, R411: What a CTRL message of a peer device does: HELLO opens its connection; PREPARE waits for this
device's own job.prepare, begins its next round, or is answered with ABANDON where the two differ; the answers of a round end in the job
prepared; CONFIRM creates the confirmed job; ABANDON ends the prepare or stops the job; ROLLBACK discards the running leg and names the
coordinator, of which the lower prevails; its answers end in RESTART, which sets the restart Bell. When ACK_WAIT_US passes a member
answers with what it has, the root begins another round or gives up, and a coordinator without all its answers stops the job. Choices
and readings of the model that it rests on: log 52. -/
def Obligations.JobTreeMessages : Prop :=
  (∀ (m : CtrlMsg) (i : Nat) (c : Conn) (s : State), FrameFits m.port m.fcsOk m.crcOk m.ip s.net.cfgEff.relayUdp s → m.wellFormed 1 = true →
    (innkUp s = false → exec (.hello m) s = .next s) ∧
    (innkUp s = true → helloConn s m = some (i, c) → c.queue = [] → c.ctrlq = [] → c.peer = .device m.sender → c.opened = false →
      ∃ t d, exec (.hello m) s = .next t ∧ OnlyNet s t ∧ getConn t i = some d ∧ d.opened = true ∧ d.remoteId = m.connId ∧ d.peer = c.peer ∧
        d.rxCum = (c.receive m.psn.toNat).rxCum) ∧
    (∀ port, innkUp s = true → helloConn s m = some (i, c) → getConn s i = some c → c.opened = true → c.remoteId = m.connId → c.seen m.psn.toNat = true →
      pickPort s c.peer c.nextPort = some port →
      ∃ t pay, exec (.hello m) s = .next t ∧ OnlyNet s t ∧
        RelayQueued i 1 c.peer { port := port, ip := noHdr, type := 2, conn := c.remoteId, psn := c.rxCum, payload := pay } s t)) ∧
  (∀ (m : CtrlMsg) (c : Conn) (s : State),
    (CtrlFits 2 m c s → prepOf s m.job = none → jobSlot s m.job = none →
      ∃ t, exec (.prepare m) s = .next t ∧ OnlyNet s t ∧ t.net.early = s.net.early.filter (fun x => x.job != m.job) ++ [m]) ∧
    (∀ p, prepOf s m.job = some p →
      (CtrlFits 2 m c s → (m.members ≠ p.members.length ∨ m.mhash ≠ membersHash p.members ∨ m.stages ≠ p.stages) →
        ∃ t, exec (.prepare m) s = .next t ∧ OnlyNet s t ∧ prepOf t m.job = some p ∧
          (connOf s (.device m.sender) = some m.conn.toNat → c.window ≤ c.unacked.length →
            ∃ d, getConn t m.conn.toNat = some d ∧ d.ctrlq = c.ctrlq ++ [{ kind := 5, job := p.job, round := m.round }])) ∧
      (CtrlFits 2 m c s → p.myPos ≠ 0 → m.members = p.members.length → m.mhash = membersHash p.members → m.stages = p.stages → p.round < m.round →
        ∀ q, q = { p with round := m.round, offer := m.bell, missing := m.map, acked := [p.myPos], answered := [], replied := false } →
          ∃ t, exec (.prepare m) s = .next t ∧ OnlyNet s t ∧
            prepOf t m.job = some (if allAnswered q then { q with replied := true, bell := m.bell } else q)) ∧
      (CtrlFits 3 m c s → m.round = p.round → posOf p.members m.sender ∉ p.answered →
        (∀ x, x = { p with answered := posOf p.members m.sender :: p.answered, acked := p.acked ++ m.map.filter (fun i => !p.acked.contains i) } →
          (allAnswered x = false → ∃ t, exec (.prepAck m) s = .next t ∧ OnlyNet s t ∧ prepOf t m.job = some x) ∧
          (allAnswered x = true → p.replied = false → p.myPos = 0 → (∀ i < p.members.length, i ∈ x.acked) → ∀ it k, getItin s p.itin = some it →
            getCmd s p.cmd = some k → k.phase ≠ .done →
            ∃ t it' k', exec (.prepAck m) s = .next t ∧ prepOf t m.job = none ∧ getItin t p.itin = some it' ∧
              it'.job = some { id := p.job, seed := p.seed, bell := p.bell, stages := p.stages, confirmed := false, round := max 1 p.round } ∧
              getCmd t p.cmd = some k' ∧ k'.phase = .done ∧ k'.status = stOk ∧ k'.result = BitVec.ofNat 64 p.bell))) ∧
      (∀ it k, CtrlFits 4 m c s → p.round ≠ 0 → p.myPos ≠ 0 → getItin s p.itin = some it → getCmd s p.cmd = some k → k.phase ≠ .done →
        ∃ t it' k', exec (.confirm m) s = .next t ∧ prepOf t m.job = none ∧ getItin t p.itin = some it' ∧
          it'.job = some { id := p.job, seed := p.seed, bell := m.bell, stages := p.stages, confirmed := true, round := max 1 p.round } ∧
          getCmd t p.cmd = some k' ∧ k'.phase = .done ∧ k'.status = stOk ∧ k'.result = BitVec.ofNat 64 m.bell) ∧
      (∀ k, CtrlFits 5 m c s → getCmd s p.cmd = some k → k.phase ≠ .done →
        ∃ t k', exec (.abandon m) s = .next t ∧ prepOf t m.job = none ∧ t.itins = s.itins ∧ getCmd t p.cmd = some k' ∧ k'.phase = .done ∧
          k'.status = stAborted)) ∧
    (∀ k i j, CtrlFits 5 m c s → prepOf s m.job = none → jobSlot s m.job = some k → getItin s k = some i → i.job = some j →
      ∃ t i', exec (.abandon m) s = .next t ∧ getItin t k = some i' ∧
        i'.job = some { j with stopAt := some (match j.stopAt with | some b => min b (nextBellNum s) | none => nextBellNum s) }) ∧
    (∀ k i, jobSlot s m.job = some k → getItin s k = some i →
      (CtrlFits 6 m c s → (∀ r, rollOf s m.job = some r → m.sender.toNat ≤ r.coordinator.toNat) →
        ∃ t i', exec (.rollback m) s = .next t ∧ rollOf t m.job = some { job := m.job, coordinator := m.sender, replies := [] } ∧
          getItin t k = some i' ∧ i'.leg = none) ∧
      (∀ r, CtrlFits 6 m c s → rollOf s m.job = some r → r.coordinator.toNat < m.sender.toNat →
        ∃ t, exec (.rollback m) s = .next t ∧ OnlyNet s t ∧ rollOf t m.job = some r) ∧
      (∀ r, CtrlFits 7 m c s → rollOf s m.job = some r → r.coordinator = Config.deviceId → r.restartBell = none →
        ((∃ d ∈ i.devicePeers, d ≠ m.sender ∧ ∀ q ∈ r.replies, q.1 ≠ d) →
          ∃ t, exec (.rollbackAck m) s = .next t ∧ OnlyNet s t ∧
            rollOf t m.job = some { r with replies := r.replies.filter (fun q => q.1 != m.sender) ++ [(m.sender, m.ckpt)] }) ∧
        ((∀ d ∈ i.devicePeers, d = m.sender ∨ ∃ q ∈ r.replies, q.1 = d) →
          ∃ t r' b, exec (.rollbackAck m) s = .next t ∧ OnlyNet s t ∧ rollOf t m.job = some r' ∧ r'.restartBell = some b ∧
            (0 < lenNs s → s.stg.ptpNow + 2 * lenNs s ≤ b * lenNs s) ∧
            r'.restartCkpt = lowestCkpt (s.ldg.ckpt :: (r.replies.filter (fun q => q.1 != m.sender) ++ [(m.sender, m.ckpt)]).map (·.2)))) ∧
      (∀ r, CtrlFits 8 m c s → rollOf s m.job = some r → r.coordinator = m.sender →
        ∃ t, exec (.restart m) s = .next t ∧ OnlyNet s t ∧ rollOf t m.job = some { r with restartBell := some m.bell, restartCkpt := m.ckpt }))) ∧
  (∀ (job : Word) (s : State), innkUp s = true →
    (∀ p, prepOf s job = some p → rollOf s job = none → p.round ≠ 0 → p.replied = false →
      (p.myPos ≠ 0 → ∃ t, exec (.ackWaitExpiry job) s = .next t ∧ OnlyNet s t ∧ prepOf t job = some { p with replied := true, bell := p.offer }) ∧
      (p.myPos = 0 → (∃ i < p.members.length, i ∉ p.acked) →
        (p.round < s.net.jobEff.prepRounds.toNat →
          ∃ t q, exec (.ackWaitExpiry job) s = .next t ∧ OnlyNet s t ∧ prepOf t job = some q ∧ q.round = p.round + 1 ∧
            q.offer = p.reqBell + p.round * s.net.jobEff.reprepLead.toNat ∧
            q.missing = (List.range p.members.length).filter (fun i => !p.acked.contains i)) ∧
        (s.net.jobEff.prepRounds.toNat ≤ p.round → ∀ k, getCmd s p.cmd = some k → k.phase ≠ .done →
          ∃ t k', exec (.ackWaitExpiry job) s = .next t ∧ prepOf t job = none ∧ t.itins = s.itins ∧ getCmd t p.cmd = some k' ∧ k'.phase = .done ∧
            k'.status = stAborted))) ∧
    (∀ r k i j, prepOf s job = none → rollOf s job = some r → jobSlot s job = some k → getItin s k = some i → i.job = some j →
      r.coordinator = Config.deviceId → r.restartBell = none →
      ∃ t i', exec (.ackWaitExpiry job) s = .next t ∧ rollOf t job = none ∧ getItin t k = some i' ∧
        i'.job = some { j with stopAt := some (match j.stopAt with | some b => min b (nextBellNum s) | none => nextBellNum s) }))

/-- R14, R37, R61, R63, R64, R398, R400, R419, R425, R432: What the entries of a running leg do when they issue: a LAUNCH puts fresh
caravans into the lowest free slots of its cores, a MOVE its descriptor into its porter's leg queue, a SEND its message into its
connection or the Pacel link, a RECV its landing range into the table; an empty one is done at once, and what a replay holds back is
done without its effect. An entry whose unit has no room, or that stands behind an earlier one of its unit, waits and counts one slip.
Choices and readings of the model that it rests on: log 5, 51. -/
def Obligations.LegEntriesIssue : Prop :=
  (∀ (k e kind : Nat) (i : Itin) (l : Leg) (en : Entry) (s : State), 1 ≤ kind → kind ≤ 4 → entryDue s k e kind = some (i, l, en) →
    l.begun + en.offset ≤ s.stg.upNs → inTableOrder l e en = false →
    (e ∉ l.slipped → ∃ t, exec (entryCommand k e kind) s = .next t ∧ getItin t k = some { i with leg := some { l with slipped := e :: l.slipped, slips := l.slips + 1 } } ∧
      t.stg.events.slip = satInc s.stg.events.slip ∧ { t with stg := s.stg, itins := s.itins } = s) ∧
    (e ∈ l.slipped → exec (entryCommand k e kind) s = .next s)) ∧
  (∀ (k e : Nat) (i : Itin) (l : Leg) (en : Entry) (bs : List Byte) (cl : Nat) (s s1 : State), IssuesNow s k e 1 i l en →
    imageBytes i en.desc 80 s = (some bs, s1) → l.clusters[en.target]? = some cl → getItin s1 k = some i →
    ((fieldNat bs 8 1 = 0 ∨ fieldNat bs 9 1 = 0) →
      ∃ t, exec (.launch k e) s = .next t ∧
        getItin t k = some { i with leg := some { l with issued := e :: l.issued, empty := l.empty + 1, done := e :: l.done } } ∧ t.clusters = s1.clusters) ∧
    (fieldNat bs 8 1 ≠ 0 → fieldNat bs 9 1 ≠ 0 →
      ((∀ c < 8, (BitVec.ofNat 8 (fieldNat bs 8 1)).getLsbD c = true →
          fieldNat bs 9 1 ≤ (getCore s1 cl c).freeSlots.length ∧ (getCore s1 cl c).regUsed + fieldNat bs 9 1 * fieldNat bs 10 1 ≤ 64) →
        ∃ t, exec (.launch k e) s = .next t ∧ getItin t k = some { i with leg := some { l with issued := e :: l.issued } } ∧
          (∀ c < 8, ∀ j, (getCore t cl c).slot j =
            (if (BitVec.ofNat 8 (fieldNat bs 8 1)).getLsbD c = true ∧ j ∈ (getCore s1 cl c).freeSlots.take (fieldNat bs 9 1) then
              some (freshCaravan k e (fieldNat bs 9 1) ((getCore s1 cl c).freeSlots.idxOf j) (fieldNat bs 10 1)
                ((List.range 16).map (fun a => BitVec.ofNat 32 (fieldNat bs (16 + 4 * a) 4))) (fieldNat bs 0 8))
            else (getCore s1 cl c).slot j)) ∧
          (∀ c, c ≠ cl → getCluster t c = getCluster s1 c) ∧ t.mem = s1.mem) ∧
      ((∃ c < 8, (BitVec.ofNat 8 (fieldNat bs 8 1)).getLsbD c = true ∧
          ((getCore s1 cl c).freeSlots.length < fieldNat bs 9 1 ∨ 64 < (getCore s1 cl c).regUsed + fieldNat bs 9 1 * fieldNat bs 10 1)) → e ∉ l.slipped →
        ∃ t, exec (.launch k e) s = .next t ∧ t.clusters = s1.clusters ∧
          getItin t k = some { i with leg := some { l with slipped := e :: l.slipped, slips := l.slips + 1 } } ∧
          t.stg.events.slip = satInc s1.stg.events.slip))) ∧
  (∀ (k e : Nat) (i : Itin) (l : Leg) (en : Entry) (bs : List Byte) (s s1 : State), IssuesNow s k e 2 i l en →
    imageBytes i en.desc 64 s = (some bs, s1) → getItin s1 k = some i →
    let d := moveDesc bs (.leg k l.jsn e)
    (d.len = 0 →
      ∃ t, exec (.move k e) s = .next t ∧
        getItin t k = some { i with leg := some { l with issued := e :: l.issued, empty := l.empty + 1, done := e :: l.done } } ∧
        (getPorter t en.target).legQ = (getPorter s1 en.target).legQ) ∧
    (d.len ≠ 0 → l.suppressed = true → d.op = 3 →
      ∃ t, exec (.move k e) s = .next t ∧ getItin t k = some { i with leg := some { l with issued := e :: l.issued, done := e :: l.done } } ∧
        t.porters = s1.porters) ∧
    (d.len ≠ 0 → (l.suppressed = false ∨ d.op ≠ 3) →
      ((getPorter s1 en.target).legQ.length < 32 →
        ∃ t, exec (.move k e) s = .next t ∧ getItin t k = some { i with leg := some { l with issued := e :: l.issued } } ∧
          getPorter t en.target = { getPorter s1 en.target with legQ := (getPorter s1 en.target).legQ ++ [d] } ∧
          (∀ p, p ≠ en.target → getPorter t p = getPorter s1 p) ∧ t.mem = s1.mem) ∧
      (32 ≤ (getPorter s1 en.target).legQ.length → e ∉ l.slipped →
        ∃ t, exec (.move k e) s = .next t ∧ t.porters = s1.porters ∧
          getItin t k = some { i with leg := some { l with slipped := e :: l.slipped, slips := l.slips + 1 } }))) ∧
  (∀ (k e : Nat) (i : Itin) (l : Leg) (en : Entry) (bs : List Byte) (p : Peer) (s s1 : State), IssuesNow s k e 3 i l en →
    imageBytes i en.desc 32 s = (some bs, s1) → getItin s1 k = some i → i.image.peers[en.target]? = some p →
    let req : TxReq := { owner := .send k l.jsn e, addr := 0, len := fieldNat bs 8 8, src := .mem (fieldNat bs 0 8), imm := some (BitVec.ofNat 32 l.jsn)
                         ord := ordinal l e en }
    (fieldNat bs 8 8 = 0 →
      ∃ t, exec (.send k e) s = .next t ∧ t.net = s1.net ∧
        getItin t k = some { i with leg := some { l with issued := e :: l.issued, empty := l.empty + 1, done := e :: l.done } }) ∧
    (fieldNat bs 8 8 ≠ 0 → netFull s1 = true → e ∉ l.slipped →
      ∃ t, exec (.send k e) s = .next t ∧ t.net = s1.net ∧
        getItin t k = some { i with leg := some { l with slipped := e :: l.slipped, slips := l.slips + 1 } }) ∧
    (fieldNat bs 8 8 ≠ 0 → netFull s1 = false →
      (∀ d, p = .device d → Config.isT4 d = true → s1.net.pacel.up = false →
        ∃ t, exec (.send k e) s = .next t ∧ getItin t k = some { i with leg := some { l with issued := e :: l.issued } } ∧
          t.net.pacel.queue = s1.net.pacel.queue ++ [req] ∧ t.mem = s1.mem) ∧
      (∀ d id c, p = .device d → Config.isT4 d = false → connOf s1 (.device d) = some id → WindowFull s1 id c →
        ∃ t c', exec (.send k e) s = .next t ∧ getItin t k = some { i with leg := some { l with issued := e :: l.issued } } ∧
          getConn t id = some c' ∧ c'.queue = c.queue ++ [req] ∧ t.mem = s1.mem) ∧
      (∀ g, p = .guest g → l.suppressed = true →
        ∃ t, exec (.send k e) s = .next t ∧ t.net = s1.net ∧ getItin t k = some { i with leg := some { l with issued := e :: l.issued, done := e :: l.done } }) ∧
      (∀ g id c, p = .guest g → l.suppressed = false → (getPh s1 (64 + g)).st = .open_ → (getGuest s1 g).conn = some id → WindowFull s1 id c →
        ∃ t c', exec (.send k e) s = .next t ∧ getItin t k = some { i with leg := some { l with issued := e :: l.issued } } ∧
          getConn t id = some c' ∧
          c'.queue = c.queue ++ [{ owner := .send k l.jsn e, addr := fieldNat bs 16 8, len := fieldNat bs 8 8, src := .mem (fieldNat bs 0 8) }] ∧ t.mem = s1.mem) ∧
      (∀ g, p = .guest g → l.suppressed = false → (getPh s1 (64 + g)).st ≠ .open_ → (getPh s1 (64 + g)).st ≠ .draining →
        ∃ t i', exec (.send k e) s = .next t ∧ getItin t k = some i' ∧ i'.leg = none ∧ t.ldg.faultCount = s1.ldg.faultCount + 1))) ∧
  (∀ (k e : Nat) (i : Itin) (l : Leg) (en : Entry) (bs : List Byte) (p : Peer) (s s1 : State), IssuesNow s k e 4 i l en →
    imageBytes i en.desc 32 s = (some bs, s1) → getItin s1 k = some i → i.image.peers[en.target]? = some p →
    (fieldNat bs 8 8 = 0 →
      ∃ t, exec (.recv k e) s = .next t ∧
        getItin t k = some { i with leg := some { l with issued := e :: l.issued, empty := l.empty + 1, done := e :: l.done } } ∧ t.net = s1.net) ∧
    (fieldNat bs 8 8 ≠ 0 → netFull s1 = true → e ∉ l.slipped →
      ∃ t, exec (.recv k e) s = .next t ∧ t.net = s1.net ∧
        getItin t k = some { i with leg := some { l with slipped := e :: l.slipped, slips := l.slips + 1 } }) ∧
    (fieldNat bs 8 8 ≠ 0 → netFull s1 = false → lowestBad (addrEdges s1) (fieldNat bs 0 8) (fieldNat bs 8 8) (descBad s1 (.leg k l.jsn e) true) = none →
      s1.net.recvs.find? (fun y => y.itin == k && y.jsn == l.jsn && y.entry == e) = none →
      (∀ d, p = .device d →
        ∃ t, exec (.recv k e) s = .next t ∧ getItin t k = some { i with leg := some { l with issued := e :: l.issued } } ∧
          t.net.recvs = s1.net.recvs.filter (fun y => !(y.itin == k && y.jsn == l.jsn && y.entry == e)) ++
            [{ itin := k, jsn := l.jsn, entry := e, peer := en.target, ord := ordinal l e en, addr := fieldNat bs 0 8, len := fieldNat bs 8 8 }] ∧
          t.mem = s1.mem) ∧
      (∀ g, p = .guest g → (getPh s1 (64 + g)).st ≠ .lost →
        ∃ t, exec (.recv k e) s = .next t ∧ t.mem = s1.mem ∧
          ∃ r ∈ t.net.recvs, r.itin = k ∧ r.jsn = l.jsn ∧ r.entry = e ∧ r.posted = true ∧ r.addr = fieldNat bs 0 8 ∧ r.len = fieldNat bs 8 8)) ∧
    (∀ a, fieldNat bs 8 8 ≠ 0 → netFull s1 = false → lowestBad (addrEdges s1) (fieldNat bs 0 8) (fieldNat bs 8 8) (descBad s1 (.leg k l.jsn e) true) = some a →
      ∃ t i', exec (.recv k e) s = .next t ∧ getItin t k = some i' ∧ i'.leg = none ∧ t.ldg.faultCount = s1.ldg.faultCount + 1))

/-- R426, R427, R430, R431, R433, R434, R435, R436: A porter's next chunk of at most 4 KiB moves: a FILL writes its word, a COPY writes what
it reads, as corrected or poisoned on the way, a PUSH and a PULL send their message to the guest; its descriptor goes on by its length.
A FILL whose two encoders differ ends its command with ST_POISON; a descriptor that may not touch its range is refused with the lowest
address; a MOVE that meets poison faults its leg. A descriptor whose every byte is accepted leaves its queue, and its entry or command
is done. Choices and readings of the model that it rests on: log 48. -/
def Obligations.PorterChunks : Prop :=
  (∀ (p n : Nat) (d : Desc) (via : Bool) (s : State), iodCut s = false → nextChunk s p = some (d, via) → n = min 4096 (d.len - d.moved) →
    (d.checked = true ∨ descRefused s d = none) →
    (∀ s1 err, d.op = 2 → clearAll (.porter p) ((rangeLines (d.dst + d.moved) n).map (·.1)) s = (true, s1) →
      ∃ t, exec (.chunk p ⟨false, err⟩) s = .next t ∧
        t.homes = (putWords p (d.dst + d.moved) (List.replicate (n / 32) { data := fillWord d.pattern }) s1).homes ∧
        t.mem = (putWords p (d.dst + d.moved) (List.replicate (n / 32) { data := fillWord d.pattern }) s1).mem ∧
        (getPorter t p).cmdQ = (getPorter (putWords p (d.dst + d.moved) (List.replicate (n / 32) { data := fillWord d.pattern }) s1) p).cmdQ.map
          (fun x => if x.owner = d.owner then { x with moved := x.moved + n, acked := x.acked + n, checked := true } else x) ∧
        (getPorter t p).legQ = (getPorter (putWords p (d.dst + d.moved) (List.replicate (n / 32) { data := fillWord d.pattern }) s1) p).legQ.map
          (fun x => if x.owner = d.owner then { x with moved := x.moved + n, acked := x.acked + n, checked := true } else x)) ∧
    (∀ id k c err, d.op = 2 → d.owner = .cmd id k → getCmd s id = some c → c.wrote = false → c.phase ≠ .done → c.opcode ≠ 0x0403#16 →
      ∃ t c', exec (.chunk p ⟨true, err⟩) s = .next t ∧ getCmd t id = some c' ∧ c'.phase = .done ∧ c'.status = stPoison ∧
        c'.result = BitVec.ofNat 64 (d.dst + d.moved) ∧ t.mem = s.mem ∧ t.homes = s.homes ∧
        (getPorter t p).lastErr = { addr := BitVec.ofNat 52 ((d.dst + d.moved) / 32 * 32), cause := 3#4, valid := 1#1 }) ∧
    (∀ b err s1 ls s2 vs s3, d.op = 1 → clearAll (.porter p) ((rangeLines (d.dst + d.moved) n).map (·.1)) s = (true, s1) →
      homeReadLines (.porter p) (rangeLines (d.src + d.moved) n) s1 = (some ls, s2) →
      handOver p (d.src + d.moved) (err.map (fun x => { x with late := false })) ((List.range (n / 32)).map (fun i => lineSector ls (d.src + d.moved + 32 * i))) s2 =
        (vs, s3) →
      (poisonedAt (d.src + d.moved) vs = [] →
        ∃ t, exec (.chunk p ⟨b, err⟩) s = .next t ∧ t.homes = (putWords p (d.dst + d.moved) vs s3).homes ∧ t.mem = (putWords p (d.dst + d.moved) vs s3).mem ∧
        (getPorter t p).cmdQ = (getPorter (putWords p (d.dst + d.moved) vs s3) p).cmdQ.map
          (fun x => if x.owner = d.owner then { x with moved := x.moved + n, acked := x.acked + n, checked := true } else x) ∧
        (getPorter t p).legQ = (getPorter (putWords p (d.dst + d.moved) vs s3) p).legQ.map
          (fun x => if x.owner = d.owner then { x with moved := x.moved + n, acked := x.acked + n, checked := true } else x)) ∧
      (∀ k j e, d.owner = .leg k j e → poisonedAt (d.src + d.moved) vs ≠ [] → ∀ i, getItin s3 k = some i →
        ∃ t, exec (.chunk p ⟨b, err⟩) s = .next t ∧ ∀ i', getItin t k = some i' → i'.leg = none)) ∧
    (∀ b id c, d.op = 4 → (getGuest s d.guest).conn = some id → WindowFull s id c →
      ∃ t c', exec (.chunk p ⟨b, none⟩) s = .next t ∧ t.mem = s.mem ∧ getConn t id = some c' ∧
        c'.queue = c.queue ++ [{ owner := .desc p d.owner, type := 4, addr := d.src + d.moved, len := n, src := .mem (d.dst + d.moved) }]) ∧
    (∀ b ls s1 id c, d.op = 3 → homeReadLines (.porter p) (rangeLines (d.src + d.moved) n) s = (some ls, s1) →
      poisonedAt (d.src + d.moved) ((List.range (n / 32)).map (fun i => lineSector ls (d.src + d.moved + 32 * i))) = [] →
      (getGuest s1 d.guest).conn = some id → WindowFull s1 id c →
      ∃ t c', exec (.chunk p ⟨b, none⟩) s = .next t ∧ t.mem = s1.mem ∧ getConn t id = some c' ∧
        c'.queue = c.queue ++ [{ owner := .desc p d.owner, addr := d.dst + d.moved, len := n
                                 src := .bytes ((List.range (n / 32)).flatMap (fun i => wordBytes 32 (lineSector ls (d.src + d.moved + 32 * i)).data)) }])) ∧
  (∀ (p a id k : Nat) (d : Desc) (b via : Bool) (err : Option PathErr) (s : State), iodCut s = false → nextChunk s p = some (d, via) → d.checked = false →
    descRefused s d = some a → d.owner = .cmd id k → d.op < 3 → ∀ c, getCmd s id = some c → c.wrote = false → c.phase ≠ .done → c.opcode ≠ 0x0403#16 →
      ∃ t c', exec (.chunk p ⟨b, err⟩) s = .next t ∧ getCmd t id = some c' ∧ c'.phase = .done ∧ c'.status = stDenied ∧ c'.result = BitVec.ofNat 64 a ∧
        (∀ q, ∀ x ∈ (getPorter t q).legQ ++ (getPorter t q).cmdQ, x.owner.ofCmd id = false) ∧ t.mem = s.mem ∧ t.homes = s.homes ∧
        (getPorter t p).lastErr = { addr := BitVec.ofNat 52 (a / 32 * 32), cause := 2#4, valid := 1#1 }) ∧
  (∀ (p idx : Nat) (d : Desc) (s : State), d.complete = true →
    (∀ k j e i l, (getPorter s p).legQ[idx]? = some d → d.owner = .leg k j e → getItin s k = some i → i.leg = some l → l.jsn = j → e ∉ l.done →
      ∃ t, exec (.descriptorComplete p true idx) s = .next t ∧ (getPorter t p).legQ = (getPorter s p).legQ.eraseIdx idx ∧
        getItin t k = some { i with leg := some { l with done := e :: l.done } } ∧ t.mem = s.mem) ∧
    (∀ id k c, (getPorter s p).cmdQ[idx]? = some d → d.owner = .cmd id k → getCmd s id = some c → c.phase = .waiting → c.outstanding = 1 →
      c.refused = none → c.poison = none →
      (c.opcode = 0x0403#16 →
        ∃ t c', exec (.descriptorComplete p false idx) s = .next t ∧ (getPorter t p).cmdQ = (getPorter s p).cmdQ.eraseIdx idx ∧
          getCmd t id = some c' ∧ c'.phase = .done ∧ c'.status = stOk ∧ c'.result = 0#64 ∧ t.mem = s.mem) ∧
      (c.opcode ≠ 0x0403#16 →
        ∃ t c', exec (.descriptorComplete p false idx) s = .next t ∧ (getPorter t p).cmdQ = (getPorter s p).cmdQ.eraseIdx idx ∧
          getCmd t id = some c' ∧ c'.phase = .waiting ∧ c'.status = stOk ∧ t.innk.acts = s.innk.acts ++ [.complete id] ∧ t.mem = s.mem)))

/-- R17, R28, R272, R273, R278: A Bell falls at the next instant of the schedule and opens the stage of that number; the ledger takes its
Bell record, with the number, the instant and the next sequence number, and after it the records of its legs. Choices and readings of
the model that it rests on: log 31, 32. -/
def Obligations.BellFalls : Prop :=
  ∀ s : State, bellsFall s = true →
    ∃ (t : State) (b : BellRec) (legs : List LedgerRec), exec .bell s = .next t ∧ t.stg.ptpNow = max (nextBellNs s) s.stg.ptpNow ∧ t.stg.bellTime = nextBellNs s ∧ t.stg.num = nextBellNs s / lenNs t ∧
      t.stg.opened = true ∧ t.stg.window = false ∧
      t.ldg.records = (legs.reverse ++ [LedgerRec.bell b] ++ s.ldg.records).take 65536 ∧ t.ldg.next = s.ldg.next + 1 + legs.length ∧
      b.seq = s.ldg.next ∧ b.bell = nextBellNs s / lenNs t ∧ b.tNs = nextBellNs s ∧ (∀ r ∈ legs, ∃ x, r = LedgerRec.leg x)

/-- R22, R29, R30, R45: No Bell falls while the time unit is UNSET; the commit window opens once and, where no message waits to be sent,
tests every running leg for done and changes nothing else of the itineraries, the clusters and device memory; a leg that has missed
WDOG_BELLS Bells and is not done then is discarded. Choices and readings of the model that it rests on: log 7, 31. -/
def Obligations.WindowAndWatchdog : Prop :=
  ∀ s : State,
    (s.stg.time.state = timeUnset → exec .bell s = .next s) ∧
    (bellsFall s = true → s.stg.opened = true → s.stg.window = false →
      ∃ t, exec .commitWindowOpen s = .next t ∧ t.stg.window = true ∧ t.stg.ptpNow = max (windowNs s) s.stg.ptpNow ∧
        ((∀ id c, getConn s id = some c → c.queue = [] ∧ c.ctrlq = []) → t.mem = s.mem ∧ t.clusters = s.clusters ∧
        ∀ k i l, getItin s k = some i → i.leg = some l → getItin t k = some { i with leg := some { l with windowDone := legDone s k l } })) ∧
    (s.stg.window = true → exec .commitWindowOpen s = .next s) ∧
    (∀ k i l, getItin s k = some i → i.leg = some l → s.stg.window = true → l.windowDone = false →
      (s.stg.cfg.wdogBells.toNat ≤ l.missed →
        ∃ t i', exec (.watchdogFault k) s = .next t ∧ getItin t k = some i' ∧ i'.leg = none ∧ t.stg.events.wdog = satInc s.stg.events.wdog ∧
          t.ldg.faultCount = s.ldg.faultCount + 1 ∧ t.mem = s.mem ∧
          ∃ d, t.ldg.discards = s.ldg.discards ++ [d] ∧ d.itin = k ∧ d.leg = l ∧ d.fault = { fclass := 5 }) ∧
      (l.missed < s.stg.cfg.wdogBells.toNat → exec (.watchdogFault k) s = .next s))

/-- R22, R23, R25, R26, R27, R414, R415, R416, R531, R560: The time unit. A message of another domain or transport, or on a port that runs
no PTP, only counts; an Announce message names its port's master, and the unit follows the best; a Sync that its Follow_Up completes
waits for it. A message that drives a locked servo sets the state by its bound and corrects the offset: one up to STEP_MS is to be
slewed away, a larger forward offset steps the clock, a backward one suspends Bells, and one beyond the limit is withheld. Lock lost
leaves HOLDOVER to 2 us and then FREERUN; without any PTP the unit leaves UNSET at its timeout. Good pulses set PPS_OK and in HOLDOVER
are slewed to; a bad one clears it. Choices and readings of the model that it rests on: log 35. -/
def Obligations.TimeUnit : Prop :=
  ∀ s : State, timeRuns s = true →
    (∀ u : PtpUpdate,
      (portUp s u.port = false → exec (.ptpMessage u) s = .next s) ∧
      (portUp s u.port = true → ¬ PtpFits u s →
        ∃ t, exec (.ptpMessage u) s = .next t ∧ OnlyNet s t ∧
          (getPort t u.port).err = { (getPort s u.port).err with fcs := satInc (getPort s u.port).err.fcs }) ∧
      (∀ m, PtpFits u s → u.kind = .announce m →
        ∃ t, exec (.ptpMessage u) s = .next t ∧ (getPort t u.port).master = some m ∧ activePort t = bestPort t ∧
          (∀ n, n ≠ u.port → (getPort t n).master = (getPort s n).master)) ∧
      (PtpFits u s → activePort s = some u.port → u.kind = .sync true →
        ∃ t, exec (.ptpMessage u) s = .next t ∧ OnlyNet s t ∧ (getPort t u.port).sync = true) ∧
      (PtpFits u s → (u.kind = .management ∨ u.kind = .other) → exec (.ptpMessage u) s = .next s) ∧
      (DrivesServo u s → u.locked = true →
        (∀ st : Nat, st = s.stg.timeCfg.stepMs.toNat * 1000000 → s.stg.time.state ≠ timeUnset → -(st : Int) ≤ u.offsetNs → u.offsetNs ≤ st → u.errNs ≤ 500 →
          ∃ t, exec (.ptpMessage u) s = .next t ∧ t.stg.time.state = timeLocked ∧ t.stg.locked = true ∧ t.stg.ptpNow = s.stg.ptpNow ∧ t.stg.slew = u.offsetNs ∧
            t.stg.time.errBound = BitVec.ofNat 16 ((u.errNs + 9) / 10) ∧ (-(2 ^ 31) ≤ u.offsetNs → u.offsetNs < 2 ^ 31 → t.stg.time.offsetNs = BitVec.ofInt 32 u.offsetNs) ∧
            (u.kind = .delayResp → t.net.ptp.mpdNs = BitVec.ofNat 32 u.mpdNs) ∧
            (u.kind ≠ .delayResp → ∃ f, FrameQueued u.port f s t ∧ f.msg = .delayReq u.port s.net.ptp.domain s.net.ptp.transport) ∧ t.mem = s.mem) ∧
        (s.stg.time.state ≠ timeUnset → u.offsetNs < -(s.stg.timeCfg.stepMs.toNat * 1000000 : Int) →
          ∃ t, exec (.ptpMessage u) s = .next t ∧ t.stg.slew = 0 ∧ t.stg.ptpNow = ((s.stg.ptpNow : Int) - u.offsetNs).toNat ∧ t.stg.suspended = s.stg.suspended) ∧
        (s.stg.time.state ≠ timeUnset → s.stg.leftUnset = true → (s.stg.timeCfg.stepMs.toNat * 1000000 : Int) < u.offsetNs →
          (s.stg.timeCfg.backstepLimitS.toNat * 1000000000 : Int) < u.offsetNs →
          ∃ t, exec (.ptpMessage u) s = .next t ∧ t.stg.time.stepRefused = 1#1 ∧ t.stg.ptpNow = s.stg.ptpNow ∧ t.stg.time.state ≠ timeLocked) ∧
        (s.stg.time.state ≠ timeUnset → (s.stg.timeCfg.stepMs.toNat * 1000000 : Int) < u.offsetNs →
          u.offsetNs ≤ (s.stg.timeCfg.backstepLimitS.toNat * 1000000000 : Int) →
          ∃ t, exec (.ptpMessage u) s = .next t ∧ t.stg.suspended = true ∧ t.stg.ptpNow = ((s.stg.ptpNow : Int) - u.offsetNs).toNat) ∧
        (s.stg.time.state = timeUnset → s.stg.leftUnset = false → s.stg.time.stepRefused = 0#1 →
          (u.errNs ≤ 500 → ∃ t, exec (.ptpMessage u) s = .next t ∧ t.stg.time.state = timeLocked ∧ t.stg.leftUnset = true ∧
            t.stg.ptpNow = ((s.stg.ptpNow : Int) - u.offsetNs).toNat) ∧
          (500 < u.errNs → ∃ t, exec (.ptpMessage u) s = .next t ∧ t.stg.time.state = timeUnset))) ∧
      (DrivesServo u s → u.locked = false → s.stg.locked = true → s.stg.leftUnset = true →
        ∃ t, exec (.ptpMessage u) s = .next t ∧ t.stg.locked = false ∧ t.stg.time.stepRefused = s.stg.time.stepRefused ∧
          (s.stg.time.errBound.toNat ≤ 200 → t.stg.time.state = timeHoldover) ∧ (200 < s.stg.time.errBound.toNat → t.stg.time.state = timeFreerun))) ∧
    (s.stg.time.state = timeUnset → s.stg.servo = none →
      ∃ t, exec .freerunTimeout s = .next t ∧ t.stg.time.state = timeFreerun ∧ t.stg.leftUnset = true ∧ t.stg.ptpNow = 0 ∧ t.stg.time.errBound = 0xFFFF#16 ∧ t.mem = s.mem) ∧
    (∀ e o, s.stg.time.state = timeUnset → s.stg.servo = some (e, o) →
      ∃ t, exec .freerunTimeout s = .next t ∧ t.stg.time.state = timeFreerun ∧ t.stg.leftUnset = true ∧ t.stg.ptpNow = s.stg.ptpNow ∧ t.stg.time.errBound = boundUnits e) ∧
    (s.stg.time.state ≠ timeUnset → exec .freerunTimeout s = .next s) ∧
    (∀ n, n < 8 →
      ∃ t, exec (.announceTimeout n) s = .next t ∧ (getPort t n).master = none ∧ activePort t = bestPort t ∧ bestPort t ≠ some n ∧
        (∀ m, m ≠ n → (getPort t m).master = (getPort s m).master) ∧
        (bestPort t = none → activePort s ≠ none → s.stg.locked = true → s.stg.leftUnset = true → t.stg.locked = false ∧
          (s.stg.time.errBound.toNat ≤ 200 → t.stg.time.state = timeHoldover) ∧ (200 < s.stg.time.errBound.toNat → t.stg.time.state = timeFreerun))) ∧
    (∀ b, s.stg.locked = false → s.stg.time.state = timeHoldover → s.stg.time.errBound.toNat ≤ b.toNat →
      ∃ t, exec (.errBoundExceeded b) s = .next t ∧ t.stg.time.errBound = b ∧ (b.toNat ≤ 200 → t.stg.time.state = timeHoldover) ∧
        (200 < b.toNat → t.stg.time.state = timeFreerun) ∧ t.stg.ptpNow = s.stg.ptpNow ∧ t.mem = s.mem) ∧
    (∀ o : Int, (o.natAbs ≤ 1000 →
        ∃ t, exec (.ppsEdge o) s = .next t ∧ t.stg.ppsGood = min 3 (s.stg.ppsGood + 1) ∧ (2 ≤ s.stg.ppsGood → t.stg.time.ppsOk = 1#1) ∧
          (s.stg.time.state = timeHoldover → 2 ≤ s.stg.ppsGood → t.stg.slew = o) ∧
          (s.stg.time.state ≠ timeHoldover → t.stg.slew = s.stg.slew) ∧ t.stg.ptpNow = s.stg.ptpNow) ∧
      (1000 < o.natAbs → ∃ t, exec (.ppsEdge o) s = .next t ∧ t.stg.ppsGood = 0 ∧ t.stg.time.ppsOk = 0#1 ∧ t.stg.ptpNow = s.stg.ptpNow)) ∧
    (∀ h, ((h < 100 ∨ 500000000 < h) → ∃ t, exec (.ppsFallingEdge h) s = .next t ∧ t.stg.time.ppsOk = 0#1 ∧ t.stg.ppsGood = 0) ∧
      (100 ≤ h → h ≤ 500000000 → exec (.ppsFallingEdge h) s = .next s))

/-- R52, R54, R56, R102, R231, R234, R271, R304, R339, R422, R442, R499: Writes to the stage registers and to CL_CTL. Permitted values are
staged, or the whole write is refused; a 1 clears a counter of STG_EVENTS_CLR; OFFLINE takes a cluster out and, once it has left
service, does not bring it back. A firmware write of a register changes its writable fields, a value outside a field's range leaving
that field, and nothing else; a register of a read-only block, and an address outside the control space, takes nothing. Choices and
readings of the model that it rests on: log 36, 37. -/
def Obligations.RegisterWriting : Prop :=
  (∀ (v : Word) (s : State), innkBooted s = true →
    (v.getLsbD 63 = true →
      ((lenWinOk (bitsNat v 0 15) (bitsNat v 16 10) = false ∨ bitsNat v 32 16 = 0 ∨ bitsNat v 48 8 = 0) →
        ∃ t, exec (.stgCfgNextApply v) s = .next t ∧ t.stg.next.bad = 1#1 ∧ t.stg.next.apply = 0#1 ∧ t.stg.pend = s.stg.pend ∧ t.stg.cfg = s.stg.cfg ∧
          { t with stg := s.stg } = s) ∧
      (lenWinOk (bitsNat v 0 15) (bitsNat v 16 10) = true → bitsNat v 32 16 ≠ 0 → bitsNat v 48 8 ≠ 0 →
        bitsNat v 0 15 ≠ (cfgDecided s).lenUs.toNat → bitsNat v 16 10 ≠ (cfgDecided s).winUs.toNat → bitsNat v 32 16 ≠ (cfgDecided s).ckptStages.toNat →
        bitsNat v 48 8 ≠ (cfgDecided s).wdogBells.toNat → boundCount s = 0 →
        ∃ t, exec (.stgCfgNextApply v) s = .next t ∧ t.stg.next.bad = 0#1 ∧ t.stg.next.apply = 1#1 ∧ t.stg.cfg = s.stg.cfg ∧ { t with stg := s.stg } = s ∧
          (cfgDecided t).lenUs.toNat = bitsNat v 0 15 ∧ (cfgDecided t).winUs.toNat = bitsNat v 16 10 ∧
          (cfgDecided t).ckptStages.toNat = bitsNat v 32 16 ∧ (cfgDecided t).wdogBells.toNat = bitsNat v 48 8)) ∧
    (∃ t, exec (.stgEventsClr v) s = .next t ∧ { t with stg := s.stg } = s ∧ { t.stg with events := s.stg.events } = s.stg ∧
      t.stg.events.late = (if v.getLsbD 0 then 0#16 else s.stg.events.late) ∧ t.stg.events.held = (if v.getLsbD 1 then 0#16 else s.stg.events.held) ∧
      t.stg.events.wdog = (if v.getLsbD 2 then 0#16 else s.stg.events.wdog) ∧ t.stg.events.slip = (if v.getLsbD 3 then 0#16 else s.stg.events.slip)) ∧
    (∀ n, clusterFitted s n = true →
      (v.getLsbD 0 = true → clusterLive s n = true → (getCluster s n).offline = false →
        ∃ t, exec (.offline n v) s = .next t ∧ getCluster t n = { getCluster s n with offline := true } ∧ (∀ m, m ≠ n → getCluster t m = getCluster s m) ∧
          t.mem = s.mem ∧ t.itins = s.itins ∧ ∃ r ∈ t.errs, r.cls = 0x0C ∧ r.unit = n) ∧
      (v.getLsbD 0 = false → (getCluster s n).out = false →
        ∃ t, exec (.offline n v) s = .next t ∧ getCluster t n = { getCluster s n with offline := false } ∧ { t with clusters := s.clusters } = s) ∧
      ((getCluster s n).out = true → clusterLive s n = false → exec (.offline n v) s = .next s))) ∧
  (∀ (v : Word) (s : State), innkBooted s = true →
    exec (.registerWrite (ctlBase + 0x030) v) s = .next { s with stg := { s.stg with timeCfg := putTimeCfg v s.stg.timeCfg } } ∧
    exec (.registerWrite (ctlBase + 0x100) v) s = .next { s with ldg := { s.ldg with cfg := putLdgCfg v s.ldg.cfg } } ∧
    exec (.registerWrite (ctlBase + 0x008) v) s = exec (.stgCfgNextApply v) s ∧
    exec (.registerWrite (ctlBase + 0x040) v) s = exec (.stgEventsClr v) s ∧
    (∀ n, clusterLive s n = true → exec (.registerWrite (ctlBase + ctlBlock + n * 0x1000 + 0x010) v) s = exec (.offline n v) s) ∧
    (∀ n, n < 8 → halfLive s n = true →
      ∃ t, exec (.registerWrite (ctlBase + 2 * ctlBlock + n * 0x1000 + 0x008) v) s = .next t ∧ OnlyHome n s t ∧
        getHome t n = { getHome s n with cfg := putL2hCfg v (getHome s n).cfg }) ∧
    (∀ n, n < 8 → stackLive s n = true →
      (∃ t, exec (.registerWrite (ctlBase + 3 * ctlBlock + n * 0x1000 + 0x008) v) s = .next t ∧ OnlyCtl n s t ∧
        getCtl t n = { getCtl s n with cfg := putMemCfg v (getCtl s n).cfg }) ∧
      (∀ i, i < 256 → ∃ t, exec (.registerWrite (ctlBase + 3 * ctlBlock + n * 0x1000 + 0x400 + 8 * i) v) s = .next t ∧ OnlyCtl n s t ∧
        tabGet {} (getCtl t n).retired i = putMemRet v ∧ ∀ j, j ≠ i → tabGet {} (getCtl t n).retired j = tabGet {} (getCtl s n).retired j)) ∧
    exec (.registerWrite (ctlBase + 4 * ctlBlock) v) s = .next { s with innk := { s.innk with cfg := putPhCfg v s.innk.cfg } } ∧
    exec (.registerWrite (ctlBase + 5 * ctlBlock) v) s = .next { s with net := { s.net with cfg := putNetCfg v s.net.cfg } } ∧
    exec (.registerWrite (ctlBase + 5 * ctlBlock + 0x008) v) s = .next { s with net := { s.net with relay := putNetRelay v s.net.relay } } ∧
    exec (.registerWrite (ctlBase + 5 * ctlBlock + 0x010) v) s = .next { s with net := { s.net with job := putNetJob v s.net.job } } ∧
    (∀ n, n < 8 → ∃ t, exec (.registerWrite (ctlBase + 5 * ctlBlock + 0x1000 + n * 0x100 + 0x10) v) s = .next t ∧ OnlyNet s t ∧
      getPort t n = { getPort s n with v4 := putPortV4 v (getPort s n).v4 } ∧ ∀ m, m ≠ n → getPort t m = getPort s m) ∧
    exec (.registerWrite (ctlBase + 6 * ctlBlock) v) s = .next { s with ptrCfg := { cmdEvery := inRange 1 15 (fld v 0 4) s.ptrCfg.cmdEvery } } ∧
    exec (.registerWrite (ctlBase + 7 * ctlBlock) v) s = .next { s with pwr := { s.pwr with cfg := putPwrCfg s.variant.pmaxW v s.pwr.cfg } } ∧
    exec (.registerWrite (ctlBase + 7 * ctlBlock + 0x010) v) s = .next { s with pwr := { s.pwr with coolCfg := putCoolCfg v s.pwr.coolCfg } } ∧
    (∀ a, a < ctlBase ∨ ctlBase + 8 * ctlBlock ≤ a → exec (.registerWrite a v) s = .next s))

/-- R317, R443, R444, R445, R448, R454, R457, R458, R459, R461, R462: What an access of a running hart does: loads, stores, LR and SC in its
die's cache, a load of the status window, the CSRs, and the exceptions of R448 in their order; a store into a guest's command area has
no effect; a hart that does not run does nothing. A restart of the complex stops every hart, and releases those of the dies in service
at the image base once the image passes, or refuses the start; a frequency of 8 to 32 is taken, and is in force when the change is done.
Choices and readings of the model that it rests on: log 53, 54, 86. -/
def Obligations.ProcessorComplex : Prop :=
  (∀ (a : HartAccess) (s : State),
    (hartRuns s a.hart = false → exec (.hartAccess a) s = .next s) ∧
    (hartRuns s a.hart = true →
      (a.kind = .csrRead 0xCC0 3 → ∃ t, exec (.hartAccess a) s = .next t ∧ (getHart t a.hart).lastValue = asValue (s.stg.num % 2 ^ 64) ∧ (getHart t a.hart).trap = none) ∧
      (∀ m, m ≠ 3 → a.kind = .csrRead 0x7C0 m → ∃ t, exec (.hartAccess a) s = .next t ∧ (getHart t a.hart).trap = some .illegal ∧ t.mem = s.mem) ∧
      (∀ v, a.kind = .csrWrite 0x7C2 3 v → v.getLsbD 63 = true →
        ∃ t, exec (.hartAccess a) s = .next t ∧ (getHart t a.hart).err = { (getHart s a.hart).err with valid := 0#1 }) ∧
      (accSizeOk a = true → (∀ c m, a.kind ≠ .csrRead c m) → (∀ c m v, a.kind ≠ .csrWrite c m v) →
        ((spanRanges s a).contains .vacant = true →
          ∃ t, exec (.hartAccess a) s = .next t ∧ (getHart t a.hart).trap = some (accessFault a.kind) ∧ (getHart t a.hart).mtval = BitVec.ofNat 64 a.va ∧
            ((getHart s a.hart).err.valid = 0#1 → (getHart t a.hart).err = { addr := BitVec.ofNat 52 a.pa, cause := 3#4, valid := 1#1 }) ∧
            ((getHart s a.hart).err.valid = 1#1 → (getHart t a.hart).err = (getHart s a.hart).err) ∧ { t with px := s.px } = s) ∧
        ((spanRanges s a).contains .vacant = false → (spanRanges s a).any (fun r => !ioPermits a r) = false → accMisaligned a = true →
          ∃ t, exec (.hartAccess a) s = .next t ∧ (getHart t a.hart).trap = some .storeMisaligned ∧ (getHart t a.hart).err = (getHart s a.hart).err ∧
            { t with px := s.px } = s) ∧
        (a.kind = .load → a.size = 8 → a.pa % 8 = 0 → ctlBase ≤ a.pa → a.pa < ctlBase + 10 * ctlBlock →
          ∃ t, exec (.hartAccess a) s = .next t ∧ (getHart t a.hart).lastValue = asValue (readReg s a.pa).toNat ∧ (getHart t a.hart).trap = none ∧
            { t with px := s.px } = s)) ∧
      (∀ rg x, pxRange s a.pa = .memory rg → pxRange s (a.pa + a.size - 1) = .memory rg → a.nonCacheable = false → a.pa % 32 + a.size ≤ 32 → 0 < a.size →
        a.pa % a.size = 0 → a.size = 4 ∨ a.size = 8 → (getPx s (hartDie a.hart)).line (a.pa / 128) = some x →
        ((secAt x.sectors (a.pa / 32 % 4)).poison = false →
          ((a.kind = .load ∨ a.kind = .lr) →
            ∃ t, exec (.hartAccess a) s = .next t ∧ (getHart t a.hart).trap = none ∧ { t with px := s.px } = s ∧
              (getHart t a.hart).lastValue = asValue (bytesNat ((List.range a.size).map (fun i => byteOf (secAt x.sectors (a.pa / 32 % 4)).data ((a.pa + i) % 32)))) ∧
              (a.kind = .lr → (getHart t a.hart).reservation = some (a.pa / 64 * 64)))) ∧
        ((secAt x.sectors (a.pa / 32 % 4)).poison = true → a.kind = .load →
          ∃ t, exec (.hartAccess a) s = .next t ∧ (getHart t a.hart).trap = some .loadAccess ∧
            ((getHart s a.hart).err.valid = 0#1 → (getHart t a.hart).err.cause = 1#4)) ∧
        (∀ v, rg.ro = false → x.owned = true → (a.kind = .store v ∨ (a.kind = .sc v ∧ (getHart s a.hart).reservation = some (a.pa / 64 * 64))) →
          ∃ t, exec (.hartAccess a) s = .next t ∧ (getHart t a.hart).trap = none ∧ { t with px := s.px } = s ∧
            (a.kind = .sc v → (getHart t a.hart).lastValue = asValue 0 ∧ (getHart t a.hart).reservation = none) ∧
            (touchesArea s a.pa a.size = false → ∀ i < a.size, pxByte t (hartDie a.hart) (a.pa + i) = v.extractLsb' (8 * i) 8) ∧
            (touchesArea s a.pa a.size = true → (getPx t (hartDie a.hart)).cache = (getPx s (hartDie a.hart)).cache)) ∧
        (∀ v, rg.ro = false → x.owned = true → a.kind = .sc v → (getHart s a.hart).reservation ≠ some (a.pa / 64 * 64) →
          ∃ t, exec (.hartAccess a) s = .next t ∧ (getHart t a.hart).lastValue = asValue 1 ∧ (getHart t a.hart).reservation = none ∧
            (getPx t (hartDie a.hart)).cache = (getPx s (hartDie a.hart)).cache) ∧
        (∀ v, rg.ro = true → a.kind = .store v →
          ∃ t, exec (.hartAccess a) s = .next t ∧ (getHart t a.hart).trap = some .storeAccess ∧
            ((getHart s a.hart).err.valid = 0#1 → (getHart t a.hart).err.cause = 2#4) ∧ { t with px := s.px } = s)))) ∧
  (∀ (h : Nat) (s : State),
    (hartRuns s h = true → innkUp s = true → (getPx s 0).cache = [] → (getPx s 1).cache = [] →
      ((getComp s 3).bankOf (getComp s 3).reg.bank.toNat = none →
        ∃ t, exec (.mxctlRestart h) s = .next t ∧ t.sec.pxRefused = true ∧ (∀ k, getHart t k = {}) ∧ t.mem = s.mem) ∧
      (∀ b rg, (getComp s 3).bankOf (getComp s 3).reg.bank.toNat = some b → bankPasses s 3 b = true → usable s pxBase = some rg → rg.base = pxBase →
        pxNeeds ≤ rg.len →
        ∃ t, exec (.mxctlRestart h) s = .next t ∧
          ∀ k < 96, (getPx t (k / 48)).live = true → getHart t k = { released := true, entry := pxBase, a0 := k, a1 := pxBase + 0x2000000 })) ∧
    (∀ v : Word, hartRuns s h = true →
      (8 ≤ v.toNat % 64 → v.toNat % 64 ≤ 32 →
        ∃ t, exec (.mxfreqWrite h v) s = .next t ∧ (getPx t (h / 48)).freq = { (getPx s (h / 48)).freq with freq := v.setWidth 6 } ∧
          { t with px := s.px } = s ∧ ∀ d, d ≠ h / 48 → getPx t d = getPx s d) ∧
      ((v.toNat % 64 < 8 ∨ 32 < v.toNat % 64) → exec (.mxfreqWrite h v) s = .next s)) ∧
    (∀ d, d < 2 → (getPx s d).live = true → s.mdl.st = .running →
      ∃ t, exec (.freqChangeDone d) s = .next t ∧ (getPx t d).freq = { (getPx s d).freq with freqNow := (getPx s d).freq.freq } ∧ { t with px := s.px } = s))

/-- R479, R480, R486, R487, R488, R492, R493, R494, R495, R496: The throttle's evaluation with its power, the two values of N and the
greater of them, energy, and the events that follow; the valve's evaluation; the warnings; telemetry missing three times in a row counts
as the part's full power. Choices and readings of the model that it rests on: log 55, 56. -/
def Obligations.PowerAndHeat : Prop :=
  ∀ s : State, s.mdl.st = .running →
    (∀ (r : Telemetry) (uw : Nat),
      ((∃ mv ma, r.vin = some (mv, ma) ∧ uw = mv * ma) ∨ (r.vin = none ∧ 2 ≤ s.pwr.missing ∧ uw = s.variant.pmaxW * 1000000)) →
      ∃ t, exec (.throttleEvaluation r) s = .next t ∧ t.pwr.pW = uw / 1000000 ∧ t.pwr.energyFj = s.pwr.energyFj + uw * 10000 ∧
        t.pwr.nCap = nextCap s.pwr.nCap s.pwr.cfg.nMax.toNat s.pwr.cfg.gainW.toNat ((uw : Int) - s.pwr.cfg.capW.toNat * 1000000) ∧
        t.pwr.nTherm = nextTherm s.pwr.nTherm s.pwr.cfg.nMax.toNat s.pwr.cfg.tjSoft.toNat ((junctions s r.tj).foldl max 0) ∧
        t.pwr.n = max t.pwr.nCap t.pwr.nTherm ∧ t.pwr.missing = (if r.vin.isSome then 0 else s.pwr.missing + 1) ∧
        t.pwr.telemLost = r.vin.isNone ∧ t.pwr.cfg = s.pwr.cfg ∧ t.mem = s.mem ∧ t.ldg.maxThrottle = max s.ldg.maxThrottle t.pwr.n) ∧
    (∃ t, exec .telemLost s = .next t ∧ t.pwr = { s.pwr with telemLost := decide (3 ≤ s.pwr.missing) } ∧ { t with pwr := s.pwr, sb := s.sb } = s) ∧
    (∃ t, exec .capUnmet s = .next t ∧ (100 ≤ s.pwr.unmetRun → t.pwr.unmet = true) ∧ (s.pwr.unmetRun < 100 → 100 ≤ s.pwr.okRun → t.pwr.unmet = false) ∧
      (s.pwr.unmetRun < 100 → s.pwr.okRun < 100 → t.pwr.unmet = s.pwr.unmet) ∧ { t with pwr := s.pwr, sb := s.sb } = s) ∧
    (2 ≤ s.sec.boot.toNat →
      (∀ r : CoolReadings,
        (s.pwr.coolCfg.tjFlow.toNat ≤ r.tjAll →
          ∃ t, exec (.valveEvaluation r) s = .next t ∧ t.pwr.cool.valve.toNat = min 100 (s.pwr.cool.valve.toNat + 10) ∧ t.pwr.integ = s.pwr.integ ∧ t.pwr.override_ = true) ∧
        (r.tjAll + 5 ≤ s.pwr.coolCfg.tjFlow.toNat →
          ∃ t, exec (.valveEvaluation r) s = .next t ∧ t.pwr.override_ = false ∧
            t.pwr.integ = max (-5000) (min 5000 (s.pwr.integ + ((r.tOut : Int) - s.pwr.coolCfg.target.toNat))) ∧
            t.pwr.cool.valve = BitVec.ofNat 7 (max (s.pwr.coolCfg.valveMin.toNat : Int)
              (min 100 (roundAway (80 * ((r.tOut : Int) - s.pwr.coolCfg.target.toNat) + 2 * t.pwr.integ) 100))).toNat ∧
            t.pwr.cool.tOut = BitVec.ofNat 10 r.tOut ∧ t.mem = s.mem)) ∧
      (∃ t, exec (.warningTimer .inletHigh) s = .next t ∧ t.pwr = { s.pwr with inletHigh := inletBad s } ∧ { t with pwr := s.pwr, sb := s.sb } = s) ∧
      (∃ t, exec (.warningTimer .flowLow) s = .next t ∧ t.pwr = { s.pwr with flowLow := flowBad s } ∧ { t with pwr := s.pwr, sb := s.sb } = s) ∧
      (∃ t, exec (.warningTimer .coolantWarn) s = .next t ∧ t.pwr = { s.pwr with coolantWarn := outletBad s } ∧ { t with pwr := s.pwr, sb := s.sb } = s))

/-- R481, R482, R483, R484, R490, R491, R540, R542: A critical trip takes the compute and memory rails and what they held; a fault of a
power domain takes its unit, or the module; a half that no stage binds goes off and comes back warm. Choices and readings of the model
that it rests on: log 56. -/
def Obligations.TripsAndDomains : Prop :=
  ∀ s : State,
    (∀ x : TripSensor, mainPower s = true → s.mdl.st ≠ .tripped → sensorTrips x = true →
      ∃ t, exec (.criticalTrip x) s = .next t ∧ t.mdl.st = .tripped ∧ t.mdl.pwrGood = false ∧ t.mdl.thermTripN = false ∧ t.pwr.trip = tripReg x ∧
        t.mem = [] ∧ t.clusters = [] ∧ t.homes = [] ∧ t.regions = [] ∧ (∀ h, getHart t h = {}) ∧ t.pwr.domOn = s.pwr.domOn &&& 0x3FF00000#30 ∧
        t.pwr.cool.valve = 100#7) ∧
    (∀ x : TripSensor, sensorTrips x = false → exec (.criticalTrip x) s = .next s) ∧
    (∀ n r, mainPower s = false ∨ railFitted s.variant r = false ∨ n ∉ railFeeds r → exec (.powerDomainFault ⟨n, some r⟩) s = .next s) ∧
    (∀ n, mainPower s = false → exec (.powerDomainFault ⟨n, none⟩) s = .next s) ∧
    (∀ n rail, mainPower s = true → (fittedDomains s.variant).getLsbD n = true → (∀ r, rail = some r → railFitted s.variant r = true ∧ n ∈ railFeeds r) →
      (24 ≤ n → s.mdl.st ≠ .tripped → ∃ t, exec (.powerDomainFault ⟨n, rail⟩) s = .next t ∧ PoweredOff .latchedOff s t) ∧
      (n < 24 → s.mdl.st ≠ .running →
        ∃ t, exec (.powerDomainFault ⟨n, rail⟩) s = .next t ∧ t.pwr.domFault.getLsbD n = true ∧ t.pwr.domOn.getLsbD n = false ∧ { t with pwr := s.pwr } = s ∧
          ∀ r, rail = some r → (tabGet {} t.pwr.rails r).fault = 1#1 ∧
            ∀ m ∈ railFeeds r, (fittedDomains s.variant).getLsbD m = true → t.pwr.domFault.getLsbD m = true ∧ t.pwr.domOn.getLsbD m = false) ∧
      (s.mdl.st = .running →
        (n < 12 → dieLive s (n / 3) = true → ∃ t, exec (.powerDomainFault ⟨n, rail⟩) s = .next t ∧ t.ldg.loss = true ∧ t.ldg.rollback.isSome = true) ∧
        (12 ≤ n → n < 20 → stackLive s (n - 12) = true → ∃ t, exec (.powerDomainFault ⟨n, rail⟩) s = .next t ∧ t.ldg.loss = true ∧ t.ldg.rollback.isSome = true) ∧
        (n = 20 ∨ n = 21 → (getPx s (n - 20)).live = true →
          ∃ t, exec (.powerDomainFault ⟨n, rail⟩) s = .next t ∧ (getPx t (n - 20)).live = false ∧ (getPx t (n - 20)).cache = [] ∧ t.pwr.domFault.getLsbD n = true ∧
            t.mem = s.mem ∧ ∃ r ∈ t.errs, r.cls = 0x0D ∧ r.unit = n) ∧
        (∀ i, n = 22 ∨ n = 23 → i < 4 →
          ∃ t, exec (.powerDomainFault ⟨n, rail⟩) s = .next t ∧ portUp t (4 * (n - 22) + i) = false ∧ t.pwr.domFault.getLsbD n = true ∧ t.mem = s.mem))) ∧
    (∀ h, innkBooted s = true → h < s.variant.stacks → 0 < s.pwr.cfg.idleOffStages.toNat → s.pwr.cfg.idleOffStages.toNat ≤ tabGet 0 s.pwr.idle h →
      halfNamed s h = false →
      ∃ t, exec (.clusterHalfPowerOff h) s = .next t ∧
        t.pwr = { s.pwr with domOn := clearBit s.pwr.domOn (halfDomain h), warming := clearBit s.pwr.warming h } ∧ { t with pwr := s.pwr } = s) ∧
    (∀ h, s.mdl.st = .running → s.pwr.warming.getLsbD h = true → s.pwr.domFault.getLsbD (halfDomain h) = false →
      ∃ t, exec (.clusterHalfPowerOn h) s = .next t ∧
        t.pwr = { s.pwr with domOn := setBit s.pwr.domOn (halfDomain h), warming := clearBit s.pwr.warming h } ∧ { t with pwr := s.pwr } = s)

/-- R457, R493, R509, R510, R526, R527, R530, R537, R538, R539, R540, R541: The module's power-up, boot, reset and power-down. Choices and
readings of the model that it rests on: log 57, 69. -/
def Obligations.ModuleStates : Prop :=
  ∀ s : State,
    (s.mdl.pwrEn = false → s.mdl.st = .off →
      (s.mdl.holdoff = false →
        ∃ t, exec .pwrEnRise s = .next t ∧ t.mdl = { s.mdl with pwrEn := true, st := .starting } ∧ t.pwr.domOn = fittedDomains s.variant ∧ t.mem = s.mem) ∧
      (s.mdl.holdoff = true → ∃ t, exec .pwrEnRise s = .next t ∧ t = { s with mdl := { s.mdl with pwrEn := true } })) ∧
    (s.mdl.holdoff = true →
      (s.mdl.st = .off → s.mdl.pwrEn = true → ∃ t, exec .pwrEnHoldoff s = .next t ∧ t.mdl = { s.mdl with holdoff := false, st := .starting }) ∧
      (s.mdl.st = .latchedOff → s.mdl.pwrEn = false → ∃ t, exec .pwrEnHoldoff s = .next t ∧ t = { s with mdl := { s.mdl with holdoff := false, st := .off } })) ∧
    (s.mdl.st = .starting →
      (∃ t, exec .pwrGood s = .next t ∧ t.mdl = { s.mdl with st := .waitRelease, pwrGood := true } ∧ t.pwr.cool.valve = 100#7 ∧
        ∀ n < 31, railFitted s.variant n = true → (tabGet {} t.pwr.rails n).pg = 1#1) ∧
      (∃ t, exec .powerGoodTimeout s = .next t ∧ PoweredOff .latchedOff s t)) ∧
    (s.mdl.st = .waitRelease → ∀ n,
      ∃ t, exec (.releaseInstant n) s = .next t ∧ t.mdl.st = .running ∧ t.stg.upNs = 0 ∧ t.sb.onBus = true ∧ t.sb.slotId = BitVec.ofNat 4 n ∧
        (t.sec.recovery = true ∨ t.sec.boot = 1#2) ∧ t.mem = s.mem) ∧
    (s.mdl.st = .running → s.sec.boot = 1#2 → s.sec.innkFail = false →
      (∃ t, exec .innkeeperReady s = .next t ∧ 2 ≤ t.sec.boot.toNat) ∧
      ((getComp s 2).reg.fallback = 1#1 → ∃ t, exec .innkReadyTimeout s = .next t ∧ t.sec.innkFail = true ∧ t.mem = s.mem) ∧
      (∀ b, (getComp s 2).reg.fallback = 0#1 → s.sec.innkTries = 0 → (getComp s 2).bankOf (getComp s 2).inactive = some b → bankPasses s 2 b = true →
        ∃ t, exec .innkReadyTimeout s = .next t ∧ t.sec.innkFail = false ∧ t.sec.innkTries = 1 ∧ (getComp t 2).reg.fallback = 1#1 ∧
          (getComp t 2).reg.version = b.version ∧ (getComp t 2).reg.bank = BitVec.ofNat 1 (getComp s 2).inactive)) ∧
    (s.mdl.pwrEn = true → mainPower s = true →
      ∃ t, exec .pwrEnFall s = .next t ∧ PoweredOff .off s t ∧ t.mdl.pwrEn = false ∧ t.mdl.holdoff = true) ∧
    (∀ n, 1000 ≤ n → s.mdl.pwrGood = true →
      ∃ t, exec (.moduleReset n) s = .next t ∧ t.mdl = { s.mdl with st := .waitRelease } ∧ t.mem = [] ∧ t.chkXor = [] ∧ t.regions = [] ∧ t.clusters = [] ∧
        t.homes = [] ∧ t.itins = [] ∧ t.errs = [] ∧ t.ldg.records = [] ∧ t.innk = {} ∧ t.stg = {} ∧ t.variant = s.variant ∧ t.pwr.trip = s.pwr.trip ∧
        t.sec.slots = s.sec.slots ∧ t.sb.persisted = s.sb.persisted ∧ t.pending = s.pending) ∧
    (∀ n, n < 1000 → exec (.moduleReset n) s = .next s) ∧
    (mainPower s = true → s.mdl.st ≠ .tripped →
      (∀ mv d, (mv < 44000 ∨ 57000 < mv) → 20000 ≤ d → ∃ t, exec (.vinShutdown mv d) s = .next t ∧ PoweredOff .latchedOff s t) ∧
      (∀ d, 2000000 < d → ∃ t, exec (.currentLimit d) s = .next t ∧ PoweredOff .latchedOff s t) ∧
      (∀ d, 10000 < d → s.mdl.pwrGood = true → ∃ t, exec (.refclkLoss d) s = .next t ∧ PoweredOff .latchedOff s t)) ∧
    (∀ mv d, (44000 ≤ mv ∧ mv ≤ 57000) ∨ d < 20000 → exec (.vinShutdown mv d) s = .next s) ∧
    (∀ d, d ≤ 2000000 → exec (.currentLimit d) s = .next s)

/-- R485, R545, R546, R547: The I3C target and the MCTP endpoint; while the sideband is off its bus nothing answers. Choices and readings of
the model that it rests on: log 62. -/
def Obligations.SidebandBus : Prop :=
  (∀ (a st : BitVec 7) (n m l : Nat) (e : Byte) (w : Word) (b : Bool) (x y : BitVec 32) (u : UpdateReq) (bs : List Byte) (k : BitVec 256) (o : Option (BitVec 256))
      (tk : DbgToken) (fr : FuseReq) (us : Unsupported) (ar : Arrival) (s : State), sbUp s = false →
    ∀ i ∈ ([.entdaa a, .setdasa st a, .setnewda a, .rstdaa, .enec, .disec, .getpid, .getbcr, .getdcr, .getstatus, .getmrl, .getmwl, .setmrl n, .setmwl n,
      .setEndpointId e, .getEndpointId, .getEndpointUuid, .getMctpVersionSupport, .getMessageTypeSupport, .messageDropped ar, .getTid, .setTid e,
      .getPldmTypes, .getPldmCommands n, .getPldmVersion n, .setEventReceiver e, .getPdrRepositoryInfo, .getPdr n, .getSensorReading n,
      .getStateSensorReadings n, .queryDeviceIdentifiers, .getFirmwareParameters, .requestUpdate, .passComponentTable n, .updateComponent u, .firmwareData n bs,
      .transferComplete b, .verifyComplete, .applyComplete, .activateFirmware, .pldmGetStatus, .cancelUpdateComponent, .cancelUpdate, .updateModeTimeout,
      .getVersion, .getCapabilities, .negotiateAlgorithms n m, .getDigests, .getCertificate n m l, .challenge n k, .getMeasurements n o, .platformEventRetry,
      .platformEventAcknowledged, .unsupportedRequest us, .regRead n, .sidebandFaultRead n m, .cfgSet n w b, .dbgUnlock tk, .dmi n b x y, .clHalt n b,
      .dbgRead n m l n, .fuse fr] : List Instr), exec i s = .next s) ∧
  (∀ (s : State), sbUp s = true →
    (∀ a, s.sb.dynAddr = 0#7 →
      (∃ t, exec (.entdaa a) s = .next t ∧ AnswersWith .ok { s with sb := { s.sb with dynAddr := a } } t) ∧
      (∃ t, exec (.setdasa (0x30#7 + s.sb.slotId.setWidth 7) a) s = .next t ∧ AnswersWith .ok { s with sb := { s.sb with dynAddr := a } } t) ∧
      exec (.setnewda a) s = .next s) ∧
    (∀ a, s.sb.dynAddr ≠ 0#7 →
      exec (.entdaa a) s = .next s ∧
      (∃ t, exec (.setnewda a) s = .next t ∧ AnswersWith .ok { s with sb := { s.sb with dynAddr := a } } t)) ∧
    (∃ t, exec .rstdaa s = .next t ∧ AnswersWith .ok { s with sb := { s.sb with dynAddr := 0#7 } } t) ∧
    (∃ t, exec .enec s = .next t ∧ AnswersWith .ok { s with sb := { s.sb with ibiEn := true } } t) ∧
    (∃ t, exec .disec s = .next t ∧ AnswersWith .ok { s with sb := { s.sb with ibiEn := false } } t) ∧
    (∃ t, exec .getpid s = .next t ∧
      AnswersWith (.word ((0x31C7#64 <<< 33) ||| (s.variant.part.setWidth 64 <<< 16) ||| (s.sb.slotId.setWidth 64 <<< 12))) s t) ∧
    (∃ t, exec .getbcr s = .next t ∧ AnswersWith (.byte bcr) s t) ∧
    (∃ t, exec .getdcr s = .next t ∧ AnswersWith (.byte Config.dcr) s t) ∧
    (∃ t, ∃ w : BitVec 16, exec .getstatus s = .next t ∧ AnswersWith (.word (w.setWidth 64)) s t) ∧
    (∃ t, exec .getmrl s = .next t ∧ AnswersWith (.word (BitVec.ofNat 64 s.sb.mrl)) s t) ∧
    (∃ t, exec .getmwl s = .next t ∧ AnswersWith (.word (BitVec.ofNat 64 s.sb.mwl)) s t) ∧
    (∀ n, 64 ≤ n → n ≤ 256 →
      (∃ t, exec (.setmrl n) s = .next t ∧ AnswersWith .ok { s with sb := { s.sb with mrl := n } } t) ∧
      (∃ t, exec (.setmwl n) s = .next t ∧ AnswersWith .ok { s with sb := { s.sb with mwl := n } } t)) ∧
    (∀ n, n < 64 ∨ 256 < n → exec (.setmrl n) s = .next s ∧ exec (.setmwl n) s = .next s) ∧
    (∀ e, e ≠ 0#8 → e ≠ 0xFF#8 → ∃ t, exec (.setEndpointId e) s = .next t ∧ AnswersWith .ok { s with sb := { s.sb with eid := e } } t) ∧
    (∃ t, exec .getEndpointId s = .next t ∧ AnswersWith (.byte s.sb.eid) s t) ∧
    (∃ t, exec .getEndpointUuid s = .next t ∧ AnswersWith (.bytes (wordBytes 16 Config.endpointUuid)) s t) ∧
    (∃ t, ∃ w : BitVec 32, exec .getMctpVersionSupport s = .next t ∧ AnswersWith (.word (w.setWidth 64)) s t) ∧
    (∃ t, exec .getMessageTypeSupport s = .next t ∧ AnswersWith (.bytes [0x00#8, 0x01#8, 0x05#8, 0x7F#8]) s t) ∧
    (∀ a, exec (.messageDropped a) s = .next { s with sb := { s.sb with dropped := satInc s.sb.dropped } }))

/-- R548, R549, R550, R551: PLDM discovery and control, platform monitoring and its events: what is answered, and that requests not served
in a phase of boot answer that the endpoint is not ready. Choices and readings of the model that it rests on: log 62, 63. -/
def Obligations.PldmMonitoring : Prop :=
  ∀ (s : State), sbUp s = true →
    ((s.sec.recovery = true ∨ s.sec.boot.toNat < 2) → ∀ n e, ∀ i ∈ [Instr.setEventReceiver e, .getPdrRepositoryInfo, .getPdr n, .getSensorReading n, .getStateSensorReadings n],
      ∃ t, exec i s = .next t ∧ AnswersWith (.pldmError .notReady) s t) ∧
    (∃ t, exec .getTid s = .next t ∧ AnswersWith (.byte s.sb.tid) s t) ∧
    (∀ e, e ≠ 0#8 → e ≠ 0xFF#8 → ∃ t, exec (.setTid e) s = .next t ∧ AnswersWith .ok { s with sb := { s.sb with tid := e } } t) ∧
    (∃ t, exec .getPldmTypes s = .next t ∧ AnswersWith (.bytes [0#8, 2#8, 5#8]) s t) ∧
    (∀ n, n = 0 ∨ n = 2 ∨ n = 5 →
      (∃ t, exec (.getPldmCommands n) s = .next t ∧ AnswersWith (.bytes (pldmCommands n)) s t) ∧
      (∃ t, ∃ w : BitVec 32, exec (.getPldmVersion n) s = .next t ∧ AnswersWith (.word (w.setWidth 64)) s t)) ∧
    (∀ n, n ≠ 0 → n ≠ 2 → n ≠ 5 →
      (∃ t, exec (.getPldmCommands n) s = .next t ∧ AnswersWith (.pldmError .unsupportedCmd) s t)) ∧
    (∀ a b, ((a = 0 ∨ a = 5 ∨ (s.sec.recovery = false ∧ 2 ≤ s.sec.boot.toNat)) →
        ∃ t, exec (.unsupportedRequest (.pldm a b)) s = .next t ∧ AnswersWith (.pldmError .unsupportedCmd) s t) ∧
      (a ≠ 0 → a ≠ 5 → (s.sec.recovery = true ∨ s.sec.boot.toNat < 2) →
        ∃ t, exec (.unsupportedRequest (.pldm a b)) s = .next t ∧ AnswersWith (.pldmError .notReady) s t)) ∧
    (s.sec.recovery = false → 2 ≤ s.sec.boot.toNat →
      (∀ e, ∃ t, exec (.setEventReceiver e) s = .next t ∧ AnswersWith .ok { s with sb := { s.sb with receiver := some e } } t) ∧
      (∃ t, exec .getPdrRepositoryInfo s = .next t ∧ AnswersWith (.word 67#64) s t) ∧
      (∀ r, r < 54 → ∃ t n, exec (.getPdr r) s = .next t ∧ numericSensors[r]? = some n ∧ AnswersWith (.pdr true n) s t) ∧
      (∀ r, 54 ≤ r → r < 67 → ∃ t, exec (.getPdr r) s = .next t ∧ AnswersWith (.pdr false (r - 54)) s t) ∧
      (∀ n a v, sensorOf s n = some (a, v) → ∃ t, exec (.getSensorReading n) s = .next t ∧ AnswersWith (.sensor a (if a then v else 0)) s t) ∧
      (∀ n, sensorOf s n = none → ∃ t, exec (.getSensorReading n) s = .next t ∧ AnswersWith (.pldmError .invalidSensor) s t) ∧
      (∀ n, n < 13 → ∃ t, exec (.getStateSensorReadings n) s = .next t ∧ AnswersWith (.sensor true (s.sb.event.getLsbD n).toNat) s t)) ∧
    (∀ e es, s.sb.waiting = e :: es →
      (s.sb.receiver.isSome = true → exec .platformEventRetry s = .next { s with sb := { s.sb with sent := s.sb.sent ++ [e] } }) ∧
      (es = [] → exec .platformEventAcknowledged s = .next { s with sb := { s.sb with waiting := [] } }) ∧
      (∀ f fs, es = f :: fs → exec .platformEventAcknowledged s = .next { s with sb := { s.sb with waiting := f :: fs, sent := s.sb.sent ++ [f] } }))

/-- R511, R512, R513, R552: PLDM firmware update, from RequestUpdate through the transfer, the monitor's verification and the staging to the
activation that commits what this update has staged; a request out of its place is refused. Choices and readings of the model that it
rests on: log 63. -/
def Obligations.FirmwareUpdate : Prop :=
  ∀ (s : State), sbUp s = true → s.sec.recovery = false →
    (∃ t, exec .queryDeviceIdentifiers s = .next t ∧ AnswersWith (.word (Config.iana.setWidth 64)) s t) ∧
    (∃ t, exec .pldmGetStatus s = .next t ∧ AnswersWith (.word (BitVec.ofNat 64 (updNum s.sb.updState))) s t) ∧
    (∃ t ws, exec .getFirmwareParameters s = .next t ∧ AnswersWith (.words ws) s t ∧ ws.length = 4 ∧
      ∀ n < 4, ∀ w, ws[n]? = some w → w.toNat % 2 ^ 32 = (getComp s n).reg.version.toNat) ∧
    (s.sb.updState = .idle →
      (fwInFlight s = false → (∀ n < 4, (getComp s n).reg.pending = 0#1) →
        ∃ t, exec .requestUpdate s = .next t ∧ AnswersWith .ok { s with sb := { s.sb with updState := .learn, updStaged := [] } } t) ∧
      (∀ (n : Nat) (u : UpdateReq) (bs : List Byte) (ok : Bool),
        ∀ i ∈ [Instr.passComponentTable n, .updateComponent u, .firmwareData n bs, .transferComplete ok, .verifyComplete, .applyComplete, .activateFirmware,
          .cancelUpdateComponent, .cancelUpdate], ∃ t, exec i s = .next t ∧ AnswersWith (.pldmError .notUpdating) s t)) ∧
    (s.sb.updState ≠ .idle →
      (∃ t, exec .requestUpdate s = .next t ∧ AnswersWith (.pldmError .alreadyUpdating) s t) ∧
      (∃ t, exec .cancelUpdate s = .next t ∧ AnswersWith .ok { s with sb := { s.sb with updState := .idle, updBuf := [], updStaged := [] } } t) ∧
      exec .updateModeTimeout s = .next { s with sb := { s.sb with updState := .idle, updBuf := [], updStaged := [] } }) ∧
    ((s.sb.updState = .learn ∨ s.sb.updState = .ready) → ∀ n, n < 4 →
      ∃ t, exec (.passComponentTable n) s = .next t ∧ AnswersWith .ok { s with sb := { s.sb with updState := .ready } } t) ∧
    (s.sb.updState = .ready → ∀ u : UpdateReq, u.component < 4 → 0 < u.size → u.size ≤ fwMax u.component → (getComp s u.component).reg.pending = 0#1 →
      ∃ t, exec (.updateComponent u) s = .next t ∧ t.sb.resp = .ok ∧ t.sb.updState = .download ∧ t.sb.updComp = u.component ∧ t.sb.updSize = u.size ∧
        t.sb.updBuf = [] ∧ (getComp t u.component).bankOf (getComp s u.component).inactive = none ∧ t.mem = s.mem) ∧
    (s.sb.updState = .download →
      (∀ off bs, off = s.sb.updBuf.length → off + bs.length ≤ s.sb.updSize →
        ∃ t, exec (.firmwareData off bs) s = .next t ∧ AnswersWith .ok { s with sb := { s.sb with updBuf := s.sb.updBuf ++ bs } } t) ∧
      (s.sb.updBuf.length = s.sb.updSize →
        ∃ t, exec (.transferComplete true) s = .next t ∧ AnswersWith .ok { s with sb := { s.sb with updState := .verify } } t)) ∧
    (s.sb.updState = .verify → s.sb.updComp < 4 → fieldNat s.sb.updBuf 0x10 8 = s.sb.updBuf.length →
      (fwApproved s s.sb.updComp s.sb.updBuf = true →
        ∃ t, exec .verifyComplete s = .next t ∧ t.sb.resp = .ok ∧ t.sb.updState = .apply ∧ (getComp t s.sb.updComp).reg.staged = 1#1 ∧
          (getComp t s.sb.updComp).bankOf (getComp s s.sb.updComp).inactive = some (fwBankOf s.sb.updBuf)) ∧
      (fwApproved s s.sb.updComp s.sb.updBuf = false →
        ∃ t, exec .verifyComplete s = .next t ∧ t.sb.resp = .pldmError .verifyFailed ∧ t.sb.updState = .ready ∧
          (getComp t s.sb.updComp).bankOf (getComp s s.sb.updComp).inactive = none ∧ t.sec.refuse.fw = satInc s.sec.refuse.fw)) ∧
    (s.sb.updState = .apply →
      ∃ t, exec .applyComplete s = .next t ∧
        AnswersWith .ok { s with sb := { s.sb with updState := .ready, updStaged := s.sb.updStaged ++ [s.sb.updComp], updBuf := [] } } t) ∧
    ((s.sb.updState = .download ∨ s.sb.updState = .verify ∨ s.sb.updState = .apply) →
      ∃ t, exec .cancelUpdateComponent s = .next t ∧ AnswersWith .ok { s with sb := { s.sb with updState := .ready, updBuf := [] } } t) ∧
    (∀ n, s.sb.updState = .ready → s.sb.updStaged = [n] →
      ∃ t, exec .activateFirmware s = .next t ∧ t.sb.resp = .ok ∧ t.sb.updState = .idle ∧ (getComp t n).reg.pending = 1#1 ∧ (getComp t n).reg.staged = 0#1 ∧
        ((getComp t n).commitB = true ↔ (getComp s n).inactive = 1) ∧ ∀ m, m ≠ n → getComp t m = getComp s m)

/-- R515, R516, R517, R518, R520, R548, R553: The SPDM requests: what each answers, that what it signs is signed with the identity key over
the whole of what it answers, and that nothing is signed once a level-3 token has disabled that key. Choices and readings of the model
that it rests on: log 60, 62. -/
def Obligations.SpdmRequests : Prop :=
  ∀ (s : State), sbUp s = true → s.sec.recovery = false →
    (∃ t, exec .getVersion s = .next t ∧ AnswersWith (.byte 0x14#8) s t) ∧
    (∃ t, ∃ w : BitVec 32, exec .getCapabilities s = .next t ∧ AnswersWith (.word (w.setWidth 64)) s t) ∧
    (∀ a h, a % 2 = 1 → h % 2 = 1 → ∃ t, exec (.negotiateAlgorithms a h) s = .next t ∧ AnswersWith .ok { s with sb := { s.sb with negotiated := true } } t) ∧
    (∀ a h, a % 2 = 0 ∨ h % 2 = 0 → ∃ t, exec (.negotiateAlgorithms a h) s = .next t ∧ AnswersWith .spdmInvalid s t) ∧
    (∃ t, exec .getDigests s = .next t ∧ AnswersWith (.bytes (wordBytes 32 (sha3 Config.certChain))) s t) ∧
    (∀ off len, off < Config.certChain.length →
      ∃ t n, exec (.getCertificate 0 off len) s = .next t ∧ n = min (min len 4096) (Config.certChain.length - off) ∧
        AnswersWith (.cert off n (Config.certChain.length - off - n) ((Config.certChain.drop off).take n)) s t) ∧
    (∀ slot off len, slot ≠ 0 → ∃ t, exec (.getCertificate slot off len) s = .next t ∧ AnswersWith .spdmInvalid s t) ∧
    (∀ k, (s.sec.idKeyOk = true →
        ∃ t, ∃ n : BitVec 256, exec (.challenge 0 k) s = .next t ∧
          AnswersWith (.bytes (digestBytes (sha3 Config.certChain) ++ digestBytes n ++
            idSignature (Config.spdmVca ++ digestBytes k ++ (digestBytes (sha3 Config.certChain) ++ digestBytes n)))) s t) ∧
      (s.sec.idKeyOk = false → ∃ t, exec (.challenge 0 k) s = .next t ∧ AnswersWith .spdmInvalid s t)) ∧
    (∃ t, exec (.getMeasurements 0 none) s = .next t ∧ AnswersWith (.word 16#64) s t) ∧
    (∀ i, 1 ≤ i → i ≤ 16 →
      (∃ t, ∃ n : BitVec 256, exec (.getMeasurements i none) s = .next t ∧ AnswersWith (.bytes (measureBody s (maskBit 16 (i - 1)) n)) s t) ∧
      (∀ k, s.sec.idKeyOk = true →
        ∃ t, ∃ n : BitVec 256, exec (.getMeasurements i (some k)) s = .next t ∧
          AnswersWith (.bytes (measureBody s (maskBit 16 (i - 1)) n ++ idSignature (Config.spdmVca ++ Config.spdmRequest (maskBit 16 (i - 1)) ++ digestBytes k ++
            Config.spdmRequestTail ++ measureBody s (maskBit 16 (i - 1)) n))) s t) ∧
      (∀ k, s.sec.idKeyOk = false → ∃ t, exec (.getMeasurements i (some k)) s = .next t ∧ AnswersWith .spdmInvalid s t)) ∧
    (∀ c, ∃ t, exec (.unsupportedRequest (.spdm c)) s = .next t ∧ AnswersWith .spdmUnsupported s t)

/-- R502, R520, R521, R548, R554, R555, R556, R557: Daxent's own messages: reads of registers and of the error log, settings, debug tokens
with their level, halted clusters, debug reads and fuses; before the Innkeeper is ready all but a few answer busy. Choices and readings
of the model that it rests on: log 63, 64. -/
def Obligations.VendorMessages : Prop :=
  ∀ (s : State), sbUp s = true → s.sec.recovery = false →
    (s.sec.boot.toNat < 2 → ∀ (n m l a : Nat) (v : Word) (b : Bool) (x y : BitVec 32), a < ctlBase + 8 * ctlBlock →
      ∀ i ∈ [Instr.regRead a, .sidebandFaultRead n m, .cfgSet a v b, .dmi n b x y, .clHalt n b, .dbgRead n m a l],
        ∃ t, exec i s = .next t ∧ AnswersWith (.status stBusy []) s t) ∧
    (2 ≤ s.sec.boot.toNat →
      (∀ a, a % 8 = 0 → ctlBase ≤ a → a < ctlBase + 10 * ctlBlock →
        ∃ t, exec (.regRead a) s = .next t ∧ AnswersWith (.status stOk (wordBytes 8 (readReg s a))) s t) ∧
      (∀ seq n, 0 < n → n ≤ 64 →
        ∃ t recs, exec (.sidebandFaultRead seq n) s = .next t ∧ recs = (s.errs.filter (fun r => decide (seq ≤ r.seq) && decide (r.seq < seq + n))).reverse ∧
          AnswersWith (.faults stOk recs.length (lostCount (errOldest s) seq n) recs) s t) ∧
      (∀ v, s.innk.innk.restarting = 0#1 → s.innk.innk.halted = 0#1 → s.innk.dmiHalt = false →
        (∃ t, exec (.cfgSet (ctlBase + 7 * ctlBlock) v false) s = .next t ∧
          AnswersWith (.status stOk []) { s with pwr := { s.pwr with cfg := putPwrCfg s.variant.pmaxW v s.pwr.cfg } } t) ∧
        (∃ t, exec (.cfgSet (ctlBase + 5 * ctlBlock) v true) s = .next t ∧ t.sb.resp = .status stOk [] ∧ t.net.cfg = putNetCfg v s.net.cfg ∧
          tabGet none t.sb.persisted (ctlBase + 5 * ctlBlock) = some v) ∧
        (∀ a b, cfgSettable a = false → ∃ t, exec (.cfgSet a v b) s = .next t ∧ AnswersWith (.status stDenied []) s t)) ∧
      (∀ b x y, (s.sec.dbgLevel = 0 → ∀ h < 96, ∃ t, exec (.dmi h b x y) s = .next t ∧ AnswersWith (.status stDenied []) s t) ∧
        (1 ≤ s.sec.dbgLevel → ∀ h < 96,
          (∃ t, ∃ r : BitVec 32, exec (.dmi h false x y) s = .next t ∧ AnswersWith (.status stOk (wordBytes 4 r)) s t) ∧
          (y.getLsbD 31 = true → ∃ t, exec (.dmi h true 0x10#32 y) s = .next t ∧ tabGet false t.sb.dmiHalted h = true))) ∧
      (∀ n b, clusterIdWf n = true → clusterLive s n = true →
        (s.sec.dbgLevel < 2 → ∃ t, exec (.clHalt n b) s = .next t ∧ AnswersWith (.status stDenied []) s t) ∧
        (2 ≤ s.sec.dbgLevel →
          (∃ t, exec (.clHalt n b) s = .next t ∧ t.sb.resp = .status stOk [] ∧ getCluster t n = { getCluster s n with halted := b } ∧
            ∀ m, m ≠ n → getCluster t m = getCluster s m) ∧
          (∀ a len, 32 ≤ len → len ≤ 4096 → a + len ≤ storeBytes →
            ((getCluster s n).halted = true → ∃ t, exec (.dbgRead 1 n a len) s = .next t ∧
              AnswersWith (.status stOk ((List.range len).map (fun i => tabGet 0#8 (getCluster s n).store (a + i)))) s t) ∧
            ((getCluster s n).halted = false → ∃ t, exec (.dbgRead 1 n a len) s = .next t ∧ AnswersWith (.status stBusy []) s t))))) ∧
    (∀ tk : DbgToken,
      (tokenOk s tk = true →
        ∃ t, exec (.dbgUnlock tk) s = .next t ∧ t.sb.resp = .status stOk [] ∧ t.sec.dbgLevel = max s.sec.dbgLevel (fieldNat tk.bytes 4 1) ∧
          t.sec.idKeyOk = (s.sec.idKeyOk && decide (max s.sec.dbgLevel (fieldNat tk.bytes 4 1) < 3)) ∧
          getMr t 7 = sha3 (wordBytes 32 (getMr s 7) ++ wordBytes 32 (sha3 tk.bytes)) ∧ t.mem = s.mem) ∧
      (tokenOk s tk = false →
        ∃ t, exec (.dbgUnlock tk) s = .next t ∧ t.sb.resp = .status stDenied [] ∧ t.sec = { s.sec with refuse := { s.sec.refuse with debug := satInc s.sec.refuse.debug } })) ∧
    (∀ r : FuseReq,
      (fuseOk s r = false → ∃ t, exec (.fuse r) s = .next t ∧ AnswersWith (.status stDenied []) s t) ∧
      (fuseOk s r = true →
        (fieldNat r.bytes 4 1 = 1 →
          ∃ t, exec (.fuse r) s = .next t ∧ t.sb.resp = .status stOk [] ∧
            keySlot t (fieldNat r.bytes 5 1) = { fused := true, digest := some (digestAt r.bytes 0x30) }) ∧
        (fieldNat r.bytes 4 1 = 2 →
          ∃ t, exec (.fuse r) s = .next t ∧ t.sb.resp = .status stOk [] ∧ slotUsable t (fieldNat r.bytes 5 1) = false) ∧
        (fieldNat r.bytes 4 1 = 3 →
          ∃ t, exec (.fuse r) s = .next t ∧ t.sb.resp = .status stOk [] ∧ t.sec.debugMax = fieldNat r.bytes 6 1 ∧ t.sec.debugMax < s.sec.debugMax)))
end

