-- ==== Sys2Proof/Laws/Tab.lean ====
section
/-! SUPPORT. Laws of the sparse table: a read after a write, and the canonical form. -/

namespace Sys2Proof

section
variable {α : Type} {d v : α} {t : Tab α} {n m : Nat}

theorem tabGet_filter_ne (d : α) (t : Tab α) (n m : Nat) :
    tabGet d (t.filter (fun p => p.1 != n)) m = if m = n then d else tabGet d t m := by
  induction t with
  | nil => simp [tabGet]
  | cons p t ih =>
    obtain ⟨k, w⟩ := p
    by_cases hk : k = n
    · subst hk
      by_cases hm : m = k
      · subst hm; simpa using ih
      · simp [hm, tabGet, Ne.symm hm] at ih ⊢; exact ih
    · by_cases hm : m = n
      · subst hm; simp [hk, tabGet] at ih ⊢; exact ih
      · simp [hk, hm, tabGet] at ih ⊢; rw [ih]

theorem tabGet_tabInsert (d : α) (t : Tab α) (n : Nat) (v : α) (m : Nat) :
    tabGet d (tabInsert t n v) m = if m = n then v else tabGet d t m := by
  induction t with
  | nil => simp [tabGet, tabInsert, eq_comm]
  | cons p t ih =>
    obtain ⟨k, w⟩ := p
    unfold tabInsert
    split
    · by_cases hm : m = n
      · simp [tabGet, hm]
      · simp [tabGet, hm, Ne.symm hm]
    · split
      · rename_i h; subst h
        by_cases hm : m = n
        · simp [tabGet, hm]
        · simp [tabGet, hm, Ne.symm hm]
      · simp only [tabGet, ih]
        by_cases hm : m = n
        · subst hm; rename_i h1 h2; simp [Ne.symm h2]
        · simp [hm]

theorem tabInsert_keys (t : Tab α) (n : Nat) (v : α) (b : Nat) (hb : b < n) (h : ∀ p ∈ t, b < p.1) :
    ∀ p ∈ tabInsert t n v, b < p.1 := by
  induction t with
  | nil => simp [tabInsert, hb]
  | cons q t ih =>
    obtain ⟨k, w⟩ := q
    unfold tabInsert
    split
    · intro p hp; rcases List.mem_cons.1 hp with rfl | hp
      · exact hb
      · exact h p hp
    · split
      · intro p hp; rcases List.mem_cons.1 hp with rfl | hp
        · exact hb
        · exact h p (List.mem_cons_of_mem _ hp)
      · intro p hp; rcases List.mem_cons.1 hp with rfl | hp
        · exact h _ (List.mem_cons_self ..)
        · exact ih (fun q hq => h q (List.mem_cons_of_mem _ hq)) p hp

variable [DecidableEq α]

/-- A read after a write: the value written at its key, and every other key as before. -/
theorem tabGet_tabSet (d : α) (t : Tab α) (n : Nat) (v : α) (m : Nat) :
    tabGet d (tabSet d t n v) m = if m = n then v else tabGet d t m := by
  unfold tabSet
  split
  · rename_i h; rw [tabGet_filter_ne, h]
  · exact tabGet_tabInsert d t n v m

@[simp] theorem tabGet_tabSet_self (d : α) (t : Tab α) (n : Nat) (v : α) : tabGet d (tabSet d t n v) n = v := by
  simp [tabGet_tabSet]

theorem tabGet_tabSet_ne (h : m ≠ n) : tabGet d (tabSet d t n v) m = tabGet d t m := by
  simp [tabGet_tabSet, h]

theorem tabWf_filter (d : α) (t : Tab α) (n : Nat) (h : tabWf d t = true) : tabWf d (t.filter (fun p => p.1 != n)) = true := by
  induction t with
  | nil => rfl
  | cons p t ih =>
    obtain ⟨k, w⟩ := p
    simp only [tabWf, Bool.and_eq_true, decide_eq_true_eq, List.all_eq_true] at h
    by_cases hk : k = n
    · simpa [hk] using ih h.2
    · have : (k != n) = true := by simp [hk]
      rw [List.filter_cons_of_pos (by simpa using this)]
      simp only [tabWf, Bool.and_eq_true, decide_eq_true_eq, List.all_eq_true]
      exact ⟨⟨h.1.1, fun q hq => h.1.2 q (List.mem_of_mem_filter hq)⟩, ih h.2⟩

theorem tabWf_tabInsert (d : α) (t : Tab α) (n : Nat) (v : α) (hv : v ≠ d) (h : tabWf d t = true) :
    tabWf d (tabInsert t n v) = true := by
  induction t with
  | nil => simp [tabInsert, tabWf, hv]
  | cons p t ih =>
    obtain ⟨k, w⟩ := p
    have h' := h
    simp only [tabWf, Bool.and_eq_true, decide_eq_true_eq, List.all_eq_true] at h
    unfold tabInsert
    split
    · rename_i hn
      simp only [tabWf, Bool.and_eq_true, decide_eq_true_eq, List.all_eq_true]
      refine ⟨⟨hv, fun q hq => ?_⟩, ⟨h.1.1, h.1.2⟩, h.2⟩
      rcases List.mem_cons.1 hq with rfl | hq
      · exact hn
      · exact lt_trans hn (h.1.2 q hq)
    · split
      · rename_i hn; subst hn
        simp only [tabWf, Bool.and_eq_true, decide_eq_true_eq, List.all_eq_true]
        exact ⟨⟨hv, h.1.2⟩, h.2⟩
      · simp only [tabWf, Bool.and_eq_true, decide_eq_true_eq, List.all_eq_true]
        exact ⟨⟨h.1.1, tabInsert_keys t n v k (by omega) h.1.2⟩, ih h.2⟩

/-- A write keeps the canonical form. -/
theorem tabWf_tabSet (d : α) (t : Tab α) (n : Nat) (v : α) (h : tabWf d t = true) : tabWf d (tabSet d t n v) = true := by
  unfold tabSet
  split
  · exact tabWf_filter d t n h
  · rename_i hv; exact tabWf_tabInsert d t n v hv h

end

end Sys2Proof
end

