-- ==== Sys2Proof/Laws/State.lean ====
section
/-! SUPPORT. What each named update of the state writes, and that every other field stays, each by computation. -/

namespace Sys2Proof.Machine

@[simp] theorem modStg_variant (f : Stage → Stage) (s : State) : (modStg f s).variant = s.variant := rfl
@[simp] theorem modStg_stg (f : Stage → Stage) (s : State) : (modStg f s).stg = f s.stg := rfl
@[simp] theorem modStg_ldg (f : Stage → Stage) (s : State) : (modStg f s).ldg = s.ldg := rfl
@[simp] theorem modStg_errs (f : Stage → Stage) (s : State) : (modStg f s).errs = s.errs := rfl
@[simp] theorem modStg_errSeq (f : Stage → Stage) (s : State) : (modStg f s).errSeq = s.errSeq := rfl
@[simp] theorem modStg_innk (f : Stage → Stage) (s : State) : (modStg f s).innk = s.innk := rfl
@[simp] theorem modStg_itins (f : Stage → Stage) (s : State) : (modStg f s).itins = s.itins := rfl
@[simp] theorem modStg_regions (f : Stage → Stage) (s : State) : (modStg f s).regions = s.regions := rfl
@[simp] theorem modStg_clusters (f : Stage → Stage) (s : State) : (modStg f s).clusters = s.clusters := rfl
@[simp] theorem modStg_homes (f : Stage → Stage) (s : State) : (modStg f s).homes = s.homes := rfl
@[simp] theorem modStg_ctls (f : Stage → Stage) (s : State) : (modStg f s).ctls = s.ctls := rfl
@[simp] theorem modStg_mem (f : Stage → Stage) (s : State) : (modStg f s).mem = s.mem := rfl
@[simp] theorem modStg_chkXor (f : Stage → Stage) (s : State) : (modStg f s).chkXor = s.chkXor := rfl
@[simp] theorem modStg_porters (f : Stage → Stage) (s : State) : (modStg f s).porters = s.porters := rfl
@[simp] theorem modStg_ptrCfg (f : Stage → Stage) (s : State) : (modStg f s).ptrCfg = s.ptrCfg := rfl
@[simp] theorem modStg_ptrCfgEff (f : Stage → Stage) (s : State) : (modStg f s).ptrCfgEff = s.ptrCfgEff := rfl
@[simp] theorem modStg_px (f : Stage → Stage) (s : State) : (modStg f s).px = s.px := rfl
@[simp] theorem modStg_net (f : Stage → Stage) (s : State) : (modStg f s).net = s.net := rfl
@[simp] theorem modStg_pwr (f : Stage → Stage) (s : State) : (modStg f s).pwr = s.pwr := rfl
@[simp] theorem modStg_mdl (f : Stage → Stage) (s : State) : (modStg f s).mdl = s.mdl := rfl
@[simp] theorem modStg_sec (f : Stage → Stage) (s : State) : (modStg f s).sec = s.sec := rfl
@[simp] theorem modStg_sb (f : Stage → Stage) (s : State) : (modStg f s).sb = s.sb := rfl
@[simp] theorem modStg_freeCtr (f : Stage → Stage) (s : State) : (modStg f s).freeCtr = s.freeCtr := rfl
@[simp] theorem modStg_pending (f : Stage → Stage) (s : State) : (modStg f s).pending = s.pending := rfl

@[simp] theorem modLdg_variant (f : Ledger → Ledger) (s : State) : (modLdg f s).variant = s.variant := rfl
@[simp] theorem modLdg_stg (f : Ledger → Ledger) (s : State) : (modLdg f s).stg = s.stg := rfl
@[simp] theorem modLdg_ldg (f : Ledger → Ledger) (s : State) : (modLdg f s).ldg = f s.ldg := rfl
@[simp] theorem modLdg_errs (f : Ledger → Ledger) (s : State) : (modLdg f s).errs = s.errs := rfl
@[simp] theorem modLdg_errSeq (f : Ledger → Ledger) (s : State) : (modLdg f s).errSeq = s.errSeq := rfl
@[simp] theorem modLdg_innk (f : Ledger → Ledger) (s : State) : (modLdg f s).innk = s.innk := rfl
@[simp] theorem modLdg_itins (f : Ledger → Ledger) (s : State) : (modLdg f s).itins = s.itins := rfl
@[simp] theorem modLdg_regions (f : Ledger → Ledger) (s : State) : (modLdg f s).regions = s.regions := rfl
@[simp] theorem modLdg_clusters (f : Ledger → Ledger) (s : State) : (modLdg f s).clusters = s.clusters := rfl
@[simp] theorem modLdg_homes (f : Ledger → Ledger) (s : State) : (modLdg f s).homes = s.homes := rfl
@[simp] theorem modLdg_ctls (f : Ledger → Ledger) (s : State) : (modLdg f s).ctls = s.ctls := rfl
@[simp] theorem modLdg_mem (f : Ledger → Ledger) (s : State) : (modLdg f s).mem = s.mem := rfl
@[simp] theorem modLdg_chkXor (f : Ledger → Ledger) (s : State) : (modLdg f s).chkXor = s.chkXor := rfl
@[simp] theorem modLdg_porters (f : Ledger → Ledger) (s : State) : (modLdg f s).porters = s.porters := rfl
@[simp] theorem modLdg_ptrCfg (f : Ledger → Ledger) (s : State) : (modLdg f s).ptrCfg = s.ptrCfg := rfl
@[simp] theorem modLdg_ptrCfgEff (f : Ledger → Ledger) (s : State) : (modLdg f s).ptrCfgEff = s.ptrCfgEff := rfl
@[simp] theorem modLdg_px (f : Ledger → Ledger) (s : State) : (modLdg f s).px = s.px := rfl
@[simp] theorem modLdg_net (f : Ledger → Ledger) (s : State) : (modLdg f s).net = s.net := rfl
@[simp] theorem modLdg_pwr (f : Ledger → Ledger) (s : State) : (modLdg f s).pwr = s.pwr := rfl
@[simp] theorem modLdg_mdl (f : Ledger → Ledger) (s : State) : (modLdg f s).mdl = s.mdl := rfl
@[simp] theorem modLdg_sec (f : Ledger → Ledger) (s : State) : (modLdg f s).sec = s.sec := rfl
@[simp] theorem modLdg_sb (f : Ledger → Ledger) (s : State) : (modLdg f s).sb = s.sb := rfl
@[simp] theorem modLdg_freeCtr (f : Ledger → Ledger) (s : State) : (modLdg f s).freeCtr = s.freeCtr := rfl
@[simp] theorem modLdg_pending (f : Ledger → Ledger) (s : State) : (modLdg f s).pending = s.pending := rfl

@[simp] theorem modInnk_variant (f : Innkeeper → Innkeeper) (s : State) : (modInnk f s).variant = s.variant := rfl
@[simp] theorem modInnk_stg (f : Innkeeper → Innkeeper) (s : State) : (modInnk f s).stg = s.stg := rfl
@[simp] theorem modInnk_ldg (f : Innkeeper → Innkeeper) (s : State) : (modInnk f s).ldg = s.ldg := rfl
@[simp] theorem modInnk_errs (f : Innkeeper → Innkeeper) (s : State) : (modInnk f s).errs = s.errs := rfl
@[simp] theorem modInnk_errSeq (f : Innkeeper → Innkeeper) (s : State) : (modInnk f s).errSeq = s.errSeq := rfl
@[simp] theorem modInnk_innk (f : Innkeeper → Innkeeper) (s : State) : (modInnk f s).innk = f s.innk := rfl
@[simp] theorem modInnk_itins (f : Innkeeper → Innkeeper) (s : State) : (modInnk f s).itins = s.itins := rfl
@[simp] theorem modInnk_regions (f : Innkeeper → Innkeeper) (s : State) : (modInnk f s).regions = s.regions := rfl
@[simp] theorem modInnk_clusters (f : Innkeeper → Innkeeper) (s : State) : (modInnk f s).clusters = s.clusters := rfl
@[simp] theorem modInnk_homes (f : Innkeeper → Innkeeper) (s : State) : (modInnk f s).homes = s.homes := rfl
@[simp] theorem modInnk_ctls (f : Innkeeper → Innkeeper) (s : State) : (modInnk f s).ctls = s.ctls := rfl
@[simp] theorem modInnk_mem (f : Innkeeper → Innkeeper) (s : State) : (modInnk f s).mem = s.mem := rfl
@[simp] theorem modInnk_chkXor (f : Innkeeper → Innkeeper) (s : State) : (modInnk f s).chkXor = s.chkXor := rfl
@[simp] theorem modInnk_porters (f : Innkeeper → Innkeeper) (s : State) : (modInnk f s).porters = s.porters := rfl
@[simp] theorem modInnk_ptrCfg (f : Innkeeper → Innkeeper) (s : State) : (modInnk f s).ptrCfg = s.ptrCfg := rfl
@[simp] theorem modInnk_ptrCfgEff (f : Innkeeper → Innkeeper) (s : State) : (modInnk f s).ptrCfgEff = s.ptrCfgEff := rfl
@[simp] theorem modInnk_px (f : Innkeeper → Innkeeper) (s : State) : (modInnk f s).px = s.px := rfl
@[simp] theorem modInnk_net (f : Innkeeper → Innkeeper) (s : State) : (modInnk f s).net = s.net := rfl
@[simp] theorem modInnk_pwr (f : Innkeeper → Innkeeper) (s : State) : (modInnk f s).pwr = s.pwr := rfl
@[simp] theorem modInnk_mdl (f : Innkeeper → Innkeeper) (s : State) : (modInnk f s).mdl = s.mdl := rfl
@[simp] theorem modInnk_sec (f : Innkeeper → Innkeeper) (s : State) : (modInnk f s).sec = s.sec := rfl
@[simp] theorem modInnk_sb (f : Innkeeper → Innkeeper) (s : State) : (modInnk f s).sb = s.sb := rfl
@[simp] theorem modInnk_freeCtr (f : Innkeeper → Innkeeper) (s : State) : (modInnk f s).freeCtr = s.freeCtr := rfl
@[simp] theorem modInnk_pending (f : Innkeeper → Innkeeper) (s : State) : (modInnk f s).pending = s.pending := rfl

@[simp] theorem modNet_variant (f : Net → Net) (s : State) : (modNet f s).variant = s.variant := rfl
@[simp] theorem modNet_stg (f : Net → Net) (s : State) : (modNet f s).stg = s.stg := rfl
@[simp] theorem modNet_ldg (f : Net → Net) (s : State) : (modNet f s).ldg = s.ldg := rfl
@[simp] theorem modNet_errs (f : Net → Net) (s : State) : (modNet f s).errs = s.errs := rfl
@[simp] theorem modNet_errSeq (f : Net → Net) (s : State) : (modNet f s).errSeq = s.errSeq := rfl
@[simp] theorem modNet_innk (f : Net → Net) (s : State) : (modNet f s).innk = s.innk := rfl
@[simp] theorem modNet_itins (f : Net → Net) (s : State) : (modNet f s).itins = s.itins := rfl
@[simp] theorem modNet_regions (f : Net → Net) (s : State) : (modNet f s).regions = s.regions := rfl
@[simp] theorem modNet_clusters (f : Net → Net) (s : State) : (modNet f s).clusters = s.clusters := rfl
@[simp] theorem modNet_homes (f : Net → Net) (s : State) : (modNet f s).homes = s.homes := rfl
@[simp] theorem modNet_ctls (f : Net → Net) (s : State) : (modNet f s).ctls = s.ctls := rfl
@[simp] theorem modNet_mem (f : Net → Net) (s : State) : (modNet f s).mem = s.mem := rfl
@[simp] theorem modNet_chkXor (f : Net → Net) (s : State) : (modNet f s).chkXor = s.chkXor := rfl
@[simp] theorem modNet_porters (f : Net → Net) (s : State) : (modNet f s).porters = s.porters := rfl
@[simp] theorem modNet_ptrCfg (f : Net → Net) (s : State) : (modNet f s).ptrCfg = s.ptrCfg := rfl
@[simp] theorem modNet_ptrCfgEff (f : Net → Net) (s : State) : (modNet f s).ptrCfgEff = s.ptrCfgEff := rfl
@[simp] theorem modNet_px (f : Net → Net) (s : State) : (modNet f s).px = s.px := rfl
@[simp] theorem modNet_net (f : Net → Net) (s : State) : (modNet f s).net = f s.net := rfl
@[simp] theorem modNet_pwr (f : Net → Net) (s : State) : (modNet f s).pwr = s.pwr := rfl
@[simp] theorem modNet_mdl (f : Net → Net) (s : State) : (modNet f s).mdl = s.mdl := rfl
@[simp] theorem modNet_sec (f : Net → Net) (s : State) : (modNet f s).sec = s.sec := rfl
@[simp] theorem modNet_sb (f : Net → Net) (s : State) : (modNet f s).sb = s.sb := rfl
@[simp] theorem modNet_freeCtr (f : Net → Net) (s : State) : (modNet f s).freeCtr = s.freeCtr := rfl
@[simp] theorem modNet_pending (f : Net → Net) (s : State) : (modNet f s).pending = s.pending := rfl

@[simp] theorem modPwr_variant (f : Power → Power) (s : State) : (modPwr f s).variant = s.variant := rfl
@[simp] theorem modPwr_stg (f : Power → Power) (s : State) : (modPwr f s).stg = s.stg := rfl
@[simp] theorem modPwr_ldg (f : Power → Power) (s : State) : (modPwr f s).ldg = s.ldg := rfl
@[simp] theorem modPwr_errs (f : Power → Power) (s : State) : (modPwr f s).errs = s.errs := rfl
@[simp] theorem modPwr_errSeq (f : Power → Power) (s : State) : (modPwr f s).errSeq = s.errSeq := rfl
@[simp] theorem modPwr_innk (f : Power → Power) (s : State) : (modPwr f s).innk = s.innk := rfl
@[simp] theorem modPwr_itins (f : Power → Power) (s : State) : (modPwr f s).itins = s.itins := rfl
@[simp] theorem modPwr_regions (f : Power → Power) (s : State) : (modPwr f s).regions = s.regions := rfl
@[simp] theorem modPwr_clusters (f : Power → Power) (s : State) : (modPwr f s).clusters = s.clusters := rfl
@[simp] theorem modPwr_homes (f : Power → Power) (s : State) : (modPwr f s).homes = s.homes := rfl
@[simp] theorem modPwr_ctls (f : Power → Power) (s : State) : (modPwr f s).ctls = s.ctls := rfl
@[simp] theorem modPwr_mem (f : Power → Power) (s : State) : (modPwr f s).mem = s.mem := rfl
@[simp] theorem modPwr_chkXor (f : Power → Power) (s : State) : (modPwr f s).chkXor = s.chkXor := rfl
@[simp] theorem modPwr_porters (f : Power → Power) (s : State) : (modPwr f s).porters = s.porters := rfl
@[simp] theorem modPwr_ptrCfg (f : Power → Power) (s : State) : (modPwr f s).ptrCfg = s.ptrCfg := rfl
@[simp] theorem modPwr_ptrCfgEff (f : Power → Power) (s : State) : (modPwr f s).ptrCfgEff = s.ptrCfgEff := rfl
@[simp] theorem modPwr_px (f : Power → Power) (s : State) : (modPwr f s).px = s.px := rfl
@[simp] theorem modPwr_net (f : Power → Power) (s : State) : (modPwr f s).net = s.net := rfl
@[simp] theorem modPwr_pwr (f : Power → Power) (s : State) : (modPwr f s).pwr = f s.pwr := rfl
@[simp] theorem modPwr_mdl (f : Power → Power) (s : State) : (modPwr f s).mdl = s.mdl := rfl
@[simp] theorem modPwr_sec (f : Power → Power) (s : State) : (modPwr f s).sec = s.sec := rfl
@[simp] theorem modPwr_sb (f : Power → Power) (s : State) : (modPwr f s).sb = s.sb := rfl
@[simp] theorem modPwr_freeCtr (f : Power → Power) (s : State) : (modPwr f s).freeCtr = s.freeCtr := rfl
@[simp] theorem modPwr_pending (f : Power → Power) (s : State) : (modPwr f s).pending = s.pending := rfl

@[simp] theorem modMdl_variant (f : Module → Module) (s : State) : (modMdl f s).variant = s.variant := rfl
@[simp] theorem modMdl_stg (f : Module → Module) (s : State) : (modMdl f s).stg = s.stg := rfl
@[simp] theorem modMdl_ldg (f : Module → Module) (s : State) : (modMdl f s).ldg = s.ldg := rfl
@[simp] theorem modMdl_errs (f : Module → Module) (s : State) : (modMdl f s).errs = s.errs := rfl
@[simp] theorem modMdl_errSeq (f : Module → Module) (s : State) : (modMdl f s).errSeq = s.errSeq := rfl
@[simp] theorem modMdl_innk (f : Module → Module) (s : State) : (modMdl f s).innk = s.innk := rfl
@[simp] theorem modMdl_itins (f : Module → Module) (s : State) : (modMdl f s).itins = s.itins := rfl
@[simp] theorem modMdl_regions (f : Module → Module) (s : State) : (modMdl f s).regions = s.regions := rfl
@[simp] theorem modMdl_clusters (f : Module → Module) (s : State) : (modMdl f s).clusters = s.clusters := rfl
@[simp] theorem modMdl_homes (f : Module → Module) (s : State) : (modMdl f s).homes = s.homes := rfl
@[simp] theorem modMdl_ctls (f : Module → Module) (s : State) : (modMdl f s).ctls = s.ctls := rfl
@[simp] theorem modMdl_mem (f : Module → Module) (s : State) : (modMdl f s).mem = s.mem := rfl
@[simp] theorem modMdl_chkXor (f : Module → Module) (s : State) : (modMdl f s).chkXor = s.chkXor := rfl
@[simp] theorem modMdl_porters (f : Module → Module) (s : State) : (modMdl f s).porters = s.porters := rfl
@[simp] theorem modMdl_ptrCfg (f : Module → Module) (s : State) : (modMdl f s).ptrCfg = s.ptrCfg := rfl
@[simp] theorem modMdl_ptrCfgEff (f : Module → Module) (s : State) : (modMdl f s).ptrCfgEff = s.ptrCfgEff := rfl
@[simp] theorem modMdl_px (f : Module → Module) (s : State) : (modMdl f s).px = s.px := rfl
@[simp] theorem modMdl_net (f : Module → Module) (s : State) : (modMdl f s).net = s.net := rfl
@[simp] theorem modMdl_pwr (f : Module → Module) (s : State) : (modMdl f s).pwr = s.pwr := rfl
@[simp] theorem modMdl_mdl (f : Module → Module) (s : State) : (modMdl f s).mdl = f s.mdl := rfl
@[simp] theorem modMdl_sec (f : Module → Module) (s : State) : (modMdl f s).sec = s.sec := rfl
@[simp] theorem modMdl_sb (f : Module → Module) (s : State) : (modMdl f s).sb = s.sb := rfl
@[simp] theorem modMdl_freeCtr (f : Module → Module) (s : State) : (modMdl f s).freeCtr = s.freeCtr := rfl
@[simp] theorem modMdl_pending (f : Module → Module) (s : State) : (modMdl f s).pending = s.pending := rfl

@[simp] theorem modSec_variant (f : Security → Security) (s : State) : (modSec f s).variant = s.variant := rfl
@[simp] theorem modSec_stg (f : Security → Security) (s : State) : (modSec f s).stg = s.stg := rfl
@[simp] theorem modSec_ldg (f : Security → Security) (s : State) : (modSec f s).ldg = s.ldg := rfl
@[simp] theorem modSec_errs (f : Security → Security) (s : State) : (modSec f s).errs = s.errs := rfl
@[simp] theorem modSec_errSeq (f : Security → Security) (s : State) : (modSec f s).errSeq = s.errSeq := rfl
@[simp] theorem modSec_innk (f : Security → Security) (s : State) : (modSec f s).innk = s.innk := rfl
@[simp] theorem modSec_itins (f : Security → Security) (s : State) : (modSec f s).itins = s.itins := rfl
@[simp] theorem modSec_regions (f : Security → Security) (s : State) : (modSec f s).regions = s.regions := rfl
@[simp] theorem modSec_clusters (f : Security → Security) (s : State) : (modSec f s).clusters = s.clusters := rfl
@[simp] theorem modSec_homes (f : Security → Security) (s : State) : (modSec f s).homes = s.homes := rfl
@[simp] theorem modSec_ctls (f : Security → Security) (s : State) : (modSec f s).ctls = s.ctls := rfl
@[simp] theorem modSec_mem (f : Security → Security) (s : State) : (modSec f s).mem = s.mem := rfl
@[simp] theorem modSec_chkXor (f : Security → Security) (s : State) : (modSec f s).chkXor = s.chkXor := rfl
@[simp] theorem modSec_porters (f : Security → Security) (s : State) : (modSec f s).porters = s.porters := rfl
@[simp] theorem modSec_ptrCfg (f : Security → Security) (s : State) : (modSec f s).ptrCfg = s.ptrCfg := rfl
@[simp] theorem modSec_ptrCfgEff (f : Security → Security) (s : State) : (modSec f s).ptrCfgEff = s.ptrCfgEff := rfl
@[simp] theorem modSec_px (f : Security → Security) (s : State) : (modSec f s).px = s.px := rfl
@[simp] theorem modSec_net (f : Security → Security) (s : State) : (modSec f s).net = s.net := rfl
@[simp] theorem modSec_pwr (f : Security → Security) (s : State) : (modSec f s).pwr = s.pwr := rfl
@[simp] theorem modSec_mdl (f : Security → Security) (s : State) : (modSec f s).mdl = s.mdl := rfl
@[simp] theorem modSec_sec (f : Security → Security) (s : State) : (modSec f s).sec = f s.sec := rfl
@[simp] theorem modSec_sb (f : Security → Security) (s : State) : (modSec f s).sb = s.sb := rfl
@[simp] theorem modSec_freeCtr (f : Security → Security) (s : State) : (modSec f s).freeCtr = s.freeCtr := rfl
@[simp] theorem modSec_pending (f : Security → Security) (s : State) : (modSec f s).pending = s.pending := rfl

@[simp] theorem modSb_variant (f : Sideband → Sideband) (s : State) : (modSb f s).variant = s.variant := rfl
@[simp] theorem modSb_stg (f : Sideband → Sideband) (s : State) : (modSb f s).stg = s.stg := rfl
@[simp] theorem modSb_ldg (f : Sideband → Sideband) (s : State) : (modSb f s).ldg = s.ldg := rfl
@[simp] theorem modSb_errs (f : Sideband → Sideband) (s : State) : (modSb f s).errs = s.errs := rfl
@[simp] theorem modSb_errSeq (f : Sideband → Sideband) (s : State) : (modSb f s).errSeq = s.errSeq := rfl
@[simp] theorem modSb_innk (f : Sideband → Sideband) (s : State) : (modSb f s).innk = s.innk := rfl
@[simp] theorem modSb_itins (f : Sideband → Sideband) (s : State) : (modSb f s).itins = s.itins := rfl
@[simp] theorem modSb_regions (f : Sideband → Sideband) (s : State) : (modSb f s).regions = s.regions := rfl
@[simp] theorem modSb_clusters (f : Sideband → Sideband) (s : State) : (modSb f s).clusters = s.clusters := rfl
@[simp] theorem modSb_homes (f : Sideband → Sideband) (s : State) : (modSb f s).homes = s.homes := rfl
@[simp] theorem modSb_ctls (f : Sideband → Sideband) (s : State) : (modSb f s).ctls = s.ctls := rfl
@[simp] theorem modSb_mem (f : Sideband → Sideband) (s : State) : (modSb f s).mem = s.mem := rfl
@[simp] theorem modSb_chkXor (f : Sideband → Sideband) (s : State) : (modSb f s).chkXor = s.chkXor := rfl
@[simp] theorem modSb_porters (f : Sideband → Sideband) (s : State) : (modSb f s).porters = s.porters := rfl
@[simp] theorem modSb_ptrCfg (f : Sideband → Sideband) (s : State) : (modSb f s).ptrCfg = s.ptrCfg := rfl
@[simp] theorem modSb_ptrCfgEff (f : Sideband → Sideband) (s : State) : (modSb f s).ptrCfgEff = s.ptrCfgEff := rfl
@[simp] theorem modSb_px (f : Sideband → Sideband) (s : State) : (modSb f s).px = s.px := rfl
@[simp] theorem modSb_net (f : Sideband → Sideband) (s : State) : (modSb f s).net = s.net := rfl
@[simp] theorem modSb_pwr (f : Sideband → Sideband) (s : State) : (modSb f s).pwr = s.pwr := rfl
@[simp] theorem modSb_mdl (f : Sideband → Sideband) (s : State) : (modSb f s).mdl = s.mdl := rfl
@[simp] theorem modSb_sec (f : Sideband → Sideband) (s : State) : (modSb f s).sec = s.sec := rfl
@[simp] theorem modSb_sb (f : Sideband → Sideband) (s : State) : (modSb f s).sb = f s.sb := rfl
@[simp] theorem modSb_freeCtr (f : Sideband → Sideband) (s : State) : (modSb f s).freeCtr = s.freeCtr := rfl
@[simp] theorem modSb_pending (f : Sideband → Sideband) (s : State) : (modSb f s).pending = s.pending := rfl

@[simp] theorem modCluster_variant (n : Nat) (f : Cluster → Cluster) (s : State) : (modCluster n f s).variant = s.variant := rfl
@[simp] theorem modCluster_stg (n : Nat) (f : Cluster → Cluster) (s : State) : (modCluster n f s).stg = s.stg := rfl
@[simp] theorem modCluster_ldg (n : Nat) (f : Cluster → Cluster) (s : State) : (modCluster n f s).ldg = s.ldg := rfl
@[simp] theorem modCluster_errs (n : Nat) (f : Cluster → Cluster) (s : State) : (modCluster n f s).errs = s.errs := rfl
@[simp] theorem modCluster_errSeq (n : Nat) (f : Cluster → Cluster) (s : State) : (modCluster n f s).errSeq = s.errSeq := rfl
@[simp] theorem modCluster_innk (n : Nat) (f : Cluster → Cluster) (s : State) : (modCluster n f s).innk = s.innk := rfl
@[simp] theorem modCluster_itins (n : Nat) (f : Cluster → Cluster) (s : State) : (modCluster n f s).itins = s.itins := rfl
@[simp] theorem modCluster_regions (n : Nat) (f : Cluster → Cluster) (s : State) : (modCluster n f s).regions = s.regions := rfl
@[simp] theorem modCluster_homes (n : Nat) (f : Cluster → Cluster) (s : State) : (modCluster n f s).homes = s.homes := rfl
@[simp] theorem modCluster_ctls (n : Nat) (f : Cluster → Cluster) (s : State) : (modCluster n f s).ctls = s.ctls := rfl
@[simp] theorem modCluster_mem (n : Nat) (f : Cluster → Cluster) (s : State) : (modCluster n f s).mem = s.mem := rfl
@[simp] theorem modCluster_chkXor (n : Nat) (f : Cluster → Cluster) (s : State) : (modCluster n f s).chkXor = s.chkXor := rfl
@[simp] theorem modCluster_porters (n : Nat) (f : Cluster → Cluster) (s : State) : (modCluster n f s).porters = s.porters := rfl
@[simp] theorem modCluster_ptrCfg (n : Nat) (f : Cluster → Cluster) (s : State) : (modCluster n f s).ptrCfg = s.ptrCfg := rfl
@[simp] theorem modCluster_ptrCfgEff (n : Nat) (f : Cluster → Cluster) (s : State) : (modCluster n f s).ptrCfgEff = s.ptrCfgEff := rfl
@[simp] theorem modCluster_px (n : Nat) (f : Cluster → Cluster) (s : State) : (modCluster n f s).px = s.px := rfl
@[simp] theorem modCluster_net (n : Nat) (f : Cluster → Cluster) (s : State) : (modCluster n f s).net = s.net := rfl
@[simp] theorem modCluster_pwr (n : Nat) (f : Cluster → Cluster) (s : State) : (modCluster n f s).pwr = s.pwr := rfl
@[simp] theorem modCluster_mdl (n : Nat) (f : Cluster → Cluster) (s : State) : (modCluster n f s).mdl = s.mdl := rfl
@[simp] theorem modCluster_sec (n : Nat) (f : Cluster → Cluster) (s : State) : (modCluster n f s).sec = s.sec := rfl
@[simp] theorem modCluster_sb (n : Nat) (f : Cluster → Cluster) (s : State) : (modCluster n f s).sb = s.sb := rfl
@[simp] theorem modCluster_freeCtr (n : Nat) (f : Cluster → Cluster) (s : State) : (modCluster n f s).freeCtr = s.freeCtr := rfl
@[simp] theorem modCluster_pending (n : Nat) (f : Cluster → Cluster) (s : State) : (modCluster n f s).pending = s.pending := rfl

@[simp] theorem modHome_variant (n : Nat) (f : Home → Home) (s : State) : (modHome n f s).variant = s.variant := rfl
@[simp] theorem modHome_stg (n : Nat) (f : Home → Home) (s : State) : (modHome n f s).stg = s.stg := rfl
@[simp] theorem modHome_ldg (n : Nat) (f : Home → Home) (s : State) : (modHome n f s).ldg = s.ldg := rfl
@[simp] theorem modHome_errs (n : Nat) (f : Home → Home) (s : State) : (modHome n f s).errs = s.errs := rfl
@[simp] theorem modHome_errSeq (n : Nat) (f : Home → Home) (s : State) : (modHome n f s).errSeq = s.errSeq := rfl
@[simp] theorem modHome_innk (n : Nat) (f : Home → Home) (s : State) : (modHome n f s).innk = s.innk := rfl
@[simp] theorem modHome_itins (n : Nat) (f : Home → Home) (s : State) : (modHome n f s).itins = s.itins := rfl
@[simp] theorem modHome_regions (n : Nat) (f : Home → Home) (s : State) : (modHome n f s).regions = s.regions := rfl
@[simp] theorem modHome_clusters (n : Nat) (f : Home → Home) (s : State) : (modHome n f s).clusters = s.clusters := rfl
@[simp] theorem modHome_ctls (n : Nat) (f : Home → Home) (s : State) : (modHome n f s).ctls = s.ctls := rfl
@[simp] theorem modHome_mem (n : Nat) (f : Home → Home) (s : State) : (modHome n f s).mem = s.mem := rfl
@[simp] theorem modHome_chkXor (n : Nat) (f : Home → Home) (s : State) : (modHome n f s).chkXor = s.chkXor := rfl
@[simp] theorem modHome_porters (n : Nat) (f : Home → Home) (s : State) : (modHome n f s).porters = s.porters := rfl
@[simp] theorem modHome_ptrCfg (n : Nat) (f : Home → Home) (s : State) : (modHome n f s).ptrCfg = s.ptrCfg := rfl
@[simp] theorem modHome_ptrCfgEff (n : Nat) (f : Home → Home) (s : State) : (modHome n f s).ptrCfgEff = s.ptrCfgEff := rfl
@[simp] theorem modHome_px (n : Nat) (f : Home → Home) (s : State) : (modHome n f s).px = s.px := rfl
@[simp] theorem modHome_net (n : Nat) (f : Home → Home) (s : State) : (modHome n f s).net = s.net := rfl
@[simp] theorem modHome_pwr (n : Nat) (f : Home → Home) (s : State) : (modHome n f s).pwr = s.pwr := rfl
@[simp] theorem modHome_mdl (n : Nat) (f : Home → Home) (s : State) : (modHome n f s).mdl = s.mdl := rfl
@[simp] theorem modHome_sec (n : Nat) (f : Home → Home) (s : State) : (modHome n f s).sec = s.sec := rfl
@[simp] theorem modHome_sb (n : Nat) (f : Home → Home) (s : State) : (modHome n f s).sb = s.sb := rfl
@[simp] theorem modHome_freeCtr (n : Nat) (f : Home → Home) (s : State) : (modHome n f s).freeCtr = s.freeCtr := rfl
@[simp] theorem modHome_pending (n : Nat) (f : Home → Home) (s : State) : (modHome n f s).pending = s.pending := rfl

@[simp] theorem modCtl_variant (n : Nat) (f : Ctl → Ctl) (s : State) : (modCtl n f s).variant = s.variant := rfl
@[simp] theorem modCtl_stg (n : Nat) (f : Ctl → Ctl) (s : State) : (modCtl n f s).stg = s.stg := rfl
@[simp] theorem modCtl_ldg (n : Nat) (f : Ctl → Ctl) (s : State) : (modCtl n f s).ldg = s.ldg := rfl
@[simp] theorem modCtl_errs (n : Nat) (f : Ctl → Ctl) (s : State) : (modCtl n f s).errs = s.errs := rfl
@[simp] theorem modCtl_errSeq (n : Nat) (f : Ctl → Ctl) (s : State) : (modCtl n f s).errSeq = s.errSeq := rfl
@[simp] theorem modCtl_innk (n : Nat) (f : Ctl → Ctl) (s : State) : (modCtl n f s).innk = s.innk := rfl
@[simp] theorem modCtl_itins (n : Nat) (f : Ctl → Ctl) (s : State) : (modCtl n f s).itins = s.itins := rfl
@[simp] theorem modCtl_regions (n : Nat) (f : Ctl → Ctl) (s : State) : (modCtl n f s).regions = s.regions := rfl
@[simp] theorem modCtl_clusters (n : Nat) (f : Ctl → Ctl) (s : State) : (modCtl n f s).clusters = s.clusters := rfl
@[simp] theorem modCtl_homes (n : Nat) (f : Ctl → Ctl) (s : State) : (modCtl n f s).homes = s.homes := rfl
@[simp] theorem modCtl_mem (n : Nat) (f : Ctl → Ctl) (s : State) : (modCtl n f s).mem = s.mem := rfl
@[simp] theorem modCtl_chkXor (n : Nat) (f : Ctl → Ctl) (s : State) : (modCtl n f s).chkXor = s.chkXor := rfl
@[simp] theorem modCtl_porters (n : Nat) (f : Ctl → Ctl) (s : State) : (modCtl n f s).porters = s.porters := rfl
@[simp] theorem modCtl_ptrCfg (n : Nat) (f : Ctl → Ctl) (s : State) : (modCtl n f s).ptrCfg = s.ptrCfg := rfl
@[simp] theorem modCtl_ptrCfgEff (n : Nat) (f : Ctl → Ctl) (s : State) : (modCtl n f s).ptrCfgEff = s.ptrCfgEff := rfl
@[simp] theorem modCtl_px (n : Nat) (f : Ctl → Ctl) (s : State) : (modCtl n f s).px = s.px := rfl
@[simp] theorem modCtl_net (n : Nat) (f : Ctl → Ctl) (s : State) : (modCtl n f s).net = s.net := rfl
@[simp] theorem modCtl_pwr (n : Nat) (f : Ctl → Ctl) (s : State) : (modCtl n f s).pwr = s.pwr := rfl
@[simp] theorem modCtl_mdl (n : Nat) (f : Ctl → Ctl) (s : State) : (modCtl n f s).mdl = s.mdl := rfl
@[simp] theorem modCtl_sec (n : Nat) (f : Ctl → Ctl) (s : State) : (modCtl n f s).sec = s.sec := rfl
@[simp] theorem modCtl_sb (n : Nat) (f : Ctl → Ctl) (s : State) : (modCtl n f s).sb = s.sb := rfl
@[simp] theorem modCtl_freeCtr (n : Nat) (f : Ctl → Ctl) (s : State) : (modCtl n f s).freeCtr = s.freeCtr := rfl
@[simp] theorem modCtl_pending (n : Nat) (f : Ctl → Ctl) (s : State) : (modCtl n f s).pending = s.pending := rfl

@[simp] theorem modPorter_variant (n : Nat) (f : Porter → Porter) (s : State) : (modPorter n f s).variant = s.variant := rfl
@[simp] theorem modPorter_stg (n : Nat) (f : Porter → Porter) (s : State) : (modPorter n f s).stg = s.stg := rfl
@[simp] theorem modPorter_ldg (n : Nat) (f : Porter → Porter) (s : State) : (modPorter n f s).ldg = s.ldg := rfl
@[simp] theorem modPorter_errs (n : Nat) (f : Porter → Porter) (s : State) : (modPorter n f s).errs = s.errs := rfl
@[simp] theorem modPorter_errSeq (n : Nat) (f : Porter → Porter) (s : State) : (modPorter n f s).errSeq = s.errSeq := rfl
@[simp] theorem modPorter_innk (n : Nat) (f : Porter → Porter) (s : State) : (modPorter n f s).innk = s.innk := rfl
@[simp] theorem modPorter_itins (n : Nat) (f : Porter → Porter) (s : State) : (modPorter n f s).itins = s.itins := rfl
@[simp] theorem modPorter_regions (n : Nat) (f : Porter → Porter) (s : State) : (modPorter n f s).regions = s.regions := rfl
@[simp] theorem modPorter_clusters (n : Nat) (f : Porter → Porter) (s : State) : (modPorter n f s).clusters = s.clusters := rfl
@[simp] theorem modPorter_homes (n : Nat) (f : Porter → Porter) (s : State) : (modPorter n f s).homes = s.homes := rfl
@[simp] theorem modPorter_ctls (n : Nat) (f : Porter → Porter) (s : State) : (modPorter n f s).ctls = s.ctls := rfl
@[simp] theorem modPorter_mem (n : Nat) (f : Porter → Porter) (s : State) : (modPorter n f s).mem = s.mem := rfl
@[simp] theorem modPorter_chkXor (n : Nat) (f : Porter → Porter) (s : State) : (modPorter n f s).chkXor = s.chkXor := rfl
@[simp] theorem modPorter_ptrCfg (n : Nat) (f : Porter → Porter) (s : State) : (modPorter n f s).ptrCfg = s.ptrCfg := rfl
@[simp] theorem modPorter_ptrCfgEff (n : Nat) (f : Porter → Porter) (s : State) : (modPorter n f s).ptrCfgEff = s.ptrCfgEff := rfl
@[simp] theorem modPorter_px (n : Nat) (f : Porter → Porter) (s : State) : (modPorter n f s).px = s.px := rfl
@[simp] theorem modPorter_net (n : Nat) (f : Porter → Porter) (s : State) : (modPorter n f s).net = s.net := rfl
@[simp] theorem modPorter_pwr (n : Nat) (f : Porter → Porter) (s : State) : (modPorter n f s).pwr = s.pwr := rfl
@[simp] theorem modPorter_mdl (n : Nat) (f : Porter → Porter) (s : State) : (modPorter n f s).mdl = s.mdl := rfl
@[simp] theorem modPorter_sec (n : Nat) (f : Porter → Porter) (s : State) : (modPorter n f s).sec = s.sec := rfl
@[simp] theorem modPorter_sb (n : Nat) (f : Porter → Porter) (s : State) : (modPorter n f s).sb = s.sb := rfl
@[simp] theorem modPorter_freeCtr (n : Nat) (f : Porter → Porter) (s : State) : (modPorter n f s).freeCtr = s.freeCtr := rfl
@[simp] theorem modPorter_pending (n : Nat) (f : Porter → Porter) (s : State) : (modPorter n f s).pending = s.pending := rfl

@[simp] theorem modPx_variant (n : Nat) (f : PxDie → PxDie) (s : State) : (modPx n f s).variant = s.variant := rfl
@[simp] theorem modPx_stg (n : Nat) (f : PxDie → PxDie) (s : State) : (modPx n f s).stg = s.stg := rfl
@[simp] theorem modPx_ldg (n : Nat) (f : PxDie → PxDie) (s : State) : (modPx n f s).ldg = s.ldg := rfl
@[simp] theorem modPx_errs (n : Nat) (f : PxDie → PxDie) (s : State) : (modPx n f s).errs = s.errs := rfl
@[simp] theorem modPx_errSeq (n : Nat) (f : PxDie → PxDie) (s : State) : (modPx n f s).errSeq = s.errSeq := rfl
@[simp] theorem modPx_innk (n : Nat) (f : PxDie → PxDie) (s : State) : (modPx n f s).innk = s.innk := rfl
@[simp] theorem modPx_itins (n : Nat) (f : PxDie → PxDie) (s : State) : (modPx n f s).itins = s.itins := rfl
@[simp] theorem modPx_regions (n : Nat) (f : PxDie → PxDie) (s : State) : (modPx n f s).regions = s.regions := rfl
@[simp] theorem modPx_clusters (n : Nat) (f : PxDie → PxDie) (s : State) : (modPx n f s).clusters = s.clusters := rfl
@[simp] theorem modPx_homes (n : Nat) (f : PxDie → PxDie) (s : State) : (modPx n f s).homes = s.homes := rfl
@[simp] theorem modPx_ctls (n : Nat) (f : PxDie → PxDie) (s : State) : (modPx n f s).ctls = s.ctls := rfl
@[simp] theorem modPx_mem (n : Nat) (f : PxDie → PxDie) (s : State) : (modPx n f s).mem = s.mem := rfl
@[simp] theorem modPx_chkXor (n : Nat) (f : PxDie → PxDie) (s : State) : (modPx n f s).chkXor = s.chkXor := rfl
@[simp] theorem modPx_porters (n : Nat) (f : PxDie → PxDie) (s : State) : (modPx n f s).porters = s.porters := rfl
@[simp] theorem modPx_ptrCfg (n : Nat) (f : PxDie → PxDie) (s : State) : (modPx n f s).ptrCfg = s.ptrCfg := rfl
@[simp] theorem modPx_ptrCfgEff (n : Nat) (f : PxDie → PxDie) (s : State) : (modPx n f s).ptrCfgEff = s.ptrCfgEff := rfl
@[simp] theorem modPx_net (n : Nat) (f : PxDie → PxDie) (s : State) : (modPx n f s).net = s.net := rfl
@[simp] theorem modPx_pwr (n : Nat) (f : PxDie → PxDie) (s : State) : (modPx n f s).pwr = s.pwr := rfl
@[simp] theorem modPx_mdl (n : Nat) (f : PxDie → PxDie) (s : State) : (modPx n f s).mdl = s.mdl := rfl
@[simp] theorem modPx_sec (n : Nat) (f : PxDie → PxDie) (s : State) : (modPx n f s).sec = s.sec := rfl
@[simp] theorem modPx_sb (n : Nat) (f : PxDie → PxDie) (s : State) : (modPx n f s).sb = s.sb := rfl
@[simp] theorem modPx_freeCtr (n : Nat) (f : PxDie → PxDie) (s : State) : (modPx n f s).freeCtr = s.freeCtr := rfl
@[simp] theorem modPx_pending (n : Nat) (f : PxDie → PxDie) (s : State) : (modPx n f s).pending = s.pending := rfl

@[simp] theorem setItin_variant (n : Nat) (v : Option Itin) (s : State) : (setItin n v s).variant = s.variant := rfl
@[simp] theorem setItin_stg (n : Nat) (v : Option Itin) (s : State) : (setItin n v s).stg = s.stg := rfl
@[simp] theorem setItin_ldg (n : Nat) (v : Option Itin) (s : State) : (setItin n v s).ldg = s.ldg := rfl
@[simp] theorem setItin_errs (n : Nat) (v : Option Itin) (s : State) : (setItin n v s).errs = s.errs := rfl
@[simp] theorem setItin_errSeq (n : Nat) (v : Option Itin) (s : State) : (setItin n v s).errSeq = s.errSeq := rfl
@[simp] theorem setItin_innk (n : Nat) (v : Option Itin) (s : State) : (setItin n v s).innk = s.innk := rfl
@[simp] theorem setItin_itins (n : Nat) (v : Option Itin) (s : State) : (setItin n v s).itins = tabSet none s.itins n v := rfl
@[simp] theorem setItin_regions (n : Nat) (v : Option Itin) (s : State) : (setItin n v s).regions = s.regions := rfl
@[simp] theorem setItin_clusters (n : Nat) (v : Option Itin) (s : State) : (setItin n v s).clusters = s.clusters := rfl
@[simp] theorem setItin_homes (n : Nat) (v : Option Itin) (s : State) : (setItin n v s).homes = s.homes := rfl
@[simp] theorem setItin_ctls (n : Nat) (v : Option Itin) (s : State) : (setItin n v s).ctls = s.ctls := rfl
@[simp] theorem setItin_mem (n : Nat) (v : Option Itin) (s : State) : (setItin n v s).mem = s.mem := rfl
@[simp] theorem setItin_chkXor (n : Nat) (v : Option Itin) (s : State) : (setItin n v s).chkXor = s.chkXor := rfl
@[simp] theorem setItin_porters (n : Nat) (v : Option Itin) (s : State) : (setItin n v s).porters = s.porters := rfl
@[simp] theorem setItin_ptrCfg (n : Nat) (v : Option Itin) (s : State) : (setItin n v s).ptrCfg = s.ptrCfg := rfl
@[simp] theorem setItin_ptrCfgEff (n : Nat) (v : Option Itin) (s : State) : (setItin n v s).ptrCfgEff = s.ptrCfgEff := rfl
@[simp] theorem setItin_px (n : Nat) (v : Option Itin) (s : State) : (setItin n v s).px = s.px := rfl
@[simp] theorem setItin_net (n : Nat) (v : Option Itin) (s : State) : (setItin n v s).net = s.net := rfl
@[simp] theorem setItin_pwr (n : Nat) (v : Option Itin) (s : State) : (setItin n v s).pwr = s.pwr := rfl
@[simp] theorem setItin_mdl (n : Nat) (v : Option Itin) (s : State) : (setItin n v s).mdl = s.mdl := rfl
@[simp] theorem setItin_sec (n : Nat) (v : Option Itin) (s : State) : (setItin n v s).sec = s.sec := rfl
@[simp] theorem setItin_sb (n : Nat) (v : Option Itin) (s : State) : (setItin n v s).sb = s.sb := rfl
@[simp] theorem setItin_freeCtr (n : Nat) (v : Option Itin) (s : State) : (setItin n v s).freeCtr = s.freeCtr := rfl
@[simp] theorem setItin_pending (n : Nat) (v : Option Itin) (s : State) : (setItin n v s).pending = s.pending := rfl

@[simp] theorem modRegion_variant (b : Nat) (f : Region → Region) (s : State) : (modRegion b f s).variant = s.variant := rfl
@[simp] theorem modRegion_stg (b : Nat) (f : Region → Region) (s : State) : (modRegion b f s).stg = s.stg := rfl
@[simp] theorem modRegion_ldg (b : Nat) (f : Region → Region) (s : State) : (modRegion b f s).ldg = s.ldg := rfl
@[simp] theorem modRegion_errs (b : Nat) (f : Region → Region) (s : State) : (modRegion b f s).errs = s.errs := rfl
@[simp] theorem modRegion_errSeq (b : Nat) (f : Region → Region) (s : State) : (modRegion b f s).errSeq = s.errSeq := rfl
@[simp] theorem modRegion_innk (b : Nat) (f : Region → Region) (s : State) : (modRegion b f s).innk = s.innk := rfl
@[simp] theorem modRegion_itins (b : Nat) (f : Region → Region) (s : State) : (modRegion b f s).itins = s.itins := rfl
@[simp] theorem modRegion_clusters (b : Nat) (f : Region → Region) (s : State) : (modRegion b f s).clusters = s.clusters := rfl
@[simp] theorem modRegion_homes (b : Nat) (f : Region → Region) (s : State) : (modRegion b f s).homes = s.homes := rfl
@[simp] theorem modRegion_ctls (b : Nat) (f : Region → Region) (s : State) : (modRegion b f s).ctls = s.ctls := rfl
@[simp] theorem modRegion_mem (b : Nat) (f : Region → Region) (s : State) : (modRegion b f s).mem = s.mem := rfl
@[simp] theorem modRegion_chkXor (b : Nat) (f : Region → Region) (s : State) : (modRegion b f s).chkXor = s.chkXor := rfl
@[simp] theorem modRegion_porters (b : Nat) (f : Region → Region) (s : State) : (modRegion b f s).porters = s.porters := rfl
@[simp] theorem modRegion_ptrCfg (b : Nat) (f : Region → Region) (s : State) : (modRegion b f s).ptrCfg = s.ptrCfg := rfl
@[simp] theorem modRegion_ptrCfgEff (b : Nat) (f : Region → Region) (s : State) : (modRegion b f s).ptrCfgEff = s.ptrCfgEff := rfl
@[simp] theorem modRegion_px (b : Nat) (f : Region → Region) (s : State) : (modRegion b f s).px = s.px := rfl
@[simp] theorem modRegion_net (b : Nat) (f : Region → Region) (s : State) : (modRegion b f s).net = s.net := rfl
@[simp] theorem modRegion_pwr (b : Nat) (f : Region → Region) (s : State) : (modRegion b f s).pwr = s.pwr := rfl
@[simp] theorem modRegion_mdl (b : Nat) (f : Region → Region) (s : State) : (modRegion b f s).mdl = s.mdl := rfl
@[simp] theorem modRegion_sec (b : Nat) (f : Region → Region) (s : State) : (modRegion b f s).sec = s.sec := rfl
@[simp] theorem modRegion_sb (b : Nat) (f : Region → Region) (s : State) : (modRegion b f s).sb = s.sb := rfl
@[simp] theorem modRegion_freeCtr (b : Nat) (f : Region → Region) (s : State) : (modRegion b f s).freeCtr = s.freeCtr := rfl
@[simp] theorem modRegion_pending (b : Nat) (f : Region → Region) (s : State) : (modRegion b f s).pending = s.pending := rfl

@[simp] theorem setMemByte_variant (a : Nat) (b : Byte) (s : State) : (setMemByte a b s).variant = s.variant := rfl
@[simp] theorem setMemByte_stg (a : Nat) (b : Byte) (s : State) : (setMemByte a b s).stg = s.stg := rfl
@[simp] theorem setMemByte_ldg (a : Nat) (b : Byte) (s : State) : (setMemByte a b s).ldg = s.ldg := rfl
@[simp] theorem setMemByte_errs (a : Nat) (b : Byte) (s : State) : (setMemByte a b s).errs = s.errs := rfl
@[simp] theorem setMemByte_errSeq (a : Nat) (b : Byte) (s : State) : (setMemByte a b s).errSeq = s.errSeq := rfl
@[simp] theorem setMemByte_innk (a : Nat) (b : Byte) (s : State) : (setMemByte a b s).innk = s.innk := rfl
@[simp] theorem setMemByte_itins (a : Nat) (b : Byte) (s : State) : (setMemByte a b s).itins = s.itins := rfl
@[simp] theorem setMemByte_regions (a : Nat) (b : Byte) (s : State) : (setMemByte a b s).regions = s.regions := rfl
@[simp] theorem setMemByte_clusters (a : Nat) (b : Byte) (s : State) : (setMemByte a b s).clusters = s.clusters := rfl
@[simp] theorem setMemByte_homes (a : Nat) (b : Byte) (s : State) : (setMemByte a b s).homes = s.homes := rfl
@[simp] theorem setMemByte_ctls (a : Nat) (b : Byte) (s : State) : (setMemByte a b s).ctls = s.ctls := rfl
@[simp] theorem setMemByte_mem (a : Nat) (b : Byte) (s : State) : (setMemByte a b s).mem = tabSet 0#8 s.mem a b := rfl
@[simp] theorem setMemByte_chkXor (a : Nat) (b : Byte) (s : State) : (setMemByte a b s).chkXor = s.chkXor := rfl
@[simp] theorem setMemByte_porters (a : Nat) (b : Byte) (s : State) : (setMemByte a b s).porters = s.porters := rfl
@[simp] theorem setMemByte_ptrCfg (a : Nat) (b : Byte) (s : State) : (setMemByte a b s).ptrCfg = s.ptrCfg := rfl
@[simp] theorem setMemByte_ptrCfgEff (a : Nat) (b : Byte) (s : State) : (setMemByte a b s).ptrCfgEff = s.ptrCfgEff := rfl
@[simp] theorem setMemByte_px (a : Nat) (b : Byte) (s : State) : (setMemByte a b s).px = s.px := rfl
@[simp] theorem setMemByte_net (a : Nat) (b : Byte) (s : State) : (setMemByte a b s).net = s.net := rfl
@[simp] theorem setMemByte_pwr (a : Nat) (b : Byte) (s : State) : (setMemByte a b s).pwr = s.pwr := rfl
@[simp] theorem setMemByte_mdl (a : Nat) (b : Byte) (s : State) : (setMemByte a b s).mdl = s.mdl := rfl
@[simp] theorem setMemByte_sec (a : Nat) (b : Byte) (s : State) : (setMemByte a b s).sec = s.sec := rfl
@[simp] theorem setMemByte_sb (a : Nat) (b : Byte) (s : State) : (setMemByte a b s).sb = s.sb := rfl
@[simp] theorem setMemByte_freeCtr (a : Nat) (b : Byte) (s : State) : (setMemByte a b s).freeCtr = s.freeCtr := rfl
@[simp] theorem setMemByte_pending (a : Nat) (b : Byte) (s : State) : (setMemByte a b s).pending = s.pending := rfl

@[simp] theorem setChk_variant (a : Nat) (x : BitVec 32) (s : State) : (setChk a x s).variant = s.variant := rfl
@[simp] theorem setChk_stg (a : Nat) (x : BitVec 32) (s : State) : (setChk a x s).stg = s.stg := rfl
@[simp] theorem setChk_ldg (a : Nat) (x : BitVec 32) (s : State) : (setChk a x s).ldg = s.ldg := rfl
@[simp] theorem setChk_errs (a : Nat) (x : BitVec 32) (s : State) : (setChk a x s).errs = s.errs := rfl
@[simp] theorem setChk_errSeq (a : Nat) (x : BitVec 32) (s : State) : (setChk a x s).errSeq = s.errSeq := rfl
@[simp] theorem setChk_innk (a : Nat) (x : BitVec 32) (s : State) : (setChk a x s).innk = s.innk := rfl
@[simp] theorem setChk_itins (a : Nat) (x : BitVec 32) (s : State) : (setChk a x s).itins = s.itins := rfl
@[simp] theorem setChk_regions (a : Nat) (x : BitVec 32) (s : State) : (setChk a x s).regions = s.regions := rfl
@[simp] theorem setChk_clusters (a : Nat) (x : BitVec 32) (s : State) : (setChk a x s).clusters = s.clusters := rfl
@[simp] theorem setChk_homes (a : Nat) (x : BitVec 32) (s : State) : (setChk a x s).homes = s.homes := rfl
@[simp] theorem setChk_ctls (a : Nat) (x : BitVec 32) (s : State) : (setChk a x s).ctls = s.ctls := rfl
@[simp] theorem setChk_mem (a : Nat) (x : BitVec 32) (s : State) : (setChk a x s).mem = s.mem := rfl
@[simp] theorem setChk_chkXor (a : Nat) (x : BitVec 32) (s : State) : (setChk a x s).chkXor = tabSet 0#32 s.chkXor (a / 32) x := rfl
@[simp] theorem setChk_porters (a : Nat) (x : BitVec 32) (s : State) : (setChk a x s).porters = s.porters := rfl
@[simp] theorem setChk_ptrCfg (a : Nat) (x : BitVec 32) (s : State) : (setChk a x s).ptrCfg = s.ptrCfg := rfl
@[simp] theorem setChk_ptrCfgEff (a : Nat) (x : BitVec 32) (s : State) : (setChk a x s).ptrCfgEff = s.ptrCfgEff := rfl
@[simp] theorem setChk_px (a : Nat) (x : BitVec 32) (s : State) : (setChk a x s).px = s.px := rfl
@[simp] theorem setChk_net (a : Nat) (x : BitVec 32) (s : State) : (setChk a x s).net = s.net := rfl
@[simp] theorem setChk_pwr (a : Nat) (x : BitVec 32) (s : State) : (setChk a x s).pwr = s.pwr := rfl
@[simp] theorem setChk_mdl (a : Nat) (x : BitVec 32) (s : State) : (setChk a x s).mdl = s.mdl := rfl
@[simp] theorem setChk_sec (a : Nat) (x : BitVec 32) (s : State) : (setChk a x s).sec = s.sec := rfl
@[simp] theorem setChk_sb (a : Nat) (x : BitVec 32) (s : State) : (setChk a x s).sb = s.sb := rfl
@[simp] theorem setChk_freeCtr (a : Nat) (x : BitVec 32) (s : State) : (setChk a x s).freeCtr = s.freeCtr := rfl
@[simp] theorem setChk_pending (a : Nat) (x : BitVec 32) (s : State) : (setChk a x s).pending = s.pending := rfl

@[simp] theorem draw_variant (w : Nat) (s : State) : (draw w s).2.variant = s.variant := rfl
@[simp] theorem draw_stg (w : Nat) (s : State) : (draw w s).2.stg = s.stg := rfl
@[simp] theorem draw_ldg (w : Nat) (s : State) : (draw w s).2.ldg = s.ldg := rfl
@[simp] theorem draw_errs (w : Nat) (s : State) : (draw w s).2.errs = s.errs := rfl
@[simp] theorem draw_errSeq (w : Nat) (s : State) : (draw w s).2.errSeq = s.errSeq := rfl
@[simp] theorem draw_innk (w : Nat) (s : State) : (draw w s).2.innk = s.innk := rfl
@[simp] theorem draw_itins (w : Nat) (s : State) : (draw w s).2.itins = s.itins := rfl
@[simp] theorem draw_regions (w : Nat) (s : State) : (draw w s).2.regions = s.regions := rfl
@[simp] theorem draw_clusters (w : Nat) (s : State) : (draw w s).2.clusters = s.clusters := rfl
@[simp] theorem draw_homes (w : Nat) (s : State) : (draw w s).2.homes = s.homes := rfl
@[simp] theorem draw_ctls (w : Nat) (s : State) : (draw w s).2.ctls = s.ctls := rfl
@[simp] theorem draw_mem (w : Nat) (s : State) : (draw w s).2.mem = s.mem := rfl
@[simp] theorem draw_chkXor (w : Nat) (s : State) : (draw w s).2.chkXor = s.chkXor := rfl
@[simp] theorem draw_porters (w : Nat) (s : State) : (draw w s).2.porters = s.porters := rfl
@[simp] theorem draw_ptrCfg (w : Nat) (s : State) : (draw w s).2.ptrCfg = s.ptrCfg := rfl
@[simp] theorem draw_ptrCfgEff (w : Nat) (s : State) : (draw w s).2.ptrCfgEff = s.ptrCfgEff := rfl
@[simp] theorem draw_px (w : Nat) (s : State) : (draw w s).2.px = s.px := rfl
@[simp] theorem draw_net (w : Nat) (s : State) : (draw w s).2.net = s.net := rfl
@[simp] theorem draw_pwr (w : Nat) (s : State) : (draw w s).2.pwr = s.pwr := rfl
@[simp] theorem draw_mdl (w : Nat) (s : State) : (draw w s).2.mdl = s.mdl := rfl
@[simp] theorem draw_sec (w : Nat) (s : State) : (draw w s).2.sec = s.sec := rfl
@[simp] theorem draw_sb (w : Nat) (s : State) : (draw w s).2.sb = s.sb := rfl
@[simp] theorem draw_freeCtr (w : Nat) (s : State) : (draw w s).2.freeCtr = s.freeCtr + 1 := rfl
@[simp] theorem draw_pending (w : Nat) (s : State) : (draw w s).2.pending = s.pending := rfl

@[simp] theorem setCmd_variant (id : Nat) (v : Option Cmd) (s : State) : (setCmd id v s).variant = s.variant := rfl
@[simp] theorem setCmd_stg (id : Nat) (v : Option Cmd) (s : State) : (setCmd id v s).stg = s.stg := rfl
@[simp] theorem setCmd_ldg (id : Nat) (v : Option Cmd) (s : State) : (setCmd id v s).ldg = s.ldg := rfl
@[simp] theorem setCmd_errs (id : Nat) (v : Option Cmd) (s : State) : (setCmd id v s).errs = s.errs := rfl
@[simp] theorem setCmd_errSeq (id : Nat) (v : Option Cmd) (s : State) : (setCmd id v s).errSeq = s.errSeq := rfl
@[simp] theorem setCmd_itins (id : Nat) (v : Option Cmd) (s : State) : (setCmd id v s).itins = s.itins := rfl
@[simp] theorem setCmd_regions (id : Nat) (v : Option Cmd) (s : State) : (setCmd id v s).regions = s.regions := rfl
@[simp] theorem setCmd_clusters (id : Nat) (v : Option Cmd) (s : State) : (setCmd id v s).clusters = s.clusters := rfl
@[simp] theorem setCmd_homes (id : Nat) (v : Option Cmd) (s : State) : (setCmd id v s).homes = s.homes := rfl
@[simp] theorem setCmd_ctls (id : Nat) (v : Option Cmd) (s : State) : (setCmd id v s).ctls = s.ctls := rfl
@[simp] theorem setCmd_mem (id : Nat) (v : Option Cmd) (s : State) : (setCmd id v s).mem = s.mem := rfl
@[simp] theorem setCmd_chkXor (id : Nat) (v : Option Cmd) (s : State) : (setCmd id v s).chkXor = s.chkXor := rfl
@[simp] theorem setCmd_porters (id : Nat) (v : Option Cmd) (s : State) : (setCmd id v s).porters = s.porters := rfl
@[simp] theorem setCmd_ptrCfg (id : Nat) (v : Option Cmd) (s : State) : (setCmd id v s).ptrCfg = s.ptrCfg := rfl
@[simp] theorem setCmd_ptrCfgEff (id : Nat) (v : Option Cmd) (s : State) : (setCmd id v s).ptrCfgEff = s.ptrCfgEff := rfl
@[simp] theorem setCmd_px (id : Nat) (v : Option Cmd) (s : State) : (setCmd id v s).px = s.px := rfl
@[simp] theorem setCmd_net (id : Nat) (v : Option Cmd) (s : State) : (setCmd id v s).net = s.net := rfl
@[simp] theorem setCmd_pwr (id : Nat) (v : Option Cmd) (s : State) : (setCmd id v s).pwr = s.pwr := rfl
@[simp] theorem setCmd_mdl (id : Nat) (v : Option Cmd) (s : State) : (setCmd id v s).mdl = s.mdl := rfl
@[simp] theorem setCmd_sec (id : Nat) (v : Option Cmd) (s : State) : (setCmd id v s).sec = s.sec := rfl
@[simp] theorem setCmd_sb (id : Nat) (v : Option Cmd) (s : State) : (setCmd id v s).sb = s.sb := rfl
@[simp] theorem setCmd_freeCtr (id : Nat) (v : Option Cmd) (s : State) : (setCmd id v s).freeCtr = s.freeCtr := rfl
@[simp] theorem setCmd_pending (id : Nat) (v : Option Cmd) (s : State) : (setCmd id v s).pending = s.pending := rfl

/-- What is stored reads back, and every other byte reads as before. -/
theorem memByte_setMemByte (a b : Nat) (v : Byte) (s : State) : memByte (setMemByte a v s) b = if b = a then v else memByte s b :=
  tabGet_tabSet 0#8 s.mem a v b

/-- The same for the check bytes of a sector. -/
theorem chkAt_setChk (a b : Nat) (x : BitVec 32) (s : State) : chkAt (setChk a x s) b = if b / 32 = a / 32 then x else chkAt s b :=
  tabGet_tabSet 0#32 s.chkXor (a / 32) x (b / 32)

/-- A command written reads back, and every other is as before. -/
theorem getCmd_setCmd (id k : Nat) (v : Option Cmd) (s : State) : getCmd (setCmd id v s) k = if k = id then v else getCmd s k :=
  tabGet_tabSet none s.innk.cmds id v k

/-- An itinerary written reads back, and every other is as before. -/
theorem getItin_setItin (n m : Nat) (v : Option Itin) (s : State) : getItin (setItin n v s) m = if m = n then v else getItin s m :=
  tabGet_tabSet none s.itins n v m

end Sys2Proof.Machine
end

