-- ==== Sys2Proof/Laws/Commands.lean ====
section
/-! SUPPORT. How a command of the command table ends, waits or takes effect at a Bell: one lemma for each operation that says
everything it does. -/

namespace Sys2Proof.Machine

/-- A command at work stands in the table with that opcode, and the Innkeeper is up. -/
theorem atWork_some {s : State} {id op : Nat} {c : Cmd} (h : atWork s id op = some c) :
    getCmd s id = some c ∧ innkUp s = true ∧ c.phase = .working ∧ c.opcode.toNat = op := by
  unfold atWork at h
  split at h
  · rename_i d hd
    split at h
    · rename_i g
      simp only [Bool.and_eq_true, beq_iff_eq] at g
      injection h with h; subst h
      exact ⟨hd, g.1.1, g.1.2, g.2⟩
    · cases h
  · cases h

theorem withCmd_of {s : State} {id op : Nat} {c : Cmd} (h : atWork s id op = some c) (f : Cmd → State) : withCmd id op s f = f c := by
  unfold withCmd; rw [h]

theorem getCmd_modInnk (f : Innkeeper → Innkeeper) (hf : ∀ i, (f i).cmds = i.cmds) (k : Nat) (s : State) : getCmd (modInnk f s) k = getCmd s k := by
  unfold getCmd modInnk; dsimp only; rw [hf]

/-- The end of a command's work. -/
theorem finishCmd_done {s : State} {id : Nat} {c : Cmd} (st : BitVec 16) (res : Nat) (h : getCmd s id = some c) (hp : c.phase ≠ .done) :
    CmdDone id st res s (finishCmd id st res s) := by
  have e : finishCmd id st res s = modInnk (fun i => { i with
      doneCtr := i.doneCtr + 1
      urgQ := i.urgQ.filter (· != id), normQ := i.normQ.filter (· != id), bulkQ := i.bulkQ.filter (· != id) })
      (setCmd id (some { c with phase := .done, status := st, result := BitVec.ofNat 64 res, doneAt := s.innk.doneCtr }) s) := by
    unfold finishCmd
    simp only [h]
    exact if_neg (by simpa using hp)
  rw [e]
  refine ⟨⟨c, h, ?_⟩, ?_, ⟨rfl, rfl, rfl⟩, rfl⟩
  · refine (getCmd_modInnk _ ?_ id _).trans ?_
    · exact fun _ => rfl
    · exact (getCmd_setCmd id id _ s).trans (if_pos rfl)
  · intro k hk
    refine (getCmd_modInnk _ ?_ k _).trans ?_
    · exact fun _ => rfl
    · exact (getCmd_setCmd id k _ s).trans (if_neg hk)

/-- A command at work that completes. -/
theorem finishCmd_atWork {s : State} {id op : Nat} {c : Cmd} (st : BitVec 16) (res : Nat) (h : atWork s id op = some c) :
    CmdDone id st res s (finishCmd id st res s) :=
  finishCmd_done st res (atWork_some h).1 (by rw [(atWork_some h).2.2.1]; decide)

/-- A command waits. -/
theorem waitCmd_waits {s : State} {id : Nat} {c : Cmd} (h : getCmd s id = some c) : CmdWaits id s (waitCmd id s) := by
  have e : waitCmd id s = setCmd id (some { c with phase := .waiting }) s := by unfold waitCmd modCmd; rw [h]; rfl
  rw [e]
  refine ⟨⟨c, h, ?_⟩, ?_, rfl⟩
  · exact (getCmd_setCmd id id _ s).trans (if_pos rfl)
  · intro k hk
    exact (getCmd_setCmd id k _ s).trans (if_neg hk)

/-- A command's effect is put off to a Bell. -/
theorem addAct_decided {s : State} {id : Nat} {c : Cmd} (a : BellAct) (h : getCmd s id = some c) : CmdDecided id a s (addAct a id s) := by
  have e : addAct a id s = modInnk (fun i => { i with acts := i.acts ++ [a] }) (setCmd id (some { c with phase := .waiting }) s) := by
    unfold addAct waitCmd modCmd
    rw [h]; rfl
  rw [e]
  refine ⟨⟨c, h, ?_⟩, ?_, rfl, rfl⟩
  · refine (getCmd_modInnk _ ?_ id _).trans ?_
    · exact fun _ => rfl
    · exact (getCmd_setCmd id id _ s).trans (if_pos rfl)
  · intro k hk
    refine (getCmd_modInnk _ ?_ k _).trans ?_
    · exact fun _ => rfl
    · exact (getCmd_setCmd id k _ s).trans (if_neg hk)

end Sys2Proof.Machine
end

