-- ==== Sys2Proof/Laws/Cores.lean ====
section
/-! SUPPORT. Laws of clusters, cores, slots, registers and threads: what an update of one leaves and what it changes. -/

namespace Sys2Proof.Machine

-- clusters and cores

theorem getCluster_modCluster (id : Nat) (f : Cluster → Cluster) (s : State) (n : Nat) :
    getCluster (modCluster id f s) n = if n = id then f (getCluster s id) else getCluster s n := by
  simp only [getCluster, modCluster, tabGet_tabSet]

theorem getCore_modCore (cl co : Nat) (f : Core → Core) (s : State) (m n : Nat) :
    getCore (modCore cl co f s) m n = if m = cl ∧ n = co then f (getCore s cl co) else getCore s m n := by
  unfold getCore modCore
  rw [getCluster_modCluster]
  by_cases hm : m = cl
  · subst hm
    by_cases hn : n = co
    · subst hn; simp [Cluster.modCore, Cluster.core]
    · simp [Cluster.modCore, Cluster.core, hn, tabGet_tabSet]
  · simp [hm]

@[simp] theorem getCore_modCore_self (cl co : Nat) (f : Core → Core) (s : State) :
    getCore (modCore cl co f s) cl co = f (getCore s cl co) := by
  simp [getCore_modCore]

theorem slot_setSlot (n m : Nat) (v : Option Caravan) (c : Core) : (c.setSlot n v).slot m = if m = n then v else c.slot m := by
  simp only [Core.slot, Core.setSlot, tabGet_tabSet]

@[simp] theorem slot_setSlot_self (n : Nat) (v : Option Caravan) (c : Core) : (c.setSlot n v).slot n = v := by
  simp [slot_setSlot]

/-- An update of a slot changes the caravan there and nothing else. -/
@[simp] theorem caravanIn_modCaravan (c : CoreSlot) (g : Caravan → Caravan) (s : State) :
    caravanIn (modCaravan c g s) c = (caravanIn s c).map g := by
  simp [caravanIn, modCaravan]

theorem onlyCaravan_refl (c : CoreSlot) (s : State) : OnlyCaravan c s s :=
  ⟨rfl, fun _ _ => rfl, rfl, fun _ _ => rfl, rfl, fun _ _ => rfl⟩

theorem onlyCaravan_modCaravan (c : CoreSlot) (g : Caravan → Caravan) (s : State) : OnlyCaravan c s (modCaravan c g s) where
  rest := rfl
  clusters := fun id h => by simp [modCaravan, modCore, getCluster_modCluster, h]
  cluster := by simp [modCaravan, modCore, getCluster_modCluster, Cluster.modCore]
  cores := fun n h => by simp [modCaravan, getCore_modCore, h]
  core := by simp [modCaravan, Core.setSlot]
  slots := fun k h => by simp [modCaravan, slot_setSlot, h]

/-- Noting the slot that issued last changes no slot. -/
theorem slot_last (k : Core) (l n : Nat) : ({ k with last := l } : Core).slot n = k.slot n := rfl

theorem onlyCaravan_issuedLast (c : CoreSlot) (s : State) : OnlyCaravan c s (issuedLast c s) where
  rest := rfl
  clusters := fun id h => by simp [issuedLast, modCore, getCluster_modCluster, h]
  cluster := by simp [issuedLast, modCore, getCluster_modCluster, Cluster.modCore]
  cores := fun n h => by simp [issuedLast, getCore_modCore, h]
  core := by simp [issuedLast]
  slots := fun k _ => by simp [issuedLast, slot_last]

@[simp] theorem caravanIn_issuedLast (c d : CoreSlot) (s : State) : caravanIn (issuedLast c s) d = caravanIn s d := by
  unfold caravanIn issuedLast
  rw [getCore_modCore]
  split
  · rename_i h; rw [slot_last]; rw [h.1, h.2]
  · rfl

theorem OnlyCaravan.trans {c : CoreSlot} {s t u : State} (a : OnlyCaravan c s t) (b : OnlyCaravan c t u) : OnlyCaravan c s u where
  rest := by
    have h1 := a.rest
    have h2 := b.rest
    rw [← h2] at h1
    simpa using h1
  clusters := fun id h => (b.clusters id h).trans (a.clusters id h)
  cluster := by
    have h1 := a.cluster
    have h2 := b.cluster
    rw [← h2] at h1
    simpa using h1
  cores := fun n h => (b.cores n h).trans (a.cores n h)
  core := by
    have h1 := a.core
    have h2 := b.core
    rw [← h2] at h1
    simpa using h1
  slots := fun k h => (b.slots k h).trans (a.slots k h)

theorem onlyCaravan_freeCtr (c : CoreSlot) (s : State) (n : Nat) : OnlyCaravan c s { s with freeCtr := n } :=
  ⟨rfl, fun _ _ => rfl, rfl, fun _ _ => rfl, rfl, fun _ _ => rfl⟩

@[simp] theorem caravanIn_freeCtr (c : CoreSlot) (s : State) (n : Nat) : caravanIn { s with freeCtr := n } c = caravanIn s c := rfl

-- registers

theorem tabGet_foldl_threads (n : Nat) (v : Nat → Option (BitVec 32)) (l : List Nat) (hl : l.Nodup) (h32 : ∀ x ∈ l, x < 32)
    (r : Tab (BitVec 32)) (m t : Nat) (ht : t < 32) :
    tabGet 0#32 (l.foldl (fun r t => match v t with | some x => tabSet 0#32 r (n * 32 + t) x | none => r) r) (m * 32 + t) =
      if m = n ∧ t ∈ l then (v t).getD (tabGet 0#32 r (m * 32 + t)) else tabGet 0#32 r (m * 32 + t) := by
  induction l generalizing r with
  | nil => simp
  | cons x l ih =>
    rw [List.foldl_cons, ih (List.nodup_cons.1 hl).2 (fun y hy => h32 y (List.mem_cons_of_mem _ hy))]
    have hx : x < 32 := h32 x (List.mem_cons_self ..)
    have hxl : x ∉ l := (List.nodup_cons.1 hl).1
    by_cases hm : m = n
    · subst hm
      by_cases htx : t = x
      · subst htx
        simp only [hxl, and_false, if_false, List.mem_cons_self, and_true, if_true]
        cases hv : v t <;> simp
      · have hne : m * 32 + t ≠ m * 32 + x := by omega
        cases hv : v x <;> simp [htx, tabGet_tabSet]
    · have hne : m * 32 + t ≠ n * 32 + x := by omega
      cases hv : v x <;> simp [hm, tabGet_tabSet, hne]

/-- A write of one register: the threads given a value hold it, everything else is as before. -/
theorem reg_writeReg (n : Nat) (v : Nat → Option (BitVec 32)) (c : Caravan) (t m : Nat) (ht : t < 32) :
    (c.writeReg n v).reg t m = if m = n then (v t).getD (c.reg t m) else c.reg t m := by
  unfold Caravan.reg Caravan.writeReg
  simp only
  refine (tabGet_foldl_threads n v threads32 List.nodup_range (fun x hx => List.mem_range.1 hx) c.regs m t ht).trans ?_
  have : t ∈ threads32 := List.mem_range.2 ht
  simp [this]

@[simp] theorem threads_writeReg (n : Nat) (v : Nat → Option (BitVec 32)) (c : Caravan) : (c.writeReg n v).threads = c.threads := rfl

-- threads

theorem thread_mapIdx (f : Nat → Thread → Thread) (c : Caravan) (t : Nat) (ht : t < c.threads.length) :
    ({ c with threads := c.threads.mapIdx f } : Caravan).thread t = f t (c.thread t) := by
  simp [Caravan.thread, List.getD_eq_getElem?_getD, ht]

theorem thread_mapIdx_ge (f : Nat → Thread → Thread) (c : Caravan) (t : Nat) (ht : c.threads.length ≤ t) :
    ({ c with threads := c.threads.mapIdx f } : Caravan).thread t = c.thread t := by
  simp [Caravan.thread, List.getD_eq_getElem?_getD, ht]

theorem thread_modThreads (m : BitVec 32) (f : Thread → Thread) (c : Caravan) (t : Nat) (ht : t < c.threads.length) :
    (c.modThreads m f).thread t = if m.getLsbD t then f (c.thread t) else c.thread t := by
  unfold Caravan.modThreads
  rw [thread_mapIdx _ _ _ ht]

@[simp] theorem reg_modThreads (m : BitVec 32) (f : Thread → Thread) (c : Caravan) (t n : Nat) :
    (c.modThreads m f).reg t n = c.reg t n := rfl

@[simp] theorem length_modThreads (m : BitVec 32) (f : Thread → Thread) (c : Caravan) :
    (c.modThreads m f).threads.length = c.threads.length := by
  simp [Caravan.modThreads]

theorem thread_setPred (m : BitVec 32) (p : Nat) (v : Nat → Bool) (c : Caravan) (t : Nat) (ht : t < c.threads.length) :
    (c.setPred m p v).thread t =
      if m.getLsbD t then { c.thread t with preds := if v t then setBit (c.thread t).preds p else clearBit (c.thread t).preds p }
      else c.thread t := by
  unfold Caravan.setPred
  rw [thread_mapIdx _ _ _ ht]

@[simp] theorem reg_setPred (m : BitVec 32) (p : Nat) (v : Nat → Bool) (c : Caravan) (t n : Nat) :
    (c.setPred m p v).reg t n = c.reg t n := rfl

@[simp] theorem length_setPred (m : BitVec 32) (p : Nat) (v : Nat → Bool) (c : Caravan) :
    (c.setPred m p v).threads.length = c.threads.length := by
  simp [Caravan.setPred]

-- a mask of threads

theorem getLsbD_threadMask (p : Nat → Bool) (t : Nat) : (threadMask p).getLsbD t = (decide (t < 32) && p t) := by
  have key : ∀ (l : List Nat) (m : BitVec 32), (∀ x ∈ l, x < 32) →
      (l.foldl (fun m t => if p t then setBit m t else m) m).getLsbD t = (m.getLsbD t || (decide (t ∈ l) && p t)) := by
    intro l
    induction l with
    | nil => simp
    | cons x l ih =>
      intro m h
      rw [List.foldl_cons, ih _ (fun y hy => h y (List.mem_cons_of_mem _ hy))]
      have hx := h x (List.mem_cons_self ..)
      by_cases htx : t = x
      · subst htx
        cases hp : p t
        · simp
        · simp [setBit, maskBit, hx]
      · have : (setBit m x).getLsbD t = m.getLsbD t := by
          simp only [setBit, maskBit, BitVec.getLsbD_or, BitVec.getLsbD_shiftLeft, BitVec.getLsbD_one]
          have : ¬ (t - x = 0 ∧ ¬ t < x) := by omega
          by_cases h1 : t < x
          · simp [h1]
          · have h2 : t - x ≠ 0 := by omega
            simp [h2]
        cases hp : p x <;> simp [htx, this]
  unfold threadMask
  refine (key threads32 _ (fun x hx => List.mem_range.1 hx)).trans ?_
  simp [threads32]

end Sys2Proof.Machine
end

