-- ==== Sys2Proof/Laws/Issue.lean ====
section
/-! SUPPORT. What the issue of an instruction gives (R67, R68, R71, R92), and what the shared starts and ends of a meaning do. -/

namespace Sys2Proof.Machine

theorem drawIf_state (c : Bool) (s : State) :
    (if c = true then draw 1 s else (0#1, s)).2 = s ∨ (if c = true then draw 1 s else (0#1, s)).2 = { s with freeCtr := s.freeCtr + 1 } := by
  cases c
  · exact .inl rfl
  · exact .inr rfl

theorem eitherOf {α : Type} (c : Bool) (a b : α) : (if c = true then a else b) = b ∨ (if c = true then a else b) = a := by
  cases c
  · exact .inl rfl
  · exact .inr rfl

/-- An instruction that issues: where it runs, the caravan there, the threads at the lowest address and those of them whose
predicate lets them execute; nothing changes but, for one that may close a pair, the count of free values. -/
theorem issueAt_go {c : CoreSlot} {f : Insn} {u : Nat} {s t : State} {i : Issue} (h : issueAt c f u s = .go i t) :
    i.at_ = c ∧ i.f = f ∧ caravanIn s c = some i.car ∧ i.car.issuePc = some i.pc ∧ i.act = i.car.group i.pc ∧
    i.exe = (if f.pred = 15#4 then i.act else i.act &&& threadMask (fun t => i.src.predOf t f.pred.toNat != f.pn)) ∧
    (i.src = i.car ∨ i.src = i.car.beforePair) ∧ (t = s ∨ t = { s with freeCtr := s.freeCtr + 1 }) ∧
    coreIssues s c.cluster c.core = true ∧
    ∃ it, getItin s i.car.itin = some it ∧ it.image.base + it.image.codeOff ≤ it.image.base + i.pc.toNat ∧
      it.image.base + i.pc.toNat + 8 ≤ it.image.base + it.image.codeOff + it.image.codeLen := by
  unfold issueAt at h
  split at h
  · cases h
  · rename_i hc
    unfold issueGroup at h
    split at h
    · cases h
    · rename_i car hcar
      split at h
      · rename_i pc it hpc hit
        simp only at h
        split at h
        · cases h
        · rename_i hp
          simp only [not_or, not_lt] at hp
          split at h
          · cases h
          cases h
          exact ⟨rfl, rfl, hcar, hpc, rfl, rfl, eitherOf _ _ _, drawIf_state _ _, by simpa using hc, it, hit, hp.1, hp.2⟩
      · cases h

/-- A member of the issuing group is a thread of the caravan: neither exited nor parked, at the group's address. -/
theorem group_mem {k : Caravan} {pc : BitVec 40} {t : Nat} (h : (k.group pc).getLsbD t = true) :
    t < 32 ∧ t < k.threads.length ∧ (k.thread t).live = true ∧ (k.thread t).pc = pc := by
  rw [Caravan.group, getLsbD_threadMask] at h
  simp only [Bool.and_eq_true, decide_eq_true_eq, beq_iff_eq] at h
  refine ⟨h.1, ?_, h.2.1, h.2.2⟩
  by_contra hn
  have : k.thread t = { pc := 0#40, exited := true } := by
    simp [Caravan.thread, List.getD_eq_getElem?_getD, List.getElem?_eq_none (Nat.le_of_not_lt hn)]
  rw [this] at h
  exact absurd h.2.1 (by decide)

theorem act_mem {c : CoreSlot} {f : Insn} {u : Nat} {s t : State} {i : Issue} (h : issueAt c f u s = .go i t) {n : Nat}
    (hn : i.act.getLsbD n = true) : n < 32 ∧ n < i.car.threads.length ∧ (i.car.thread n).live = true ∧ (i.car.thread n).pc = i.pc :=
  group_mem (by rw [← (issueAt_go h).2.2.2.2.1]; exact hn)

theorem exe_act {c : CoreSlot} {f : Insn} {u : Nat} {s t : State} {i : Issue} (h : issueAt c f u s = .go i t) {n : Nat}
    (hn : i.exe.getLsbD n = true) : i.act.getLsbD n = true := by
  rw [(issueAt_go h).2.2.2.2.2.1] at hn
  split at hn
  · exact hn
  · rw [BitVec.getLsbD_and, Bool.and_eq_true] at hn; exact hn.1

theorem caravanIn_go {c : CoreSlot} {f : Insn} {u : Nat} {s t : State} {i : Issue} (h : issueAt c f u s = .go i t) :
    caravanIn t c = some i.car := by
  obtain ⟨-, -, hc, -, -, -, -, rfl | rfl, -⟩ := issueAt_go h
  · exact hc
  · exact hc

theorem onlyCaravan_go {c : CoreSlot} {f : Insn} {u : Nat} {s t : State} {i : Issue} (h : issueAt c f u s = .go i t) :
    OnlyCaravan c s t := by
  obtain ⟨-, -, -, -, -, -, -, rfl | rfl, -⟩ := issueAt_go h
  · exact onlyCaravan_refl c _
  · exact onlyCaravan_freeCtr c s _

/-- The body of an instruction runs on the issue. -/
theorem withIssue_go {c : CoreSlot} {f : Insn} {u : Nat} {s t : State} {i : Issue} (h : issueAt c f u s = .go i t)
    (body : Issue → State → State) : withIssue c f u body s = body i t := by
  have hc := (issueAt_go h).2.2.2.2.2.2.2.2.1
  have hl : lateIssues s c.cluster c.core = false := by
    unfold coreIssues at hc
    unfold lateIssues
    cases hh : ((getCluster s c.cluster).core c.core).halted
    · simp [hh]
    · simp [hh] at hc
  unfold withIssue; simp only [hl, Bool.false_eq_true, if_false, h]

/-- An instruction whose encoding, registers and sources pass has its effect. -/
theorem perThread_clear {i : Issue} {u : Nat} {ill : Bool} {uses : List OpUse} {zero : List (BitVec 8)} {s : State}
    (h : ClearThreads i ill uses zero s) (eff : State → State) : perThread i u ill uses zero eff s = eff s := by
  unfold perThread
  rw [if_neg h.1, h.2.1]
  simp [h.2.2.1, h.2.2.2]

theorem perGroup_clear {i : Issue} {u : Nat} {ill : Bool} {uses : List OpUse} {zero : List (BitVec 8)} {s : State}
    (h : ClearGroup i ill uses zero s) (eff : State → State) : perGroup i u ill uses zero eff s = eff s := by
  unfold perGroup
  rw [h.2.1]
  simp [h.1, h.2.2.1, h.2.2.2]

theorem onlyCaravan_advance (i : Issue) (u : Nat) (s : State) : OnlyCaravan i.at_ s (advance i u s) :=
  ((onlyCaravan_modCaravan _ _ _).trans (onlyCaravan_modCaravan _ _ _)).trans (onlyCaravan_issuedLast _ _)

/-- Advancing moves the active threads past the instruction and leaves every register and predicate. -/
theorem advance_car (i : Issue) (u : Nat) (s : State) :
    ∃ g : Caravan → Caravan, caravanIn (advance i u s) i.at_ = (caravanIn s i.at_).map g ∧
      ∀ k, (g k).threads = (k.modThreads i.act (fun t => { t with pc := i.pc + 8#40 })).threads ∧ (g k).regs = k.regs ∧
        (g k).marks = k.marks := by
  let v : PairView := { threads := i.act, pc := i.pc + 8#40, unit := unitOf u, regs := i.car.regs, marks := i.car.marks, preds := i.car.threads.map (·.preds) }
  refine ⟨fun k => { k.modThreads i.act (fun t => { t with pc := i.pc + 8#40 }) with pair := if i.opens u then some v else none },
    ?_, fun k => ⟨rfl, rfl, rfl⟩⟩
  unfold advance notePair
  simp only [caravanIn_issuedLast, caravanIn_modCaravan, Option.map_map]
  rfl

/-- The lowest program counter of a list of threads is one of theirs and above none. -/
theorem foldl_min_pc (l : List Thread) (m : Option (BitVec 40)) :
    (∀ p, l.foldl (fun m t => match m with | none => some t.pc | some p => if t.pc.ult p then some t.pc else some p) m = some p →
      (∀ q, m = some q → p.toNat ≤ q.toNat) ∧ (∀ x ∈ l, p.toNat ≤ x.pc.toNat) ∧ ((m = some p) ∨ ∃ x ∈ l, x.pc = p)) := by
  induction l generalizing m with
  | nil => intro p h; simp at h; subst h; simp
  | cons x l ih =>
    intro p h
    rw [List.foldl_cons] at h
    obtain ⟨h1, h2, h3⟩ := ih _ p h
    cases m with
    | none =>
      simp only [reduceCtorEq, false_imp_iff, implies_true, true_and, false_or] at *
      have := h1 x.pc rfl
      refine ⟨?_, ?_⟩
      · intro y hy; rcases List.mem_cons.1 hy with rfl | hy
        · exact this
        · exact h2 y hy
      · rcases h3 with h3 | ⟨y, hy, e⟩
        · exact ⟨x, List.mem_cons_self .., by simpa using h3⟩
        · exact ⟨y, List.mem_cons_of_mem _ hy, e⟩
    | some q =>
      simp only at h1 h3
      by_cases hx : x.pc.ult q = true
      · rw [if_pos hx] at h1 h3
        have e := h1 _ rfl
        have hx' : x.pc.toNat < q.toNat := by simpa [BitVec.ult] using hx
        refine ⟨?_, ?_, ?_⟩
        · intro q' hq'; cases hq'; omega
        · intro y hy; rcases List.mem_cons.1 hy with rfl | hy
          · exact e
          · exact h2 y hy
        · rcases h3 with h3 | ⟨y, hy, e⟩
          · exact .inr ⟨x, List.mem_cons_self .., by simpa using h3⟩
          · exact .inr ⟨y, List.mem_cons_of_mem _ hy, e⟩
      · rw [if_neg hx] at h1 h3
        have e := h1 _ rfl
        have hx' : q.toNat ≤ x.pc.toNat := by simpa [BitVec.ult] using hx
        refine ⟨?_, ?_, ?_⟩
        · intro q' hq'; cases hq'; omega
        · intro y hy; rcases List.mem_cons.1 hy with rfl | hy
          · omega
          · exact h2 y hy
        · rcases h3 with h3 | ⟨y, hy, e⟩
          · exact .inl h3
          · exact .inr ⟨y, List.mem_cons_of_mem _ hy, e⟩

/-- Setting or clearing one bit. -/
theorem getLsbD_setOr {w : Nat} (m : BitVec w) (p q : Nat) (b : Bool) (hp : p < w) :
    (if b then setBit m p else clearBit m p).getLsbD q = if q = p then b else m.getLsbD q := by
  have hm : (maskBit w p).getLsbD q = decide (q = p) := by
    simp only [maskBit, BitVec.getLsbD_shiftLeft, BitVec.getLsbD_one]
    by_cases hq : q = p
    · subst hq; simp [hp]; omega
    · simp only [hq, decide_false]
      by_cases h1 : q < p
      · simp [h1]
      · have : q - p ≠ 0 := by omega
        simp [this]
  cases b
  · simp only [clearBit, Bool.false_eq_true, if_false, BitVec.getLsbD_and, BitVec.getLsbD_not, hm]
    by_cases hq : q = p
    · simp [hq]
    · simp only [hq, decide_false, if_false, Bool.not_false, Bool.and_true]
      by_cases hw : q < w
      · simp [hw]
      · simp [BitVec.getLsbD_of_ge _ _ (Nat.le_of_not_lt hw)]
  · simp only [setBit, if_true, BitVec.getLsbD_or, hm]
    by_cases hq : q = p <;> simp [hq]

/-- Advancing after a change of the caravan: the active threads go on; registers and predicates are the changed caravan's. -/
theorem advance_after {c : CoreSlot} {f : Insn} {u u' : Nat} {s t0 t1 : State} {i : Issue} (h : issueAt c f u s = .go i t0) (k : Caravan)
    (ho : OnlyCaravan c s t1) (hk : caravanIn t1 c = some k)
    (hg : k.threads.length = i.car.threads.length)
    (hpc : ∀ th, (k.thread th).pc = (i.car.thread th).pc ∧ (k.thread th).exited = (i.car.thread th).exited) :
    OnlyCaravan c s (advance i u' t1) ∧ Advanced i s (advance i u' t1) ∧ (∀ th n, regIn (advance i u' t1) c th n = k.reg th n) ∧
    (∀ th p, predIn (advance i u' t1) c th p = k.predOf th p) := by
  have hat := (issueAt_go h).1
  obtain ⟨g2, e, hg2⟩ := advance_car i u' t1
  rw [hat, hk] at e
  simp only [Option.map_some] at e
  have hth : ∀ th, (g2 k).thread th = if i.act.getLsbD th = true then { k.thread th with pc := i.pc + 8#40 } else k.thread th := by
    intro th
    by_cases hl : th < k.threads.length
    · refine Eq.trans ?_ (thread_modThreads i.act (fun t => { t with pc := i.pc + 8#40 }) k th hl)
      unfold Caravan.thread; rw [(hg2 _).1]
    · have : ¬ i.act.getLsbD th = true := fun ha => hl (hg ▸ (act_mem h ha).2.1)
      rw [if_neg this, ← thread_mapIdx_ge _ _ _ (Nat.le_of_not_lt hl)]
      unfold Caravan.thread; rw [(hg2 _).1]; rfl
  have hs := (issueAt_go h).2.2.1
  refine ⟨ho.trans (hat ▸ onlyCaravan_advance i u' t1), ?_, ?_, ?_⟩
  · intro th
    rw [hat]
    simp only [pcIn, exitedIn, e, hs, hth]
    split <;> simp [hpc]
  · intro th n; simp only [regIn, e, Caravan.reg, (hg2 _).2.1]
  · intro th p; simp only [predIn, e, Caravan.predOf, hth]; split <;> rfl

/-- A 32-bit result written to DST, and the advance: what they leave and what they change. -/
theorem advance_putRes32 {c : CoreSlot} {f : Insn} {u u' : Nat} {s t0 : State} {i : Issue} (h : issueAt c f u s = .go i t0) (v : Nat → BitVec 32) :
    OnlyCaravan c s (advance i u' (putRes32 i v t0)) ∧ SamePreds c s (advance i u' (putRes32 i v t0)) ∧ Advanced i s (advance i u' (putRes32 i v t0)) ∧
    ∀ th n, th < 32 → regIn (advance i u' (putRes32 i v t0)) c th n =
      if i.exe.getLsbD th = true ∧ n = f.dst.toNat ∧ f.dst.toNat < 0x80 then v th else regIn s c th n := by
  have hf := (issueAt_go h).2.1
  have hs := (issueAt_go h).2.2.1
  unfold putRes32
  rw [hf]
  by_cases hd : f.dst.toNat < 0x80
  · rw [if_pos hd]
    obtain ⟨a, b, d, e⟩ := advance_after (u' := u') h (i.car.writeReg f.dst.toNat (fun t => if i.exe.getLsbD t then some (v t) else none))
      ((onlyCaravan_go h).trans (onlyCaravan_modCaravan c _ t0)) (by rw [caravanIn_modCaravan, caravanIn_go h]; rfl) rfl (fun _ => ⟨rfl, rfl⟩)
    rw [(issueAt_go h).1]
    refine ⟨a, ?_, b, ?_⟩
    · intro th p; rw [e]; simp only [predIn, hs]; rfl
    · intro th n hth; rw [d, reg_writeReg _ _ _ _ _ hth]
      simp only [regIn, hs, hd, and_true]
      by_cases hn : n = f.dst.toNat <;> by_cases hx : i.exe.getLsbD th = true <;> simp [hn, hx]
  · rw [if_neg hd]
    obtain ⟨a, b, d, e⟩ := advance_after (u' := u') h i.car (onlyCaravan_go h) (caravanIn_go h) rfl (fun _ => ⟨rfl, rfl⟩)
    refine ⟨a, ?_, b, ?_⟩
    · intro th p; rw [e]; simp only [predIn, hs]
    · intro th n hth; rw [d]; simp only [regIn, hs, hd, and_false, if_false]

/-- A 64-bit result written to the pair DST, and the advance. -/
theorem advance_putPair {c : CoreSlot} {f : Insn} {u u' : Nat} {s t0 : State} {i : Issue} (h : issueAt c f u s = .go i t0) (v : Nat → Word) :
    OnlyCaravan c s (advance i u' (putPair i f.dst i.exe v t0)) ∧ SamePreds c s (advance i u' (putPair i f.dst i.exe v t0)) ∧ Advanced i s (advance i u' (putPair i f.dst i.exe v t0)) ∧
    ∀ th n, th < 32 → regIn (advance i u' (putPair i f.dst i.exe v t0)) c th n =
      if i.exe.getLsbD th = true ∧ n = f.dst.toNat ∧ f.dst.toNat < 0x80 then (v th).extractLsb' 0 32
      else if i.exe.getLsbD th = true ∧ n = f.dst.toNat + 1 ∧ f.dst.toNat < 0x80 then (v th).extractLsb' 32 32 else regIn s c th n := by
  have hs := (issueAt_go h).2.2.1
  unfold putPair
  by_cases hd : f.dst.toNat < 0x80
  · rw [if_pos hd]
    obtain ⟨a, b, d, e⟩ := advance_after (u' := u') h ((i.car.writeReg f.dst.toNat (fun t => if i.exe.getLsbD t then some ((v t).extractLsb' 0 32) else none)).writeReg (f.dst.toNat + 1) (fun t => if i.exe.getLsbD t then some ((v t).extractLsb' 32 32) else none))
      ((onlyCaravan_go h).trans (onlyCaravan_modCaravan c (fun k => (k.writeReg f.dst.toNat (fun t => if i.exe.getLsbD t then some ((v t).extractLsb' 0 32) else none)).writeReg (f.dst.toNat + 1) (fun t => if i.exe.getLsbD t then some ((v t).extractLsb' 32 32) else none)) t0)) (by rw [caravanIn_modCaravan, caravanIn_go h]; rfl) rfl (fun _ => ⟨rfl, rfl⟩)
    rw [(issueAt_go h).1]
    refine ⟨a, ?_, b, ?_⟩
    · intro th p; rw [e]; simp only [predIn, hs]; rfl
    · intro th n hth; rw [d, reg_writeReg _ _ _ _ _ hth, reg_writeReg _ _ _ _ _ hth]
      simp only [regIn, hs, hd, and_true]
      by_cases hx : i.exe.getLsbD th = true <;> by_cases hn : n = f.dst.toNat <;> by_cases hn1 : n = f.dst.toNat + 1 <;> simp [hn, hn1, hx]
  · rw [if_neg hd]
    obtain ⟨a, b, d, e⟩ := advance_after (u' := u') h i.car (onlyCaravan_go h) (caravanIn_go h) rfl (fun _ => ⟨rfl, rfl⟩)
    refine ⟨a, ?_, b, ?_⟩
    · intro th p; rw [e]; simp only [predIn, hs]
    · intro th n hth; rw [d]; simp only [regIn, hs, hd, and_false, if_false]

/-- Every integer command is the one meaning of its operation. -/
theorem exec_int (op : IntOp) (c : CoreSlot) (f : Insn) (s : State) : exec (intCommand op c f) s = .next (doInt op c f s) := by
  cases op <;> rfl

end Sys2Proof.Machine
end

