-- ==== Sys2Proof/Laws/Faults.lean ====
section
/-! SUPPORT. What a stage fault and an exception of a core leave as it was and what they change (R97, R99, R100, R283). -/

namespace Sys2Proof.Machine

/-- What stopping the work of a leg keeps of the machine: memory, regions, the stage-fault count, and of every core its slots, its
exception registers and whether it is halted. -/
structure CoresKept (s t : State) : Prop where
  mem : t.mem = s.mem
  regions : t.regions = s.regions
  count : t.ldg.faultCount = s.ldg.faultCount
  slots : ∀ cl co, (getCore t cl co).slots = (getCore s cl co).slots
  halted : ∀ cl co, (getCore t cl co).halted = (getCore s cl co).halted
  exc : ∀ cl co, (getCore t cl co).exc = (getCore s cl co).exc
  excPc : ∀ cl co, (getCore t cl co).excPc = (getCore s cl co).excPc
  excAddr : ∀ cl co, (getCore t cl co).excAddr = (getCore s cl co).excAddr
  tie : ∀ cl co, (getCore t cl co).tie = (getCore s cl co).tie

theorem coresKept_refl (s : State) : CoresKept s s :=
  ⟨rfl, rfl, rfl, fun _ _ => rfl, fun _ _ => rfl, fun _ _ => rfl, fun _ _ => rfl, fun _ _ => rfl, fun _ _ => rfl⟩

theorem CoresKept.trans {s t u : State} (a : CoresKept s t) (b : CoresKept t u) : CoresKept s u :=
  ⟨b.mem.trans a.mem, b.regions.trans a.regions, b.count.trans a.count, fun x y => (b.slots x y).trans (a.slots x y),
   fun x y => (b.halted x y).trans (a.halted x y), fun x y => (b.exc x y).trans (a.exc x y),
   fun x y => (b.excPc x y).trans (a.excPc x y), fun x y => (b.excAddr x y).trans (a.excAddr x y),
   fun x y => (b.tie x y).trans (a.tie x y)⟩

/-- Any change outside the clusters, memory, the region map and the count keeps the cores. -/
theorem coresKept_of {s t : State} (hc : t.clusters = s.clusters) (hm : t.mem = s.mem) (hr : t.regions = s.regions)
    (hl : t.ldg.faultCount = s.ldg.faultCount) : CoresKept s t := by
  have : ∀ cl co, getCore t cl co = getCore s cl co := fun cl co => by simp [getCore, getCluster, hc]
  exact ⟨hm, hr, hl, fun x y => by rw [this], fun x y => by rw [this], fun x y => by rw [this], fun x y => by rw [this], fun x y => by rw [this], fun x y => by rw [this]⟩

theorem coresKept_forEach {α : Type} (xs : List α) (f : α → State → State) (h : ∀ x s, CoresKept s (f x s)) (s : State) :
    CoresKept s (forEach xs f s) := by
  unfold forEach
  induction xs generalizing s with
  | nil => exact coresKept_refl s
  | cons x xs ih => exact (h x s).trans (ih (f x s))

theorem core_stopWork (c : Cluster) (n : Nat) : c.stopWork.core n = (c.core n).stopWork ∨ c.stopWork.core n = c.core n := by
  unfold Cluster.stopWork Cluster.core
  simp only
  induction c.cores with
  | nil => exact .inr rfl
  | cons p t ih =>
    obtain ⟨k, v⟩ := p
    simp only [List.map_cons, tabGet]
    by_cases h : k = n
    · simp [h]
    · simpa [h] using ih

theorem coresKept_stopWork (id : Nat) (s : State) : CoresKept s (modCluster id Cluster.stopWork s) := by
  have key : ∀ cl co, getCore (modCluster id Cluster.stopWork s) cl co = (getCore s cl co).stopWork ∨
      getCore (modCluster id Cluster.stopWork s) cl co = getCore s cl co := by
    intro cl co
    unfold getCore
    rw [getCluster_modCluster]
    by_cases h : cl = id
    · subst h; simpa using core_stopWork (getCluster s cl) co
    · simp [h]
  refine ⟨rfl, rfl, rfl, ?_, ?_, ?_, ?_, ?_, ?_⟩ <;> intro cl co <;> rcases key cl co with h | h <;> rw [h] <;> rfl

theorem coresKept_stopLegWork (k : Nat) (leg : Leg) (s : State) : CoresKept s (stopLegWork k leg s) := by
  unfold stopLegWork
  refine (coresKept_forEach leg.clusters _ (fun c t => coresKept_stopWork c t) s).trans ?_
  exact coresKept_of rfl rfl rfl rfl

theorem coresKept_modItin (k : Nat) (f : Itin → Itin) (s : State) : CoresKept s (modItin k f s) := coresKept_of rfl rfl rfl rfl

theorem coresKept_stopJob (k fclass : Nat) (fi : Option FaultInfo) (s : State) : CoresKept s (stopJob k fclass fi s) := by
  unfold stopJob
  split
  · exact coresKept_refl s
  · split
    · exact coresKept_refl s
    · split
      · exact coresKept_refl s
      · split
        · exact (coresKept_stopLegWork k _ s).trans (coresKept_of rfl rfl rfl rfl)
        · exact coresKept_of rfl rfl rfl rfl

theorem coresKept_logErr (r : ErrRec) (s : State) : CoresKept s (logErr r s) := by
  unfold logErr
  simp only
  split <;> exact coresKept_of rfl rfl rfl rfl

theorem coresKept_takeOffline (c : Nat) (s : State) : CoresKept s (takeOffline c s) := by
  unfold takeOffline
  refine CoresKept.trans ?_ (coresKept_logErr _ _)
  have key : ∀ cl co, getCore (modCluster c (fun x => { x with offline := true }) s) cl co = getCore s cl co := by
    intro cl co; unfold getCore; rw [getCluster_modCluster]
    by_cases h : cl = c
    · subst h; simp [Cluster.core]
    · simp [h]
  exact ⟨rfl, rfl, rfl, fun x y => by rw [key], fun x y => by rw [key], fun x y => by rw [key], fun x y => by rw [key], fun x y => by rw [key], fun x y => by rw [key]⟩

theorem coresKept_discardLeg (k : Nat) (fi : FaultInfo) (s : State) : CoresKept s (discardLeg k fi s) := by
  unfold discardLeg
  split
  · exact coresKept_refl s
  · split
    · exact coresKept_refl s
    · rename_i leg _
      have h1 := coresKept_stopLegWork k leg s
      split
      · exact h1.trans (coresKept_of rfl rfl rfl rfl)
      · simp only
        split
        · split
          · refine h1.trans (CoresKept.trans ?_ (coresKept_forEach _ _ (fun j t => coresKept_modItin j _ t) _))
            refine CoresKept.trans (coresKept_of ?_ ?_ ?_ ?_) (coresKept_takeOffline _ _) <;> rfl
          · refine h1.trans (CoresKept.trans ?_ (coresKept_stopJob _ _ _ _))
            exact coresKept_of rfl rfl rfl rfl
        · exact h1.trans (coresKept_of rfl rfl rfl rfl)

/-- A stage fault counts once and keeps memory, regions and the cores' registers. -/
theorem stageFault_kept (ks : List Nat) (fi : FaultInfo) (s : State) :
    CoresKept { s with ldg := { s.ldg with faultCount := s.ldg.faultCount + 1 } } (stageFault ks fi s) := by
  unfold stageFault
  refine CoresKept.trans ?_ (coresKept_forEach ks _ (fun k t => coresKept_discardLeg k fi t) _)
  exact coresKept_of rfl rfl rfl rfl

/-- What an exception recorded on a core that had not halted leaves of it. -/
theorem recordExc_fields (pc : BitVec 40) (addr : Word) (first : CoreExcReg) (w : BitVec 4) (c : Core) (hh : c.halted = false) :
    (Core.recordExc pc addr first w c).halted = true ∧ (Core.recordExc pc addr first w c).slots = c.slots ∧
    (c.exc.valid = 0#1 → (Core.recordExc pc addr first w c).exc = { first with more := c.exc.more } ∧
      (Core.recordExc pc addr first w c).excPc = pc ∧ (Core.recordExc pc addr first w c).excAddr = addr) ∧
    (c.exc.valid = 1#1 → (Core.recordExc pc addr first w c).exc = { c.exc with more := 1#1 } ∧
      (Core.recordExc pc addr first w c).excPc = c.excPc ∧ (Core.recordExc pc addr first w c).excAddr = c.excAddr) := by
  unfold Core.recordExc
  by_cases hv : c.exc.valid = 0#1
  · simp [hv, hh]
  · simp [hv, hh]

/-- An exception of a core that had not halted: what Excepts says, and no slot changes. -/
theorem raiseExc_excepts (c : CoreSlot) (itin cause : Nat) (pc : BitVec 40) (ths : BitVec 32) (addr : Word) (own : Bool) (s : State)
    (hh : (getCore s c.cluster c.core).halted = false)
    (ha : cause = cIllegalInsn ∨ cause = cIllegalReg ∨ cause = cSplit ∨ cause = cTrap → addr = 0#64) :
    Excepts c pc cause ths addr s (raiseExc c.cluster c.core c.slot itin cause pc ths addr own s) ∧
    (getCore (raiseExc c.cluster c.core c.slot itin cause pc ths addr own s) c.cluster c.core).slots = (getCore s c.cluster c.core).slots := by
  unfold raiseExc
  have hz : (if cause = cIllegalInsn ∨ cause = cIllegalReg ∨ cause = cSplit ∨ cause = cTrap then 0#64 else addr) = addr := by
    split
    · rename_i h; exact (ha h).symm
    · rfl
  simp only [hz, hh, Bool.false_eq_true, if_false]
  generalize hw : (draw 4 s).1 = w
  have hd : getCore (draw 4 s).2 c.cluster c.core = getCore s c.cluster c.core := rfl
  obtain ⟨f1, f2, f3, f4⟩ := recordExc_fields pc addr { valid := 1#1, more := 0#1, cause := BitVec.ofNat 8 cause, slot := BitVec.ofNat 4 c.slot, threads := ths } w (getCore s c.cluster c.core) hh
  generalize hs1 : modCore c.cluster c.core (Core.recordExc pc addr { valid := 1#1, more := 0#1, cause := BitVec.ofNat 8 cause, slot := BitVec.ofNat 4 c.slot, threads := ths } w) (draw 4 s).2 = s1
  have hcore : getCore s1 c.cluster c.core = Core.recordExc pc addr { valid := 1#1, more := 0#1, cause := BitVec.ofNat 8 cause, slot := BitVec.ofNat 4 c.slot, threads := ths } w (getCore s c.cluster c.core) := by
    rw [← hs1, ← hd]; exact getCore_modCore_self ..
  have hmem : s1.mem = s.mem ∧ s1.regions = s.regions ∧ s1.ldg = s.ldg := by rw [← hs1]; exact ⟨rfl, rfl, rfl⟩
  have fin : ∀ s2 t, CoresKept s1 s2 → CoresKept { s2 with ldg := { s2.ldg with faultCount := s2.ldg.faultCount + 1 } } t →
      Excepts c pc cause ths addr s t ∧ (getCore t c.cluster c.core).slots = (getCore s c.cluster c.core).slots := by
    intro s2 t h1 h2
    have g : ∀ cl co, getCore ({ s2 with ldg := { s2.ldg with faultCount := s2.ldg.faultCount + 1 } } : State) cl co = getCore s2 cl co := fun _ _ => rfl
    have hsl : (getCore t c.cluster c.core).slots = (getCore s c.cluster c.core).slots := by rw [h2.slots, g, h1.slots, hcore, f2]
    have hsk : ∀ k, (getCore t c.cluster c.core).slot k = (getCore s c.cluster c.core).slot k := fun k => by unfold Core.slot; rw [hsl]
    have hcar : caravanIn t c = caravanIn s c := hsk _
    refine ⟨⟨?_, ?_, ?_, fun k _ => hsk k, fun _ _ _ => by simp only [regIn, hcar], fun _ _ => by simp only [predIn, hcar], fun _ => hsl, ?_, ?_, ?_⟩, hsl⟩
    · rw [h2.halted, g, h1.halted, hcore, f1]
    · intro hv
      rw [h2.exc, h2.excPc, h2.excAddr, g, h1.exc, h1.excPc, h1.excAddr, hcore]
      exact f3 hv
    · intro hv
      rw [h2.exc, h2.excPc, h2.excAddr, g, h1.exc, h1.excPc, h1.excAddr, hcore]
      exact f4 hv
    · rw [h2.mem]; exact h1.mem.trans hmem.1
    · rw [h2.regions]; exact h1.regions.trans hmem.2.1
    · rw [h2.count]; show s2.ldg.faultCount + 1 = _; rw [h1.count, hmem.2.2]
  split
  · exact fin _ _ (coresKept_logErr _ _) (stageFault_kept _ _ _)
  · exact fin _ _ (coresKept_refl _) (stageFault_kept _ _ _)

end Sys2Proof.Machine
end

