-- ==== Sys2Proof/Laws/HomeFrame.lean ====
section
/-! SUPPORT. What the coherence homes, the memory controllers and the pigeonhole unit never change when they serve a request, even one that
reveals the loss of a stack: time, power, the module, security and the queue. -/

namespace Sys2Proof.Machine

/-- The parts of the state that no request to a home changes. -/
structure HomeFrame (s t : State) : Prop where
  variant : t.variant = s.variant
  stg : t.stg = s.stg
  pwr : t.pwr = s.pwr
  mdl : t.mdl = s.mdl
  sec : t.sec = s.sec
  pending : t.pending = s.pending

theorem HomeFrame.refl (s : State) : HomeFrame s s := ⟨rfl, rfl, rfl, rfl, rfl, rfl⟩

/-- What writes none of these parts keeps the frame. -/
theorem HomeFrame.same {z s t : State} (h : HomeFrame z s) (e0 : t.variant = s.variant) (e1 : t.stg = s.stg) (e2 : t.pwr = s.pwr) (e3 : t.mdl = s.mdl) (e4 : t.sec = s.sec) (e5 : t.pending = s.pending) : HomeFrame z t :=
  ⟨e0.trans h.variant, e1.trans h.stg, e2.trans h.pwr, e3.trans h.mdl, e4.trans h.sec, e5.trans h.pending⟩

theorem homeFrame_mk {z s : State} {variant : Variant} {stg : Stage} {ldg : Ledger} {errs : List ErrRec} {errSeq : Nat} {innk : Innkeeper} {itins : Tab (Option Itin)} {regions : List Region} {clusters : Tab Cluster} {homes : Tab Home} {ctls : Tab Ctl} {mem : List Host.Cell} {chkXor : Tab (BitVec 32)} {porters : Tab Porter} {ptrCfg : PtrCfgReg} {ptrCfgEff : PtrCfgReg} {px : Tab PxDie} {net : Net} {pwr : Power} {mdl : Module} {sec : Security} {sb : Sideband} {freeCtr : Nat} {pending : List Instr}
    (e0 : variant = s.variant) (e1 : stg = s.stg) (e2 : pwr = s.pwr) (e3 : mdl = s.mdl) (e4 : sec = s.sec) (e5 : pending = s.pending) (h : HomeFrame z s) :
    HomeFrame z (State.mk variant stg ldg errs errSeq innk itins regions clusters homes ctls mem chkXor porters ptrCfg ptrCfgEff px net pwr mdl sec sb freeCtr pending) := h.same e0 e1 e2 e3 e4 e5

theorem HomeFrame.ofSnd {z : State} {α : Type} {p : α × State} {a : α} {t : State} (e : p = (a, t)) (h : HomeFrame z p.2) : HomeFrame z t := by
  subst e; exact h
theorem HomeFrame.ofThd {z : State} {α β : Type} {p : α × β × State} {a : α} {b : β} {t : State} (e : p = (a, b, t)) (h : HomeFrame z p.2.2) :
    HomeFrame z t := by subst e; exact h

theorem ite_frame {z : State} {c : Prop} [Decidable c] {a b : State} (ha : HomeFrame z a) (hb : HomeFrame z b) : HomeFrame z (if c then a else b) := by
  split <;> assumption
theorem ite_frame_snd {z : State} {α : Type} {c : Prop} [Decidable c] {a b : α × State} (ha : HomeFrame z a.2) (hb : HomeFrame z b.2) :
    HomeFrame z (if c then a else b).2 := by split <;> assumption
theorem ite_frame_thd {z : State} {α β : Type} {c : Prop} [Decidable c] {a b : α × β × State} (ha : HomeFrame z a.2.2) (hb : HomeFrame z b.2.2) :
    HomeFrame z (if c then a else b).2.2 := by split <;> assumption

theorem forEach_frame (z : State) {α : Type} {f : α → State → State} (h : ∀ x t, HomeFrame z t → HomeFrame z (f x t)) (xs : List α) {s : State}
    (hs : HomeFrame z s) : HomeFrame z (forEach xs f s) := by
  induction xs generalizing s with
  | nil => exact hs
  | cons x xs ih => exact ih (h x s hs)

theorem foldl_frame (z : State) {α : Type} {f : State → α → State} (h : ∀ t x, HomeFrame z t → HomeFrame z (f t x)) (xs : List α) {s : State}
    (hs : HomeFrame z s) : HomeFrame z (xs.foldl f s) := by
  induction xs generalizing s with
  | nil => exact hs
  | cons x xs ih => exact ih (h s x hs)

theorem foldl_frame_snd (z : State) {α β : Type} {f : β × State → α → β × State} (h : ∀ p x, HomeFrame z p.2 → HomeFrame z (f p x).2)
    (xs : List α) {p : β × State} (hp : HomeFrame z p.2) : HomeFrame z (xs.foldl f p).2 := by
  induction xs generalizing p with
  | nil => exact hp
  | cons x xs ih => exact ih (h p x hp)

theorem modHome_frame (z : State) (n : Nat) (f : Home → Home) {s : State} (h : HomeFrame z s) : HomeFrame z (modHome n f s) := h.same rfl rfl rfl rfl rfl rfl
theorem modCtl_frame (z : State) (n : Nat) (f : Ctl → Ctl) {s : State} (h : HomeFrame z s) : HomeFrame z (modCtl n f s) := h.same rfl rfl rfl rfl rfl rfl
theorem modPx_frame (z : State) (n : Nat) (f : PxDie → PxDie) {s : State} (h : HomeFrame z s) : HomeFrame z (modPx n f s) := h.same rfl rfl rfl rfl rfl rfl
theorem modSb_frame (z : State) (f : Sideband → Sideband) {s : State} (h : HomeFrame z s) : HomeFrame z (modSb f s) := h.same rfl rfl rfl rfl rfl rfl
theorem modInnk_frame (z : State) (f : Innkeeper → Innkeeper) {s : State} (h : HomeFrame z s) : HomeFrame z (modInnk f s) := h.same rfl rfl rfl rfl rfl rfl
theorem setMemByte_frame (z : State) (a : Nat) (b : Byte) {s : State} (h : HomeFrame z s) : HomeFrame z (setMemByte a b s) := h.same rfl rfl rfl rfl rfl rfl
theorem setChk_frame (z : State) (a : Nat) (x : BitVec 32) {s : State} (h : HomeFrame z s) : HomeFrame z (setChk a x s) := h.same rfl rfl rfl rfl rfl rfl
theorem setCmd_frame (z : State) (id : Nat) (v : Option Cmd) {s : State} (h : HomeFrame z s) : HomeFrame z (setCmd id v s) := h.same rfl rfl rfl rfl rfl rfl
theorem modCluster_frame (z : State) (n : Nat) (f : Cluster → Cluster) {s : State} (h : HomeFrame z s) : HomeFrame z (modCluster n f s) := h.same rfl rfl rfl rfl rfl rfl
theorem modCore_frame (z : State) (a b : Nat) (f : Core → Core) {s : State} (h : HomeFrame z s) : HomeFrame z (modCore a b f s) := h.same rfl rfl rfl rfl rfl rfl
theorem modPorter_frame (z : State) (n : Nat) (f : Porter → Porter) {s : State} (h : HomeFrame z s) : HomeFrame z (modPorter n f s) := h.same rfl rfl rfl rfl rfl rfl
theorem setItin_frame (z : State) (n : Nat) (v : Option Itin) {s : State} (h : HomeFrame z s) : HomeFrame z (setItin n v s) := h.same rfl rfl rfl rfl rfl rfl
theorem modItin_frame (z : State) (n : Nat) (f : Itin → Itin) {s : State} (h : HomeFrame z s) : HomeFrame z (modItin n f s) := h.same rfl rfl rfl rfl rfl rfl
theorem modLeg_frame (z : State) (n : Nat) (f : Leg → Leg) {s : State} (h : HomeFrame z s) : HomeFrame z (modLeg n f s) := h.same rfl rfl rfl rfl rfl rfl
theorem modNet_frame (z : State) (f : Net → Net) {s : State} (h : HomeFrame z s) : HomeFrame z (modNet f s) := h.same rfl rfl rfl rfl rfl rfl
theorem modLdg_frame (z : State) (f : Ledger → Ledger) {s : State} (h : HomeFrame z s) : HomeFrame z (modLdg f s) := h.same rfl rfl rfl rfl rfl rfl
theorem modRegion_frame (z : State) (b : Nat) (f : Region → Region) {s : State} (h : HomeFrame z s) : HomeFrame z (modRegion b f s) := h.same rfl rfl rfl rfl rfl rfl
theorem modCmd_frame (z : State) (id : Nat) (f : Cmd → Cmd) {s : State} (h : HomeFrame z s) : HomeFrame z (modCmd id f s) := h.same rfl rfl rfl rfl rfl rfl
theorem draw_frame (z : State) (w : Nat) {s : State} (h : HomeFrame z s) : HomeFrame z (draw w s).2 := h.same rfl rfl rfl rfl rfl rfl
theorem setMemSector_frame (z : State) (a : Nat) (d : BitVec 256) {s : State} (h : HomeFrame z s) : HomeFrame z (setMemSector a d s) :=
  forEach_frame z (fun _ _ h => setMemByte_frame z _ _ h) _ h
theorem logErr_frame (z : State) (r : ErrRec) {s : State} (h : HomeFrame z s) : HomeFrame z (logErr r s) := by
  unfold logErr
  dsimp only
  split <;> exact h.same rfl rfl rfl rfl rfl rfl
theorem syncEvents_frame (z : State) (s : State) (h : HomeFrame z s) : HomeFrame z (syncEvents s) := h.same rfl rfl rfl rfl rfl rfl

theorem finishCmd_frame (z : State) (id : Nat) (st : BitVec 16) (res : Nat) (s : State) (h : HomeFrame z s) : HomeFrame z (finishCmd id st res s) := by
  unfold finishCmd
  try dsimp only
  repeat' (first | (with_reducible assumption) | (with_reducible exact fun _ => rfl) | (with_reducible rfl) | intro _ | (with_reducible apply setCmd_frame) | (with_reducible apply modInnk_frame) | (with_reducible apply ite_frame) | (with_reducible apply ite_frame_snd) | (with_reducible apply ite_frame_thd) | split)

theorem waitCmd_frame (z : State) (id : Nat) (s : State) (h : HomeFrame z s) : HomeFrame z (waitCmd id s) := by
  unfold waitCmd
  try dsimp only
  repeat' (first | (with_reducible assumption) | (with_reducible exact fun _ => rfl) | (with_reducible rfl) | intro _ | (with_reducible apply modCmd_frame))

theorem abortJobCmds_frame (z : State) (job : Word) (res : Nat) (s : State) (h : HomeFrame z s) : HomeFrame z (abortJobCmds job res s) := by
  unfold abortJobCmds
  try dsimp only
  repeat' (first | (with_reducible assumption) | (with_reducible exact fun _ => rfl) | (with_reducible rfl) | intro _ | (with_reducible apply forEach_frame) | (with_reducible apply finishCmd_frame) | (with_reducible apply ite_frame) | (with_reducible apply ite_frame_snd) | (with_reducible apply ite_frame_thd) | split)

theorem netSend_frame (z : State) (m : TxMsg) (s : State) (h : HomeFrame z s) : HomeFrame z (netSend m s) := by
  unfold netSend
  try dsimp only
  repeat' (first | (with_reducible assumption) | (with_reducible exact fun _ => rfl) | (with_reducible rfl) | intro _ | (with_reducible apply modNet_frame))

theorem modPort_frame (z : State) (n : Nat) (f : Port → Port) (s : State) (h : HomeFrame z s) : HomeFrame z (modPort n f s) := by
  unfold modPort
  try dsimp only
  repeat' (first | (with_reducible assumption) | (with_reducible exact fun _ => rfl) | (with_reducible rfl) | intro _ | (with_reducible apply modNet_frame))

theorem setConn_frame (z : State) (id : Nat) (v : Option Conn) (s : State) (h : HomeFrame z s) : HomeFrame z (setConn id v s) := by
  unfold setConn
  try dsimp only
  repeat' (first | (with_reducible assumption) | (with_reducible exact fun _ => rfl) | (with_reducible rfl) | intro _ | (with_reducible apply modNet_frame))

theorem modConn_frame (z : State) (id : Nat) (f : Conn → Conn) (s : State) (h : HomeFrame z s) : HomeFrame z (modConn id f s) := by
  unfold modConn
  try dsimp only
  repeat' (first | (with_reducible assumption) | (with_reducible exact fun _ => rfl) | (with_reducible rfl) | intro _ | (with_reducible apply setConn_frame))

theorem modGuest_frame (z : State) (g : Nat) (f : Guest → Guest) (s : State) (h : HomeFrame z s) : HomeFrame z (modGuest g f s) := by
  unfold modGuest
  try dsimp only
  repeat' (first | (with_reducible assumption) | (with_reducible exact fun _ => rfl) | (with_reducible rfl) | intro _ | (with_reducible apply modNet_frame))

theorem sendCtrlNow_frame (z : State) (id : Nat) (s : State) (h : HomeFrame z s) : HomeFrame z (sendCtrlNow id s) := by
  unfold sendCtrlNow
  try dsimp only
  repeat' (first | (with_reducible assumption) | (with_reducible exact fun _ => rfl) | (with_reducible rfl) | intro _ | (with_reducible apply setConn_frame) | (with_reducible apply ite_frame) | (with_reducible apply ite_frame_snd) | (with_reducible apply ite_frame_thd) | split | (with_reducible refine HomeFrame.ofSnd (by assumption) ?_) | (with_reducible refine HomeFrame.ofThd (by assumption) ?_) | (fail_if_no_progress refine homeFrame_mk rfl rfl rfl rfl rfl rfl ?_))

theorem pumpCtrl_frame (z : State) (id : Nat) (s : State) (h : HomeFrame z s) : HomeFrame z (pumpCtrl id s) := by
  unfold pumpCtrl
  try dsimp only
  repeat' (first | (with_reducible assumption) | (with_reducible exact fun _ => rfl) | (with_reducible rfl) | intro _ | (with_reducible apply forEach_frame) | (with_reducible apply sendCtrlNow_frame) | (with_reducible apply ite_frame) | (with_reducible apply ite_frame_snd) | (with_reducible apply ite_frame_thd) | split)

theorem sendCtrl_frame (z : State) (dev : Word) (m : CtrlOut) (s : State) (h : HomeFrame z s) : HomeFrame z (sendCtrl dev m s) := by
  unfold sendCtrl
  try dsimp only
  repeat' (first | (with_reducible assumption) | (with_reducible exact fun _ => rfl) | (with_reducible rfl) | intro _ | (with_reducible apply modConn_frame) | (with_reducible apply pumpCtrl_frame) | (with_reducible apply ite_frame) | (with_reducible apply ite_frame_snd) | (with_reducible apply ite_frame_thd) | split)

theorem openConn_frame (z : State) (p : Peer) (s : State) (h : HomeFrame z s) : HomeFrame z (openConn p s) := by
  unfold openConn
  try dsimp only
  repeat' (first | (with_reducible assumption) | (with_reducible exact fun _ => rfl) | (with_reducible rfl) | intro _ | (with_reducible apply modNet_frame) | (with_reducible apply setConn_frame) | (with_reducible apply pumpCtrl_frame) | (with_reducible apply ite_frame) | (with_reducible apply ite_frame_snd) | (with_reducible apply ite_frame_thd) | split)

theorem dropTx_frame (z : State) (mine : TxOwner → Bool) (s : State) (h : HomeFrame z s) : HomeFrame z (dropTx mine s) := by
  unfold dropTx
  try dsimp only
  repeat' (first | (with_reducible assumption) | (with_reducible exact fun _ => rfl) | (with_reducible rfl) | intro _ | (with_reducible apply modNet_frame))

theorem stopLegWork_frame (z : State) (k : Nat) (leg : Leg) (s : State) (h : HomeFrame z s) : HomeFrame z (stopLegWork k leg s) := by
  unfold stopLegWork
  try dsimp only
  repeat' (first | (with_reducible assumption) | (with_reducible exact fun _ => rfl) | (with_reducible rfl) | intro _ | (with_reducible apply modCluster_frame) | (with_reducible apply forEach_frame) | (with_reducible apply modNet_frame) | (with_reducible apply dropTx_frame) | (with_reducible apply ite_frame) | (with_reducible apply ite_frame_snd) | (with_reducible apply ite_frame_thd) | split | (with_reducible refine HomeFrame.ofSnd (by assumption) ?_) | (with_reducible refine HomeFrame.ofThd (by assumption) ?_) | (fail_if_no_progress refine homeFrame_mk rfl rfl rfl rfl rfl rfl ?_))

theorem dropRecvs_frame (z : State) (k : Nat) (s : State) (h : HomeFrame z s) : HomeFrame z (dropRecvs k s) := by
  unfold dropRecvs
  try dsimp only
  repeat' (first | (with_reducible assumption) | (with_reducible exact fun _ => rfl) | (with_reducible rfl) | intro _ | (with_reducible apply modNet_frame))

theorem stopJob_frame (z : State) (k : Nat) (fclass : Nat) (fault : Option FaultInfo) (s : State) (h : HomeFrame z s) : HomeFrame z (stopJob k fclass fault s) := by
  unfold stopJob
  try dsimp only
  repeat' (first | (with_reducible assumption) | (with_reducible exact fun _ => rfl) | (with_reducible rfl) | intro _ | (with_reducible apply modLdg_frame) | (with_reducible apply modItin_frame) | (with_reducible apply stopLegWork_frame) | (with_reducible apply dropRecvs_frame) | (with_reducible apply ite_frame) | (with_reducible apply ite_frame_snd) | (with_reducible apply ite_frame_thd) | split)

theorem takeOffline_frame (z : State) (c : Nat) (s : State) (h : HomeFrame z s) : HomeFrame z (takeOffline c s) := by
  unfold takeOffline
  try dsimp only
  repeat' (first | (with_reducible assumption) | (with_reducible exact fun _ => rfl) | (with_reducible rfl) | intro _ | (with_reducible apply modCluster_frame) | (with_reducible apply logErr_frame))

theorem discardLeg_frame (z : State) (k : Nat) (fi : FaultInfo) (s : State) (h : HomeFrame z s) : HomeFrame z (discardLeg k fi s) := by
  unfold discardLeg
  try dsimp only
  repeat' (first | (with_reducible assumption) | (with_reducible exact fun _ => rfl) | (with_reducible rfl) | intro _ | (with_reducible apply modLdg_frame) | (with_reducible apply modItin_frame) | (with_reducible apply forEach_frame) | (with_reducible apply stopLegWork_frame) | (with_reducible apply stopJob_frame) | (with_reducible apply takeOffline_frame) | (with_reducible apply ite_frame) | (with_reducible apply ite_frame_snd) | (with_reducible apply ite_frame_thd) | split)

theorem stageFault_frame (z : State) (ks : List Nat) (fi : FaultInfo) (s : State) (h : HomeFrame z s) : HomeFrame z (stageFault ks fi s) := by
  unfold stageFault
  try dsimp only
  repeat' (first | (with_reducible assumption) | (with_reducible exact fun _ => rfl) | (with_reducible rfl) | intro _ | (with_reducible apply modLdg_frame) | (with_reducible apply forEach_frame) | (with_reducible apply discardLeg_frame))

theorem abortRegionCmds_frame (z : State) (n : Nat) (s : State) (h : HomeFrame z s) : HomeFrame z (abortRegionCmds n s) := by
  unfold abortRegionCmds
  try dsimp only
  repeat' (first | (with_reducible assumption) | (with_reducible exact fun _ => rfl) | (with_reducible rfl) | intro _ | (with_reducible apply forEach_frame) | (with_reducible apply finishCmd_frame) | (with_reducible apply ite_frame) | (with_reducible apply ite_frame_snd) | (with_reducible apply ite_frame_thd) | split)

theorem dropHome_frame (z : State) (n : Nat) (s : State) (h : HomeFrame z s) : HomeFrame z (dropHome n s) := by
  unfold dropHome
  try dsimp only
  repeat' (first | (with_reducible assumption) | (with_reducible exact fun _ => rfl) | (with_reducible rfl) | intro _ | (with_reducible apply modHome_frame) | (with_reducible apply forEach_frame) | (with_reducible apply finishCmd_frame) | (with_reducible apply ite_frame) | (with_reducible apply ite_frame_snd) | (with_reducible apply ite_frame_thd) | split | (with_reducible refine HomeFrame.ofSnd (by assumption) ?_) | (with_reducible refine HomeFrame.ofThd (by assumption) ?_) | (fail_if_no_progress refine homeFrame_mk rfl rfl rfl rfl rfl rfl ?_))

theorem fenceStack_frame (z : State) (n : Nat) (s : State) (h : HomeFrame z s) : HomeFrame z (fenceStack n s) := by
  unfold fenceStack
  try dsimp only
  repeat' (first | (with_reducible assumption) | (with_reducible exact fun _ => rfl) | (with_reducible rfl) | intro _ | (with_reducible apply modCtl_frame) | (with_reducible apply abortRegionCmds_frame) | (with_reducible apply dropHome_frame) | (with_reducible apply ite_frame) | (with_reducible apply ite_frame_snd) | (with_reducible apply ite_frame_thd) | split | (with_reducible refine HomeFrame.ofSnd (by assumption) ?_) | (with_reducible refine HomeFrame.ofThd (by assumption) ?_) | (fail_if_no_progress refine homeFrame_mk rfl rfl rfl rfl rfl rfl ?_))

theorem loseStackUnit_frame (z : State) (n : Nat) (s : State) (h : HomeFrame z s) : HomeFrame z (loseStackUnit n s) := by
  unfold loseStackUnit
  try dsimp only
  repeat' (first | (with_reducible assumption) | (with_reducible exact fun _ => rfl) | (with_reducible rfl) | intro _ | (with_reducible apply modLdg_frame) | (with_reducible apply fenceStack_frame) | (with_reducible apply ite_frame))

theorem loseHalfUnit_frame (z : State) (n : Nat) (s : State) (h : HomeFrame z s) : HomeFrame z (loseHalfUnit n s) := by
  unfold loseHalfUnit
  try dsimp only
  repeat' (first | (with_reducible assumption) | (with_reducible exact fun _ => rfl) | (with_reducible rfl) | intro _ | (with_reducible apply modLdg_frame) | (with_reducible apply loseStackUnit_frame) | (with_reducible apply ite_frame))

theorem loseLinkUnit_frame (z : State) (n : Nat) (s : State) (h : HomeFrame z s) : HomeFrame z (loseLinkUnit n s) := by
  unfold loseLinkUnit
  try dsimp only
  repeat' (first | (with_reducible assumption) | (with_reducible exact fun _ => rfl) | (with_reducible rfl) | intro _ | (with_reducible apply modSb_frame) | (with_reducible apply modLdg_frame) | (with_reducible apply ite_frame))

theorem losePx_frame (z : State) (d : Nat) (s : State) (h : HomeFrame z s) : HomeFrame z (losePx d s) := by
  unfold losePx
  try dsimp only
  repeat' (first | (with_reducible assumption) | (with_reducible exact fun _ => rfl) | (with_reducible rfl) | intro _ | (with_reducible apply modPx_frame) | (with_reducible apply ite_frame) | (with_reducible apply ite_frame_snd) | (with_reducible apply ite_frame_thd) | split | (with_reducible refine HomeFrame.ofSnd (by assumption) ?_) | (with_reducible refine HomeFrame.ofThd (by assumption) ?_) | (fail_if_no_progress refine homeFrame_mk rfl rfl rfl rfl rfl rfl ?_))

theorem loseDieUnit_frame (z : State) (d : Nat) (s : State) (h : HomeFrame z s) : HomeFrame z (loseDieUnit d s) := by
  unfold loseDieUnit
  try dsimp only
  repeat' (first | (with_reducible assumption) | (with_reducible exact fun _ => rfl) | (with_reducible rfl) | intro _ | (with_reducible apply modLdg_frame) | (with_reducible apply forEach_frame) | (with_reducible apply loseHalfUnit_frame) | (with_reducible apply loseLinkUnit_frame) | (with_reducible apply losePx_frame) | (with_reducible apply ite_frame))

theorem loseUnreachable_frame (z : State) (s : State) (h : HomeFrame z s) : HomeFrame z (loseUnreachable s) := by
  unfold loseUnreachable
  try dsimp only
  repeat' (first | (with_reducible assumption) | (with_reducible exact fun _ => rfl) | (with_reducible rfl) | intro _ | (with_reducible apply forEach_frame) | (with_reducible apply loseDieUnit_frame) | (with_reducible apply ite_frame))

theorem sendRollbacks_frame (z : State) (s : State) (h : HomeFrame z s) : HomeFrame z (sendRollbacks s) := by
  unfold sendRollbacks
  try dsimp only
  repeat' (first | (with_reducible assumption) | (with_reducible exact fun _ => rfl) | (with_reducible rfl) | intro _ | (with_reducible apply forEach_frame) | (with_reducible apply modNet_frame) | (with_reducible apply sendCtrl_frame) | (with_reducible apply ite_frame) | (with_reducible apply ite_frame_snd) | (with_reducible apply ite_frame_thd) | split)

theorem cutIod_frame (z : State) (s : State) (h : HomeFrame z s) : HomeFrame z (cutIod s) := by
  unfold cutIod
  try dsimp only
  repeat' (first | (with_reducible assumption) | (with_reducible exact fun _ => rfl) | (with_reducible rfl) | intro _ | (with_reducible apply forEach_frame) | (with_reducible apply modNet_frame) | (with_reducible apply modInnk_frame) | (with_reducible apply finishCmd_frame) | (with_reducible apply dropTx_frame) | (with_reducible apply ite_frame) | (with_reducible apply ite_frame_snd) | (with_reducible apply ite_frame_thd) | split | (with_reducible refine HomeFrame.ofSnd (by assumption) ?_) | (with_reducible refine HomeFrame.ofThd (by assumption) ?_) | (fail_if_no_progress refine homeFrame_mk rfl rfl rfl rfl rfl rfl ?_))

theorem selectForRestart_frame (z : State) (s : State) (h : HomeFrame z s) : HomeFrame z (selectForRestart s) := by
  unfold selectForRestart
  try dsimp only
  repeat' (first | (with_reducible assumption) | (with_reducible exact fun _ => rfl) | (with_reducible rfl) | intro _ | (with_reducible apply modItin_frame) | (with_reducible apply forEach_frame) | (with_reducible apply stopJob_frame) | (with_reducible apply ite_frame) | (with_reducible apply ite_frame_snd) | (with_reducible apply ite_frame_thd) | split)

theorem stateLoss_frame (z : State) (lose : State → State) (addr : Word) (frec : Nat) (s : State) (klose : ∀ (y0 : State), HomeFrame z y0 → HomeFrame z (lose y0)) (h : HomeFrame z s) : HomeFrame z (stateLoss lose addr frec s) := by
  unfold stateLoss
  try dsimp only
  repeat' (first | (with_reducible assumption) | (with_reducible exact fun _ => rfl) | (with_reducible rfl) | intro _ | (with_reducible apply foldl_frame) | (with_reducible apply modLdg_frame) | (with_reducible apply forEach_frame) | (with_reducible apply syncEvents_frame) | (with_reducible apply discardLeg_frame) | (with_reducible apply loseUnreachable_frame) | (with_reducible apply sendRollbacks_frame) | (with_reducible apply cutIod_frame) | (with_reducible apply selectForRestart_frame) | (with_reducible apply foldl_frame) | (with_reducible apply foldl_frame_snd) | (with_reducible apply klose) | (with_reducible apply ite_frame) | (with_reducible apply ite_frame_snd) | (with_reducible apply ite_frame_thd) | split | (with_reducible refine HomeFrame.ofSnd (by assumption) ?_) | (with_reducible refine HomeFrame.ofThd (by assumption) ?_) | (fail_if_no_progress refine homeFrame_mk rfl rfl rfl rfl rfl rfl ?_))

theorem stackLoss_frame (z : State) (n : Nat) (source unit : Nat) (s : State) (h : HomeFrame z s) : HomeFrame z (stackLoss n source unit s) := by
  unfold stackLoss
  try dsimp only
  repeat' (first | (with_reducible assumption) | (with_reducible exact fun _ => rfl) | (with_reducible rfl) | intro _ | (with_reducible apply logErr_frame) | (with_reducible apply loseStackUnit_frame) | (with_reducible apply stateLoss_frame) | (with_reducible apply ite_frame))

theorem halfLoss_frame (z : State) (n : Nat) (s : State) (h : HomeFrame z s) : HomeFrame z (halfLoss n s) := by
  unfold halfLoss
  try dsimp only
  repeat' (first | (with_reducible assumption) | (with_reducible exact fun _ => rfl) | (with_reducible rfl) | intro _ | (with_reducible apply logErr_frame) | (with_reducible apply loseHalfUnit_frame) | (with_reducible apply stateLoss_frame) | (with_reducible apply ite_frame))

theorem dieLoss_frame (z : State) (d pwd : Nat) (s : State) (h : HomeFrame z s) : HomeFrame z (dieLoss d pwd s) := by
  unfold dieLoss
  try dsimp only
  repeat' (first | (with_reducible assumption) | (with_reducible exact fun _ => rfl) | (with_reducible rfl) | intro _ | (with_reducible apply logErr_frame) | (with_reducible apply loseDieUnit_frame) | (with_reducible apply stateLoss_frame) | (with_reducible apply ite_frame))

theorem linkLoss_frame (z : State) (n : Nat) (s : State) (h : HomeFrame z s) : HomeFrame z (linkLoss n s) := by
  unfold linkLoss
  try dsimp only
  repeat' (first | (with_reducible assumption) | (with_reducible exact fun _ => rfl) | (with_reducible rfl) | intro _ | (with_reducible apply logErr_frame) | (with_reducible apply loseLinkUnit_frame) | (with_reducible apply losePx_frame) | (with_reducible apply stateLoss_frame) | (with_reducible apply ite_frame))

theorem retirePage_frame (z : State) (page : Nat) (s : State) (h : HomeFrame z s) : HomeFrame z (retirePage page s) := by
  unfold retirePage
  try dsimp only
  repeat' (first | (with_reducible assumption) | (with_reducible exact fun _ => rfl) | (with_reducible rfl) | intro _ | (with_reducible apply modCtl_frame) | (with_reducible apply logErr_frame) | (with_reducible apply ite_frame) | (with_reducible apply ite_frame_snd) | (with_reducible apply ite_frame_thd) | split)

theorem countPage_frame (z : State) (a : Nat) (s : State) (h : HomeFrame z s) : HomeFrame z (countPage a s) := by
  unfold countPage
  try dsimp only
  repeat' (first | (with_reducible assumption) | (with_reducible exact fun _ => rfl) | (with_reducible rfl) | intro _ | (with_reducible apply modCtl_frame) | (with_reducible apply retirePage_frame) | (with_reducible apply ite_frame))

theorem countPin_frame (z : State) (a sym : Nat) (s : State) (h : HomeFrame z s) : HomeFrame z (countPin a sym s) := by
  unfold countPin
  try dsimp only
  repeat' (first | (with_reducible assumption) | (with_reducible exact fun _ => rfl) | (with_reducible rfl) | intro _ | (with_reducible apply modCtl_frame) | (with_reducible apply syncEvents_frame) | (with_reducible apply ite_frame))

theorem noteCorrected_frame (z : State) (a pos : Nat) (v : Byte) (syn : BitVec 32) (s : State) (h : HomeFrame z s) : HomeFrame z (noteCorrected a pos v syn s) := by
  unfold noteCorrected
  try dsimp only
  repeat' (first | (with_reducible assumption) | (with_reducible exact fun _ => rfl) | (with_reducible rfl) | intro _ | (with_reducible apply modCtl_frame) | (with_reducible apply logErr_frame) | (with_reducible apply countPage_frame) | (with_reducible apply countPin_frame) | (with_reducible apply ite_frame))

theorem noteUncorrectable_frame (z : State) (a : Nat) (syn : BitVec 32) (s : State) (h : HomeFrame z s) : HomeFrame z (noteUncorrectable a syn s) := by
  unfold noteUncorrectable
  try dsimp only
  repeat' (first | (with_reducible assumption) | (with_reducible exact fun _ => rfl) | (with_reducible rfl) | intro _ | (with_reducible apply modCtl_frame) | (with_reducible apply logErr_frame) | (with_reducible apply stackLoss_frame) | (with_reducible apply retirePage_frame) | (with_reducible apply ite_frame))

theorem countRd_frame (z : State) (a : Nat) (s : State) (h : HomeFrame z s) : HomeFrame z (countRd a s) := by
  unfold countRd
  try dsimp only
  repeat' (first | (with_reducible assumption) | (with_reducible exact fun _ => rfl) | (with_reducible rfl) | intro _ | (with_reducible apply modCtl_frame))

theorem countWr_frame (z : State) (a : Nat) (s : State) (h : HomeFrame z s) : HomeFrame z (countWr a s) := by
  unfold countWr
  try dsimp only
  repeat' (first | (with_reducible assumption) | (with_reducible exact fun _ => rfl) | (with_reducible rfl) | intro _ | (with_reducible apply modCtl_frame))

theorem storeSector_frame (z : State) (a : Nat) (v : SectorVal) (s : State) (h : HomeFrame z s) : HomeFrame z (storeSector a v s) := by
  unfold storeSector
  try dsimp only
  repeat' (first | (with_reducible assumption) | (with_reducible exact fun _ => rfl) | (with_reducible rfl) | intro _ | (with_reducible apply setMemSector_frame) | (with_reducible apply setChk_frame) | (with_reducible apply countWr_frame))

theorem copyRead_frame (z : State) (c : Nat) (s : State) (h : HomeFrame z s) : HomeFrame z (copyRead c s).2.2 := by
  unfold copyRead
  try dsimp only
  repeat' (first | (with_reducible assumption) | (with_reducible exact fun _ => rfl) | (with_reducible rfl) | intro _ | (with_reducible apply noteCorrected_frame) | (with_reducible apply countRd_frame) | (with_reducible apply ite_frame) | (with_reducible apply ite_frame_snd) | (with_reducible apply ite_frame_thd) | split)

theorem stackRead_frame (z : State) (a : Nat) (s : State) (h : HomeFrame z s) : HomeFrame z (stackRead a s).2 := by
  unfold stackRead
  try dsimp only
  repeat' (first | (with_reducible assumption) | (with_reducible exact fun _ => rfl) | (with_reducible rfl) | intro _ | (with_reducible apply modCtl_frame) | (with_reducible apply logErr_frame) | (with_reducible apply countPage_frame) | (with_reducible apply noteCorrected_frame) | (with_reducible apply noteUncorrectable_frame) | (with_reducible apply countRd_frame) | (with_reducible apply storeSector_frame) | (with_reducible apply copyRead_frame) | (with_reducible apply ite_frame) | (with_reducible apply ite_frame_snd) | (with_reducible apply ite_frame_thd) | split)

theorem drainSector_frame (z : State) (e : WcbEntry) (k : Nat) (s : State) (h : HomeFrame z s) : HomeFrame z (drainSector e k s) := by
  unfold drainSector
  try dsimp only
  repeat' (first | (with_reducible assumption) | (with_reducible exact fun _ => rfl) | (with_reducible rfl) | intro _ | (with_reducible apply modCtl_frame) | (with_reducible apply storeSector_frame) | (with_reducible apply stackRead_frame) | (with_reducible apply ite_frame))

theorem drainEntry_frame (z : State) (n : Nat) (e : WcbEntry) (s : State) (h : HomeFrame z s) : HomeFrame z (drainEntry n e s) := by
  unfold drainEntry
  try dsimp only
  repeat' (first | (with_reducible assumption) | (with_reducible exact fun _ => rfl) | (with_reducible rfl) | intro _ | (with_reducible apply modCtl_frame) | (with_reducible apply forEach_frame) | (with_reducible apply drainSector_frame))

theorem drainOldest_frame (z : State) (n : Nat) (s : State) (h : HomeFrame z s) : HomeFrame z (drainOldest n s) := by
  unfold drainOldest
  try dsimp only
  repeat' (first | (with_reducible assumption) | (with_reducible exact fun _ => rfl) | (with_reducible rfl) | intro _ | (with_reducible apply drainEntry_frame) | (with_reducible apply ite_frame) | (with_reducible apply ite_frame_snd) | (with_reducible apply ite_frame_thd) | split)

theorem drainDown_frame (z : State) (n : Nat) (s : State) (h : HomeFrame z s) : HomeFrame z (drainDown n s) := by
  unfold drainDown
  try dsimp only
  repeat' (first | (with_reducible assumption) | (with_reducible exact fun _ => rfl) | (with_reducible rfl) | intro _ | (with_reducible apply forEach_frame) | (with_reducible apply drainOldest_frame) | (with_reducible apply ite_frame))

theorem ctlWrite_frame (z : State) (a : Nat) (en : BitVec 32) (v : SectorVal) (s : State) (h : HomeFrame z s) : HomeFrame z (ctlWrite a en v s) := by
  unfold ctlWrite
  try dsimp only
  repeat' (first | (with_reducible assumption) | (with_reducible exact fun _ => rfl) | (with_reducible rfl) | intro _ | (with_reducible apply modCtl_frame) | (with_reducible apply drainEntry_frame) | (with_reducible apply drainOldest_frame) | (with_reducible apply drainDown_frame) | (with_reducible apply ite_frame) | (with_reducible apply ite_frame_snd) | (with_reducible apply ite_frame_thd) | split)

theorem ctlRead_frame (z : State) (a : Nat) (s : State) (h : HomeFrame z s) : HomeFrame z (ctlRead a s).2 := by
  unfold ctlRead
  try dsimp only
  repeat' (first | (with_reducible assumption) | (with_reducible exact fun _ => rfl) | (with_reducible rfl) | intro _ | (with_reducible apply stackRead_frame) | (with_reducible apply ite_frame) | (with_reducible apply ite_frame_snd) | (with_reducible apply ite_frame_thd) | split)

theorem strike_frame (z : State) (a : Nat) (e : WordErr) (s : State) (h : HomeFrame z s) : HomeFrame z (strike a e s) := by
  unfold strike
  try dsimp only
  repeat' (first | (with_reducible assumption) | (with_reducible exact fun _ => rfl) | (with_reducible rfl) | intro _ | (with_reducible apply setMemSector_frame) | (with_reducible apply setChk_frame) | (with_reducible apply ite_frame))

theorem drainMarked_frame (z : State) (n : Nat) (s : State) (h : HomeFrame z s) : HomeFrame z (drainMarked n s) := by
  unfold drainMarked
  try dsimp only
  repeat' (first | (with_reducible assumption) | (with_reducible exact fun _ => rfl) | (with_reducible rfl) | intro _ | (with_reducible apply forEach_frame) | (with_reducible apply drainEntry_frame))

theorem drainLine_frame (z : State) (line : Nat) (s : State) (h : HomeFrame z s) : HomeFrame z (drainLine line s) := by
  unfold drainLine
  try dsimp only
  repeat' (first | (with_reducible assumption) | (with_reducible exact fun _ => rfl) | (with_reducible rfl) | intro _ | (with_reducible apply drainEntry_frame) | (with_reducible apply ite_frame) | (with_reducible apply ite_frame_snd) | (with_reducible apply ite_frame_thd) | split)

theorem writeSectors_frame (z : State) (l : Nat) (secs : List Sector) (pick : Nat → Sector → Bool) (s : State) (h : HomeFrame z s) : HomeFrame z (writeSectors l secs pick s) := by
  unfold writeSectors
  try dsimp only
  repeat' (first | (with_reducible assumption) | (with_reducible exact fun _ => rfl) | (with_reducible rfl) | intro _ | (with_reducible apply forEach_frame) | (with_reducible apply ctlWrite_frame) | (with_reducible apply ite_frame) | (with_reducible apply ite_frame_snd) | (with_reducible apply ite_frame_thd) | split)

theorem evbDrain_frame (z : State) (n : Nat) (s : State) (h : HomeFrame z s) : HomeFrame z (evbDrain n s) := by
  unfold evbDrain
  try dsimp only
  repeat' (first | (with_reducible assumption) | (with_reducible exact fun _ => rfl) | (with_reducible rfl) | intro _ | (with_reducible apply modHome_frame) | (with_reducible apply writeSectors_frame) | (with_reducible apply ite_frame) | (with_reducible apply ite_frame_snd) | (with_reducible apply ite_frame_thd) | split)

theorem evbDrainThrough_frame (z : State) (n l : Nat) (s : State) (h : HomeFrame z s) : HomeFrame z (evbDrainThrough n l s) := by
  unfold evbDrainThrough
  try dsimp only
  repeat' (first | (with_reducible assumption) | (with_reducible exact fun _ => rfl) | (with_reducible rfl) | intro _ | (with_reducible apply forEach_frame) | (with_reducible apply evbDrain_frame))

theorem dropForeign_frame (z : State) (n l : Nat) (s : State) (h : HomeFrame z s) : HomeFrame z (dropForeign n l s) := by
  unfold dropForeign
  try dsimp only
  repeat' (first | (with_reducible assumption) | (with_reducible exact fun _ => rfl) | (with_reducible rfl) | intro _ | (with_reducible apply modHome_frame) | (with_reducible apply ite_frame) | (with_reducible apply ite_frame_snd) | (with_reducible apply ite_frame_thd) | split)

theorem pxDrop_frame (z : State) (die l : Nat) (s : State) (h : HomeFrame z s) : HomeFrame z (pxDrop die l s) := by
  unfold pxDrop
  try dsimp only
  repeat' (first | (with_reducible assumption) | (with_reducible exact fun _ => rfl) | (with_reducible rfl) | intro _ | (with_reducible apply modPx_frame))

theorem countSnoops_frame (z : State) (n k : Nat) (s : State) (h : HomeFrame z s) : HomeFrame z (countSnoops n k s) := by
  unfold countSnoops
  try dsimp only
  repeat' (first | (with_reducible assumption) | (with_reducible exact fun _ => rfl) | (with_reducible rfl) | intro _ | (with_reducible apply modHome_frame))

theorem takeDirty_frame (z : State) (n l : Nat) (secs : List Sector) (s : State) (h : HomeFrame z s) : HomeFrame z (takeDirty n l secs s) := by
  unfold takeDirty
  try dsimp only
  repeat' (first | (with_reducible assumption) | (with_reducible exact fun _ => rfl) | (with_reducible rfl) | intro _ | (with_reducible apply modHome_frame) | (with_reducible apply writeSectors_frame) | (with_reducible apply evbDrainThrough_frame) | (with_reducible apply ite_frame))

theorem dirRoom_frame (z : State) (n l : Nat) (s : State) (h : HomeFrame z s) : HomeFrame z (dirRoom n l s) := by
  unfold dirRoom
  try dsimp only
  repeat' (first | (with_reducible assumption) | (with_reducible exact fun _ => rfl) | (with_reducible rfl) | intro _ | (with_reducible apply draw_frame) | (with_reducible apply modHome_frame) | (with_reducible apply dropForeign_frame) | (with_reducible apply pxDrop_frame) | (with_reducible apply countSnoops_frame) | (with_reducible apply takeDirty_frame) | (with_reducible apply ite_frame) | (with_reducible apply ite_frame_snd) | (with_reducible apply ite_frame_thd) | split)

theorem offer_frame (z : State) (n l : Nat) (x : Line) (s : State) (h : HomeFrame z s) : HomeFrame z (offer n l x s) := by
  unfold offer
  try dsimp only
  repeat' (first | (with_reducible assumption) | (with_reducible exact fun _ => rfl) | (with_reducible rfl) | intro _ | (with_reducible apply modHome_frame) | (with_reducible apply dropForeign_frame) | (with_reducible apply dirRoom_frame) | (with_reducible apply ite_frame) | (with_reducible apply ite_frame_snd) | (with_reducible apply ite_frame_thd) | split)

theorem evict_frame (z : State) (n l : Nat) (s : State) (h : HomeFrame z s) : HomeFrame z (evict n l s) := by
  unfold evict
  try dsimp only
  repeat' (first | (with_reducible assumption) | (with_reducible exact fun _ => rfl) | (with_reducible rfl) | intro _ | (with_reducible apply modHome_frame) | (with_reducible apply evbDrain_frame) | (with_reducible apply offer_frame) | (with_reducible apply ite_frame) | (with_reducible apply ite_frame_snd) | (with_reducible apply ite_frame_thd) | split)

theorem allocLine_frame (z : State) (n l : Nat) (s : State) (h : HomeFrame z s) : HomeFrame z (allocLine n l s) := by
  unfold allocLine
  try dsimp only
  repeat' (first | (with_reducible assumption) | (with_reducible exact fun _ => rfl) | (with_reducible rfl) | intro _ | (with_reducible apply modHome_frame) | (with_reducible apply evict_frame) | (with_reducible apply ite_frame) | (with_reducible apply ite_frame_snd) | (with_reducible apply ite_frame_thd) | split)

theorem touch_frame (z : State) (n l : Nat) (least : Bool) (s : State) (h : HomeFrame z s) : HomeFrame z (touch n l least s) := by
  unfold touch
  try dsimp only
  repeat' (first | (with_reducible assumption) | (with_reducible exact fun _ => rfl) | (with_reducible rfl) | intro _ | (with_reducible apply modHome_frame))

theorem putSector_frame (z : State) (n l k : Nat) (x : Sector) (s : State) (h : HomeFrame z s) : HomeFrame z (putSector n l k x s) := by
  unfold putSector
  try dsimp only
  repeat' (first | (with_reducible assumption) | (with_reducible exact fun _ => rfl) | (with_reducible rfl) | intro _ | (with_reducible apply modHome_frame))

theorem countMoved_frame (z : State) (r : Requester) (k : Nat) (s : State) (h : HomeFrame z s) : HomeFrame z (countMoved r k s) := by
  unfold countMoved
  try dsimp only
  repeat' (first | (with_reducible assumption) | (with_reducible exact fun _ => rfl) | (with_reducible rfl) | intro _ | (with_reducible apply modSb_frame))

theorem takeBack_frame (z : State) (n l : Nat) (s : State) (h : HomeFrame z s) : HomeFrame z (takeBack n l s) := by
  unfold takeBack
  try dsimp only
  repeat' (first | (with_reducible assumption) | (with_reducible exact fun _ => rfl) | (with_reducible rfl) | intro _ | (with_reducible apply modHome_frame) | (with_reducible apply dropForeign_frame) | (with_reducible apply allocLine_frame) | (with_reducible apply ite_frame) | (with_reducible apply ite_frame_snd) | (with_reducible apply ite_frame_thd) | split)

theorem fillLine_frame (z : State) (r : Requester) (n l : Nat) (rg : Region) (mask : BitVec 4) (s : State) (h : HomeFrame z s) : HomeFrame z (fillLine r n l rg mask s) := by
  unfold fillLine
  try dsimp only
  repeat' (first | (with_reducible assumption) | (with_reducible exact fun _ => rfl) | (with_reducible rfl) | intro _ | (with_reducible apply forEach_frame) | (with_reducible apply ctlRead_frame) | (with_reducible apply putSector_frame) | (with_reducible apply countMoved_frame) | (with_reducible apply ite_frame) | (with_reducible apply ite_frame_snd) | (with_reducible apply ite_frame_thd) | split)

theorem countHeavy_frame (z : State) (n l : Nat) (hit : Bool) (s : State) (h : HomeFrame z s) : HomeFrame z (countHeavy n l hit s) := by
  unfold countHeavy
  try dsimp only
  repeat' (first | (with_reducible assumption) | (with_reducible exact fun _ => rfl) | (with_reducible rfl) | intro _ | (with_reducible apply modHome_frame) | (with_reducible apply ite_frame))

theorem countAccess_frame (z : State) (n l : Nat) (hit : Bool) (s : State) (h : HomeFrame z s) : HomeFrame z (countAccess n l hit s) := by
  unfold countAccess
  try dsimp only
  repeat' (first | (with_reducible assumption) | (with_reducible exact fun _ => rfl) | (with_reducible rfl) | intro _ | (with_reducible apply modHome_frame) | (with_reducible apply countHeavy_frame))

theorem enterQueue_frame (z : State) (n l : Nat) (s : State) (h : HomeFrame z s) : HomeFrame z (enterQueue n l s) := by
  unfold enterQueue
  try dsimp only
  repeat' (first | (with_reducible assumption) | (with_reducible exact fun _ => rfl) | (with_reducible rfl) | intro _ | (with_reducible apply draw_frame) | (with_reducible apply modHome_frame) | (with_reducible apply ite_frame))

theorem sendSnoop_frame (z : State) (n l die : Nat) (kind : SnoopKind) (r : Requester) (store : Bool) (s : State) (h : HomeFrame z s) : HomeFrame z (sendSnoop n l die kind r store s) := by
  unfold sendSnoop
  try dsimp only
  repeat' (first | (with_reducible assumption) | (with_reducible exact fun _ => rfl) | (with_reducible rfl) | intro _ | (with_reducible apply modHome_frame))

theorem readClear_frame (z : State) (n l : Nat) (r : Requester) (s : State) (h : HomeFrame z s) : HomeFrame z (readClear n l r s).2 := by
  unfold readClear
  try dsimp only
  repeat' (first | (with_reducible assumption) | (with_reducible exact fun _ => rfl) | (with_reducible rfl) | intro _ | (with_reducible apply sendSnoop_frame) | (with_reducible apply ite_frame) | (with_reducible apply ite_frame_snd) | (with_reducible apply ite_frame_thd) | split)

theorem lineClear_frame (z : State) (store : Bool) (n l : Nat) (r : Requester) (s : State) (h : HomeFrame z s) : HomeFrame z (lineClear store n l r s).2 := by
  unfold lineClear
  try dsimp only
  repeat' (first | (with_reducible assumption) | (with_reducible exact fun _ => rfl) | (with_reducible rfl) | intro _ | (with_reducible apply dropForeign_frame) | (with_reducible apply sendSnoop_frame) | (with_reducible apply ite_frame) | (with_reducible apply ite_frame_snd) | (with_reducible apply ite_frame_thd) | split)

theorem writeClear_frame (z : State) (n l : Nat) (r : Requester) (s : State) (h : HomeFrame z s) : HomeFrame z (writeClear n l r s).2 := by
  unfold writeClear
  try dsimp only
  repeat' (first | (with_reducible assumption) | (with_reducible exact fun _ => rfl) | (with_reducible rfl) | intro _ | (with_reducible apply lineClear_frame))

theorem countRad_frame (z : State) (n l : Nat) (s : State) (h : HomeFrame z s) : HomeFrame z (countRad n l s) := by
  unfold countRad
  try dsimp only
  repeat' (first | (with_reducible assumption) | (with_reducible exact fun _ => rfl) | (with_reducible rfl) | intro _ | (with_reducible apply modHome_frame))

theorem bypassRead_frame (z : State) (r : Requester) (n l : Nat) (rg : Region) (mask : BitVec 4) (s : State) (h : HomeFrame z s) : HomeFrame z (bypassRead r n l rg mask s).2 := by
  unfold bypassRead
  try dsimp only
  repeat' (first | (with_reducible assumption) | (with_reducible exact fun _ => rfl) | (with_reducible rfl) | intro _ | (with_reducible apply foldl_frame) | (with_reducible apply modHome_frame) | (with_reducible apply ctlRead_frame) | (with_reducible apply countMoved_frame) | (with_reducible apply foldl_frame) | (with_reducible apply foldl_frame_snd) | (with_reducible apply ite_frame) | (with_reducible apply ite_frame_snd))

theorem homeReadLine_frame (z : State) (r : Requester) (l : Nat) (mask : BitVec 4) (rg : Region) (s : State) (h : HomeFrame z s) : HomeFrame z (homeReadLine r l mask rg s).2 := by
  unfold homeReadLine
  try dsimp only
  repeat' (first | (with_reducible assumption) | (with_reducible exact fun _ => rfl) | (with_reducible rfl) | intro _ | (with_reducible apply foldl_frame) | (with_reducible apply draw_frame) | (with_reducible apply modHome_frame) | (with_reducible apply ctlRead_frame) | (with_reducible apply allocLine_frame) | (with_reducible apply touch_frame) | (with_reducible apply countMoved_frame) | (with_reducible apply takeBack_frame) | (with_reducible apply fillLine_frame) | (with_reducible apply countAccess_frame) | (with_reducible apply enterQueue_frame) | (with_reducible apply readClear_frame) | (with_reducible apply countRad_frame) | (with_reducible apply bypassRead_frame) | (with_reducible apply foldl_frame) | (with_reducible apply foldl_frame_snd) | (with_reducible apply ite_frame) | (with_reducible apply ite_frame_snd) | (with_reducible apply ite_frame_thd) | split)

theorem memWrite_frame (z : State) (r : Requester) (rg : Region) (pa : Nat) (en : BitVec 32) (v : SectorVal) (s : State) (h : HomeFrame z s) : HomeFrame z (memWrite r rg pa en v s) := by
  unfold memWrite
  try dsimp only
  repeat' (first | (with_reducible assumption) | (with_reducible exact fun _ => rfl) | (with_reducible rfl) | intro _ | (with_reducible apply ctlWrite_frame) | (with_reducible apply countMoved_frame) | (with_reducible apply ite_frame))

theorem homeWriteSector_frame (z : State) (r : Requester) (pa : Nat) (en : BitVec 32) (v : SectorVal) (rg : Region) (s : State) (h : HomeFrame z s) : HomeFrame z (homeWriteSector r pa en v rg s).2 := by
  unfold homeWriteSector
  try dsimp only
  repeat' (first | (with_reducible assumption) | (with_reducible exact fun _ => rfl) | (with_reducible rfl) | intro _ | (with_reducible apply modHome_frame) | (with_reducible apply evbDrainThrough_frame) | (with_reducible apply allocLine_frame) | (with_reducible apply touch_frame) | (with_reducible apply putSector_frame) | (with_reducible apply fillLine_frame) | (with_reducible apply countHeavy_frame) | (with_reducible apply countAccess_frame) | (with_reducible apply enterQueue_frame) | (with_reducible apply writeClear_frame) | (with_reducible apply memWrite_frame) | (with_reducible apply ite_frame) | (with_reducible apply ite_frame_snd) | (with_reducible apply ite_frame_thd) | split)

theorem homeAtomicOp_frame (z : State) (r : Requester) (op : AtOp) (wide : Bool) (pa : Nat) (os : List AtOperand) (rg : Region) (s : State) (h : HomeFrame z s) : HomeFrame z (homeAtomicOp r op wide pa os rg s).2 := by
  unfold homeAtomicOp
  try dsimp only
  repeat' (first | (with_reducible assumption) | (with_reducible exact fun _ => rfl) | (with_reducible rfl) | intro _ | (with_reducible apply modHome_frame) | (with_reducible apply evbDrainThrough_frame) | (with_reducible apply allocLine_frame) | (with_reducible apply touch_frame) | (with_reducible apply putSector_frame) | (with_reducible apply takeBack_frame) | (with_reducible apply fillLine_frame) | (with_reducible apply countAccess_frame) | (with_reducible apply enterQueue_frame) | (with_reducible apply lineClear_frame) | (with_reducible apply countRad_frame) | (with_reducible apply memWrite_frame) | (with_reducible apply ite_frame) | (with_reducible apply ite_frame_snd) | (with_reducible apply ite_frame_thd) | split)

theorem homeDead_frame (z : State) (l : Nat) (rg : Region) (s : State) (h : HomeFrame z s) : HomeFrame z (homeDead l rg s) := by
  unfold homeDead
  try dsimp only
  repeat' (first | (with_reducible assumption) | (with_reducible exact fun _ => rfl) | (with_reducible rfl) | intro _ | (with_reducible apply modHome_frame) | (with_reducible apply dropForeign_frame) | (with_reducible apply enterQueue_frame) | (with_reducible apply ite_frame))

theorem pinFetch_frame (z : State) (n l : Nat) (rg : Region) (s : State) (h : HomeFrame z s) : HomeFrame z (pinFetch n l rg s).2 := by
  unfold pinFetch
  try dsimp only
  repeat' (first | (with_reducible assumption) | (with_reducible exact fun _ => rfl) | (with_reducible rfl) | intro _ | (with_reducible apply evbDrainThrough_frame) | (with_reducible apply allocLine_frame) | (with_reducible apply takeBack_frame) | (with_reducible apply fillLine_frame) | (with_reducible apply countAccess_frame) | (with_reducible apply enterQueue_frame) | (with_reducible apply readClear_frame) | (with_reducible apply ite_frame) | (with_reducible apply ite_frame_snd))

theorem markPinned_frame (z : State) (n l : Nat) (s : State) (h : HomeFrame z s) : HomeFrame z (markPinned n l s) := by
  unfold markPinned
  try dsimp only
  repeat' (first | (with_reducible assumption) | (with_reducible exact fun _ => rfl) | (with_reducible rfl) | intro _ | (with_reducible apply modHome_frame))

theorem pinLine_frame (z : State) (cmd l : Nat) (s : State) (h : HomeFrame z s) : HomeFrame z (pinLine cmd l s) := by
  unfold pinLine
  try dsimp only
  repeat' (first | (with_reducible assumption) | (with_reducible exact fun _ => rfl) | (with_reducible rfl) | intro _ | (with_reducible apply modHome_frame) | (with_reducible apply evbDrainThrough_frame) | (with_reducible apply allocLine_frame) | (with_reducible apply pinFetch_frame) | (with_reducible apply markPinned_frame) | (with_reducible apply ite_frame) | (with_reducible apply ite_frame_snd) | (with_reducible apply ite_frame_thd) | split)

theorem settlePins_frame (z : State) (n : Nat) (s : State) (h : HomeFrame z s) : HomeFrame z (settlePins n s) := by
  unfold settlePins
  try dsimp only
  repeat' (first | (with_reducible assumption) | (with_reducible exact fun _ => rfl) | (with_reducible rfl) | intro _ | (with_reducible apply modHome_frame) | (with_reducible apply forEach_frame) | (with_reducible apply finishCmd_frame) | (with_reducible apply pinFetch_frame) | (with_reducible apply ite_frame) | (with_reducible apply ite_frame_snd) | (with_reducible apply ite_frame_thd) | split)

theorem unpinLine_frame (z : State) (l : Nat) (s : State) (h : HomeFrame z s) : HomeFrame z (unpinLine l s) := by
  unfold unpinLine
  try dsimp only
  repeat' (first | (with_reducible assumption) | (with_reducible exact fun _ => rfl) | (with_reducible rfl) | intro _ | (with_reducible apply modHome_frame) | (with_reducible apply writeSectors_frame) | (with_reducible apply ite_frame) | (with_reducible apply ite_frame_snd) | (with_reducible apply ite_frame_thd) | split)

theorem cleanLine_frame (z : State) (n l : Nat) (s : State) (h : HomeFrame z s) : HomeFrame z (cleanLine n l s) := by
  unfold cleanLine
  try dsimp only
  repeat' (first | (with_reducible assumption) | (with_reducible exact fun _ => rfl) | (with_reducible rfl) | intro _ | (with_reducible apply modHome_frame) | (with_reducible apply writeSectors_frame) | (with_reducible apply evbDrainThrough_frame) | (with_reducible apply ite_frame) | (with_reducible apply ite_frame_snd) | (with_reducible apply ite_frame_thd) | split)

theorem flushRegion_frame (z : State) (rg : Region) (s : State) (h : HomeFrame z s) : HomeFrame z (flushRegion rg s) := by
  unfold flushRegion
  try dsimp only
  repeat' (first | (with_reducible assumption) | (with_reducible exact fun _ => rfl) | (with_reducible rfl) | intro _ | (with_reducible apply forEach_frame) | (with_reducible apply cleanLine_frame))

theorem discardRegionLines_frame (z : State) (rg : Region) (s : State) (h : HomeFrame z s) : HomeFrame z (discardRegionLines rg s) := by
  unfold discardRegionLines
  try dsimp only
  repeat' (first | (with_reducible assumption) | (with_reducible exact fun _ => rfl) | (with_reducible rfl) | intro _ | (with_reducible apply modHome_frame) | (with_reducible apply forEach_frame) | (with_reducible apply finishCmd_frame) | (with_reducible apply ite_frame) | (with_reducible apply ite_frame_snd) | (with_reducible apply ite_frame_thd) | split | (with_reducible refine HomeFrame.ofSnd (by assumption) ?_) | (with_reducible refine HomeFrame.ofThd (by assumption) ?_) | (fail_if_no_progress refine homeFrame_mk rfl rfl rfl rfl rfl rfl ?_))

theorem clearLines_frame (z : State) (store : Bool) (r : Requester) (ls : List Nat) (s : State) (h : HomeFrame z s) : HomeFrame z (clearLines store r ls s).2 := by
  unfold clearLines
  try dsimp only
  repeat' (first | (with_reducible assumption) | (with_reducible exact fun _ => rfl) | (with_reducible rfl) | intro _ | (with_reducible apply lineClear_frame) | (with_reducible apply foldl_frame) | (with_reducible apply foldl_frame_snd) | (with_reducible apply ite_frame) | (with_reducible apply ite_frame_snd) | (with_reducible apply ite_frame_thd) | split)

theorem clearAll_frame (z : State) (r : Requester) (ls : List Nat) (s : State) (h : HomeFrame z s) : HomeFrame z (clearAll r ls s).2 := by
  unfold clearAll
  try dsimp only
  repeat' (first | (with_reducible assumption) | (with_reducible exact fun _ => rfl) | (with_reducible rfl) | intro _ | (with_reducible apply clearLines_frame))

theorem clearVoided_frame (z : State) (r : Requester) (ls : List Nat) (s : State) (h : HomeFrame z s) : HomeFrame z (clearVoided r ls s) := by
  unfold clearVoided
  try dsimp only
  repeat' (first | (with_reducible assumption) | (with_reducible exact fun _ => rfl) | (with_reducible rfl) | intro _ | (with_reducible apply modHome_frame) | (with_reducible apply forEach_frame) | (with_reducible apply ite_frame) | (with_reducible apply ite_frame_snd) | (with_reducible apply ite_frame_thd) | split)

theorem homeReadLines_frame (z : State) (r : Requester) (xs : List (Nat × BitVec 4)) (s : State) (h : HomeFrame z s) : HomeFrame z (homeReadLines r xs s).2 := by
  induction xs generalizing s with
  | nil => exact h
  | cons x t ih =>
    obtain ⟨l, m⟩ := x
    unfold homeReadLines
    dsimp only
    split
    · exact ih s h
    · have k := fun g => homeReadLine_frame z r l m g s h
      split
      · exact k _
      · exact ih _ (k _)
theorem homeReadBytes_frame (z : State) (r : Requester) (a n : Nat) (s : State) (h : HomeFrame z s) : HomeFrame z (homeReadBytes r a n s).2 := by
  unfold homeReadBytes
  try dsimp only
  repeat' (first | (with_reducible assumption) | (with_reducible exact fun _ => rfl) | (with_reducible rfl) | intro _ | (with_reducible apply homeReadLines_frame))

theorem modPh_frame (z : State) (n : Nat) (f : Pigeonhole → Pigeonhole) (s : State) (h : HomeFrame z s) : HomeFrame z (modPh n f s) := by
  unfold modPh
  try dsimp only
  repeat' (first | (with_reducible assumption) | (with_reducible exact fun _ => rfl) | (with_reducible rfl) | intro _ | (with_reducible apply modInnk_frame))

theorem sealReport_frame (z : State) (n slot : Nat) (wide : Bool) (v : Word) (s : State) (h : HomeFrame z s) : HomeFrame z (sealReport n slot wide v s) := by
  unfold sealReport
  try dsimp only
  repeat' (first | (with_reducible assumption) | (with_reducible exact fun _ => rfl) | (with_reducible rfl) | intro _ | (with_reducible apply modPh_frame) | (with_reducible apply ite_frame))

theorem cqReport_frame (z : State) (n : Nat) (wide : Bool) (v : Word) (s : State) (h : HomeFrame z s) : HomeFrame z (cqReport n wide v s) := by
  unfold cqReport
  try dsimp only
  repeat' (first | (with_reducible assumption) | (with_reducible exact fun _ => rfl) | (with_reducible rfl) | intro _ | (with_reducible apply modPh_frame) | (with_reducible apply ite_frame))

theorem reportWord_frame (z : State) (w : Nat) (wide : Bool) (v : Word) (s : State) (h : HomeFrame z s) : HomeFrame z (reportWord w wide v s) := by
  unfold reportWord
  try dsimp only
  repeat' (first | (with_reducible assumption) | (with_reducible exact fun _ => rfl) | (with_reducible rfl) | intro _ | (with_reducible apply sealReport_frame) | (with_reducible apply cqReport_frame) | (with_reducible apply ite_frame) | (with_reducible apply ite_frame_snd) | (with_reducible apply ite_frame_thd) | split)

theorem reportWrite_frame (z : State) (a : Nat) (bs : List Byte) (gone : List Nat) (s : State) (h : HomeFrame z s) : HomeFrame z (reportWrite a bs gone s) := by
  unfold reportWrite
  try dsimp only
  repeat' (first | (with_reducible assumption) | (with_reducible exact fun _ => rfl) | (with_reducible rfl) | intro _ | (with_reducible apply forEach_frame) | (with_reducible apply reportWord_frame) | (with_reducible apply ite_frame))

theorem homeWriteBytes_frame (z : State) (r : Requester) (a : Nat) (bs : List Byte) (s : State) (h : HomeFrame z s) : HomeFrame z (homeWriteBytes r a bs s).2 := by
  unfold homeWriteBytes
  try dsimp only
  repeat' (first | (with_reducible assumption) | (with_reducible exact fun _ => rfl) | (with_reducible rfl) | intro _ | (with_reducible apply forEach_frame) | (with_reducible apply homeWriteSector_frame) | (with_reducible apply clearAll_frame) | (with_reducible apply clearVoided_frame) | (with_reducible apply reportWrite_frame) | (with_reducible apply ite_frame) | (with_reducible apply ite_frame_snd) | (with_reducible apply ite_frame_thd) | split)

theorem reportSector_frame (z : State) (a : Nat) (en : BitVec 32) (d : BitVec 256) (s : State) (h : HomeFrame z s) : HomeFrame z (reportSector a en d s) := by
  unfold reportSector
  try dsimp only
  repeat' (first | (with_reducible assumption) | (with_reducible exact fun _ => rfl) | (with_reducible rfl) | intro _ | (with_reducible apply forEach_frame) | (with_reducible apply reportWord_frame) | (with_reducible apply ite_frame))

end Sys2Proof.Machine
end

