-- ==== Sys2Proof/Laws/Invariant.lean ====
section
/-! SUPPORT. The invariant of Safety.lean: what keeps it. A lemma f_inv says that f keeps the invariant. -/

namespace Sys2Proof.Machine

/-- What has the same memory and the same logs has the invariant too. -/
theorem Inv.same {s t : State} (h : Inv s) (m : t.mem = s.mem) (c : t.chkXor = s.chkXor) (e : t.errs = s.errs) (n : t.errSeq = s.errSeq)
    (r : t.ldg.records = s.ldg.records) (x : t.ldg.next = s.ldg.next) : Inv t :=
  ⟨by rw [m]; exact h.mem, by rw [c]; exact h.chk, by rw [e]; exact h.errLen, by rw [e, n]; exact h.errSeq, by rw [r]; exact h.recLen,
   by rw [r, x]; exact h.recSeq⟩

/-- A pair that a match has taken apart. -/
theorem Inv.ofSnd {α : Type} {p : α × State} {a : α} {t : State} (e : p = (a, t)) (h : Inv p.2) : Inv t := by subst e; exact h
theorem Inv.ofThd {α β : Type} {p : α × β × State} {a : α} {b : β} {t : State} (e : p = (a, b, t)) (h : Inv p.2.2) : Inv t := by subst e; exact h
theorem Inv.ofEq {s t : State} (e : s = t) (h : Inv s) : Inv t := e ▸ h

/-- The same for a state written out. -/
theorem inv_mk {s : State} {variant : Variant} {stg : Stage} {ldg : Ledger} {errs : List ErrRec} {errSeq : Nat} {innk : Innkeeper} {itins : Tab (Option Itin)} {regions : List Region} {clusters : Tab Cluster} {homes : Tab Home} {ctls : Tab Ctl} {mem : List Host.Cell} {chkXor : Tab (BitVec 32)} {porters : Tab Porter} {ptrCfg : PtrCfgReg} {ptrCfgEff : PtrCfgReg} {px : Tab PxDie} {net : Net} {pwr : Power} {mdl : Module} {sec : Security} {sb : Sideband} {freeCtr : Nat} {pending : List Instr}
    (m : mem = s.mem) (c : chkXor = s.chkXor) (e : errs = s.errs) (n : errSeq = s.errSeq) (r : ldg.records = s.ldg.records)
    (x : ldg.next = s.ldg.next) (h : Inv s) :
    Inv (State.mk variant stg ldg errs errSeq innk itins regions clusters homes ctls mem chkXor porters ptrCfg ptrCfgEff px net pwr mdl sec sb freeCtr pending) :=
  h.same m c e n r x

theorem ite_inv {c : Prop} [Decidable c] {a b : State} (ha : Inv a) (hb : Inv b) : Inv (if c then a else b) := by split <;> assumption

theorem ite_inv_snd {α : Type} {c : Prop} [Decidable c] {a b : α × State} (ha : Inv a.2) (hb : Inv b.2) : Inv (if c then a else b).2 := by
  split <;> assumption
theorem ite_inv_thd {α β : Type} {c : Prop} [Decidable c] {a b : α × β × State} (ha : Inv a.2.2) (hb : Inv b.2.2) :
    Inv (if c then a else b).2.2 := by split <;> assumption

theorem forEach_inv {α : Type} {f : α → State → State} (h : ∀ x t, Inv t → Inv (f x t)) (xs : List α) {s : State} (hs : Inv s) :
    Inv (forEach xs f s) := by
  induction xs generalizing s with
  | nil => exact hs
  | cons x xs ih => exact ih (h x s hs)

theorem foldl_inv {α : Type} {f : State → α → State} (h : ∀ t x, Inv t → Inv (f t x)) (xs : List α) {s : State} (hs : Inv s) :
    Inv (xs.foldl f s) := by
  induction xs generalizing s with
  | nil => exact hs
  | cons x xs ih => exact ih (h s x hs)

theorem foldl_inv_snd {α β : Type} {f : β × State → α → β × State} (h : ∀ p x, Inv p.2 → Inv (f p x).2) (xs : List α) {p : β × State}
    (hp : Inv p.2) : Inv (xs.foldl f p).2 := by
  induction xs generalizing p with
  | nil => exact hp
  | cons x xs ih => exact ih (h p x hp)

/-- The queue is no part of the invariant. -/
theorem pending_inv (q : List Instr) {s : State} (h : Inv s) : Inv { s with pending := q } :=
  ⟨h.mem, h.chk, h.errLen, h.errSeq, h.recLen, h.recSeq⟩

theorem draw_inv (w : Nat) {s : State} (h : Inv s) : Inv (draw w s).2 := h.same rfl rfl rfl rfl rfl rfl
theorem modCluster_inv (id : Nat) (f : Cluster → Cluster) {s : State} (h : Inv s) : Inv (modCluster id f s) := h.same rfl rfl rfl rfl rfl rfl
theorem modCore_inv (a b : Nat) (f : Core → Core) {s : State} (h : Inv s) : Inv (modCore a b f s) := h.same rfl rfl rfl rfl rfl rfl
theorem modHome_inv (n : Nat) (f : Home → Home) {s : State} (h : Inv s) : Inv (modHome n f s) := h.same rfl rfl rfl rfl rfl rfl
theorem modCtl_inv (n : Nat) (f : Ctl → Ctl) {s : State} (h : Inv s) : Inv (modCtl n f s) := h.same rfl rfl rfl rfl rfl rfl
theorem modPorter_inv (n : Nat) (f : Porter → Porter) {s : State} (h : Inv s) : Inv (modPorter n f s) := h.same rfl rfl rfl rfl rfl rfl
theorem modPx_inv (n : Nat) (f : PxDie → PxDie) {s : State} (h : Inv s) : Inv (modPx n f s) := h.same rfl rfl rfl rfl rfl rfl
theorem setItin_inv (n : Nat) (v : Option Itin) {s : State} (h : Inv s) : Inv (setItin n v s) := h.same rfl rfl rfl rfl rfl rfl
theorem modItin_inv (n : Nat) (f : Itin → Itin) {s : State} (h : Inv s) : Inv (modItin n f s) := h.same rfl rfl rfl rfl rfl rfl
theorem modLeg_inv (n : Nat) (f : Leg → Leg) {s : State} (h : Inv s) : Inv (modLeg n f s) := h.same rfl rfl rfl rfl rfl rfl
theorem setCmd_inv (id : Nat) (v : Option Cmd) {s : State} (h : Inv s) : Inv (setCmd id v s) := h.same rfl rfl rfl rfl rfl rfl
theorem modCmd_inv (id : Nat) (f : Cmd → Cmd) {s : State} (h : Inv s) : Inv (modCmd id f s) := h.same rfl rfl rfl rfl rfl rfl
theorem modStg_inv (f : Stage → Stage) {s : State} (h : Inv s) : Inv (modStg f s) := h.same rfl rfl rfl rfl rfl rfl
theorem modInnk_inv (f : Innkeeper → Innkeeper) {s : State} (h : Inv s) : Inv (modInnk f s) := h.same rfl rfl rfl rfl rfl rfl
theorem modNet_inv (f : Net → Net) {s : State} (h : Inv s) : Inv (modNet f s) := h.same rfl rfl rfl rfl rfl rfl
theorem modSb_inv (f : Sideband → Sideband) {s : State} (h : Inv s) : Inv (modSb f s) := h.same rfl rfl rfl rfl rfl rfl
theorem modRegion_inv (b : Nat) (f : Region → Region) {s : State} (h : Inv s) : Inv (modRegion b f s) := h.same rfl rfl rfl rfl rfl rfl
theorem modLdg_inv (f : Ledger → Ledger) (hr : ∀ l, (f l).records = l.records) (hx : ∀ l, (f l).next = l.next) {s : State} (h : Inv s) :
    Inv (modLdg f s) := h.same rfl rfl rfl rfl (hr _) (hx _)

/-- Every operation on device memory keeps its canonical form. -/
theorem memoryWf_tabSet (a : Nat) (b : Byte) (m : List Host.Cell) (h : Memory.wf m = true) : Memory.wf (tabSet 0#8 m a b) = true :=
  tabWf_tabSet 0#8 m a b h

theorem setMemByte_inv (a : Nat) (b : Byte) {s : State} (h : Inv s) : Inv (setMemByte a b s) :=
  ⟨memoryWf_tabSet a b s.mem h.mem, h.chk, h.errLen, h.errSeq, h.recLen, h.recSeq⟩
theorem setMemSector_inv (a : Nat) (d : BitVec 256) {s : State} (h : Inv s) : Inv (setMemSector a d s) :=
  forEach_inv (fun _ _ h => setMemByte_inv _ _ h) _ h
theorem setChk_inv (a : Nat) (x : BitVec 32) {s : State} (h : Inv s) : Inv (setChk a x s) :=
  ⟨h.mem, tabWf_tabSet 0#32 s.chkXor (a / 32) x h.chk, h.errLen, h.errSeq, h.recLen, h.recSeq⟩

theorem countDown_take (l : List Nat) (n k : Nat) (h : countDown n l = true) : countDown n (l.take k) = true := by
  induction l generalizing n k with
  | nil => simp [countDown]
  | cons x t ih =>
    cases n with
    | zero => simp [countDown] at h
    | succ n =>
      cases k with
      | zero => simp [countDown]
      | succ k =>
        simp only [countDown, Bool.and_eq_true] at h
        simp only [List.take_succ_cons, countDown, Bool.and_eq_true]
        exact ⟨h.1, ih n k h.2⟩

theorem logErr_inv (r : ErrRec) {s : State} (h : Inv s) : Inv (logErr r s) := by
  unfold logErr
  dsimp only
  split
  · refine ⟨h.mem, h.chk, ?_, ?_, h.recLen, h.recSeq⟩
    · simpa using h.errLen
    · have e : ∀ l : List ErrRec, ∀ p : ErrRec → Bool,
          (l.map (fun x => if p x then { x with count := min (x.count + 1) 0xFFFF } else x)).map (·.seq) = l.map (·.seq) := by
        intro l p
        induction l with
        | nil => rfl
        | cons x t ih => simp only [List.map_cons, ih]; split <;> rfl
      simpa only [e] using h.errSeq
  · refine ⟨h.mem, h.chk, ?_, ?_, h.recLen, h.recSeq⟩
    · simp only [List.length_take]; exact Nat.min_le_left _ _
    · simp only [List.map_take]
      apply countDown_take
      simpa [countDown] using h.errSeq

end Sys2Proof.Machine
end

