-- ==== Sys2Proof/Laws/InvEvents.lean ====
section
/-! SUPPORT. The functions of Machine/Events.lean keep the invariant. -/

namespace Sys2Proof.Machine

theorem finishCmd_inv (id : Nat) (st : BitVec 16) (res : Nat) (s : State) (h : Inv s) : Inv (finishCmd id st res s) := by
  unfold finishCmd
  try dsimp only
  repeat' (first | (with_reducible assumption) | (with_reducible exact fun _ => rfl) | (with_reducible rfl) | intro _ | (with_reducible apply modInnk_inv) | (with_reducible apply setCmd_inv) | (with_reducible apply ite_inv) | (with_reducible apply ite_inv_snd) | (with_reducible apply ite_inv_thd) | split)

theorem waitCmd_inv (id : Nat) (s : State) (h : Inv s) : Inv (waitCmd id s) := by
  unfold waitCmd
  try dsimp only
  repeat' (first | (with_reducible assumption) | (with_reducible exact fun _ => rfl) | (with_reducible rfl) | intro _ | (with_reducible apply modCmd_inv))

theorem abortJobCmds_inv (job : Word) (res : Nat) (s : State) (h : Inv s) : Inv (abortJobCmds job res s) := by
  unfold abortJobCmds
  try dsimp only
  repeat' (first | (with_reducible assumption) | (with_reducible exact fun _ => rfl) | (with_reducible rfl) | intro _ | (with_reducible apply forEach_inv) | (with_reducible apply finishCmd_inv) | (with_reducible apply ite_inv) | (with_reducible apply ite_inv_snd) | (with_reducible apply ite_inv_thd) | split)

theorem netSend_inv (m : TxMsg) (s : State) (h : Inv s) : Inv (netSend m s) := by
  unfold netSend
  try dsimp only
  repeat' (first | (with_reducible assumption) | (with_reducible exact fun _ => rfl) | (with_reducible rfl) | intro _ | (with_reducible apply modNet_inv))

theorem syncEvents_inv (s : State) (h : Inv s) : Inv (syncEvents s) := by
  unfold syncEvents
  try dsimp only
  repeat' (first | (with_reducible assumption) | (with_reducible exact fun _ => rfl) | (with_reducible rfl) | intro _ | (with_reducible apply modSb_inv))

end Sys2Proof.Machine
end

