-- ==== Sys2Proof/Laws/InvNetBase.lean ====
section
/-! SUPPORT. The functions of Machine/NetBase.lean keep the invariant. -/

namespace Sys2Proof.Machine

theorem modPort_inv (n : Nat) (f : Port → Port) (s : State) (h : Inv s) : Inv (modPort n f s) := by
  unfold modPort
  try dsimp only
  repeat' (first | (with_reducible assumption) | (with_reducible exact fun _ => rfl) | (with_reducible rfl) | intro _ | (with_reducible apply modNet_inv))

theorem setConn_inv (id : Nat) (v : Option Conn) (s : State) (h : Inv s) : Inv (setConn id v s) := by
  unfold setConn
  try dsimp only
  repeat' (first | (with_reducible assumption) | (with_reducible exact fun _ => rfl) | (with_reducible rfl) | intro _ | (with_reducible apply modNet_inv))

theorem modConn_inv (id : Nat) (f : Conn → Conn) (s : State) (h : Inv s) : Inv (modConn id f s) := by
  unfold modConn
  try dsimp only
  repeat' (first | (with_reducible assumption) | (with_reducible exact fun _ => rfl) | (with_reducible rfl) | intro _ | (with_reducible apply setConn_inv))

theorem modGuest_inv (g : Nat) (f : Guest → Guest) (s : State) (h : Inv s) : Inv (modGuest g f s) := by
  unfold modGuest
  try dsimp only
  repeat' (first | (with_reducible assumption) | (with_reducible exact fun _ => rfl) | (with_reducible rfl) | intro _ | (with_reducible apply modNet_inv))

theorem queueFrame_inv (n : Nat) (f : TxFrame) (s : State) (h : Inv s) : Inv (queueFrame n f s) := by
  unfold queueFrame
  try dsimp only
  repeat' (first | (with_reducible assumption) | (with_reducible exact fun _ => rfl) | (with_reducible rfl) | intro _ | (with_reducible apply modPort_inv))

theorem linePasses_inv (ns n : Nat) (s : State) (h : Inv s) : Inv (linePasses ns n s) := by
  unfold linePasses
  try dsimp only
  repeat' (first | (with_reducible assumption) | (with_reducible exact fun _ => rfl) | (with_reducible rfl) | intro _ | (with_reducible apply modNet_inv) | (with_reducible apply modPort_inv) | (with_reducible apply ite_inv))

theorem sendRelay_inv (id cls : Nat) (p : Peer) (x : RelayTx) (s : State) (h : Inv s) : Inv (sendRelay id cls p x s) := by
  unfold sendRelay
  try dsimp only
  repeat' (first | (with_reducible assumption) | (with_reducible exact fun _ => rfl) | (with_reducible rfl) | intro _ | (with_reducible apply queueFrame_inv))

theorem sendOwn_inv (n len : Nat) (m : TxMsg) (s : State) (h : Inv s) : Inv (sendOwn n len m s) := by
  unfold sendOwn
  try dsimp only
  repeat' (first | (with_reducible assumption) | (with_reducible exact fun _ => rfl) | (with_reducible rfl) | intro _ | (with_reducible apply queueFrame_inv))

theorem sendCtrlNow_inv (id : Nat) (s : State) (h : Inv s) : Inv (sendCtrlNow id s) := by
  unfold sendCtrlNow
  try dsimp only
  repeat' (first | (with_reducible assumption) | (with_reducible exact fun _ => rfl) | (with_reducible rfl) | intro _ | (with_reducible apply setConn_inv) | (with_reducible apply sendRelay_inv) | (with_reducible apply ite_inv) | (with_reducible apply ite_inv_snd) | (with_reducible apply ite_inv_thd) | split)

theorem pumpCtrl_inv (id : Nat) (s : State) (h : Inv s) : Inv (pumpCtrl id s) := by
  unfold pumpCtrl
  try dsimp only
  repeat' (first | (with_reducible assumption) | (with_reducible exact fun _ => rfl) | (with_reducible rfl) | intro _ | (with_reducible apply forEach_inv) | (with_reducible apply sendCtrlNow_inv) | (with_reducible apply ite_inv) | (with_reducible apply ite_inv_snd) | (with_reducible apply ite_inv_thd) | split)

theorem sendCtrl_inv (dev : Word) (m : CtrlOut) (s : State) (h : Inv s) : Inv (sendCtrl dev m s) := by
  unfold sendCtrl
  try dsimp only
  repeat' (first | (with_reducible assumption) | (with_reducible exact fun _ => rfl) | (with_reducible rfl) | intro _ | (with_reducible apply modConn_inv) | (with_reducible apply pumpCtrl_inv) | (with_reducible apply ite_inv) | (with_reducible apply ite_inv_snd) | (with_reducible apply ite_inv_thd) | split)

theorem clampWindows_inv (s : State) (h : Inv s) : Inv (clampWindows s) := by
  unfold clampWindows
  try dsimp only
  repeat' (first | (with_reducible assumption) | (with_reducible exact fun _ => rfl) | (with_reducible rfl) | intro _ | (with_reducible apply modNet_inv))

theorem openConn_inv (p : Peer) (s : State) (h : Inv s) : Inv (openConn p s) := by
  unfold openConn
  try dsimp only
  repeat' (first | (with_reducible assumption) | (with_reducible exact fun _ => rfl) | (with_reducible rfl) | intro _ | (with_reducible apply modNet_inv) | (with_reducible apply setConn_inv) | (with_reducible apply pumpCtrl_inv) | (with_reducible apply ite_inv) | (with_reducible apply ite_inv_snd) | (with_reducible apply ite_inv_thd) | split)

theorem dropTx_inv (mine : TxOwner → Bool) (s : State) (h : Inv s) : Inv (dropTx mine s) := by
  unfold dropTx
  try dsimp only
  repeat' (first | (with_reducible assumption) | (with_reducible exact fun _ => rfl) | (with_reducible rfl) | intro _ | (with_reducible apply modNet_inv))

end Sys2Proof.Machine
end

