-- ==== Sys2Proof/Laws/InvFaults.lean ====
section
/-! SUPPORT. The functions of Machine/Faults.lean keep the invariant. -/

namespace Sys2Proof.Machine

theorem stopLegWork_inv (k : Nat) (leg : Leg) (s : State) (h : Inv s) : Inv (stopLegWork k leg s) := by
  unfold stopLegWork
  try dsimp only
  repeat' (first | (with_reducible assumption) | (with_reducible exact fun _ => rfl) | (with_reducible rfl) | intro _ | (with_reducible apply modNet_inv) | (with_reducible apply modCluster_inv) | (with_reducible apply forEach_inv) | (with_reducible apply dropTx_inv) | (with_reducible apply ite_inv) | (with_reducible apply ite_inv_snd) | (with_reducible apply ite_inv_thd) | split | (with_reducible refine Inv.ofSnd (by assumption) ?_) | (with_reducible refine Inv.ofThd (by assumption) ?_) | (fail_if_no_progress refine inv_mk rfl rfl rfl rfl rfl rfl ?_))

theorem dropRecvs_inv (k : Nat) (s : State) (h : Inv s) : Inv (dropRecvs k s) := by
  unfold dropRecvs
  try dsimp only
  repeat' (first | (with_reducible assumption) | (with_reducible exact fun _ => rfl) | (with_reducible rfl) | intro _ | (with_reducible apply modNet_inv))

theorem stopJob_inv (k : Nat) (fclass : Nat) (fault : Option FaultInfo) (s : State) (h : Inv s) : Inv (stopJob k fclass fault s) := by
  unfold stopJob
  try dsimp only
  repeat' (first | (with_reducible assumption) | (with_reducible exact fun _ => rfl) | (with_reducible rfl) | intro _ | (with_reducible apply modLdg_inv) | (with_reducible apply modItin_inv) | (with_reducible apply stopLegWork_inv) | (with_reducible apply dropRecvs_inv) | (with_reducible apply ite_inv) | (with_reducible apply ite_inv_snd) | (with_reducible apply ite_inv_thd) | split)

theorem takeOffline_inv (c : Nat) (s : State) (h : Inv s) : Inv (takeOffline c s) := by
  unfold takeOffline
  try dsimp only
  repeat' (first | (with_reducible assumption) | (with_reducible exact fun _ => rfl) | (with_reducible rfl) | intro _ | (with_reducible apply logErr_inv) | (with_reducible apply modCluster_inv))

theorem discardLeg_inv (k : Nat) (fi : FaultInfo) (s : State) (h : Inv s) : Inv (discardLeg k fi s) := by
  unfold discardLeg
  try dsimp only
  repeat' (first | (with_reducible assumption) | (with_reducible exact fun _ => rfl) | (with_reducible rfl) | intro _ | (with_reducible apply modLdg_inv) | (with_reducible apply forEach_inv) | (with_reducible apply modItin_inv) | (with_reducible apply stopLegWork_inv) | (with_reducible apply stopJob_inv) | (with_reducible apply takeOffline_inv) | (with_reducible apply ite_inv) | (with_reducible apply ite_inv_snd) | (with_reducible apply ite_inv_thd) | split)

theorem stageFault_inv (ks : List Nat) (fi : FaultInfo) (s : State) (h : Inv s) : Inv (stageFault ks fi s) := by
  unfold stageFault
  try dsimp only
  repeat' (first | (with_reducible assumption) | (with_reducible exact fun _ => rfl) | (with_reducible rfl) | intro _ | (with_reducible apply modLdg_inv) | (with_reducible apply forEach_inv) | (with_reducible apply discardLeg_inv))

theorem abortRegionCmds_inv (n : Nat) (s : State) (h : Inv s) : Inv (abortRegionCmds n s) := by
  unfold abortRegionCmds
  try dsimp only
  repeat' (first | (with_reducible assumption) | (with_reducible exact fun _ => rfl) | (with_reducible rfl) | intro _ | (with_reducible apply forEach_inv) | (with_reducible apply finishCmd_inv) | (with_reducible apply ite_inv) | (with_reducible apply ite_inv_snd) | (with_reducible apply ite_inv_thd) | split)

theorem dropHome_inv (n : Nat) (s : State) (h : Inv s) : Inv (dropHome n s) := by
  unfold dropHome
  try dsimp only
  repeat' (first | (with_reducible assumption) | (with_reducible exact fun _ => rfl) | (with_reducible rfl) | intro _ | (with_reducible apply modHome_inv) | (with_reducible apply forEach_inv) | (with_reducible apply finishCmd_inv) | (with_reducible apply ite_inv) | (with_reducible apply ite_inv_snd) | (with_reducible apply ite_inv_thd) | split | (with_reducible refine Inv.ofSnd (by assumption) ?_) | (with_reducible refine Inv.ofThd (by assumption) ?_) | (fail_if_no_progress refine inv_mk rfl rfl rfl rfl rfl rfl ?_))

theorem fenceStack_inv (n : Nat) (s : State) (h : Inv s) : Inv (fenceStack n s) := by
  unfold fenceStack
  try dsimp only
  repeat' (first | (with_reducible assumption) | (with_reducible exact fun _ => rfl) | (with_reducible rfl) | intro _ | (with_reducible apply modCtl_inv) | (with_reducible apply abortRegionCmds_inv) | (with_reducible apply dropHome_inv) | (with_reducible apply ite_inv) | (with_reducible apply ite_inv_snd) | (with_reducible apply ite_inv_thd) | split | (with_reducible refine Inv.ofSnd (by assumption) ?_) | (with_reducible refine Inv.ofThd (by assumption) ?_) | (fail_if_no_progress refine inv_mk rfl rfl rfl rfl rfl rfl ?_))

theorem loseStackUnit_inv (n : Nat) (s : State) (h : Inv s) : Inv (loseStackUnit n s) := by
  unfold loseStackUnit
  try dsimp only
  repeat' (first | (with_reducible assumption) | (with_reducible exact fun _ => rfl) | (with_reducible rfl) | intro _ | (with_reducible apply modLdg_inv) | (with_reducible apply fenceStack_inv) | (with_reducible apply ite_inv))

theorem loseHalfUnit_inv (n : Nat) (s : State) (h : Inv s) : Inv (loseHalfUnit n s) := by
  unfold loseHalfUnit
  try dsimp only
  repeat' (first | (with_reducible assumption) | (with_reducible exact fun _ => rfl) | (with_reducible rfl) | intro _ | (with_reducible apply modLdg_inv) | (with_reducible apply loseStackUnit_inv) | (with_reducible apply ite_inv))

theorem loseLinkUnit_inv (n : Nat) (s : State) (h : Inv s) : Inv (loseLinkUnit n s) := by
  unfold loseLinkUnit
  try dsimp only
  repeat' (first | (with_reducible assumption) | (with_reducible exact fun _ => rfl) | (with_reducible rfl) | intro _ | (with_reducible apply modLdg_inv) | (with_reducible apply modSb_inv) | (with_reducible apply ite_inv))

theorem losePx_inv (d : Nat) (s : State) (h : Inv s) : Inv (losePx d s) := by
  unfold losePx
  try dsimp only
  repeat' (first | (with_reducible assumption) | (with_reducible exact fun _ => rfl) | (with_reducible rfl) | intro _ | (with_reducible apply modPx_inv) | (with_reducible apply ite_inv) | (with_reducible apply ite_inv_snd) | (with_reducible apply ite_inv_thd) | split | (with_reducible refine Inv.ofSnd (by assumption) ?_) | (with_reducible refine Inv.ofThd (by assumption) ?_) | (fail_if_no_progress refine inv_mk rfl rfl rfl rfl rfl rfl ?_))

theorem loseDieUnit_inv (d : Nat) (s : State) (h : Inv s) : Inv (loseDieUnit d s) := by
  unfold loseDieUnit
  try dsimp only
  repeat' (first | (with_reducible assumption) | (with_reducible exact fun _ => rfl) | (with_reducible rfl) | intro _ | (with_reducible apply modLdg_inv) | (with_reducible apply forEach_inv) | (with_reducible apply loseHalfUnit_inv) | (with_reducible apply loseLinkUnit_inv) | (with_reducible apply losePx_inv) | (with_reducible apply ite_inv))

theorem loseUnreachable_inv (s : State) (h : Inv s) : Inv (loseUnreachable s) := by
  unfold loseUnreachable
  try dsimp only
  repeat' (first | (with_reducible assumption) | (with_reducible exact fun _ => rfl) | (with_reducible rfl) | intro _ | (with_reducible apply forEach_inv) | (with_reducible apply loseDieUnit_inv) | (with_reducible apply ite_inv))

theorem sendRollbacks_inv (s : State) (h : Inv s) : Inv (sendRollbacks s) := by
  unfold sendRollbacks
  try dsimp only
  repeat' (first | (with_reducible assumption) | (with_reducible exact fun _ => rfl) | (with_reducible rfl) | intro _ | (with_reducible apply modNet_inv) | (with_reducible apply forEach_inv) | (with_reducible apply sendCtrl_inv) | (with_reducible apply ite_inv) | (with_reducible apply ite_inv_snd) | (with_reducible apply ite_inv_thd) | split)

theorem cutIod_inv (s : State) (h : Inv s) : Inv (cutIod s) := by
  unfold cutIod
  try dsimp only
  repeat' (first | (with_reducible assumption) | (with_reducible exact fun _ => rfl) | (with_reducible rfl) | intro _ | (with_reducible apply modInnk_inv) | (with_reducible apply modNet_inv) | (with_reducible apply forEach_inv) | (with_reducible apply finishCmd_inv) | (with_reducible apply dropTx_inv) | (with_reducible apply ite_inv) | (with_reducible apply ite_inv_snd) | (with_reducible apply ite_inv_thd) | split | (with_reducible refine Inv.ofSnd (by assumption) ?_) | (with_reducible refine Inv.ofThd (by assumption) ?_) | (fail_if_no_progress refine inv_mk rfl rfl rfl rfl rfl rfl ?_))

theorem selectForRestart_inv (s : State) (h : Inv s) : Inv (selectForRestart s) := by
  unfold selectForRestart
  try dsimp only
  repeat' (first | (with_reducible assumption) | (with_reducible exact fun _ => rfl) | (with_reducible rfl) | intro _ | (with_reducible apply forEach_inv) | (with_reducible apply modItin_inv) | (with_reducible apply stopJob_inv) | (with_reducible apply ite_inv) | (with_reducible apply ite_inv_snd) | (with_reducible apply ite_inv_thd) | split)

theorem stateLoss_inv (lose : State → State) (addr : Word) (frec : Nat) (s : State) (klose : ∀ (y0 : State), Inv y0 → Inv (lose y0)) (h : Inv s) : Inv (stateLoss lose addr frec s) := by
  unfold stateLoss
  try dsimp only
  repeat' (first | (with_reducible assumption) | (with_reducible exact fun _ => rfl) | (with_reducible rfl) | intro _ | (with_reducible apply modLdg_inv) | (with_reducible apply forEach_inv) | (with_reducible apply syncEvents_inv) | (with_reducible apply discardLeg_inv) | (with_reducible apply loseUnreachable_inv) | (with_reducible apply sendRollbacks_inv) | (with_reducible apply cutIod_inv) | (with_reducible apply selectForRestart_inv) | (with_reducible apply foldl_inv) | (with_reducible apply foldl_inv_snd) | (with_reducible apply klose) | (with_reducible apply ite_inv) | (with_reducible apply ite_inv_snd) | (with_reducible apply ite_inv_thd) | split | (with_reducible refine Inv.ofSnd (by assumption) ?_) | (with_reducible refine Inv.ofThd (by assumption) ?_) | (fail_if_no_progress refine inv_mk rfl rfl rfl rfl rfl rfl ?_))

theorem stackLoss_inv (n : Nat) (source unit : Nat) (s : State) (h : Inv s) : Inv (stackLoss n source unit s) := by
  unfold stackLoss
  try dsimp only
  repeat' (first | (with_reducible assumption) | (with_reducible exact fun _ => rfl) | (with_reducible rfl) | intro _ | (with_reducible apply logErr_inv) | (with_reducible apply loseStackUnit_inv) | (with_reducible apply stateLoss_inv) | (with_reducible apply ite_inv))

theorem halfLoss_inv (n : Nat) (s : State) (h : Inv s) : Inv (halfLoss n s) := by
  unfold halfLoss
  try dsimp only
  repeat' (first | (with_reducible assumption) | (with_reducible exact fun _ => rfl) | (with_reducible rfl) | intro _ | (with_reducible apply logErr_inv) | (with_reducible apply loseHalfUnit_inv) | (with_reducible apply stateLoss_inv) | (with_reducible apply ite_inv))

theorem dieLoss_inv (d pwd : Nat) (s : State) (h : Inv s) : Inv (dieLoss d pwd s) := by
  unfold dieLoss
  try dsimp only
  repeat' (first | (with_reducible assumption) | (with_reducible exact fun _ => rfl) | (with_reducible rfl) | intro _ | (with_reducible apply logErr_inv) | (with_reducible apply loseDieUnit_inv) | (with_reducible apply stateLoss_inv) | (with_reducible apply ite_inv))

theorem linkLoss_inv (n : Nat) (s : State) (h : Inv s) : Inv (linkLoss n s) := by
  unfold linkLoss
  try dsimp only
  repeat' (first | (with_reducible assumption) | (with_reducible exact fun _ => rfl) | (with_reducible rfl) | intro _ | (with_reducible apply logErr_inv) | (with_reducible apply loseLinkUnit_inv) | (with_reducible apply losePx_inv) | (with_reducible apply stateLoss_inv) | (with_reducible apply ite_inv))

end Sys2Proof.Machine
end

