-- ==== Sys2Proof/Laws/InvMemCtl.lean ====
section
/-! SUPPORT. The functions of Machine/MemCtl.lean keep the invariant. -/

namespace Sys2Proof.Machine

theorem retirePage_inv (page : Nat) (s : State) (h : Inv s) : Inv (retirePage page s) := by
  unfold retirePage
  try dsimp only
  repeat' (first | (with_reducible assumption) | (with_reducible exact fun _ => rfl) | (with_reducible rfl) | intro _ | (with_reducible apply logErr_inv) | (with_reducible apply modCtl_inv) | (with_reducible apply ite_inv) | (with_reducible apply ite_inv_snd) | (with_reducible apply ite_inv_thd) | split)

theorem countPage_inv (a : Nat) (s : State) (h : Inv s) : Inv (countPage a s) := by
  unfold countPage
  try dsimp only
  repeat' (first | (with_reducible assumption) | (with_reducible exact fun _ => rfl) | (with_reducible rfl) | intro _ | (with_reducible apply modCtl_inv) | (with_reducible apply retirePage_inv) | (with_reducible apply ite_inv))

theorem countPin_inv (a sym : Nat) (s : State) (h : Inv s) : Inv (countPin a sym s) := by
  unfold countPin
  try dsimp only
  repeat' (first | (with_reducible assumption) | (with_reducible exact fun _ => rfl) | (with_reducible rfl) | intro _ | (with_reducible apply modCtl_inv) | (with_reducible apply syncEvents_inv) | (with_reducible apply ite_inv))

theorem noteCorrected_inv (a pos : Nat) (v : Byte) (syn : BitVec 32) (s : State) (h : Inv s) : Inv (noteCorrected a pos v syn s) := by
  unfold noteCorrected
  try dsimp only
  repeat' (first | (with_reducible assumption) | (with_reducible exact fun _ => rfl) | (with_reducible rfl) | intro _ | (with_reducible apply logErr_inv) | (with_reducible apply modCtl_inv) | (with_reducible apply countPage_inv) | (with_reducible apply countPin_inv) | (with_reducible apply ite_inv))

theorem noteUncorrectable_inv (a : Nat) (syn : BitVec 32) (s : State) (h : Inv s) : Inv (noteUncorrectable a syn s) := by
  unfold noteUncorrectable
  try dsimp only
  repeat' (first | (with_reducible assumption) | (with_reducible exact fun _ => rfl) | (with_reducible rfl) | intro _ | (with_reducible apply logErr_inv) | (with_reducible apply modCtl_inv) | (with_reducible apply stackLoss_inv) | (with_reducible apply retirePage_inv) | (with_reducible apply ite_inv))

theorem countRd_inv (a : Nat) (s : State) (h : Inv s) : Inv (countRd a s) := by
  unfold countRd
  try dsimp only
  repeat' (first | (with_reducible assumption) | (with_reducible exact fun _ => rfl) | (with_reducible rfl) | intro _ | (with_reducible apply modCtl_inv))

theorem countWr_inv (a : Nat) (s : State) (h : Inv s) : Inv (countWr a s) := by
  unfold countWr
  try dsimp only
  repeat' (first | (with_reducible assumption) | (with_reducible exact fun _ => rfl) | (with_reducible rfl) | intro _ | (with_reducible apply modCtl_inv))

theorem storeSector_inv (a : Nat) (v : SectorVal) (s : State) (h : Inv s) : Inv (storeSector a v s) := by
  unfold storeSector
  try dsimp only
  repeat' (first | (with_reducible assumption) | (with_reducible exact fun _ => rfl) | (with_reducible rfl) | intro _ | (with_reducible apply setChk_inv) | (with_reducible apply setMemSector_inv) | (with_reducible apply countWr_inv))

theorem copyRead_inv (c : Nat) (s : State) (h : Inv s) : Inv (copyRead c s).2.2 := by
  unfold copyRead
  try dsimp only
  repeat' (first | (with_reducible assumption) | (with_reducible exact fun _ => rfl) | (with_reducible rfl) | intro _ | (with_reducible apply noteCorrected_inv) | (with_reducible apply countRd_inv) | (with_reducible apply ite_inv) | (with_reducible apply ite_inv_snd) | (with_reducible apply ite_inv_thd) | split)

theorem stackRead_inv (a : Nat) (s : State) (h : Inv s) : Inv (stackRead a s).2 := by
  unfold stackRead
  try dsimp only
  repeat' (first | (with_reducible assumption) | (with_reducible exact fun _ => rfl) | (with_reducible rfl) | intro _ | (with_reducible apply logErr_inv) | (with_reducible apply modCtl_inv) | (with_reducible apply countPage_inv) | (with_reducible apply noteCorrected_inv) | (with_reducible apply noteUncorrectable_inv) | (with_reducible apply countRd_inv) | (with_reducible apply storeSector_inv) | (with_reducible apply copyRead_inv) | (with_reducible apply ite_inv) | (with_reducible apply ite_inv_snd) | (with_reducible apply ite_inv_thd) | split)

theorem drainSector_inv (e : WcbEntry) (k : Nat) (s : State) (h : Inv s) : Inv (drainSector e k s) := by
  unfold drainSector
  try dsimp only
  repeat' (first | (with_reducible assumption) | (with_reducible exact fun _ => rfl) | (with_reducible rfl) | intro _ | (with_reducible apply modCtl_inv) | (with_reducible apply storeSector_inv) | (with_reducible apply stackRead_inv) | (with_reducible apply ite_inv))

theorem drainEntry_inv (n : Nat) (e : WcbEntry) (s : State) (h : Inv s) : Inv (drainEntry n e s) := by
  unfold drainEntry
  try dsimp only
  repeat' (first | (with_reducible assumption) | (with_reducible exact fun _ => rfl) | (with_reducible rfl) | intro _ | (with_reducible apply forEach_inv) | (with_reducible apply modCtl_inv) | (with_reducible apply drainSector_inv))

theorem drainOldest_inv (n : Nat) (s : State) (h : Inv s) : Inv (drainOldest n s) := by
  unfold drainOldest
  try dsimp only
  repeat' (first | (with_reducible assumption) | (with_reducible exact fun _ => rfl) | (with_reducible rfl) | intro _ | (with_reducible apply drainEntry_inv) | (with_reducible apply ite_inv) | (with_reducible apply ite_inv_snd) | (with_reducible apply ite_inv_thd) | split)

theorem drainDown_inv (n : Nat) (s : State) (h : Inv s) : Inv (drainDown n s) := by
  unfold drainDown
  try dsimp only
  repeat' (first | (with_reducible assumption) | (with_reducible exact fun _ => rfl) | (with_reducible rfl) | intro _ | (with_reducible apply forEach_inv) | (with_reducible apply drainOldest_inv) | (with_reducible apply ite_inv))

theorem ctlWrite_inv (a : Nat) (en : BitVec 32) (v : SectorVal) (s : State) (h : Inv s) : Inv (ctlWrite a en v s) := by
  unfold ctlWrite
  try dsimp only
  repeat' (first | (with_reducible assumption) | (with_reducible exact fun _ => rfl) | (with_reducible rfl) | intro _ | (with_reducible apply modCtl_inv) | (with_reducible apply drainEntry_inv) | (with_reducible apply drainOldest_inv) | (with_reducible apply drainDown_inv) | (with_reducible apply ite_inv) | (with_reducible apply ite_inv_snd) | (with_reducible apply ite_inv_thd) | split)

theorem ctlRead_inv (a : Nat) (s : State) (h : Inv s) : Inv (ctlRead a s).2 := by
  unfold ctlRead
  try dsimp only
  repeat' (first | (with_reducible assumption) | (with_reducible exact fun _ => rfl) | (with_reducible rfl) | intro _ | (with_reducible apply stackRead_inv) | (with_reducible apply ite_inv) | (with_reducible apply ite_inv_snd) | (with_reducible apply ite_inv_thd) | split)

theorem strike_inv (a : Nat) (e : WordErr) (s : State) (h : Inv s) : Inv (strike a e s) := by
  unfold strike
  try dsimp only
  repeat' (first | (with_reducible assumption) | (with_reducible exact fun _ => rfl) | (with_reducible rfl) | intro _ | (with_reducible apply setChk_inv) | (with_reducible apply setMemSector_inv) | (with_reducible apply ite_inv))

theorem drainMarked_inv (n : Nat) (s : State) (h : Inv s) : Inv (drainMarked n s) := by
  unfold drainMarked
  try dsimp only
  repeat' (first | (with_reducible assumption) | (with_reducible exact fun _ => rfl) | (with_reducible rfl) | intro _ | (with_reducible apply forEach_inv) | (with_reducible apply drainEntry_inv))

theorem drainLine_inv (line : Nat) (s : State) (h : Inv s) : Inv (drainLine line s) := by
  unfold drainLine
  try dsimp only
  repeat' (first | (with_reducible assumption) | (with_reducible exact fun _ => rfl) | (with_reducible rfl) | intro _ | (with_reducible apply drainEntry_inv) | (with_reducible apply ite_inv) | (with_reducible apply ite_inv_snd) | (with_reducible apply ite_inv_thd) | split)

end Sys2Proof.Machine
end

