-- ==== Sys2Proof/Laws/InvHomes.lean ====
section
/-! SUPPORT. The functions of Machine/Homes.lean keep the invariant. -/

namespace Sys2Proof.Machine

theorem writeSectors_inv (l : Nat) (secs : List Sector) (pick : Nat → Sector → Bool) (s : State) (h : Inv s) : Inv (writeSectors l secs pick s) := by
  unfold writeSectors
  try dsimp only
  repeat' (first | (with_reducible assumption) | (with_reducible exact fun _ => rfl) | (with_reducible rfl) | intro _ | (with_reducible apply forEach_inv) | (with_reducible apply ctlWrite_inv) | (with_reducible apply ite_inv) | (with_reducible apply ite_inv_snd) | (with_reducible apply ite_inv_thd) | split)

theorem evbDrain_inv (n : Nat) (s : State) (h : Inv s) : Inv (evbDrain n s) := by
  unfold evbDrain
  try dsimp only
  repeat' (first | (with_reducible assumption) | (with_reducible exact fun _ => rfl) | (with_reducible rfl) | intro _ | (with_reducible apply modHome_inv) | (with_reducible apply writeSectors_inv) | (with_reducible apply ite_inv) | (with_reducible apply ite_inv_snd) | (with_reducible apply ite_inv_thd) | split)

theorem evbDrainThrough_inv (n l : Nat) (s : State) (h : Inv s) : Inv (evbDrainThrough n l s) := by
  unfold evbDrainThrough
  try dsimp only
  repeat' (first | (with_reducible assumption) | (with_reducible exact fun _ => rfl) | (with_reducible rfl) | intro _ | (with_reducible apply forEach_inv) | (with_reducible apply evbDrain_inv))

theorem dropForeign_inv (n l : Nat) (s : State) (h : Inv s) : Inv (dropForeign n l s) := by
  unfold dropForeign
  try dsimp only
  repeat' (first | (with_reducible assumption) | (with_reducible exact fun _ => rfl) | (with_reducible rfl) | intro _ | (with_reducible apply modHome_inv) | (with_reducible apply ite_inv) | (with_reducible apply ite_inv_snd) | (with_reducible apply ite_inv_thd) | split)

theorem pxDrop_inv (die l : Nat) (s : State) (h : Inv s) : Inv (pxDrop die l s) := by
  unfold pxDrop
  try dsimp only
  repeat' (first | (with_reducible assumption) | (with_reducible exact fun _ => rfl) | (with_reducible rfl) | intro _ | (with_reducible apply modPx_inv))

theorem countSnoops_inv (n k : Nat) (s : State) (h : Inv s) : Inv (countSnoops n k s) := by
  unfold countSnoops
  try dsimp only
  repeat' (first | (with_reducible assumption) | (with_reducible exact fun _ => rfl) | (with_reducible rfl) | intro _ | (with_reducible apply modHome_inv))

theorem takeDirty_inv (n l : Nat) (secs : List Sector) (s : State) (h : Inv s) : Inv (takeDirty n l secs s) := by
  unfold takeDirty
  try dsimp only
  repeat' (first | (with_reducible assumption) | (with_reducible exact fun _ => rfl) | (with_reducible rfl) | intro _ | (with_reducible apply modHome_inv) | (with_reducible apply writeSectors_inv) | (with_reducible apply evbDrainThrough_inv) | (with_reducible apply ite_inv))

theorem dirRoom_inv (n l : Nat) (s : State) (h : Inv s) : Inv (dirRoom n l s) := by
  unfold dirRoom
  try dsimp only
  repeat' (first | (with_reducible assumption) | (with_reducible exact fun _ => rfl) | (with_reducible rfl) | intro _ | (with_reducible apply modHome_inv) | (with_reducible apply draw_inv) | (with_reducible apply dropForeign_inv) | (with_reducible apply pxDrop_inv) | (with_reducible apply countSnoops_inv) | (with_reducible apply takeDirty_inv) | (with_reducible apply ite_inv) | (with_reducible apply ite_inv_snd) | (with_reducible apply ite_inv_thd) | split)

theorem offer_inv (n l : Nat) (x : Line) (s : State) (h : Inv s) : Inv (offer n l x s) := by
  unfold offer
  try dsimp only
  repeat' (first | (with_reducible assumption) | (with_reducible exact fun _ => rfl) | (with_reducible rfl) | intro _ | (with_reducible apply modHome_inv) | (with_reducible apply dropForeign_inv) | (with_reducible apply dirRoom_inv) | (with_reducible apply ite_inv) | (with_reducible apply ite_inv_snd) | (with_reducible apply ite_inv_thd) | split)

theorem evict_inv (n l : Nat) (s : State) (h : Inv s) : Inv (evict n l s) := by
  unfold evict
  try dsimp only
  repeat' (first | (with_reducible assumption) | (with_reducible exact fun _ => rfl) | (with_reducible rfl) | intro _ | (with_reducible apply modHome_inv) | (with_reducible apply evbDrain_inv) | (with_reducible apply offer_inv) | (with_reducible apply ite_inv) | (with_reducible apply ite_inv_snd) | (with_reducible apply ite_inv_thd) | split)

theorem allocLine_inv (n l : Nat) (s : State) (h : Inv s) : Inv (allocLine n l s) := by
  unfold allocLine
  try dsimp only
  repeat' (first | (with_reducible assumption) | (with_reducible exact fun _ => rfl) | (with_reducible rfl) | intro _ | (with_reducible apply modHome_inv) | (with_reducible apply evict_inv) | (with_reducible apply ite_inv) | (with_reducible apply ite_inv_snd) | (with_reducible apply ite_inv_thd) | split)

theorem touch_inv (n l : Nat) (least : Bool) (s : State) (h : Inv s) : Inv (touch n l least s) := by
  unfold touch
  try dsimp only
  repeat' (first | (with_reducible assumption) | (with_reducible exact fun _ => rfl) | (with_reducible rfl) | intro _ | (with_reducible apply modHome_inv))

theorem putSector_inv (n l k : Nat) (x : Sector) (s : State) (h : Inv s) : Inv (putSector n l k x s) := by
  unfold putSector
  try dsimp only
  repeat' (first | (with_reducible assumption) | (with_reducible exact fun _ => rfl) | (with_reducible rfl) | intro _ | (with_reducible apply modHome_inv))

theorem countMoved_inv (r : Requester) (k : Nat) (s : State) (h : Inv s) : Inv (countMoved r k s) := by
  unfold countMoved
  try dsimp only
  repeat' (first | (with_reducible assumption) | (with_reducible exact fun _ => rfl) | (with_reducible rfl) | intro _ | (with_reducible apply modSb_inv))

theorem takeBack_inv (n l : Nat) (s : State) (h : Inv s) : Inv (takeBack n l s) := by
  unfold takeBack
  try dsimp only
  repeat' (first | (with_reducible assumption) | (with_reducible exact fun _ => rfl) | (with_reducible rfl) | intro _ | (with_reducible apply modHome_inv) | (with_reducible apply dropForeign_inv) | (with_reducible apply allocLine_inv) | (with_reducible apply ite_inv) | (with_reducible apply ite_inv_snd) | (with_reducible apply ite_inv_thd) | split)

theorem fillLine_inv (r : Requester) (n l : Nat) (rg : Region) (mask : BitVec 4) (s : State) (h : Inv s) : Inv (fillLine r n l rg mask s) := by
  unfold fillLine
  try dsimp only
  repeat' (first | (with_reducible assumption) | (with_reducible exact fun _ => rfl) | (with_reducible rfl) | intro _ | (with_reducible apply forEach_inv) | (with_reducible apply ctlRead_inv) | (with_reducible apply putSector_inv) | (with_reducible apply countMoved_inv) | (with_reducible apply ite_inv) | (with_reducible apply ite_inv_snd) | (with_reducible apply ite_inv_thd) | split)

theorem countHeavy_inv (n l : Nat) (hit : Bool) (s : State) (h : Inv s) : Inv (countHeavy n l hit s) := by
  unfold countHeavy
  try dsimp only
  repeat' (first | (with_reducible assumption) | (with_reducible exact fun _ => rfl) | (with_reducible rfl) | intro _ | (with_reducible apply modHome_inv) | (with_reducible apply ite_inv))

theorem countAccess_inv (n l : Nat) (hit : Bool) (s : State) (h : Inv s) : Inv (countAccess n l hit s) := by
  unfold countAccess
  try dsimp only
  repeat' (first | (with_reducible assumption) | (with_reducible exact fun _ => rfl) | (with_reducible rfl) | intro _ | (with_reducible apply modHome_inv) | (with_reducible apply countHeavy_inv))

theorem enterQueue_inv (n l : Nat) (s : State) (h : Inv s) : Inv (enterQueue n l s) := by
  unfold enterQueue
  try dsimp only
  repeat' (first | (with_reducible assumption) | (with_reducible exact fun _ => rfl) | (with_reducible rfl) | intro _ | (with_reducible apply modHome_inv) | (with_reducible apply draw_inv) | (with_reducible apply ite_inv))

theorem sendSnoop_inv (n l die : Nat) (kind : SnoopKind) (r : Requester) (store : Bool) (s : State) (h : Inv s) : Inv (sendSnoop n l die kind r store s) := by
  unfold sendSnoop
  try dsimp only
  repeat' (first | (with_reducible assumption) | (with_reducible exact fun _ => rfl) | (with_reducible rfl) | intro _ | (with_reducible apply modHome_inv))

theorem readClear_inv (n l : Nat) (r : Requester) (s : State) (h : Inv s) : Inv (readClear n l r s).2 := by
  unfold readClear
  try dsimp only
  repeat' (first | (with_reducible assumption) | (with_reducible exact fun _ => rfl) | (with_reducible rfl) | intro _ | (with_reducible apply sendSnoop_inv) | (with_reducible apply ite_inv) | (with_reducible apply ite_inv_snd) | (with_reducible apply ite_inv_thd) | split)

theorem lineClear_inv (store : Bool) (n l : Nat) (r : Requester) (s : State) (h : Inv s) : Inv (lineClear store n l r s).2 := by
  unfold lineClear
  try dsimp only
  repeat' (first | (with_reducible assumption) | (with_reducible exact fun _ => rfl) | (with_reducible rfl) | intro _ | (with_reducible apply dropForeign_inv) | (with_reducible apply sendSnoop_inv) | (with_reducible apply ite_inv) | (with_reducible apply ite_inv_snd) | (with_reducible apply ite_inv_thd) | split)

theorem writeClear_inv (n l : Nat) (r : Requester) (s : State) (h : Inv s) : Inv (writeClear n l r s).2 := by
  unfold writeClear
  try dsimp only
  repeat' (first | (with_reducible assumption) | (with_reducible exact fun _ => rfl) | (with_reducible rfl) | intro _ | (with_reducible apply lineClear_inv))

theorem countRad_inv (n l : Nat) (s : State) (h : Inv s) : Inv (countRad n l s) := by
  unfold countRad
  try dsimp only
  repeat' (first | (with_reducible assumption) | (with_reducible exact fun _ => rfl) | (with_reducible rfl) | intro _ | (with_reducible apply modHome_inv))

theorem bypassRead_inv (r : Requester) (n l : Nat) (rg : Region) (mask : BitVec 4) (s : State) (h : Inv s) : Inv (bypassRead r n l rg mask s).2 := by
  unfold bypassRead
  try dsimp only
  repeat' (first | (with_reducible assumption) | (with_reducible exact fun _ => rfl) | (with_reducible rfl) | intro _ | (with_reducible apply modHome_inv) | (with_reducible apply ctlRead_inv) | (with_reducible apply countMoved_inv) | (with_reducible apply foldl_inv) | (with_reducible apply foldl_inv_snd) | (with_reducible apply ite_inv) | (with_reducible apply ite_inv_snd))

theorem homeReadLine_inv (r : Requester) (l : Nat) (mask : BitVec 4) (rg : Region) (s : State) (h : Inv s) : Inv (homeReadLine r l mask rg s).2 := by
  unfold homeReadLine
  try dsimp only
  repeat' (first | (with_reducible assumption) | (with_reducible exact fun _ => rfl) | (with_reducible rfl) | intro _ | (with_reducible apply modHome_inv) | (with_reducible apply draw_inv) | (with_reducible apply ctlRead_inv) | (with_reducible apply allocLine_inv) | (with_reducible apply touch_inv) | (with_reducible apply countMoved_inv) | (with_reducible apply takeBack_inv) | (with_reducible apply fillLine_inv) | (with_reducible apply countAccess_inv) | (with_reducible apply enterQueue_inv) | (with_reducible apply readClear_inv) | (with_reducible apply countRad_inv) | (with_reducible apply bypassRead_inv) | (with_reducible apply foldl_inv) | (with_reducible apply foldl_inv_snd) | (with_reducible apply ite_inv) | (with_reducible apply ite_inv_snd) | (with_reducible apply ite_inv_thd) | split)

theorem memWrite_inv (r : Requester) (rg : Region) (pa : Nat) (en : BitVec 32) (v : SectorVal) (s : State) (h : Inv s) : Inv (memWrite r rg pa en v s) := by
  unfold memWrite
  try dsimp only
  repeat' (first | (with_reducible assumption) | (with_reducible exact fun _ => rfl) | (with_reducible rfl) | intro _ | (with_reducible apply ctlWrite_inv) | (with_reducible apply countMoved_inv) | (with_reducible apply ite_inv))

theorem homeWriteSector_inv (r : Requester) (pa : Nat) (en : BitVec 32) (v : SectorVal) (rg : Region) (s : State) (h : Inv s) : Inv (homeWriteSector r pa en v rg s).2 := by
  unfold homeWriteSector
  try dsimp only
  repeat' (first | (with_reducible assumption) | (with_reducible exact fun _ => rfl) | (with_reducible rfl) | intro _ | (with_reducible apply modHome_inv) | (with_reducible apply evbDrainThrough_inv) | (with_reducible apply allocLine_inv) | (with_reducible apply touch_inv) | (with_reducible apply putSector_inv) | (with_reducible apply fillLine_inv) | (with_reducible apply countHeavy_inv) | (with_reducible apply countAccess_inv) | (with_reducible apply enterQueue_inv) | (with_reducible apply writeClear_inv) | (with_reducible apply memWrite_inv) | (with_reducible apply ite_inv) | (with_reducible apply ite_inv_snd) | (with_reducible apply ite_inv_thd) | split)

theorem homeAtomicOp_inv (r : Requester) (op : AtOp) (wide : Bool) (pa : Nat) (os : List AtOperand) (rg : Region) (s : State) (h : Inv s) : Inv (homeAtomicOp r op wide pa os rg s).2 := by
  unfold homeAtomicOp
  try dsimp only
  repeat' (first | (with_reducible assumption) | (with_reducible exact fun _ => rfl) | (with_reducible rfl) | intro _ | (with_reducible apply modHome_inv) | (with_reducible apply evbDrainThrough_inv) | (with_reducible apply allocLine_inv) | (with_reducible apply touch_inv) | (with_reducible apply putSector_inv) | (with_reducible apply takeBack_inv) | (with_reducible apply fillLine_inv) | (with_reducible apply countAccess_inv) | (with_reducible apply enterQueue_inv) | (with_reducible apply lineClear_inv) | (with_reducible apply countRad_inv) | (with_reducible apply memWrite_inv) | (with_reducible apply ite_inv) | (with_reducible apply ite_inv_snd) | (with_reducible apply ite_inv_thd) | split)

theorem homeDead_inv (l : Nat) (rg : Region) (s : State) (h : Inv s) : Inv (homeDead l rg s) := by
  unfold homeDead
  try dsimp only
  repeat' (first | (with_reducible assumption) | (with_reducible exact fun _ => rfl) | (with_reducible rfl) | intro _ | (with_reducible apply modHome_inv) | (with_reducible apply dropForeign_inv) | (with_reducible apply enterQueue_inv) | (with_reducible apply ite_inv))

theorem pinFetch_inv (n l : Nat) (rg : Region) (s : State) (h : Inv s) : Inv (pinFetch n l rg s).2 := by
  unfold pinFetch
  try dsimp only
  repeat' (first | (with_reducible assumption) | (with_reducible exact fun _ => rfl) | (with_reducible rfl) | intro _ | (with_reducible apply evbDrainThrough_inv) | (with_reducible apply allocLine_inv) | (with_reducible apply takeBack_inv) | (with_reducible apply fillLine_inv) | (with_reducible apply countAccess_inv) | (with_reducible apply enterQueue_inv) | (with_reducible apply readClear_inv) | (with_reducible apply ite_inv) | (with_reducible apply ite_inv_snd))

theorem markPinned_inv (n l : Nat) (s : State) (h : Inv s) : Inv (markPinned n l s) := by
  unfold markPinned
  try dsimp only
  repeat' (first | (with_reducible assumption) | (with_reducible exact fun _ => rfl) | (with_reducible rfl) | intro _ | (with_reducible apply modHome_inv))

theorem pinLine_inv (cmd l : Nat) (s : State) (h : Inv s) : Inv (pinLine cmd l s) := by
  unfold pinLine
  try dsimp only
  repeat' (first | (with_reducible assumption) | (with_reducible exact fun _ => rfl) | (with_reducible rfl) | intro _ | (with_reducible apply modHome_inv) | (with_reducible apply evbDrainThrough_inv) | (with_reducible apply allocLine_inv) | (with_reducible apply pinFetch_inv) | (with_reducible apply markPinned_inv) | (with_reducible apply ite_inv) | (with_reducible apply ite_inv_snd) | (with_reducible apply ite_inv_thd) | split)

theorem settlePins_inv (n : Nat) (s : State) (h : Inv s) : Inv (settlePins n s) := by
  unfold settlePins
  try dsimp only
  repeat' (first | (with_reducible assumption) | (with_reducible exact fun _ => rfl) | (with_reducible rfl) | intro _ | (with_reducible apply modHome_inv) | (with_reducible apply forEach_inv) | (with_reducible apply finishCmd_inv) | (with_reducible apply pinFetch_inv) | (with_reducible apply ite_inv) | (with_reducible apply ite_inv_snd) | (with_reducible apply ite_inv_thd) | split)

theorem unpinLine_inv (l : Nat) (s : State) (h : Inv s) : Inv (unpinLine l s) := by
  unfold unpinLine
  try dsimp only
  repeat' (first | (with_reducible assumption) | (with_reducible exact fun _ => rfl) | (with_reducible rfl) | intro _ | (with_reducible apply modHome_inv) | (with_reducible apply writeSectors_inv) | (with_reducible apply ite_inv) | (with_reducible apply ite_inv_snd) | (with_reducible apply ite_inv_thd) | split)

theorem cleanLine_inv (n l : Nat) (s : State) (h : Inv s) : Inv (cleanLine n l s) := by
  unfold cleanLine
  try dsimp only
  repeat' (first | (with_reducible assumption) | (with_reducible exact fun _ => rfl) | (with_reducible rfl) | intro _ | (with_reducible apply modHome_inv) | (with_reducible apply writeSectors_inv) | (with_reducible apply evbDrainThrough_inv) | (with_reducible apply ite_inv) | (with_reducible apply ite_inv_snd) | (with_reducible apply ite_inv_thd) | split)

theorem flushRegion_inv (rg : Region) (s : State) (h : Inv s) : Inv (flushRegion rg s) := by
  unfold flushRegion
  try dsimp only
  repeat' (first | (with_reducible assumption) | (with_reducible exact fun _ => rfl) | (with_reducible rfl) | intro _ | (with_reducible apply forEach_inv) | (with_reducible apply cleanLine_inv))

theorem discardRegionLines_inv (rg : Region) (s : State) (h : Inv s) : Inv (discardRegionLines rg s) := by
  unfold discardRegionLines
  try dsimp only
  repeat' (first | (with_reducible assumption) | (with_reducible exact fun _ => rfl) | (with_reducible rfl) | intro _ | (with_reducible apply modHome_inv) | (with_reducible apply forEach_inv) | (with_reducible apply finishCmd_inv) | (with_reducible apply ite_inv) | (with_reducible apply ite_inv_snd) | (with_reducible apply ite_inv_thd) | split | (with_reducible refine Inv.ofSnd (by assumption) ?_) | (with_reducible refine Inv.ofThd (by assumption) ?_) | (fail_if_no_progress refine inv_mk rfl rfl rfl rfl rfl rfl ?_))

end Sys2Proof.Machine
end

