-- ==== Sys2Proof/Laws/InvPigeonholes.lean ====
section
/-! SUPPORT. The functions of Machine/Pigeonholes.lean keep the invariant. -/

namespace Sys2Proof.Machine

theorem clearLines_inv (store : Bool) (r : Requester) (ls : List Nat) (s : State) (h : Inv s) : Inv (clearLines store r ls s).2 := by
  unfold clearLines
  try dsimp only
  repeat' (first | (with_reducible assumption) | (with_reducible exact fun _ => rfl) | (with_reducible rfl) | intro _ | (with_reducible apply lineClear_inv) | (with_reducible apply foldl_inv) | (with_reducible apply foldl_inv_snd) | (with_reducible apply ite_inv) | (with_reducible apply ite_inv_snd) | (with_reducible apply ite_inv_thd) | split)

theorem clearAll_inv (r : Requester) (ls : List Nat) (s : State) (h : Inv s) : Inv (clearAll r ls s).2 := by
  unfold clearAll
  try dsimp only
  repeat' (first | (with_reducible assumption) | (with_reducible exact fun _ => rfl) | (with_reducible rfl) | intro _ | (with_reducible apply clearLines_inv))

theorem clearVoided_inv (r : Requester) (ls : List Nat) (s : State) (h : Inv s) : Inv (clearVoided r ls s) := by
  unfold clearVoided
  try dsimp only
  repeat' (first | (with_reducible assumption) | (with_reducible exact fun _ => rfl) | (with_reducible rfl) | intro _ | (with_reducible apply modHome_inv) | (with_reducible apply forEach_inv) | (with_reducible apply ite_inv) | (with_reducible apply ite_inv_snd) | (with_reducible apply ite_inv_thd) | split)

theorem homeReadLines_inv (r : Requester) (xs : List (Nat × BitVec 4)) (s : State) (h : Inv s) : Inv (homeReadLines r xs s).2 := by
  induction xs generalizing s with
  | nil => exact h
  | cons x t ih =>
    obtain ⟨l, m⟩ := x
    unfold homeReadLines
    dsimp only
    split
    · exact ih s h
    · have k := fun g => homeReadLine_inv r l m g s h
      split
      · exact k _
      · exact ih _ (k _)

theorem homeReadBytes_inv (r : Requester) (a n : Nat) (s : State) (h : Inv s) : Inv (homeReadBytes r a n s).2 := by
  unfold homeReadBytes
  try dsimp only
  repeat' (first | (with_reducible assumption) | (with_reducible exact fun _ => rfl) | (with_reducible rfl) | intro _ | (with_reducible apply homeReadLines_inv))

theorem modPh_inv (n : Nat) (f : Pigeonhole → Pigeonhole) (s : State) (h : Inv s) : Inv (modPh n f s) := by
  unfold modPh
  try dsimp only
  repeat' (first | (with_reducible assumption) | (with_reducible exact fun _ => rfl) | (with_reducible rfl) | intro _ | (with_reducible apply modInnk_inv))

theorem sealReport_inv (n slot : Nat) (wide : Bool) (v : Word) (s : State) (h : Inv s) : Inv (sealReport n slot wide v s) := by
  unfold sealReport
  try dsimp only
  repeat' (first | (with_reducible assumption) | (with_reducible exact fun _ => rfl) | (with_reducible rfl) | intro _ | (with_reducible apply modPh_inv) | (with_reducible apply ite_inv))

theorem cqReport_inv (n : Nat) (wide : Bool) (v : Word) (s : State) (h : Inv s) : Inv (cqReport n wide v s) := by
  unfold cqReport
  try dsimp only
  repeat' (first | (with_reducible assumption) | (with_reducible exact fun _ => rfl) | (with_reducible rfl) | intro _ | (with_reducible apply modPh_inv) | (with_reducible apply ite_inv))

theorem reportWord_inv (w : Nat) (wide : Bool) (v : Word) (s : State) (h : Inv s) : Inv (reportWord w wide v s) := by
  unfold reportWord
  try dsimp only
  repeat' (first | (with_reducible assumption) | (with_reducible exact fun _ => rfl) | (with_reducible rfl) | intro _ | (with_reducible apply sealReport_inv) | (with_reducible apply cqReport_inv) | (with_reducible apply ite_inv) | (with_reducible apply ite_inv_snd) | (with_reducible apply ite_inv_thd) | split)

theorem reportWrite_inv (a : Nat) (bs : List Byte) (gone : List Nat) (s : State) (h : Inv s) : Inv (reportWrite a bs gone s) := by
  unfold reportWrite
  try dsimp only
  repeat' (first | (with_reducible assumption) | (with_reducible exact fun _ => rfl) | (with_reducible rfl) | intro _ | (with_reducible apply forEach_inv) | (with_reducible apply reportWord_inv) | (with_reducible apply ite_inv))

theorem homeWriteBytes_inv (r : Requester) (a : Nat) (bs : List Byte) (s : State) (h : Inv s) : Inv (homeWriteBytes r a bs s).2 := by
  unfold homeWriteBytes
  try dsimp only
  repeat' (first | (with_reducible assumption) | (with_reducible exact fun _ => rfl) | (with_reducible rfl) | intro _ | (with_reducible apply forEach_inv) | (with_reducible apply homeWriteSector_inv) | (with_reducible apply clearAll_inv) | (with_reducible apply clearVoided_inv) | (with_reducible apply reportWrite_inv) | (with_reducible apply ite_inv) | (with_reducible apply ite_inv_snd) | (with_reducible apply ite_inv_thd) | split)

theorem reportSector_inv (a : Nat) (en : BitVec 32) (d : BitVec 256) (s : State) (h : Inv s) : Inv (reportSector a en d s) := by
  unfold reportSector
  try dsimp only
  repeat' (first | (with_reducible assumption) | (with_reducible exact fun _ => rfl) | (with_reducible rfl) | intro _ | (with_reducible apply forEach_inv) | (with_reducible apply reportWord_inv) | (with_reducible apply ite_inv))

end Sys2Proof.Machine
end

