-- ==== Sys2Proof/Laws/InvIssueOps.lean ====
section
/-! SUPPORT. The functions of Machine/IssueOps.lean keep the invariant. -/

namespace Sys2Proof.Machine

theorem issueAt_inv {at_ : CoreSlot} {f : Insn} {unit : Nat} {s t : State} {i : Issue} (e : issueAt at_ f unit s = .go i t) (h : Inv s) : Inv t :=
  have r := (onlyCaravan_go e).rest
  h.same (congrArg State.mem r :) (congrArg State.chkXor r :) (congrArg State.errs r :) (congrArg State.errSeq r :)
    (congrArg (fun s => s.ldg.records) r :) (congrArg (fun s => s.ldg.next) r :)

theorem modCaravan_inv (at_ : CoreSlot) (g : Caravan → Caravan) (s : State) (h : Inv s) : Inv (modCaravan at_ g s) := by
  unfold modCaravan
  try dsimp only
  repeat' (first | (with_reducible assumption) | (with_reducible exact fun _ => rfl) | (with_reducible rfl) | intro _ | (with_reducible apply modCore_inv))

theorem issuedLast_inv (at_ : CoreSlot) (s : State) (h : Inv s) : Inv (issuedLast at_ s) := by
  unfold issuedLast
  try dsimp only
  repeat' (first | (with_reducible assumption) | (with_reducible exact fun _ => rfl) | (with_reducible rfl) | intro _ | (with_reducible apply modCore_inv))

theorem notePair_inv (i : Issue) (unit : Nat) (s : State) (h : Inv s) : Inv (notePair i unit s) := by
  unfold notePair
  try dsimp only
  repeat' (first | (with_reducible assumption) | (with_reducible exact fun _ => rfl) | (with_reducible rfl) | intro _ | (with_reducible apply modCaravan_inv) | (with_reducible apply issuedLast_inv))

theorem advance_inv (i : Issue) (unit : Nat) (s : State) (h : Inv s) : Inv (advance i unit s) := by
  unfold advance
  try dsimp only
  repeat' (first | (with_reducible assumption) | (with_reducible exact fun _ => rfl) | (with_reducible rfl) | intro _ | (with_reducible apply modCaravan_inv) | (with_reducible apply notePair_inv))

theorem raiseExc_inv (cl co slot itin cause : Nat) (pc : BitVec 40) (ths : BitVec 32) (addr : Word) (own : Bool) (s : State) (h : Inv s) : Inv (raiseExc cl co slot itin cause pc ths addr own s) := by
  unfold raiseExc
  try dsimp only
  repeat' (first | (with_reducible assumption) | (with_reducible exact fun _ => rfl) | (with_reducible rfl) | intro _ | (with_reducible apply logErr_inv) | (with_reducible apply draw_inv) | (with_reducible apply modCore_inv) | (with_reducible apply stageFault_inv) | (with_reducible apply ite_inv) | (with_reducible apply ite_inv_snd))

theorem exc_inv (i : Issue) (cause : Nat) (ths : BitVec 32) (addr : Word) (own : Bool) (s : State) (h : Inv s) : Inv (exc i cause ths addr own s) := by
  unfold exc
  try dsimp only
  repeat' (first | (with_reducible assumption) | (with_reducible exact fun _ => rfl) | (with_reducible rfl) | intro _ | (with_reducible apply advance_inv) | (with_reducible apply raiseExc_inv) | (with_reducible apply ite_inv))

theorem fetchExc_inv (at_ : CoreSlot) (pc : BitVec 40) (act : BitVec 32) (p : Nat) (s : State) (h : Inv s) : Inv (fetchExc at_ pc act p s) := by
  unfold fetchExc
  try dsimp only
  repeat' (first | (with_reducible assumption) | (with_reducible exact fun _ => rfl) | (with_reducible rfl) | intro _ | (with_reducible apply raiseExc_inv) | (with_reducible apply ite_inv) | (with_reducible apply ite_inv_snd) | (with_reducible apply ite_inv_thd) | split)

theorem reservedExc_inv (i : Issue) (s : State) (h : Inv s) : Inv (reservedExc i s) := by
  unfold reservedExc
  try dsimp only
  repeat' (first | (with_reducible assumption) | (with_reducible exact fun _ => rfl) | (with_reducible rfl) | intro _ | (with_reducible apply advance_inv) | (with_reducible apply exc_inv) | (with_reducible apply ite_inv))

theorem countLag_inv (at_ : CoreSlot) (s : State) (h : Inv s) : Inv (countLag at_ s) := by
  unfold countLag
  try dsimp only
  repeat' (first | (with_reducible assumption) | (with_reducible exact fun _ => rfl) | (with_reducible rfl) | intro _ | (with_reducible apply modCore_inv))

/-- The state an instruction issues in. -/
theorem issueGroup_inv {at_ : CoreSlot} {f : Insn} {unit : Nat} {s t : State} {i : Issue}
    (e : issueGroup at_ f unit s = .go i t ∨ issueGroup at_ f unit s = .reserved i t) (h : Inv s) : Inv t := by
  have k : t = s ∨ t = { s with freeCtr := s.freeCtr + 1 } := by
    obtain e | e := e
    all_goals
      unfold issueGroup at e
      split at e
      · cases e
      · split at e
        · dsimp only at e
          split at e
          · cases e
          · split at e <;> cases e
            exact drawIf_state _ _
        · cases e
  obtain rfl | rfl := k
  · exact h
  · exact h.same rfl rfl rfl rfl rfl rfl

theorem withIssue_inv (at_ : CoreSlot) (f : Insn) (unit : Nat) (body : Issue → State → State) (kb : ∀ i t, Inv t → Inv (body i t)) (s : State)
    (h : Inv s) : Inv (withIssue at_ f unit body s) := by
  have run : ∀ u, Inv u → Inv (match issueGroup at_ f unit u with
      | .idle => s
      | .outside pc act p => fetchExc at_ pc act p u
      | .reserved i t => reservedExc i t
      | .go i t => body i t) := by
    intro u hu
    split
    · exact h
    · exact fetchExc_inv _ _ _ _ _ hu
    · exact reservedExc_inv _ _ (issueGroup_inv (.inr (by assumption)) hu)
    · exact kb _ _ (issueGroup_inv (.inl (by assumption)) hu)
  unfold withIssue issueAt
  dsimp only
  split
  · exact run _ (countLag_inv _ _ h)
  · cases hc : !coreIssues s at_.cluster at_.core
    · exact run s h
    · exact h

theorem afterChain_inv (i : Issue) (eff : State → State) (s : State) (keff : ∀ (y0 : State), Inv y0 → Inv (eff y0)) (h : Inv s) : Inv (afterChain i eff s) := by
  unfold afterChain
  try dsimp only
  repeat' (first | (with_reducible assumption) | (with_reducible exact fun _ => rfl) | (with_reducible rfl) | intro _ | (with_reducible apply keff) | (with_reducible apply ite_inv))

theorem perThread_inv (i : Issue) (unit : Nat) (illegal : Bool) (uses : List OpUse) (zero : List (BitVec 8)) (eff : State → State) (s : State) (keff : ∀ (y0 : State), Inv y0 → Inv (eff y0)) (h : Inv s) : Inv (perThread i unit illegal uses zero eff s) := by
  unfold perThread
  try dsimp only
  repeat' (first | (with_reducible assumption) | (with_reducible exact fun _ => rfl) | (with_reducible rfl) | intro _ | (with_reducible apply advance_inv) | (with_reducible apply exc_inv) | (with_reducible apply keff) | (with_reducible apply ite_inv) | (with_reducible apply ite_inv_snd) | (with_reducible apply ite_inv_thd) | split)

theorem perGroup_inv (i : Issue) (unit : Nat) (illegal : Bool) (uses : List OpUse) (zero : List (BitVec 8)) (eff : State → State) (s : State) (keff : ∀ (y0 : State), Inv y0 → Inv (eff y0)) (h : Inv s) : Inv (perGroup i unit illegal uses zero eff s) := by
  unfold perGroup
  try dsimp only
  repeat' (first | (with_reducible assumption) | (with_reducible exact fun _ => rfl) | (with_reducible rfl) | intro _ | (with_reducible apply advance_inv) | (with_reducible apply exc_inv) | (with_reducible apply keff) | (with_reducible apply ite_inv) | (with_reducible apply ite_inv_snd) | (with_reducible apply ite_inv_thd) | split)

theorem putRes32_inv (i : Issue) (v : Nat → BitVec 32) (s : State) (h : Inv s) : Inv (putRes32 i v s) := by
  unfold putRes32
  try dsimp only
  repeat' (first | (with_reducible assumption) | (with_reducible exact fun _ => rfl) | (with_reducible rfl) | intro _ | (with_reducible apply modCaravan_inv) | (with_reducible apply ite_inv))

theorem putPair_inv (i : Issue) (code : BitVec 8) (m : BitVec 32) (v : Nat → Word) (s : State) (h : Inv s) : Inv (putPair i code m v s) := by
  unfold putPair
  try dsimp only
  repeat' (first | (with_reducible assumption) | (with_reducible exact fun _ => rfl) | (with_reducible rfl) | intro _ | (with_reducible apply modCaravan_inv) | (with_reducible apply ite_inv))

theorem retire_inv (at_ : CoreSlot) (s : State) (h : Inv s) : Inv (retire at_ s) := by
  unfold retire
  try dsimp only
  repeat' (first | (with_reducible assumption) | (with_reducible exact fun _ => rfl) | (with_reducible rfl) | intro _ | (with_reducible apply modCore_inv))

theorem raiseSplit_inv (at_ : CoreSlot) (s : State) (h : Inv s) : Inv (raiseSplit at_ s) := by
  unfold raiseSplit
  try dsimp only
  repeat' (first | (with_reducible assumption) | (with_reducible exact fun _ => rfl) | (with_reducible rfl) | intro _ | (with_reducible apply raiseExc_inv) | (with_reducible apply ite_inv) | (with_reducible apply ite_inv_snd) | (with_reducible apply ite_inv_thd) | split)

theorem caravanWide_inv (i : Issue) (go : Issue → State → State) (s : State) (kgo : ∀ (y0 : Issue) (y1 : State), Inv y1 → Inv (go y0 y1)) (h : Inv s) : Inv (caravanWide i go s) := by
  unfold caravanWide
  try dsimp only
  repeat' (first | (with_reducible assumption) | (with_reducible exact fun _ => rfl) | (with_reducible rfl) | intro _ | (with_reducible apply modCaravan_inv) | (with_reducible apply raiseSplit_inv) | (with_reducible apply kgo) | (with_reducible apply ite_inv))

end Sys2Proof.Machine
end

