-- ==== Sys2Proof/Laws/InvIntOps.lean ====
section
/-! SUPPORT. The functions of Machine/IntOps.lean keep the invariant. -/

namespace Sys2Proof.Machine

theorem intEffect_inv (op : IntOp) (i : Issue) (s : State) (h : Inv s) : Inv (intEffect op i s) := by
  unfold intEffect
  try dsimp only
  repeat' (first | (with_reducible assumption) | (with_reducible exact fun _ => rfl) | (with_reducible rfl) | intro _ | (with_reducible apply modCaravan_inv) | (with_reducible apply putRes32_inv) | (with_reducible apply putPair_inv) | (with_reducible apply ite_inv))

theorem doInt_inv (op : IntOp) (c : CoreSlot) (f : Insn) (s : State) (h : Inv s) : Inv (doInt op c f s) := by
  unfold doInt
  try dsimp only
  repeat' (first | (with_reducible assumption) | (with_reducible exact fun _ => rfl) | (with_reducible rfl) | intro _ | (with_reducible apply advance_inv) | (with_reducible apply withIssue_inv) | (with_reducible apply perThread_inv) | (with_reducible apply intEffect_inv))

end Sys2Proof.Machine
end

