-- ==== Sys2Proof/Laws/InvLoadStore.lean ====
section
/-! SUPPORT. The functions of Machine/LoadStore.lean keep the invariant. -/

namespace Sys2Proof.Machine

theorem putWide_inv (i : Issue) (regs : Nat) (v : Nat → BitVec 128) (s : State) (h : Inv s) : Inv (putWide i regs v s) := by
  unfold putWide
  try dsimp only
  repeat' (first | (with_reducible assumption) | (with_reducible exact fun _ => rfl) | (with_reducible rfl) | intro _ | (with_reducible apply modCaravan_inv) | (with_reducible apply foldl_inv) | (with_reducible apply foldl_inv_snd) | (with_reducible apply ite_inv))

theorem l1Read_inv (cl co l : Nat) (mask : BitVec 4) (s : State) (h : Inv s) : Inv (l1Read cl co l mask s).2 := by
  unfold l1Read
  try dsimp only
  repeat' (first | (with_reducible assumption) | (with_reducible exact fun _ => rfl) | (with_reducible rfl) | intro _ | (with_reducible apply modCore_inv) | (with_reducible apply ite_inv) | (with_reducible apply ite_inv_snd) | (with_reducible apply ite_inv_thd) | split)

theorem fillSectors_inv (cl co l : Nat) (rg : Region) (xs : List Nat) (s : State) (h : Inv s) : Inv (fillSectors cl co l rg xs s).2 := by
  induction xs generalizing s with
  | nil => exact h
  | cons k t ih =>
    unfold fillSectors
    dsimp only
    have j := homeReadLine_inv (.core cl co) l (maskBit 4 k) rg s h
    split
    · exact j
    · exact ih _ j

theorem doL1Fill_inv (cl co : Nat) (s : State) (h : Inv s) : Inv (doL1Fill cl co s) := by
  unfold doL1Fill
  try dsimp only
  repeat' (first | (with_reducible assumption) | (with_reducible exact fun _ => rfl) | (with_reducible rfl) | intro _ | (with_reducible apply modCore_inv) | (with_reducible apply fillSectors_inv) | (with_reducible apply ite_inv) | (with_reducible apply ite_inv_snd) | (with_reducible apply ite_inv_thd) | split)

theorem coreReadLine_inv (cl co l : Nat) (mask : BitVec 4) (s : State) (h : Inv s) : Inv (coreReadLine cl co l mask s).2 := by
  unfold coreReadLine
  try dsimp only
  repeat' (first | (with_reducible assumption) | (with_reducible exact fun _ => rfl) | (with_reducible rfl) | intro _ | (with_reducible apply homeReadLine_inv) | (with_reducible apply l1Read_inv) | (with_reducible apply ite_inv) | (with_reducible apply ite_inv_snd) | (with_reducible apply ite_inv_thd) | split)

theorem coreReadLines_inv (cl co : Nat) (xs : List (Nat × BitVec 4)) (s : State) (h : Inv s) : Inv (coreReadLines cl co xs s).2 := by
  induction xs generalizing s with
  | nil => exact h
  | cons x t ih =>
    obtain ⟨l, m⟩ := x
    unfold coreReadLines
    dsimp only
    have k := coreReadLine_inv cl co l m s h
    split
    · exact k
    · exact ih _ k

theorem loadGlobal_inv (i : Issue) (s : State) (h : Inv s) : Inv (loadGlobal i s) := by
  unfold loadGlobal
  try dsimp only
  repeat' (first | (with_reducible assumption) | (with_reducible exact fun _ => rfl) | (with_reducible rfl) | intro _ | (with_reducible apply modCore_inv) | (with_reducible apply advance_inv) | (with_reducible apply exc_inv) | (with_reducible apply putWide_inv) | (with_reducible apply coreReadLines_inv) | (with_reducible apply ite_inv) | (with_reducible apply ite_inv_snd) | (with_reducible apply ite_inv_thd) | split)

theorem loadLocal_inv (i : Issue) (s : State) (h : Inv s) : Inv (loadLocal i s) := by
  unfold loadLocal
  try dsimp only
  repeat' (first | (with_reducible assumption) | (with_reducible exact fun _ => rfl) | (with_reducible rfl) | intro _ | (with_reducible apply advance_inv) | (with_reducible apply exc_inv) | (with_reducible apply putWide_inv) | (with_reducible apply ite_inv) | (with_reducible apply ite_inv_snd) | (with_reducible apply ite_inv_thd) | split)

theorem storeGlobal_inv (i : Issue) (s : State) (h : Inv s) : Inv (storeGlobal i s) := by
  unfold storeGlobal
  try dsimp only
  repeat' (first | (with_reducible assumption) | (with_reducible exact fun _ => rfl) | (with_reducible rfl) | intro _ | (with_reducible apply forEach_inv) | (with_reducible apply homeWriteSector_inv) | (with_reducible apply clearAll_inv) | (with_reducible apply advance_inv) | (with_reducible apply exc_inv) | (with_reducible apply ite_inv) | (with_reducible apply ite_inv_snd) | (with_reducible apply ite_inv_thd) | split)

theorem storeLocal_inv (i : Issue) (s : State) (h : Inv s) : Inv (storeLocal i s) := by
  unfold storeLocal
  try dsimp only
  repeat' (first | (with_reducible assumption) | (with_reducible exact fun _ => rfl) | (with_reducible rfl) | intro _ | (with_reducible apply modCluster_inv) | (with_reducible apply advance_inv) | (with_reducible apply exc_inv) | (with_reducible apply foldl_inv) | (with_reducible apply foldl_inv_snd) | (with_reducible apply ite_inv) | (with_reducible apply ite_inv_snd) | (with_reducible apply ite_inv_thd) | split)

theorem deadHints_inv (i : Issue) (s : State) (h : Inv s) : Inv (deadHints i s) := by
  unfold deadHints
  try dsimp only
  repeat' (first | (with_reducible assumption) | (with_reducible exact fun _ => rfl) | (with_reducible rfl) | intro _ | (with_reducible apply forEach_inv) | (with_reducible apply homeDead_inv) | (with_reducible apply advance_inv) | (with_reducible apply exc_inv) | (with_reducible apply ite_inv) | (with_reducible apply ite_inv_snd) | (with_reducible apply ite_inv_thd) | split)

theorem doLs_inv (op : LsOp) (eff : Issue → State → State) (c : CoreSlot) (f : Insn) (s : State) (keff : ∀ (y0 : Issue) (y1 : State), Inv y1 → Inv (eff y0 y1)) (h : Inv s) : Inv (doLs op eff c f s) := by
  unfold doLs
  try dsimp only
  repeat' (first | (with_reducible assumption) | (with_reducible exact fun _ => rfl) | (with_reducible rfl) | intro _ | (with_reducible apply withIssue_inv) | (with_reducible apply perThread_inv) | (with_reducible apply keff))

theorem atRequests_inv (op : AtOp) (i : Issue) (wide : Bool) (xs : List Nat) (s : State) (h : Inv s) :
    Inv (atRequests op i wide xs s).2.2 := by
  induction xs generalizing s with
  | nil => exact h
  | cons a t ih =>
    unfold atRequests
    dsimp only
    split
    · exact ih s h
    · split <;> exact ih _ (homeAtomicOp_inv _ _ _ _ _ _ _ h)

theorem atEffect_inv (op : AtOp) (i : Issue) (s : State) (h : Inv s) : Inv (atEffect op i s) := by
  unfold atEffect
  try dsimp only
  repeat' (first | (with_reducible assumption) | (with_reducible exact fun _ => rfl) | (with_reducible rfl) | intro _ | (with_reducible apply clearAll_inv) | (with_reducible apply advance_inv) | (with_reducible apply exc_inv) | (with_reducible apply putWide_inv) | (with_reducible apply atRequests_inv) | (with_reducible apply ite_inv) | (with_reducible apply ite_inv_snd) | (with_reducible apply ite_inv_thd) | split)

theorem doAt_inv (op : AtOp) (c : CoreSlot) (f : Insn) (s : State) (h : Inv s) : Inv (doAt op c f s) := by
  unfold doAt
  try dsimp only
  repeat' (first | (with_reducible assumption) | (with_reducible exact fun _ => rfl) | (with_reducible rfl) | intro _ | (with_reducible apply withIssue_inv) | (with_reducible apply afterChain_inv) | (with_reducible apply perThread_inv) | (with_reducible apply atEffect_inv))

end Sys2Proof.Machine
end

