-- ==== Sys2Proof/Laws/InvCoreCtl.lean ====
section
/-! SUPPORT. The functions of Machine/CoreCtl.lean keep the invariant. -/

namespace Sys2Proof.Machine

theorem copyIn_inv (i : Issue) (s : State) (h : Inv s) : Inv (copyIn i s) := by
  unfold copyIn
  try dsimp only
  repeat' (first | (with_reducible assumption) | (with_reducible exact fun _ => rfl) | (with_reducible rfl) | intro _ | (with_reducible apply modCluster_inv) | (with_reducible apply advance_inv) | (with_reducible apply exc_inv) | (with_reducible apply ite_inv) | (with_reducible apply ite_inv_snd) | (with_reducible apply ite_inv_thd) | split)

theorem doCpyIn_inv (c : CoreSlot) (f : Insn) (s : State) (h : Inv s) : Inv (doCpyIn c f s) := by
  unfold doCpyIn
  try dsimp only
  repeat' (first | (with_reducible assumption) | (with_reducible exact fun _ => rfl) | (with_reducible rfl) | intro _ | (with_reducible apply withIssue_inv) | (with_reducible apply afterChain_inv) | (with_reducible apply perGroup_inv) | (with_reducible apply copyIn_inv))

theorem deliverCopy_inv (cl req sector : Nat) (s : State) (h : Inv s) : Inv (deliverCopy cl req sector s) := by
  unfold deliverCopy
  try dsimp only
  repeat' (first | (with_reducible assumption) | (with_reducible exact fun _ => rfl) | (with_reducible rfl) | intro _ | (with_reducible apply modCluster_inv) | (with_reducible apply homeReadLine_inv) | (with_reducible apply foldl_inv) | (with_reducible apply foldl_inv_snd) | (with_reducible apply ite_inv) | (with_reducible apply ite_inv_snd) | (with_reducible apply ite_inv_thd) | split)

theorem branch_inv (i : Issue) (target : Nat → BitVec 40) (s : State) (h : Inv s) : Inv (branch i target s) := by
  unfold branch
  try dsimp only
  repeat' (first | (with_reducible assumption) | (with_reducible exact fun _ => rfl) | (with_reducible rfl) | intro _ | (with_reducible apply modCaravan_inv) | (with_reducible apply issuedLast_inv))

theorem linkWrite_inv (i : Issue) (s : State) (h : Inv s) : Inv (linkWrite i s) := by
  unfold linkWrite
  try dsimp only
  repeat' (first | (with_reducible assumption) | (with_reducible exact fun _ => rfl) | (with_reducible rfl) | intro _ | (with_reducible apply putPair_inv) | (with_reducible apply ite_inv))

theorem doBra_inv (c : CoreSlot) (f : Insn) (s : State) (h : Inv s) : Inv (doBra c f s) := by
  unfold doBra
  try dsimp only
  repeat' (first | (with_reducible assumption) | (with_reducible exact fun _ => rfl) | (with_reducible rfl) | intro _ | (with_reducible apply withIssue_inv) | (with_reducible apply perThread_inv) | (with_reducible apply branch_inv) | (with_reducible apply linkWrite_inv))

theorem doBrx_inv (c : CoreSlot) (f : Insn) (s : State) (h : Inv s) : Inv (doBrx c f s) := by
  unfold doBrx
  try dsimp only
  repeat' (first | (with_reducible assumption) | (with_reducible exact fun _ => rfl) | (with_reducible rfl) | intro _ | (with_reducible apply exc_inv) | (with_reducible apply withIssue_inv) | (with_reducible apply perThread_inv) | (with_reducible apply branch_inv) | (with_reducible apply linkWrite_inv) | (with_reducible apply ite_inv) | (with_reducible apply ite_inv_snd) | (with_reducible apply ite_inv_thd) | split)

theorem doNop_inv (c : CoreSlot) (f : Insn) (s : State) (h : Inv s) : Inv (doNop c f s) := by
  unfold doNop
  try dsimp only
  repeat' (first | (with_reducible assumption) | (with_reducible exact fun _ => rfl) | (with_reducible rfl) | intro _ | (with_reducible apply advance_inv) | (with_reducible apply withIssue_inv) | (with_reducible apply perThread_inv))

theorem doExit_inv (c : CoreSlot) (f : Insn) (s : State) (h : Inv s) : Inv (doExit c f s) := by
  unfold doExit
  try dsimp only
  repeat' (first | (with_reducible assumption) | (with_reducible exact fun _ => rfl) | (with_reducible rfl) | intro _ | (with_reducible apply modCaravan_inv) | (with_reducible apply advance_inv) | (with_reducible apply withIssue_inv) | (with_reducible apply perThread_inv) | (with_reducible apply retire_inv))

theorem doTrap_inv (c : CoreSlot) (f : Insn) (s : State) (h : Inv s) : Inv (doTrap c f s) := by
  unfold doTrap
  try dsimp only
  repeat' (first | (with_reducible assumption) | (with_reducible exact fun _ => rfl) | (with_reducible rfl) | intro _ | (with_reducible apply exc_inv) | (with_reducible apply withIssue_inv) | (with_reducible apply perThread_inv))

theorem doWaitc_inv (c : CoreSlot) (f : Insn) (s : State) (h : Inv s) : Inv (doWaitc c f s) := by
  unfold doWaitc
  try dsimp only
  repeat' (first | (with_reducible assumption) | (with_reducible exact fun _ => rfl) | (with_reducible rfl) | intro _ | (with_reducible apply advance_inv) | (with_reducible apply withIssue_inv) | (with_reducible apply perGroup_inv) | (with_reducible apply ite_inv))

theorem doArv_inv (c : CoreSlot) (f : Insn) (s : State) (h : Inv s) : Inv (doArv c f s) := by
  unfold doArv
  try dsimp only
  repeat' (first | (with_reducible assumption) | (with_reducible exact fun _ => rfl) | (with_reducible rfl) | intro _ | (with_reducible apply modCluster_inv) | (with_reducible apply advance_inv) | (with_reducible apply withIssue_inv) | (with_reducible apply afterChain_inv) | (with_reducible apply perGroup_inv))

theorem doShfl_inv (c : CoreSlot) (f : Insn) (s : State) (h : Inv s) : Inv (doShfl c f s) := by
  unfold doShfl
  try dsimp only
  repeat' (first | (with_reducible assumption) | (with_reducible exact fun _ => rfl) | (with_reducible rfl) | intro _ | (with_reducible apply advance_inv) | (with_reducible apply exc_inv) | (with_reducible apply withIssue_inv) | (with_reducible apply perThread_inv) | (with_reducible apply putRes32_inv) | (with_reducible apply ite_inv))

theorem doVote_inv (c : CoreSlot) (f : Insn) (s : State) (h : Inv s) : Inv (doVote c f s) := by
  unfold doVote
  try dsimp only
  repeat' (first | (with_reducible assumption) | (with_reducible exact fun _ => rfl) | (with_reducible rfl) | intro _ | (with_reducible apply modCaravan_inv) | (with_reducible apply advance_inv) | (with_reducible apply withIssue_inv) | (with_reducible apply perThread_inv))

theorem doBallot_inv (c : CoreSlot) (f : Insn) (s : State) (h : Inv s) : Inv (doBallot c f s) := by
  unfold doBallot
  try dsimp only
  repeat' (first | (with_reducible assumption) | (with_reducible exact fun _ => rfl) | (with_reducible rfl) | intro _ | (with_reducible apply advance_inv) | (with_reducible apply withIssue_inv) | (with_reducible apply perThread_inv) | (with_reducible apply putRes32_inv))

theorem doSplitTimeout_inv (c : CoreSlot) (s : State) (h : Inv s) : Inv (doSplitTimeout c s) := by
  unfold doSplitTimeout
  try dsimp only
  repeat' (first | (with_reducible assumption) | (with_reducible exact fun _ => rfl) | (with_reducible rfl) | intro _ | (with_reducible apply raiseSplit_inv) | (with_reducible apply ite_inv) | (with_reducible apply ite_inv_snd) | (with_reducible apply ite_inv_thd) | split)

end Sys2Proof.Machine
end

