-- ==== Sys2Proof/Laws/InvMatrix.lean ====
section
/-! SUPPORT. The functions of Machine/Matrix.lean keep the invariant. -/

namespace Sys2Proof.Machine

theorem mxEnter_inv (op : MxOp) (i : Issue) (s : State) (h : Inv s) : Inv (mxEnter op i s) := by
  unfold mxEnter
  try dsimp only
  repeat' (first | (with_reducible assumption) | (with_reducible exact fun _ => rfl) | (with_reducible rfl) | intro _ | (with_reducible apply modCore_inv) | (with_reducible apply modCaravan_inv) | (with_reducible apply advance_inv) | (with_reducible apply exc_inv) | (with_reducible apply ite_inv))

theorem doMx_inv (op : MxOp) (c : CoreSlot) (f : Insn) (s : State) (h : Inv s) : Inv (doMx op c f s) := by
  unfold doMx
  try dsimp only
  repeat' (first | (with_reducible assumption) | (with_reducible exact fun _ => rfl) | (with_reducible rfl) | intro _ | (with_reducible apply exc_inv) | (with_reducible apply withIssue_inv) | (with_reducible apply caravanWide_inv) | (with_reducible apply mxEnter_inv) | (with_reducible apply ite_inv) | (with_reducible apply ite_inv_snd) | (with_reducible apply ite_inv_thd) | split)

theorem doMxComplete_inv (cl co : Nat) (s : State) (h : Inv s) : Inv (doMxComplete cl co s) := by
  unfold doMxComplete
  try dsimp only
  repeat' (first | (with_reducible assumption) | (with_reducible exact fun _ => rfl) | (with_reducible rfl) | intro _ | (with_reducible apply modCore_inv) | (with_reducible apply modLeg_inv) | (with_reducible apply retire_inv) | (with_reducible apply ite_inv) | (with_reducible apply ite_inv_snd) | (with_reducible apply ite_inv_thd) | split)

end Sys2Proof.Machine
end

