-- ==== Sys2Proof/Laws/InvChain.lean ====
section
/-! SUPPORT. The functions of Machine/Chain.lean keep the invariant. -/

namespace Sys2Proof.Machine

theorem vopEnter_inv (i : Issue) (j : VcJob) (s : State) (h : Inv s) : Inv (vopEnter i j s) := by
  unfold vopEnter
  try dsimp only
  repeat' (first | (with_reducible assumption) | (with_reducible exact fun _ => rfl) | (with_reducible rfl) | intro _ | (with_reducible apply modCore_inv) | (with_reducible apply modCaravan_inv) | (with_reducible apply advance_inv) | (with_reducible apply ite_inv))

theorem vopConfigured_inv (i : Issue) (s : State) (h : Inv s) : Inv (vopConfigured i s) := by
  unfold vopConfigured
  try dsimp only
  repeat' (first | (with_reducible assumption) | (with_reducible exact fun _ => rfl) | (with_reducible rfl) | intro _ | (with_reducible apply exc_inv) | (with_reducible apply vopEnter_inv) | (with_reducible apply ite_inv))

theorem doVop_inv (c : CoreSlot) (f : Insn) (s : State) (h : Inv s) : Inv (doVop c f s) := by
  unfold doVop
  try dsimp only
  repeat' (first | (with_reducible assumption) | (with_reducible exact fun _ => rfl) | (with_reducible rfl) | intro _ | (with_reducible apply exc_inv) | (with_reducible apply withIssue_inv) | (with_reducible apply vopEnter_inv) | (with_reducible apply vopConfigured_inv) | (with_reducible apply ite_inv))

theorem fetchPieces_inv (cl co itin : Nat) (ps : List Piece) (s : State) (h : Inv s) : Inv (fetchPieces cl co itin ps s).2 := by
  unfold fetchPieces
  try dsimp only
  repeat' (first | (with_reducible assumption) | (with_reducible exact fun _ => rfl) | (with_reducible rfl) | intro _ | (with_reducible apply coreReadLines_inv))

theorem writeBytes_inv (cl co : Nat) (gs ls : List (Nat × Byte)) (s : State) (h : Inv s) : Inv (writeBytes cl co gs ls s) := by
  unfold writeBytes
  try dsimp only
  repeat' (first | (with_reducible assumption) | (with_reducible exact fun _ => rfl) | (with_reducible rfl) | intro _ | (with_reducible apply modCluster_inv) | (with_reducible apply forEach_inv) | (with_reducible apply homeWriteSector_inv) | (with_reducible apply foldl_inv) | (with_reducible apply foldl_inv_snd) | (with_reducible apply ite_inv) | (with_reducible apply ite_inv_snd) | (with_reducible apply ite_inv_thd) | split)

theorem drawSectors_inv (xs : List (Nat × Nat)) (s : State) (h : Inv s) : Inv (drawSectors xs s).2 := by
  induction xs generalizing s with
  | nil => exact h
  | cons x t ih => exact ih _ (draw_inv 1 h)

theorem drawChannels_inv (xs : List (Nat × Nat)) (s : State) (h : Inv s) : Inv (drawChannels xs s).2 := by
  induction xs generalizing s with
  | nil => exact h
  | cons x t ih => exact ih _ (draw_inv 32 h)

theorem vopExc_inv (cl co : Nat) (j : VcJob) (itin : Nat) (f : Nat × Nat × Bool) (s : State) (h : Inv s) : Inv (vopExc cl co j itin f s) := by
  unfold vopExc
  try dsimp only
  repeat' (first | (with_reducible assumption) | (with_reducible exact fun _ => rfl) | (with_reducible rfl) | intro _ | (with_reducible apply modCore_inv) | (with_reducible apply raiseExc_inv))

theorem vopEnd_inv (cl co : Nat) (j : VcJob) (itin act : Nat) (fl : Flags) (dst : Option Nat) (s : State) (h : Inv s) : Inv (vopEnd cl co j itin act fl dst s) := by
  unfold vopEnd
  try dsimp only
  repeat' (first | (with_reducible assumption) | (with_reducible exact fun _ => rfl) | (with_reducible rfl) | intro _ | (with_reducible apply modCore_inv) | (with_reducible apply modLeg_inv) | (with_reducible apply modCaravan_inv) | (with_reducible apply retire_inv) | (with_reducible apply foldl_inv) | (with_reducible apply foldl_inv_snd) | (with_reducible apply ite_inv) | (with_reducible apply ite_inv_snd) | (with_reducible apply ite_inv_thd) | split)

theorem vopRun_inv (cl co : Nat) (j : VcJob) (car : Caravan) (g : Fetched) (act : List Nat) (s : State) (h : Inv s) : Inv (vopRun cl co j car g act s) := by
  unfold vopRun
  try dsimp only
  repeat' (first | (with_reducible assumption) | (with_reducible exact fun _ => rfl) | (with_reducible rfl) | intro _ | (with_reducible apply writeBytes_inv) | (with_reducible apply drawSectors_inv) | (with_reducible apply drawChannels_inv) | (with_reducible apply vopEnd_inv))

theorem doVopComplete_inv (cl co : Nat) (s : State) (h : Inv s) : Inv (doVopComplete cl co s) := by
  unfold doVopComplete
  try dsimp only
  repeat' (first | (with_reducible assumption) | (with_reducible exact fun _ => rfl) | (with_reducible rfl) | intro _ | (with_reducible apply modCore_inv) | (with_reducible apply clearAll_inv) | (with_reducible apply fetchPieces_inv) | (with_reducible apply vopExc_inv) | (with_reducible apply vopEnd_inv) | (with_reducible apply vopRun_inv) | (with_reducible apply ite_inv) | (with_reducible apply ite_inv_snd) | (with_reducible apply ite_inv_thd) | split)

end Sys2Proof.Machine
end

