-- ==== Sys2Proof/Laws/InvHomeCmds.lean ====
section
/-! SUPPORT. The functions of Machine/HomeCmds.lean keep the invariant. -/

namespace Sys2Proof.Machine

theorem setPxLine_inv (d l : Nat) (v : Option PxLine) (s : State) (h : Inv s) : Inv (setPxLine d l v s) := by
  unfold setPxLine
  try dsimp only
  repeat' (first | (with_reducible assumption) | (with_reducible exact fun _ => rfl) | (with_reducible rfl) | intro _ | (with_reducible apply modPx_inv) | (with_reducible apply pxDrop_inv) | (with_reducible apply ite_inv))

theorem pxObtain_inv (d l : Nat) (own : Bool) (rg : Region) (s : State) (h : Inv s) : Inv (pxObtain d l own rg s).2 := by
  unfold pxObtain
  try dsimp only
  repeat' (first | (with_reducible assumption) | (with_reducible exact fun _ => rfl) | (with_reducible rfl) | intro _ | (with_reducible apply modHome_inv) | (with_reducible apply dirRoom_inv) | (with_reducible apply readClear_inv) | (with_reducible apply lineClear_inv) | (with_reducible apply homeReadLine_inv) | (with_reducible apply setPxLine_inv) | (with_reducible apply ite_inv) | (with_reducible apply ite_inv_snd) | (with_reducible apply ite_inv_thd) | split)

theorem pxSupply_inv (n l : Nat) (secs : List Sector) (s : State) (h : Inv s) : Inv (pxSupply n l secs s) := by
  unfold pxSupply
  try dsimp only
  repeat' (first | (with_reducible assumption) | (with_reducible exact fun _ => rfl) | (with_reducible rfl) | intro _ | (with_reducible apply forEach_inv) | (with_reducible apply evbDrainThrough_inv) | (with_reducible apply allocLine_inv) | (with_reducible apply putSector_inv) | (with_reducible apply memWrite_inv) | (with_reducible apply ite_inv) | (with_reducible apply ite_inv_snd) | (with_reducible apply ite_inv_thd) | split)

theorem pxWriteBack_inv (d l : Nat) (keep : Bool) (s : State) (h : Inv s) : Inv (pxWriteBack d l keep s) := by
  unfold pxWriteBack
  try dsimp only
  repeat' (first | (with_reducible assumption) | (with_reducible exact fun _ => rfl) | (with_reducible rfl) | intro _ | (with_reducible apply modHome_inv) | (with_reducible apply setPxLine_inv) | (with_reducible apply pxSupply_inv) | (with_reducible apply ite_inv) | (with_reducible apply ite_inv_snd) | (with_reducible apply ite_inv_thd) | split)

theorem doSnoopAnswer_inv (n l d : Nat) (s : State) (h : Inv s) : Inv (doSnoopAnswer n l d s) := by
  unfold doSnoopAnswer
  try dsimp only
  repeat' (first | (with_reducible assumption) | (with_reducible exact fun _ => rfl) | (with_reducible rfl) | intro _ | (with_reducible apply modHome_inv) | (with_reducible apply settlePins_inv) | (with_reducible apply setPxLine_inv) | (with_reducible apply pxSupply_inv) | (with_reducible apply ite_inv) | (with_reducible apply ite_inv_snd) | (with_reducible apply ite_inv_thd) | split)

theorem doCoherenceTimeout_inv (n l : Nat) (s : State) (h : Inv s) : Inv (doCoherenceTimeout n l s) := by
  unfold doCoherenceTimeout
  try dsimp only
  repeat' (first | (with_reducible assumption) | (with_reducible exact fun _ => rfl) | (with_reducible rfl) | intro _ | (with_reducible apply logErr_inv) | (with_reducible apply modHome_inv) | (with_reducible apply modPorter_inv) | (with_reducible apply forEach_inv) | (with_reducible apply stageFault_inv) | (with_reducible apply evbDrainThrough_inv) | (with_reducible apply dropForeign_inv) | (with_reducible apply allocLine_inv) | (with_reducible apply settlePins_inv) | (with_reducible apply setPxLine_inv) | (with_reducible apply ite_inv) | (with_reducible apply ite_inv_snd) | (with_reducible apply ite_inv_thd) | split)

theorem completeCkpt_inv (s : State) (h : Inv s) : Inv (completeCkpt s) := by
  unfold completeCkpt
  try dsimp only
  repeat' (first | (with_reducible assumption) | (with_reducible exact fun _ => rfl) | (with_reducible rfl) | intro _ | (with_reducible apply modLdg_inv) | (with_reducible apply ite_inv) | (with_reducible apply ite_inv_snd) | (with_reducible apply ite_inv_thd) | split | (with_reducible refine Inv.ofSnd (by assumption) ?_) | (with_reducible refine Inv.ofThd (by assumption) ?_) | (fail_if_no_progress refine inv_mk rfl rfl rfl rfl rfl rfl ?_))

theorem doHomeFlushDone_inv (n : Nat) (s : State) (h : Inv s) : Inv (doHomeFlushDone n s) := by
  unfold doHomeFlushDone
  try dsimp only
  repeat' (first | (with_reducible assumption) | (with_reducible exact fun _ => rfl) | (with_reducible rfl) | intro _ | (with_reducible apply modHome_inv) | (with_reducible apply modLdg_inv) | (with_reducible apply modSb_inv) | (with_reducible apply forEach_inv) | (with_reducible apply drainMarked_inv) | (with_reducible apply drainLine_inv) | (with_reducible apply cleanLine_inv) | (with_reducible apply completeCkpt_inv) | (with_reducible apply ite_inv))

theorem doHomeRead_inv (r : Requester) (addr : Nat) (mask : BitVec 4) (s : State) (h : Inv s) : Inv (doHomeRead r addr mask s) := by
  unfold doHomeRead
  try dsimp only
  repeat' (first | (with_reducible assumption) | (with_reducible exact fun _ => rfl) | (with_reducible rfl) | intro _ | (with_reducible apply homeReadLine_inv) | (with_reducible apply pxObtain_inv) | (with_reducible apply ite_inv) | (with_reducible apply ite_inv_snd) | (with_reducible apply ite_inv_thd) | split)

theorem doHomeWrite_inv (r : Requester) (addr : Nat) (en : BitVec 32) (d : BitVec 256) (s : State) (h : Inv s) : Inv (doHomeWrite r addr en d s) := by
  unfold doHomeWrite
  try dsimp only
  repeat' (first | (with_reducible assumption) | (with_reducible exact fun _ => rfl) | (with_reducible rfl) | intro _ | (with_reducible apply homeWriteSector_inv) | (with_reducible apply clearVoided_inv) | (with_reducible apply reportSector_inv) | (with_reducible apply ite_inv) | (with_reducible apply ite_inv_snd) | (with_reducible apply ite_inv_thd) | split)

theorem doHomeAtomic_inv (r : Requester) (op : AtOp) (wide : Bool) (addr : Nat) (os : List AtOperand) (s : State) (h : Inv s) : Inv (doHomeAtomic r op wide addr os s) := by
  unfold doHomeAtomic
  try dsimp only
  repeat' (first | (with_reducible assumption) | (with_reducible exact fun _ => rfl) | (with_reducible rfl) | intro _ | (with_reducible apply homeAtomicOp_inv) | (with_reducible apply ite_inv) | (with_reducible apply ite_inv_snd) | (with_reducible apply ite_inv_thd) | split)

theorem doHomeDead_inv (addr : Nat) (s : State) (h : Inv s) : Inv (doHomeDead addr s) := by
  unfold doHomeDead
  try dsimp only
  repeat' (first | (with_reducible assumption) | (with_reducible exact fun _ => rfl) | (with_reducible rfl) | intro _ | (with_reducible apply homeDead_inv) | (with_reducible apply ite_inv) | (with_reducible apply ite_inv_snd) | (with_reducible apply ite_inv_thd) | split)

theorem doWriteback_inv (n : Nat) (s : State) (h : Inv s) : Inv (doWriteback n s) := by
  unfold doWriteback
  try dsimp only
  repeat' (first | (with_reducible assumption) | (with_reducible exact fun _ => rfl) | (with_reducible rfl) | intro _ | (with_reducible apply evbDrain_inv) | (with_reducible apply ite_inv) | (with_reducible apply ite_inv_snd) | (with_reducible apply ite_inv_thd) | split)

end Sys2Proof.Machine
end

