-- ==== Sys2Proof/Laws/InvMemCmds.lean ====
section
/-! SUPPORT. The functions of Machine/MemCmds.lean keep the invariant. -/

namespace Sys2Proof.Machine

theorem strikeBoth_inv (a : Nat) (err copyErr : WordErr) (s : State) (h : Inv s) : Inv (strikeBoth a err copyErr s) := by
  unfold strikeBoth
  try dsimp only
  repeat' (first | (with_reducible assumption) | (with_reducible exact fun _ => rfl) | (with_reducible rfl) | intro _ | (with_reducible apply strike_inv) | (with_reducible apply ite_inv) | (with_reducible apply ite_inv_snd) | (with_reducible apply ite_inv_thd) | split)

theorem countRetries_inv (n k : Nat) (s : State) (h : Inv s) : Inv (countRetries n k s) := by
  unfold countRetries
  try dsimp only
  repeat' (first | (with_reducible assumption) | (with_reducible exact fun _ => rfl) | (with_reducible rfl) | intro _ | (with_reducible apply modCtl_inv))

theorem doMemRead_inv (addr : Nat) (err copyErr : WordErr) (ifFails : Nat) (s : State) (h : Inv s) : Inv (doMemRead addr err copyErr ifFails s) := by
  unfold doMemRead
  try dsimp only
  repeat' (first | (with_reducible assumption) | (with_reducible exact fun _ => rfl) | (with_reducible rfl) | intro _ | (with_reducible apply ctlRead_inv) | (with_reducible apply strikeBoth_inv) | (with_reducible apply countRetries_inv) | (with_reducible apply ite_inv))

theorem doWcbWrite_inv (addr : Nat) (en : BitVec 32) (d : BitVec 256) (s : State) (h : Inv s) : Inv (doWcbWrite addr en d s) := by
  unfold doWcbWrite
  try dsimp only
  repeat' (first | (with_reducible assumption) | (with_reducible exact fun _ => rfl) | (with_reducible rfl) | intro _ | (with_reducible apply ctlWrite_inv) | (with_reducible apply ite_inv))

theorem doWcbIdleDrain_inv (n line : Nat) (s : State) (h : Inv s) : Inv (doWcbIdleDrain n line s) := by
  unfold doWcbIdleDrain
  try dsimp only
  repeat' (first | (with_reducible assumption) | (with_reducible exact fun _ => rfl) | (with_reducible rfl) | intro _ | (with_reducible apply drainEntry_inv) | (with_reducible apply ite_inv) | (with_reducible apply ite_inv_snd) | (with_reducible apply ite_inv_thd) | split)

theorem doPhyRetrainDone_inv (n : Nat) (ok : Bool) (s : State) (h : Inv s) : Inv (doPhyRetrainDone n ok s) := by
  unfold doPhyRetrainDone
  try dsimp only
  repeat' (first | (with_reducible assumption) | (with_reducible exact fun _ => rfl) | (with_reducible rfl) | intro _ | (with_reducible apply modCtl_inv) | (with_reducible apply stackLoss_inv) | (with_reducible apply settlePins_inv) | (with_reducible apply ite_inv))

theorem doRefresh_inv (n pc bank : Nat) (s : State) (h : Inv s) : Inv (doRefresh n pc bank s) := by
  unfold doRefresh
  try dsimp only
  repeat' (first | (with_reducible assumption) | (with_reducible exact fun _ => rfl) | (with_reducible rfl) | intro _ | (with_reducible apply modCtl_inv) | (with_reducible apply ite_inv))

theorem doTempRead_inv (n : Nat) (t : BitVec 8) (s : State) (h : Inv s) : Inv (doTempRead n t s) := by
  unfold doTempRead
  try dsimp only
  repeat' (first | (with_reducible assumption) | (with_reducible exact fun _ => rfl) | (with_reducible rfl) | intro _ | (with_reducible apply modCtl_inv) | (with_reducible apply ite_inv))

theorem doPatrolScrub_inv (n : Nat) (err copyErr : WordErr) (s : State) (h : Inv s) : Inv (doPatrolScrub n err copyErr s) := by
  unfold doPatrolScrub
  try dsimp only
  repeat' (first | (with_reducible assumption) | (with_reducible exact fun _ => rfl) | (with_reducible rfl) | intro _ | (with_reducible apply modCtl_inv) | (with_reducible apply storeSector_inv) | (with_reducible apply stackRead_inv) | (with_reducible apply strikeBoth_inv) | (with_reducible apply ite_inv) | (with_reducible apply ite_inv_snd) | (with_reducible apply ite_inv_thd) | split)

theorem doMirrorLineCopy_inv (base : Nat) (s : State) (h : Inv s) : Inv (doMirrorLineCopy base s) := by
  unfold doMirrorLineCopy
  try dsimp only
  repeat' (first | (with_reducible assumption) | (with_reducible exact fun _ => rfl) | (with_reducible rfl) | intro _ | (with_reducible apply forEach_inv) | (with_reducible apply modRegion_inv) | (with_reducible apply finishCmd_inv) | (with_reducible apply ctlWrite_inv) | (with_reducible apply ctlRead_inv) | (with_reducible apply ite_inv) | (with_reducible apply ite_inv_snd) | (with_reducible apply ite_inv_thd) | split)

theorem doSramScrub_inv (word : Nat) (err : WordErr) (s : State) (h : Inv s) : Inv (doSramScrub word err s) := by
  unfold doSramScrub
  try dsimp only
  repeat' (first | (with_reducible assumption) | (with_reducible exact fun _ => rfl) | (with_reducible rfl) | intro _ | (with_reducible apply logErr_inv) | (with_reducible apply ite_inv) | (with_reducible apply ite_inv_snd) | (with_reducible apply ite_inv_thd) | split)

theorem modLink_inv (n : Nat) (f : Link → Link) (s : State) (h : Inv s) : Inv (modLink n f s) := by
  unfold modLink
  try dsimp only
  repeat' (first | (with_reducible assumption) | (with_reducible exact fun _ => rfl) | (with_reducible rfl) | intro _ | (with_reducible apply modSb_inv))

theorem linkCorrects_inv (n lane : Nat) (syn : BitVec 32) (p : Nat) (v : Byte) (s : State) (h : Inv s) : Inv (linkCorrects n lane syn p v s) := by
  unfold linkCorrects
  try dsimp only
  repeat' (first | (with_reducible assumption) | (with_reducible exact fun _ => rfl) | (with_reducible rfl) | intro _ | (with_reducible apply logErr_inv) | (with_reducible apply modLink_inv))

theorem linkAgain_inv (n lane : Nat) (again : WordErr) (s : State) (h : Inv s) : Inv (linkAgain n lane again s) := by
  unfold linkAgain
  try dsimp only
  repeat' (first | (with_reducible assumption) | (with_reducible exact fun _ => rfl) | (with_reducible rfl) | intro _ | (with_reducible apply logErr_inv) | (with_reducible apply stageFault_inv) | (with_reducible apply linkLoss_inv) | (with_reducible apply modLink_inv) | (with_reducible apply linkCorrects_inv) | (with_reducible apply ite_inv) | (with_reducible apply ite_inv_snd) | (with_reducible apply ite_inv_thd) | split)

theorem doLinkResend_inv (n lane : Nat) (err again : WordErr) (s : State) (h : Inv s) : Inv (doLinkResend n lane err again s) := by
  unfold doLinkResend
  try dsimp only
  repeat' (first | (with_reducible assumption) | (with_reducible exact fun _ => rfl) | (with_reducible rfl) | intro _ | (with_reducible apply linkCorrects_inv) | (with_reducible apply linkAgain_inv) | (with_reducible apply ite_inv) | (with_reducible apply ite_inv_snd) | (with_reducible apply ite_inv_thd) | split)

end Sys2Proof.Machine
end

