-- ==== Sys2Proof/Laws/InvInnkeeper.lean ====
section
/-! SUPPORT. The functions of Machine/Innkeeper.lean keep the invariant. -/

namespace Sys2Proof.Machine

theorem enqueue_inv (cls id : Nat) (s : State) (h : Inv s) : Inv (enqueue cls id s) := by
  unfold enqueue
  try dsimp only
  repeat' (first | (with_reducible assumption) | (with_reducible exact fun _ => rfl) | (with_reducible rfl) | intro _ | (with_reducible apply modInnk_inv))

theorem beginDrain_inv (c : Cmd) (s : State) (h : Inv s) : Inv (beginDrain c s) := by
  unfold beginDrain
  try dsimp only
  repeat' (first | (with_reducible assumption) | (with_reducible exact fun _ => rfl) | (with_reducible rfl) | intro _ | (with_reducible apply modPh_inv) | (with_reducible apply ite_inv))

theorem doAccept_inv (n : Nat) (s : State) (h : Inv s) : Inv (doAccept n s) := by
  unfold doAccept
  try dsimp only
  repeat' (first | (with_reducible assumption) | (with_reducible exact fun _ => rfl) | (with_reducible rfl) | intro _ | (with_reducible apply modInnk_inv) | (with_reducible apply setCmd_inv) | (with_reducible apply finishCmd_inv) | (with_reducible apply homeReadBytes_inv) | (with_reducible apply modPh_inv) | (with_reducible apply enqueue_inv) | (with_reducible apply beginDrain_inv) | (with_reducible apply ite_inv) | (with_reducible apply ite_inv_snd) | (with_reducible apply ite_inv_thd) | split)

theorem doDispatch_inv (s : State) (h : Inv s) : Inv (doDispatch s) := by
  unfold doDispatch
  try dsimp only
  repeat' (first | (with_reducible assumption) | (with_reducible exact fun _ => rfl) | (with_reducible rfl) | intro _ | (with_reducible apply modInnk_inv) | (with_reducible apply modCmd_inv) | (with_reducible apply ite_inv) | (with_reducible apply ite_inv_snd) | (with_reducible apply ite_inv_thd) | split)

theorem doAging_inv (id : Nat) (s : State) (h : Inv s) : Inv (doAging id s) := by
  unfold doAging
  try dsimp only
  repeat' (first | (with_reducible assumption) | (with_reducible exact fun _ => rfl) | (with_reducible rfl) | intro _ | (with_reducible apply modInnk_inv) | (with_reducible apply ite_inv) | (with_reducible apply ite_inv_snd) | (with_reducible apply ite_inv_thd) | split)

theorem doSealWrite_inv (n slot width : Nat) (v : Word) (s : State) (h : Inv s) : Inv (doSealWrite n slot width v s) := by
  unfold doSealWrite
  try dsimp only
  repeat' (first | (with_reducible assumption) | (with_reducible exact fun _ => rfl) | (with_reducible rfl) | intro _ | (with_reducible apply homeWriteBytes_inv) | (with_reducible apply ite_inv))

theorem doCqCtl_inv (n width : Nat) (v : Word) (s : State) (h : Inv s) : Inv (doCqCtl n width v s) := by
  unfold doCqCtl
  try dsimp only
  repeat' (first | (with_reducible assumption) | (with_reducible exact fun _ => rfl) | (with_reducible rfl) | intro _ | (with_reducible apply homeWriteBytes_inv) | (with_reducible apply ite_inv))

theorem doLockstep_inv (s : State) (h : Inv s) : Inv (doLockstep s) := by
  unfold doLockstep
  try dsimp only
  repeat' (first | (with_reducible assumption) | (with_reducible exact fun _ => rfl) | (with_reducible rfl) | intro _ | (with_reducible apply modInnk_inv) | (with_reducible apply logErr_inv) | (with_reducible apply syncEvents_inv) | (with_reducible apply ite_inv))

theorem redispatch_inv (held : Nat → List Nat) (id : Nat) (s : State) (h : Inv s) : Inv (redispatch held id s) := by
  unfold redispatch
  try dsimp only
  repeat' (first | (with_reducible assumption) | (with_reducible exact fun _ => rfl) | (with_reducible rfl) | intro _ | (with_reducible apply setCmd_inv) | (with_reducible apply enqueue_inv) | (with_reducible apply ite_inv) | (with_reducible apply ite_inv_snd) | (with_reducible apply ite_inv_thd) | split)

theorem doRestartDone_inv (s : State) (h : Inv s) : Inv (doRestartDone s) := by
  unfold doRestartDone
  try dsimp only
  repeat' (first | (with_reducible assumption) | (with_reducible exact fun _ => rfl) | (with_reducible rfl) | intro _ | (with_reducible apply modInnk_inv) | (with_reducible apply forEach_inv) | (with_reducible apply dropTx_inv) | (with_reducible apply redispatch_inv) | (with_reducible apply ite_inv) | (with_reducible apply ite_inv_snd) | (with_reducible apply ite_inv_thd) | split | (with_reducible refine Inv.ofSnd (by assumption) ?_) | (with_reducible refine Inv.ofThd (by assumption) ?_) | (fail_if_no_progress refine inv_mk rfl rfl rfl rfl rfl rfl ?_))

end Sys2Proof.Machine
end

