-- ==== Sys2Proof/Laws/InvNetEngine.lean ====
section
/-! SUPPORT. The functions of Machine/NetEngine.lean keep the invariant. -/

namespace Sys2Proof.Machine

theorem modFlow_inv (o : TxOwner) (f : Flow → Flow) (s : State) (h : Inv s) : Inv (modFlow o f s) := by
  unfold modFlow
  try dsimp only
  repeat' (first | (with_reducible assumption) | (with_reducible exact fun _ => rfl) | (with_reducible rfl) | intro _ | (with_reducible apply modNet_inv))

theorem dropFlow_inv (o : TxOwner) (s : State) (h : Inv s) : Inv (dropFlow o s) := by
  unfold dropFlow
  try dsimp only
  repeat' (first | (with_reducible assumption) | (with_reducible exact fun _ => rfl) | (with_reducible rfl) | intro _ | (with_reducible apply modNet_inv))

theorem entryDone_inv (k jsn e : Nat) (s : State) (h : Inv s) : Inv (entryDone k jsn e s) := by
  unfold entryDone
  try dsimp only
  repeat' (first | (with_reducible assumption) | (with_reducible exact fun _ => rfl) | (with_reducible rfl) | intro _ | (with_reducible apply modLeg_inv))

theorem modDesc_inv (p : Nat) (o : Owner) (f : Desc → Desc) (s : State) (h : Inv s) : Inv (modDesc p o f s) := by
  unfold modDesc
  try dsimp only
  repeat' (first | (with_reducible assumption) | (with_reducible exact fun _ => rfl) | (with_reducible rfl) | intro _ | (with_reducible apply modPorter_inv))

theorem queueConn_inv (id : Nat) (r : TxReq) (s : State) (h : Inv s) : Inv (queueConn id r s) := by
  unfold queueConn
  try dsimp only
  repeat' (first | (with_reducible assumption) | (with_reducible exact fun _ => rfl) | (with_reducible rfl) | intro _ | (with_reducible apply modConn_inv))

theorem queueGuest_inv (g : Nat) (r : TxReq) (s : State) (h : Inv s) : Inv (queueGuest g r s) := by
  unfold queueGuest
  try dsimp only
  repeat' (first | (with_reducible assumption) | (with_reducible exact fun _ => rfl) | (with_reducible rfl) | intro _ | (with_reducible apply modGuest_inv) | (with_reducible apply queueConn_inv) | (with_reducible apply ite_inv) | (with_reducible apply ite_inv_snd) | (with_reducible apply ite_inv_thd) | split)

theorem flowDone_inv (o : TxOwner) (s : State) (h : Inv s) : Inv (flowDone o s) := by
  unfold flowDone
  try dsimp only
  repeat' (first | (with_reducible assumption) | (with_reducible exact fun _ => rfl) | (with_reducible rfl) | intro _ | (with_reducible apply modNet_inv) | (with_reducible apply finishCmd_inv) | (with_reducible apply dropFlow_inv) | (with_reducible apply entryDone_inv) | (with_reducible apply modDesc_inv) | (with_reducible apply queueGuest_inv) | (with_reducible apply ite_inv) | (with_reducible apply ite_inv_snd) | (with_reducible apply ite_inv_thd) | split)

theorem startReadBacks_inv (f : Flow) (g : Nat) (s : State) (h : Inv s) : Inv (startReadBacks f g s) := by
  unfold startReadBacks
  try dsimp only
  repeat' (first | (with_reducible assumption) | (with_reducible exact fun _ => rfl) | (with_reducible rfl) | intro _ | (with_reducible apply forEach_inv) | (with_reducible apply modFlow_inv) | (with_reducible apply queueGuest_inv))

theorem creditFlow_inv (o : TxOwner) (n : Nat) (s : State) (h : Inv s) : Inv (creditFlow o n s) := by
  unfold creditFlow
  try dsimp only
  repeat' (first | (with_reducible assumption) | (with_reducible exact fun _ => rfl) | (with_reducible rfl) | intro _ | (with_reducible apply modFlow_inv) | (with_reducible apply flowDone_inv) | (with_reducible apply startReadBacks_inv) | (with_reducible apply ite_inv) | (with_reducible apply ite_inv_snd) | (with_reducible apply ite_inv_thd) | split)

theorem creditRead_inv (o : TxOwner) (s : State) (h : Inv s) : Inv (creditRead o s) := by
  unfold creditRead
  try dsimp only
  repeat' (first | (with_reducible assumption) | (with_reducible exact fun _ => rfl) | (with_reducible rfl) | intro _ | (with_reducible apply modFlow_inv) | (with_reducible apply flowDone_inv) | (with_reducible apply ite_inv) | (with_reducible apply ite_inv_snd) | (with_reducible apply ite_inv_thd) | split)

theorem notePath_inv (o : TxOwner) (port last : Nat) (s : State) (h : Inv s) : Inv (notePath o port last s) := by
  unfold notePath
  try dsimp only
  repeat' (first | (with_reducible assumption) | (with_reducible exact fun _ => rfl) | (with_reducible rfl) | intro _ | (with_reducible apply modFlow_inv))

theorem nextPayload_inv (r : TxReq) (n : Nat) (s : State) (h : Inv s) : Inv (nextPayload r n s).2 := by
  unfold nextPayload
  try dsimp only
  repeat' (first | (with_reducible assumption) | (with_reducible exact fun _ => rfl) | (with_reducible rfl) | intro _ | (with_reducible apply draw_inv) | (with_reducible apply homeReadLines_inv) | (with_reducible apply foldl_inv) | (with_reducible apply foldl_inv_snd) | (with_reducible apply ite_inv) | (with_reducible apply ite_inv_snd) | (with_reducible apply ite_inv_thd) | split)

theorem poisonSend_inv (port k a : Nat) (s : State) (h : Inv s) : Inv (poisonSend port k a s) := by
  unfold poisonSend
  try dsimp only
  repeat' (first | (with_reducible assumption) | (with_reducible exact fun _ => rfl) | (with_reducible rfl) | intro _ | (with_reducible apply logErr_inv) | (with_reducible apply stageFault_inv))

theorem refuseEntry_inv (k a : Nat) (s : State) (h : Inv s) : Inv (refuseEntry k a s) := by
  unfold refuseEntry
  try dsimp only
  repeat' (first | (with_reducible assumption) | (with_reducible exact fun _ => rfl) | (with_reducible rfl) | intro _ | (with_reducible apply stageFault_inv))

theorem countTx_inv (o : TxOwner) (n : Nat) (s : State) (h : Inv s) : Inv (countTx o n s) := by
  unfold countTx
  try dsimp only
  repeat' (first | (with_reducible assumption) | (with_reducible exact fun _ => rfl) | (with_reducible rfl) | intro _ | (with_reducible apply modLeg_inv) | (with_reducible apply ite_inv) | (with_reducible apply ite_inv_snd) | (with_reducible apply ite_inv_thd) | split)

theorem refuseSource_inv (r : TxReq) (s : State) (h : Inv s) : Inv (refuseSource r s) := by
  unfold refuseSource
  try dsimp only
  repeat' (first | (with_reducible assumption) | (with_reducible exact fun _ => rfl) | (with_reducible rfl) | intro _ | (with_reducible apply refuseEntry_inv) | (with_reducible apply ite_inv) | (with_reducible apply ite_inv_snd) | (with_reducible apply ite_inv_thd) | split)

theorem sendDataNow_inv (id : Nat) (s : State) (h : Inv s) : Inv (sendDataNow id s) := by
  unfold sendDataNow
  try dsimp only
  repeat' (first | (with_reducible assumption) | (with_reducible exact fun _ => rfl) | (with_reducible rfl) | intro _ | (with_reducible apply setConn_inv) | (with_reducible apply modConn_inv) | (with_reducible apply sendRelay_inv) | (with_reducible apply notePath_inv) | (with_reducible apply nextPayload_inv) | (with_reducible apply poisonSend_inv) | (with_reducible apply countTx_inv) | (with_reducible apply refuseSource_inv) | (with_reducible apply ite_inv) | (with_reducible apply ite_inv_snd) | (with_reducible apply ite_inv_thd) | split | (with_reducible refine Inv.ofSnd (by assumption) ?_))

theorem pumpConn_inv (id : Nat) (s : State) (h : Inv s) : Inv (pumpConn id s) := by
  unfold pumpConn
  try dsimp only
  repeat' (first | (with_reducible assumption) | (with_reducible exact fun _ => rfl) | (with_reducible rfl) | intro _ | (with_reducible apply forEach_inv) | (with_reducible apply pumpCtrl_inv) | (with_reducible apply sendDataNow_inv) | (with_reducible apply ite_inv) | (with_reducible apply ite_inv_snd) | (with_reducible apply ite_inv_thd) | split)

theorem sendRoce_inv (g cls : Nat) (e : Endpoint) (op : RoceOp) (psn va : Nat) (rkey : BitVec 32) (payload : List Byte) (s : State) (h : Inv s) : Inv (sendRoce g cls e op psn va rkey payload s) := by
  unfold sendRoce
  try dsimp only
  repeat' (first | (with_reducible assumption) | (with_reducible exact fun _ => rfl) | (with_reducible rfl) | intro _ | (with_reducible apply queueFrame_inv))

theorem sendQpNow_inv (g : Nat) (s : State) (h : Inv s) : Inv (sendQpNow g s) := by
  unfold sendQpNow
  try dsimp only
  repeat' (first | (with_reducible assumption) | (with_reducible exact fun _ => rfl) | (with_reducible rfl) | intro _ | (with_reducible apply modGuest_inv) | (with_reducible apply notePath_inv) | (with_reducible apply nextPayload_inv) | (with_reducible apply poisonSend_inv) | (with_reducible apply countTx_inv) | (with_reducible apply refuseSource_inv) | (with_reducible apply sendRoce_inv) | (with_reducible apply ite_inv) | (with_reducible apply ite_inv_snd) | (with_reducible apply ite_inv_thd) | split | (with_reducible refine Inv.ofSnd (by assumption) ?_))

theorem pumpQp_inv (g : Nat) (s : State) (h : Inv s) : Inv (pumpQp g s) := by
  unfold pumpQp
  try dsimp only
  repeat' (first | (with_reducible assumption) | (with_reducible exact fun _ => rfl) | (with_reducible rfl) | intro _ | (with_reducible apply forEach_inv) | (with_reducible apply sendQpNow_inv) | (with_reducible apply ite_inv) | (with_reducible apply ite_inv_snd) | (with_reducible apply ite_inv_thd) | split)

theorem pumpGuest_inv (g : Nat) (s : State) (h : Inv s) : Inv (pumpGuest g s) := by
  unfold pumpGuest
  try dsimp only
  repeat' (first | (with_reducible assumption) | (with_reducible exact fun _ => rfl) | (with_reducible rfl) | intro _ | (with_reducible apply pumpConn_inv) | (with_reducible apply pumpQp_inv) | (with_reducible apply ite_inv) | (with_reducible apply ite_inv_snd) | (with_reducible apply ite_inv_thd) | split)

theorem pumpAll_inv (s : State) (h : Inv s) : Inv (pumpAll s) := by
  unfold pumpAll
  try dsimp only
  repeat' (first | (with_reducible assumption) | (with_reducible exact fun _ => rfl) | (with_reducible rfl) | intro _ | (with_reducible apply forEach_inv) | (with_reducible apply pumpConn_inv) | (with_reducible apply pumpQp_inv) | (with_reducible apply ite_inv))

theorem netPasses_inv (ns : Nat) (s : State) (h : Inv s) : Inv (netPasses ns s) := by
  unfold netPasses
  try dsimp only
  repeat' (first | (with_reducible assumption) | (with_reducible exact fun _ => rfl) | (with_reducible rfl) | intro _ | (with_reducible apply forEach_inv) | (with_reducible apply linePasses_inv) | (with_reducible apply pumpConn_inv))

theorem guestWrite_inv (o : TxOwner) (g addr : Nat) (src : TxSrc) (len : Nat) (flush : Bool) (s : State) (h : Inv s) : Inv (guestWrite o g addr src len flush s) := by
  unfold guestWrite
  try dsimp only
  repeat' (first | (with_reducible assumption) | (with_reducible exact fun _ => rfl) | (with_reducible rfl) | intro _ | (with_reducible apply modNet_inv) | (with_reducible apply queueGuest_inv) | (with_reducible apply pumpGuest_inv))

theorem sendFlitNow_inv (s : State) (h : Inv s) : Inv (sendFlitNow s) := by
  unfold sendFlitNow
  try dsimp only
  repeat' (first | (with_reducible assumption) | (with_reducible exact fun _ => rfl) | (with_reducible rfl) | intro _ | (with_reducible apply modNet_inv) | (with_reducible apply netSend_inv) | (with_reducible apply nextPayload_inv) | (with_reducible apply poisonSend_inv) | (with_reducible apply countTx_inv) | (with_reducible apply refuseSource_inv) | (with_reducible apply ite_inv) | (with_reducible apply ite_inv_snd) | (with_reducible apply ite_inv_thd) | split | (with_reducible refine Inv.ofSnd (by assumption) ?_))

theorem pumpPacel_inv (s : State) (h : Inv s) : Inv (pumpPacel s) := by
  unfold pumpPacel
  try dsimp only
  repeat' (first | (with_reducible assumption) | (with_reducible exact fun _ => rfl) | (with_reducible rfl) | intro _ | (with_reducible apply forEach_inv) | (with_reducible apply sendFlitNow_inv))

theorem loseCmds_inv (before : State) (ph : Nat) (s : State) (hbefore : Inv before) (h : Inv s) : Inv (loseCmds before ph s) := by
  unfold loseCmds
  try dsimp only
  repeat' (first | (with_reducible assumption) | (with_reducible exact fun _ => rfl) | (with_reducible rfl) | intro _ | (with_reducible apply modInnk_inv) | (with_reducible apply forEach_inv) | (with_reducible apply modCmd_inv) | (with_reducible apply finishCmd_inv) | (with_reducible apply ite_inv) | (with_reducible apply ite_inv_snd) | (with_reducible apply ite_inv_thd) | split)

theorem abandonDescs_inv (g : Nat) (s : State) (h : Inv s) : Inv (abandonDescs g s) := by
  unfold abandonDescs
  try dsimp only
  repeat' (first | (with_reducible assumption) | (with_reducible exact fun _ => rfl) | (with_reducible rfl) | intro _ | (with_reducible apply forEach_inv) | (with_reducible apply finishCmd_inv) | (with_reducible apply dropTx_inv) | (with_reducible apply stageFault_inv) | (with_reducible apply ite_inv) | (with_reducible apply ite_inv_snd) | (with_reducible apply ite_inv_thd) | split | (with_reducible refine Inv.ofSnd (by assumption) ?_) | (with_reducible refine Inv.ofThd (by assumption) ?_) | (fail_if_no_progress refine inv_mk rfl rfl rfl rfl rfl rfl ?_))

theorem endTransport_inv (g : Nat) (s : State) (h : Inv s) : Inv (endTransport g s) := by
  unfold endTransport
  try dsimp only
  repeat' (first | (with_reducible assumption) | (with_reducible exact fun _ => rfl) | (with_reducible rfl) | intro _ | (with_reducible apply modNet_inv) | (with_reducible apply setConn_inv) | (with_reducible apply modGuest_inv) | (with_reducible apply ite_inv) | (with_reducible apply ite_inv_snd) | (with_reducible apply ite_inv_thd) | split)

theorem loseGuest_inv (g : Nat) (s : State) (h : Inv s) : Inv (loseGuest g s) := by
  unfold loseGuest
  try dsimp only
  repeat' (first | (with_reducible assumption) | (with_reducible exact fun _ => rfl) | (with_reducible rfl) | intro _ | (with_reducible apply modNet_inv) | (with_reducible apply forEach_inv) | (with_reducible apply modPh_inv) | (with_reducible apply refuseEntry_inv) | (with_reducible apply loseCmds_inv) | (with_reducible apply abandonDescs_inv) | (with_reducible apply endTransport_inv))

theorem loseGuestIfOpen_inv (g : Nat) (s : State) (h : Inv s) : Inv (loseGuestIfOpen g s) := by
  unfold loseGuestIfOpen
  try dsimp only
  repeat' (first | (with_reducible assumption) | (with_reducible exact fun _ => rfl) | (with_reducible rfl) | intro _ | (with_reducible apply endTransport_inv) | (with_reducible apply loseGuest_inv) | (with_reducible apply ite_inv))

theorem sendAck_inv (id : Nat) (s : State) (h : Inv s) : Inv (sendAck id s) := by
  unfold sendAck
  try dsimp only
  repeat' (first | (with_reducible assumption) | (with_reducible exact fun _ => rfl) | (with_reducible rfl) | intro _ | (with_reducible apply setConn_inv) | (with_reducible apply sendRelay_inv) | (with_reducible apply ite_inv) | (with_reducible apply ite_inv_snd) | (with_reducible apply ite_inv_thd) | split)

theorem countNak_inv (port : Nat) (s : State) (h : Inv s) : Inv (countNak port s) := by
  unfold countNak
  try dsimp only
  repeat' (first | (with_reducible assumption) | (with_reducible exact fun _ => rfl) | (with_reducible rfl) | intro _ | (with_reducible apply modPort_inv))

theorem sendNak_inv (id port psn code : Nat) (s : State) (h : Inv s) : Inv (sendNak id port psn code s) := by
  unfold sendNak
  try dsimp only
  repeat' (first | (with_reducible assumption) | (with_reducible exact fun _ => rfl) | (with_reducible rfl) | intro _ | (with_reducible apply setConn_inv) | (with_reducible apply sendRelay_inv) | (with_reducible apply countNak_inv) | (with_reducible apply ite_inv) | (with_reducible apply ite_inv_snd) | (with_reducible apply ite_inv_thd) | split)

theorem noConn_inv (port : Nat) (h : IpHdr) (psn : Nat) (s : State) (hs : Inv s) : Inv (noConn port h psn s) := by
  unfold noConn
  try dsimp only
  repeat' (first | (with_reducible assumption) | (with_reducible exact fun _ => rfl) | (with_reducible rfl) | intro _ | (with_reducible apply sendOwn_inv) | (with_reducible apply countNak_inv))

theorem takePsn_inv (id psn len : Nat) (ce ends : Bool) (s : State) (h : Inv s) : Inv (takePsn id psn len ce ends s) := by
  unfold takePsn
  try dsimp only
  repeat' (first | (with_reducible assumption) | (with_reducible exact fun _ => rfl) | (with_reducible rfl) | intro _ | (with_reducible apply setConn_inv) | (with_reducible apply sendAck_inv) | (with_reducible apply ite_inv) | (with_reducible apply ite_inv_snd) | (with_reducible apply ite_inv_thd) | split)

theorem dropFrame_inv (port : Nat) (s : State) (h : Inv s) : Inv (dropFrame port s) := by
  unfold dropFrame
  try dsimp only
  repeat' (first | (with_reducible assumption) | (with_reducible exact fun _ => rfl) | (with_reducible rfl) | intro _ | (with_reducible apply modPort_inv))

theorem rxFrame_inv (port : Nat) (fcsOk crcOk : Bool) (ip : IpHdr) (dport : BitVec 16) (act : State → State) (s : State) (kact : ∀ (y0 : State), Inv y0 → Inv (act y0)) (h : Inv s) : Inv (rxFrame port fcsOk crcOk ip dport act s) := by
  unfold rxFrame
  try dsimp only
  repeat' (first | (with_reducible assumption) | (with_reducible exact fun _ => rfl) | (with_reducible rfl) | intro _ | (with_reducible apply modPort_inv) | (with_reducible apply dropFrame_inv) | (with_reducible apply kact) | (with_reducible apply ite_inv))

theorem rxPacket_inv (port : Nat) (fcsOk crcOk : Bool) (ip : IpHdr) (conn psn : BitVec 32) (opening : Bool) (act : Nat → Conn → State → State) (s : State) (kact : ∀ (y0 : Nat) (y1 : Conn) (y2 : State), Inv y2 → Inv (act y0 y1 y2)) (h : Inv s) : Inv (rxPacket port fcsOk crcOk ip conn psn opening act s) := by
  unfold rxPacket
  try dsimp only
  repeat' (first | (with_reducible assumption) | (with_reducible exact fun _ => rfl) | (with_reducible rfl) | intro _ | (with_reducible apply noConn_inv) | (with_reducible apply rxFrame_inv) | (with_reducible apply kact) | (with_reducible apply ite_inv) | (with_reducible apply ite_inv_snd) | (with_reducible apply ite_inv_thd) | split)

theorem modRecv_inv (r : RecvX) (f : RecvX → RecvX) (s : State) (h : Inv s) : Inv (modRecv r f s) := by
  unfold modRecv
  try dsimp only
  repeat' (first | (with_reducible assumption) | (with_reducible exact fun _ => rfl) | (with_reducible rfl) | intro _ | (with_reducible apply modNet_inv))

theorem netWrite_inv (rq : Requester) (a : Nat) (bs : List Byte) (s : State) (h : Inv s) : Inv (netWrite rq a bs s).2 := by
  unfold netWrite
  try dsimp only
  repeat' (first | (with_reducible assumption) | (with_reducible exact fun _ => rfl) | (with_reducible rfl) | intro _ | (with_reducible apply homeWriteBytes_inv) | (with_reducible apply ite_inv) | (with_reducible apply ite_inv_snd))

theorem landRecv_inv (r : RecvX) (o : Nat) (bs : List Byte) (s : State) (h : Inv s) : Inv (landRecv r o bs s).2 := by
  unfold landRecv
  try dsimp only
  repeat' (first | (with_reducible assumption) | (with_reducible exact fun _ => rfl) | (with_reducible rfl) | intro _ | (with_reducible apply forEach_inv) | (with_reducible apply modLeg_inv) | (with_reducible apply clearAll_inv) | (with_reducible apply homeWriteBytes_inv) | (with_reducible apply entryDone_inv) | (with_reducible apply modRecv_inv) | (with_reducible apply ite_inv) | (with_reducible apply ite_inv_snd))

theorem noteImm_inv (g : Nat) (imm : BitVec 32) (a n : Nat) (s : State) (h : Inv s) : Inv (noteImm g imm a n s) := by
  unfold noteImm
  try dsimp only
  repeat' (first | (with_reducible assumption) | (with_reducible exact fun _ => rfl) | (with_reducible rfl) | intro _ | (with_reducible apply modGuest_inv))

theorem settleGuestRecvs_inv (g : Nat) (s : State) (h : Inv s) : Inv (settleGuestRecvs g s) := by
  unfold settleGuestRecvs
  try dsimp only
  repeat' (first | (with_reducible assumption) | (with_reducible exact fun _ => rfl) | (with_reducible rfl) | intro _ | (with_reducible apply forEach_inv) | (with_reducible apply modLeg_inv) | (with_reducible apply entryDone_inv) | (with_reducible apply modRecv_inv) | (with_reducible apply ite_inv))

end Sys2Proof.Machine
end

