-- ==== Sys2Proof/Laws/InvClock.lean ====
section
/-! SUPPORT. The functions of Machine/Clock.lean keep the invariant. -/

namespace Sys2Proof.Machine

theorem countLimit_inv (ns : Nat) (s : State) (h : Inv s) : Inv (countLimit ns s) := by
  unfold countLimit
  try dsimp only
  repeat' (first | (with_reducible assumption) | (with_reducible exact fun _ => rfl) | (with_reducible rfl) | intro _ | (with_reducible apply modInnk_inv) | (with_reducible apply ite_inv))

theorem passNs_inv (d : Nat) (s : State) (h : Inv s) : Inv (passNs d s) := by
  unfold passNs
  try dsimp only
  repeat' (first | (with_reducible assumption) | (with_reducible exact fun _ => rfl) | (with_reducible rfl) | intro _ | (with_reducible apply modStg_inv) | (with_reducible apply netPasses_inv) | (with_reducible apply countLimit_inv) | (with_reducible apply ite_inv))

theorem advanceTo_inv (t : Nat) (s : State) (h : Inv s) : Inv (advanceTo t s) := by
  unfold advanceTo
  try dsimp only
  repeat' (first | (with_reducible assumption) | (with_reducible exact fun _ => rfl) | (with_reducible rfl) | intro _ | (with_reducible apply passNs_inv))

theorem idleTick_inv (s : State) (h : Inv s) : Inv (idleTick s) := by
  unfold idleTick
  try dsimp only
  repeat' (first | (with_reducible assumption) | (with_reducible exact fun _ => rfl) | (with_reducible rfl) | intro _ | (with_reducible apply modStg_inv) | (with_reducible apply netPasses_inv) | (with_reducible apply countLimit_inv))

end Sys2Proof.Machine
end

