-- ==== Sys2Proof/Laws/InvCompletions.lean ====
section
/-! SUPPORT. The functions of Machine/Completions.lean keep the invariant. -/

namespace Sys2Proof.Machine

theorem writeRing_inv (n : Nat) (r : CplRec) (s : State) (h : Inv s) : Inv (writeRing n r s).2 := by
  unfold writeRing
  try dsimp only
  repeat' (first | (with_reducible assumption) | (with_reducible exact fun _ => rfl) | (with_reducible rfl) | intro _ | (with_reducible apply modPh_inv) | (with_reducible apply homeWriteBytes_inv) | (with_reducible apply queueGuest_inv) | (with_reducible apply pumpGuest_inv) | (with_reducible apply guestWrite_inv) | (with_reducible apply ite_inv) | (with_reducible apply ite_inv_snd) | (with_reducible apply ite_inv_thd) | split)

theorem withOwnEnergy_inv (c : Cmd) (s : State) (h : Inv s) : Inv (withOwnEnergy c s).2 := by
  unfold withOwnEnergy
  try dsimp only
  repeat' (first | (with_reducible assumption) | (with_reducible exact fun _ => rfl) | (with_reducible rfl) | intro _ | (with_reducible apply draw_inv) | (with_reducible apply ite_inv) | (with_reducible apply ite_inv_snd))

theorem retireCmd_inv (id : Nat) (c : Cmd) (s : State) (h : Inv s) : Inv (retireCmd id c s) := by
  unfold retireCmd
  try dsimp only
  repeat' (first | (with_reducible assumption) | (with_reducible exact fun _ => rfl) | (with_reducible rfl) | intro _ | (with_reducible apply modInnk_inv) | (with_reducible apply modLdg_inv) | (with_reducible apply setCmd_inv) | (with_reducible apply modGuest_inv) | (with_reducible apply modPh_inv) | (with_reducible apply ite_inv))

theorem settleDrain_inv (g : Nat) (s : State) (h : Inv s) : Inv (settleDrain g s) := by
  unfold settleDrain
  try dsimp only
  repeat' (first | (with_reducible assumption) | (with_reducible exact fun _ => rfl) | (with_reducible rfl) | intro _ | (with_reducible apply forEach_inv) | (with_reducible apply finishCmd_inv) | (with_reducible apply modGuest_inv) | (with_reducible apply modPh_inv) | (with_reducible apply endTransport_inv) | (with_reducible apply ite_inv))

theorem reapGuest_inv (g : Nat) (s : State) (h : Inv s) : Inv (reapGuest g s) := by
  unfold reapGuest
  try dsimp only
  repeat' (first | (with_reducible assumption) | (with_reducible exact fun _ => rfl) | (with_reducible rfl) | intro _ | (with_reducible apply endTransport_inv) | (with_reducible apply ite_inv))

theorem doCompletion_inv (id : Nat) (s : State) (h : Inv s) : Inv (doCompletion id s) := by
  unfold doCompletion
  try dsimp only
  repeat' (first | (with_reducible assumption) | (with_reducible exact fun _ => rfl) | (with_reducible rfl) | intro _ | (with_reducible apply modInnk_inv) | (with_reducible apply modCmd_inv) | (with_reducible apply modPh_inv) | (with_reducible apply writeRing_inv) | (with_reducible apply withOwnEnergy_inv) | (with_reducible apply retireCmd_inv) | (with_reducible apply settleDrain_inv) | (with_reducible apply ite_inv) | (with_reducible apply ite_inv_snd) | (with_reducible apply ite_inv_thd) | split)

theorem zeroSeals_inv (area : Nat) (s : State) (h : Inv s) : Inv (zeroSeals area s).2 := by
  unfold zeroSeals
  generalize List.range 256 = xs
  refine foldl_inv_snd ?_ xs (p := (true, s)) h
  intro p i hp
  exact homeWriteBytes_inv .innkeeper (area + 64 * i + 0x38) (wordBytes 8 (0#64)) p.2 hp

theorem openPh_inv (g id : Nat) (s : State) (h : Inv s) : Inv (openPh g id s) := by
  unfold openPh
  split
  · exact h
  · exact ite_inv (modGuest_inv _ _ _ (modCmd_inv _ _ (zeroSeals_inv _ _ h)))
      (finishCmd_inv _ _ _ _ (forEach_inv (fun _ _ h => writeRing_inv _ _ _ h) _ (modGuest_inv _ _ _ (modPh_inv _ _ _ (zeroSeals_inv _ _ h)))))

theorem guestConnected_inv (g : Nat) (s : State) (h : Inv s) : Inv (guestConnected g s) := by
  unfold guestConnected
  try dsimp only
  repeat' (first | (with_reducible assumption) | (with_reducible exact fun _ => rfl) | (with_reducible rfl) | intro _ | (with_reducible apply openPh_inv) | (with_reducible apply ite_inv) | (with_reducible apply ite_inv_snd) | (with_reducible apply ite_inv_thd) | split)

end Sys2Proof.Machine
end

