-- ==== Sys2Proof/Laws/InvTimeRows.lean ====
section
/-! SUPPORT. The functions of Machine/TimeRows.lean keep the invariant. -/

namespace Sys2Proof.Machine

theorem offsetField_inv (o : Int) (s : State) (h : Inv s) : Inv (offsetField o s).2 := by
  unfold offsetField
  try dsimp only
  repeat' (first | (with_reducible assumption) | (with_reducible exact fun _ => rfl) | (with_reducible rfl) | intro _ | (with_reducible apply draw_inv) | (with_reducible apply ite_inv) | (with_reducible apply ite_inv_snd))

theorem correctBy_inv (o : Int) (s : State) (h : Inv s) : Inv (correctBy o s) := by
  unfold correctBy
  try dsimp only
  repeat' (first | (with_reducible assumption) | (with_reducible exact fun _ => rfl) | (with_reducible rfl) | intro _ | (with_reducible apply modStg_inv))

theorem slewBy_inv (o : Int) (s : State) (h : Inv s) : Inv (slewBy o s) := by
  unfold slewBy
  try dsimp only
  repeat' (first | (with_reducible assumption) | (with_reducible exact fun _ => rfl) | (with_reducible rfl) | intro _ | (with_reducible apply modStg_inv))

theorem correct_inv (o : Int) (s : State) (h : Inv s) : Inv (correct o s).2 := by
  unfold correct
  try dsimp only
  repeat' (first | (with_reducible assumption) | (with_reducible exact fun _ => rfl) | (with_reducible rfl) | intro _ | (with_reducible apply modStg_inv) | (with_reducible apply correctBy_inv) | (with_reducible apply slewBy_inv) | (with_reducible apply ite_inv) | (with_reducible apply ite_inv_snd))

theorem servoLocked_inv (errNs : Nat) (off : Int) (s : State) (h : Inv s) : Inv (servoLocked errNs off s) := by
  unfold servoLocked
  try dsimp only
  repeat' (first | (with_reducible assumption) | (with_reducible exact fun _ => rfl) | (with_reducible rfl) | intro _ | (with_reducible apply modStg_inv) | (with_reducible apply offsetField_inv) | (with_reducible apply correctBy_inv) | (with_reducible apply correct_inv) | (with_reducible apply ite_inv) | (with_reducible apply ite_inv_snd))

theorem lockLost_inv (s : State) (h : Inv s) : Inv (lockLost s) := by
  unfold lockLost
  try dsimp only
  repeat' (first | (with_reducible assumption) | (with_reducible exact fun _ => rfl) | (with_reducible rfl) | intro _ | (with_reducible apply modStg_inv))

theorem followBest_inv (s : State) (h : Inv s) : Inv (followBest s) := by
  unfold followBest
  try dsimp only
  repeat' (first | (with_reducible assumption) | (with_reducible exact fun _ => rfl) | (with_reducible rfl) | intro _ | (with_reducible apply modNet_inv) | (with_reducible apply modPort_inv) | (with_reducible apply lockLost_inv) | (with_reducible apply ite_inv) | (with_reducible apply ite_inv_snd) | (with_reducible apply ite_inv_thd) | split)

theorem servoTakes_inv (u : PtpUpdate) (s : State) (h : Inv s) : Inv (servoTakes u s) := by
  unfold servoTakes
  try dsimp only
  repeat' (first | (with_reducible assumption) | (with_reducible exact fun _ => rfl) | (with_reducible rfl) | intro _ | (with_reducible apply servoLocked_inv) | (with_reducible apply lockLost_inv) | (with_reducible apply ite_inv))

theorem sendDelayReq_inv (n : Nat) (s : State) (h : Inv s) : Inv (sendDelayReq n s) := by
  unfold sendDelayReq
  try dsimp only
  repeat' (first | (with_reducible assumption) | (with_reducible exact fun _ => rfl) | (with_reducible rfl) | intro _ | (with_reducible apply sendOwn_inv))

theorem takePtp_inv (u : PtpUpdate) (s : State) (h : Inv s) : Inv (takePtp u s) := by
  unfold takePtp
  try dsimp only
  repeat' (first | (with_reducible assumption) | (with_reducible exact fun _ => rfl) | (with_reducible rfl) | intro _ | (with_reducible apply modNet_inv) | (with_reducible apply modPort_inv) | (with_reducible apply followBest_inv) | (with_reducible apply servoTakes_inv) | (with_reducible apply sendDelayReq_inv) | (with_reducible apply ite_inv) | (with_reducible apply ite_inv_snd) | (with_reducible apply ite_inv_thd) | split)

theorem doPtpMessage_inv (u : PtpUpdate) (s : State) (h : Inv s) : Inv (doPtpMessage u s) := by
  unfold doPtpMessage
  try dsimp only
  repeat' (first | (with_reducible assumption) | (with_reducible exact fun _ => rfl) | (with_reducible rfl) | intro _ | (with_reducible apply dropFrame_inv) | (with_reducible apply takePtp_inv) | (with_reducible apply ite_inv))

theorem doFreerunTimeout_inv (s : State) (h : Inv s) : Inv (doFreerunTimeout s) := by
  unfold doFreerunTimeout
  try dsimp only
  repeat' (first | (with_reducible assumption) | (with_reducible exact fun _ => rfl) | (with_reducible rfl) | intro _ | (with_reducible apply modStg_inv) | (with_reducible apply offsetField_inv) | (with_reducible apply ite_inv) | (with_reducible apply ite_inv_snd) | (with_reducible apply ite_inv_thd) | split)

theorem doAnnounceTimeout_inv (n : Nat) (s : State) (h : Inv s) : Inv (doAnnounceTimeout n s) := by
  unfold doAnnounceTimeout
  try dsimp only
  repeat' (first | (with_reducible assumption) | (with_reducible exact fun _ => rfl) | (with_reducible rfl) | intro _ | (with_reducible apply modPort_inv) | (with_reducible apply followBest_inv) | (with_reducible apply ite_inv))

theorem doErrBound_inv (b : BitVec 16) (s : State) (h : Inv s) : Inv (doErrBound b s) := by
  unfold doErrBound
  try dsimp only
  repeat' (first | (with_reducible assumption) | (with_reducible exact fun _ => rfl) | (with_reducible rfl) | intro _ | (with_reducible apply modStg_inv) | (with_reducible apply ite_inv))

theorem ppsBad_inv (s : State) (h : Inv s) : Inv (ppsBad s) := by
  unfold ppsBad
  try dsimp only
  repeat' (first | (with_reducible assumption) | (with_reducible exact fun _ => rfl) | (with_reducible rfl) | intro _ | (with_reducible apply modStg_inv))

theorem doPpsEdge_inv (o : Int) (s : State) (h : Inv s) : Inv (doPpsEdge o s) := by
  unfold doPpsEdge
  try dsimp only
  repeat' (first | (with_reducible assumption) | (with_reducible exact fun _ => rfl) | (with_reducible rfl) | intro _ | (with_reducible apply modStg_inv) | (with_reducible apply slewBy_inv) | (with_reducible apply ppsBad_inv) | (with_reducible apply ite_inv))

theorem doPpsFall_inv (highNs : Nat) (s : State) (h : Inv s) : Inv (doPpsFall highNs s) := by
  unfold doPpsFall
  try dsimp only
  repeat' (first | (with_reducible assumption) | (with_reducible exact fun _ => rfl) | (with_reducible rfl) | intro _ | (with_reducible apply ppsBad_inv) | (with_reducible apply ite_inv))

end Sys2Proof.Machine
end

