-- ==== Sys2Proof/Laws/InvNetCmds.lean ====
section
/-! SUPPORT. The functions of Machine/NetCmds.lean keep the invariant. -/

namespace Sys2Proof.Machine

theorem resend_inv (id : Nat) (u : Unacked) (s : State) (h : Inv s) : Inv (resend id u s) := by
  unfold resend
  try dsimp only
  repeat' (first | (with_reducible assumption) | (with_reducible exact fun _ => rfl) | (with_reducible rfl) | intro _ | (with_reducible apply modPort_inv) | (with_reducible apply setConn_inv) | (with_reducible apply sendRelay_inv) | (with_reducible apply notePath_inv) | (with_reducible apply ite_inv) | (with_reducible apply ite_inv_snd) | (with_reducible apply ite_inv_thd) | split)

theorem peerData_inv (p : RelayPkt) (id : Nat) (c : Conn) (s : State) (h : Inv s) : Inv (peerData p id c s) := by
  unfold peerData
  try dsimp only
  repeat' (first | (with_reducible assumption) | (with_reducible exact fun _ => rfl) | (with_reducible rfl) | intro _ | (with_reducible apply refuseEntry_inv) | (with_reducible apply sendNak_inv) | (with_reducible apply takePsn_inv) | (with_reducible apply landRecv_inv) | (with_reducible apply ite_inv) | (with_reducible apply ite_inv_snd) | (with_reducible apply ite_inv_thd) | split)

theorem guestData_inv (p : RelayPkt) (id : Nat) (c : Conn) (g : Nat) (s : State) (h : Inv s) : Inv (guestData p id c g s) := by
  unfold guestData
  try dsimp only
  repeat' (first | (with_reducible assumption) | (with_reducible exact fun _ => rfl) | (with_reducible rfl) | intro _ | (with_reducible apply sendNak_inv) | (with_reducible apply takePsn_inv) | (with_reducible apply netWrite_inv) | (with_reducible apply noteImm_inv) | (with_reducible apply settleGuestRecvs_inv) | (with_reducible apply ite_inv))

theorem doData_inv (p : RelayPkt) (s : State) (h : Inv s) : Inv (doData p s) := by
  unfold doData
  try dsimp only
  repeat' (first | (with_reducible assumption) | (with_reducible exact fun _ => rfl) | (with_reducible rfl) | intro _ | (with_reducible apply sendAck_inv) | (with_reducible apply rxPacket_inv) | (with_reducible apply peerData_inv) | (with_reducible apply guestData_inv) | (with_reducible apply ite_inv) | (with_reducible apply ite_inv_snd) | (with_reducible apply ite_inv_thd) | split)

theorem reapPeer_inv (p : Peer) (s : State) (h : Inv s) : Inv (reapPeer p s) := by
  unfold reapPeer
  try dsimp only
  repeat' (first | (with_reducible assumption) | (with_reducible exact fun _ => rfl) | (with_reducible rfl) | intro _ | (with_reducible apply reapGuest_inv) | (with_reducible apply ite_inv) | (with_reducible apply ite_inv_snd) | (with_reducible apply ite_inv_thd) | split)

theorem doAck_inv (p : RelayPkt) (a : AckBody) (s : State) (h : Inv s) : Inv (doAck p a s) := by
  unfold doAck
  try dsimp only
  repeat' (first | (with_reducible assumption) | (with_reducible exact fun _ => rfl) | (with_reducible rfl) | intro _ | (with_reducible apply forEach_inv) | (with_reducible apply modPort_inv) | (with_reducible apply setConn_inv) | (with_reducible apply creditFlow_inv) | (with_reducible apply pumpConn_inv) | (with_reducible apply rxPacket_inv) | (with_reducible apply resend_inv) | (with_reducible apply reapPeer_inv) | (with_reducible apply foldl_inv) | (with_reducible apply foldl_inv_snd) | (with_reducible apply ite_inv))

theorem abandonMsg_inv (u : Unacked) (s : State) (h : Inv s) : Inv (abandonMsg u s) := by
  unfold abandonMsg
  try dsimp only
  repeat' (first | (with_reducible assumption) | (with_reducible exact fun _ => rfl) | (with_reducible rfl) | intro _ | (with_reducible apply modPorter_inv) | (with_reducible apply finishCmd_inv) | (with_reducible apply dropTx_inv) | (with_reducible apply refuseEntry_inv) | (with_reducible apply ite_inv) | (with_reducible apply ite_inv_snd) | (with_reducible apply ite_inv_thd) | split)

theorem doNak_inv (p : RelayPkt) (code : Nat) (s : State) (h : Inv s) : Inv (doNak p code s) := by
  unfold doNak
  try dsimp only
  repeat' (first | (with_reducible assumption) | (with_reducible exact fun _ => rfl) | (with_reducible rfl) | intro _ | (with_reducible apply setConn_inv) | (with_reducible apply pumpConn_inv) | (with_reducible apply loseGuestIfOpen_inv) | (with_reducible apply rxPacket_inv) | (with_reducible apply abandonMsg_inv) | (with_reducible apply ite_inv) | (with_reducible apply ite_inv_snd) | (with_reducible apply ite_inv_thd) | split)

theorem doRead_inv (p : RelayPkt) (target len : Nat) (s : State) (h : Inv s) : Inv (doRead p target len s) := by
  unfold doRead
  try dsimp only
  repeat' (first | (with_reducible assumption) | (with_reducible exact fun _ => rfl) | (with_reducible rfl) | intro _ | (with_reducible apply queueConn_inv) | (with_reducible apply pumpConn_inv) | (with_reducible apply sendAck_inv) | (with_reducible apply sendNak_inv) | (with_reducible apply takePsn_inv) | (with_reducible apply rxPacket_inv) | (with_reducible apply ite_inv) | (with_reducible apply ite_inv_snd) | (with_reducible apply ite_inv_thd) | split)

theorem takeRead_inv (r : ReadOut) (off : Nat) (bs : List Byte) (s : State) (h : Inv s) : Inv (takeRead r off bs s).2 := by
  unfold takeRead
  try dsimp only
  repeat' (first | (with_reducible assumption) | (with_reducible exact fun _ => rfl) | (with_reducible rfl) | intro _ | (with_reducible apply forEach_inv) | (with_reducible apply modDesc_inv) | (with_reducible apply creditRead_inv) | (with_reducible apply netWrite_inv) | (with_reducible apply ite_inv) | (with_reducible apply ite_inv_snd) | (with_reducible apply ite_inv_thd) | split)

theorem doReadResp_inv (p : RelayPkt) (s : State) (h : Inv s) : Inv (doReadResp p s) := by
  unfold doReadResp
  try dsimp only
  repeat' (first | (with_reducible assumption) | (with_reducible exact fun _ => rfl) | (with_reducible rfl) | intro _ | (with_reducible apply modConn_inv) | (with_reducible apply pumpConn_inv) | (with_reducible apply sendAck_inv) | (with_reducible apply takePsn_inv) | (with_reducible apply rxPacket_inv) | (with_reducible apply reapPeer_inv) | (with_reducible apply takeRead_inv) | (with_reducible apply ite_inv) | (with_reducible apply ite_inv_snd) | (with_reducible apply ite_inv_thd) | split)

theorem doRto_inv (id psn : Nat) (s : State) (h : Inv s) : Inv (doRto id psn s) := by
  unfold doRto
  try dsimp only
  repeat' (first | (with_reducible assumption) | (with_reducible exact fun _ => rfl) | (with_reducible rfl) | intro _ | (with_reducible apply resend_inv) | (with_reducible apply ite_inv) | (with_reducible apply ite_inv_snd) | (with_reducible apply ite_inv_thd) | split)

theorem doAckTimer_inv (id : Nat) (s : State) (h : Inv s) : Inv (doAckTimer id s) := by
  unfold doAckTimer
  try dsimp only
  repeat' (first | (with_reducible assumption) | (with_reducible exact fun _ => rfl) | (with_reducible rfl) | intro _ | (with_reducible apply sendAck_inv) | (with_reducible apply ite_inv) | (with_reducible apply ite_inv_snd) | (with_reducible apply ite_inv_thd) | split)

theorem modQp_inv (g : Nat) (f : Qp → Qp) (s : State) (h : Inv s) : Inv (modQp g f s) := by
  unfold modQp
  try dsimp only
  repeat' (first | (with_reducible assumption) | (with_reducible exact fun _ => rfl) | (with_reducible rfl) | intro _ | (with_reducible apply modGuest_inv))

theorem roceSend_inv (g : Nat) (e : Endpoint) (op : RoceOp) (psn : Nat) (s : State) (h : Inv s) : Inv (roceSend g e op psn s) := by
  unfold roceSend
  try dsimp only
  repeat' (first | (with_reducible assumption) | (with_reducible exact fun _ => rfl) | (with_reducible rfl) | intro _ | (with_reducible apply sendRoce_inv))

theorem roceNak_inv (g : Nat) (e : Endpoint) (op : RoceOp) (psn : Nat) (s : State) (h : Inv s) : Inv (roceNak g e op psn s) := by
  unfold roceNak
  try dsimp only
  repeat' (first | (with_reducible assumption) | (with_reducible exact fun _ => rfl) | (with_reducible rfl) | intro _ | (with_reducible apply countNak_inv) | (with_reducible apply roceSend_inv))

theorem rxRoce_inv (port : Nat) (icrcOk : Bool) (ip : IpHdr) (qpn : BitVec 24) (act : Nat → Qp → Endpoint → State → State) (s : State) (kact : ∀ (y0 : Nat) (y1 : Qp) (y2 : Endpoint) (y3 : State), Inv y3 → Inv (act y0 y1 y2 y3)) (h : Inv s) : Inv (rxRoce port icrcOk ip qpn act s) := by
  unfold rxRoce
  try dsimp only
  repeat' (first | (with_reducible assumption) | (with_reducible exact fun _ => rfl) | (with_reducible rfl) | intro _ | (with_reducible apply rxFrame_inv) | (with_reducible apply modQp_inv) | (with_reducible apply roceSend_inv) | (with_reducible apply kact) | (with_reducible apply ite_inv) | (with_reducible apply ite_inv_snd) | (with_reducible apply ite_inv_thd) | split)

theorem doRdmaWrite_inv (p : RocePkt) (withImm : Bool) (s : State) (h : Inv s) : Inv (doRdmaWrite p withImm s) := by
  unfold doRdmaWrite
  try dsimp only
  repeat' (first | (with_reducible assumption) | (with_reducible exact fun _ => rfl) | (with_reducible rfl) | intro _ | (with_reducible apply loseGuestIfOpen_inv) | (with_reducible apply netWrite_inv) | (with_reducible apply noteImm_inv) | (with_reducible apply settleGuestRecvs_inv) | (with_reducible apply modQp_inv) | (with_reducible apply roceSend_inv) | (with_reducible apply roceNak_inv) | (with_reducible apply rxRoce_inv) | (with_reducible apply ite_inv))

theorem doRdmaRead_inv (p : RocePkt) (s : State) (h : Inv s) : Inv (doRdmaRead p s) := by
  unfold doRdmaRead
  try dsimp only
  repeat' (first | (with_reducible assumption) | (with_reducible exact fun _ => rfl) | (with_reducible rfl) | intro _ | (with_reducible apply forEach_inv) | (with_reducible apply nextPayload_inv) | (with_reducible apply sendRoce_inv) | (with_reducible apply loseGuestIfOpen_inv) | (with_reducible apply modQp_inv) | (with_reducible apply roceNak_inv) | (with_reducible apply rxRoce_inv) | (with_reducible apply ite_inv) | (with_reducible apply ite_inv_snd) | (with_reducible apply ite_inv_thd) | split | (with_reducible refine Inv.ofSnd (by assumption) ?_))

theorem doRdmaReadResp_inv (p : RocePkt) (s : State) (h : Inv s) : Inv (doRdmaReadResp p s) := by
  unfold doRdmaReadResp
  try dsimp only
  repeat' (first | (with_reducible assumption) | (with_reducible exact fun _ => rfl) | (with_reducible rfl) | intro _ | (with_reducible apply pumpQp_inv) | (with_reducible apply reapGuest_inv) | (with_reducible apply takeRead_inv) | (with_reducible apply modQp_inv) | (with_reducible apply rxRoce_inv) | (with_reducible apply ite_inv) | (with_reducible apply ite_inv_snd) | (with_reducible apply ite_inv_thd) | split)

theorem goBack_inv (g : Nat) (s : State) (h : Inv s) : Inv (goBack g s) := by
  unfold goBack
  try dsimp only
  repeat' (first | (with_reducible assumption) | (with_reducible exact fun _ => rfl) | (with_reducible rfl) | intro _ | (with_reducible apply forEach_inv) | (with_reducible apply modPort_inv) | (with_reducible apply sendRoce_inv) | (with_reducible apply ite_inv) | (with_reducible apply ite_inv_snd) | (with_reducible apply ite_inv_thd) | split)

theorem doRoceAck_inv (p : RocePkt) (a : RoceAck) (s : State) (h : Inv s) : Inv (doRoceAck p a s) := by
  unfold doRoceAck
  try dsimp only
  repeat' (first | (with_reducible assumption) | (with_reducible exact fun _ => rfl) | (with_reducible rfl) | intro _ | (with_reducible apply forEach_inv) | (with_reducible apply creditFlow_inv) | (with_reducible apply pumpQp_inv) | (with_reducible apply loseGuestIfOpen_inv) | (with_reducible apply reapGuest_inv) | (with_reducible apply abandonMsg_inv) | (with_reducible apply modQp_inv) | (with_reducible apply rxRoce_inv) | (with_reducible apply goBack_inv) | (with_reducible apply ite_inv) | (with_reducible apply ite_inv_snd) | (with_reducible apply ite_inv_thd) | split)

theorem doCnp_inv (qpn : BitVec 24) (port : Nat) (s : State) (h : Inv s) : Inv (doCnp qpn port s) := by
  unfold doCnp
  try dsimp only
  repeat' (first | (with_reducible assumption) | (with_reducible exact fun _ => rfl) | (with_reducible rfl) | intro _ | (with_reducible apply modPort_inv) | (with_reducible apply modQp_inv) | (with_reducible apply ite_inv) | (with_reducible apply ite_inv_snd) | (with_reducible apply ite_inv_thd) | split)

theorem doRateIncrease_inv (g : Nat) (s : State) (h : Inv s) : Inv (doRateIncrease g s) := by
  unfold doRateIncrease
  try dsimp only
  repeat' (first | (with_reducible assumption) | (with_reducible exact fun _ => rfl) | (with_reducible rfl) | intro _ | (with_reducible apply modQp_inv))

theorem doTransportTimeout_inv (g : Nat) (s : State) (h : Inv s) : Inv (doTransportTimeout g s) := by
  unfold doTransportTimeout
  try dsimp only
  repeat' (first | (with_reducible assumption) | (with_reducible exact fun _ => rfl) | (with_reducible rfl) | intro _ | (with_reducible apply finishCmd_inv) | (with_reducible apply modGuest_inv) | (with_reducible apply endTransport_inv) | (with_reducible apply loseGuestIfOpen_inv) | (with_reducible apply ite_inv) | (with_reducible apply ite_inv_snd) | (with_reducible apply ite_inv_thd) | split)

theorem doPortDown_inv (n : Nat) (s : State) (h : Inv s) : Inv (doPortDown n s) := by
  unfold doPortDown
  try dsimp only
  repeat' (first | (with_reducible assumption) | (with_reducible exact fun _ => rfl) | (with_reducible rfl) | intro _ | (with_reducible apply modNet_inv) | (with_reducible apply modPort_inv) | (with_reducible apply followBest_inv) | (with_reducible apply ite_inv))

theorem doPortUp_inv (n : Nat) (s : State) (h : Inv s) : Inv (doPortUp n s) := by
  unfold doPortUp
  try dsimp only
  repeat' (first | (with_reducible assumption) | (with_reducible exact fun _ => rfl) | (with_reducible rfl) | intro _ | (with_reducible apply modNet_inv) | (with_reducible apply forEach_inv) | (with_reducible apply modPort_inv) | (with_reducible apply pumpAll_inv) | (with_reducible apply pumpPacel_inv) | (with_reducible apply guestConnected_inv) | (with_reducible apply ite_inv) | (with_reducible apply ite_inv_snd) | (with_reducible apply ite_inv_thd) | split)

theorem doArp_inv (n : Nat) (ip : BitVec 32) (s : State) (h : Inv s) : Inv (doArp n ip s) := by
  unfold doArp
  try dsimp only
  repeat' (first | (with_reducible assumption) | (with_reducible exact fun _ => rfl) | (with_reducible rfl) | intro _ | (with_reducible apply sendOwn_inv) | (with_reducible apply ite_inv))

theorem doNd_inv (n : Nat) (ip : BitVec 128) (s : State) (h : Inv s) : Inv (doNd n ip s) := by
  unfold doNd
  try dsimp only
  repeat' (first | (with_reducible assumption) | (with_reducible exact fun _ => rfl) | (with_reducible rfl) | intro _ | (with_reducible apply sendOwn_inv) | (with_reducible apply ite_inv))

theorem doIcmp_inv (n : Nat) (ip : BitVec 128) (payload : List Byte) (s : State) (h : Inv s) : Inv (doIcmp n ip payload s) := by
  unfold doIcmp
  try dsimp only
  repeat' (first | (with_reducible assumption) | (with_reducible exact fun _ => rfl) | (with_reducible rfl) | intro _ | (with_reducible apply sendOwn_inv) | (with_reducible apply ite_inv))

theorem doUnused_inv (n : Nat) (s : State) (h : Inv s) : Inv (doUnused n s) := by
  unfold doUnused
  try dsimp only
  repeat' (first | (with_reducible assumption) | (with_reducible exact fun _ => rfl) | (with_reducible rfl) | intro _ | (with_reducible apply dropFrame_inv) | (with_reducible apply ite_inv))

theorem doPfc_inv (n prio : Nat) (pause : Bool) (s : State) (h : Inv s) : Inv (doPfc n prio pause s) := by
  unfold doPfc
  try dsimp only
  repeat' (first | (with_reducible assumption) | (with_reducible exact fun _ => rfl) | (with_reducible rfl) | intro _ | (with_reducible apply modPort_inv) | (with_reducible apply pumpAll_inv) | (with_reducible apply doUnused_inv) | (with_reducible apply ite_inv))

theorem doUnsupportedOp_inv (port : Nat) (src : BitVec 128) (qpn psn : BitVec 24) (s : State) (h : Inv s) : Inv (doUnsupportedOp port src qpn psn s) := by
  unfold doUnsupportedOp
  try dsimp only
  repeat' (first | (with_reducible assumption) | (with_reducible exact fun _ => rfl) | (with_reducible rfl) | intro _ | (with_reducible apply sendOwn_inv) | (with_reducible apply countNak_inv) | (with_reducible apply roceNak_inv) | (with_reducible apply ite_inv) | (with_reducible apply ite_inv_snd) | (with_reducible apply ite_inv_thd) | split)

theorem replayFlits_inv (seq : BitVec 16) (s : State) (h : Inv s) : Inv (replayFlits seq s) := by
  unfold replayFlits
  try dsimp only
  repeat' (first | (with_reducible assumption) | (with_reducible exact fun _ => rfl) | (with_reducible rfl) | intro _ | (with_reducible apply forEach_inv) | (with_reducible apply netSend_inv))

theorem doFlit_inv (f : PacelFlit) (s : State) (h : Inv s) : Inv (doFlit f s) := by
  unfold doFlit
  try dsimp only
  repeat' (first | (with_reducible assumption) | (with_reducible exact fun _ => rfl) | (with_reducible rfl) | intro _ | (with_reducible apply modNet_inv) | (with_reducible apply forEach_inv) | (with_reducible apply netSend_inv) | (with_reducible apply creditFlow_inv) | (with_reducible apply refuseEntry_inv) | (with_reducible apply pumpPacel_inv) | (with_reducible apply landRecv_inv) | (with_reducible apply replayFlits_inv) | (with_reducible apply ite_inv) | (with_reducible apply ite_inv_snd) | (with_reducible apply ite_inv_thd) | split)

end Sys2Proof.Machine
end

