-- ==== Sys2Proof/Laws/InvJobTree.lean ====
section
/-! SUPPORT. The functions of Machine/JobTree.lean keep the invariant. -/

namespace Sys2Proof.Machine

theorem modPrep_inv (job : Word) (f : Prep → Prep) (s : State) (h : Inv s) : Inv (modPrep job f s) := by
  unfold modPrep
  try dsimp only
  repeat' (first | (with_reducible assumption) | (with_reducible exact fun _ => rfl) | (with_reducible rfl) | intro _ | (with_reducible apply modNet_inv))

theorem dropPrep_inv (job : Word) (s : State) (h : Inv s) : Inv (dropPrep job s) := by
  unfold dropPrep
  try dsimp only
  repeat' (first | (with_reducible assumption) | (with_reducible exact fun _ => rfl) | (with_reducible rfl) | intro _ | (with_reducible apply modNet_inv))

theorem sendTo_inv (ms : List Word) (ps : List Nat) (m : CtrlOut) (s : State) (h : Inv s) : Inv (sendTo ms ps m s) := by
  unfold sendTo
  try dsimp only
  repeat' (first | (with_reducible assumption) | (with_reducible exact fun _ => rfl) | (with_reducible rfl) | intro _ | (with_reducible apply forEach_inv) | (with_reducible apply sendCtrl_inv) | (with_reducible apply ite_inv) | (with_reducible apply ite_inv_snd) | (with_reducible apply ite_inv_thd) | split)

theorem sendAll_inv (ms : List Word) (m : CtrlOut) (s : State) (h : Inv s) : Inv (sendAll ms m s) := by
  unfold sendAll
  try dsimp only
  repeat' (first | (with_reducible assumption) | (with_reducible exact fun _ => rfl) | (with_reducible rfl) | intro _ | (with_reducible apply forEach_inv) | (with_reducible apply sendCtrl_inv))

theorem endJobCmds_inv (job : Word) (n : Nat) (s : State) (h : Inv s) : Inv (endJobCmds job n s) := by
  unfold endJobCmds
  try dsimp only
  repeat' (first | (with_reducible assumption) | (with_reducible exact fun _ => rfl) | (with_reducible rfl) | intro _ | (with_reducible apply forEach_inv) | (with_reducible apply finishCmd_inv) | (with_reducible apply abortJobCmds_inv) | (with_reducible apply ite_inv) | (with_reducible apply ite_inv_snd) | (with_reducible apply ite_inv_thd) | split)

theorem forgetJob_inv (k : Nat) (s : State) (h : Inv s) : Inv (forgetJob k s) := by
  unfold forgetJob
  try dsimp only
  repeat' (first | (with_reducible assumption) | (with_reducible exact fun _ => rfl) | (with_reducible rfl) | intro _ | (with_reducible apply dropRecvs_inv) | (with_reducible apply endJobCmds_inv) | (with_reducible apply ite_inv) | (with_reducible apply ite_inv_snd) | (with_reducible apply ite_inv_thd) | split)

theorem createJob_inv (k : Nat) (id seed : Word) (bell stages : Nat) (confirmed : Bool) (round : Nat) (s : State) (h : Inv s) : Inv (createJob k id seed bell stages confirmed round s) := by
  unfold createJob
  try dsimp only
  repeat' (first | (with_reducible assumption) | (with_reducible exact fun _ => rfl) | (with_reducible rfl) | intro _ | (with_reducible apply modItin_inv) | (with_reducible apply forgetJob_inv))

theorem setStop_inv (k bell : Nat) (s : State) (h : Inv s) : Inv (setStop k bell s) := by
  unfold setStop
  try dsimp only
  repeat' (first | (with_reducible assumption) | (with_reducible exact fun _ => rfl) | (with_reducible rfl) | intro _ | (with_reducible apply modItin_inv))

theorem failPrep_inv (p : Prep) (s : State) (h : Inv s) : Inv (failPrep p s) := by
  unfold failPrep
  try dsimp only
  repeat' (first | (with_reducible assumption) | (with_reducible exact fun _ => rfl) | (with_reducible rfl) | intro _ | (with_reducible apply finishCmd_inv) | (with_reducible apply dropPrep_inv))

theorem forwardPrepare_inv (p : Prep) (s : State) (h : Inv s) : Inv (forwardPrepare p s) := by
  unfold forwardPrepare
  try dsimp only
  repeat' (first | (with_reducible assumption) | (with_reducible exact fun _ => rfl) | (with_reducible rfl) | intro _ | (with_reducible apply sendTo_inv))

theorem endRound_inv (p : Prep) (s : State) (h : Inv s) : Inv (endRound p s) := by
  unfold endRound
  try dsimp only
  repeat' (first | (with_reducible assumption) | (with_reducible exact fun _ => rfl) | (with_reducible rfl) | intro _ | (with_reducible apply modNet_inv) | (with_reducible apply finishCmd_inv) | (with_reducible apply offer_inv) | (with_reducible apply modPrep_inv) | (with_reducible apply dropPrep_inv) | (with_reducible apply sendAll_inv) | (with_reducible apply createJob_inv) | (with_reducible apply failPrep_inv) | (with_reducible apply forwardPrepare_inv) | (with_reducible apply ite_inv))

theorem answerRound_inv (p : Prep) (s : State) (h : Inv s) : Inv (answerRound p s) := by
  unfold answerRound
  try dsimp only
  repeat' (first | (with_reducible assumption) | (with_reducible exact fun _ => rfl) | (with_reducible rfl) | intro _ | (with_reducible apply modPrep_inv) | (with_reducible apply sendTo_inv) | (with_reducible apply endRound_inv) | (with_reducible apply ite_inv))

theorem takePrepare_inv (p : Prep) (m : CtrlMsg) (s : State) (h : Inv s) : Inv (takePrepare p m s) := by
  unfold takePrepare
  try dsimp only
  repeat' (first | (with_reducible assumption) | (with_reducible exact fun _ => rfl) | (with_reducible rfl) | intro _ | (with_reducible apply sendCtrl_inv) | (with_reducible apply offer_inv) | (with_reducible apply modPrep_inv) | (with_reducible apply forwardPrepare_inv) | (with_reducible apply answerRound_inv) | (with_reducible apply ite_inv))

theorem startPrep_inv (p : Prep) (s : State) (h : Inv s) : Inv (startPrep p s) := by
  unfold startPrep
  try dsimp only
  repeat' (first | (with_reducible assumption) | (with_reducible exact fun _ => rfl) | (with_reducible rfl) | intro _ | (with_reducible apply modNet_inv) | (with_reducible apply offer_inv) | (with_reducible apply modPrep_inv) | (with_reducible apply forwardPrepare_inv) | (with_reducible apply answerRound_inv) | (with_reducible apply takePrepare_inv) | (with_reducible apply ite_inv) | (with_reducible apply ite_inv_snd) | (with_reducible apply ite_inv_thd) | split)

theorem rxCtrl_inv (kind : Nat) (m : CtrlMsg) (act : State → State) (s : State) (kact : ∀ (y0 : State), Inv y0 → Inv (act y0)) (h : Inv s) : Inv (rxCtrl kind m act s) := by
  unfold rxCtrl
  try dsimp only
  repeat' (first | (with_reducible assumption) | (with_reducible exact fun _ => rfl) | (with_reducible rfl) | intro _ | (with_reducible apply sendAck_inv) | (with_reducible apply noConn_inv) | (with_reducible apply takePsn_inv) | (with_reducible apply dropFrame_inv) | (with_reducible apply rxPacket_inv) | (with_reducible apply kact) | (with_reducible apply ite_inv))

theorem doHello_inv (m : CtrlMsg) (s : State) (h : Inv s) : Inv (doHello m s) := by
  unfold doHello
  try dsimp only
  repeat' (first | (with_reducible assumption) | (with_reducible exact fun _ => rfl) | (with_reducible rfl) | intro _ | (with_reducible apply setConn_inv) | (with_reducible apply pumpConn_inv) | (with_reducible apply sendAck_inv) | (with_reducible apply takePsn_inv) | (with_reducible apply dropFrame_inv) | (with_reducible apply rxFrame_inv) | (with_reducible apply guestConnected_inv) | (with_reducible apply ite_inv) | (with_reducible apply ite_inv_snd) | (with_reducible apply ite_inv_thd) | split)

theorem doPrepare_inv (m : CtrlMsg) (s : State) (h : Inv s) : Inv (doPrepare m s) := by
  unfold doPrepare
  try dsimp only
  repeat' (first | (with_reducible assumption) | (with_reducible exact fun _ => rfl) | (with_reducible rfl) | intro _ | (with_reducible apply modNet_inv) | (with_reducible apply takePrepare_inv) | (with_reducible apply rxCtrl_inv) | (with_reducible apply ite_inv) | (with_reducible apply ite_inv_snd) | (with_reducible apply ite_inv_thd) | split)

theorem doPrepAck_inv (m : CtrlMsg) (s : State) (h : Inv s) : Inv (doPrepAck m s) := by
  unfold doPrepAck
  try dsimp only
  repeat' (first | (with_reducible assumption) | (with_reducible exact fun _ => rfl) | (with_reducible rfl) | intro _ | (with_reducible apply modPrep_inv) | (with_reducible apply answerRound_inv) | (with_reducible apply rxCtrl_inv) | (with_reducible apply ite_inv) | (with_reducible apply ite_inv_snd) | (with_reducible apply ite_inv_thd) | split)

theorem forwardConfirm_inv (ms : List Word) (me : Nat) (job : Word) (bell : Nat) (s : State) (h : Inv s) : Inv (forwardConfirm ms me job bell s) := by
  unfold forwardConfirm
  try dsimp only
  repeat' (first | (with_reducible assumption) | (with_reducible exact fun _ => rfl) | (with_reducible rfl) | intro _ | (with_reducible apply sendTo_inv))

theorem doConfirm_inv (m : CtrlMsg) (s : State) (h : Inv s) : Inv (doConfirm m s) := by
  unfold doConfirm
  try dsimp only
  repeat' (first | (with_reducible assumption) | (with_reducible exact fun _ => rfl) | (with_reducible rfl) | intro _ | (with_reducible apply finishCmd_inv) | (with_reducible apply dropPrep_inv) | (with_reducible apply createJob_inv) | (with_reducible apply rxCtrl_inv) | (with_reducible apply forwardConfirm_inv) | (with_reducible apply ite_inv) | (with_reducible apply ite_inv_snd) | (with_reducible apply ite_inv_thd) | split)

theorem doAbandon_inv (m : CtrlMsg) (s : State) (h : Inv s) : Inv (doAbandon m s) := by
  unfold doAbandon
  try dsimp only
  repeat' (first | (with_reducible assumption) | (with_reducible exact fun _ => rfl) | (with_reducible rfl) | intro _ | (with_reducible apply sendTo_inv) | (with_reducible apply sendAll_inv) | (with_reducible apply setStop_inv) | (with_reducible apply failPrep_inv) | (with_reducible apply rxCtrl_inv) | (with_reducible apply ite_inv) | (with_reducible apply ite_inv_snd) | (with_reducible apply ite_inv_thd) | split)

theorem putRoll_inv (r : JobRoll) (s : State) (h : Inv s) : Inv (putRoll r s) := by
  unfold putRoll
  try dsimp only
  repeat' (first | (with_reducible assumption) | (with_reducible exact fun _ => rfl) | (with_reducible rfl) | intro _ | (with_reducible apply modNet_inv))

theorem doRollback_inv (m : CtrlMsg) (s : State) (h : Inv s) : Inv (doRollback m s) := by
  unfold doRollback
  try dsimp only
  repeat' (first | (with_reducible assumption) | (with_reducible exact fun _ => rfl) | (with_reducible rfl) | intro _ | (with_reducible apply sendCtrl_inv) | (with_reducible apply discardLeg_inv) | (with_reducible apply rxCtrl_inv) | (with_reducible apply putRoll_inv) | (with_reducible apply ite_inv) | (with_reducible apply ite_inv_snd) | (with_reducible apply ite_inv_thd) | split)

theorem settleRoll_inv (r : JobRoll) (i : Itin) (s : State) (h : Inv s) : Inv (settleRoll r i s) := by
  unfold settleRoll
  try dsimp only
  repeat' (first | (with_reducible assumption) | (with_reducible exact fun _ => rfl) | (with_reducible rfl) | intro _ | (with_reducible apply forEach_inv) | (with_reducible apply sendCtrl_inv) | (with_reducible apply putRoll_inv) | (with_reducible apply ite_inv))

theorem doRollbackAck_inv (m : CtrlMsg) (s : State) (h : Inv s) : Inv (doRollbackAck m s) := by
  unfold doRollbackAck
  try dsimp only
  repeat' (first | (with_reducible assumption) | (with_reducible exact fun _ => rfl) | (with_reducible rfl) | intro _ | (with_reducible apply rxCtrl_inv) | (with_reducible apply putRoll_inv) | (with_reducible apply settleRoll_inv) | (with_reducible apply ite_inv) | (with_reducible apply ite_inv_snd) | (with_reducible apply ite_inv_thd) | split)

theorem doRestart_inv (m : CtrlMsg) (s : State) (h : Inv s) : Inv (doRestart m s) := by
  unfold doRestart
  try dsimp only
  repeat' (first | (with_reducible assumption) | (with_reducible exact fun _ => rfl) | (with_reducible rfl) | intro _ | (with_reducible apply rxCtrl_inv) | (with_reducible apply putRoll_inv) | (with_reducible apply ite_inv) | (with_reducible apply ite_inv_snd) | (with_reducible apply ite_inv_thd) | split)

theorem doAckWait_inv (job : Word) (s : State) (h : Inv s) : Inv (doAckWait job s) := by
  unfold doAckWait
  try dsimp only
  repeat' (first | (with_reducible assumption) | (with_reducible exact fun _ => rfl) | (with_reducible rfl) | intro _ | (with_reducible apply modNet_inv) | (with_reducible apply forEach_inv) | (with_reducible apply sendCtrl_inv) | (with_reducible apply setStop_inv) | (with_reducible apply answerRound_inv) | (with_reducible apply ite_inv) | (with_reducible apply ite_inv_snd) | (with_reducible apply ite_inv_thd) | split)

end Sys2Proof.Machine
end

