-- ==== Sys2Proof/Laws/InvPorters.lean ====
section
/-! SUPPORT. The functions of Machine/Porters.lean keep the invariant. -/

namespace Sys2Proof.Machine

theorem ptrErr_inv (p addr cause : Nat) (s : State) (h : Inv s) : Inv (ptrErr p addr cause s) := by
  unfold ptrErr
  try dsimp only
  repeat' (first | (with_reducible assumption) | (with_reducible exact fun _ => rfl) | (with_reducible rfl) | intro _ | (with_reducible apply modPorter_inv))

theorem removeDescs_inv (mine : Owner → Bool) (s : State) (h : Inv s) : Inv (removeDescs mine s) := by
  unfold removeDescs
  try dsimp only
  repeat' (first | (with_reducible assumption) | (with_reducible exact fun _ => rfl) | (with_reducible rfl) | intro _ | (with_reducible apply ite_inv) | (with_reducible apply ite_inv_snd) | (with_reducible apply ite_inv_thd) | split | (with_reducible refine Inv.ofSnd (by assumption) ?_) | (with_reducible refine Inv.ofThd (by assumption) ?_) | (fail_if_no_progress refine inv_mk rfl rfl rfl rfl rfl rfl ?_))

theorem endCmd_inv (id : Nat) (st : BitVec 16) (res : Nat) (s : State) (h : Inv s) : Inv (endCmd id st res s) := by
  unfold endCmd
  try dsimp only
  repeat' (first | (with_reducible assumption) | (with_reducible exact fun _ => rfl) | (with_reducible rfl) | intro _ | (with_reducible apply modInnk_inv) | (with_reducible apply forEach_inv) | (with_reducible apply modCmd_inv) | (with_reducible apply finishCmd_inv) | (with_reducible apply modFlow_inv) | (with_reducible apply removeDescs_inv) | (with_reducible apply foldl_inv) | (with_reducible apply foldl_inv_snd) | (with_reducible apply ite_inv) | (with_reducible apply ite_inv_snd) | (with_reducible apply ite_inv_thd) | split)

theorem refuseDesc_inv (p : Nat) (d : Desc) (addr : Nat) (s : State) (h : Inv s) : Inv (refuseDesc p d addr s) := by
  unfold refuseDesc
  try dsimp only
  repeat' (first | (with_reducible assumption) | (with_reducible exact fun _ => rfl) | (with_reducible rfl) | intro _ | (with_reducible apply modPorter_inv) | (with_reducible apply stageFault_inv) | (with_reducible apply ptrErr_inv) | (with_reducible apply removeDescs_inv) | (with_reducible apply endCmd_inv) | (with_reducible apply ite_inv) | (with_reducible apply ite_inv_snd) | (with_reducible apply ite_inv_thd) | split)

theorem ptrLog_inv (p cls : Nat) (d : Desc) (addr : Nat) (s : State) (h : Inv s) : Inv (ptrLog p cls d addr s) := by
  unfold ptrLog
  try dsimp only
  repeat' (first | (with_reducible assumption) | (with_reducible exact fun _ => rfl) | (with_reducible rfl) | intro _ | (with_reducible apply logErr_inv) | (with_reducible apply ite_inv) | (with_reducible apply ite_inv_snd) | (with_reducible apply ite_inv_thd) | split)

theorem notePoison_inv (p : Nat) (d : Desc) (addrs : List Nat) (out : Bool) (s : State) (h : Inv s) : Inv (notePoison p d addrs out s) := by
  unfold notePoison
  try dsimp only
  repeat' (first | (with_reducible assumption) | (with_reducible exact fun _ => rfl) | (with_reducible rfl) | intro _ | (with_reducible apply modPorter_inv) | (with_reducible apply forEach_inv) | (with_reducible apply modCmd_inv) | (with_reducible apply ptrErr_inv) | (with_reducible apply ptrLog_inv) | (with_reducible apply ite_inv) | (with_reducible apply ite_inv_snd) | (with_reducible apply ite_inv_thd) | split)

theorem poisonMove_inv (p k : Nat) (d : Desc) (addr : Nat) (s : State) (h : Inv s) : Inv (poisonMove p k d addr s) := by
  unfold poisonMove
  try dsimp only
  repeat' (first | (with_reducible assumption) | (with_reducible exact fun _ => rfl) | (with_reducible rfl) | intro _ | (with_reducible apply modPorter_inv) | (with_reducible apply stageFault_inv) | (with_reducible apply ptrErr_inv) | (with_reducible apply ptrLog_inv))

theorem countChunk_inv (p : Nat) (d : Desc) (s : State) (h : Inv s) : Inv (countChunk p d s) := by
  unfold countChunk
  try dsimp only
  repeat' (first | (with_reducible assumption) | (with_reducible exact fun _ => rfl) | (with_reducible rfl) | intro _ | (with_reducible apply modPorter_inv))

theorem chunkDone_inv (p : Nat) (d : Desc) (n rd wr : Nat) (accepted : Bool) (s : State) (h : Inv s) : Inv (chunkDone p d n rd wr accepted s) := by
  unfold chunkDone
  try dsimp only
  repeat' (first | (with_reducible assumption) | (with_reducible exact fun _ => rfl) | (with_reducible rfl) | intro _ | (with_reducible apply modPorter_inv) | (with_reducible apply modCmd_inv) | (with_reducible apply modLeg_inv) | (with_reducible apply modDesc_inv) | (with_reducible apply countChunk_inv) | (with_reducible apply ite_inv) | (with_reducible apply ite_inv_snd) | (with_reducible apply ite_inv_thd) | split)

theorem putWords_inv (p a : Nat) (vs : List SectorVal) (s : State) (h : Inv s) : Inv (putWords p a vs s) := by
  unfold putWords
  try dsimp only
  repeat' (first | (with_reducible assumption) | (with_reducible exact fun _ => rfl) | (with_reducible rfl) | intro _ | (with_reducible apply forEach_inv) | (with_reducible apply homeWriteSector_inv) | (with_reducible apply ite_inv) | (with_reducible apply ite_inv_snd) | (with_reducible apply ite_inv_thd) | split)

theorem handOver_inv (p a : Nat) (e : Option PathErr) (vs : List SectorVal) (s : State) (h : Inv s) : Inv (handOver p a e vs s).2 := by
  unfold handOver
  try dsimp only
  repeat' (first | (with_reducible assumption) | (with_reducible exact fun _ => rfl) | (with_reducible rfl) | intro _ | (with_reducible apply logErr_inv) | (with_reducible apply modPorter_inv) | (with_reducible apply ite_inv) | (with_reducible apply ite_inv_snd) | (with_reducible apply ite_inv_thd) | split)

theorem copyChunk_inv (p : Nat) (d : Desc) (n : Nat) (e : Option PathErr) (s : State) (h : Inv s) : Inv (copyChunk p d n e s) := by
  unfold copyChunk
  try dsimp only
  repeat' (first | (with_reducible assumption) | (with_reducible exact fun _ => rfl) | (with_reducible rfl) | intro _ | (with_reducible apply clearAll_inv) | (with_reducible apply homeReadLines_inv) | (with_reducible apply notePoison_inv) | (with_reducible apply poisonMove_inv) | (with_reducible apply chunkDone_inv) | (with_reducible apply putWords_inv) | (with_reducible apply handOver_inv) | (with_reducible apply ite_inv) | (with_reducible apply ite_inv_snd) | (with_reducible apply ite_inv_thd) | split)

theorem fillChunk_inv (p : Nat) (d : Desc) (n : Nat) (mismatch : Bool) (s : State) (h : Inv s) : Inv (fillChunk p d n mismatch s) := by
  unfold fillChunk
  try dsimp only
  repeat' (first | (with_reducible assumption) | (with_reducible exact fun _ => rfl) | (with_reducible rfl) | intro _ | (with_reducible apply stageFault_inv) | (with_reducible apply clearAll_inv) | (with_reducible apply ptrErr_inv) | (with_reducible apply endCmd_inv) | (with_reducible apply ptrLog_inv) | (with_reducible apply chunkDone_inv) | (with_reducible apply putWords_inv) | (with_reducible apply ite_inv) | (with_reducible apply ite_inv_snd) | (with_reducible apply ite_inv_thd) | split)

theorem pushChunk_inv (p : Nat) (d : Desc) (n : Nat) (e : Option PathErr) (s : State) (h : Inv s) : Inv (pushChunk p d n e s) := by
  unfold pushChunk
  try dsimp only
  repeat' (first | (with_reducible assumption) | (with_reducible exact fun _ => rfl) | (with_reducible rfl) | intro _ | (with_reducible apply modNet_inv) | (with_reducible apply homeReadLines_inv) | (with_reducible apply queueGuest_inv) | (with_reducible apply pumpGuest_inv) | (with_reducible apply notePoison_inv) | (with_reducible apply poisonMove_inv) | (with_reducible apply chunkDone_inv) | (with_reducible apply handOver_inv) | (with_reducible apply ite_inv) | (with_reducible apply ite_inv_snd) | (with_reducible apply ite_inv_thd) | split)

theorem pullChunk_inv (p : Nat) (d : Desc) (n : Nat) (s : State) (h : Inv s) : Inv (pullChunk p d n s) := by
  unfold pullChunk
  try dsimp only
  repeat' (first | (with_reducible assumption) | (with_reducible exact fun _ => rfl) | (with_reducible rfl) | intro _ | (with_reducible apply queueGuest_inv) | (with_reducible apply pumpGuest_inv) | (with_reducible apply chunkDone_inv))

theorem doChunk_inv (p : Nat) (mismatch : Bool) (e : Option PathErr) (s : State) (h : Inv s) : Inv (doChunk p mismatch e s) := by
  unfold doChunk
  try dsimp only
  repeat' (first | (with_reducible assumption) | (with_reducible exact fun _ => rfl) | (with_reducible rfl) | intro _ | (with_reducible apply refuseDesc_inv) | (with_reducible apply copyChunk_inv) | (with_reducible apply fillChunk_inv) | (with_reducible apply pushChunk_inv) | (with_reducible apply pullChunk_inv) | (with_reducible apply ite_inv) | (with_reducible apply ite_inv_snd) | (with_reducible apply ite_inv_thd) | split)

theorem porterCmdDone_inv (id : Nat) (c : Cmd) (s : State) (h : Inv s) : Inv (porterCmdDone id c s) := by
  unfold porterCmdDone
  try dsimp only
  repeat' (first | (with_reducible assumption) | (with_reducible exact fun _ => rfl) | (with_reducible rfl) | intro _ | (with_reducible apply modInnk_inv) | (with_reducible apply modCmd_inv) | (with_reducible apply finishCmd_inv) | (with_reducible apply ite_inv))

theorem doDescComplete_inv (p : Nat) (leg : Bool) (idx : Nat) (s : State) (h : Inv s) : Inv (doDescComplete p leg idx s) := by
  unfold doDescComplete
  try dsimp only
  repeat' (first | (with_reducible assumption) | (with_reducible exact fun _ => rfl) | (with_reducible rfl) | intro _ | (with_reducible apply modPorter_inv) | (with_reducible apply modCmd_inv) | (with_reducible apply entryDone_inv) | (with_reducible apply porterCmdDone_inv) | (with_reducible apply ite_inv) | (with_reducible apply ite_inv_snd) | (with_reducible apply ite_inv_thd) | split)

end Sys2Proof.Machine
end

