-- ==== Sys2Proof/Laws/InvLegEntries.lean ====
section
/-! SUPPORT. The functions of Machine/LegEntries.lean keep the invariant. -/

namespace Sys2Proof.Machine

theorem slip_inv (k e : Nat) (s : State) (h : Inv s) : Inv (slip k e s) := by
  unfold slip
  try dsimp only
  repeat' (first | (with_reducible assumption) | (with_reducible exact fun _ => rfl) | (with_reducible rfl) | intro _ | (with_reducible apply modStg_inv) | (with_reducible apply modLeg_inv) | (with_reducible apply ite_inv) | (with_reducible apply ite_inv_snd) | (with_reducible apply ite_inv_thd) | split)

theorem comesToIssue_inv (k e kind : Nat) (s : State) (go : Itin → Leg → Entry → State → State) (kgo : ∀ (y0 : Itin) (y1 : Leg) (y2 : Entry) (y3 : State), Inv y3 → Inv (go y0 y1 y2 y3)) (h : Inv s) : Inv (comesToIssue k e kind s go) := by
  unfold comesToIssue
  try dsimp only
  repeat' (first | (with_reducible assumption) | (with_reducible exact fun _ => rfl) | (with_reducible rfl) | intro _ | (with_reducible apply passNs_inv) | (with_reducible apply slip_inv) | (with_reducible apply kgo) | (with_reducible apply ite_inv) | (with_reducible apply ite_inv_snd) | (with_reducible apply ite_inv_thd) | split)

theorem issued_inv (k e : Nat) (empty done : Bool) (s : State) (h : Inv s) : Inv (issued k e empty done s) := by
  unfold issued
  try dsimp only
  repeat' (first | (with_reducible assumption) | (with_reducible exact fun _ => rfl) | (with_reducible rfl) | intro _ | (with_reducible apply modLeg_inv))

theorem imageBytes_inv (i : Itin) (off n : Nat) (s : State) (h : Inv s) : Inv (imageBytes i off n s).2 := by
  unfold imageBytes
  try dsimp only
  repeat' (first | (with_reducible assumption) | (with_reducible exact fun _ => rfl) | (with_reducible rfl) | intro _ | (with_reducible apply homeReadBytes_inv))

theorem doLaunch_inv (k e : Nat) (s : State) (h : Inv s) : Inv (doLaunch k e s) := by
  unfold doLaunch
  try dsimp only
  repeat' (first | (with_reducible assumption) | (with_reducible exact fun _ => rfl) | (with_reducible rfl) | intro _ | (with_reducible apply modCore_inv) | (with_reducible apply forEach_inv) | (with_reducible apply slip_inv) | (with_reducible apply comesToIssue_inv) | (with_reducible apply issued_inv) | (with_reducible apply imageBytes_inv) | (with_reducible apply foldl_inv) | (with_reducible apply foldl_inv_snd) | (with_reducible apply ite_inv) | (with_reducible apply ite_inv_snd) | (with_reducible apply ite_inv_thd) | split)

theorem doMove_inv (k e : Nat) (s : State) (h : Inv s) : Inv (doMove k e s) := by
  unfold doMove
  try dsimp only
  repeat' (first | (with_reducible assumption) | (with_reducible exact fun _ => rfl) | (with_reducible rfl) | intro _ | (with_reducible apply modPorter_inv) | (with_reducible apply slip_inv) | (with_reducible apply comesToIssue_inv) | (with_reducible apply issued_inv) | (with_reducible apply imageBytes_inv) | (with_reducible apply ite_inv) | (with_reducible apply ite_inv_snd) | (with_reducible apply ite_inv_thd) | split)

theorem doSend_inv (k e : Nat) (s : State) (h : Inv s) : Inv (doSend k e s) := by
  unfold doSend
  try dsimp only
  repeat' (first | (with_reducible assumption) | (with_reducible exact fun _ => rfl) | (with_reducible rfl) | intro _ | (with_reducible apply modNet_inv) | (with_reducible apply queueConn_inv) | (with_reducible apply refuseEntry_inv) | (with_reducible apply pumpConn_inv) | (with_reducible apply guestWrite_inv) | (with_reducible apply pumpPacel_inv) | (with_reducible apply slip_inv) | (with_reducible apply comesToIssue_inv) | (with_reducible apply issued_inv) | (with_reducible apply imageBytes_inv) | (with_reducible apply ite_inv) | (with_reducible apply ite_inv_snd) | (with_reducible apply ite_inv_thd) | split)

theorem doRecv_inv (k e : Nat) (s : State) (h : Inv s) : Inv (doRecv k e s) := by
  unfold doRecv
  try dsimp only
  repeat' (first | (with_reducible assumption) | (with_reducible exact fun _ => rfl) | (with_reducible rfl) | intro _ | (with_reducible apply modNet_inv) | (with_reducible apply entryDone_inv) | (with_reducible apply refuseEntry_inv) | (with_reducible apply settleGuestRecvs_inv) | (with_reducible apply slip_inv) | (with_reducible apply comesToIssue_inv) | (with_reducible apply issued_inv) | (with_reducible apply imageBytes_inv) | (with_reducible apply ite_inv) | (with_reducible apply ite_inv_snd) | (with_reducible apply ite_inv_thd) | split)

end Sys2Proof.Machine
end

