-- ==== Sys2Proof/Laws/InvCmdBase.lean ====
section
/-! SUPPORT. The functions of Machine/CmdBase.lean keep the invariant. -/

namespace Sys2Proof.Machine

theorem withCmd_inv (id op : Nat) (s : State) (f : Cmd → State) (kf : ∀ (y0 : Cmd), Inv (f y0)) (h : Inv s) : Inv (withCmd id op s f) := by
  unfold withCmd
  try dsimp only
  repeat' (first | (with_reducible assumption) | (with_reducible exact fun _ => rfl) | (with_reducible rfl) | intro _ | (with_reducible apply kf) | (with_reducible apply ite_inv) | (with_reducible apply ite_inv_snd) | (with_reducible apply ite_inv_thd) | split)

theorem emptyCmd_inv (id : Nat) (s : State) (h : Inv s) : Inv (emptyCmd id s) := by
  unfold emptyCmd
  try dsimp only
  repeat' (first | (with_reducible assumption) | (with_reducible exact fun _ => rfl) | (with_reducible rfl) | intro _ | (with_reducible apply modCmd_inv) | (with_reducible apply finishCmd_inv))

theorem writeOut_inv (id : Nat) (c : Cmd) (a : Nat) (bs : List Byte) (res : Nat) (s : State) (h : Inv s) : Inv (writeOut id c a bs res s) := by
  unfold writeOut
  try dsimp only
  repeat' (first | (with_reducible assumption) | (with_reducible exact fun _ => rfl) | (with_reducible rfl) | intro _ | (with_reducible apply modCmd_inv) | (with_reducible apply finishCmd_inv) | (with_reducible apply homeWriteBytes_inv) | (with_reducible apply guestWrite_inv) | (with_reducible apply ite_inv) | (with_reducible apply ite_inv_snd) | (with_reducible apply ite_inv_thd) | split)

theorem addAct_inv (a : BellAct) (id : Nat) (s : State) (h : Inv s) : Inv (addAct a id s) := by
  unfold addAct
  try dsimp only
  repeat' (first | (with_reducible assumption) | (with_reducible exact fun _ => rfl) | (with_reducible rfl) | intro _ | (with_reducible apply modInnk_inv) | (with_reducible apply waitCmd_inv))

end Sys2Proof.Machine
end

