-- ==== Sys2Proof/Laws/InvMonitor.lean ====
section
/-! SUPPORT. The functions of Machine/Monitor.lean keep the invariant. -/

namespace Sys2Proof.Machine

theorem modSec_inv (f : Security → Security) (s : State) (h : Inv s) : Inv (modSec f s) := by
  unfold modSec
  try dsimp only
  repeat' (first | (with_reducible assumption) | (with_reducible exact fun _ => rfl) | (with_reducible rfl) | intro _ | (with_reducible apply ite_inv) | (with_reducible apply ite_inv_snd) | (with_reducible apply ite_inv_thd) | split | (with_reducible refine Inv.ofSnd (by assumption) ?_) | (with_reducible refine Inv.ofThd (by assumption) ?_) | (fail_if_no_progress refine inv_mk rfl rfl rfl rfl rfl rfl ?_))

theorem extendMr_inv (n : Nat) (v : BitVec 256) (s : State) (h : Inv s) : Inv (extendMr n v s) := by
  unfold extendMr
  try dsimp only
  repeat' (first | (with_reducible assumption) | (with_reducible exact fun _ => rfl) | (with_reducible rfl) | intro _ | (with_reducible apply modSec_inv))

theorem freshNonce_inv (s : State) (h : Inv s) : Inv (freshNonce s) := by
  unfold freshNonce
  try dsimp only
  repeat' (first | (with_reducible assumption) | (with_reducible exact fun _ => rfl) | (with_reducible rfl) | intro _ | (with_reducible apply draw_inv) | (with_reducible apply modSec_inv))

theorem refuseItin_inv (s : State) (h : Inv s) : Inv (refuseItin s) := by
  unfold refuseItin
  try dsimp only
  repeat' (first | (with_reducible assumption) | (with_reducible exact fun _ => rfl) | (with_reducible rfl) | intro _ | (with_reducible apply modSec_inv))

theorem refuseFw_inv (s : State) (h : Inv s) : Inv (refuseFw s) := by
  unfold refuseFw
  try dsimp only
  repeat' (first | (with_reducible assumption) | (with_reducible exact fun _ => rfl) | (with_reducible rfl) | intro _ | (with_reducible apply modSec_inv))

theorem refuseDbg_inv (s : State) (h : Inv s) : Inv (refuseDbg s) := by
  unfold refuseDbg
  try dsimp only
  repeat' (first | (with_reducible assumption) | (with_reducible exact fun _ => rfl) | (with_reducible rfl) | intro _ | (with_reducible apply modSec_inv))

end Sys2Proof.Machine
end

