-- ==== Sys2Proof/Laws/InvDeviceCmds.lean ====
section
/-! SUPPORT. The functions of Machine/DeviceCmds.lean keep the invariant. -/

namespace Sys2Proof.Machine

theorem stageCfg_inv (len win ckpt wdog mask first bells : Nat) (cmd : Option Nat) (s : State) (h : Inv s) : Inv (stageCfg len win ckpt wdog mask first bells cmd s) := by
  unfold stageCfg
  try dsimp only
  repeat' (first | (with_reducible assumption) | (with_reducible exact fun _ => rfl) | (with_reducible rfl) | intro _ | (with_reducible apply modStg_inv))

theorem doDeviceIdent_inv (id : Nat) (s : State) (h : Inv s) : Inv (doDeviceIdent id s) := by
  unfold doDeviceIdent
  try dsimp only
  repeat' (first | (with_reducible assumption) | (with_reducible exact fun _ => rfl) | (with_reducible rfl) | intro _ | (with_reducible apply finishCmd_inv) | (with_reducible apply withCmd_inv) | (with_reducible apply ite_inv))

theorem doDeviceCaps_inv (id : Nat) (s : State) (h : Inv s) : Inv (doDeviceCaps id s) := by
  unfold doDeviceCaps
  try dsimp only
  repeat' (first | (with_reducible assumption) | (with_reducible exact fun _ => rfl) | (with_reducible rfl) | intro _ | (with_reducible apply finishCmd_inv) | (with_reducible apply withCmd_inv) | (with_reducible apply emptyCmd_inv) | (with_reducible apply writeOut_inv) | (with_reducible apply ite_inv) | (with_reducible apply ite_inv_snd) | (with_reducible apply ite_inv_thd) | split)

theorem doClusterOffline_inv (id : Nat) (s : State) (h : Inv s) : Inv (doClusterOffline id s) := by
  unfold doClusterOffline
  try dsimp only
  repeat' (first | (with_reducible assumption) | (with_reducible exact fun _ => rfl) | (with_reducible rfl) | intro _ | (with_reducible apply finishCmd_inv) | (with_reducible apply takeOffline_inv) | (with_reducible apply withCmd_inv) | (with_reducible apply addAct_inv) | (with_reducible apply ite_inv))

theorem doTimeStatus_inv (id : Nat) (s : State) (h : Inv s) : Inv (doTimeStatus id s) := by
  unfold doTimeStatus
  try dsimp only
  repeat' (first | (with_reducible assumption) | (with_reducible exact fun _ => rfl) | (with_reducible rfl) | intro _ | (with_reducible apply finishCmd_inv) | (with_reducible apply withCmd_inv) | (with_reducible apply ite_inv))

theorem doStageConfig_inv (id : Nat) (s : State) (h : Inv s) : Inv (doStageConfig id s) := by
  unfold doStageConfig
  try dsimp only
  repeat' (first | (with_reducible assumption) | (with_reducible exact fun _ => rfl) | (with_reducible rfl) | intro _ | (with_reducible apply modStg_inv) | (with_reducible apply finishCmd_inv) | (with_reducible apply waitCmd_inv) | (with_reducible apply withCmd_inv) | (with_reducible apply stageCfg_inv) | (with_reducible apply ite_inv))

theorem doCfgNextApply_inv (value : Word) (s : State) (h : Inv s) : Inv (doCfgNextApply value s) := by
  unfold doCfgNextApply
  try dsimp only
  repeat' (first | (with_reducible assumption) | (with_reducible exact fun _ => rfl) | (with_reducible rfl) | intro _ | (with_reducible apply modStg_inv) | (with_reducible apply stageCfg_inv) | (with_reducible apply ite_inv))

theorem doEventsClr_inv (value : Word) (s : State) (h : Inv s) : Inv (doEventsClr value s) := by
  unfold doEventsClr
  try dsimp only
  repeat' (first | (with_reducible assumption) | (with_reducible exact fun _ => rfl) | (with_reducible rfl) | intro _ | (with_reducible apply modStg_inv) | (with_reducible apply slip_inv) | (with_reducible apply ite_inv))

theorem doOffline_inv (n : Nat) (value : Word) (s : State) (h : Inv s) : Inv (doOffline n value s) := by
  unfold doOffline
  try dsimp only
  repeat' (first | (with_reducible assumption) | (with_reducible exact fun _ => rfl) | (with_reducible rfl) | intro _ | (with_reducible apply modCluster_inv) | (with_reducible apply takeOffline_inv) | (with_reducible apply ite_inv))

end Sys2Proof.Machine
end

