-- ==== Sys2Proof/Laws/InvItinImage.lean ====
section
/-! SUPPORT. The functions of Machine/ItinImage.lean keep the invariant. -/

namespace Sys2Proof.Machine

theorem doItineraryLoad_inv (id : Nat) (s : State) (h : Inv s) : Inv (doItineraryLoad id s) := by
  unfold doItineraryLoad
  try dsimp only
  repeat' (first | (with_reducible assumption) | (with_reducible exact fun _ => rfl) | (with_reducible rfl) | intro _ | (with_reducible apply forEach_inv) | (with_reducible apply setItin_inv) | (with_reducible apply finishCmd_inv) | (with_reducible apply openConn_inv) | (with_reducible apply homeReadBytes_inv) | (with_reducible apply withCmd_inv) | (with_reducible apply emptyCmd_inv) | (with_reducible apply extendMr_inv) | (with_reducible apply refuseItin_inv) | (with_reducible apply ite_inv) | (with_reducible apply ite_inv_snd) | (with_reducible apply ite_inv_thd) | split)

end Sys2Proof.Machine
end

