-- ==== Sys2Proof/Laws/InvJobCmds.lean ====
section
/-! SUPPORT. The functions of Machine/JobCmds.lean keep the invariant. -/

namespace Sys2Proof.Machine

theorem warmHalves_inv (place : List Nat) (s : State) (h : Inv s) : Inv (warmHalves place s) := by
  unfold warmHalves
  try dsimp only
  repeat' (first | (with_reducible assumption) | (with_reducible exact fun _ => rfl) | (with_reducible rfl) | intro _ | (with_reducible apply forEach_inv) | (with_reducible apply ite_inv) | (with_reducible apply ite_inv_snd) | (with_reducible apply ite_inv_thd) | split | (with_reducible refine Inv.ofSnd (by assumption) ?_) | (with_reducible refine Inv.ofThd (by assumption) ?_) | (fail_if_no_progress refine inv_mk rfl rfl rfl rfl rfl rfl ?_))

theorem dropBind_inv (cmd : Nat) (s : State) (h : Inv s) : Inv (dropBind cmd s) := by
  unfold dropBind
  try dsimp only
  repeat' (first | (with_reducible assumption) | (with_reducible exact fun _ => rfl) | (with_reducible rfl) | intro _ | (with_reducible apply modInnk_inv))

theorem bindChecked_inv (id : Nat) (c : Cmd) (k bell : Nat) (place : List Nat) (evicting : Bool) (s : State) (h : Inv s) : Inv (bindChecked id c k bell place evicting s) := by
  unfold bindChecked
  try dsimp only
  repeat' (first | (with_reducible assumption) | (with_reducible exact fun _ => rfl) | (with_reducible rfl) | intro _ | (with_reducible apply forEach_inv) | (with_reducible apply finishCmd_inv) | (with_reducible apply addAct_inv) | (with_reducible apply warmHalves_inv) | (with_reducible apply dropBind_inv) | (with_reducible apply ite_inv))

theorem doStageBind_inv (id : Nat) (s : State) (h : Inv s) : Inv (doStageBind id s) := by
  unfold doStageBind
  try dsimp only
  repeat' (first | (with_reducible assumption) | (with_reducible exact fun _ => rfl) | (with_reducible rfl) | intro _ | (with_reducible apply finishCmd_inv) | (with_reducible apply homeReadBytes_inv) | (with_reducible apply withCmd_inv) | (with_reducible apply emptyCmd_inv) | (with_reducible apply bindChecked_inv) | (with_reducible apply ite_inv) | (with_reducible apply ite_inv_snd) | (with_reducible apply ite_inv_thd) | split)

theorem doStageUnbind_inv (id : Nat) (s : State) (h : Inv s) : Inv (doStageUnbind id s) := by
  unfold doStageUnbind
  try dsimp only
  repeat' (first | (with_reducible assumption) | (with_reducible exact fun _ => rfl) | (with_reducible rfl) | intro _ | (with_reducible apply finishCmd_inv) | (with_reducible apply withCmd_inv) | (with_reducible apply addAct_inv) | (with_reducible apply ite_inv) | (with_reducible apply ite_inv_snd) | (with_reducible apply ite_inv_thd) | split)

theorem doItineraryEvict_inv (id : Nat) (s : State) (h : Inv s) : Inv (doItineraryEvict id s) := by
  unfold doItineraryEvict
  try dsimp only
  repeat' (first | (with_reducible assumption) | (with_reducible exact fun _ => rfl) | (with_reducible rfl) | intro _ | (with_reducible apply modItin_inv) | (with_reducible apply finishCmd_inv) | (with_reducible apply evict_inv) | (with_reducible apply withCmd_inv) | (with_reducible apply addAct_inv) | (with_reducible apply ite_inv) | (with_reducible apply ite_inv_snd) | (with_reducible apply ite_inv_thd) | split)

theorem doItineraryQuery_inv (id : Nat) (s : State) (h : Inv s) : Inv (doItineraryQuery id s) := by
  unfold doItineraryQuery
  try dsimp only
  repeat' (first | (with_reducible assumption) | (with_reducible exact fun _ => rfl) | (with_reducible rfl) | intro _ | (with_reducible apply finishCmd_inv) | (with_reducible apply withCmd_inv) | (with_reducible apply ite_inv) | (with_reducible apply ite_inv_snd) | (with_reducible apply ite_inv_thd) | split)

theorem doJobPrepare_inv (id : Nat) (s : State) (h : Inv s) : Inv (doJobPrepare id s) := by
  unfold doJobPrepare
  try dsimp only
  repeat' (first | (with_reducible assumption) | (with_reducible exact fun _ => rfl) | (with_reducible rfl) | intro _ | (with_reducible apply finishCmd_inv) | (with_reducible apply waitCmd_inv) | (with_reducible apply offer_inv) | (with_reducible apply createJob_inv) | (with_reducible apply startPrep_inv) | (with_reducible apply withCmd_inv) | (with_reducible apply emptyCmd_inv) | (with_reducible apply ite_inv) | (with_reducible apply ite_inv_snd) | (with_reducible apply ite_inv_thd) | split)

theorem abandonJob_inv (k : Nat) (i : Itin) (j : Job) (s : State) (h : Inv s) : Inv (abandonJob k i j s) := by
  unfold abandonJob
  try dsimp only
  repeat' (first | (with_reducible assumption) | (with_reducible exact fun _ => rfl) | (with_reducible rfl) | intro _ | (with_reducible apply modItin_inv) | (with_reducible apply sendAll_inv) | (with_reducible apply endJobCmds_inv) | (with_reducible apply ite_inv))

theorem doJobConfirm_inv (id : Nat) (s : State) (h : Inv s) : Inv (doJobConfirm id s) := by
  unfold doJobConfirm
  try dsimp only
  repeat' (first | (with_reducible assumption) | (with_reducible exact fun _ => rfl) | (with_reducible rfl) | intro _ | (with_reducible apply modItin_inv) | (with_reducible apply finishCmd_inv) | (with_reducible apply waitCmd_inv) | (with_reducible apply forwardConfirm_inv) | (with_reducible apply withCmd_inv) | (with_reducible apply abandonJob_inv) | (with_reducible apply ite_inv) | (with_reducible apply ite_inv_snd) | (with_reducible apply ite_inv_thd) | split)

theorem doJobStop_inv (id : Nat) (s : State) (h : Inv s) : Inv (doJobStop id s) := by
  unfold doJobStop
  try dsimp only
  repeat' (first | (with_reducible assumption) | (with_reducible exact fun _ => rfl) | (with_reducible rfl) | intro _ | (with_reducible apply finishCmd_inv) | (with_reducible apply waitCmd_inv) | (with_reducible apply sendAll_inv) | (with_reducible apply setStop_inv) | (with_reducible apply withCmd_inv) | (with_reducible apply ite_inv) | (with_reducible apply ite_inv_snd) | (with_reducible apply ite_inv_thd) | split)

theorem doJobAwait_inv (id : Nat) (s : State) (h : Inv s) : Inv (doJobAwait id s) := by
  unfold doJobAwait
  try dsimp only
  repeat' (first | (with_reducible assumption) | (with_reducible exact fun _ => rfl) | (with_reducible rfl) | intro _ | (with_reducible apply finishCmd_inv) | (with_reducible apply waitCmd_inv) | (with_reducible apply withCmd_inv) | (with_reducible apply ite_inv) | (with_reducible apply ite_inv_snd) | (with_reducible apply ite_inv_thd) | split)

theorem doJobStatus_inv (id : Nat) (s : State) (h : Inv s) : Inv (doJobStatus id s) := by
  unfold doJobStatus
  try dsimp only
  repeat' (first | (with_reducible assumption) | (with_reducible exact fun _ => rfl) | (with_reducible rfl) | intro _ | (with_reducible apply finishCmd_inv) | (with_reducible apply withCmd_inv) | (with_reducible apply ite_inv) | (with_reducible apply ite_inv_snd) | (with_reducible apply ite_inv_thd) | split)

end Sys2Proof.Machine
end

