-- ==== Sys2Proof/Laws/InvRegionCmds.lean ====
section
/-! SUPPORT. The functions of Machine/RegionCmds.lean keep the invariant. -/

namespace Sys2Proof.Machine

theorem doRegionMap_inv (id : Nat) (s : State) (h : Inv s) : Inv (doRegionMap id s) := by
  unfold doRegionMap
  try dsimp only
  repeat' (first | (with_reducible assumption) | (with_reducible exact fun _ => rfl) | (with_reducible rfl) | intro _ | (with_reducible apply finishCmd_inv) | (with_reducible apply withCmd_inv) | (with_reducible apply emptyCmd_inv) | (with_reducible apply addAct_inv) | (with_reducible apply ite_inv) | (with_reducible apply ite_inv_snd) | (with_reducible apply ite_inv_thd) | split)

theorem doRegionUnmap_inv (id : Nat) (s : State) (h : Inv s) : Inv (doRegionUnmap id s) := by
  unfold doRegionUnmap
  try dsimp only
  repeat' (first | (with_reducible assumption) | (with_reducible exact fun _ => rfl) | (with_reducible rfl) | intro _ | (with_reducible apply finishCmd_inv) | (with_reducible apply withCmd_inv) | (with_reducible apply addAct_inv) | (with_reducible apply ite_inv) | (with_reducible apply ite_inv_snd) | (with_reducible apply ite_inv_thd) | split)

theorem doRegionSeal_inv (id : Nat) (s : State) (h : Inv s) : Inv (doRegionSeal id s) := by
  unfold doRegionSeal
  try dsimp only
  repeat' (first | (with_reducible assumption) | (with_reducible exact fun _ => rfl) | (with_reducible rfl) | intro _ | (with_reducible apply finishCmd_inv) | (with_reducible apply withCmd_inv) | (with_reducible apply addAct_inv) | (with_reducible apply ite_inv) | (with_reducible apply ite_inv_snd) | (with_reducible apply ite_inv_thd) | split)

theorem doRegionMirror_inv (id : Nat) (s : State) (h : Inv s) : Inv (doRegionMirror id s) := by
  unfold doRegionMirror
  try dsimp only
  repeat' (first | (with_reducible assumption) | (with_reducible exact fun _ => rfl) | (with_reducible rfl) | intro _ | (with_reducible apply finishCmd_inv) | (with_reducible apply withCmd_inv) | (with_reducible apply addAct_inv) | (with_reducible apply ite_inv) | (with_reducible apply ite_inv_snd) | (with_reducible apply ite_inv_thd) | split)

theorem pinChecks_inv (id : Nat) (c : Cmd) (s : State) (go : State) (hgo : Inv go) (h : Inv s) : Inv (pinChecks id c s go) := by
  unfold pinChecks
  try dsimp only
  repeat' (first | (with_reducible assumption) | (with_reducible exact fun _ => rfl) | (with_reducible rfl) | intro _ | (with_reducible apply finishCmd_inv) | (with_reducible apply emptyCmd_inv) | (with_reducible apply ite_inv))

theorem doRegionPin_inv (id : Nat) (s : State) (h : Inv s) : Inv (doRegionPin id s) := by
  unfold doRegionPin
  try dsimp only
  repeat' (first | (with_reducible assumption) | (with_reducible exact fun _ => rfl) | (with_reducible rfl) | intro _ | (with_reducible apply withCmd_inv) | (with_reducible apply addAct_inv) | (with_reducible apply pinChecks_inv))

theorem doRegionUnpin_inv (id : Nat) (s : State) (h : Inv s) : Inv (doRegionUnpin id s) := by
  unfold doRegionUnpin
  try dsimp only
  repeat' (first | (with_reducible assumption) | (with_reducible exact fun _ => rfl) | (with_reducible rfl) | intro _ | (with_reducible apply withCmd_inv) | (with_reducible apply addAct_inv) | (with_reducible apply pinChecks_inv))

theorem doRegionQuery_inv (id : Nat) (s : State) (h : Inv s) : Inv (doRegionQuery id s) := by
  unfold doRegionQuery
  try dsimp only
  repeat' (first | (with_reducible assumption) | (with_reducible exact fun _ => rfl) | (with_reducible rfl) | intro _ | (with_reducible apply finishCmd_inv) | (with_reducible apply withCmd_inv) | (with_reducible apply ite_inv))

end Sys2Proof.Machine
end

