-- ==== Sys2Proof/Laws/InvPorterCmds.lean ====
section
/-! SUPPORT. The functions of Machine/PorterCmds.lean keep the invariant. -/

namespace Sys2Proof.Machine

theorem placePiece_inv (id : Nat) (c : Cmd) (whole : Desc) (s : State) (h : Inv s) : Inv (placePiece id c whole s) := by
  unfold placePiece
  try dsimp only
  repeat' (first | (with_reducible assumption) | (with_reducible exact fun _ => rfl) | (with_reducible rfl) | intro _ | (with_reducible apply modPorter_inv) | (with_reducible apply modCmd_inv) | (with_reducible apply enqueue_inv) | (with_reducible apply ite_inv) | (with_reducible apply ite_inv_snd) | (with_reducible apply ite_inv_thd) | split)

theorem emptyPiece_inv (id : Nat) (s : State) (h : Inv s) : Inv (emptyPiece id s) := by
  unfold emptyPiece
  try dsimp only
  repeat' (first | (with_reducible assumption) | (with_reducible exact fun _ => rfl) | (with_reducible rfl) | intro _ | (with_reducible apply modPorter_inv) | (with_reducible apply emptyCmd_inv) | (with_reducible apply ite_inv) | (with_reducible apply ite_inv_snd) | (with_reducible apply ite_inv_thd) | split)

theorem porterCmd_inv (id : Nat) (c : Cmd) (masks : List Nat) (d : Desc) (s : State) (h : Inv s) : Inv (porterCmd id c masks d s) := by
  unfold porterCmd
  try dsimp only
  repeat' (first | (with_reducible assumption) | (with_reducible exact fun _ => rfl) | (with_reducible rfl) | intro _ | (with_reducible apply finishCmd_inv) | (with_reducible apply placePiece_inv) | (with_reducible apply emptyPiece_inv) | (with_reducible apply ite_inv) | (with_reducible apply ite_inv_snd) | (with_reducible apply ite_inv_thd) | split)

theorem doPorterCopy_inv (id : Nat) (s : State) (h : Inv s) : Inv (doPorterCopy id s) := by
  unfold doPorterCopy
  try dsimp only
  repeat' (first | (with_reducible assumption) | (with_reducible exact fun _ => rfl) | (with_reducible rfl) | intro _ | (with_reducible apply withCmd_inv) | (with_reducible apply porterCmd_inv))

theorem doPorterFill_inv (id : Nat) (s : State) (h : Inv s) : Inv (doPorterFill id s) := by
  unfold doPorterFill
  try dsimp only
  repeat' (first | (with_reducible assumption) | (with_reducible exact fun _ => rfl) | (with_reducible rfl) | intro _ | (with_reducible apply withCmd_inv) | (with_reducible apply porterCmd_inv))

theorem doPorterPush_inv (id : Nat) (s : State) (h : Inv s) : Inv (doPorterPush id s) := by
  unfold doPorterPush
  try dsimp only
  repeat' (first | (with_reducible assumption) | (with_reducible exact fun _ => rfl) | (with_reducible rfl) | intro _ | (with_reducible apply withCmd_inv) | (with_reducible apply porterCmd_inv))

theorem doPorterPull_inv (id : Nat) (s : State) (h : Inv s) : Inv (doPorterPull id s) := by
  unfold doPorterPull
  try dsimp only
  repeat' (first | (with_reducible assumption) | (with_reducible exact fun _ => rfl) | (with_reducible rfl) | intro _ | (with_reducible apply withCmd_inv) | (with_reducible apply porterCmd_inv))

theorem startTransport_inv (g : Nat) (roce : Bool) (e : Endpoint) (s : State) (h : Inv s) : Inv (startTransport g roce e s) := by
  unfold startTransport
  try dsimp only
  repeat' (first | (with_reducible assumption) | (with_reducible exact fun _ => rfl) | (with_reducible rfl) | intro _ | (with_reducible apply modGuest_inv) | (with_reducible apply openConn_inv) | (with_reducible apply guestConnected_inv) | (with_reducible apply ite_inv))

theorem doGuestOpen_inv (id : Nat) (s : State) (h : Inv s) : Inv (doGuestOpen id s) := by
  unfold doGuestOpen
  try dsimp only
  repeat' (first | (with_reducible assumption) | (with_reducible exact fun _ => rfl) | (with_reducible rfl) | intro _ | (with_reducible apply finishCmd_inv) | (with_reducible apply waitCmd_inv) | (with_reducible apply modGuest_inv) | (with_reducible apply homeReadBytes_inv) | (with_reducible apply endTransport_inv) | (with_reducible apply openPh_inv) | (with_reducible apply withCmd_inv) | (with_reducible apply startTransport_inv) | (with_reducible apply ite_inv) | (with_reducible apply ite_inv_snd) | (with_reducible apply ite_inv_thd) | split)

theorem doGuestClose_inv (id : Nat) (s : State) (h : Inv s) : Inv (doGuestClose id s) := by
  unfold doGuestClose
  try dsimp only
  repeat' (first | (with_reducible assumption) | (with_reducible exact fun _ => rfl) | (with_reducible rfl) | intro _ | (with_reducible apply finishCmd_inv) | (with_reducible apply waitCmd_inv) | (with_reducible apply modGuest_inv) | (with_reducible apply modPh_inv) | (with_reducible apply settleDrain_inv) | (with_reducible apply withCmd_inv) | (with_reducible apply ite_inv) | (with_reducible apply ite_inv_snd) | (with_reducible apply ite_inv_thd) | split)

theorem doGuestWindow_inv (id : Nat) (s : State) (h : Inv s) : Inv (doGuestWindow id s) := by
  unfold doGuestWindow
  try dsimp only
  repeat' (first | (with_reducible assumption) | (with_reducible exact fun _ => rfl) | (with_reducible rfl) | intro _ | (with_reducible apply modInnk_inv) | (with_reducible apply finishCmd_inv) | (with_reducible apply withCmd_inv) | (with_reducible apply emptyCmd_inv) | (with_reducible apply addAct_inv) | (with_reducible apply ite_inv))

end Sys2Proof.Machine
end

