-- ==== Sys2Proof/Laws/InvRecordCmds.lean ====
section
/-! SUPPORT. The functions of Machine/RecordCmds.lean keep the invariant. -/

namespace Sys2Proof.Machine

theorem modPwr_inv (f : Power → Power) (s : State) (h : Inv s) : Inv (modPwr f s) := by
  unfold modPwr
  try dsimp only
  repeat' (first | (with_reducible assumption) | (with_reducible exact fun _ => rfl) | (with_reducible rfl) | intro _ | (with_reducible apply ite_inv) | (with_reducible apply ite_inv_snd) | (with_reducible apply ite_inv_thd) | split | (with_reducible refine Inv.ofSnd (by assumption) ?_) | (with_reducible refine Inv.ofThd (by assumption) ?_) | (fail_if_no_progress refine inv_mk rfl rfl rfl rfl rfl rfl ?_))

theorem doPowerCap_inv (id : Nat) (s : State) (h : Inv s) : Inv (doPowerCap id s) := by
  unfold doPowerCap
  try dsimp only
  repeat' (first | (with_reducible assumption) | (with_reducible exact fun _ => rfl) | (with_reducible rfl) | intro _ | (with_reducible apply finishCmd_inv) | (with_reducible apply withCmd_inv) | (with_reducible apply modPwr_inv) | (with_reducible apply ite_inv))

theorem doCoolantTarget_inv (id : Nat) (s : State) (h : Inv s) : Inv (doCoolantTarget id s) := by
  unfold doCoolantTarget
  try dsimp only
  repeat' (first | (with_reducible assumption) | (with_reducible exact fun _ => rfl) | (with_reducible rfl) | intro _ | (with_reducible apply finishCmd_inv) | (with_reducible apply withCmd_inv) | (with_reducible apply modPwr_inv) | (with_reducible apply ite_inv))

theorem doEnergyRead_inv (id : Nat) (s : State) (h : Inv s) : Inv (doEnergyRead id s) := by
  unfold doEnergyRead
  try dsimp only
  repeat' (first | (with_reducible assumption) | (with_reducible exact fun _ => rfl) | (with_reducible rfl) | intro _ | (with_reducible apply finishCmd_inv) | (with_reducible apply withCmd_inv) | (with_reducible apply ite_inv) | (with_reducible apply ite_inv_snd) | (with_reducible apply ite_inv_thd) | split)

theorem readRecords_inv (id : Nat) (c : Cmd) (buf size count lost : Nat) (recs : List (List Byte)) (s : State) (h : Inv s) : Inv (readRecords id c buf size count lost recs s) := by
  unfold readRecords
  try dsimp only
  repeat' (first | (with_reducible assumption) | (with_reducible exact fun _ => rfl) | (with_reducible rfl) | intro _ | (with_reducible apply finishCmd_inv) | (with_reducible apply writeOut_inv) | (with_reducible apply ite_inv) | (with_reducible apply ite_inv_snd) | (with_reducible apply ite_inv_thd) | split)

theorem doLedgerRead_inv (id : Nat) (s : State) (h : Inv s) : Inv (doLedgerRead id s) := by
  unfold doLedgerRead
  try dsimp only
  repeat' (first | (with_reducible assumption) | (with_reducible exact fun _ => rfl) | (with_reducible rfl) | intro _ | (with_reducible apply finishCmd_inv) | (with_reducible apply withCmd_inv) | (with_reducible apply emptyCmd_inv) | (with_reducible apply readRecords_inv) | (with_reducible apply ite_inv))

theorem doFaultRead_inv (id : Nat) (s : State) (h : Inv s) : Inv (doFaultRead id s) := by
  unfold doFaultRead
  try dsimp only
  repeat' (first | (with_reducible assumption) | (with_reducible exact fun _ => rfl) | (with_reducible rfl) | intro _ | (with_reducible apply finishCmd_inv) | (with_reducible apply withCmd_inv) | (with_reducible apply emptyCmd_inv) | (with_reducible apply readRecords_inv) | (with_reducible apply ite_inv))

end Sys2Proof.Machine
end

