-- ==== Sys2Proof/Laws/InvFwCmds.lean ====
section
/-! SUPPORT. The functions of Machine/FwCmds.lean keep the invariant. -/

namespace Sys2Proof.Machine

theorem modComp_inv (n : Nat) (f : Component → Component) (s : State) (h : Inv s) : Inv (modComp n f s) := by
  unfold modComp
  try dsimp only
  repeat' (first | (with_reducible assumption) | (with_reducible exact fun _ => rfl) | (with_reducible rfl) | intro _ | (with_reducible apply modSec_inv))

theorem stageImage_inv (n : Nat) (bs : List Byte) (s : State) (h : Inv s) : Inv (stageImage n bs s).2 := by
  unfold stageImage
  try dsimp only
  repeat' (first | (with_reducible assumption) | (with_reducible exact fun _ => rfl) | (with_reducible rfl) | intro _ | (with_reducible apply refuseFw_inv) | (with_reducible apply modComp_inv) | (with_reducible apply ite_inv) | (with_reducible apply ite_inv_snd))

theorem commitImage_inv (n : Nat) (s : State) (h : Inv s) : Inv (commitImage n s).2 := by
  unfold commitImage
  try dsimp only
  repeat' (first | (with_reducible assumption) | (with_reducible exact fun _ => rfl) | (with_reducible rfl) | intro _ | (with_reducible apply modComp_inv))

theorem doFwStage_inv (id : Nat) (s : State) (h : Inv s) : Inv (doFwStage id s) := by
  unfold doFwStage
  try dsimp only
  repeat' (first | (with_reducible assumption) | (with_reducible exact fun _ => rfl) | (with_reducible rfl) | intro _ | (with_reducible apply finishCmd_inv) | (with_reducible apply homeReadBytes_inv) | (with_reducible apply withCmd_inv) | (with_reducible apply emptyCmd_inv) | (with_reducible apply stageImage_inv) | (with_reducible apply ite_inv) | (with_reducible apply ite_inv_snd) | (with_reducible apply ite_inv_thd) | split)

theorem doFwCommit_inv (id : Nat) (s : State) (h : Inv s) : Inv (doFwCommit id s) := by
  unfold doFwCommit
  try dsimp only
  repeat' (first | (with_reducible assumption) | (with_reducible exact fun _ => rfl) | (with_reducible rfl) | intro _ | (with_reducible apply finishCmd_inv) | (with_reducible apply withCmd_inv) | (with_reducible apply commitImage_inv) | (with_reducible apply ite_inv))

theorem doFwStatus_inv (id : Nat) (s : State) (h : Inv s) : Inv (doFwStatus id s) := by
  unfold doFwStatus
  try dsimp only
  repeat' (first | (with_reducible assumption) | (with_reducible exact fun _ => rfl) | (with_reducible rfl) | intro _ | (with_reducible apply finishCmd_inv) | (with_reducible apply withCmd_inv) | (with_reducible apply ite_inv))

theorem doAttestQuote_inv (id : Nat) (s : State) (h : Inv s) : Inv (doAttestQuote id s) := by
  unfold doAttestQuote
  try dsimp only
  repeat' (first | (with_reducible assumption) | (with_reducible exact fun _ => rfl) | (with_reducible rfl) | intro _ | (with_reducible apply draw_inv) | (with_reducible apply finishCmd_inv) | (with_reducible apply homeReadBytes_inv) | (with_reducible apply withCmd_inv) | (with_reducible apply emptyCmd_inv) | (with_reducible apply writeOut_inv) | (with_reducible apply ite_inv) | (with_reducible apply ite_inv_snd) | (with_reducible apply ite_inv_thd) | split)

end Sys2Proof.Machine
end

