-- ==== Sys2Proof/Laws/InvBellActs.lean ====
section
/-! SUPPORT. The functions of Machine/BellActs.lean keep the invariant. -/

namespace Sys2Proof.Machine

theorem endBindings_inv (k : Nat) (place : List Nat) (s : State) (h : Inv s) : Inv (endBindings k place s) := by
  unfold endBindings
  try dsimp only
  repeat' (first | (with_reducible assumption) | (with_reducible exact fun _ => rfl) | (with_reducible rfl) | intro _ | (with_reducible apply ite_inv) | (with_reducible apply ite_inv_snd) | (with_reducible apply ite_inv_thd) | split | (with_reducible refine Inv.ofSnd (by assumption) ?_) | (with_reducible refine Inv.ofThd (by assumption) ?_) | (fail_if_no_progress refine inv_mk rfl rfl rfl rfl rfl rfl ?_))

theorem bindTo_inv (k : Nat) (place : List Nat) (s : State) (h : Inv s) : Inv (bindTo k place s) := by
  unfold bindTo
  try dsimp only
  repeat' (first | (with_reducible assumption) | (with_reducible exact fun _ => rfl) | (with_reducible rfl) | intro _ | (with_reducible apply modItin_inv) | (with_reducible apply endBindings_inv))

theorem invalidateL1_inv (want : Nat → Bool) (s : State) (h : Inv s) : Inv (invalidateL1 want s) := by
  unfold invalidateL1
  try dsimp only
  repeat' (first | (with_reducible assumption) | (with_reducible exact fun _ => rfl) | (with_reducible rfl) | intro _ | (with_reducible apply ite_inv) | (with_reducible apply ite_inv_snd) | (with_reducible apply ite_inv_thd) | split | (with_reducible refine Inv.ofSnd (by assumption) ?_) | (with_reducible refine Inv.ofThd (by assumption) ?_) | (fail_if_no_progress refine inv_mk rfl rfl rfl rfl rfl rfl ?_))

theorem downgradeRegion_inv (rg : Region) (s : State) (h : Inv s) : Inv (downgradeRegion rg s) := by
  unfold downgradeRegion
  try dsimp only
  repeat' (first | (with_reducible assumption) | (with_reducible exact fun _ => rfl) | (with_reducible rfl) | intro _ | (with_reducible apply forEach_inv) | (with_reducible apply countSnoops_inv) | (with_reducible apply cleanLine_inv) | (with_reducible apply pxWriteBack_inv))

theorem retirePending_inv (rg : Region) (s : State) (h : Inv s) : Inv (retirePending rg s) := by
  unfold retirePending
  try dsimp only
  repeat' (first | (with_reducible assumption) | (with_reducible exact fun _ => rfl) | (with_reducible rfl) | intro _ | (with_reducible apply ite_inv) | (with_reducible apply ite_inv_snd) | (with_reducible apply ite_inv_thd) | split | (with_reducible refine Inv.ofSnd (by assumption) ?_) | (with_reducible refine Inv.ofThd (by assumption) ?_) | (fail_if_no_progress refine inv_mk rfl rfl rfl rfl rfl rfl ?_))

theorem unmapRegion_inv (rg : Region) (s : State) (h : Inv s) : Inv (unmapRegion rg s) := by
  unfold unmapRegion
  try dsimp only
  repeat' (first | (with_reducible assumption) | (with_reducible exact fun _ => rfl) | (with_reducible rfl) | intro _ | (with_reducible apply finishCmd_inv) | (with_reducible apply discardRegionLines_inv) | (with_reducible apply invalidateL1_inv) | (with_reducible apply retirePending_inv) | (with_reducible apply ite_inv) | (with_reducible apply ite_inv_snd) | (with_reducible apply ite_inv_thd) | split | (with_reducible refine Inv.ofSnd (by assumption) ?_) | (with_reducible refine Inv.ofThd (by assumption) ?_) | (fail_if_no_progress refine inv_mk rfl rfl rfl rfl rfl rfl ?_))

theorem onRegion_inv (base cmd : Nat) (s : State) (f : Region → State) (kf : ∀ (y0 : Region), Inv (f y0)) (h : Inv s) : Inv (onRegion base cmd s f) := by
  unfold onRegion
  try dsimp only
  repeat' (first | (with_reducible assumption) | (with_reducible exact fun _ => rfl) | (with_reducible rfl) | intro _ | (with_reducible apply finishCmd_inv) | (with_reducible apply kf) | (with_reducible apply ite_inv) | (with_reducible apply ite_inv_snd) | (with_reducible apply ite_inv_thd) | split)

theorem closePeers_inv (s : State) (h : Inv s) : Inv (closePeers s) := by
  unfold closePeers
  try dsimp only
  repeat' (first | (with_reducible assumption) | (with_reducible exact fun _ => rfl) | (with_reducible rfl) | intro _ | (with_reducible apply modNet_inv))

theorem evictItin_inv (k cmd : Nat) (s : State) (h : Inv s) : Inv (evictItin k cmd s) := by
  unfold evictItin
  try dsimp only
  repeat' (first | (with_reducible assumption) | (with_reducible exact fun _ => rfl) | (with_reducible rfl) | intro _ | (with_reducible apply modInnk_inv) | (with_reducible apply forEach_inv) | (with_reducible apply setItin_inv) | (with_reducible apply finishCmd_inv) | (with_reducible apply forgetJob_inv) | (with_reducible apply closePeers_inv))

theorem pinRange_inv (addr len cmd : Nat) (on : Bool) (s : State) (h : Inv s) : Inv (pinRange addr len cmd on s) := by
  unfold pinRange
  try dsimp only
  repeat' (first | (with_reducible assumption) | (with_reducible exact fun _ => rfl) | (with_reducible rfl) | intro _ | (with_reducible apply forEach_inv) | (with_reducible apply finishCmd_inv) | (with_reducible apply pinLine_inv) | (with_reducible apply unpinLine_inv) | (with_reducible apply ite_inv) | (with_reducible apply ite_inv_snd) | (with_reducible apply ite_inv_thd) | split)

theorem setWindow_inv (g base len pkey cmd : Nat) (s : State) (h : Inv s) : Inv (setWindow g base len pkey cmd s) := by
  unfold setWindow
  try dsimp only
  repeat' (first | (with_reducible assumption) | (with_reducible exact fun _ => rfl) | (with_reducible rfl) | intro _ | (with_reducible apply finishCmd_inv) | (with_reducible apply modGuest_inv) | (with_reducible apply extendMr_inv))

theorem doAct_inv (n : Nat) (a : BellAct) (s : State) (h : Inv s) : Inv (doAct n a s) := by
  unfold doAct
  try dsimp only
  repeat' (first | (with_reducible assumption) | (with_reducible exact fun _ => rfl) | (with_reducible rfl) | intro _ | (with_reducible apply modInnk_inv) | (with_reducible apply modItin_inv) | (with_reducible apply modRegion_inv) | (with_reducible apply finishCmd_inv) | (with_reducible apply evict_inv) | (with_reducible apply flushRegion_inv) | (with_reducible apply bindTo_inv) | (with_reducible apply invalidateL1_inv) | (with_reducible apply downgradeRegion_inv) | (with_reducible apply unmapRegion_inv) | (with_reducible apply onRegion_inv) | (with_reducible apply evictItin_inv) | (with_reducible apply pinRange_inv) | (with_reducible apply setWindow_inv) | (with_reducible apply ite_inv) | (with_reducible apply ite_inv_snd) | (with_reducible apply ite_inv_thd) | split | (with_reducible refine Inv.ofSnd (by assumption) ?_) | (with_reducible refine Inv.ofThd (by assumption) ?_) | (fail_if_no_progress refine inv_mk rfl rfl rfl rfl rfl rfl ?_))

theorem doActs_inv (n t : Nat) (s : State) (h : Inv s) : Inv (doActs n t s) := by
  unfold doActs
  try dsimp only
  repeat' (first | (with_reducible assumption) | (with_reducible exact fun _ => rfl) | (with_reducible rfl) | intro _ | (with_reducible apply modInnk_inv) | (with_reducible apply forEach_inv) | (with_reducible apply doAct_inv))

theorem install_inv (k c : Nat) (s : State) (h : Inv s) : Inv (install k c s) := by
  unfold install
  try dsimp only
  repeat' (first | (with_reducible assumption) | (with_reducible exact fun _ => rfl) | (with_reducible rfl) | intro _ | (with_reducible apply modItin_inv) | (with_reducible apply bindTo_inv) | (with_reducible apply ite_inv) | (with_reducible apply ite_inv_snd) | (with_reducible apply ite_inv_thd) | split)

theorem takeOut_inv (s : State) (h : Inv s) : Inv (takeOut s) := by
  unfold takeOut
  try dsimp only
  repeat' (first | (with_reducible assumption) | (with_reducible exact fun _ => rfl) | (with_reducible rfl) | intro _ | (with_reducible apply modLdg_inv) | (with_reducible apply modCluster_inv) | (with_reducible apply forEach_inv) | (with_reducible apply modItin_inv))

theorem finishOffline_inv (s : State) (h : Inv s) : Inv (finishOffline s) := by
  unfold finishOffline
  try dsimp only
  repeat' (first | (with_reducible assumption) | (with_reducible exact fun _ => rfl) | (with_reducible rfl) | intro _ | (with_reducible apply modInnk_inv) | (with_reducible apply forEach_inv) | (with_reducible apply finishCmd_inv) | (with_reducible apply ite_inv) | (with_reducible apply ite_inv_snd) | (with_reducible apply ite_inv_thd) | split)

theorem reselect_inv (now : Nat) (s : State) (h : Inv s) : Inv (reselect now s) := by
  unfold reselect
  try dsimp only
  repeat' (first | (with_reducible assumption) | (with_reducible exact fun _ => rfl) | (with_reducible rfl) | intro _ | (with_reducible apply modLdg_inv) | (with_reducible apply forEach_inv) | (with_reducible apply modItin_inv) | (with_reducible apply stopJob_inv) | (with_reducible apply selectForRestart_inv) | (with_reducible apply warmHalves_inv) | (with_reducible apply install_inv) | (with_reducible apply ite_inv) | (with_reducible apply ite_inv_snd) | (with_reducible apply ite_inv_thd) | split)

theorem switchL1_inv (before : State) (s : State) (hbefore : Inv before) (h : Inv s) : Inv (switchL1 before s) := by
  unfold switchL1
  try dsimp only
  repeat' (first | (with_reducible assumption) | (with_reducible exact fun _ => rfl) | (with_reducible rfl) | intro _ | (with_reducible apply invalidateL1_inv))

end Sys2Proof.Machine
end

