-- ==== Sys2Proof/Laws/InvBellLegs.lean ====
section
/-! SUPPORT. The functions of Machine/BellLegs.lean keep the invariant. -/

namespace Sys2Proof.Machine

theorem chargeLeg_inv (k : Nat) (l : Leg) (s : State) (h : Inv s) : Inv (chargeLeg k l s).2 := by
  unfold chargeLeg
  try dsimp only
  repeat' (first | (with_reducible assumption) | (with_reducible exact fun _ => rfl) | (with_reducible rfl) | intro _ | (with_reducible apply draw_inv) | (with_reducible apply modItin_inv))

theorem finishAwaits_inv (job : Word) (jsn n : Nat) (st : BitVec 16) (e : Word) (s : State) (h : Inv s) : Inv (finishAwaits job jsn n st e s) := by
  unfold finishAwaits
  try dsimp only
  repeat' (first | (with_reducible assumption) | (with_reducible exact fun _ => rfl) | (with_reducible rfl) | intro _ | (with_reducible apply forEach_inv) | (with_reducible apply modCmd_inv) | (with_reducible apply finishCmd_inv) | (with_reducible apply ite_inv) | (with_reducible apply ite_inv_snd) | (with_reducible apply ite_inv_thd) | split)

theorem commitLeg_inv (n k : Nat) (s : State) (h : Inv s) : Inv (commitLeg n k s).2 := by
  unfold commitLeg
  try dsimp only
  repeat' (first | (with_reducible assumption) | (with_reducible exact fun _ => rfl) | (with_reducible rfl) | intro _ | (with_reducible apply modNet_inv) | (with_reducible apply modCluster_inv) | (with_reducible apply forEach_inv) | (with_reducible apply modItin_inv) | (with_reducible apply chargeLeg_inv) | (with_reducible apply finishAwaits_inv) | (with_reducible apply ite_inv) | (with_reducible apply ite_inv_snd) | (with_reducible apply ite_inv_thd) | split)

theorem missLeg_inv (n k : Nat) (s : State) (h : Inv s) : Inv (missLeg n k s).2 := by
  unfold missLeg
  try dsimp only
  repeat' (first | (with_reducible assumption) | (with_reducible exact fun _ => rfl) | (with_reducible rfl) | intro _ | (with_reducible apply modStg_inv) | (with_reducible apply modItin_inv) | (with_reducible apply chargeLeg_inv) | (with_reducible apply ite_inv) | (with_reducible apply ite_inv_snd) | (with_reducible apply ite_inv_thd) | split)

theorem forLegs_inv {α : Type} (xs : List α) (f : α → State → List LegRec × State) (kf : ∀ x t, Inv t → Inv (f x t).2) (s : State) (h : Inv s) :
    Inv (forLegs xs f s).2 := by
  unfold forLegs
  exact foldl_inv_snd (f := fun p x => (p.1 ++ (f x p.2).1, (f x p.2).2)) (p := ([], s)) (fun p x hp => kf x _ hp) xs h

theorem discardRec_inv (n : Nat) (d : Discard) (s : State) (h : Inv s) : Inv (discardRec n d s).2 := by
  unfold discardRec
  try dsimp only
  repeat' (first | (with_reducible assumption) | (with_reducible exact fun _ => rfl) | (with_reducible rfl) | intro _ | (with_reducible apply chargeLeg_inv) | (with_reducible apply ite_inv) | (with_reducible apply ite_inv_snd) | (with_reducible apply ite_inv_thd) | split)

theorem stopRec_inv (n : Nat) (r : StopReq) (s : State) (h : Inv s) : Inv (stopRec n r s).2 := by
  unfold stopRec
  try dsimp only
  repeat' (first | (with_reducible assumption) | (with_reducible exact fun _ => rfl) | (with_reducible rfl) | intro _ | (with_reducible apply modItin_inv) | (with_reducible apply endJobCmds_inv) | (with_reducible apply chargeLeg_inv) | (with_reducible apply ite_inv) | (with_reducible apply ite_inv_snd) | (with_reducible apply ite_inv_thd) | split)

theorem settleStops_inv (n : Nat) (s : State) (h : Inv s) : Inv (settleStops n s).2 := by
  unfold settleStops
  try dsimp only
  repeat' (first | (with_reducible assumption) | (with_reducible exact fun _ => rfl) | (with_reducible rfl) | intro _ | (with_reducible apply modLdg_inv) | (with_reducible apply forLegs_inv) | (with_reducible apply stopRec_inv))

theorem stopAtBell_inv (n k : Nat) (s : State) (h : Inv s) : Inv (stopAtBell n k s).2 := by
  unfold stopAtBell
  try dsimp only
  repeat' (first | (with_reducible assumption) | (with_reducible exact fun _ => rfl) | (with_reducible rfl) | intro _ | (with_reducible apply modItin_inv) | (with_reducible apply stopLegWork_inv) | (with_reducible apply dropRecvs_inv) | (with_reducible apply stopRec_inv) | (with_reducible apply ite_inv) | (with_reducible apply ite_inv_snd) | (with_reducible apply ite_inv_thd) | split)

theorem announceStops_inv (n : Nat) (s : State) (h : Inv s) : Inv (announceStops n s) := by
  unfold announceStops
  try dsimp only
  repeat' (first | (with_reducible assumption) | (with_reducible exact fun _ => rfl) | (with_reducible rfl) | intro _ | (with_reducible apply forEach_inv) | (with_reducible apply sendAll_inv) | (with_reducible apply ite_inv) | (with_reducible apply ite_inv_snd) | (with_reducible apply ite_inv_thd) | split)

theorem abandonPreps_inv (n : Nat) (s : State) (h : Inv s) : Inv (abandonPreps n s) := by
  unfold abandonPreps
  try dsimp only
  repeat' (first | (with_reducible assumption) | (with_reducible exact fun _ => rfl) | (with_reducible rfl) | intro _ | (with_reducible apply forEach_inv) | (with_reducible apply sendAll_inv) | (with_reducible apply failPrep_inv) | (with_reducible apply ite_inv))

theorem startJobs_inv (n : Nat) (s : State) (h : Inv s) : Inv (startJobs n s) := by
  unfold startJobs
  try dsimp only
  repeat' (first | (with_reducible assumption) | (with_reducible exact fun _ => rfl) | (with_reducible rfl) | intro _ | (with_reducible apply forEach_inv) | (with_reducible apply modItin_inv) | (with_reducible apply finishCmd_inv) | (with_reducible apply ite_inv) | (with_reducible apply ite_inv_snd) | (with_reducible apply ite_inv_thd) | split)

theorem resume_inv (n k : Nat) (ck : Option Nat) (s : State) (h : Inv s) : Inv (resume n k ck s).2 := by
  unfold resume
  try dsimp only
  repeat' (first | (with_reducible assumption) | (with_reducible exact fun _ => rfl) | (with_reducible rfl) | intro _ | (with_reducible apply modItin_inv) | (with_reducible apply ite_inv) | (with_reducible apply ite_inv_snd) | (with_reducible apply ite_inv_thd) | split)

theorem heatHalves_inv (place : List Nat) (s : State) (h : Inv s) : Inv (heatHalves place s) := by
  unfold heatHalves
  try dsimp only
  repeat' (first | (with_reducible assumption) | (with_reducible exact fun _ => rfl) | (with_reducible rfl) | intro _ | (with_reducible apply forEach_inv) | (with_reducible apply ite_inv) | (with_reducible apply ite_inv_snd) | (with_reducible apply ite_inv_thd) | split | (with_reducible refine Inv.ofSnd (by assumption) ?_) | (with_reducible refine Inv.ofThd (by assumption) ?_) | (fail_if_no_progress refine inv_mk rfl rfl rfl rfl rfl rfl ?_))

theorem restartBell_inv (n t : Nat) (s : State) (h : Inv s) : Inv (restartBell n t s).2 := by
  unfold restartBell
  try dsimp only
  repeat' (first | (with_reducible assumption) | (with_reducible exact fun _ => rfl) | (with_reducible rfl) | intro _ | (with_reducible apply modLdg_inv) | (with_reducible apply forEach_inv) | (with_reducible apply install_inv) | (with_reducible apply forLegs_inv) | (with_reducible apply resume_inv) | (with_reducible apply heatHalves_inv) | (with_reducible apply ite_inv) | (with_reducible apply ite_inv_snd) | (with_reducible apply ite_inv_thd) | split)

theorem restartRolls_inv (n : Nat) (s : State) (h : Inv s) : Inv (restartRolls n s).2 := by
  unfold restartRolls
  try dsimp only
  repeat' (first | (with_reducible assumption) | (with_reducible exact fun _ => rfl) | (with_reducible rfl) | intro _ | (with_reducible apply modLdg_inv) | (with_reducible apply modNet_inv) | (with_reducible apply forLegs_inv) | (with_reducible apply resume_inv) | (with_reducible apply ite_inv) | (with_reducible apply ite_inv_snd) | (with_reducible apply ite_inv_thd) | split)

theorem readLeg_inv (base fuel off : Nat) (s : State) (h : Inv s) : Inv (readLeg base fuel off s).2 := by
  induction fuel generalizing off s with
  | zero => exact h
  | succ n ih =>
    unfold readLeg
    dsimp only
    have k := homeReadBytes_inv .innkeeper (base + off) 16 s h
    split
    · exact k
    · split
      · exact k
      · exact ih _ _ k

theorem holdLeg_inv (n k : Nat) (i : Itin) (j : Job) (s : State) (h : Inv s) : Inv (holdLeg n k i j s).2 := by
  unfold holdLeg
  try dsimp only
  repeat' (first | (with_reducible assumption) | (with_reducible exact fun _ => rfl) | (with_reducible rfl) | intro _ | (with_reducible apply modStg_inv))

theorem startLeg_inv (n t k : Nat) (s : State) (h : Inv s) : Inv (startLeg n t k s).2 := by
  unfold startLeg
  try dsimp only
  repeat' (first | (with_reducible assumption) | (with_reducible exact fun _ => rfl) | (with_reducible rfl) | intro _ | (with_reducible apply modLdg_inv) | (with_reducible apply modItin_inv) | (with_reducible apply readLeg_inv) | (with_reducible apply holdLeg_inv) | (with_reducible apply ite_inv) | (with_reducible apply ite_inv_snd) | (with_reducible apply ite_inv_thd) | split)

end Sys2Proof.Machine
end

