-- ==== Sys2Proof/Laws/InvBell.lean ====
section
/-! SUPPORT. The functions of Machine/Bell.lean keep the invariant. -/

namespace Sys2Proof.Machine

theorem enterConfig_inv (t : Nat) (s : State) (h : Inv s) : Inv (enterConfig t s) := by
  unfold enterConfig
  try dsimp only
  repeat' (first | (with_reducible assumption) | (with_reducible exact fun _ => rfl) | (with_reducible rfl) | intro _ | (with_reducible apply modStg_inv) | (with_reducible apply forEach_inv) | (with_reducible apply finishCmd_inv) | (with_reducible apply clampWindows_inv) | (with_reducible apply drainDown_inv) | (with_reducible apply ite_inv) | (with_reducible apply ite_inv_snd) | (with_reducible apply ite_inv_thd) | split | (with_reducible refine Inv.ofSnd (by assumption) ?_) | (with_reducible refine Inv.ofThd (by assumption) ?_) | (fail_if_no_progress refine inv_mk rfl rfl rfl rfl rfl rfl ?_))

theorem closeCluster_inv (id : Nat) (worked : Bool) (s : State) (h : Inv s) : Inv (closeCluster id worked s) := by
  unfold closeCluster
  try dsimp only
  repeat' (first | (with_reducible assumption) | (with_reducible exact fun _ => rfl) | (with_reducible rfl) | intro _ | (with_reducible apply draw_inv) | (with_reducible apply modCluster_inv) | (with_reducible apply modCore_inv) | (with_reducible apply forEach_inv) | (with_reducible apply ite_inv))

theorem closeClusters_inv (worked held : List Nat) (s : State) (h : Inv s) : Inv (closeClusters worked held s) := by
  unfold closeClusters
  try dsimp only
  repeat' (first | (with_reducible assumption) | (with_reducible exact fun _ => rfl) | (with_reducible rfl) | intro _ | (with_reducible apply forEach_inv) | (with_reducible apply closeCluster_inv) | (with_reducible apply ite_inv))

theorem closeHome_inv (n : Nat) (s : State) (h : Inv s) : Inv (closeHome n s) := by
  unfold closeHome
  try dsimp only
  repeat' (first | (with_reducible assumption) | (with_reducible exact fun _ => rfl) | (with_reducible rfl) | intro _ | (with_reducible apply modHome_inv) | (with_reducible apply draw_inv) | (with_reducible apply ite_inv))

theorem closePort_inv (n : Nat) (s : State) (h : Inv s) : Inv (closePort n s) := by
  unfold closePort
  try dsimp only
  repeat' (first | (with_reducible assumption) | (with_reducible exact fun _ => rfl) | (with_reducible rfl) | intro _ | (with_reducible apply draw_inv) | (with_reducible apply modPort_inv))

theorem closeStage_inv (s : State) (h : Inv s) : Inv (closeStage s) := by
  unfold closeStage
  try dsimp only
  repeat' (first | (with_reducible assumption) | (with_reducible exact fun _ => rfl) | (with_reducible rfl) | intro _ | (with_reducible apply forEach_inv) | (with_reducible apply closeHome_inv) | (with_reducible apply closePort_inv) | (with_reducible apply ite_inv) | (with_reducible apply ite_inv_snd) | (with_reducible apply ite_inv_thd) | split | (with_reducible refine Inv.ofSnd (by assumption) ?_) | (with_reducible refine Inv.ofThd (by assumption) ?_) | (fail_if_no_progress refine inv_mk rfl rfl rfl rfl rfl rfl ?_))

theorem chargeGuests_inv (s : State) (h : Inv s) : Inv (chargeGuests s) := by
  unfold chargeGuests
  try dsimp only
  repeat' (first | (with_reducible assumption) | (with_reducible exact fun _ => rfl) | (with_reducible rfl) | intro _ | (with_reducible apply draw_inv) | (with_reducible apply forEach_inv) | (with_reducible apply modGuest_inv))

theorem countIdle_inv (s : State) (h : Inv s) : Inv (countIdle s) := by
  unfold countIdle
  try dsimp only
  repeat' (first | (with_reducible assumption) | (with_reducible exact fun _ => rfl) | (with_reducible rfl) | intro _ | (with_reducible apply foldl_inv) | (with_reducible apply foldl_inv_snd) | (with_reducible apply ite_inv) | (with_reducible apply ite_inv_snd) | (with_reducible apply ite_inv_thd) | split | (with_reducible refine Inv.ofSnd (by assumption) ?_) | (with_reducible refine Inv.ofThd (by assumption) ?_) | (fail_if_no_progress refine inv_mk rfl rfl rfl rfl rfl rfl ?_))

theorem clearClusters_inv (s : State) (h : Inv s) : Inv (clearClusters s) := by
  unfold clearClusters
  try dsimp only
  repeat' (first | (with_reducible assumption) | (with_reducible exact fun _ => rfl) | (with_reducible rfl) | intro _ | (with_reducible apply ite_inv) | (with_reducible apply ite_inv_snd) | (with_reducible apply ite_inv_thd) | split | (with_reducible refine Inv.ofSnd (by assumption) ?_) | (with_reducible refine Inv.ofThd (by assumption) ?_) | (fail_if_no_progress refine inv_mk rfl rfl rfl rfl rfl rfl ?_))

theorem abandonFlush_inv (s : State) (h : Inv s) : Inv (abandonFlush s) := by
  unfold abandonFlush
  try dsimp only
  repeat' (first | (with_reducible assumption) | (with_reducible exact fun _ => rfl) | (with_reducible rfl) | intro _ | (with_reducible apply ite_inv) | (with_reducible apply ite_inv_snd) | (with_reducible apply ite_inv_thd) | split | (with_reducible refine Inv.ofSnd (by assumption) ?_) | (with_reducible refine Inv.ofThd (by assumption) ?_) | (fail_if_no_progress refine inv_mk rfl rfl rfl rfl rfl rfl ?_))

theorem startCkpt_inv (n : Nat) (s : State) (h : Inv s) : Inv (startCkpt n s) := by
  unfold startCkpt
  try dsimp only
  repeat' (first | (with_reducible assumption) | (with_reducible exact fun _ => rfl) | (with_reducible rfl) | intro _ | (with_reducible apply modLdg_inv) | (with_reducible apply abandonFlush_inv) | (with_reducible apply foldl_inv) | (with_reducible apply foldl_inv_snd) | (with_reducible apply ite_inv) | (with_reducible apply ite_inv_snd) | (with_reducible apply ite_inv_thd) | split | (with_reducible refine Inv.ofSnd (by assumption) ?_) | (with_reducible refine Inv.ofThd (by assumption) ?_) | (fail_if_no_progress refine inv_mk rfl rfl rfl rfl rfl rfl ?_))

theorem countDown_range (n k : Nat) (t : List Nat) (h : countDown n t = true) :
    countDown (n + k) ((((List.range k).map (fun x => n + x)).reverse) ++ t) = true := by
  induction k with
  | zero => simpa using h
  | succ k ih =>
    simp only [List.range_succ, List.map_append, List.map_cons, List.map_nil, List.reverse_append, List.reverse_cons, List.reverse_nil,
      List.nil_append, List.cons_append, ← Nat.add_assoc, countDown, decide_true, Bool.true_and]
    exact ih

theorem writeRecords_inv (n t : Nat) (ckpt restarted : Bool) (press : BitVec 8) (rs : List LegRec) (s : State) (h : Inv s) :
    Inv (writeRecords n t ckpt restarted press rs s) := by
  unfold writeRecords
  refine ⟨h.mem, h.chk, h.errLen, h.errSeq, ?_, ?_⟩
  · simp only [modLdg, List.length_take]; exact Nat.min_le_left _ _
  · simp only [modLdg, List.map_take]
    apply countDown_take
    generalize rs.mergeSort (fun x y => decide (x.itin ≤ y.itin)) = l
    have hz : ((((List.range l.length).zip l).map (fun p => LedgerRec.leg { p.2 with seq := s.ldg.next + 1 + p.1 })).map LedgerRec.seqOf) =
        (List.range l.length).map (fun x => s.ldg.next + 1 + x) := by
      rw [List.map_map]
      have e : (LedgerRec.seqOf ∘ fun p : Nat × LegRec => LedgerRec.leg { p.2 with seq := s.ldg.next + 1 + p.1 }) =
          (fun x => s.ldg.next + 1 + x) ∘ Prod.fst := rfl
      rw [e, ← List.map_map, List.map_fst_zip (by simp)]
    have hl : (((List.range l.length).zip l).map (fun p => LedgerRec.leg { p.2 with seq := s.ldg.next + 1 + p.1 })).length = l.length := by
      simp
    have g := countDown_range (s.ldg.next + 1) l.length (s.ldg.next :: s.ldg.records.map LedgerRec.seqOf)
      (by simpa [countDown] using h.recSeq)
    simp only [List.map_append, List.map_reverse, List.append_assoc, bellRecord, hz, hl, List.map_cons, List.map_nil, List.cons_append,
      List.nil_append, LedgerRec.seqOf]
    exact g

theorem refreshCaps_inv (s : State) (h : Inv s) : Inv (refreshCaps s) := by
  unfold refreshCaps
  try dsimp only
  repeat' (first | (with_reducible assumption) | (with_reducible exact fun _ => rfl) | (with_reducible rfl) | intro _ | (with_reducible apply modLdg_inv) | (with_reducible apply ite_inv) | (with_reducible apply ite_inv_snd) | (with_reducible apply ite_inv_thd) | split)

theorem recheckPorters_inv (s : State) (h : Inv s) : Inv (recheckPorters s) := by
  unfold recheckPorters
  try dsimp only
  repeat' (first | (with_reducible assumption) | (with_reducible exact fun _ => rfl) | (with_reducible rfl) | intro _ | (with_reducible apply forEach_inv) | (with_reducible apply refuseDesc_inv) | (with_reducible apply ite_inv) | (with_reducible apply ite_inv_snd) | (with_reducible apply ite_inv_thd) | split)

theorem endAllWork_inv (s : State) (h : Inv s) : Inv (endAllWork s) := by
  unfold endAllWork
  try dsimp only
  repeat' (first | (with_reducible assumption) | (with_reducible exact fun _ => rfl) | (with_reducible rfl) | intro _ | (with_reducible apply forEach_inv) | (with_reducible apply stopJob_inv) | (with_reducible apply ite_inv) | (with_reducible apply ite_inv_snd) | (with_reducible apply ite_inv_thd) | split | (with_reducible refine Inv.ofSnd (by assumption) ?_) | (with_reducible refine Inv.ofThd (by assumption) ?_) | (fail_if_no_progress refine inv_mk rfl rfl rfl rfl rfl rfl ?_))

theorem ageCmds_inv (s : State) (h : Inv s) : Inv (ageCmds s) := by
  unfold ageCmds
  try dsimp only
  repeat' (first | (with_reducible assumption) | (with_reducible exact fun _ => rfl) | (with_reducible rfl) | intro _ | (with_reducible apply modInnk_inv))

theorem judgeLegs_inv (n : Nat) (s : State) (h : Inv s) : Inv (judgeLegs n s).2 := by
  unfold judgeLegs
  try dsimp only
  repeat' (first | (with_reducible assumption) | (with_reducible exact fun _ => rfl) | (with_reducible rfl) | intro _ | (with_reducible apply commitLeg_inv) | (with_reducible apply missLeg_inv) | (with_reducible apply forLegs_inv) | (with_reducible apply discardRec_inv) | (with_reducible apply stopAtBell_inv) | (with_reducible apply ite_inv) | (with_reducible apply ite_inv_snd))

theorem doBell_inv (s : State) (h : Inv s) : Inv (doBell s) := by
  unfold doBell
  try dsimp only
  repeat' (first | (with_reducible assumption) | (with_reducible exact fun _ => rfl) | (with_reducible rfl) | intro _ | (with_reducible apply modStg_inv) | (with_reducible apply syncEvents_inv) | (with_reducible apply completeCkpt_inv) | (with_reducible apply advanceTo_inv) | (with_reducible apply doActs_inv) | (with_reducible apply takeOut_inv) | (with_reducible apply finishOffline_inv) | (with_reducible apply reselect_inv) | (with_reducible apply switchL1_inv) | (with_reducible apply forLegs_inv) | (with_reducible apply settleStops_inv) | (with_reducible apply announceStops_inv) | (with_reducible apply abandonPreps_inv) | (with_reducible apply startJobs_inv) | (with_reducible apply restartBell_inv) | (with_reducible apply restartRolls_inv) | (with_reducible apply startLeg_inv) | (with_reducible apply enterConfig_inv) | (with_reducible apply closeClusters_inv) | (with_reducible apply closeStage_inv) | (with_reducible apply chargeGuests_inv) | (with_reducible apply countIdle_inv) | (with_reducible apply clearClusters_inv) | (with_reducible apply startCkpt_inv) | (with_reducible apply writeRecords_inv) | (with_reducible apply refreshCaps_inv) | (with_reducible apply recheckPorters_inv) | (with_reducible apply endAllWork_inv) | (with_reducible apply ageCmds_inv) | (with_reducible apply judgeLegs_inv) | (with_reducible apply ite_inv) | (with_reducible apply ite_inv_snd))

theorem doWindow_inv (s : State) (h : Inv s) : Inv (doWindow s) := by
  unfold doWindow
  try dsimp only
  repeat' (first | (with_reducible assumption) | (with_reducible exact fun _ => rfl) | (with_reducible rfl) | intro _ | (with_reducible apply modStg_inv) | (with_reducible apply forEach_inv) | (with_reducible apply modLeg_inv) | (with_reducible apply advanceTo_inv) | (with_reducible apply ite_inv))

theorem doWatchdog_inv (k : Nat) (s : State) (h : Inv s) : Inv (doWatchdog k s) := by
  unfold doWatchdog
  try dsimp only
  repeat' (first | (with_reducible assumption) | (with_reducible exact fun _ => rfl) | (with_reducible rfl) | intro _ | (with_reducible apply modStg_inv) | (with_reducible apply stageFault_inv) | (with_reducible apply ite_inv) | (with_reducible apply ite_inv_snd) | (with_reducible apply ite_inv_thd) | split)

end Sys2Proof.Machine
end

