-- ==== Sys2Proof/Laws/InvRegWrites.lean ====
section
/-! SUPPORT. The functions of Machine/RegWrites.lean keep the invariant. -/

namespace Sys2Proof.Machine

theorem writeStg_inv (off : Nat) (v : Word) (s : State) (h : Inv s) : Inv (writeStg off v s) := by
  unfold writeStg
  try dsimp only
  repeat' (first | (with_reducible assumption) | (with_reducible exact fun _ => rfl) | (with_reducible rfl) | intro _ | (with_reducible apply modStg_inv) | (with_reducible apply modLdg_inv) | (with_reducible apply doCfgNextApply_inv) | (with_reducible apply doEventsClr_inv) | (with_reducible apply ite_inv) | (with_reducible apply ite_inv_snd) | (with_reducible apply ite_inv_thd) | split)

theorem writeCl_inv (off : Nat) (v : Word) (s : State) (h : Inv s) : Inv (writeCl off v s) := by
  unfold writeCl
  try dsimp only
  repeat' (first | (with_reducible assumption) | (with_reducible exact fun _ => rfl) | (with_reducible rfl) | intro _ | (with_reducible apply modCore_inv) | (with_reducible apply exc_inv) | (with_reducible apply doOffline_inv) | (with_reducible apply ite_inv))

theorem writeL2h_inv (off : Nat) (v : Word) (s : State) (h : Inv s) : Inv (writeL2h off v s) := by
  unfold writeL2h
  try dsimp only
  repeat' (first | (with_reducible assumption) | (with_reducible exact fun _ => rfl) | (with_reducible rfl) | intro _ | (with_reducible apply modHome_inv) | (with_reducible apply ite_inv) | (with_reducible apply ite_inv_snd) | (with_reducible apply ite_inv_thd) | split)

theorem writeMem_inv (off : Nat) (v : Word) (s : State) (h : Inv s) : Inv (writeMem off v s) := by
  unfold writeMem
  try dsimp only
  repeat' (first | (with_reducible assumption) | (with_reducible exact fun _ => rfl) | (with_reducible rfl) | intro _ | (with_reducible apply modCtl_inv) | (with_reducible apply syncEvents_inv) | (with_reducible apply ite_inv) | (with_reducible apply ite_inv_snd) | (with_reducible apply ite_inv_thd) | split)

theorem writePhPage_inv (n o : Nat) (v : Word) (s : State) (h : Inv s) : Inv (writePhPage n o v s) := by
  unfold writePhPage
  try dsimp only
  repeat' (first | (with_reducible assumption) | (with_reducible exact fun _ => rfl) | (with_reducible rfl) | intro _ | (with_reducible apply modPh_inv) | (with_reducible apply ite_inv) | (with_reducible apply ite_inv_snd) | (with_reducible apply ite_inv_thd) | split)

theorem writePh_inv (off : Nat) (v : Word) (s : State) (h : Inv s) : Inv (writePh off v s) := by
  unfold writePh
  try dsimp only
  repeat' (first | (with_reducible assumption) | (with_reducible exact fun _ => rfl) | (with_reducible rfl) | intro _ | (with_reducible apply modInnk_inv) | (with_reducible apply writePhPage_inv) | (with_reducible apply ite_inv))

theorem writePort_inv (n o : Nat) (v : Word) (s : State) (h : Inv s) : Inv (writePort n o v s) := by
  unfold writePort
  try dsimp only
  repeat' (first | (with_reducible assumption) | (with_reducible exact fun _ => rfl) | (with_reducible rfl) | intro _ | (with_reducible apply modPort_inv) | (with_reducible apply ite_inv) | (with_reducible apply ite_inv_snd) | (with_reducible apply ite_inv_thd) | split)

theorem writeNet_inv (off : Nat) (v : Word) (s : State) (h : Inv s) : Inv (writeNet off v s) := by
  unfold writeNet
  try dsimp only
  repeat' (first | (with_reducible assumption) | (with_reducible exact fun _ => rfl) | (with_reducible rfl) | intro _ | (with_reducible apply modNet_inv) | (with_reducible apply followBest_inv) | (with_reducible apply writePort_inv) | (with_reducible apply ite_inv) | (with_reducible apply ite_inv_snd) | (with_reducible apply ite_inv_thd) | split)

theorem writePtr_inv (off : Nat) (v : Word) (s : State) (h : Inv s) : Inv (writePtr off v s) := by
  unfold writePtr
  try dsimp only
  repeat' (first | (with_reducible assumption) | (with_reducible exact fun _ => rfl) | (with_reducible rfl) | intro _ | (with_reducible apply modPorter_inv) | (with_reducible apply ite_inv) | (with_reducible apply ite_inv_snd) | (with_reducible apply ite_inv_thd) | split | (with_reducible refine Inv.ofSnd (by assumption) ?_) | (with_reducible refine Inv.ofThd (by assumption) ?_) | (fail_if_no_progress refine inv_mk rfl rfl rfl rfl rfl rfl ?_))

theorem writePwr_inv (off : Nat) (v : Word) (s : State) (h : Inv s) : Inv (writePwr off v s) := by
  unfold writePwr
  try dsimp only
  repeat' (first | (with_reducible assumption) | (with_reducible exact fun _ => rfl) | (with_reducible rfl) | intro _ | (with_reducible apply ite_inv) | (with_reducible apply ite_inv_snd) | (with_reducible apply ite_inv_thd) | split | (with_reducible refine Inv.ofSnd (by assumption) ?_) | (with_reducible refine Inv.ofThd (by assumption) ?_) | (fail_if_no_progress refine inv_mk rfl rfl rfl rfl rfl rfl ?_))

theorem writeReg_inv (a : Nat) (v : Word) (s : State) (h : Inv s) : Inv (writeReg a v s) := by
  unfold writeReg
  try dsimp only
  repeat' (first | (with_reducible assumption) | (with_reducible exact fun _ => rfl) | (with_reducible rfl) | intro _ | (with_reducible apply writeStg_inv) | (with_reducible apply writeCl_inv) | (with_reducible apply writeL2h_inv) | (with_reducible apply writeMem_inv) | (with_reducible apply writePh_inv) | (with_reducible apply writeNet_inv) | (with_reducible apply writePtr_inv) | (with_reducible apply writePwr_inv) | (with_reducible apply ite_inv) | (with_reducible apply ite_inv_snd) | (with_reducible apply ite_inv_thd) | split)

theorem doRegisterWrite_inv (a : Nat) (v : Word) (s : State) (h : Inv s) : Inv (doRegisterWrite a v s) := by
  unfold doRegisterWrite
  try dsimp only
  repeat' (first | (with_reducible assumption) | (with_reducible exact fun _ => rfl) | (with_reducible rfl) | intro _ | (with_reducible apply writeReg_inv) | (with_reducible apply ite_inv))

end Sys2Proof.Machine
end

