-- ==== Sys2Proof/Laws/InvProcessor.lean ====
section
/-! SUPPORT. The functions of Machine/Processor.lean keep the invariant. -/

namespace Sys2Proof.Machine

theorem modHart_inv (h : Nat) (f : Hart → Hart) (s : State) (hs : Inv s) : Inv (modHart h f s) := by
  unfold modHart
  try dsimp only
  repeat' (first | (with_reducible assumption) | (with_reducible exact fun _ => rfl) | (with_reducible rfl) | intro _ | (with_reducible apply modPx_inv))

theorem hartOk_inv (h : Nat) (v : Option (BitVec 256)) (s : State) (hs : Inv s) : Inv (hartOk h v s) := by
  unfold hartOk
  try dsimp only
  repeat' (first | (with_reducible assumption) | (with_reducible exact fun _ => rfl) | (with_reducible rfl) | intro _ | (with_reducible apply modHart_inv))

theorem hartTrap_inv (h : Nat) (t : HartTrap) (tval : Nat) (s : State) (hs : Inv s) : Inv (hartTrap h t tval s) := by
  unfold hartTrap
  try dsimp only
  repeat' (first | (with_reducible assumption) | (with_reducible exact fun _ => rfl) | (with_reducible rfl) | intro _ | (with_reducible apply modHart_inv))

theorem hartFault_inv (a : HartAccess) (t : HartTrap) (cause : BitVec 4) (s : State) (h : Inv s) : Inv (hartFault a t cause s) := by
  unfold hartFault
  try dsimp only
  repeat' (first | (with_reducible assumption) | (with_reducible exact fun _ => rfl) | (with_reducible rfl) | intro _ | (with_reducible apply modHart_inv) | (with_reducible apply hartTrap_inv))

theorem pxHold_inv (d : Nat) (own : Bool) (xs : List Nat) (s : State) (h : Inv s) : Inv (pxHold d own xs s).2 := by
  induction xs generalizing s with
  | nil => exact h
  | cons l t ih =>
    unfold pxHold
    dsimp only
    repeat' (first | (with_reducible assumption) | (with_reducible apply ih) | (with_reducible apply pxObtain_inv) | split)

theorem pxStore_inv (d a : Nat) (bs : List Byte) (s : State) (h : Inv s) : Inv (pxStore d a bs s) := by
  unfold pxStore
  try dsimp only
  repeat' (first | (with_reducible assumption) | (with_reducible exact fun _ => rfl) | (with_reducible rfl) | intro _ | (with_reducible apply forEach_inv) | (with_reducible apply setPxLine_inv) | (with_reducible apply ite_inv) | (with_reducible apply ite_inv_snd) | (with_reducible apply ite_inv_thd) | split)

theorem breakRes_inv (h a n : Nat) (s : State) (hs : Inv s) : Inv (breakRes h a n s) := by
  unfold breakRes
  try dsimp only
  repeat' (first | (with_reducible assumption) | (with_reducible exact fun _ => rfl) | (with_reducible rfl) | intro _ | (with_reducible apply ite_inv) | (with_reducible apply ite_inv_snd) | (with_reducible apply ite_inv_thd) | split | (with_reducible refine Inv.ofSnd (by assumption) ?_) | (with_reducible refine Inv.ofThd (by assumption) ?_) | (fail_if_no_progress refine inv_mk rfl rfl rfl rfl rfl rfl ?_))

theorem memEffect_inv (a : HartAccess) (rd : Nat) (st : List Byte → State → State) (s : State) (kst : ∀ a0 a1, Inv a1 → Inv (st a0 a1)) (h : Inv s) :
    Inv (memEffect a rd st s) := by
  unfold memEffect
  dsimp only
  generalize a.kind = k
  cases k <;> dsimp only <;>
    repeat' (first | (with_reducible assumption) | (with_reducible apply kst) | (with_reducible apply modHart_inv) |
      (with_reducible apply hartOk_inv) | (with_reducible apply breakRes_inv) | split)

theorem pxGive_inv (d l : Nat) (write keep : Bool) (s : State) (h : Inv s) : Inv (pxGive d l write keep s) := by
  unfold pxGive
  try dsimp only
  repeat' (first | (with_reducible assumption) | (with_reducible exact fun _ => rfl) | (with_reducible rfl) | intro _ | (with_reducible apply modHome_inv) | (with_reducible apply setPxLine_inv) | (with_reducible apply pxWriteBack_inv) | (with_reducible apply ite_inv) | (with_reducible apply ite_inv_snd) | (with_reducible apply ite_inv_thd) | split)

theorem hartStores_inv (a : HartAccess) (z : State) (st : List Byte → State → State) (kst : ∀ bs t, Inv t → Inv (st bs t)) (bs : List Byte)
    (t : State) (h : Inv t) : Inv (hartStores a z st bs t) := by
  unfold hartStores
  split
  · exact h
  · exact kst _ _ h

theorem cachedAccess_inv (a : HartAccess) (s : State) (hs : Inv s) : Inv (cachedAccess a s) := by
  unfold cachedAccess
  dsimp only
  have k := pxHold_inv (hartDie a.hart) (kindWrites a.kind) (spanLines (accSpan a).1 (accSpan a).2) s hs
  split
  · exact hartOk_inv _ _ _ (pxGive_inv _ _ _ _ _ hs)
  · exact hartOk_inv _ _ _ (pxGive_inv _ _ _ _ _ hs)
  · exact hartOk_inv _ _ _ (pxGive_inv _ _ _ _ _ hs)
  · generalize pxHold (hartDie a.hart) (kindWrites a.kind) (spanLines (accSpan a).1 (accSpan a).2) s = p at k ⊢
    obtain ⟨ok, t⟩ := p
    dsimp only at k ⊢
    exact ite_inv k (ite_inv (hartFault_inv _ _ _ _ k) (memEffect_inv _ _ _ _ (hartStores_inv _ _ _ (fun _ _ h => pxStore_inv _ _ _ _ h)) k))

theorem homeAccess_inv (a : HartAccess) (s : State) (hs : Inv s) : Inv (homeAccess a s) := by
  unfold homeAccess
  dsimp only
  have k0 := forEach_inv (f := fun l t => pxWriteBack (hartDie a.hart) l false t) (fun l t h => pxWriteBack_inv (hartDie a.hart) l false t h)
    (spanLines (accSpan a).1 (accSpan a).2) hs
  generalize forEach _ _ s = t0 at k0 ⊢
  have k1 : Inv (if kindWrites a.kind then clearLines (!kindReads a.kind) (.px (hartDie a.hart)) (spanLines (accSpan a).1 (accSpan a).2) t0
      else (true, t0)).2 := ite_inv_snd (clearLines_inv _ _ _ _ k0) k0
  generalize (if kindWrites a.kind then clearLines (!kindReads a.kind) (.px (hartDie a.hart)) (spanLines (accSpan a).1 (accSpan a).2) t0
      else (true, t0)) = p at k1 ⊢
  obtain ⟨ok, t1⟩ := p
  dsimp only at k1 ⊢
  have k2 : Inv (if !ok then (none, t1) else if kindReads a.kind then
      homeReadLines (.px (hartDie a.hart)) (rangeLines (accSpan a).1 (accSpan a).2) t1 else (some [], t1)).2 :=
    ite_inv_snd k1 (ite_inv_snd (homeReadLines_inv _ _ _ k1) k1)
  generalize (if !ok then (none, t1) else if kindReads a.kind then
      homeReadLines (.px (hartDie a.hart)) (rangeLines (accSpan a).1 (accSpan a).2) t1 else (some [], t1)) = p at k2 ⊢
  obtain ⟨r, t2⟩ := p
  cases r with
  | none => exact k2
  | some ls =>
    exact ite_inv (hartFault_inv _ _ _ _ k2) (memEffect_inv _ _ _ _ (hartStores_inv _ _ _ (fun _ _ h => homeWriteBytes_inv _ _ _ _ h)) k2)

theorem pigeonAccess_inv (a : HartAccess) (s : State) (h : Inv s) : Inv (pigeonAccess a s) := by
  unfold pigeonAccess
  try dsimp only
  repeat' (first | (with_reducible assumption) | (with_reducible exact fun _ => rfl) | (with_reducible rfl) | intro _ | (with_reducible apply homeReadBytes_inv) | (with_reducible apply homeWriteBytes_inv) | (with_reducible apply hartOk_inv) | (with_reducible apply ite_inv) | (with_reducible apply ite_inv_snd) | (with_reducible apply ite_inv_thd) | split)

theorem statusLoad_inv (a : HartAccess) (s : State) (h : Inv s) : Inv (statusLoad a s) := by
  unfold statusLoad
  try dsimp only
  repeat' (first | (with_reducible assumption) | (with_reducible exact fun _ => rfl) | (with_reducible rfl) | intro _ | (with_reducible apply hartOk_inv))

theorem memAccess_inv (a : HartAccess) (s : State) (h : Inv s) : Inv (memAccess a s) := by
  unfold memAccess
  try dsimp only
  repeat' (first | (with_reducible assumption) | (with_reducible exact fun _ => rfl) | (with_reducible rfl) | intro _ | (with_reducible apply hartTrap_inv) | (with_reducible apply hartFault_inv) | (with_reducible apply cachedAccess_inv) | (with_reducible apply homeAccess_inv) | (with_reducible apply pigeonAccess_inv) | (with_reducible apply statusLoad_inv) | (with_reducible apply ite_inv) | (with_reducible apply ite_inv_snd) | (with_reducible apply ite_inv_thd) | split)

theorem csrRead_inv (h csr mode : Nat) (s : State) (hs : Inv s) : Inv (csrRead h csr mode s) := by
  unfold csrRead
  try dsimp only
  repeat' (first | (with_reducible assumption) | (with_reducible exact fun _ => rfl) | (with_reducible rfl) | intro _ | (with_reducible apply draw_inv) | (with_reducible apply hartOk_inv) | (with_reducible apply hartTrap_inv) | (with_reducible apply ite_inv) | (with_reducible apply ite_inv_snd) | (with_reducible apply ite_inv_thd) | split)

theorem putFreq_inv (d : Nat) (v : Word) (s : State) (h : Inv s) : Inv (putFreq d v s) := by
  unfold putFreq
  try dsimp only
  repeat' (first | (with_reducible assumption) | (with_reducible exact fun _ => rfl) | (with_reducible rfl) | intro _ | (with_reducible apply modPx_inv) | (with_reducible apply ite_inv))

theorem holdHarts_inv (s : State) (h : Inv s) : Inv (holdHarts s) := by
  unfold holdHarts
  try dsimp only
  repeat' (first | (with_reducible assumption) | (with_reducible exact fun _ => rfl) | (with_reducible rfl) | intro _ | (with_reducible apply ite_inv) | (with_reducible apply ite_inv_snd) | (with_reducible apply ite_inv_thd) | split | (with_reducible refine Inv.ofSnd (by assumption) ?_) | (with_reducible refine Inv.ofThd (by assumption) ?_) | (fail_if_no_progress refine inv_mk rfl rfl rfl rfl rfl rfl ?_))

theorem releaseHarts_inv (s : State) (h : Inv s) : Inv (releaseHarts s) := by
  unfold releaseHarts
  try dsimp only
  repeat' (first | (with_reducible assumption) | (with_reducible exact fun _ => rfl) | (with_reducible rfl) | intro _ | (with_reducible apply forEach_inv) | (with_reducible apply modHart_inv))

theorem refusePx_inv (s : State) (h : Inv s) : Inv (refusePx s) := by
  unfold refusePx
  try dsimp only
  repeat' (first | (with_reducible assumption) | (with_reducible exact fun _ => rfl) | (with_reducible rfl) | intro _ | (with_reducible apply syncEvents_inv) | (with_reducible apply modSec_inv) | (with_reducible apply holdHarts_inv))

theorem placeImage_inv (b : FwBank) (s : State) (h : Inv s) : Inv (placeImage b s) := by
  unfold placeImage
  try dsimp only
  repeat' (first | (with_reducible assumption) | (with_reducible exact fun _ => rfl) | (with_reducible rfl) | intro _ | (with_reducible apply syncEvents_inv) | (with_reducible apply homeWriteBytes_inv) | (with_reducible apply modSec_inv) | (with_reducible apply releaseHarts_inv) | (with_reducible apply refusePx_inv) | (with_reducible apply ite_inv) | (with_reducible apply ite_inv_snd) | (with_reducible apply ite_inv_thd) | split | (with_reducible refine Inv.ofSnd (by assumption) ?_) | (with_reducible refine Inv.ofThd (by assumption) ?_) | (fail_if_no_progress refine inv_mk rfl rfl rfl rfl rfl rfl ?_))

theorem emptyPxCache_inv (d : Nat) (s : State) (h : Inv s) : Inv (emptyPxCache d s) := by
  unfold emptyPxCache
  try dsimp only
  repeat' (first | (with_reducible assumption) | (with_reducible exact fun _ => rfl) | (with_reducible rfl) | intro _ | (with_reducible apply forEach_inv) | (with_reducible apply pxWriteBack_inv))

theorem restartComplex_inv (s : State) (h : Inv s) : Inv (restartComplex s) := by
  unfold restartComplex
  try dsimp only
  repeat' (first | (with_reducible assumption) | (with_reducible exact fun _ => rfl) | (with_reducible rfl) | intro _ | (with_reducible apply refuseFw_inv) | (with_reducible apply holdHarts_inv) | (with_reducible apply refusePx_inv) | (with_reducible apply placeImage_inv) | (with_reducible apply emptyPxCache_inv) | (with_reducible apply ite_inv) | (with_reducible apply ite_inv_snd) | (with_reducible apply ite_inv_thd) | split)

theorem csrWrite_inv (h csr mode : Nat) (v : Word) (s : State) (hs : Inv s) : Inv (csrWrite h csr mode v s) := by
  unfold csrWrite
  try dsimp only
  repeat' (first | (with_reducible assumption) | (with_reducible exact fun _ => rfl) | (with_reducible rfl) | intro _ | (with_reducible apply modHart_inv) | (with_reducible apply hartOk_inv) | (with_reducible apply hartTrap_inv) | (with_reducible apply putFreq_inv) | (with_reducible apply restartComplex_inv) | (with_reducible apply ite_inv) | (with_reducible apply ite_inv_snd) | (with_reducible apply ite_inv_thd) | split)

theorem doHartAccess_inv (a : HartAccess) (s : State) (h : Inv s) : Inv (doHartAccess a s) := by
  unfold doHartAccess
  try dsimp only
  repeat' (first | (with_reducible assumption) | (with_reducible exact fun _ => rfl) | (with_reducible rfl) | intro _ | (with_reducible apply memAccess_inv) | (with_reducible apply csrRead_inv) | (with_reducible apply csrWrite_inv) | (with_reducible apply ite_inv) | (with_reducible apply ite_inv_snd) | (with_reducible apply ite_inv_thd) | split)

theorem doMxctlRestart_inv (h : Nat) (s : State) (hs : Inv s) : Inv (doMxctlRestart h s) := by
  unfold doMxctlRestart
  try dsimp only
  repeat' (first | (with_reducible assumption) | (with_reducible exact fun _ => rfl) | (with_reducible rfl) | intro _ | (with_reducible apply restartComplex_inv) | (with_reducible apply ite_inv))

theorem doMxfreqWrite_inv (h : Nat) (v : Word) (s : State) (hs : Inv s) : Inv (doMxfreqWrite h v s) := by
  unfold doMxfreqWrite
  try dsimp only
  repeat' (first | (with_reducible assumption) | (with_reducible exact fun _ => rfl) | (with_reducible rfl) | intro _ | (with_reducible apply putFreq_inv) | (with_reducible apply ite_inv))

theorem doFreqDone_inv (d : Nat) (s : State) (h : Inv s) : Inv (doFreqDone d s) := by
  unfold doFreqDone
  try dsimp only
  repeat' (first | (with_reducible assumption) | (with_reducible exact fun _ => rfl) | (with_reducible rfl) | intro _ | (with_reducible apply modPx_inv) | (with_reducible apply ite_inv))

end Sys2Proof.Machine
end

