-- ==== Sys2Proof/Laws/InvPowerRows.lean ====
section
/-! SUPPORT. The functions of Machine/PowerRows.lean keep the invariant. -/

namespace Sys2Proof.Machine

theorem shareEnergy_inv (start uw : Nat) (from_ : Nat) (xs : List (Nat × Nat)) (s : State) (h : Inv s) : Inv (shareEnergy start uw from_ xs s) := by
  induction xs generalizing from_ s with
  | nil => exact h.same rfl rfl rfl rfl rfl rfl
  | cons x t ih =>
    obtain ⟨a, seq⟩ := x
    unfold shareEnergy
    dsimp only
    apply ih
    have e : ∀ (l : List LedgerRec) (k : Nat), (l.map (fun r => match r with
        | .bell b => if b.seq = seq then .bell { b with energyFj := b.energyFj + k } else .bell b
        | .leg x => .leg x)).map LedgerRec.seqOf = l.map LedgerRec.seqOf := by
      intro l k
      induction l with
      | nil => rfl
      | cons y t ih =>
        simp only [List.map_cons, ih]
        congr 1
        split
        · split <;> rfl
        · rfl
    refine ⟨h.mem, h.chk, h.errLen, h.errSeq, ?_, ?_⟩
    · simpa [modLdg] using h.recLen
    · exact (congrArg (countDown s.ldg.next) (e _ _)).trans h.recSeq

theorem addEnergy_inv (uw : Nat) (s : State) (h : Inv s) : Inv (addEnergy uw s) := by
  unfold addEnergy
  try dsimp only
  repeat' (first | (with_reducible assumption) | (with_reducible exact fun _ => rfl) | (with_reducible rfl) | intro _ | (with_reducible apply modPwr_inv) | (with_reducible apply shareEnergy_inv))

theorem settleUnmet_inv (s : State) (h : Inv s) : Inv (settleUnmet s) := by
  unfold settleUnmet
  try dsimp only
  repeat' (first | (with_reducible assumption) | (with_reducible exact fun _ => rfl) | (with_reducible rfl) | intro _ | (with_reducible apply syncEvents_inv) | (with_reducible apply modPwr_inv))

theorem settleTelem_inv (s : State) (h : Inv s) : Inv (settleTelem s) := by
  unfold settleTelem
  try dsimp only
  repeat' (first | (with_reducible assumption) | (with_reducible exact fun _ => rfl) | (with_reducible rfl) | intro _ | (with_reducible apply syncEvents_inv) | (with_reducible apply modPwr_inv))

theorem doThrottle_inv (t : Telemetry) (s : State) (h : Inv s) : Inv (doThrottle t s) := by
  unfold doThrottle
  try dsimp only
  repeat' (first | (with_reducible assumption) | (with_reducible exact fun _ => rfl) | (with_reducible rfl) | intro _ | (with_reducible apply modLdg_inv) | (with_reducible apply modPwr_inv) | (with_reducible apply addEnergy_inv) | (with_reducible apply settleUnmet_inv) | (with_reducible apply settleTelem_inv) | (with_reducible apply foldl_inv) | (with_reducible apply foldl_inv_snd) | (with_reducible apply ite_inv))

theorem doTelemLost_inv (s : State) (h : Inv s) : Inv (doTelemLost s) := by
  unfold doTelemLost
  try dsimp only
  repeat' (first | (with_reducible assumption) | (with_reducible exact fun _ => rfl) | (with_reducible rfl) | intro _ | (with_reducible apply settleTelem_inv) | (with_reducible apply ite_inv))

theorem doCapUnmet_inv (s : State) (h : Inv s) : Inv (doCapUnmet s) := by
  unfold doCapUnmet
  try dsimp only
  repeat' (first | (with_reducible assumption) | (with_reducible exact fun _ => rfl) | (with_reducible rfl) | intro _ | (with_reducible apply settleUnmet_inv) | (with_reducible apply ite_inv))

theorem doValve_inv (r : CoolReadings) (s : State) (h : Inv s) : Inv (doValve r s) := by
  unfold doValve
  try dsimp only
  repeat' (first | (with_reducible assumption) | (with_reducible exact fun _ => rfl) | (with_reducible rfl) | intro _ | (with_reducible apply syncEvents_inv) | (with_reducible apply modPwr_inv) | (with_reducible apply ite_inv))

theorem doWarning_inv (w : Warning) (s : State) (h : Inv s) : Inv (doWarning w s) := by
  unfold doWarning
  try dsimp only
  repeat' (first | (with_reducible assumption) | (with_reducible exact fun _ => rfl) | (with_reducible rfl) | intro _ | (with_reducible apply syncEvents_inv) | (with_reducible apply modPwr_inv) | (with_reducible apply ite_inv) | (with_reducible apply ite_inv_snd) | (with_reducible apply ite_inv_thd) | split)

theorem resetState_inv (s : State) (h : Inv s) : Inv (resetState s) := by
  unfold resetState
  dsimp only
  apply refreshCaps_inv
  exact ⟨rfl, rfl, Nat.zero_le _, rfl, Nat.zero_le _, rfl⟩

theorem offState_inv (st : PowerState) (hold : Bool) (s : State) (h : Inv s) : Inv (offState st hold s) := by
  unfold offState
  try dsimp only
  repeat' (first | (with_reducible assumption) | (with_reducible exact fun _ => rfl) | (with_reducible rfl) | intro _ | (with_reducible apply resetState_inv) | (with_reducible apply ite_inv) | (with_reducible apply ite_inv_snd) | (with_reducible apply ite_inv_thd) | split | (with_reducible refine Inv.ofSnd (by assumption) ?_) | (with_reducible refine Inv.ofThd (by assumption) ?_) | (fail_if_no_progress refine inv_mk rfl rfl rfl rfl rfl rfl ?_))

theorem powerOff_inv (s : State) (h : Inv s) : Inv (powerOff s) := by
  unfold powerOff
  try dsimp only
  repeat' (first | (with_reducible assumption) | (with_reducible exact fun _ => rfl) | (with_reducible rfl) | intro _ | (with_reducible apply offState_inv) | (with_reducible apply ite_inv))

theorem doTrip_inv (x : TripSensor) (s : State) (h : Inv s) : Inv (doTrip x s) := by
  unfold doTrip
  dsimp only
  split
  · exact h
  · apply syncEvents_inv
    have k := holdHarts_inv s h
    exact ⟨rfl, rfl, k.errLen, k.errSeq, k.recLen, k.recSeq⟩

theorem faultDomain_inv (n : Nat) (s : State) (h : Inv s) : Inv (faultDomain n s) := by
  unfold faultDomain
  try dsimp only
  repeat' (first | (with_reducible assumption) | (with_reducible exact fun _ => rfl) | (with_reducible rfl) | intro _ | (with_reducible apply logErr_inv) | (with_reducible apply forEach_inv) | (with_reducible apply syncEvents_inv) | (with_reducible apply losePx_inv) | (with_reducible apply stackLoss_inv) | (with_reducible apply dieLoss_inv) | (with_reducible apply doPortDown_inv) | (with_reducible apply modPwr_inv) | (with_reducible apply powerOff_inv) | (with_reducible apply ite_inv))

theorem doDomainFault_inv (n : Nat) (rail : Option Nat) (s : State) (h : Inv s) : Inv (doDomainFault n rail s) := by
  unfold doDomainFault
  try dsimp only
  repeat' (first | (with_reducible assumption) | (with_reducible exact fun _ => rfl) | (with_reducible rfl) | intro _ | (with_reducible apply forEach_inv) | (with_reducible apply modPwr_inv) | (with_reducible apply faultDomain_inv) | (with_reducible apply ite_inv) | (with_reducible apply ite_inv_snd) | (with_reducible apply ite_inv_thd) | split)

theorem doHalfOff_inv (h : Nat) (s : State) (hs : Inv s) : Inv (doHalfOff h s) := by
  unfold doHalfOff
  try dsimp only
  repeat' (first | (with_reducible assumption) | (with_reducible exact fun _ => rfl) | (with_reducible rfl) | intro _ | (with_reducible apply modPwr_inv) | (with_reducible apply ite_inv))

theorem doHalfOn_inv (h : Nat) (s : State) (hs : Inv s) : Inv (doHalfOn h s) := by
  unfold doHalfOn
  try dsimp only
  repeat' (first | (with_reducible assumption) | (with_reducible exact fun _ => rfl) | (with_reducible rfl) | intro _ | (with_reducible apply modPwr_inv) | (with_reducible apply ite_inv))

end Sys2Proof.Machine
end

