-- ==== Sys2Proof/Laws/InvModuleRows.lean ====
section
/-! SUPPORT. The functions of Machine/ModuleRows.lean keep the invariant. -/

namespace Sys2Proof.Machine

theorem modMdl_inv (f : Module → Module) (s : State) (h : Inv s) : Inv (modMdl f s) := by
  unfold modMdl
  try dsimp only
  repeat' (first | (with_reducible assumption) | (with_reducible exact fun _ => rfl) | (with_reducible rfl) | intro _ | (with_reducible apply ite_inv) | (with_reducible apply ite_inv_snd) | (with_reducible apply ite_inv_thd) | split | (with_reducible refine Inv.ofSnd (by assumption) ?_) | (with_reducible refine Inv.ofThd (by assumption) ?_) | (fail_if_no_progress refine inv_mk rfl rfl rfl rfl rfl rfl ?_))

theorem startUp_inv (s : State) (h : Inv s) : Inv (startUp s) := by
  unfold startUp
  try dsimp only
  repeat' (first | (with_reducible assumption) | (with_reducible exact fun _ => rfl) | (with_reducible rfl) | intro _ | (with_reducible apply modPwr_inv) | (with_reducible apply modMdl_inv))

theorem doPwrEnRise_inv (s : State) (h : Inv s) : Inv (doPwrEnRise s) := by
  unfold doPwrEnRise
  try dsimp only
  repeat' (first | (with_reducible assumption) | (with_reducible exact fun _ => rfl) | (with_reducible rfl) | intro _ | (with_reducible apply modMdl_inv) | (with_reducible apply startUp_inv) | (with_reducible apply ite_inv))

theorem doHoldoff_inv (s : State) (h : Inv s) : Inv (doHoldoff s) := by
  unfold doHoldoff
  try dsimp only
  repeat' (first | (with_reducible assumption) | (with_reducible exact fun _ => rfl) | (with_reducible rfl) | intro _ | (with_reducible apply modMdl_inv) | (with_reducible apply startUp_inv) | (with_reducible apply ite_inv))

theorem doPwrGood_inv (s : State) (h : Inv s) : Inv (doPwrGood s) := by
  unfold doPwrGood
  try dsimp only
  repeat' (first | (with_reducible assumption) | (with_reducible exact fun _ => rfl) | (with_reducible rfl) | intro _ | (with_reducible apply modPwr_inv) | (with_reducible apply modMdl_inv) | (with_reducible apply foldl_inv) | (with_reducible apply foldl_inv_snd) | (with_reducible apply ite_inv))

theorem doPgTimeout_inv (s : State) (h : Inv s) : Inv (doPgTimeout s) := by
  unfold doPgTimeout
  try dsimp only
  repeat' (first | (with_reducible assumption) | (with_reducible exact fun _ => rfl) | (with_reducible rfl) | intro _ | (with_reducible apply powerOff_inv) | (with_reducible apply ite_inv))

theorem raiseSvn_inv (n : Nat) (s : State) (h : Inv s) : Inv (raiseSvn n s) := by
  unfold raiseSvn
  try dsimp only
  repeat' (first | (with_reducible assumption) | (with_reducible exact fun _ => rfl) | (with_reducible rfl) | intro _ | (with_reducible apply modComp_inv))

theorem runBank_inv (n bank : Nat) (fallback : Bool) (b : FwBank) (s : State) (h : Inv s) : Inv (runBank n bank fallback b s) := by
  unfold runBank
  try dsimp only
  repeat' (first | (with_reducible assumption) | (with_reducible exact fun _ => rfl) | (with_reducible rfl) | intro _ | (with_reducible apply extendMr_inv) | (with_reducible apply modComp_inv))

theorem tryBank_inv (n bank : Nat) (s : State) (h : Inv s) : Inv (tryBank n bank s).2 := by
  unfold tryBank
  try dsimp only
  repeat' (first | (with_reducible assumption) | (with_reducible exact fun _ => rfl) | (with_reducible rfl) | intro _ | (with_reducible apply refuseFw_inv) | (with_reducible apply ite_inv) | (with_reducible apply ite_inv_snd) | (with_reducible apply ite_inv_thd) | split)

theorem bootComp_inv (n : Nat) (s : State) (h : Inv s) : Inv (bootComp n s).2 := by
  unfold bootComp
  try dsimp only
  repeat' (first | (with_reducible assumption) | (with_reducible exact fun _ => rfl) | (with_reducible rfl) | intro _ | (with_reducible apply runBank_inv) | (with_reducible apply tryBank_inv) | (with_reducible apply ite_inv) | (with_reducible apply ite_inv_snd) | (with_reducible apply ite_inv_thd) | split | (with_reducible refine Inv.ofSnd (by assumption) ?_))

theorem bootInnk_inv (s : State) (h : Inv s) : Inv (bootInnk s) := by
  unfold bootInnk
  try dsimp only
  repeat' (first | (with_reducible assumption) | (with_reducible exact fun _ => rfl) | (with_reducible rfl) | intro _ | (with_reducible apply modSec_inv) | (with_reducible apply bootComp_inv) | (with_reducible apply ite_inv) | (with_reducible apply ite_inv_snd) | (with_reducible apply ite_inv_thd) | split | (with_reducible refine Inv.ofSnd (by assumption) ?_))

theorem bootSerdes_inv (s : State) (h : Inv s) : Inv (bootSerdes s) := by
  unfold bootSerdes
  try dsimp only
  repeat' (first | (with_reducible assumption) | (with_reducible exact fun _ => rfl) | (with_reducible rfl) | intro _ | (with_reducible apply modSec_inv) | (with_reducible apply raiseSvn_inv) | (with_reducible apply bootComp_inv) | (with_reducible apply ite_inv) | (with_reducible apply ite_inv_snd) | (with_reducible apply ite_inv_thd) | split | (with_reducible refine Inv.ofSnd (by assumption) ?_))

theorem doRelease_inv (slotId : Nat) (s : State) (h : Inv s) : Inv (doRelease slotId s) := by
  unfold doRelease
  try dsimp only
  repeat' (first | (with_reducible assumption) | (with_reducible exact fun _ => rfl) | (with_reducible rfl) | intro _ | (with_reducible apply modStg_inv) | (with_reducible apply modSb_inv) | (with_reducible apply syncEvents_inv) | (with_reducible apply modSec_inv) | (with_reducible apply extendMr_inv) | (with_reducible apply modMdl_inv) | (with_reducible apply raiseSvn_inv) | (with_reducible apply bootComp_inv) | (with_reducible apply bootInnk_inv) | (with_reducible apply bootSerdes_inv) | (with_reducible apply ite_inv) | (with_reducible apply ite_inv_snd) | (with_reducible apply ite_inv_thd) | split | (with_reducible refine Inv.ofSnd (by assumption) ?_))

theorem startUpTests_inv (s : State) (h : Inv s) : Inv (startUpTests s) := by
  unfold startUpTests
  try dsimp only
  repeat' (first | (with_reducible assumption) | (with_reducible exact fun _ => rfl) | (with_reducible rfl) | intro _ | (with_reducible apply modLdg_inv) | (with_reducible apply modPx_inv) | (with_reducible apply draw_inv) | (with_reducible apply ite_inv))

theorem mapRuntime_inv (s : State) (h : Inv s) : Inv (mapRuntime s) := by
  unfold mapRuntime
  try dsimp only
  repeat' (first | (with_reducible assumption) | (with_reducible exact fun _ => rfl) | (with_reducible rfl) | intro _ | (with_reducible apply ite_inv) | (with_reducible apply ite_inv_snd) | (with_reducible apply ite_inv_thd) | split | (with_reducible refine Inv.ofSnd (by assumption) ?_) | (with_reducible refine Inv.ofThd (by assumption) ?_) | (fail_if_no_progress refine inv_mk rfl rfl rfl rfl rfl rfl ?_))

theorem mapProcessor_inv (s : State) (h : Inv s) : Inv (mapProcessor s) := by
  unfold mapProcessor
  try dsimp only
  repeat' (first | (with_reducible assumption) | (with_reducible exact fun _ => rfl) | (with_reducible rfl) | intro _ | (with_reducible apply ite_inv) | (with_reducible apply ite_inv_snd) | (with_reducible apply ite_inv_thd) | split | (with_reducible refine Inv.ofSnd (by assumption) ?_) | (with_reducible refine Inv.ofThd (by assumption) ?_) | (fail_if_no_progress refine inv_mk rfl rfl rfl rfl rfl rfl ?_))

theorem loadSettings_inv (s : State) (h : Inv s) : Inv (loadSettings s) := by
  unfold loadSettings
  try dsimp only
  repeat' (first | (with_reducible assumption) | (with_reducible exact fun _ => rfl) | (with_reducible rfl) | intro _ | (with_reducible apply forEach_inv) | (with_reducible apply writeReg_inv) | (with_reducible apply ite_inv) | (with_reducible apply ite_inv_snd) | (with_reducible apply ite_inv_thd) | split)

theorem settleSettings_inv (s : State) (h : Inv s) : Inv (settleSettings s) := by
  unfold settleSettings
  try dsimp only
  repeat' (first | (with_reducible assumption) | (with_reducible exact fun _ => rfl) | (with_reducible rfl) | intro _ | (with_reducible apply clampWindows_inv) | (with_reducible apply ite_inv) | (with_reducible apply ite_inv_snd) | (with_reducible apply ite_inv_thd) | split | (with_reducible refine Inv.ofSnd (by assumption) ?_) | (with_reducible refine Inv.ofThd (by assumption) ?_) | (fail_if_no_progress refine inv_mk rfl rfl rfl rfl rfl rfl ?_))

theorem bootPx_inv (s : State) (h : Inv s) : Inv (bootPx s) := by
  unfold bootPx
  try dsimp only
  repeat' (first | (with_reducible assumption) | (with_reducible exact fun _ => rfl) | (with_reducible rfl) | intro _ | (with_reducible apply modSec_inv) | (with_reducible apply refusePx_inv) | (with_reducible apply placeImage_inv) | (with_reducible apply raiseSvn_inv) | (with_reducible apply bootComp_inv) | (with_reducible apply ite_inv) | (with_reducible apply ite_inv_snd) | (with_reducible apply ite_inv_thd) | split | (with_reducible refine Inv.ofSnd (by assumption) ?_))

theorem doInnkReady_inv (s : State) (h : Inv s) : Inv (doInnkReady s) := by
  unfold doInnkReady
  try dsimp only
  repeat' (first | (with_reducible assumption) | (with_reducible exact fun _ => rfl) | (with_reducible rfl) | intro _ | (with_reducible apply syncEvents_inv) | (with_reducible apply modSec_inv) | (with_reducible apply extendMr_inv) | (with_reducible apply refreshCaps_inv) | (with_reducible apply raiseSvn_inv) | (with_reducible apply startUpTests_inv) | (with_reducible apply mapRuntime_inv) | (with_reducible apply mapProcessor_inv) | (with_reducible apply loadSettings_inv) | (with_reducible apply settleSettings_inv) | (with_reducible apply bootPx_inv) | (with_reducible apply ite_inv))

theorem doInnkTimeout_inv (s : State) (h : Inv s) : Inv (doInnkTimeout s) := by
  unfold doInnkTimeout
  try dsimp only
  repeat' (first | (with_reducible assumption) | (with_reducible exact fun _ => rfl) | (with_reducible rfl) | intro _ | (with_reducible apply syncEvents_inv) | (with_reducible apply modSec_inv) | (with_reducible apply runBank_inv) | (with_reducible apply tryBank_inv) | (with_reducible apply ite_inv) | (with_reducible apply ite_inv_snd) | (with_reducible apply ite_inv_thd) | split | (with_reducible refine Inv.ofSnd (by assumption) ?_))

theorem doModuleReset_inv (lowNs : Nat) (s : State) (h : Inv s) : Inv (doModuleReset lowNs s) := by
  unfold doModuleReset
  try dsimp only
  repeat' (first | (with_reducible assumption) | (with_reducible exact fun _ => rfl) | (with_reducible rfl) | intro _ | (with_reducible apply resetState_inv) | (with_reducible apply ite_inv) | (with_reducible apply ite_inv_snd) | (with_reducible apply ite_inv_thd) | split | (with_reducible refine Inv.ofSnd (by assumption) ?_) | (with_reducible refine Inv.ofThd (by assumption) ?_) | (fail_if_no_progress refine inv_mk rfl rfl rfl rfl rfl rfl ?_))

theorem doPwrEnFall_inv (s : State) (h : Inv s) : Inv (doPwrEnFall s) := by
  unfold doPwrEnFall
  try dsimp only
  repeat' (first | (with_reducible assumption) | (with_reducible exact fun _ => rfl) | (with_reducible rfl) | intro _ | (with_reducible apply offState_inv) | (with_reducible apply modMdl_inv) | (with_reducible apply ite_inv))

theorem doVinShutdown_inv (vinMv durNs : Nat) (s : State) (h : Inv s) : Inv (doVinShutdown vinMv durNs s) := by
  unfold doVinShutdown
  try dsimp only
  repeat' (first | (with_reducible assumption) | (with_reducible exact fun _ => rfl) | (with_reducible rfl) | intro _ | (with_reducible apply powerOff_inv) | (with_reducible apply ite_inv))

theorem doCurrentLimit_inv (durNs : Nat) (s : State) (h : Inv s) : Inv (doCurrentLimit durNs s) := by
  unfold doCurrentLimit
  try dsimp only
  repeat' (first | (with_reducible assumption) | (with_reducible exact fun _ => rfl) | (with_reducible rfl) | intro _ | (with_reducible apply powerOff_inv) | (with_reducible apply ite_inv))

theorem doRefclkLoss_inv (durNs : Nat) (s : State) (h : Inv s) : Inv (doRefclkLoss durNs s) := by
  unfold doRefclkLoss
  try dsimp only
  repeat' (first | (with_reducible assumption) | (with_reducible exact fun _ => rfl) | (with_reducible rfl) | intro _ | (with_reducible apply faultDomain_inv) | (with_reducible apply ite_inv))

end Sys2Proof.Machine
end

