-- ==== Sys2Proof/Laws/InvSideband.lean ====
section
/-! SUPPORT. The functions of Machine/Sideband.lean keep the invariant. -/

namespace Sys2Proof.Machine

theorem answer_inv (r : SbResp) (s : State) (h : Inv s) : Inv (answer r s) := by
  unfold answer
  try dsimp only
  repeat' (first | (with_reducible assumption) | (with_reducible exact fun _ => rfl) | (with_reducible rfl) | intro _ | (with_reducible apply modSb_inv))

theorem onBus_inv (f : State → State) (s : State) (kf : ∀ (y0 : State), Inv y0 → Inv (f y0)) (h : Inv s) : Inv (onBus f s) := by
  unfold onBus
  try dsimp only
  repeat' (first | (with_reducible assumption) | (with_reducible exact fun _ => rfl) | (with_reducible rfl) | intro _ | (with_reducible apply kf) | (with_reducible apply ite_inv))

theorem takeAddr_inv (a : BitVec 7) (s : State) (h : Inv s) : Inv (takeAddr a s) := by
  unfold takeAddr
  try dsimp only
  repeat' (first | (with_reducible assumption) | (with_reducible exact fun _ => rfl) | (with_reducible rfl) | intro _ | (with_reducible apply modSb_inv) | (with_reducible apply answer_inv) | (with_reducible apply onBus_inv) | (with_reducible apply ite_inv))

theorem doSetdasa_inv (st a : BitVec 7) (s : State) (h : Inv s) : Inv (doSetdasa st a s) := by
  unfold doSetdasa
  try dsimp only
  repeat' (first | (with_reducible assumption) | (with_reducible exact fun _ => rfl) | (with_reducible rfl) | intro _ | (with_reducible apply takeAddr_inv) | (with_reducible apply ite_inv))

theorem doSetnewda_inv (a : BitVec 7) (s : State) (h : Inv s) : Inv (doSetnewda a s) := by
  unfold doSetnewda
  try dsimp only
  repeat' (first | (with_reducible assumption) | (with_reducible exact fun _ => rfl) | (with_reducible rfl) | intro _ | (with_reducible apply modSb_inv) | (with_reducible apply answer_inv) | (with_reducible apply onBus_inv) | (with_reducible apply ite_inv))

theorem doRstdaa_inv (s : State) (h : Inv s) : Inv (doRstdaa s) := by
  unfold doRstdaa
  try dsimp only
  repeat' (first | (with_reducible assumption) | (with_reducible exact fun _ => rfl) | (with_reducible rfl) | intro _ | (with_reducible apply modSb_inv) | (with_reducible apply answer_inv) | (with_reducible apply onBus_inv))

theorem setIbi_inv (v : Bool) (s : State) (h : Inv s) : Inv (setIbi v s) := by
  unfold setIbi
  try dsimp only
  repeat' (first | (with_reducible assumption) | (with_reducible exact fun _ => rfl) | (with_reducible rfl) | intro _ | (with_reducible apply modSb_inv) | (with_reducible apply answer_inv) | (with_reducible apply onBus_inv))

theorem doGetstatus_inv (s : State) (h : Inv s) : Inv (doGetstatus s) := by
  unfold doGetstatus
  try dsimp only
  repeat' (first | (with_reducible assumption) | (with_reducible exact fun _ => rfl) | (with_reducible rfl) | intro _ | (with_reducible apply draw_inv) | (with_reducible apply answer_inv) | (with_reducible apply onBus_inv))

theorem setLen_inv (n : Nat) (f : Sideband → Sideband) (s : State) (h : Inv s) : Inv (setLen n f s) := by
  unfold setLen
  try dsimp only
  repeat' (first | (with_reducible assumption) | (with_reducible exact fun _ => rfl) | (with_reducible rfl) | intro _ | (with_reducible apply modSb_inv) | (with_reducible apply answer_inv) | (with_reducible apply onBus_inv) | (with_reducible apply ite_inv))

theorem doSetEid_inv (e : Byte) (s : State) (h : Inv s) : Inv (doSetEid e s) := by
  unfold doSetEid
  try dsimp only
  repeat' (first | (with_reducible assumption) | (with_reducible exact fun _ => rfl) | (with_reducible rfl) | intro _ | (with_reducible apply modSb_inv) | (with_reducible apply answer_inv) | (with_reducible apply onBus_inv) | (with_reducible apply ite_inv))

theorem doMctpVersion_inv (s : State) (h : Inv s) : Inv (doMctpVersion s) := by
  unfold doMctpVersion
  try dsimp only
  repeat' (first | (with_reducible assumption) | (with_reducible exact fun _ => rfl) | (with_reducible rfl) | intro _ | (with_reducible apply draw_inv) | (with_reducible apply answer_inv) | (with_reducible apply onBus_inv))

theorem doDropped_inv (s : State) (h : Inv s) : Inv (doDropped s) := by
  unfold doDropped
  try dsimp only
  repeat' (first | (with_reducible assumption) | (with_reducible exact fun _ => rfl) | (with_reducible rfl) | intro _ | (with_reducible apply modSb_inv) | (with_reducible apply onBus_inv))

theorem pldm_inv (type : Nat) (f : State → State) (s : State) (kf : ∀ (y0 : State), Inv y0 → Inv (f y0)) (h : Inv s) : Inv (pldm type f s) := by
  unfold pldm
  try dsimp only
  repeat' (first | (with_reducible assumption) | (with_reducible exact fun _ => rfl) | (with_reducible rfl) | intro _ | (with_reducible apply answer_inv) | (with_reducible apply onBus_inv) | (with_reducible apply kf) | (with_reducible apply ite_inv))

theorem spdm_inv (f : State → State) (s : State) (kf : ∀ (y0 : State), Inv y0 → Inv (f y0)) (h : Inv s) : Inv (spdm f s) := by
  unfold spdm
  try dsimp only
  repeat' (first | (with_reducible assumption) | (with_reducible exact fun _ => rfl) | (with_reducible rfl) | intro _ | (with_reducible apply onBus_inv) | (with_reducible apply kf) | (with_reducible apply ite_inv))

theorem doSetTid_inv (t : Byte) (s : State) (h : Inv s) : Inv (doSetTid t s) := by
  unfold doSetTid
  try dsimp only
  repeat' (first | (with_reducible assumption) | (with_reducible exact fun _ => rfl) | (with_reducible rfl) | intro _ | (with_reducible apply modSb_inv) | (with_reducible apply answer_inv) | (with_reducible apply pldm_inv) | (with_reducible apply ite_inv))

theorem doPldmCommands_inv (type : Nat) (s : State) (h : Inv s) : Inv (doPldmCommands type s) := by
  unfold doPldmCommands
  try dsimp only
  repeat' (first | (with_reducible assumption) | (with_reducible exact fun _ => rfl) | (with_reducible rfl) | intro _ | (with_reducible apply answer_inv) | (with_reducible apply pldm_inv) | (with_reducible apply ite_inv))

theorem doPldmVersion_inv (type : Nat) (s : State) (h : Inv s) : Inv (doPldmVersion type s) := by
  unfold doPldmVersion
  try dsimp only
  repeat' (first | (with_reducible assumption) | (with_reducible exact fun _ => rfl) | (with_reducible rfl) | intro _ | (with_reducible apply draw_inv) | (with_reducible apply answer_inv) | (with_reducible apply pldm_inv) | (with_reducible apply ite_inv))

theorem doSensor_inv (n : Nat) (s : State) (h : Inv s) : Inv (doSensor n s) := by
  unfold doSensor
  try dsimp only
  repeat' (first | (with_reducible assumption) | (with_reducible exact fun _ => rfl) | (with_reducible rfl) | intro _ | (with_reducible apply answer_inv) | (with_reducible apply pldm_inv) | (with_reducible apply ite_inv) | (with_reducible apply ite_inv_snd) | (with_reducible apply ite_inv_thd) | split)

theorem doStateSensor_inv (n : Nat) (s : State) (h : Inv s) : Inv (doStateSensor n s) := by
  unfold doStateSensor
  try dsimp only
  repeat' (first | (with_reducible assumption) | (with_reducible exact fun _ => rfl) | (with_reducible rfl) | intro _ | (with_reducible apply answer_inv) | (with_reducible apply pldm_inv) | (with_reducible apply ite_inv))

theorem doGetPdr_inv (r : Nat) (s : State) (h : Inv s) : Inv (doGetPdr r s) := by
  unfold doGetPdr
  try dsimp only
  repeat' (first | (with_reducible assumption) | (with_reducible exact fun _ => rfl) | (with_reducible rfl) | intro _ | (with_reducible apply answer_inv) | (with_reducible apply pldm_inv) | (with_reducible apply ite_inv) | (with_reducible apply ite_inv_snd) | (with_reducible apply ite_inv_thd) | split)

theorem doSetReceiver_inv (e : Byte) (s : State) (h : Inv s) : Inv (doSetReceiver e s) := by
  unfold doSetReceiver
  try dsimp only
  repeat' (first | (with_reducible assumption) | (with_reducible exact fun _ => rfl) | (with_reducible rfl) | intro _ | (with_reducible apply modSb_inv) | (with_reducible apply answer_inv) | (with_reducible apply pldm_inv))

theorem doEventRetry_inv (s : State) (h : Inv s) : Inv (doEventRetry s) := by
  unfold doEventRetry
  try dsimp only
  repeat' (first | (with_reducible assumption) | (with_reducible exact fun _ => rfl) | (with_reducible rfl) | intro _ | (with_reducible apply modSb_inv) | (with_reducible apply onBus_inv) | (with_reducible apply ite_inv) | (with_reducible apply ite_inv_snd) | (with_reducible apply ite_inv_thd) | split)

theorem doEventAck_inv (s : State) (h : Inv s) : Inv (doEventAck s) := by
  unfold doEventAck
  try dsimp only
  repeat' (first | (with_reducible assumption) | (with_reducible exact fun _ => rfl) | (with_reducible rfl) | intro _ | (with_reducible apply modSb_inv) | (with_reducible apply onBus_inv) | (with_reducible apply ite_inv) | (with_reducible apply ite_inv_snd) | (with_reducible apply ite_inv_thd) | split)

theorem doFwParams_inv (s : State) (h : Inv s) : Inv (doFwParams s) := by
  unfold doFwParams
  try dsimp only
  repeat' (first | (with_reducible assumption) | (with_reducible exact fun _ => rfl) | (with_reducible rfl) | intro _ | (with_reducible apply answer_inv) | (with_reducible apply pldm_inv))

theorem doRequestUpdate_inv (s : State) (h : Inv s) : Inv (doRequestUpdate s) := by
  unfold doRequestUpdate
  try dsimp only
  repeat' (first | (with_reducible assumption) | (with_reducible exact fun _ => rfl) | (with_reducible rfl) | intro _ | (with_reducible apply modSb_inv) | (with_reducible apply answer_inv) | (with_reducible apply pldm_inv) | (with_reducible apply ite_inv))

theorem inUpdate_inv (sts : List UpdState) (f : State → State) (s : State) (kf : ∀ (y0 : State), Inv y0 → Inv (f y0)) (h : Inv s) : Inv (inUpdate sts f s) := by
  unfold inUpdate
  try dsimp only
  repeat' (first | (with_reducible assumption) | (with_reducible exact fun _ => rfl) | (with_reducible rfl) | intro _ | (with_reducible apply answer_inv) | (with_reducible apply pldm_inv) | (with_reducible apply kf) | (with_reducible apply ite_inv))

theorem doPassTable_inv (n : Nat) (s : State) (h : Inv s) : Inv (doPassTable n s) := by
  unfold doPassTable
  try dsimp only
  repeat' (first | (with_reducible assumption) | (with_reducible exact fun _ => rfl) | (with_reducible rfl) | intro _ | (with_reducible apply modSb_inv) | (with_reducible apply answer_inv) | (with_reducible apply inUpdate_inv) | (with_reducible apply ite_inv))

theorem doUpdateComponent_inv (u : UpdateReq) (s : State) (h : Inv s) : Inv (doUpdateComponent u s) := by
  unfold doUpdateComponent
  try dsimp only
  repeat' (first | (with_reducible assumption) | (with_reducible exact fun _ => rfl) | (with_reducible rfl) | intro _ | (with_reducible apply modSb_inv) | (with_reducible apply modComp_inv) | (with_reducible apply answer_inv) | (with_reducible apply inUpdate_inv) | (with_reducible apply ite_inv))

theorem doFirmwareData_inv (off : Nat) (bs : List Byte) (s : State) (h : Inv s) : Inv (doFirmwareData off bs s) := by
  unfold doFirmwareData
  try dsimp only
  repeat' (first | (with_reducible assumption) | (with_reducible exact fun _ => rfl) | (with_reducible rfl) | intro _ | (with_reducible apply modSb_inv) | (with_reducible apply answer_inv) | (with_reducible apply inUpdate_inv) | (with_reducible apply ite_inv))

theorem doTransferComplete_inv (ok : Bool) (s : State) (h : Inv s) : Inv (doTransferComplete ok s) := by
  unfold doTransferComplete
  try dsimp only
  repeat' (first | (with_reducible assumption) | (with_reducible exact fun _ => rfl) | (with_reducible rfl) | intro _ | (with_reducible apply modSb_inv) | (with_reducible apply answer_inv) | (with_reducible apply inUpdate_inv))

theorem doVerifyComplete_inv (s : State) (h : Inv s) : Inv (doVerifyComplete s) := by
  unfold doVerifyComplete
  try dsimp only
  repeat' (first | (with_reducible assumption) | (with_reducible exact fun _ => rfl) | (with_reducible rfl) | intro _ | (with_reducible apply modSb_inv) | (with_reducible apply refuseFw_inv) | (with_reducible apply modComp_inv) | (with_reducible apply stageImage_inv) | (with_reducible apply answer_inv) | (with_reducible apply inUpdate_inv) | (with_reducible apply ite_inv))

theorem doApplyComplete_inv (s : State) (h : Inv s) : Inv (doApplyComplete s) := by
  unfold doApplyComplete
  try dsimp only
  repeat' (first | (with_reducible assumption) | (with_reducible exact fun _ => rfl) | (with_reducible rfl) | intro _ | (with_reducible apply modSb_inv) | (with_reducible apply answer_inv) | (with_reducible apply inUpdate_inv))

theorem endUpdate_inv (s : State) (h : Inv s) : Inv (endUpdate s) := by
  unfold endUpdate
  try dsimp only
  repeat' (first | (with_reducible assumption) | (with_reducible exact fun _ => rfl) | (with_reducible rfl) | intro _ | (with_reducible apply modSb_inv))

theorem doActivate_inv (s : State) (h : Inv s) : Inv (doActivate s) := by
  unfold doActivate
  try dsimp only
  repeat' (first | (with_reducible assumption) | (with_reducible exact fun _ => rfl) | (with_reducible rfl) | intro _ | (with_reducible apply forEach_inv) | (with_reducible apply modComp_inv) | (with_reducible apply commitImage_inv) | (with_reducible apply answer_inv) | (with_reducible apply inUpdate_inv) | (with_reducible apply endUpdate_inv) | (with_reducible apply ite_inv))

theorem doUpdateStatus_inv (s : State) (h : Inv s) : Inv (doUpdateStatus s) := by
  unfold doUpdateStatus
  try dsimp only
  repeat' (first | (with_reducible assumption) | (with_reducible exact fun _ => rfl) | (with_reducible rfl) | intro _ | (with_reducible apply answer_inv) | (with_reducible apply pldm_inv))

theorem doCancelComponent_inv (s : State) (h : Inv s) : Inv (doCancelComponent s) := by
  unfold doCancelComponent
  try dsimp only
  repeat' (first | (with_reducible assumption) | (with_reducible exact fun _ => rfl) | (with_reducible rfl) | intro _ | (with_reducible apply modSb_inv) | (with_reducible apply answer_inv) | (with_reducible apply inUpdate_inv))

theorem doCancelUpdate_inv (s : State) (h : Inv s) : Inv (doCancelUpdate s) := by
  unfold doCancelUpdate
  try dsimp only
  repeat' (first | (with_reducible assumption) | (with_reducible exact fun _ => rfl) | (with_reducible rfl) | intro _ | (with_reducible apply answer_inv) | (with_reducible apply pldm_inv) | (with_reducible apply endUpdate_inv) | (with_reducible apply ite_inv))

theorem doUpdateTimeout_inv (s : State) (h : Inv s) : Inv (doUpdateTimeout s) := by
  unfold doUpdateTimeout
  try dsimp only
  repeat' (first | (with_reducible assumption) | (with_reducible exact fun _ => rfl) | (with_reducible rfl) | intro _ | (with_reducible apply endUpdate_inv) | (with_reducible apply ite_inv))

theorem doNegotiate_inv (asym hash : Nat) (s : State) (h : Inv s) : Inv (doNegotiate asym hash s) := by
  unfold doNegotiate
  try dsimp only
  repeat' (first | (with_reducible assumption) | (with_reducible exact fun _ => rfl) | (with_reducible rfl) | intro _ | (with_reducible apply modSb_inv) | (with_reducible apply answer_inv) | (with_reducible apply spdm_inv) | (with_reducible apply ite_inv))

theorem doCapabilities_inv (s : State) (h : Inv s) : Inv (doCapabilities s) := by
  unfold doCapabilities
  try dsimp only
  repeat' (first | (with_reducible assumption) | (with_reducible exact fun _ => rfl) | (with_reducible rfl) | intro _ | (with_reducible apply draw_inv) | (with_reducible apply answer_inv) | (with_reducible apply spdm_inv))

theorem doCertificate_inv (slot off len : Nat) (s : State) (h : Inv s) : Inv (doCertificate slot off len s) := by
  unfold doCertificate
  try dsimp only
  repeat' (first | (with_reducible assumption) | (with_reducible exact fun _ => rfl) | (with_reducible rfl) | intro _ | (with_reducible apply answer_inv) | (with_reducible apply spdm_inv) | (with_reducible apply ite_inv))

theorem doChallenge_inv (slot : Nat) (nonce : BitVec 256) (s : State) (h : Inv s) : Inv (doChallenge slot nonce s) := by
  unfold doChallenge
  try dsimp only
  repeat' (first | (with_reducible assumption) | (with_reducible exact fun _ => rfl) | (with_reducible rfl) | intro _ | (with_reducible apply draw_inv) | (with_reducible apply answer_inv) | (with_reducible apply spdm_inv) | (with_reducible apply ite_inv))

theorem doMeasurements_inv (index : Nat) (nonce : Option (BitVec 256)) (s : State) (h : Inv s) : Inv (doMeasurements index nonce s) := by
  unfold doMeasurements
  try dsimp only
  repeat' (first | (with_reducible assumption) | (with_reducible exact fun _ => rfl) | (with_reducible rfl) | intro _ | (with_reducible apply draw_inv) | (with_reducible apply answer_inv) | (with_reducible apply spdm_inv) | (with_reducible apply ite_inv) | (with_reducible apply ite_inv_snd) | (with_reducible apply ite_inv_thd) | split)

theorem doUnsupported_inv (u : Unsupported) (s : State) (h : Inv s) : Inv (doUnsupported u s) := by
  unfold doUnsupported
  try dsimp only
  repeat' (first | (with_reducible assumption) | (with_reducible exact fun _ => rfl) | (with_reducible rfl) | intro _ | (with_reducible apply answer_inv) | (with_reducible apply pldm_inv) | (with_reducible apply spdm_inv) | (with_reducible apply ite_inv) | (with_reducible apply ite_inv_snd) | (with_reducible apply ite_inv_thd) | split)

end Sys2Proof.Machine
end

