-- ==== Sys2Proof/Laws/InvVendor.lean ====
section
/-! SUPPORT. The functions of Machine/Vendor.lean keep the invariant. -/

namespace Sys2Proof.Machine

theorem vend_inv (st : BitVec 16) (s : State) (h : Inv s) : Inv (vend st s) := by
  unfold vend
  try dsimp only
  repeat' (first | (with_reducible assumption) | (with_reducible exact fun _ => rfl) | (with_reducible rfl) | intro _ | (with_reducible apply answer_inv))

theorem vendBytes_inv (st : BitVec 16) (bs : List Byte) (s : State) (h : Inv s) : Inv (vendBytes st bs s) := by
  unfold vendBytes
  try dsimp only
  repeat' (first | (with_reducible assumption) | (with_reducible exact fun _ => rfl) | (with_reducible rfl) | intro _ | (with_reducible apply answer_inv))

theorem vendor_inv (early : Bool) (f : State → State) (s : State) (kf : ∀ (y0 : State), Inv y0 → Inv (f y0)) (h : Inv s) : Inv (vendor early f s) := by
  unfold vendor
  try dsimp only
  repeat' (first | (with_reducible assumption) | (with_reducible exact fun _ => rfl) | (with_reducible rfl) | intro _ | (with_reducible apply onBus_inv) | (with_reducible apply vend_inv) | (with_reducible apply kf) | (with_reducible apply ite_inv))

theorem level_inv (n : Nat) (f : State → State) (s : State) (kf : ∀ (y0 : State), Inv y0 → Inv (f y0)) (h : Inv s) : Inv (level n f s) := by
  unfold level
  try dsimp only
  repeat' (first | (with_reducible assumption) | (with_reducible exact fun _ => rfl) | (with_reducible rfl) | intro _ | (with_reducible apply vend_inv) | (with_reducible apply kf) | (with_reducible apply ite_inv))

theorem doRegRead_inv (a : Nat) (s : State) (h : Inv s) : Inv (doRegRead a s) := by
  unfold doRegRead
  try dsimp only
  repeat' (first | (with_reducible assumption) | (with_reducible exact fun _ => rfl) | (with_reducible rfl) | intro _ | (with_reducible apply vend_inv) | (with_reducible apply vendBytes_inv) | (with_reducible apply vendor_inv) | (with_reducible apply ite_inv))

theorem doSbFaultRead_inv (seq n : Nat) (s : State) (h : Inv s) : Inv (doSbFaultRead seq n s) := by
  unfold doSbFaultRead
  try dsimp only
  repeat' (first | (with_reducible assumption) | (with_reducible exact fun _ => rfl) | (with_reducible rfl) | intro _ | (with_reducible apply answer_inv) | (with_reducible apply vend_inv) | (with_reducible apply vendor_inv) | (with_reducible apply ite_inv))

theorem doCfgSet_inv (a : Nat) (v : Word) (persist : Bool) (s : State) (h : Inv s) : Inv (doCfgSet a v persist s) := by
  unfold doCfgSet
  try dsimp only
  repeat' (first | (with_reducible assumption) | (with_reducible exact fun _ => rfl) | (with_reducible rfl) | intro _ | (with_reducible apply modSb_inv) | (with_reducible apply writeReg_inv) | (with_reducible apply vend_inv) | (with_reducible apply vendor_inv) | (with_reducible apply ite_inv))

theorem doUnlock_inv (t : DbgToken) (s : State) (h : Inv s) : Inv (doUnlock t s) := by
  unfold doUnlock
  try dsimp only
  repeat' (first | (with_reducible assumption) | (with_reducible exact fun _ => rfl) | (with_reducible rfl) | intro _ | (with_reducible apply modSec_inv) | (with_reducible apply extendMr_inv) | (with_reducible apply freshNonce_inv) | (with_reducible apply refuseDbg_inv) | (with_reducible apply vend_inv) | (with_reducible apply vendor_inv) | (with_reducible apply ite_inv))

theorem dmiWrite_inv (target : Nat) (addr data : BitVec 32) (s : State) (h : Inv s) : Inv (dmiWrite target addr data s) := by
  unfold dmiWrite
  try dsimp only
  repeat' (first | (with_reducible assumption) | (with_reducible exact fun _ => rfl) | (with_reducible rfl) | intro _ | (with_reducible apply modInnk_inv) | (with_reducible apply modSb_inv) | (with_reducible apply ite_inv))

theorem doDmi_inv (target : Nat) (write : Bool) (addr data : BitVec 32) (s : State) (h : Inv s) : Inv (doDmi target write addr data s) := by
  unfold doDmi
  try dsimp only
  repeat' (first | (with_reducible assumption) | (with_reducible exact fun _ => rfl) | (with_reducible rfl) | intro _ | (with_reducible apply draw_inv) | (with_reducible apply vend_inv) | (with_reducible apply vendBytes_inv) | (with_reducible apply vendor_inv) | (with_reducible apply level_inv) | (with_reducible apply dmiWrite_inv) | (with_reducible apply ite_inv))

theorem vendCluster_inv (n : Nat) (f : State → State) (s : State) (kf : ∀ (y0 : State), Inv y0 → Inv (f y0)) (h : Inv s) : Inv (vendCluster n f s) := by
  unfold vendCluster
  try dsimp only
  repeat' (first | (with_reducible assumption) | (with_reducible exact fun _ => rfl) | (with_reducible rfl) | intro _ | (with_reducible apply vend_inv) | (with_reducible apply kf) | (with_reducible apply ite_inv))

theorem doClHalt_inv (n : Nat) (halt : Bool) (s : State) (h : Inv s) : Inv (doClHalt n halt s) := by
  unfold doClHalt
  try dsimp only
  repeat' (first | (with_reducible assumption) | (with_reducible exact fun _ => rfl) | (with_reducible rfl) | intro _ | (with_reducible apply modCluster_inv) | (with_reducible apply vend_inv) | (with_reducible apply vendor_inv) | (with_reducible apply level_inv) | (with_reducible apply vendCluster_inv))

theorem dbgMemory_inv (a n : Nat) (s : State) (h : Inv s) : Inv (dbgMemory a n s) := by
  unfold dbgMemory
  try dsimp only
  repeat' (first | (with_reducible assumption) | (with_reducible exact fun _ => rfl) | (with_reducible rfl) | intro _ | (with_reducible apply homeReadLines_inv) | (with_reducible apply vend_inv) | (with_reducible apply vendBytes_inv) | (with_reducible apply ite_inv) | (with_reducible apply ite_inv_snd) | (with_reducible apply ite_inv_thd) | split)

theorem dbgRegs_inv (n a : Nat) (s : State) (h : Inv s) : Inv (dbgRegs n a s) := by
  unfold dbgRegs
  try dsimp only
  repeat' (first | (with_reducible assumption) | (with_reducible exact fun _ => rfl) | (with_reducible rfl) | intro _ | (with_reducible apply draw_inv) | (with_reducible apply vendBytes_inv) | (with_reducible apply ite_inv) | (with_reducible apply ite_inv_snd) | (with_reducible apply ite_inv_thd) | split)

theorem doDbgRead_inv (space n a len : Nat) (s : State) (h : Inv s) : Inv (doDbgRead space n a len s) := by
  unfold doDbgRead
  try dsimp only
  repeat' (first | (with_reducible assumption) | (with_reducible exact fun _ => rfl) | (with_reducible rfl) | intro _ | (with_reducible apply vend_inv) | (with_reducible apply vendBytes_inv) | (with_reducible apply vendor_inv) | (with_reducible apply level_inv) | (with_reducible apply vendCluster_inv) | (with_reducible apply dbgMemory_inv) | (with_reducible apply dbgRegs_inv) | (with_reducible apply ite_inv))

theorem doFuse_inv (r : FuseReq) (s : State) (h : Inv s) : Inv (doFuse r s) := by
  unfold doFuse
  try dsimp only
  repeat' (first | (with_reducible assumption) | (with_reducible exact fun _ => rfl) | (with_reducible rfl) | intro _ | (with_reducible apply modSec_inv) | (with_reducible apply extendMr_inv) | (with_reducible apply freshNonce_inv) | (with_reducible apply vend_inv) | (with_reducible apply vendor_inv) | (with_reducible apply ite_inv))

end Sys2Proof.Machine
end

