-- ==== Sys2Proof/Laws/InvExec.lean ====
section
/-! SUPPORT. Every meaning keeps the invariant. -/

namespace Sys2Proof.Machine

/-- A step that answers a state with the invariant. -/
theorem next_inv {t x : State} (e : Host.Outcome.next x = (Host.Outcome.next t : Host.Outcome State Fault Refusal)) (h : Inv x) : Inv t := by
  injection e with e; exact e ▸ h

theorem execIntAdd_inv (c : CoreSlot) (f : Insn) (s : State) {t : State} (hs : Inv s) (e : execIntAdd c f s = .next t) : Inv t :=
  next_inv e (by repeat' (first | (with_reducible assumption) | intro _ | (with_reducible apply doInt_inv)))

theorem execIntSub_inv (c : CoreSlot) (f : Insn) (s : State) {t : State} (hs : Inv s) (e : execIntSub c f s = .next t) : Inv t :=
  next_inv e (by repeat' (first | (with_reducible assumption) | intro _ | (with_reducible apply doInt_inv)))

theorem execIntMul_inv (c : CoreSlot) (f : Insn) (s : State) {t : State} (hs : Inv s) (e : execIntMul c f s = .next t) : Inv t :=
  next_inv e (by repeat' (first | (with_reducible assumption) | intro _ | (with_reducible apply doInt_inv)))

theorem execIntMulh_inv (c : CoreSlot) (f : Insn) (s : State) {t : State} (hs : Inv s) (e : execIntMulh c f s = .next t) : Inv t :=
  next_inv e (by repeat' (first | (with_reducible assumption) | intro _ | (with_reducible apply doInt_inv)))

theorem execIntMad_inv (c : CoreSlot) (f : Insn) (s : State) {t : State} (hs : Inv s) (e : execIntMad c f s = .next t) : Inv t :=
  next_inv e (by repeat' (first | (with_reducible assumption) | intro _ | (with_reducible apply doInt_inv)))

theorem execIntAnd_inv (c : CoreSlot) (f : Insn) (s : State) {t : State} (hs : Inv s) (e : execIntAnd c f s = .next t) : Inv t :=
  next_inv e (by repeat' (first | (with_reducible assumption) | intro _ | (with_reducible apply doInt_inv)))

theorem execIntOr_inv (c : CoreSlot) (f : Insn) (s : State) {t : State} (hs : Inv s) (e : execIntOr c f s = .next t) : Inv t :=
  next_inv e (by repeat' (first | (with_reducible assumption) | intro _ | (with_reducible apply doInt_inv)))

theorem execIntXor_inv (c : CoreSlot) (f : Insn) (s : State) {t : State} (hs : Inv s) (e : execIntXor c f s = .next t) : Inv t :=
  next_inv e (by repeat' (first | (with_reducible assumption) | intro _ | (with_reducible apply doInt_inv)))

theorem execIntShl_inv (c : CoreSlot) (f : Insn) (s : State) {t : State} (hs : Inv s) (e : execIntShl c f s = .next t) : Inv t :=
  next_inv e (by repeat' (first | (with_reducible assumption) | intro _ | (with_reducible apply doInt_inv)))

theorem execIntShr_inv (c : CoreSlot) (f : Insn) (s : State) {t : State} (hs : Inv s) (e : execIntShr c f s = .next t) : Inv t :=
  next_inv e (by repeat' (first | (with_reducible assumption) | intro _ | (with_reducible apply doInt_inv)))

theorem execIntSar_inv (c : CoreSlot) (f : Insn) (s : State) {t : State} (hs : Inv s) (e : execIntSar c f s = .next t) : Inv t :=
  next_inv e (by repeat' (first | (with_reducible assumption) | intro _ | (with_reducible apply doInt_inv)))

theorem execIntMin_inv (c : CoreSlot) (f : Insn) (s : State) {t : State} (hs : Inv s) (e : execIntMin c f s = .next t) : Inv t :=
  next_inv e (by repeat' (first | (with_reducible assumption) | intro _ | (with_reducible apply doInt_inv)))

theorem execIntMax_inv (c : CoreSlot) (f : Insn) (s : State) {t : State} (hs : Inv s) (e : execIntMax c f s = .next t) : Inv t :=
  next_inv e (by repeat' (first | (with_reducible assumption) | intro _ | (with_reducible apply doInt_inv)))

theorem execSel_inv (c : CoreSlot) (f : Insn) (s : State) {t : State} (hs : Inv s) (e : execSel c f s = .next t) : Inv t :=
  next_inv e (by repeat' (first | (with_reducible assumption) | intro _ | (with_reducible apply doInt_inv)))

theorem execCmp_inv (c : CoreSlot) (f : Insn) (s : State) {t : State} (hs : Inv s) (e : execCmp c f s = .next t) : Inv t :=
  next_inv e (by repeat' (first | (with_reducible assumption) | intro _ | (with_reducible apply doInt_inv)))

theorem execMov_inv (c : CoreSlot) (f : Insn) (s : State) {t : State} (hs : Inv s) (e : execMov c f s = .next t) : Inv t :=
  next_inv e (by repeat' (first | (with_reducible assumption) | intro _ | (with_reducible apply doInt_inv)))

theorem execPopc_inv (c : CoreSlot) (f : Insn) (s : State) {t : State} (hs : Inv s) (e : execPopc c f s = .next t) : Inv t :=
  next_inv e (by repeat' (first | (with_reducible assumption) | intro _ | (with_reducible apply doInt_inv)))

theorem execClz_inv (c : CoreSlot) (f : Insn) (s : State) {t : State} (hs : Inv s) (e : execClz c f s = .next t) : Inv t :=
  next_inv e (by repeat' (first | (with_reducible assumption) | intro _ | (with_reducible apply doInt_inv)))

theorem execLd_inv (c : CoreSlot) (f : Insn) (s : State) {t : State} (hs : Inv s) (e : execLd c f s = .next t) : Inv t :=
  next_inv e (by repeat' (first | (with_reducible assumption) | intro _ | (with_reducible apply afterChain_inv) | (with_reducible apply loadGlobal_inv) | (with_reducible apply loadLocal_inv) | (with_reducible apply doLs_inv) | split))

theorem execSt_inv (c : CoreSlot) (f : Insn) (s : State) {t : State} (hs : Inv s) (e : execSt c f s = .next t) : Inv t :=
  next_inv e (by repeat' (first | (with_reducible assumption) | intro _ | (with_reducible apply afterChain_inv) | (with_reducible apply storeGlobal_inv) | (with_reducible apply storeLocal_inv) | (with_reducible apply doLs_inv) | split))

theorem execDead_inv (c : CoreSlot) (f : Insn) (s : State) {t : State} (hs : Inv s) (e : execDead c f s = .next t) : Inv t :=
  next_inv e (by repeat' (first | (with_reducible assumption) | intro _ | (with_reducible apply deadHints_inv) | (with_reducible apply doLs_inv)))

theorem execAtAdd_inv (c : CoreSlot) (f : Insn) (s : State) {t : State} (hs : Inv s) (e : execAtAdd c f s = .next t) : Inv t :=
  next_inv e (by repeat' (first | (with_reducible assumption) | intro _ | (with_reducible apply doAt_inv)))

theorem execFadd32_inv (c : CoreSlot) (f : Insn) (s : State) {t : State} (hs : Inv s) (e : execFadd32 c f s = .next t) : Inv t :=
  next_inv e (by repeat' (first | (with_reducible assumption) | intro _ | (with_reducible apply doAt_inv)))

theorem execAtMin_inv (c : CoreSlot) (f : Insn) (s : State) {t : State} (hs : Inv s) (e : execAtMin c f s = .next t) : Inv t :=
  next_inv e (by repeat' (first | (with_reducible assumption) | intro _ | (with_reducible apply doAt_inv)))

theorem execAtMax_inv (c : CoreSlot) (f : Insn) (s : State) {t : State} (hs : Inv s) (e : execAtMax c f s = .next t) : Inv t :=
  next_inv e (by repeat' (first | (with_reducible assumption) | intro _ | (with_reducible apply doAt_inv)))

theorem execAtAnd_inv (c : CoreSlot) (f : Insn) (s : State) {t : State} (hs : Inv s) (e : execAtAnd c f s = .next t) : Inv t :=
  next_inv e (by repeat' (first | (with_reducible assumption) | intro _ | (with_reducible apply doAt_inv)))

theorem execAtOr_inv (c : CoreSlot) (f : Insn) (s : State) {t : State} (hs : Inv s) (e : execAtOr c f s = .next t) : Inv t :=
  next_inv e (by repeat' (first | (with_reducible assumption) | intro _ | (with_reducible apply doAt_inv)))

theorem execAtXor_inv (c : CoreSlot) (f : Insn) (s : State) {t : State} (hs : Inv s) (e : execAtXor c f s = .next t) : Inv t :=
  next_inv e (by repeat' (first | (with_reducible assumption) | intro _ | (with_reducible apply doAt_inv)))

theorem execXchg_inv (c : CoreSlot) (f : Insn) (s : State) {t : State} (hs : Inv s) (e : execXchg c f s = .next t) : Inv t :=
  next_inv e (by repeat' (first | (with_reducible assumption) | intro _ | (with_reducible apply doAt_inv)))

theorem execCas_inv (c : CoreSlot) (f : Insn) (s : State) {t : State} (hs : Inv s) (e : execCas c f s = .next t) : Inv t :=
  next_inv e (by repeat' (first | (with_reducible assumption) | intro _ | (with_reducible apply doAt_inv)))

theorem execL1MissFill_inv (cl co : Nat) (s : State) {t : State} (hs : Inv s) (e : execL1MissFill cl co s = .next t) : Inv t :=
  next_inv e (by repeat' (first | (with_reducible assumption) | intro _ | (with_reducible apply doL1Fill_inv)))

theorem execCpyIn_inv (c : CoreSlot) (f : Insn) (s : State) {t : State} (hs : Inv s) (e : execCpyIn c f s = .next t) : Inv t :=
  next_inv e (by repeat' (first | (with_reducible assumption) | intro _ | (with_reducible apply doCpyIn_inv)))

theorem execNop_inv (c : CoreSlot) (f : Insn) (s : State) {t : State} (hs : Inv s) (e : execNop c f s = .next t) : Inv t :=
  next_inv e (by repeat' (first | (with_reducible assumption) | intro _ | (with_reducible apply doNop_inv)))

theorem execBra_inv (c : CoreSlot) (f : Insn) (s : State) {t : State} (hs : Inv s) (e : execBra c f s = .next t) : Inv t :=
  next_inv e (by repeat' (first | (with_reducible assumption) | intro _ | (with_reducible apply doBra_inv)))

theorem execBrx_inv (c : CoreSlot) (f : Insn) (s : State) {t : State} (hs : Inv s) (e : execBrx c f s = .next t) : Inv t :=
  next_inv e (by repeat' (first | (with_reducible assumption) | intro _ | (with_reducible apply doBrx_inv)))

theorem execExit_inv (c : CoreSlot) (f : Insn) (s : State) {t : State} (hs : Inv s) (e : execExit c f s = .next t) : Inv t :=
  next_inv e (by repeat' (first | (with_reducible assumption) | intro _ | (with_reducible apply doExit_inv)))

theorem execWaitc_inv (c : CoreSlot) (f : Insn) (s : State) {t : State} (hs : Inv s) (e : execWaitc c f s = .next t) : Inv t :=
  next_inv e (by repeat' (first | (with_reducible assumption) | intro _ | (with_reducible apply doWaitc_inv)))

theorem execArv_inv (c : CoreSlot) (f : Insn) (s : State) {t : State} (hs : Inv s) (e : execArv c f s = .next t) : Inv t :=
  next_inv e (by repeat' (first | (with_reducible assumption) | intro _ | (with_reducible apply doArv_inv)))

theorem execTrap_inv (c : CoreSlot) (f : Insn) (s : State) {t : State} (hs : Inv s) (e : execTrap c f s = .next t) : Inv t :=
  next_inv e (by repeat' (first | (with_reducible assumption) | intro _ | (with_reducible apply doTrap_inv)))

theorem execShfl_inv (c : CoreSlot) (f : Insn) (s : State) {t : State} (hs : Inv s) (e : execShfl c f s = .next t) : Inv t :=
  next_inv e (by repeat' (first | (with_reducible assumption) | intro _ | (with_reducible apply doShfl_inv)))

theorem execVote_inv (c : CoreSlot) (f : Insn) (s : State) {t : State} (hs : Inv s) (e : execVote c f s = .next t) : Inv t :=
  next_inv e (by repeat' (first | (with_reducible assumption) | intro _ | (with_reducible apply doVote_inv)))

theorem execBallot_inv (c : CoreSlot) (f : Insn) (s : State) {t : State} (hs : Inv s) (e : execBallot c f s = .next t) : Inv t :=
  next_inv e (by repeat' (first | (with_reducible assumption) | intro _ | (with_reducible apply doBallot_inv)))

theorem execSplitTimeout_inv (c : CoreSlot) (s : State) {t : State} (hs : Inv s) (e : execSplitTimeout c s = .next t) : Inv t :=
  next_inv e (by repeat' (first | (with_reducible assumption) | intro _ | (with_reducible apply doSplitTimeout_inv)))

theorem execCopyDelivery_inv (cl req sector : Nat) (s : State) {t : State} (hs : Inv s) (e : execCopyDelivery cl req sector s = .next t) : Inv t :=
  next_inv e (by repeat' (first | (with_reducible assumption) | intro _ | (with_reducible apply deliverCopy_inv)))

theorem execMma_inv (c : CoreSlot) (f : Insn) (s : State) {t : State} (hs : Inv s) (e : execMma c f s = .next t) : Inv t :=
  next_inv e (by repeat' (first | (with_reducible assumption) | intro _ | (with_reducible apply doMx_inv)))

theorem execMld_inv (c : CoreSlot) (f : Insn) (s : State) {t : State} (hs : Inv s) (e : execMld c f s = .next t) : Inv t :=
  next_inv e (by repeat' (first | (with_reducible assumption) | intro _ | (with_reducible apply doMx_inv)))

theorem execMrd_inv (c : CoreSlot) (f : Insn) (s : State) {t : State} (hs : Inv s) (e : execMrd c f s = .next t) : Inv t :=
  next_inv e (by repeat' (first | (with_reducible assumption) | intro _ | (with_reducible apply doMx_inv)))

theorem execMxOpComplete_inv (cl co : Nat) (s : State) {t : State} (hs : Inv s) (e : execMxOpComplete cl co s = .next t) : Inv t :=
  next_inv e (by repeat' (first | (with_reducible assumption) | intro _ | (with_reducible apply doMxComplete_inv)))

theorem execVop_inv (c : CoreSlot) (f : Insn) (s : State) {t : State} (hs : Inv s) (e : execVop c f s = .next t) : Inv t :=
  next_inv e (by repeat' (first | (with_reducible assumption) | intro _ | (with_reducible apply doVop_inv)))

theorem execVopComplete_inv (cl co : Nat) (s : State) {t : State} (hs : Inv s) (e : execVopComplete cl co s = .next t) : Inv t :=
  next_inv e (by repeat' (first | (with_reducible assumption) | intro _ | (with_reducible apply doVopComplete_inv)))

theorem execHomeRead_inv (r : Requester) (addr : Nat) (sectors : BitVec 4) (s : State) {t : State} (hs : Inv s) (e : execHomeRead r addr sectors s = .next t) : Inv t :=
  next_inv e (by repeat' (first | (with_reducible assumption) | intro _ | (with_reducible apply doHomeRead_inv)))

theorem execHomeWrite_inv (r : Requester) (addr : Nat) (enables : BitVec 32) (data : BitVec 256) (s : State) {t : State} (hs : Inv s) (e : execHomeWrite r addr enables data s = .next t) : Inv t :=
  next_inv e (by repeat' (first | (with_reducible assumption) | intro _ | (with_reducible apply doHomeWrite_inv)))

theorem execHomeAtomic_inv (r : Requester) (op : AtOp) (width64 : Bool) (addr : Nat) (operands : List AtOperand) (s : State) {t : State} (hs : Inv s) (e : execHomeAtomic r op width64 addr operands s = .next t) : Inv t :=
  next_inv e (by repeat' (first | (with_reducible assumption) | intro _ | (with_reducible apply doHomeAtomic_inv)))

theorem execHomeDeadHint_inv (_r : Requester) (addr : Nat) (s : State) {t : State} (hs : Inv s) (e : execHomeDeadHint _r addr s = .next t) : Inv t :=
  next_inv e (by repeat' (first | (with_reducible assumption) | intro _ | (with_reducible apply doHomeDead_inv)))

theorem execEvictionWriteback_inv (home : Nat) (s : State) {t : State} (hs : Inv s) (e : execEvictionWriteback home s = .next t) : Inv t :=
  next_inv e (by repeat' (first | (with_reducible assumption) | intro _ | (with_reducible apply doWriteback_inv)))

theorem execSnoopAnswer_inv (home line die : Nat) (s : State) {t : State} (hs : Inv s) (e : execSnoopAnswer home line die s = .next t) : Inv t :=
  next_inv e (by repeat' (first | (with_reducible assumption) | intro _ | (with_reducible apply doSnoopAnswer_inv)))

theorem execCoherenceTimeout_inv (home line : Nat) (s : State) {t : State} (hs : Inv s) (e : execCoherenceTimeout home line s = .next t) : Inv t :=
  next_inv e (by repeat' (first | (with_reducible assumption) | intro _ | (with_reducible apply doCoherenceTimeout_inv)))

theorem execHomeFlushDone_inv (home : Nat) (s : State) {t : State} (hs : Inv s) (e : execHomeFlushDone home s = .next t) : Inv t :=
  next_inv e (by repeat' (first | (with_reducible assumption) | intro _ | (with_reducible apply doHomeFlushDone_inv)))

theorem execL2HalfLoss_inv (home : Nat) (s : State) {t : State} (hs : Inv s) (e : execL2HalfLoss home s = .next t) : Inv t :=
  next_inv e (by repeat' (first | (with_reducible assumption) | intro _ | (with_reducible apply halfLoss_inv)))

theorem execWcbWrite_inv (addr : Nat) (enables : BitVec 32) (data : BitVec 256) (s : State) {t : State} (hs : Inv s) (e : execWcbWrite addr enables data s = .next t) : Inv t :=
  next_inv e (by repeat' (first | (with_reducible assumption) | intro _ | (with_reducible apply doWcbWrite_inv)))

theorem execWcbIdleDrain_inv (stack line : Nat) (s : State) {t : State} (hs : Inv s) (e : execWcbIdleDrain stack line s = .next t) : Inv t :=
  next_inv e (by repeat' (first | (with_reducible assumption) | intro _ | (with_reducible apply doWcbIdleDrain_inv)))

theorem execMemRead_inv (addr : Nat) (err copyErr : WordErr) (ifFails : Nat) (s : State) {t : State} (hs : Inv s) (e : execMemRead addr err copyErr ifFails s = .next t) : Inv t :=
  next_inv e (by repeat' (first | (with_reducible assumption) | intro _ | (with_reducible apply doMemRead_inv)))

theorem execPhyRetrainDone_inv (stack : Nat) (ok : Bool) (s : State) {t : State} (hs : Inv s) (e : execPhyRetrainDone stack ok s = .next t) : Inv t :=
  next_inv e (by repeat' (first | (with_reducible assumption) | intro _ | (with_reducible apply doPhyRetrainDone_inv)))

theorem execRefresh_inv (stack pc bank : Nat) (s : State) {t : State} (hs : Inv s) (e : execRefresh stack pc bank s = .next t) : Inv t :=
  next_inv e (by repeat' (first | (with_reducible assumption) | intro _ | (with_reducible apply doRefresh_inv)))

theorem execTempRead_inv (stack : Nat) (tempC : BitVec 8) (s : State) {t : State} (hs : Inv s) (e : execTempRead stack tempC s = .next t) : Inv t :=
  next_inv e (by repeat' (first | (with_reducible assumption) | intro _ | (with_reducible apply doTempRead_inv)))

theorem execPatrolScrub_inv (stack : Nat) (err copyErr : WordErr) (s : State) {t : State} (hs : Inv s) (e : execPatrolScrub stack err copyErr s = .next t) : Inv t :=
  next_inv e (by repeat' (first | (with_reducible assumption) | intro _ | (with_reducible apply doPatrolScrub_inv)))

theorem execMirrorLineCopy_inv (base : Nat) (s : State) {t : State} (hs : Inv s) (e : execMirrorLineCopy base s = .next t) : Inv t :=
  next_inv e (by repeat' (first | (with_reducible assumption) | intro _ | (with_reducible apply doMirrorLineCopy_inv)))

theorem execSramScrub_inv (word : Nat) (err : WordErr) (s : State) {t : State} (hs : Inv s) (e : execSramScrub word err s = .next t) : Inv t :=
  next_inv e (by repeat' (first | (with_reducible assumption) | intro _ | (with_reducible apply doSramScrub_inv)))

theorem execLinkResend_inv (link lane : Nat) (x : LinkErr) (s : State) {t : State} (hs : Inv s) (e : execLinkResend link lane x s = .next t) : Inv t :=
  next_inv e (by repeat' (first | (with_reducible assumption) | intro _ | (with_reducible apply doLinkResend_inv)))

theorem execLinkTrainingFail_inv (link : Nat) (s : State) {t : State} (hs : Inv s) (e : execLinkTrainingFail link s = .next t) : Inv t :=
  next_inv e (by repeat' (first | (with_reducible assumption) | intro _ | (with_reducible apply linkLoss_inv)))

theorem execSealWrite_inv (ph slot width : Nat) (value : Word) (s : State) {t : State} (hs : Inv s) (e : execSealWrite ph slot width value s = .next t) : Inv t :=
  next_inv e (by repeat' (first | (with_reducible assumption) | intro _ | (with_reducible apply doSealWrite_inv)))

theorem execAccept_inv (ph : Nat) (s : State) {t : State} (hs : Inv s) (e : execAccept ph s = .next t) : Inv t :=
  next_inv e (by repeat' (first | (with_reducible assumption) | intro _ | (with_reducible apply doAccept_inv)))

theorem execDispatch_inv (s : State) {t : State} (hs : Inv s) (e : execDispatch s = .next t) : Inv t :=
  next_inv e (by repeat' (first | (with_reducible assumption) | intro _ | (with_reducible apply doDispatch_inv)))

theorem execAgingPromotion_inv (cmd : Nat) (s : State) {t : State} (hs : Inv s) (e : execAgingPromotion cmd s = .next t) : Inv t :=
  next_inv e (by repeat' (first | (with_reducible assumption) | intro _ | (with_reducible apply doAging_inv)))

theorem execCqCtl_inv (ph width : Nat) (value : Word) (s : State) {t : State} (hs : Inv s) (e : execCqCtl ph width value s = .next t) : Inv t :=
  next_inv e (by repeat' (first | (with_reducible assumption) | intro _ | (with_reducible apply doCqCtl_inv)))

theorem execLockstepMismatch_inv (s : State) {t : State} (hs : Inv s) (e : execLockstepMismatch s = .next t) : Inv t :=
  next_inv e (by repeat' (first | (with_reducible assumption) | intro _ | (with_reducible apply doLockstep_inv)))

theorem execInnkeeperRestartDone_inv (s : State) {t : State} (hs : Inv s) (e : execInnkeeperRestartDone s = .next t) : Inv t :=
  next_inv e (by repeat' (first | (with_reducible assumption) | intro _ | (with_reducible apply doRestartDone_inv)))

theorem execCompletionRecord_inv (cmd : Nat) (s : State) {t : State} (hs : Inv s) (e : execCompletionRecord cmd s = .next t) : Inv t :=
  next_inv e (by repeat' (first | (with_reducible assumption) | intro _ | (with_reducible apply doCompletion_inv)))

theorem execPtpMessage_inv (u : PtpUpdate) (s : State) {t : State} (hs : Inv s) (e : execPtpMessage u s = .next t) : Inv t :=
  next_inv e (by repeat' (first | (with_reducible assumption) | intro _ | (with_reducible apply doPtpMessage_inv)))

theorem execFreerunTimeout_inv (s : State) {t : State} (hs : Inv s) (e : execFreerunTimeout s = .next t) : Inv t :=
  next_inv e (by repeat' (first | (with_reducible assumption) | intro _ | (with_reducible apply doFreerunTimeout_inv)))

theorem execAnnounceTimeout_inv (port : Nat) (s : State) {t : State} (hs : Inv s) (e : execAnnounceTimeout port s = .next t) : Inv t :=
  next_inv e (by repeat' (first | (with_reducible assumption) | intro _ | (with_reducible apply doAnnounceTimeout_inv)))

theorem execErrBoundExceeded_inv (bound : BitVec 16) (s : State) {t : State} (hs : Inv s) (e : execErrBoundExceeded bound s = .next t) : Inv t :=
  next_inv e (by repeat' (first | (with_reducible assumption) | intro _ | (with_reducible apply doErrBound_inv)))

theorem execPpsEdge_inv (offsetNs : Int) (s : State) {t : State} (hs : Inv s) (e : execPpsEdge offsetNs s = .next t) : Inv t :=
  next_inv e (by repeat' (first | (with_reducible assumption) | intro _ | (with_reducible apply doPpsEdge_inv)))

theorem execPpsFallingEdge_inv (highNs : Nat) (s : State) {t : State} (hs : Inv s) (e : execPpsFallingEdge highNs s = .next t) : Inv t :=
  next_inv e (by repeat' (first | (with_reducible assumption) | intro _ | (with_reducible apply doPpsFall_inv)))

theorem execData_inv (p : RelayPkt) (s : State) {t : State} (hs : Inv s) (e : execData p s = .next t) : Inv t :=
  next_inv e (by repeat' (first | (with_reducible assumption) | intro _ | (with_reducible apply doData_inv)))

theorem execAck_inv (p : RelayPkt) (a : AckBody) (s : State) {t : State} (hs : Inv s) (e : execAck p a s = .next t) : Inv t :=
  next_inv e (by repeat' (first | (with_reducible assumption) | intro _ | (with_reducible apply doAck_inv)))

theorem execNak_inv (p : RelayPkt) (code : Nat) (s : State) {t : State} (hs : Inv s) (e : execNak p code s = .next t) : Inv t :=
  next_inv e (by repeat' (first | (with_reducible assumption) | intro _ | (with_reducible apply doNak_inv)))

theorem execRead_inv (p : RelayPkt) (target len : Nat) (s : State) {t : State} (hs : Inv s) (e : execRead p target len s = .next t) : Inv t :=
  next_inv e (by repeat' (first | (with_reducible assumption) | intro _ | (with_reducible apply doRead_inv)))

theorem execReadResp_inv (p : RelayPkt) (s : State) {t : State} (hs : Inv s) (e : execReadResp p s = .next t) : Inv t :=
  next_inv e (by repeat' (first | (with_reducible assumption) | intro _ | (with_reducible apply doReadResp_inv)))

theorem execRtoExpiry_inv (conn psn : Nat) (s : State) {t : State} (hs : Inv s) (e : execRtoExpiry conn psn s = .next t) : Inv t :=
  next_inv e (by repeat' (first | (with_reducible assumption) | intro _ | (with_reducible apply doRto_inv)))

theorem execAckTimer_inv (conn : Nat) (s : State) {t : State} (hs : Inv s) (e : execAckTimer conn s = .next t) : Inv t :=
  next_inv e (by repeat' (first | (with_reducible assumption) | intro _ | (with_reducible apply doAckTimer_inv)))

theorem execRdmaWrite_inv (p : RocePkt) (s : State) {t : State} (hs : Inv s) (e : execRdmaWrite p s = .next t) : Inv t :=
  next_inv e (by repeat' (first | (with_reducible assumption) | intro _ | (with_reducible apply doRdmaWrite_inv)))

theorem execRdmaWriteWithImmediate_inv (p : RocePkt) (s : State) {t : State} (hs : Inv s) (e : execRdmaWriteWithImmediate p s = .next t) : Inv t :=
  next_inv e (by repeat' (first | (with_reducible assumption) | intro _ | (with_reducible apply doRdmaWrite_inv)))

theorem execRdmaReadRequest_inv (p : RocePkt) (s : State) {t : State} (hs : Inv s) (e : execRdmaReadRequest p s = .next t) : Inv t :=
  next_inv e (by repeat' (first | (with_reducible assumption) | intro _ | (with_reducible apply doRdmaRead_inv)))

theorem execRdmaReadResponse_inv (p : RocePkt) (s : State) {t : State} (hs : Inv s) (e : execRdmaReadResponse p s = .next t) : Inv t :=
  next_inv e (by repeat' (first | (with_reducible assumption) | intro _ | (with_reducible apply doRdmaReadResp_inv)))

theorem execAcknowledgement_inv (p : RocePkt) (a : RoceAck) (s : State) {t : State} (hs : Inv s) (e : execAcknowledgement p a s = .next t) : Inv t :=
  next_inv e (by repeat' (first | (with_reducible assumption) | intro _ | (with_reducible apply doRoceAck_inv)))

theorem execCnp_inv (qpn : BitVec 24) (port : Nat) (s : State) {t : State} (hs : Inv s) (e : execCnp qpn port s = .next t) : Inv t :=
  next_inv e (by repeat' (first | (with_reducible assumption) | intro _ | (with_reducible apply doCnp_inv)))

theorem execLocalAckTimeout_inv (guest : Nat) (s : State) {t : State} (hs : Inv s) (e : execLocalAckTimeout guest s = .next t) : Inv t :=
  next_inv e (by repeat' (first | (with_reducible assumption) | intro _ | (with_reducible apply goBack_inv)))

theorem execRateIncrease_inv (guest : Nat) (s : State) {t : State} (hs : Inv s) (e : execRateIncrease guest s = .next t) : Inv t :=
  next_inv e (by repeat' (first | (with_reducible assumption) | intro _ | (with_reducible apply doRateIncrease_inv)))

theorem execTransportTimeout_inv (guest : Nat) (s : State) {t : State} (hs : Inv s) (e : execTransportTimeout guest s = .next t) : Inv t :=
  next_inv e (by repeat' (first | (with_reducible assumption) | intro _ | (with_reducible apply doTransportTimeout_inv)))

theorem execPortLinkDown_inv (port : Nat) (s : State) {t : State} (hs : Inv s) (e : execPortLinkDown port s = .next t) : Inv t :=
  next_inv e (by repeat' (first | (with_reducible assumption) | intro _ | (with_reducible apply doPortDown_inv)))

theorem execPortRetrainDone_inv (port : Nat) (s : State) {t : State} (hs : Inv s) (e : execPortRetrainDone port s = .next t) : Inv t :=
  next_inv e (by repeat' (first | (with_reducible assumption) | intro _ | (with_reducible apply doPortUp_inv)))

theorem execArp_inv (port : Nat) (ip : BitVec 32) (s : State) {t : State} (hs : Inv s) (e : execArp port ip s = .next t) : Inv t :=
  next_inv e (by repeat' (first | (with_reducible assumption) | intro _ | (with_reducible apply doArp_inv)))

theorem execNeighborDiscovery_inv (port : Nat) (ip : BitVec 128) (s : State) {t : State} (hs : Inv s) (e : execNeighborDiscovery port ip s = .next t) : Inv t :=
  next_inv e (by repeat' (first | (with_reducible assumption) | intro _ | (with_reducible apply doNd_inv)))

theorem execIcmpEcho_inv (port : Nat) (ip : BitVec 128) (payload : List Byte) (s : State) {t : State} (hs : Inv s) (e : execIcmpEcho port ip payload s = .next t) : Inv t :=
  next_inv e (by repeat' (first | (with_reducible assumption) | intro _ | (with_reducible apply doIcmp_inv)))

theorem execPfcFrame_inv (port prio : Nat) (pause : Bool) (s : State) {t : State} (hs : Inv s) (e : execPfcFrame port prio pause s = .next t) : Inv t :=
  next_inv e (by repeat' (first | (with_reducible assumption) | intro _ | (with_reducible apply doPfc_inv)))

theorem execUnusedFrame_inv (port : Nat) (s : State) {t : State} (hs : Inv s) (e : execUnusedFrame port s = .next t) : Inv t :=
  next_inv e (by repeat' (first | (with_reducible assumption) | intro _ | (with_reducible apply doUnused_inv)))

theorem execFlit_inv (f : PacelFlit) (s : State) {t : State} (hs : Inv s) (e : execFlit f s = .next t) : Inv t :=
  next_inv e (by repeat' (first | (with_reducible assumption) | intro _ | (with_reducible apply doFlit_inv)))

theorem execUnsupportedOpcode_inv (port : Nat) (src : BitVec 128) (q : QpPsn) (s : State) {t : State} (hs : Inv s) (e : execUnsupportedOpcode port src q s = .next t) : Inv t :=
  next_inv e (by repeat' (first | (with_reducible assumption) | intro _ | (with_reducible apply doUnsupportedOp_inv)))

theorem execHello_inv (m : CtrlMsg) (s : State) {t : State} (hs : Inv s) (e : execHello m s = .next t) : Inv t :=
  next_inv e (by repeat' (first | (with_reducible assumption) | intro _ | (with_reducible apply doHello_inv)))

theorem execPrepare_inv (m : CtrlMsg) (s : State) {t : State} (hs : Inv s) (e : execPrepare m s = .next t) : Inv t :=
  next_inv e (by repeat' (first | (with_reducible assumption) | intro _ | (with_reducible apply doPrepare_inv)))

theorem execPrepAck_inv (m : CtrlMsg) (s : State) {t : State} (hs : Inv s) (e : execPrepAck m s = .next t) : Inv t :=
  next_inv e (by repeat' (first | (with_reducible assumption) | intro _ | (with_reducible apply doPrepAck_inv)))

theorem execConfirm_inv (m : CtrlMsg) (s : State) {t : State} (hs : Inv s) (e : execConfirm m s = .next t) : Inv t :=
  next_inv e (by repeat' (first | (with_reducible assumption) | intro _ | (with_reducible apply doConfirm_inv)))

theorem execAbandon_inv (m : CtrlMsg) (s : State) {t : State} (hs : Inv s) (e : execAbandon m s = .next t) : Inv t :=
  next_inv e (by repeat' (first | (with_reducible assumption) | intro _ | (with_reducible apply doAbandon_inv)))

theorem execRollback_inv (m : CtrlMsg) (s : State) {t : State} (hs : Inv s) (e : execRollback m s = .next t) : Inv t :=
  next_inv e (by repeat' (first | (with_reducible assumption) | intro _ | (with_reducible apply doRollback_inv)))

theorem execRollbackAck_inv (m : CtrlMsg) (s : State) {t : State} (hs : Inv s) (e : execRollbackAck m s = .next t) : Inv t :=
  next_inv e (by repeat' (first | (with_reducible assumption) | intro _ | (with_reducible apply doRollbackAck_inv)))

theorem execRestart_inv (m : CtrlMsg) (s : State) {t : State} (hs : Inv s) (e : execRestart m s = .next t) : Inv t :=
  next_inv e (by repeat' (first | (with_reducible assumption) | intro _ | (with_reducible apply doRestart_inv)))

theorem execAckWaitExpiry_inv (job : BitVec 64) (s : State) {t : State} (hs : Inv s) (e : execAckWaitExpiry job s = .next t) : Inv t :=
  next_inv e (by repeat' (first | (with_reducible assumption) | intro _ | (with_reducible apply doAckWait_inv)))

theorem execChunk_inv (porter : Nat) (x : ChunkErr) (s : State) {t : State} (hs : Inv s) (e : execChunk porter x s = .next t) : Inv t :=
  next_inv e (by repeat' (first | (with_reducible assumption) | intro _ | (with_reducible apply doChunk_inv)))

theorem execDescriptorComplete_inv (porter : Nat) (leg : Bool) (index : Nat) (s : State) {t : State} (hs : Inv s) (e : execDescriptorComplete porter leg index s = .next t) : Inv t :=
  next_inv e (by repeat' (first | (with_reducible assumption) | intro _ | (with_reducible apply doDescComplete_inv)))

theorem execLaunch_inv (itin entry : Nat) (s : State) {t : State} (hs : Inv s) (e : execLaunch itin entry s = .next t) : Inv t :=
  next_inv e (by repeat' (first | (with_reducible assumption) | intro _ | (with_reducible apply doLaunch_inv)))

theorem execMove_inv (itin entry : Nat) (s : State) {t : State} (hs : Inv s) (e : execMove itin entry s = .next t) : Inv t :=
  next_inv e (by repeat' (first | (with_reducible assumption) | intro _ | (with_reducible apply doMove_inv)))

theorem execSend_inv (itin entry : Nat) (s : State) {t : State} (hs : Inv s) (e : execSend itin entry s = .next t) : Inv t :=
  next_inv e (by repeat' (first | (with_reducible assumption) | intro _ | (with_reducible apply doSend_inv)))

theorem execRecv_inv (itin entry : Nat) (s : State) {t : State} (hs : Inv s) (e : execRecv itin entry s = .next t) : Inv t :=
  next_inv e (by repeat' (first | (with_reducible assumption) | intro _ | (with_reducible apply doRecv_inv)))

theorem execDeviceIdent_inv (cmd : Nat) (s : State) {t : State} (hs : Inv s) (e : execDeviceIdent cmd s = .next t) : Inv t :=
  next_inv e (by repeat' (first | (with_reducible assumption) | intro _ | (with_reducible apply doDeviceIdent_inv)))

theorem execDeviceCaps_inv (cmd : Nat) (s : State) {t : State} (hs : Inv s) (e : execDeviceCaps cmd s = .next t) : Inv t :=
  next_inv e (by repeat' (first | (with_reducible assumption) | intro _ | (with_reducible apply doDeviceCaps_inv)))

theorem execClusterOffline_inv (cmd : Nat) (s : State) {t : State} (hs : Inv s) (e : execClusterOffline cmd s = .next t) : Inv t :=
  next_inv e (by repeat' (first | (with_reducible assumption) | intro _ | (with_reducible apply doClusterOffline_inv)))

theorem execTimeStatus_inv (cmd : Nat) (s : State) {t : State} (hs : Inv s) (e : execTimeStatus cmd s = .next t) : Inv t :=
  next_inv e (by repeat' (first | (with_reducible assumption) | intro _ | (with_reducible apply doTimeStatus_inv)))

theorem execStageConfig_inv (cmd : Nat) (s : State) {t : State} (hs : Inv s) (e : execStageConfig cmd s = .next t) : Inv t :=
  next_inv e (by repeat' (first | (with_reducible assumption) | intro _ | (with_reducible apply doStageConfig_inv)))

theorem execStgCfgNextApply_inv (value : Word) (s : State) {t : State} (hs : Inv s) (e : execStgCfgNextApply value s = .next t) : Inv t :=
  next_inv e (by repeat' (first | (with_reducible assumption) | intro _ | (with_reducible apply doCfgNextApply_inv)))

theorem execStgEventsClr_inv (value : Word) (s : State) {t : State} (hs : Inv s) (e : execStgEventsClr value s = .next t) : Inv t :=
  next_inv e (by repeat' (first | (with_reducible assumption) | intro _ | (with_reducible apply doEventsClr_inv)))

theorem execOffline_inv (cluster : Nat) (value : Word) (s : State) {t : State} (hs : Inv s) (e : execOffline cluster value s = .next t) : Inv t :=
  next_inv e (by repeat' (first | (with_reducible assumption) | intro _ | (with_reducible apply doOffline_inv)))

theorem execItineraryLoad_inv (cmd : Nat) (s : State) {t : State} (hs : Inv s) (e : execItineraryLoad cmd s = .next t) : Inv t :=
  next_inv e (by repeat' (first | (with_reducible assumption) | intro _ | (with_reducible apply doItineraryLoad_inv)))

theorem execItineraryEvict_inv (cmd : Nat) (s : State) {t : State} (hs : Inv s) (e : execItineraryEvict cmd s = .next t) : Inv t :=
  next_inv e (by repeat' (first | (with_reducible assumption) | intro _ | (with_reducible apply doItineraryEvict_inv)))

theorem execItineraryQuery_inv (cmd : Nat) (s : State) {t : State} (hs : Inv s) (e : execItineraryQuery cmd s = .next t) : Inv t :=
  next_inv e (by repeat' (first | (with_reducible assumption) | intro _ | (with_reducible apply doItineraryQuery_inv)))

theorem execStageBind_inv (cmd : Nat) (s : State) {t : State} (hs : Inv s) (e : execStageBind cmd s = .next t) : Inv t :=
  next_inv e (by repeat' (first | (with_reducible assumption) | intro _ | (with_reducible apply doStageBind_inv)))

theorem execStageUnbind_inv (cmd : Nat) (s : State) {t : State} (hs : Inv s) (e : execStageUnbind cmd s = .next t) : Inv t :=
  next_inv e (by repeat' (first | (with_reducible assumption) | intro _ | (with_reducible apply doStageUnbind_inv)))

theorem execJobPrepare_inv (cmd : Nat) (s : State) {t : State} (hs : Inv s) (e : execJobPrepare cmd s = .next t) : Inv t :=
  next_inv e (by repeat' (first | (with_reducible assumption) | intro _ | (with_reducible apply doJobPrepare_inv)))

theorem execJobConfirm_inv (cmd : Nat) (s : State) {t : State} (hs : Inv s) (e : execJobConfirm cmd s = .next t) : Inv t :=
  next_inv e (by repeat' (first | (with_reducible assumption) | intro _ | (with_reducible apply doJobConfirm_inv)))

theorem execJobStop_inv (cmd : Nat) (s : State) {t : State} (hs : Inv s) (e : execJobStop cmd s = .next t) : Inv t :=
  next_inv e (by repeat' (first | (with_reducible assumption) | intro _ | (with_reducible apply doJobStop_inv)))

theorem execJobAwait_inv (cmd : Nat) (s : State) {t : State} (hs : Inv s) (e : execJobAwait cmd s = .next t) : Inv t :=
  next_inv e (by repeat' (first | (with_reducible assumption) | intro _ | (with_reducible apply doJobAwait_inv)))

theorem execJobStatus_inv (cmd : Nat) (s : State) {t : State} (hs : Inv s) (e : execJobStatus cmd s = .next t) : Inv t :=
  next_inv e (by repeat' (first | (with_reducible assumption) | intro _ | (with_reducible apply doJobStatus_inv)))

theorem execRegionMap_inv (cmd : Nat) (s : State) {t : State} (hs : Inv s) (e : execRegionMap cmd s = .next t) : Inv t :=
  next_inv e (by repeat' (first | (with_reducible assumption) | intro _ | (with_reducible apply doRegionMap_inv)))

theorem execRegionUnmap_inv (cmd : Nat) (s : State) {t : State} (hs : Inv s) (e : execRegionUnmap cmd s = .next t) : Inv t :=
  next_inv e (by repeat' (first | (with_reducible assumption) | intro _ | (with_reducible apply doRegionUnmap_inv)))

theorem execRegionSeal_inv (cmd : Nat) (s : State) {t : State} (hs : Inv s) (e : execRegionSeal cmd s = .next t) : Inv t :=
  next_inv e (by repeat' (first | (with_reducible assumption) | intro _ | (with_reducible apply doRegionSeal_inv)))

theorem execRegionMirror_inv (cmd : Nat) (s : State) {t : State} (hs : Inv s) (e : execRegionMirror cmd s = .next t) : Inv t :=
  next_inv e (by repeat' (first | (with_reducible assumption) | intro _ | (with_reducible apply doRegionMirror_inv)))

theorem execRegionPin_inv (cmd : Nat) (s : State) {t : State} (hs : Inv s) (e : execRegionPin cmd s = .next t) : Inv t :=
  next_inv e (by repeat' (first | (with_reducible assumption) | intro _ | (with_reducible apply doRegionPin_inv)))

theorem execRegionUnpin_inv (cmd : Nat) (s : State) {t : State} (hs : Inv s) (e : execRegionUnpin cmd s = .next t) : Inv t :=
  next_inv e (by repeat' (first | (with_reducible assumption) | intro _ | (with_reducible apply doRegionUnpin_inv)))

theorem execRegionQuery_inv (cmd : Nat) (s : State) {t : State} (hs : Inv s) (e : execRegionQuery cmd s = .next t) : Inv t :=
  next_inv e (by repeat' (first | (with_reducible assumption) | intro _ | (with_reducible apply doRegionQuery_inv)))

theorem execPorterCopy_inv (cmd : Nat) (s : State) {t : State} (hs : Inv s) (e : execPorterCopy cmd s = .next t) : Inv t :=
  next_inv e (by repeat' (first | (with_reducible assumption) | intro _ | (with_reducible apply doPorterCopy_inv)))

theorem execPorterFill_inv (cmd : Nat) (s : State) {t : State} (hs : Inv s) (e : execPorterFill cmd s = .next t) : Inv t :=
  next_inv e (by repeat' (first | (with_reducible assumption) | intro _ | (with_reducible apply doPorterFill_inv)))

theorem execPorterPush_inv (cmd : Nat) (s : State) {t : State} (hs : Inv s) (e : execPorterPush cmd s = .next t) : Inv t :=
  next_inv e (by repeat' (first | (with_reducible assumption) | intro _ | (with_reducible apply doPorterPush_inv)))

theorem execPorterPull_inv (cmd : Nat) (s : State) {t : State} (hs : Inv s) (e : execPorterPull cmd s = .next t) : Inv t :=
  next_inv e (by repeat' (first | (with_reducible assumption) | intro _ | (with_reducible apply doPorterPull_inv)))

theorem execGuestOpen_inv (cmd : Nat) (s : State) {t : State} (hs : Inv s) (e : execGuestOpen cmd s = .next t) : Inv t :=
  next_inv e (by repeat' (first | (with_reducible assumption) | intro _ | (with_reducible apply doGuestOpen_inv)))

theorem execGuestClose_inv (cmd : Nat) (s : State) {t : State} (hs : Inv s) (e : execGuestClose cmd s = .next t) : Inv t :=
  next_inv e (by repeat' (first | (with_reducible assumption) | intro _ | (with_reducible apply doGuestClose_inv)))

theorem execGuestWindow_inv (cmd : Nat) (s : State) {t : State} (hs : Inv s) (e : execGuestWindow cmd s = .next t) : Inv t :=
  next_inv e (by repeat' (first | (with_reducible assumption) | intro _ | (with_reducible apply doGuestWindow_inv)))

theorem execPowerCap_inv (cmd : Nat) (s : State) {t : State} (hs : Inv s) (e : execPowerCap cmd s = .next t) : Inv t :=
  next_inv e (by repeat' (first | (with_reducible assumption) | intro _ | (with_reducible apply doPowerCap_inv)))

theorem execCoolantTarget_inv (cmd : Nat) (s : State) {t : State} (hs : Inv s) (e : execCoolantTarget cmd s = .next t) : Inv t :=
  next_inv e (by repeat' (first | (with_reducible assumption) | intro _ | (with_reducible apply doCoolantTarget_inv)))

theorem execEnergyRead_inv (cmd : Nat) (s : State) {t : State} (hs : Inv s) (e : execEnergyRead cmd s = .next t) : Inv t :=
  next_inv e (by repeat' (first | (with_reducible assumption) | intro _ | (with_reducible apply doEnergyRead_inv)))

theorem execLedgerRead_inv (cmd : Nat) (s : State) {t : State} (hs : Inv s) (e : execLedgerRead cmd s = .next t) : Inv t :=
  next_inv e (by repeat' (first | (with_reducible assumption) | intro _ | (with_reducible apply doLedgerRead_inv)))

theorem execFaultRead_inv (cmd : Nat) (s : State) {t : State} (hs : Inv s) (e : execFaultRead cmd s = .next t) : Inv t :=
  next_inv e (by repeat' (first | (with_reducible assumption) | intro _ | (with_reducible apply doFaultRead_inv)))

theorem execFwStage_inv (cmd : Nat) (s : State) {t : State} (hs : Inv s) (e : execFwStage cmd s = .next t) : Inv t :=
  next_inv e (by repeat' (first | (with_reducible assumption) | intro _ | (with_reducible apply doFwStage_inv)))

theorem execFwCommit_inv (cmd : Nat) (s : State) {t : State} (hs : Inv s) (e : execFwCommit cmd s = .next t) : Inv t :=
  next_inv e (by repeat' (first | (with_reducible assumption) | intro _ | (with_reducible apply doFwCommit_inv)))

theorem execFwStatus_inv (cmd : Nat) (s : State) {t : State} (hs : Inv s) (e : execFwStatus cmd s = .next t) : Inv t :=
  next_inv e (by repeat' (first | (with_reducible assumption) | intro _ | (with_reducible apply doFwStatus_inv)))

theorem execAttestQuote_inv (cmd : Nat) (s : State) {t : State} (hs : Inv s) (e : execAttestQuote cmd s = .next t) : Inv t :=
  next_inv e (by repeat' (first | (with_reducible assumption) | intro _ | (with_reducible apply doAttestQuote_inv)))

theorem execBell_inv (s : State) {t : State} (hs : Inv s) (e : execBell s = .next t) : Inv t :=
  next_inv e (by repeat' (first | (with_reducible assumption) | intro _ | (with_reducible apply doBell_inv)))

theorem execCommitWindowOpen_inv (s : State) {t : State} (hs : Inv s) (e : execCommitWindowOpen s = .next t) : Inv t :=
  next_inv e (by repeat' (first | (with_reducible assumption) | intro _ | (with_reducible apply doWindow_inv)))

theorem execWatchdogFault_inv (itin : Nat) (s : State) {t : State} (hs : Inv s) (e : execWatchdogFault itin s = .next t) : Inv t :=
  next_inv e (by repeat' (first | (with_reducible assumption) | intro _ | (with_reducible apply doWatchdog_inv)))

theorem execRegisterWrite_inv (addr : Nat) (value : Word) (s : State) {t : State} (hs : Inv s) (e : execRegisterWrite addr value s = .next t) : Inv t :=
  next_inv e (by repeat' (first | (with_reducible assumption) | intro _ | (with_reducible apply doRegisterWrite_inv)))

theorem execHartAccess_inv (a : HartAccess) (s : State) {t : State} (hs : Inv s) (e : execHartAccess a s = .next t) : Inv t :=
  next_inv e (by repeat' (first | (with_reducible assumption) | intro _ | (with_reducible apply doHartAccess_inv)))

theorem execMxctlRestart_inv (hart : Nat) (s : State) {t : State} (hs : Inv s) (e : execMxctlRestart hart s = .next t) : Inv t :=
  next_inv e (by repeat' (first | (with_reducible assumption) | intro _ | (with_reducible apply doMxctlRestart_inv)))

theorem execMxfreqWrite_inv (hart : Nat) (value : Word) (s : State) {t : State} (hs : Inv s) (e : execMxfreqWrite hart value s = .next t) : Inv t :=
  next_inv e (by repeat' (first | (with_reducible assumption) | intro _ | (with_reducible apply doMxfreqWrite_inv)))

theorem execFreqChangeDone_inv (die : Nat) (s : State) {t : State} (hs : Inv s) (e : execFreqChangeDone die s = .next t) : Inv t :=
  next_inv e (by repeat' (first | (with_reducible assumption) | intro _ | (with_reducible apply doFreqDone_inv)))

theorem execThrottleEvaluation_inv (t : Telemetry) (s : State) {u : State} (hs : Inv s) (e : execThrottleEvaluation t s = .next u) : Inv u :=
  next_inv e (by repeat' (first | (with_reducible assumption) | intro _ | (with_reducible apply doThrottle_inv)))

theorem execTelemLost_inv (s : State) {t : State} (hs : Inv s) (e : execTelemLost s = .next t) : Inv t :=
  next_inv e (by repeat' (first | (with_reducible assumption) | intro _ | (with_reducible apply doTelemLost_inv)))

theorem execCapUnmet_inv (s : State) {t : State} (hs : Inv s) (e : execCapUnmet s = .next t) : Inv t :=
  next_inv e (by repeat' (first | (with_reducible assumption) | intro _ | (with_reducible apply doCapUnmet_inv)))

theorem execValveEvaluation_inv (r : CoolReadings) (s : State) {t : State} (hs : Inv s) (e : execValveEvaluation r s = .next t) : Inv t :=
  next_inv e (by repeat' (first | (with_reducible assumption) | intro _ | (with_reducible apply doValve_inv)))

theorem execWarningTimer_inv (w : Warning) (s : State) {t : State} (hs : Inv s) (e : execWarningTimer w s = .next t) : Inv t :=
  next_inv e (by repeat' (first | (with_reducible assumption) | intro _ | (with_reducible apply doWarning_inv)))

theorem execCriticalTrip_inv (x : TripSensor) (s : State) {t : State} (hs : Inv s) (e : execCriticalTrip x s = .next t) : Inv t :=
  next_inv e (by repeat' (first | (with_reducible assumption) | intro _ | (with_reducible apply doTrip_inv)))

theorem execPowerDomainFault_inv (f : DomFault) (s : State) {t : State} (hs : Inv s) (e : execPowerDomainFault f s = .next t) : Inv t :=
  next_inv e (by repeat' (first | (with_reducible assumption) | intro _ | (with_reducible apply doDomainFault_inv)))

theorem execClusterHalfPowerOff_inv (half : Nat) (s : State) {t : State} (hs : Inv s) (e : execClusterHalfPowerOff half s = .next t) : Inv t :=
  next_inv e (by repeat' (first | (with_reducible assumption) | intro _ | (with_reducible apply doHalfOff_inv)))

theorem execClusterHalfPowerOn_inv (half : Nat) (s : State) {t : State} (hs : Inv s) (e : execClusterHalfPowerOn half s = .next t) : Inv t :=
  next_inv e (by repeat' (first | (with_reducible assumption) | intro _ | (with_reducible apply doHalfOn_inv)))

theorem execPwrEnRise_inv (s : State) {t : State} (hs : Inv s) (e : execPwrEnRise s = .next t) : Inv t :=
  next_inv e (by repeat' (first | (with_reducible assumption) | intro _ | (with_reducible apply doPwrEnRise_inv)))

theorem execPwrEnHoldoff_inv (s : State) {t : State} (hs : Inv s) (e : execPwrEnHoldoff s = .next t) : Inv t :=
  next_inv e (by repeat' (first | (with_reducible assumption) | intro _ | (with_reducible apply doHoldoff_inv)))

theorem execPwrGood_inv (s : State) {t : State} (hs : Inv s) (e : execPwrGood s = .next t) : Inv t :=
  next_inv e (by repeat' (first | (with_reducible assumption) | intro _ | (with_reducible apply doPwrGood_inv)))

theorem execPowerGoodTimeout_inv (s : State) {t : State} (hs : Inv s) (e : execPowerGoodTimeout s = .next t) : Inv t :=
  next_inv e (by repeat' (first | (with_reducible assumption) | intro _ | (with_reducible apply doPgTimeout_inv)))

theorem execReleaseInstant_inv (slotId : Nat) (s : State) {t : State} (hs : Inv s) (e : execReleaseInstant slotId s = .next t) : Inv t :=
  next_inv e (by repeat' (first | (with_reducible assumption) | intro _ | (with_reducible apply doRelease_inv)))

theorem execInnkeeperReady_inv (s : State) {t : State} (hs : Inv s) (e : execInnkeeperReady s = .next t) : Inv t :=
  next_inv e (by repeat' (first | (with_reducible assumption) | intro _ | (with_reducible apply doInnkReady_inv)))

theorem execInnkReadyTimeout_inv (s : State) {t : State} (hs : Inv s) (e : execInnkReadyTimeout s = .next t) : Inv t :=
  next_inv e (by repeat' (first | (with_reducible assumption) | intro _ | (with_reducible apply doInnkTimeout_inv)))

theorem execPwrEnFall_inv (s : State) {t : State} (hs : Inv s) (e : execPwrEnFall s = .next t) : Inv t :=
  next_inv e (by repeat' (first | (with_reducible assumption) | intro _ | (with_reducible apply doPwrEnFall_inv)))

theorem execModuleReset_inv (lowNs : Nat) (s : State) {t : State} (hs : Inv s) (e : execModuleReset lowNs s = .next t) : Inv t :=
  next_inv e (by repeat' (first | (with_reducible assumption) | intro _ | (with_reducible apply doModuleReset_inv)))

theorem execVinShutdown_inv (vinMv durNs : Nat) (s : State) {t : State} (hs : Inv s) (e : execVinShutdown vinMv durNs s = .next t) : Inv t :=
  next_inv e (by repeat' (first | (with_reducible assumption) | intro _ | (with_reducible apply doVinShutdown_inv)))

theorem execCurrentLimit_inv (durNs : Nat) (s : State) {t : State} (hs : Inv s) (e : execCurrentLimit durNs s = .next t) : Inv t :=
  next_inv e (by repeat' (first | (with_reducible assumption) | intro _ | (with_reducible apply doCurrentLimit_inv)))

theorem execRefclkLoss_inv (durNs : Nat) (s : State) {t : State} (hs : Inv s) (e : execRefclkLoss durNs s = .next t) : Inv t :=
  next_inv e (by repeat' (first | (with_reducible assumption) | intro _ | (with_reducible apply doRefclkLoss_inv)))

theorem execEntdaa_inv (addr : BitVec 7) (s : State) {t : State} (hs : Inv s) (e : execEntdaa addr s = .next t) : Inv t :=
  next_inv e (by repeat' (first | (with_reducible assumption) | intro _ | (with_reducible apply takeAddr_inv)))

theorem execSetdasa_inv (st addr : BitVec 7) (s : State) {t : State} (hs : Inv s) (e : execSetdasa st addr s = .next t) : Inv t :=
  next_inv e (by repeat' (first | (with_reducible assumption) | intro _ | (with_reducible apply doSetdasa_inv)))

theorem execSetnewda_inv (addr : BitVec 7) (s : State) {t : State} (hs : Inv s) (e : execSetnewda addr s = .next t) : Inv t :=
  next_inv e (by repeat' (first | (with_reducible assumption) | intro _ | (with_reducible apply doSetnewda_inv)))

theorem execRstdaa_inv (s : State) {t : State} (hs : Inv s) (e : execRstdaa s = .next t) : Inv t :=
  next_inv e (by repeat' (first | (with_reducible assumption) | intro _ | (with_reducible apply doRstdaa_inv)))

theorem execEnec_inv (s : State) {t : State} (hs : Inv s) (e : execEnec s = .next t) : Inv t :=
  next_inv e (by repeat' (first | (with_reducible assumption) | intro _ | (with_reducible apply setIbi_inv)))

theorem execDisec_inv (s : State) {t : State} (hs : Inv s) (e : execDisec s = .next t) : Inv t :=
  next_inv e (by repeat' (first | (with_reducible assumption) | intro _ | (with_reducible apply setIbi_inv)))

theorem execGetpid_inv (s : State) {t : State} (hs : Inv s) (e : execGetpid s = .next t) : Inv t :=
  next_inv e (by repeat' (first | (with_reducible assumption) | intro _ | (with_reducible apply answer_inv) | (with_reducible apply onBus_inv)))

theorem execGetbcr_inv (s : State) {t : State} (hs : Inv s) (e : execGetbcr s = .next t) : Inv t :=
  next_inv e (by repeat' (first | (with_reducible assumption) | intro _ | (with_reducible apply answer_inv) | (with_reducible apply onBus_inv)))

theorem execGetdcr_inv (s : State) {t : State} (hs : Inv s) (e : execGetdcr s = .next t) : Inv t :=
  next_inv e (by repeat' (first | (with_reducible assumption) | intro _ | (with_reducible apply answer_inv) | (with_reducible apply onBus_inv)))

theorem execGetstatus_inv (s : State) {t : State} (hs : Inv s) (e : execGetstatus s = .next t) : Inv t :=
  next_inv e (by repeat' (first | (with_reducible assumption) | intro _ | (with_reducible apply doGetstatus_inv)))

theorem execGetmrl_inv (s : State) {t : State} (hs : Inv s) (e : execGetmrl s = .next t) : Inv t :=
  next_inv e (by repeat' (first | (with_reducible assumption) | intro _ | (with_reducible apply answer_inv) | (with_reducible apply onBus_inv)))

theorem execGetmwl_inv (s : State) {t : State} (hs : Inv s) (e : execGetmwl s = .next t) : Inv t :=
  next_inv e (by repeat' (first | (with_reducible assumption) | intro _ | (with_reducible apply answer_inv) | (with_reducible apply onBus_inv)))

theorem execSetmrl_inv (n : Nat) (s : State) {t : State} (hs : Inv s) (e : execSetmrl n s = .next t) : Inv t :=
  next_inv e (by repeat' (first | (with_reducible assumption) | intro _ | (with_reducible apply setLen_inv)))

theorem execSetmwl_inv (n : Nat) (s : State) {t : State} (hs : Inv s) (e : execSetmwl n s = .next t) : Inv t :=
  next_inv e (by repeat' (first | (with_reducible assumption) | intro _ | (with_reducible apply setLen_inv)))

theorem execSetEndpointId_inv (eid : Byte) (s : State) {t : State} (hs : Inv s) (e : execSetEndpointId eid s = .next t) : Inv t :=
  next_inv e (by repeat' (first | (with_reducible assumption) | intro _ | (with_reducible apply doSetEid_inv)))

theorem execGetEndpointId_inv (s : State) {t : State} (hs : Inv s) (e : execGetEndpointId s = .next t) : Inv t :=
  next_inv e (by repeat' (first | (with_reducible assumption) | intro _ | (with_reducible apply answer_inv) | (with_reducible apply onBus_inv)))

theorem execGetEndpointUuid_inv (s : State) {t : State} (hs : Inv s) (e : execGetEndpointUuid s = .next t) : Inv t :=
  next_inv e (by repeat' (first | (with_reducible assumption) | intro _ | (with_reducible apply answer_inv) | (with_reducible apply onBus_inv)))

theorem execGetMctpVersionSupport_inv (s : State) {t : State} (hs : Inv s) (e : execGetMctpVersionSupport s = .next t) : Inv t :=
  next_inv e (by repeat' (first | (with_reducible assumption) | intro _ | (with_reducible apply doMctpVersion_inv)))

theorem execGetMessageTypeSupport_inv (s : State) {t : State} (hs : Inv s) (e : execGetMessageTypeSupport s = .next t) : Inv t :=
  next_inv e (by repeat' (first | (with_reducible assumption) | intro _ | (with_reducible apply answer_inv) | (with_reducible apply onBus_inv)))

theorem execMessageDropped_inv (_a : Arrival) (s : State) {t : State} (hs : Inv s) (e : execMessageDropped _a s = .next t) : Inv t :=
  next_inv e (by repeat' (first | (with_reducible assumption) | intro _ | (with_reducible apply doDropped_inv)))

theorem execGetTid_inv (s : State) {t : State} (hs : Inv s) (e : execGetTid s = .next t) : Inv t :=
  next_inv e (by repeat' (first | (with_reducible assumption) | intro _ | (with_reducible apply answer_inv) | (with_reducible apply pldm_inv)))

theorem execSetTid_inv (tid : Byte) (s : State) {t : State} (hs : Inv s) (e : execSetTid tid s = .next t) : Inv t :=
  next_inv e (by repeat' (first | (with_reducible assumption) | intro _ | (with_reducible apply doSetTid_inv)))

theorem execGetPldmTypes_inv (s : State) {t : State} (hs : Inv s) (e : execGetPldmTypes s = .next t) : Inv t :=
  next_inv e (by repeat' (first | (with_reducible assumption) | intro _ | (with_reducible apply answer_inv) | (with_reducible apply pldm_inv)))

theorem execGetPldmCommands_inv (type : Nat) (s : State) {t : State} (hs : Inv s) (e : execGetPldmCommands type s = .next t) : Inv t :=
  next_inv e (by repeat' (first | (with_reducible assumption) | intro _ | (with_reducible apply doPldmCommands_inv)))

theorem execGetPldmVersion_inv (type : Nat) (s : State) {t : State} (hs : Inv s) (e : execGetPldmVersion type s = .next t) : Inv t :=
  next_inv e (by repeat' (first | (with_reducible assumption) | intro _ | (with_reducible apply doPldmVersion_inv)))

theorem execSetEventReceiver_inv (eid : Byte) (s : State) {t : State} (hs : Inv s) (e : execSetEventReceiver eid s = .next t) : Inv t :=
  next_inv e (by repeat' (first | (with_reducible assumption) | intro _ | (with_reducible apply doSetReceiver_inv)))

theorem execGetPdrRepositoryInfo_inv (s : State) {t : State} (hs : Inv s) (e : execGetPdrRepositoryInfo s = .next t) : Inv t :=
  next_inv e (by repeat' (first | (with_reducible assumption) | intro _ | (with_reducible apply answer_inv) | (with_reducible apply pldm_inv)))

theorem execGetPdr_inv (record : Nat) (s : State) {t : State} (hs : Inv s) (e : execGetPdr record s = .next t) : Inv t :=
  next_inv e (by repeat' (first | (with_reducible assumption) | intro _ | (with_reducible apply doGetPdr_inv)))

theorem execGetSensorReading_inv (sensor : Nat) (s : State) {t : State} (hs : Inv s) (e : execGetSensorReading sensor s = .next t) : Inv t :=
  next_inv e (by repeat' (first | (with_reducible assumption) | intro _ | (with_reducible apply doSensor_inv)))

theorem execGetStateSensorReadings_inv (sensor : Nat) (s : State) {t : State} (hs : Inv s) (e : execGetStateSensorReadings sensor s = .next t) : Inv t :=
  next_inv e (by repeat' (first | (with_reducible assumption) | intro _ | (with_reducible apply doStateSensor_inv)))

theorem execQueryDeviceIdentifiers_inv (s : State) {t : State} (hs : Inv s) (e : execQueryDeviceIdentifiers s = .next t) : Inv t :=
  next_inv e (by repeat' (first | (with_reducible assumption) | intro _ | (with_reducible apply answer_inv) | (with_reducible apply pldm_inv)))

theorem execGetFirmwareParameters_inv (s : State) {t : State} (hs : Inv s) (e : execGetFirmwareParameters s = .next t) : Inv t :=
  next_inv e (by repeat' (first | (with_reducible assumption) | intro _ | (with_reducible apply doFwParams_inv)))

theorem execRequestUpdate_inv (s : State) {t : State} (hs : Inv s) (e : execRequestUpdate s = .next t) : Inv t :=
  next_inv e (by repeat' (first | (with_reducible assumption) | intro _ | (with_reducible apply doRequestUpdate_inv)))

theorem execPassComponentTable_inv (component : Nat) (s : State) {t : State} (hs : Inv s) (e : execPassComponentTable component s = .next t) : Inv t :=
  next_inv e (by repeat' (first | (with_reducible assumption) | intro _ | (with_reducible apply doPassTable_inv)))

theorem execUpdateComponent_inv (u : UpdateReq) (s : State) {t : State} (hs : Inv s) (e : execUpdateComponent u s = .next t) : Inv t :=
  next_inv e (by repeat' (first | (with_reducible assumption) | intro _ | (with_reducible apply doUpdateComponent_inv)))

theorem execFirmwareData_inv (offset : Nat) (bytes : List Byte) (s : State) {t : State} (hs : Inv s) (e : execFirmwareData offset bytes s = .next t) : Inv t :=
  next_inv e (by repeat' (first | (with_reducible assumption) | intro _ | (with_reducible apply doFirmwareData_inv)))

theorem execTransferComplete_inv (ok : Bool) (s : State) {t : State} (hs : Inv s) (e : execTransferComplete ok s = .next t) : Inv t :=
  next_inv e (by repeat' (first | (with_reducible assumption) | intro _ | (with_reducible apply doTransferComplete_inv)))

theorem execVerifyComplete_inv (s : State) {t : State} (hs : Inv s) (e : execVerifyComplete s = .next t) : Inv t :=
  next_inv e (by repeat' (first | (with_reducible assumption) | intro _ | (with_reducible apply doVerifyComplete_inv)))

theorem execApplyComplete_inv (s : State) {t : State} (hs : Inv s) (e : execApplyComplete s = .next t) : Inv t :=
  next_inv e (by repeat' (first | (with_reducible assumption) | intro _ | (with_reducible apply doApplyComplete_inv)))

theorem execActivateFirmware_inv (s : State) {t : State} (hs : Inv s) (e : execActivateFirmware s = .next t) : Inv t :=
  next_inv e (by repeat' (first | (with_reducible assumption) | intro _ | (with_reducible apply doActivate_inv)))

theorem execPldmGetStatus_inv (s : State) {t : State} (hs : Inv s) (e : execPldmGetStatus s = .next t) : Inv t :=
  next_inv e (by repeat' (first | (with_reducible assumption) | intro _ | (with_reducible apply doUpdateStatus_inv)))

theorem execCancelUpdateComponent_inv (s : State) {t : State} (hs : Inv s) (e : execCancelUpdateComponent s = .next t) : Inv t :=
  next_inv e (by repeat' (first | (with_reducible assumption) | intro _ | (with_reducible apply doCancelComponent_inv)))

theorem execCancelUpdate_inv (s : State) {t : State} (hs : Inv s) (e : execCancelUpdate s = .next t) : Inv t :=
  next_inv e (by repeat' (first | (with_reducible assumption) | intro _ | (with_reducible apply doCancelUpdate_inv)))

theorem execUpdateModeTimeout_inv (s : State) {t : State} (hs : Inv s) (e : execUpdateModeTimeout s = .next t) : Inv t :=
  next_inv e (by repeat' (first | (with_reducible assumption) | intro _ | (with_reducible apply doUpdateTimeout_inv)))

theorem execGetVersion_inv (s : State) {t : State} (hs : Inv s) (e : execGetVersion s = .next t) : Inv t :=
  next_inv e (by repeat' (first | (with_reducible assumption) | intro _ | (with_reducible apply answer_inv) | (with_reducible apply spdm_inv)))

theorem execGetCapabilities_inv (s : State) {t : State} (hs : Inv s) (e : execGetCapabilities s = .next t) : Inv t :=
  next_inv e (by repeat' (first | (with_reducible assumption) | intro _ | (with_reducible apply doCapabilities_inv)))

theorem execNegotiateAlgorithms_inv (baseAsym baseHash : Nat) (s : State) {t : State} (hs : Inv s) (e : execNegotiateAlgorithms baseAsym baseHash s = .next t) : Inv t :=
  next_inv e (by repeat' (first | (with_reducible assumption) | intro _ | (with_reducible apply doNegotiate_inv)))

theorem execGetDigests_inv (s : State) {t : State} (hs : Inv s) (e : execGetDigests s = .next t) : Inv t :=
  next_inv e (by repeat' (first | (with_reducible assumption) | intro _ | (with_reducible apply answer_inv) | (with_reducible apply spdm_inv)))

theorem execGetCertificate_inv (slot offset length : Nat) (s : State) {t : State} (hs : Inv s) (e : execGetCertificate slot offset length s = .next t) : Inv t :=
  next_inv e (by repeat' (first | (with_reducible assumption) | intro _ | (with_reducible apply doCertificate_inv)))

theorem execChallenge_inv (slot : Nat) (nonce : BitVec 256) (s : State) {t : State} (hs : Inv s) (e : execChallenge slot nonce s = .next t) : Inv t :=
  next_inv e (by repeat' (first | (with_reducible assumption) | intro _ | (with_reducible apply doChallenge_inv)))

theorem execGetMeasurements_inv (index : Nat) (nonce : Option (BitVec 256)) (s : State) {t : State} (hs : Inv s) (e : execGetMeasurements index nonce s = .next t) : Inv t :=
  next_inv e (by repeat' (first | (with_reducible assumption) | intro _ | (with_reducible apply doMeasurements_inv)))

theorem execPlatformEventRetry_inv (s : State) {t : State} (hs : Inv s) (e : execPlatformEventRetry s = .next t) : Inv t :=
  next_inv e (by repeat' (first | (with_reducible assumption) | intro _ | (with_reducible apply doEventRetry_inv)))

theorem execPlatformEventAcknowledged_inv (s : State) {t : State} (hs : Inv s) (e : execPlatformEventAcknowledged s = .next t) : Inv t :=
  next_inv e (by repeat' (first | (with_reducible assumption) | intro _ | (with_reducible apply doEventAck_inv)))

theorem execUnsupportedRequest_inv (u : Unsupported) (s : State) {t : State} (hs : Inv s) (e : execUnsupportedRequest u s = .next t) : Inv t :=
  next_inv e (by repeat' (first | (with_reducible assumption) | intro _ | (with_reducible apply doUnsupported_inv)))

theorem execRegRead_inv (addr : Nat) (s : State) {t : State} (hs : Inv s) (e : execRegRead addr s = .next t) : Inv t :=
  next_inv e (by repeat' (first | (with_reducible assumption) | intro _ | (with_reducible apply doRegRead_inv)))

theorem execSidebandFaultRead_inv (seq count : Nat) (s : State) {t : State} (hs : Inv s) (e : execSidebandFaultRead seq count s = .next t) : Inv t :=
  next_inv e (by repeat' (first | (with_reducible assumption) | intro _ | (with_reducible apply doSbFaultRead_inv)))

theorem execCfgSet_inv (addr : Nat) (value : Word) (persist : Bool) (s : State) {t : State} (hs : Inv s) (e : execCfgSet addr value persist s = .next t) : Inv t :=
  next_inv e (by repeat' (first | (with_reducible assumption) | intro _ | (with_reducible apply doCfgSet_inv)))

theorem execDbgUnlock_inv (t : DbgToken) (s : State) {u : State} (hs : Inv s) (e : execDbgUnlock t s = .next u) : Inv u :=
  next_inv e (by repeat' (first | (with_reducible assumption) | intro _ | (with_reducible apply doUnlock_inv)))

theorem execDmi_inv (target : Nat) (write : Bool) (addr data : BitVec 32) (s : State) {t : State} (hs : Inv s) (e : execDmi target write addr data s = .next t) : Inv t :=
  next_inv e (by repeat' (first | (with_reducible assumption) | intro _ | (with_reducible apply doDmi_inv)))

theorem execClHalt_inv (cluster : Nat) (halt : Bool) (s : State) {t : State} (hs : Inv s) (e : execClHalt cluster halt s = .next t) : Inv t :=
  next_inv e (by repeat' (first | (with_reducible assumption) | intro _ | (with_reducible apply doClHalt_inv)))

theorem execDbgRead_inv (space cluster addr len : Nat) (s : State) {t : State} (hs : Inv s) (e : execDbgRead space cluster addr len s = .next t) : Inv t :=
  next_inv e (by repeat' (first | (with_reducible assumption) | intro _ | (with_reducible apply doDbgRead_inv)))

theorem execFuse_inv (r : FuseReq) (s : State) {t : State} (hs : Inv s) (e : execFuse r s = .next t) : Inv t :=
  next_inv e (by repeat' (first | (with_reducible assumption) | intro _ | (with_reducible apply doFuse_inv)))

end Sys2Proof.Machine
end

