-- ==== Sys2Proof/Laws/Threads.lean ====
section
/-! SUPPORT. What issuing instructions do to the threads of their group: several registers written, branches, exceptions. -/

namespace Sys2Proof.Machine

/-- The threads of a mask. -/
theorem mem_maskThreads (m : BitVec 32) (t : Nat) : t ∈ maskThreads m ↔ m.getLsbD t = true := by
  simp only [maskThreads, threads32, List.mem_filter, List.mem_range]
  constructor
  · exact fun h => h.2
  · intro h; refine ⟨?_, h⟩; by_contra hn; rw [BitVec.getLsbD_of_ge _ _ (Nat.le_of_not_lt hn)] at h; cases h

/-- No thread of a group faults. -/
theorem groupFault_none {ts : List Nat} {fault : Nat → Option (Nat × Word)} (h : ∀ t ∈ ts, fault t = none) : groupFault ts fault = none := by
  unfold groupFault
  have : ts.findSome? fault = none := by rw [List.findSome?_eq_none_iff]; exact h
  rw [this]; rfl

/-- Consecutive registers written in a row. -/
theorem reg_writeFold (c : Caravan) (d regs : Nat) (v : Nat → Nat → Option (BitVec 32)) (t n : Nat) (ht : t < 32) :
    ((List.range regs).foldl (fun c k => Caravan.writeReg (d + k) (fun t => v t k) c) c).reg t n =
      if d ≤ n ∧ n < d + regs then (v t (n - d)).getD (c.reg t n) else c.reg t n := by
  induction regs with
  | zero => simp
  | succ r ih =>
    rw [List.range_succ, List.foldl_append, List.foldl_cons, List.foldl_nil, reg_writeReg _ _ _ _ _ ht, ih]
    by_cases h : n = d + r
    · subst h; simp
    · by_cases h2 : d ≤ n ∧ n < d + r
      · have : d ≤ n ∧ n < d + (r + 1) := by omega
        simp [h, h2]; omega
      · have : ¬ (d ≤ n ∧ n < d + (r + 1)) := by omega
        rw [if_neg h, if_neg h2, if_neg this]

theorem threads_writeFold (c : Caravan) (d regs : Nat) (v : Nat → Nat → Option (BitVec 32)) :
    ((List.range regs).foldl (fun c k => Caravan.writeReg (d + k) (fun t => v t k) c) c).threads = c.threads := by
  induction regs with
  | zero => rfl
  | succ r ih => rw [List.range_succ, List.foldl_append, List.foldl_cons, List.foldl_nil, threads_writeReg, ih]

/-- A result of several registers written to the executing threads, and the group advanced: what it leaves. -/
theorem advance_putWide {c : CoreSlot} {f : Insn} {u u' : Nat} {s t0 : State} {i : Issue} (h : issueAt c f u s = .go i t0) (regs : Nat) (v : Nat → BitVec 128) :
    OnlyCaravan c s (advance i u' (putWide i regs v t0)) ∧ SamePreds c s (advance i u' (putWide i regs v t0)) ∧ Advanced i s (advance i u' (putWide i regs v t0)) ∧
    ∀ th n, th < 32 → regIn (advance i u' (putWide i regs v t0)) c th n =
      if i.exe.getLsbD th = true ∧ f.dst.toNat < 0x80 ∧ f.dst.toNat ≤ n ∧ n < f.dst.toNat + regs then (v th).extractLsb' (32 * (n - f.dst.toNat)) 32 else regIn s c th n := by
  have hf := (issueAt_go h).2.1
  have hs := (issueAt_go h).2.2.1
  unfold putWide
  rw [hf]
  by_cases hd : f.dst.toNat < 0x80
  · rw [if_pos hd]
    let w : Nat → Nat → Option (BitVec 32) := fun t k => if i.exe.getLsbD t then some ((v t).extractLsb' (32 * k) 32) else none
    obtain ⟨a, b, d, e⟩ := advance_after (u' := u') h ((List.range regs).foldl (fun c k => Caravan.writeReg (f.dst.toNat + k) (fun t => w t k) c) i.car)
      ((onlyCaravan_go h).trans (onlyCaravan_modCaravan c (fun k => (List.range regs).foldl (fun c k => Caravan.writeReg (f.dst.toNat + k) (fun t => w t k) c) k) t0))
      (by rw [caravanIn_modCaravan, caravanIn_go h]; rfl) (by rw [threads_writeFold]) (fun th => by unfold Caravan.thread; rw [threads_writeFold]; exact ⟨rfl, rfl⟩)
    rw [(issueAt_go h).1]
    refine ⟨a, ?_, b, ?_⟩
    · intro th p; refine (e th p).trans ?_; simp only [predIn, hs, Caravan.predOf, Caravan.thread, threads_writeFold]
    · intro th n hth; refine (d th n).trans ?_
      rw [reg_writeFold _ _ _ _ _ _ hth]
      simp only [regIn, hs, hd, true_and, w]
      by_cases hx : i.exe.getLsbD th = true <;> simp [hx]
  · rw [if_neg hd]
    obtain ⟨a, b, d, e⟩ := advance_after (u' := u') h i.car (onlyCaravan_go h) (caravanIn_go h) rfl (fun _ => ⟨rfl, rfl⟩)
    refine ⟨a, ?_, b, ?_⟩
    · intro th p; rw [e]; simp only [predIn, hs]
    · intro th n hth; rw [d]; simp only [regIn, hs, hd, false_and, and_false, if_false]

/-- A core that issues is not halted. -/
theorem halted_go {c : CoreSlot} {f : Insn} {u : Nat} {s t : State} {i : Issue} (h : issueAt c f u s = .go i t) :
    (getCore s c.cluster c.core).halted = false ∧ (getCore t c.cluster c.core).halted = false := by
  have hc := (issueAt_go h).2.2.2.2.2.2.2.2.1
  have h1 : (getCore s c.cluster c.core).halted = false := by
    unfold coreIssues at hc; simp at hc; exact hc.2
  refine ⟨h1, ?_⟩
  obtain ⟨-, -, -, -, -, -, -, rfl | rfl, -⟩ := issueAt_go h
  · exact h1
  · exact h1

/-- Cores that differ in slots and in the slot that issued last only. -/
theorem core_upto_slots (a b : Core) (h : { a with slots := b.slots, last := b.last } = b) :
    a.halted = b.halted ∧ a.exc = b.exc ∧ a.excPc = b.excPc ∧ a.excAddr = b.excAddr ∧ a.tie = b.tie := by
  cases a; cases b; simp_all

/-- An exception of an issuing instruction leaves what Excepts says. -/
theorem excepts_go {c : CoreSlot} {f : Insn} {u : Nat} {s t0 : State} {i : Issue} (h : issueAt c f u s = .go i t0) (cause : Nat) (ths : BitVec 32) (addr : Word) (own : Bool)
    (ha : cause = cIllegalInsn ∨ cause = cIllegalReg ∨ cause = cSplit ∨ cause = cTrap → addr = 0#64) :
    Excepts c i.pc cause ths addr s (exc i cause ths addr own t0) := by
  have base : Excepts c i.pc cause ths addr s (raiseExc c.cluster c.core c.slot i.car.itin cause i.pc ths addr own t0) ∧
      (getCore (raiseExc c.cluster c.core c.slot i.car.itin cause i.pc ths addr own t0) c.cluster c.core).slots = (getCore s c.cluster c.core).slots := by
    have := raiseExc_excepts c i.car.itin cause i.pc ths addr own t0 (halted_go h).2 ha
    obtain ⟨-, -, -, -, -, -, -, rfl | rfl, -⟩ := issueAt_go h
    · exact this
    · exact ⟨⟨this.1.1, this.1.2, this.1.3, this.1.4, this.1.5, this.1.6, this.1.7, this.1.8, this.1.9, this.1.10⟩, this.2⟩
  unfold exc
  rw [(issueAt_go h).1]
  simp only
  generalize raiseExc c.cluster c.core c.slot i.car.itin cause i.pc ths addr own t0 = t at base ⊢
  split
  · rename_i hp
    simp only [Bool.and_eq_true, beq_iff_eq] at hp
    have oc : OnlyCaravan c t (advance i i.unit t) := (issueAt_go h).1 ▸ onlyCaravan_advance i i.unit t
    have hcar : caravanIn t c = some i.car := by
      refine Eq.trans ?_ (issueAt_go h).2.2.1
      unfold caravanIn Core.slot; rw [base.2]
    have hcore := oc.core
    obtain ⟨g, e, hg⟩ := advance_car i i.unit t
    rw [(issueAt_go h).1, hcar] at e
    have e' : caravanIn (advance i i.unit t) c = some (g i.car) := e
    have hthr : ∀ th, ((g i.car).thread th).preds = (i.car.thread th).preds := by
      intro th
      unfold Caravan.thread
      rw [(hg _).1]
      by_cases hl : th < i.car.threads.length
      · have := thread_modThreads i.act (fun t => { t with pc := i.pc + 8#40 }) i.car th hl
        unfold Caravan.thread at this
        rw [this]; split <;> rfl
      · have := thread_mapIdx_ge (fun k x => if i.act.getLsbD k then { x with pc := i.pc + 8#40 } else x) i.car th (Nat.le_of_not_lt hl)
        unfold Caravan.thread at this
        exact congrArg Thread.preds this
    have hs := (issueAt_go h).2.2.1
    obtain ⟨k1, k2, k3, k4, k5⟩ := core_upto_slots _ _ hcore
    refine ⟨k1.trans base.1.halted, ?_, ?_, fun k hk => (oc.slots k hk).trans (base.1.slots k hk), ?_, ?_, ?_, base.1.mem, base.1.regions, base.1.fault⟩
    · rw [k2, k3, k4]; exact base.1.first
    · rw [k2, k3, k4]; exact base.1.later
    · intro th n _; simp only [regIn, e', hs, Caravan.reg, (hg _).2.1]
    · intro th p; simp only [predIn, e', hs, Caravan.predOf, hthr]
    · intro ht; rw [k5] at ht; exact absurd hp.2 ht
  · exact base.1

theorem sorted_maskThreads (m : BitVec 32) : (maskThreads m).Pairwise (· < ·) :=
  List.pairwise_lt_range.filter _

/-- The lowest faulting thread gives the cause and the address. -/
theorem groupFault_some {m : BitVec 32} {fault : Nat → Option (Nat × Word)} {th cause : Nat} {a : Word} (hth : m.getLsbD th = true)
    (hf : fault th = some (cause, a)) (hl : ∀ u, u < th → m.getLsbD u = true → fault u = none) :
    ∃ k, groupFault (maskThreads m) fault = some (cause, a, k) ∧ k.getLsbD th = true := by
  have key : (maskThreads m).findSome? fault = some (cause, a) := by
    rw [List.findSome?_eq_some_iff]
    have hmem := (mem_maskThreads m th).2 hth
    obtain ⟨l1, l2, e⟩ := List.append_of_mem hmem
    refine ⟨l1, th, l2, e, hf, ?_⟩
    intro x hx
    have hs := sorted_maskThreads m
    rw [e, List.pairwise_append] at hs
    refine hl x (hs.2.2 x hx th (List.mem_cons_self ..)) ((mem_maskThreads m x).1 ?_)
    rw [e]; exact List.mem_append_left _ hx
  unfold groupFault
  rw [key]
  refine ⟨_, rfl, ?_⟩
  rw [getLsbD_threadMask]
  have h32 : th < 32 := by by_contra hn; rw [BitVec.getLsbD_of_ge _ _ (Nat.le_of_not_lt hn)] at hth; cases hth
  simp [h32, hf, (mem_maskThreads m th).2 hth]

/-- An instruction without effect only advances its group. -/
theorem adv_only {c : CoreSlot} {f : Insn} {u u' : Nat} {s t0 : State} {i : Issue} (h : issueAt c f u s = .go i t0) :
    OnlyCaravan c s (advance i u' t0) ∧ SameRegs c s (advance i u' t0) ∧ SamePreds c s (advance i u' t0) ∧ Advanced i s (advance i u' t0) := by
  have hs := (issueAt_go h).2.2.1
  obtain ⟨a, b, d, e⟩ := advance_after (u' := u') h i.car (onlyCaravan_go h) (caravanIn_go h) rfl (fun _ => ⟨rfl, rfl⟩)
  refine ⟨a, ?_, ?_, b⟩
  · intro th n hth; rw [d]; simp only [regIn, hs]
  · intro th p; rw [e]; simp only [predIn, hs]

/-- A fetch outside the code region. -/
theorem issueAt_outside {c : CoreSlot} {f : Insn} {u : Nat} {s : State} {pc : BitVec 40} {act : BitVec 32} {a : Nat} (h : issueAt c f u s = .outside pc act a) :
    coreIssues s c.cluster c.core = true ∧ ∃ car, (getCore s c.cluster c.core).slot c.slot = some car := by
  unfold issueAt at h
  split at h
  · cases h
  · rename_i hc
    unfold issueGroup at h
    split at h
    · cases h
    · rename_i car hcar; exact ⟨by simpa using hc, car, hcar⟩

/-- Threads sent to targets of their own: what it leaves. -/
theorem branch_obs {c : CoreSlot} {f : Insn} {u : Nat} {s t0 t1 : State} {i : Issue} (h : issueAt c f u s = .go i t0) (k : Caravan)
    (ho : OnlyCaravan c s t1) (hk : caravanIn t1 c = some k) (hth : k.threads = i.car.threads) (target : Nat → BitVec 40) :
    OnlyCaravan c s (branch i target t1) ∧ SamePreds c s (branch i target t1) ∧
    (∀ th, pcIn (branch i target t1) c th = if i.exe.getLsbD th then target th else if i.act.getLsbD th then i.pc + 8#40 else pcIn s c th) ∧
    (∀ th n, regIn (branch i target t1) c th n = k.reg th n) := by
  have hat := (issueAt_go h).1
  have hs := (issueAt_go h).2.2.1
  have hlen : k.threads.length = i.car.threads.length := by rw [hth]
  have htk : ∀ th, k.thread th = i.car.thread th := fun th => by unfold Caravan.thread; rw [hth]
  have e : caravanIn (branch i target t1) c = some { k with pair := none, threads := k.threads.mapIdx (fun t x =>
      if i.exe.getLsbD t then { x with pc := target t } else if i.act.getLsbD t then { x with pc := i.pc + 8#40 } else x) } := by
    unfold branch; rw [hat, caravanIn_issuedLast, caravanIn_modCaravan, hk]; rfl
  have hthr : ∀ th, Caravan.thread { k with pair := none, threads := k.threads.mapIdx (fun t x =>
      if i.exe.getLsbD t then { x with pc := target t } else if i.act.getLsbD t then { x with pc := i.pc + 8#40 } else x) } th =
      if i.exe.getLsbD th then { i.car.thread th with pc := target th } else if i.act.getLsbD th then { i.car.thread th with pc := i.pc + 8#40 } else i.car.thread th := by
    intro th
    by_cases hl : th < k.threads.length
    · rw [← htk]; exact thread_mapIdx _ _ _ hl
    · have ha : ¬ i.act.getLsbD th = true := fun ha => hl (hlen ▸ (act_mem h ha).2.1)
      have hx : ¬ i.exe.getLsbD th = true := fun hx => ha (exe_act h hx)
      rw [if_neg hx, if_neg ha, ← htk]
      exact thread_mapIdx_ge _ _ _ (Nat.le_of_not_lt hl)
  refine ⟨?_, ?_, ?_, ?_⟩
  · refine ho.trans ?_; unfold branch; rw [hat]; exact (onlyCaravan_modCaravan _ _ _).trans (onlyCaravan_issuedLast _ _)
  · intro th p; simp only [predIn, e, hs, Caravan.predOf, hthr]; split
    · rfl
    · split <;> rfl
  · intro th; simp only [pcIn, e, hs, hthr]; split
    · rfl
    · split <;> rfl
  · intro th n; simp only [regIn, e]; rfl

/-- Issuing changes no cluster. -/
theorem cluster_go {c : CoreSlot} {f : Insn} {u : Nat} {s t : State} {i : Issue} (h : issueAt c f u s = .go i t) (n : Nat) : getCluster t n = getCluster s n := by
  obtain ⟨-, -, -, -, -, -, -, rfl | rfl, -⟩ := issueAt_go h <;> rfl

end Sys2Proof.Machine
end

