-- ==== Sys2Proof/WellFormed.lean ====
section
/-! DEFINITION. Which commands name something that exists on some variant of the part: each operand that numbers a unit lies in the range the
spec gives that unit, and a bus message of the sideband keeps the length the part accepts. A meaning is total on ill-formed commands too. -/

namespace Sys2Proof

/-- What a command can be ill formed in. -/
inductive Ill where
  | cluster | core | caravanSlot | itinerary | home | stack | bank | link | pigeonhole | sealSlot | width | port | priority | guest
  | opcode | porter | hart | die | address | register | powerDomain | half | requester | sensor
deriving DecidableEq, Repr

/-- The check fails where the condition does not hold. -/
def failIf (bad : Bool) (e : Ill) : List Ill := if bad then [e] else []

/-- A cluster identifier: die [9:8], half [7], index [6:0] below 96 (R58, R59). -/
def illCluster (c : Nat) : List Ill := failIf (decide (1024 ≤ c) || decide (96 ≤ c % 128)) .cluster

/-- A core of a cluster (R58). -/
def illCore (c k : Nat) : List Ill := illCluster c ++ failIf (decide (8 ≤ k)) .core

/-- A caravan slot of a core (R58). -/
def illSlot (c : CoreSlot) : List Ill := illCore c.cluster c.core ++ failIf (decide (16 ≤ c.slot)) .caravanSlot

/-- An instruction of a caravan slot carries the class and operation code of its row, or a reserved one (R84, R85). -/
def illInsn (c : CoreSlot) (f : Insn) (cls opc : Nat) : List Ill :=
  illSlot c ++ failIf (!(f.cls.toNat == cls && f.opc.toNat == opc) && !f.reserved) .opcode

/-- An itinerary slot: the 4,096 of R354. -/
def illItin (n : Nat) : List Ill := failIf (decide (4096 ≤ n)) .itinerary

/-- A memory stack, and the L2 half at its side (R201, R232). -/
def illStack (n : Nat) : List Ill := failIf (decide (8 ≤ n)) .stack
def illHome (n : Nat) : List Ill := failIf (decide (8 ≤ n)) .home

/-- An address of the 52-bit address space (R5). -/
def illAddr (a : Nat) : List Ill := failIf (decide (2 ^ 52 ≤ a)) .address

/-- A register lies at a multiple of 8 of that space. -/
def illReg (a : Nat) : List Ill := illAddr a ++ failIf (a % 8 != 0) .register

/-- A pigeonhole: 64 of the runtime and 16,384 of guests (R308, R315). -/
def illPh (n : Nat) : List Ill := failIf (decide (16448 ≤ n)) .pigeonhole

/-- The width of a write: 1, 2, 4 or 8 bytes (R314). -/
def illWidth (n : Nat) : List Ill := failIf (!(n == 1 || n == 2 || n == 4 || n == 8)) .width

/-- A network port (R377). -/
def illPort (n : Nat) : List Ill := failIf (decide (8 ≤ n)) .port

/-- A guest number of 14 bits (R423). -/
def illGuest (n : Nat) : List Ill := failIf (decide (16384 ≤ n)) .guest

/-- A porter (R423) and a hart (R443). -/
def illPorter (n : Nat) : List Ill := failIf (decide (16 ≤ n)) .porter
def illHart (n : Nat) : List Ill := failIf (decide (96 ≤ n)) .hart

/-- Who asks a home (R216, R218). -/
def illRequester : Requester → List Ill
  | .core c k => illCore c k
  | .porter n => illPorter n
  | .px d => failIf (decide (2 ≤ d)) .requester
  | _ => []

/-- Everything in which a command is ill formed. -/
def Instr.ill : Instr → List Ill
  | .watchdogFault k => illItin k
  | .launch k _ => illItin k | .move k _ => illItin k | .send k _ => illItin k | .recv k _ => illItin k
  | .ptpMessage u => illPort u.port
  | .announceTimeout p => illPort p
  | .offline c _ => illCluster c
  | .registerWrite a _ => illReg a
  | .intAdd c f => illInsn c f 0 0 | .intSub c f => illInsn c f 0 1 | .intMul c f => illInsn c f 0 2 | .intMulh c f => illInsn c f 0 3
  | .intMad c f => illInsn c f 0 4 | .intAnd c f => illInsn c f 0 8 | .intOr c f => illInsn c f 0 9 | .intXor c f => illInsn c f 0 10
  | .intShl c f => illInsn c f 0 12 | .intShr c f => illInsn c f 0 13 | .intSar c f => illInsn c f 0 14 | .intMin c f => illInsn c f 0 16
  | .intMax c f => illInsn c f 0 17 | .sel c f => illInsn c f 0 18 | .cmp c f => illInsn c f 0 20 | .mov c f => illInsn c f 0 24
  | .popc c f => illInsn c f 0 25 | .clz c f => illInsn c f 0 26 | .ld c f => illInsn c f 1 0 | .st c f => illInsn c f 1 1
  | .dead c f => illInsn c f 1 4 | .atAdd c f => illInsn c f 2 0 | .fadd32 c f => illInsn c f 2 1 | .atMin c f => illInsn c f 2 2
  | .atMax c f => illInsn c f 2 3 | .atAnd c f => illInsn c f 2 4 | .atOr c f => illInsn c f 2 5 | .atXor c f => illInsn c f 2 6
  | .xchg c f => illInsn c f 2 7 | .cas c f => illInsn c f 2 8 | .cpyIn c f => illInsn c f 3 0 | .nop c f => illInsn c f 4 0
  | .bra c f => illInsn c f 4 1 | .brx c f => illInsn c f 4 2 | .exit c f => illInsn c f 4 4 | .waitc c f => illInsn c f 4 5
  | .arv c f => illInsn c f 4 6 | .trap c f => illInsn c f 4 7 | .shfl c f => illInsn c f 5 0 | .vote c f => illInsn c f 5 1
  | .ballot c f => illInsn c f 5 2 | .mma c f => illInsn c f 6 0 | .mld c f => illInsn c f 6 1 | .mrd c f => illInsn c f 6 2
  | .vop c f => illInsn c f 7 0 | .splitTimeout c => illSlot c
  | .copyDelivery c _ _ => illCluster c
  | .l1MissFill c k => illCore c k | .mxOpComplete c k => illCore c k | .vopComplete c k => illCore c k
  | .homeRead r a _ => illRequester r ++ illAddr a
  | .homeWrite r a _ _ => illRequester r ++ illAddr a
  | .homeAtomic r _ _ a _ => illRequester r ++ illAddr a
  | .homeDeadHint r a => illRequester r ++ illAddr a
  | .evictionWriteback h => illHome h
  | .snoopAnswer h _ d => illHome h ++ failIf (decide (2 ≤ d)) .die
  | .coherenceTimeout h _ => illHome h
  | .homeFlushDone h => illHome h
  | .wcbWrite a _ _ => illAddr a
  | .wcbIdleDrain n _ => illStack n
  | .memRead a _ _ _ => illAddr a
  | .phyRetrainDone n _ => illStack n
  | .refresh n pc b => illStack n ++ failIf (decide (64 ≤ pc) || decide (64 ≤ b)) .bank
  | .tempRead n _ => illStack n
  | .patrolScrub n _ _ => illStack n
  | .mirrorLineCopy a => illAddr a
  | .linkResend n _ _ => failIf (decide (8 ≤ n)) .link
  | .linkTrainingFail n => failIf (decide (8 ≤ n)) .link
  | .sealWrite n k w _ => illPh n ++ failIf (decide (256 ≤ k)) .sealSlot ++ illWidth w
  | .accept n => illPh n
  | .cqCtl n w _ => illPh n ++ illWidth w
  | .data p => illPort p.port | .ack p _ => illPort p.port | .nak p _ => illPort p.port
  | .read p _ _ => illPort p.port | .readResp p => illPort p.port
  | .hello m => illPort m.port | .prepare m => illPort m.port | .prepAck m => illPort m.port | .confirm m => illPort m.port
  | .abandon m => illPort m.port | .rollback m => illPort m.port | .rollbackAck m => illPort m.port | .restart m => illPort m.port
  | .rdmaWrite p => illPort p.port | .rdmaWriteWithImmediate p => illPort p.port | .rdmaReadRequest p => illPort p.port
  | .rdmaReadResponse p => illPort p.port | .acknowledgement p _ => illPort p.port
  | .cnp _ p => illPort p
  | .localAckTimeout g => illGuest g | .rateIncrease g => illGuest g | .transportTimeout g => illGuest g
  | .portLinkDown p => illPort p | .portRetrainDone p => illPort p | .arp p _ => illPort p
  | .neighborDiscovery p _ => illPort p | .icmpEcho p _ _ => illPort p
  | .pfcFrame p n _ => illPort p ++ failIf (decide (8 ≤ n)) .priority
  | .unusedFrame p => illPort p
  | .chunk n _ => illPorter n | .descriptorComplete n _ _ => illPorter n
  | .hartAccess a => illHart a.hart ++ illAddr a.pa
  | .mxctlRestart h => illHart h | .mxfreqWrite h _ => illHart h
  | .freqChangeDone d => failIf (decide (2 ≤ d)) .die
  | .criticalTrip (.junction d _) => failIf (decide (7 ≤ d)) .die
  | .powerDomainFault f => failIf (decide (30 ≤ f.pwd)) .powerDomain
  | .clusterHalfPowerOff h => failIf (decide (8 ≤ h)) .half
  | .clusterHalfPowerOn h => failIf (decide (8 ≤ h)) .half
  | .getSensorReading n => failIf (decide (65536 ≤ n)) .sensor
  | .getStateSensorReadings n => failIf (decide (65536 ≤ n)) .sensor
  | .regRead a => illReg a
  | .cfgSet a _ _ => illReg a
  | .clHalt c _ => illCluster c
  | .l2HalfLoss h => illHome h
  | .unsupportedOpcode p _ _ => illPort p
  | _ => []

/-- The command is well formed. -/
def Instr.wf (i : Instr) : Bool := i.ill.isEmpty

end Sys2Proof
end

