-- ==== Sys2Proof/Tests/Slice0.lean ====
section
/-! SUPPORT. Tests: each check of WellFormed refuses an ill-formed command, and for each statement small states and operands that meet the
hypotheses of each of its clauses together. -/

open Sys2Proof Sys2Proof.Machine

namespace Sys2Proof.Tests

-- one theorem after the other: each waits for the kernel, and many waiting at once would need many threads
set_option Elab.async false

-- what issuing answers, for the tests

def issues (c : CoreSlot) (f : Insn) (u : Nat) (s : State) : Bool := match issueAt c f u s with | .go _ _ => true | _ => false
def issueOf (c : CoreSlot) (f : Insn) (u : Nat) (s : State) : Issue :=
  match issueAt c f u s with
  | .go i _ => i
  | _ => { at_ := c, f := f, car := { itin := 0, launch := 0, cvn := 0, ncvn := 0, regGran := 0, argw := [], threads := [] },
           src := { itin := 0, launch := 0, cvn := 0, ncvn := 0, regGran := 0, argw := [], threads := [] }, pc := 0#40, act := 0#32, exe := 0#32,
           closes := false, unit := 0, jsn := 0#64, lcl := 0, seed := 0#64 }
def afterIssue (c : CoreSlot) (f : Insn) (u : Nat) (s : State) : State := match issueAt c f u s with | .go _ t => t | _ => s
theorem issued {c : CoreSlot} {f : Insn} {u : Nat} {s : State} (h : issues c f u s = true) :
    issueAt c f u s = .go (issueOf c f u s) (afterIssue c f u s) := by
  unfold issueOf afterIssue; unfold issues at h
  split at h
  · rename_i e; simp only [e]
  · cases h

/-- What holds for the 32 threads of a mask holds for every number that the mask contains. -/
theorem forBits {m : BitVec 32} {P : Nat → Prop} (h : ∀ th, th < 32 → m.getLsbD th = true → P th) (th : Nat) (ht : m.getLsbD th = true) : P th :=
  h th (by by_contra hn; rw [BitVec.getLsbD_of_ge _ _ (Nat.le_of_not_lt hn)] at ht; cases ht) ht

-- a module that is up, an itinerary with one body, and a caravan of 32 threads

def up : State :=
  { State.reset with mdl := { st := .running }, sec := { State.reset.sec with boot := 2#2 }, homes := (List.range 8).map (fun n => (n, { clock := 1 })) }
def image : Image :=
  { base := 0x100000, len := 0x2000, det := true, lenUs := 500, winUs := 20, ckptStages := 2000, codeOff := 0, codeLen := 0x1000
    bodies := [{ clusters := 1, cdNeed := 1, msNeed := 1, place := [0], nPro := 0, legs := [0] }], peers := [.device 7#64, .guest 5] }
def car : Caravan := { itin := 0, launch := 0, cvn := 0, ncvn := 1, regGran := 4, argw := [], threads := List.replicate 32 { pc := 0x40#40 } }
def slot0 : CoreSlot := { cluster := 0, core := 0, slot := 0 }
def run (c : Caravan) (s : State) : State :=
  modCore 0 0 (fun k => k.setSlot 0 (some c)) (setItin 0 (some { image := image, binding := some [0] }) s)
def ins (md : BitVec 6) (dst sa sb sc sd : BitVec 8) : Insn :=
  { p := false, i := false, pn := false, pred := 15#4, md := md, dst := dst, sa := sa, sb := sb, sc := sc, sd := sd }
def imm (md : BitVec 6) (dst sa : BitVec 8) (n : Nat) : Insn :=
  { p := false, i := true, pn := false, pred := 15#4, md := md, dst := dst, sa := sa, sb := BitVec.ofNat 8 (n / 65536), sc := BitVec.ofNat 8 (n / 256)
    sd := BitVec.ofNat 8 n }
def half (n : Nat) : Caravan := { car with threads := (List.range 32).map (fun t => { pc := if t < n then 0x40#40 else 0x80#40 }) }

-- integer instructions

theorem witness_IssuingGroupStandsLowest : issueAt slot0 (ins 0 1 2 3 0 0) unitInt (run (half 5) up) =
    .go (issueOf slot0 (ins 0 1 2 3 0 0) unitInt (run (half 5) up)) (afterIssue slot0 (ins 0 1 2 3 0 0) unitInt (run (half 5) up)) :=
  issued (by decide +kernel)

theorem witness_IntegerResults_32 : IntOp.mad ≠ .cmp ∧ intW (ins 0 31 2 3 4 0) = false ∧
    issueAt slot0 (ins 0 31 2 3 4 0) unitInt (run car up) =
      .go (issueOf slot0 (ins 0 31 2 3 4 0) unitInt (run car up)) (afterIssue slot0 (ins 0 31 2 3 4 0) unitInt (run car up)) ∧
    ClearThreads (issueOf slot0 (ins 0 31 2 3 4 0) unitInt (run car up)) (intIllegal .mad (ins 0 31 2 3 4 0)) (intUses .mad (ins 0 31 2 3 4 0))
      (intZero .mad (ins 0 31 2 3 4 0)) (afterIssue slot0 (ins 0 31 2 3 4 0) unitInt (run car up)) :=
  ⟨by decide, by decide, issued (by decide +kernel), by unfold ClearThreads; decide +kernel⟩

theorem witness_IntegerResults_zero : ClearThreads (issueOf slot0 (ins 0 0x80 2 3 0 0) unitInt (run car up)) (intIllegal .sub (ins 0 0x80 2 3 0 0))
      (intUses .sub (ins 0 0x80 2 3 0 0)) (intZero .sub (ins 0 0x80 2 3 0 0)) (afterIssue slot0 (ins 0 0x80 2 3 0 0) unitInt (run car up)) := by
  unfold ClearThreads; decide +kernel

theorem witness_IntegerResults_64 : IntOp.add ≠ .cmp ∧ intW (imm 0x20 30 2 5) = true ∧ issues slot0 (imm 0x20 30 2 5) unitInt (run car up) = true ∧
    ClearThreads (issueOf slot0 (imm 0x20 30 2 5) unitInt (run car up)) (intIllegal .add (imm 0x20 30 2 5)) (intUses .add (imm 0x20 30 2 5))
      (intZero .add (imm 0x20 30 2 5)) (afterIssue slot0 (imm 0x20 30 2 5) unitInt (run car up)) :=
  ⟨by decide, by decide, by decide +kernel, by unfold ClearThreads; decide +kernel⟩

theorem witness_CompareWritesPredicate : issues slot0 (ins 0x1A 14 2 3 0 0) unitInt (run car up) = true ∧
    ClearThreads (issueOf slot0 (ins 0x1A 14 2 3 0 0) unitInt (run car up)) (intIllegal .cmp (ins 0x1A 14 2 3 0 0)) (intUses .cmp (ins 0x1A 14 2 3 0 0))
      (intZero .cmp (ins 0x1A 14 2 3 0 0)) (afterIssue slot0 (ins 0x1A 14 2 3 0 0) unitInt (run car up)) :=
  ⟨by decide +kernel, by unfold ClearThreads; decide +kernel⟩

theorem witness_CoreExceptions_illegal : issues slot0 (ins 1 1 2 3 0 0) unitInt (run car up) = true ∧
    (issueOf slot0 (ins 1 1 2 3 0 0) unitInt (run car up)).exe ≠ 0#32 ∧
    checkInsn (issueOf slot0 (ins 1 1 2 3 0 0) unitInt (run car up)).car (ins 1 1 2 3 0 0) (intIllegal .add (ins 1 1 2 3 0 0))
      (intUses .add (ins 1 1 2 3 0 0)) (intZero .add (ins 1 1 2 3 0 0)) = some cIllegalInsn := by decide +kernel
theorem witness_CoreExceptions_register : checkInsn (issueOf slot0 (ins 0 32 2 3 0 0) unitInt (run car up)).car (ins 0 32 2 3 0 0)
      (intIllegal .add (ins 0 32 2 3 0 0)) (intUses .add (ins 0 32 2 3 0 0)) (intZero .add (ins 0 32 2 3 0 0)) = some cIllegalReg := by decide +kernel
theorem witness_CoreExceptions_idle : issues slot0 { ins 0 1 2 3 0 0 with pred := 0#4 } unitInt (run car up) = true ∧
    (issueOf slot0 { ins 0 1 2 3 0 0 with pred := 0#4, pn := false } unitInt (run car up)).exe = 0#32 := by decide +kernel
theorem witness_CoreExceptions_fetch : issueAt slot0 (ins 0 0 0 0 0 0) unitCtl (run { car with threads := List.replicate 32 { pc := 0xFFC#40 } } up) =
    .outside 0xFFC#40 (BitVec.allOnes 32) 0x100FFC := by rfl

theorem witness_CoreExceptions_reserved : (match issueAt slot0 { ins 0 1 2 3 0 0 with cls := 9#4 } unitInt (run car up) with
    | .reserved i _ => i.exe != 0#32 | _ => false) = true := by decide +kernel

-- the cluster store

def stored : Caravan := { car with regs := (List.range 32).map (fun t => (2 * 32 + t, BitVec.ofNat 32 (64 * t + 32))) }
theorem witness_ClusterStoreAccesses_load : issues slot0 (imm 0x14 1 2 0) unitLs (run stored up) = true ∧ lsLocal (imm 0x14 1 2 0) = true ∧
    ClearThreads (issueOf slot0 (imm 0x14 1 2 0) unitLs (run stored up)) (lsIllegal .ld (imm 0x14 1 2 0)) (lsUses .ld (imm 0x14 1 2 0))
      (lsZero .ld (imm 0x14 1 2 0)) (afterIssue slot0 (imm 0x14 1 2 0) unitLs (run stored up)) ∧
    ChainDone (issueOf slot0 (imm 0x14 1 2 0) unitLs (run stored up)) (afterIssue slot0 (imm 0x14 1 2 0) unitLs (run stored up)) ∧
    (∀ th, (issueOf slot0 (imm 0x14 1 2 0) unitLs (run stored up)).exe.getLsbD th = true →
      localAddr (issueOf slot0 (imm 0x14 1 2 0) unitLs (run stored up)) th % widthBytes (lsWidth (imm 0x14 1 2 0)) = 0 ∧
      localAddr (issueOf slot0 (imm 0x14 1 2 0) unitLs (run stored up)) th < storeBytes ∧
      (getCluster (run stored up) 0).markAt (localAddr (issueOf slot0 (imm 0x14 1 2 0) unitLs (run stored up)) th) = .clean) :=
  ⟨by decide +kernel, by decide, by unfold ClearThreads; decide +kernel, by unfold ChainDone; decide +kernel, forBits (by decide +kernel)⟩
theorem witness_ClusterStoreAccesses_store : issues slot0 (imm 0x24 4 2 0) unitLs (run stored up) = true ∧ lsLocal (imm 0x24 4 2 0) = true ∧
    ClearThreads (issueOf slot0 (imm 0x24 4 2 0) unitLs (run stored up)) (lsIllegal .st (imm 0x24 4 2 0)) (lsUses .st (imm 0x24 4 2 0))
      (lsZero .st (imm 0x24 4 2 0)) (afterIssue slot0 (imm 0x24 4 2 0) unitLs (run stored up)) ∧
    ChainDone (issueOf slot0 (imm 0x24 4 2 0) unitLs (run stored up)) (afterIssue slot0 (imm 0x24 4 2 0) unitLs (run stored up)) ∧
    (∀ th, (issueOf slot0 (imm 0x24 4 2 0) unitLs (run stored up)).exe.getLsbD th = true →
      localAddr (issueOf slot0 (imm 0x24 4 2 0) unitLs (run stored up)) th % widthBytes (lsWidth (imm 0x24 4 2 0)) = 0 ∧
      localAddr (issueOf slot0 (imm 0x24 4 2 0) unitLs (run stored up)) th < storeBytes) :=
  ⟨by decide +kernel, by decide, by unfold ClearThreads; decide +kernel, by unfold ChainDone; decide +kernel, forBits (by decide +kernel)⟩
theorem witness_ClusterStoreFaults_align : (issueOf slot0 (imm 0x14 1 2 2) unitLs (run stored up)).exe.getLsbD 0 = true ∧
    localAddr (issueOf slot0 (imm 0x14 1 2 2) unitLs (run stored up)) 0 % widthBytes (lsWidth (imm 0x14 1 2 2)) ≠ 0 ∧
    ClearThreads (issueOf slot0 (imm 0x14 1 2 2) unitLs (run stored up)) (lsIllegal .ld (imm 0x14 1 2 2)) (lsUses .ld (imm 0x14 1 2 2))
      (lsZero .ld (imm 0x14 1 2 2)) (afterIssue slot0 (imm 0x14 1 2 2) unitLs (run stored up)) ∧
    ClearThreads (issueOf slot0 (imm 0x14 1 2 2) unitLs (run stored up)) (lsIllegal .st (imm 0x14 1 2 2)) (lsUses .st (imm 0x14 1 2 2))
      (lsZero .st (imm 0x14 1 2 2)) (afterIssue slot0 (imm 0x14 1 2 2) unitLs (run stored up)) :=
  ⟨by decide +kernel, by decide +kernel, by unfold ClearThreads; decide +kernel, by unfold ClearThreads; decide +kernel⟩
theorem witness_ClusterStoreFaults_range : localAddr (issueOf slot0 (imm 0x14 1 2 0x7FFE0) unitLs (run stored up)) 0 = storeBytes ∧
    localAddr (issueOf slot0 (imm 0x14 1 2 0x7FFE0) unitLs (run stored up)) 0 % widthBytes (lsWidth (imm 0x14 1 2 0x7FFE0)) = 0 := by decide +kernel

-- control and exchange

theorem witness_ControlFlow : issues slot0 (ins 0 0 0 0 0 0) unitCtl (run car up) = true ∧
    ClearThreads (issueOf slot0 (ins 0 0 0 0 0 0) unitCtl (run car up)) ((ins 0 0 0 0 0 0).i || (ins 0 0 0 0 0 0).md != 0#6) []
      (ctlZero (ins 0 0 0 0 0 0)) (afterIssue slot0 (ins 0 0 0 0 0 0) unitCtl (run car up)) := ⟨by decide +kernel, by unfold ClearThreads; decide +kernel⟩
theorem witness_ControlFlow_bra : ClearThreads (issueOf slot0 (imm 0x20 30 0 3) unitCtl (run car up)) (!(imm 0x20 30 0 3).i || bitsNat (imm 0x20 30 0 3).md 0 5 != 0)
      (linkUses (imm 0x20 30 0 3)) ((imm 0x20 30 0 3).sa :: linkZero (imm 0x20 30 0 3)) (afterIssue slot0 (imm 0x20 30 0 3) unitCtl (run car up)) := by
  unfold ClearThreads; decide +kernel
theorem witness_ControlFlow_brx : ClearThreads (issueOf slot0 (ins 0 0 2 0 0 0) unitCtl (run car up)) ((ins 0 0 2 0 0 0).i || bitsNat (ins 0 0 2 0 0 0).md 0 5 != 0)
      (⟨(ins 0 0 2 0 0 0).sa, 2, false⟩ :: linkUses (ins 0 0 2 0 0 0)) ([0, 0, 0] ++ linkZero (ins 0 0 2 0 0 0))
      (afterIssue slot0 (ins 0 0 2 0 0 0) unitCtl (run car up)) ∧
    ∀ th, (issueOf slot0 (ins 0 0 2 0 0 0) unitCtl (run car up)).exe.getLsbD th = true →
      ((issueOf slot0 (ins 0 0 2 0 0 0) unitCtl (run car up)).src64 th 2).toNat % 8 = 0 :=
  ⟨by unfold ClearThreads; decide +kernel, forBits (by decide +kernel)⟩
theorem witness_ControlFlow_trap : ClearThreads (issueOf slot0 (imm 0 0 0 9) unitCtl (run car up)) (!(imm 0 0 0 9).i || (imm 0 0 0 9).md != 0#6) []
      (ctlZero (imm 0 0 0 9)) (afterIssue slot0 (imm 0 0 0 9) unitCtl (run car up)) := by unfold ClearThreads; decide +kernel
theorem witness_ExitRetires_all : (∀ th, th < (issueOf slot0 (ins 0 0 0 0 0 0) unitCtl (run car up)).car.threads.length →
      ((issueOf slot0 (ins 0 0 0 0 0 0) unitCtl (run car up)).exe.getLsbD th || exitedIn (run car up) slot0 th) = true) ∧
    (getCore (run car up) 0 0).hasJobs 0 = false := by decide +kernel
theorem witness_ExitRetires_some : 31 < (issueOf slot0 (ins 0 0 0 0 0 0) unitCtl (run (half 31) up)).car.threads.length ∧
    ((issueOf slot0 (ins 0 0 0 0 0 0) unitCtl (run (half 31) up)).exe.getLsbD 31 || exitedIn (run (half 31) up) slot0 31) = false := by decide +kernel
def queuing : State := modCore 0 0 (fun k => { k with mxq := [.mld 0 1 11 0#16384] }) (run car up)
theorem witness_ExitRetires_jobs : issues slot0 (ins 0 0 0 0 0 0) unitCtl queuing = true ∧ slot0.slot < 16 ∧
    ClearThreads (issueOf slot0 (ins 0 0 0 0 0 0) unitCtl queuing) ((ins 0 0 0 0 0 0).i || (ins 0 0 0 0 0 0).md != 0#6) [] (ctlZero (ins 0 0 0 0 0 0))
      (afterIssue slot0 (ins 0 0 0 0 0 0) unitCtl queuing) ∧
    (∀ th, th < (issueOf slot0 (ins 0 0 0 0 0 0) unitCtl queuing).car.threads.length →
      ((issueOf slot0 (ins 0 0 0 0 0 0) unitCtl queuing).exe.getLsbD th || exitedIn queuing slot0 th) = true) ∧
    (getCore queuing 0 0).hasJobs 0 = true := ⟨by decide +kernel, by decide, by unfold ClearThreads; decide +kernel, by decide +kernel, by decide +kernel⟩
theorem witness_ArrivalAndExchange_waitc : issues slot0 (imm 31 0 0 0) unitCtl (run car up) = true ∧
    ClearGroup (issueOf slot0 (imm 31 0 0 0) unitCtl (run car up)) ((imm 31 0 0 0).md.getLsbD 5) [] (waitZero (imm 31 0 0 0))
      (afterIssue slot0 (imm 31 0 0 0) unitCtl (run car up)) ∧
    (groupValue (issueOf slot0 (imm 31 0 0 0) unitCtl (run car up)) true).toNat ≤ ((getCluster (run car up) 0).counter 31).toNat ∧
    ChainDone (issueOf slot0 (imm 31 0 0 0) unitCtl (run car up)) (afterIssue slot0 (imm 31 0 0 0) unitCtl (run car up)) :=
  ⟨by decide +kernel, by unfold ClearGroup; decide +kernel, by decide +kernel, by unfold ChainDone; decide +kernel⟩
theorem witness_ArrivalAndExchange_wait :
    ClearGroup (issueOf slot0 (imm 0 0 0 1) unitCtl (run car up)) ((imm 0 0 0 1).md.getLsbD 5) [] (waitZero (imm 0 0 0 1))
      (afterIssue slot0 (imm 0 0 0 1) unitCtl (run car up)) ∧
    ((getCluster (run car up) 0).counter 0).toNat < (groupValue (issueOf slot0 (imm 0 0 0 1) unitCtl (run car up)) true).toNat :=
  ⟨by unfold ClearGroup; decide +kernel, by decide +kernel⟩
theorem witness_ArrivalAndExchange_shfl : issues slot0 (ins 0 1 2 3 0 0) unitLs (run car up) = true ∧
    ClearThreads (issueOf slot0 (ins 0 1 2 3 0 0) unitLs (run car up)) false [⟨1, 1, true⟩, ⟨2, 1, false⟩, ⟨3, 1, false⟩] [0, 0]
      (afterIssue slot0 (ins 0 1 2 3 0 0) unitLs (run car up)) ∧
    ∀ th n, (issueOf slot0 (ins 0 1 2 3 0 0) unitLs (run car up)).src.mark th n = .clean :=
  ⟨by decide +kernel, by unfold ClearThreads; decide +kernel, fun _ _ => rfl⟩
theorem witness_ArrivalAndExchange_vote : ClearThreads (issueOf slot0 (ins 0x20 14 14 0 0 0) unitLs (run car up))
      (false || bitsNat (ins 0x20 14 14 0 0 0).md 0 5 != 0 || decide (14 < (14 : Nat)) || decide (14 < (14 : Nat))) [] [0, 0, 0]
      (afterIssue slot0 (ins 0x20 14 14 0 0 0) unitLs (run car up)) := by unfold ClearThreads; decide +kernel
theorem witness_ArrivalAndExchange_ballot : ClearThreads (issueOf slot0 (ins 0 31 14 0 0 0) unitLs (run car up)) false [⟨31, 1, true⟩] [0, 0, 0]
      (afterIssue slot0 (ins 0 31 14 0 0 0) unitLs (run car up)) := by unfold ClearThreads; decide +kernel

-- global accesses, copies, matrix and chain

def area (r : Region) (s : State) : State := { s with regions := [r] }
def flat : Region := { base := 0, len := 0x200000 }
def few : Caravan := { stored with threads := (List.range 32).map (fun t => { pc := if t < 2 then 0x40#40 else 0x80#40 }) }
def ldG : Insn := imm 0x10 1 2 0
def stRO : State := area { flat with ro := true } (run few up)
def filledLine : Line := { sectors := List.replicate 4 { valid := true, data := 7#256 } }
def stRW : State := modHome 0 (fun h => { h with lines := [(0, some filledLine)] }) (area flat (run few up))
def filled : L1Line := { sectors := List.replicate 4 { valid := true, data := 7#256 }, used := 0 }
def stHit : State := modCore 0 0 (fun k => { k with l1 := [(0, some filled), (1, some filled)] }) stRO

theorem witness_GlobalLoad_waits : lsLocal ldG = false ∧ issues slot0 ldG unitLs stRO = true ∧
    ClearThreads (issueOf slot0 ldG unitLs stRO) (lsIllegal .ld ldG) (lsUses .ld ldG) (lsZero .ld ldG) (afterIssue slot0 ldG unitLs stRO) ∧
    ChainDone (issueOf slot0 ldG unitLs stRO) (afterIssue slot0 ldG unitLs stRO) ∧
    (∀ th, (issueOf slot0 ldG unitLs stRO).exe.getLsbD th = true →
      globalFault (afterIssue slot0 ldG unitLs stRO) (issueOf slot0 ldG unitLs stRO).car.itin false (globalAddr (issueOf slot0 ldG unitLs stRO) th)
        (widthBytes (lsWidth ldG)) = none) ∧
    (coreReadLines 0 0 (linesTouched ((maskThreads (issueOf slot0 ldG unitLs stRO).exe).map (globalAddr (issueOf slot0 ldG unitLs stRO)))
      (widthBytes (lsWidth ldG))) (afterIssue slot0 ldG unitLs stRO)).1 = none :=
  ⟨by decide, by decide +kernel, by unfold ClearThreads; decide +kernel, by unfold ChainDone; decide +kernel, forBits (by decide +kernel), by decide +kernel⟩
def hitLines : Option (List (Nat × List SectorVal)) × State :=
  coreReadLines 0 0 (linesTouched ((maskThreads (issueOf slot0 ldG unitLs stHit).exe).map (globalAddr (issueOf slot0 ldG unitLs stHit)))
    (widthBytes (lsWidth ldG))) (afterIssue slot0 ldG unitLs stHit)
theorem witness_GlobalLoad_hit : hitLines.1.isSome = true ∧ caravanIn hitLines.2 slot0 = some (issueOf slot0 ldG unitLs stHit).car ∧
    ∀ th, (issueOf slot0 ldG unitLs stHit).exe.getLsbD th = true →
      (sectorOf (hitLines.1.getD []) (globalAddr (issueOf slot0 ldG unitLs stHit) th)).poison = false :=
  ⟨by decide +kernel, by decide +kernel, forBits (by decide +kernel)⟩

def stG : Insn := imm 0x10 1 2 0
def clearedG : Bool × State :=
  clearAll (.core 0 0) ((wordsOf (storeList (issueOf slot0 stG unitLs stRW) (globalAddr (issueOf slot0 stG unitLs stRW)))).map (· / 4))
    (afterIssue slot0 stG unitLs stRW)
def writtenG : State :=
  forEach (wordsOf (storeList (issueOf slot0 stG unitLs stRW) (globalAddr (issueOf slot0 stG unitLs stRW)))) (fun w t =>
    match usable t (w * 32) with
    | some rg => (homeWriteSector (.core 0 0) (w * 32) (wordEnables (storeList (issueOf slot0 stG unitLs stRW) (globalAddr (issueOf slot0 stG unitLs stRW))) w)
        { data := wordData (storeList (issueOf slot0 stG unitLs stRW) (globalAddr (issueOf slot0 stG unitLs stRW))) w } rg t).2
    | none => t) clearedG.2
theorem witness_GlobalStoreAndDead_store : issues slot0 stG unitLs stRW = true ∧
    ClearThreads (issueOf slot0 stG unitLs stRW) (lsIllegal .st stG) (lsUses .st stG) (lsZero .st stG) (afterIssue slot0 stG unitLs stRW) ∧
    ChainDone (issueOf slot0 stG unitLs stRW) (afterIssue slot0 stG unitLs stRW) ∧
    (∀ th, (issueOf slot0 stG unitLs stRW).exe.getLsbD th = true →
      globalFault (afterIssue slot0 stG unitLs stRW) (issueOf slot0 stG unitLs stRW).car.itin true (globalAddr (issueOf slot0 stG unitLs stRW) th)
        (widthBytes (lsWidth stG)) = none) ∧
    clearedG.1 = true ∧ caravanIn clearedG.2 slot0 = some (issueOf slot0 stG unitLs stRW).car ∧
    caravanIn writtenG slot0 = some (issueOf slot0 stG unitLs stRW).car :=
  ⟨by decide +kernel, by unfold ClearThreads; decide +kernel, by unfold ChainDone; decide +kernel, forBits (by decide +kernel), by decide +kernel,
   by decide +kernel, by decide +kernel⟩
def deadG : Insn := imm 0 0 2 0
theorem witness_GlobalStoreAndDead_dead :
    ClearThreads (issueOf slot0 deadG unitLs stRW) (lsIllegal .dead deadG) (lsUses .dead deadG) (lsZero .dead deadG) (afterIssue slot0 deadG unitLs stRW) ∧
    (∀ th, (issueOf slot0 deadG unitLs stRW).exe.getLsbD th = true →
      globalFault (afterIssue slot0 deadG unitLs stRW) (issueOf slot0 deadG unitLs stRW).car.itin false (globalAddr (issueOf slot0 deadG unitLs stRW) th) 1 = none) ∧
    caravanIn (forEach ((linesTouched ((maskThreads (issueOf slot0 deadG unitLs stRW).exe).map (globalAddr (issueOf slot0 deadG unitLs stRW))) 1).map (·.1))
      (fun l t => match usable t (l * 128) with
        | some rg => homeDead l rg t
        | none => t) (afterIssue slot0 deadG unitLs stRW)) slot0 = some (issueOf slot0 deadG unitLs stRW).car :=
  ⟨by unfold ClearThreads; decide +kernel, forBits (by decide +kernel), by decide +kernel⟩
def atG : Insn := imm 0x10 1 2 0
def issueA : Issue := issueOf slot0 atG unitLs stRW
def stAt : State := afterIssue slot0 atG unitLs stRW
theorem witness_AtomicReturnsPriorValue : issues slot0 atG unitLs stRW = true ∧
    ClearThreads issueA (atIllegal .add atG) (atUses .add atG) (atZero .add atG) stAt ∧ ChainDone issueA stAt :=
  ⟨by decide +kernel, by unfold ClearThreads; decide +kernel, by unfold ChainDone; decide +kernel⟩
theorem witness_AtomicReturnsPriorValue_line : HoldsAlone stAt 0 0 filledLine := by unfold HoldsAlone; decide +kernel
theorem witness_AtomicReturnsPriorValue_ready : ∀ th, issueA.exe.getLsbD th = true →
    (globalFault stAt issueA.car.itin true (globalAddr issueA th) (32 / 8) = none ∧ usable stAt (globalAddr issueA th) = some flat ∧
      usable stAt (lineOf (globalAddr issueA th) * 128) = some flat) ∧
    (memWaits stAt flat (lineOf (globalAddr issueA th)) true = false ∧ flat.home (globalAddr issueA th) = 0 ∧ lineOf (globalAddr issueA th) = 0) ∧
    (secAt filledLine.sectors (globalAddr issueA th / 32 % 4)).valid = true ∧ (secAt filledLine.sectors (globalAddr issueA th / 32 % 4)).poison = false :=
  forBits (by decide +kernel)

def cpy : Insn := ins 31 0 4 6 8 0
theorem witness_CopyEngine_request : issues slot0 cpy unitCpy stRW = true ∧
    ClearGroup (issueOf slot0 cpy unitCpy stRW) (cpy.i || cpy.md.getLsbD 5) [⟨cpy.sa, 2, false⟩, ⟨cpy.sb, 1, false⟩, ⟨cpy.sc, 1, false⟩] [cpy.dst, cpy.sd]
      (afterIssue slot0 cpy unitCpy stRW) ∧
    ChainDone (issueOf slot0 cpy unitCpy stRW) (afterIssue slot0 cpy unitCpy stRW) ∧
    copyFault (afterIssue slot0 cpy unitCpy stRW) 0 ((issueOf slot0 cpy unitCpy stRW).src64 0 4) 0 0 = none :=
  ⟨by decide +kernel, by unfold ClearGroup; decide +kernel, by unfold ChainDone; decide +kernel, by decide +kernel⟩
theorem witness_CopyEngine_fault : copyFault (run car up) 0 1#64 0 0 = some (cAlign, 1#64) := by decide +kernel
theorem witness_CopyEngine_full : 32 ≤ (getCluster (modCluster 0 (fun c => { c with cpyQ := List.replicate 32 { src := 0, dst := 0, len := 32, counter := 0 } })
    stRW) 0).cpyQ.length := by decide +kernel
def stCpy : State := modCluster 0 (fun c => { c with cpyQ := [{ src := 0, dst := 64, len := 96, counter := 0 }] }) stRW
theorem witness_CopyEngine_delivery : (getCluster stCpy 0).cpyQ[0]? = some { src := 0, dst := 64, len := 96, counter := 0 } ∧ usable stCpy 64 = some flat ∧
    (homeReadLine (.core 0 0) 0 (maskBit 4 2) flat stCpy).1.isSome = true := by decide +kernel
def stMiss : State := modHome 0 (fun h => { h with lines := [(0, some filledLine)] }) (modCore 0 0 (fun k => { k with l1Miss := some { line := 0, sectors := 3#4 } }) stRO)
theorem witness_CopyEngine_fill : (getCore stMiss 0 0).l1Miss = some { line := 0, sectors := 3#4 } ∧ usable stMiss (0 * 128) = some { flat with ro := true } ∧
    (fillSectors 0 0 0 { flat with ro := true } ((List.range 4).filter (fun k => (3#4).getLsbD k)) stMiss).1.isSome = true := by decide +kernel
def parkedCar : Caravan := { car with threads := (List.range 32).map (fun t => { pc := 0x40#40, parked := decide (t < 3) }) }
theorem witness_CopyEngine_split : coreIssues (run parkedCar up) 0 0 = true ∧ caravanIn (run parkedCar up) slot0 = some parkedCar ∧
    parkedCar.parkedMask ≠ 0#32 := by decide +kernel

def mma : Insn := ins 0 0 0 8 0 0
theorem witness_MatrixInstructions_issue : issues slot0 mma unitMx (run car up) = true ∧ mxCheck (issueOf slot0 mma unitMx (run car up)).car .mma mma = none ∧
    (issueOf slot0 mma unitMx (run car up)).act = BitVec.allOnes 32 ∧ (getCore (run car up) 0 0).mxq.length < 2 ∧
    regsBusy (issueOf slot0 mma unitMx (run car up)) (mxUses .mma mma) (afterIssue slot0 mma unitMx (run car up)) = false ∧
    (poisonReaders (issueOf slot0 mma unitMx (run car up)) (BitVec.allOnes 32) (mxUses .mma mma)).1 = 0#32 := by decide +kernel
theorem witness_MatrixInstructions_park : issues slot0 mma unitMx (run (half 4) up) = true ∧
    mxCheck (issueOf slot0 mma unitMx (run (half 4) up)).car .mma mma = none ∧ (issueOf slot0 mma unitMx (run (half 4) up)).act ≠ BitVec.allOnes 32 ∧
    (∀ x ∈ (issueOf slot0 mma unitMx (run (half 4) up)).car.threads, x.exited = false) ∧
    (∀ x ∈ (issueOf slot0 mma unitMx (run (half 4) up)).car.threads, x.parked = false) := by decide +kernel
def mxQueued (j : MxJob) : State := modCore 0 0 (fun k => { k with mxq := [j] }) (run car up)
theorem witness_MatrixInstructions_complete : (getCore (mxQueued (.mld 0 1 11 0#16384)) 0 0).mxq = [.mld 0 1 11 0#16384] ∧
    caravanIn (mxQueued (.mld 0 1 11 0#16384)) slot0 = some car ∧ ∃ x ∈ car.threads, x.exited = false := by decide +kernel
theorem witness_MatrixInstructions_mrd : (getCore (mxQueued (.mrd 0 0 12 0 true 0 0)) 0 0).mxq = [.mrd 0 0 12 0 true 0 0] ∧
    caravanIn (mxQueued (.mrd 0 0 12 0 true 0 0)) slot0 = some car := by decide +kernel

-- a VOP whose configuration register holds FP32, ADD of two immediate streams to memory
def vcIns : Insn := imm 0 0 8 1
theorem witness_ChainOperations_empty : issues slot0 { vcIns with pred := 0#4 } unitVc (run car up) = true ∧ vopIllegal { vcIns with pred := 0#4 } = false ∧
    (vopUses { vcIns with pred := 0#4 }).any (fun u => u.over car) = false ∧ (getCore (run car up) 0 0).vcq.length < 2 ∧
    (issueOf slot0 { vcIns with pred := 0#4 } unitVc (run car up)).exe = 0#32 := by decide +kernel

def cfgA : BitVec 32 := BitVec.ofNat 32 (2 + 4 * 4 + 11 * 512 + 8192)
def cfgO : BitVec 32 := BitVec.ofNat 32 (2 + 5 * 4 + 11 * 512 + 8192)
def vcCar : Caravan := { car with regs := [(8 * 32, cfgA), (11 * 32, cfgO), (5 * 32, 64#32)] }
def issueVc : Issue := issueOf slot0 vcIns unitVc (run vcCar up)
theorem witness_ChainOperations_issue : issues slot0 vcIns unitVc (run vcCar up) = true ∧ vopIllegal vcIns = false ∧
    (vopUses vcIns).any (fun u => u.over issueVc.car) = false ∧ issueVc.exe ≠ 0#32 ∧
    regsBusy issueVc (vopUses vcIns) (afterIssue slot0 vcIns unitVc (run vcCar up)) = false ∧
    (poisonReaders issueVc (maskBit 32 issueVc.leader) (vopUses vcIns)).1 = 0#32 ∧
    cwIllegal (vopCw issueVc) (vopLen issueVc) = false ∧ vopDstBad vcIns (vopCw issueVc) = false := by decide +kernel
theorem witness_ChainOperations_issue2 : (getCore (run vcCar up) 0 0).vcq.length < 2 ∧
    (cwUses (vopCw issueVc)).any (fun u => u.over issueVc.car) = false ∧ cwRed (vopCw issueVc) = 0 ∧
    regsBusy issueVc (cwUses (vopCw issueVc)) (afterIssue slot0 vcIns unitVc (run vcCar up)) = false ∧
    (poisonReaders issueVc (maskBit 32 issueVc.leader) (cwUses (vopCw issueVc))).1 = 0#32 ∧
    (weightOut (vopCw issueVc) || weightIn (vopCw issueVc)) = false := by decide +kernel
def vcQueued (j : VcJob) : State := modCore 0 0 (fun k => { k with vcq := [j] }) (run vcCar up)
theorem witness_ChainOperations_empty_end : (getCore (vcQueued (emptyVop issueVc)) 0 0).vcq = [emptyVop issueVc] ∧ (emptyVop issueVc).len = 0 ∧
    caravanIn (vcQueued (emptyVop issueVc)) slot0 = some vcCar ∧ ∃ x ∈ vcCar.threads, x.exited = false := by decide +kernel
def vcj : VcJob := { emptyVop issueVc with lanes := 1#32, cfg := vopCw issueVc, len := 1, oAddr := 64#64 }
theorem witness_ChainOperations_run : vcj.len ≠ 0 ∧ (fetchPieces 0 0 0 vcj.maskPieces (vcQueued vcj)).1.isSome = true ∧
    vcj.active ((fetchPieces 0 0 0 vcj.maskPieces (vcQueued vcj)).1.getD { lines := [], cl := {} }) = [0] ∧
    pieceFault (vcQueued vcj) 0 { lines := [], cl := getCluster (vcQueued vcj) 0 } (vcj.reads [0] ++ (vcj.outPieces [0] ++ vcj.sidePieces [0] ++ vcj.recWrites [0])) = none ∧
    (fetchPieces 0 0 0 (vcj.reads [0]) (vcQueued vcj)).1.isSome = true ∧ vcj.outPieces [0] ≠ [] ∧
    (clearAll (.core 0 0) (((vcj.outPieces [0]).filter (fun p => p.space == 1)).map (fun p => lineOf p.addr)).eraseDups (vcQueued vcj)).1 = true := by
  decide +kernel

def vcj64 : VcJob := { vcj with aVal := 0#64, oAddr := 64#64 }
def vcG : Fetched := { lines := [], cl := getCluster (vcQueued vcj64) 0 }
theorem witness_ChainOperations_store : (getCore (vcQueued vcj64) 0 0).vcq = [vcj64] ∧ caravanIn (vcQueued vcj64) ⟨0, 0, vcj64.slot⟩ = some vcCar ∧
    (∀ p ∈ vcj64.maskPieces ++ (vcj64.reads (vcj64.active vcG) ++ (if chainBits (strmO vcj64.cfg).fmt = 4 then vcj64.outPieces (vcj64.active vcG) else [])) ++
      (vcj64.outPieces (vcj64.active vcG) ++ vcj64.sidePieces (vcj64.active vcG) ++ vcj64.recWrites (vcj64.active vcG)), p.space = 2 ∧ storeFault p.addr p.n = none) ∧
    (∀ p ∈ vcj64.maskPieces ++ vcj64.reads (vcj64.active vcG), vcG.mark p = .clean) ∧ vcj64.reads (vcj64.active vcG) ≠ [] ∧
    (∀ p ∈ vcj64.reads (vcj64.active vcG), ∀ q ∈ vcj64.outPieces (vcj64.active vcG) ++ vcj64.sidePieces (vcj64.active vcG) ++ vcj64.recWrites (vcj64.active vcG),
      p.addr / 32 ≠ q.addr / 32) := by decide +kernel
theorem witness_ChainOperations_full : issues slot0 vcIns unitVc (modCore 0 0 (fun k => { k with vcq := [vcj, vcj] }) (run vcCar up)) = true ∧
    2 ≤ (getCore (modCore 0 0 (fun k => { k with vcq := [vcj, vcj] }) (run vcCar up)) 0 0).vcq.length := by decide +kernel

-- homes, memory controllers, errors and links

def sec7 : Sector := { valid := true, data := 7#256 }
def line7 : Line := { sectors := List.replicate 4 sec7 }
def held : State := modHome 0 (fun h => { h with lines := [(1, some line7)] }) (area flat up)
theorem held_alone : HoldsAlone held 0 1 line7 := by unfold HoldsAlone; decide +kernel
theorem witness_HomeHits_read : reachesHomes held (.core 0 0) = true ∧ mayWrite held (.core 0 0) 0xA5 = true ∧ isVoided held (.core 0 0) (lineOf 0xA5) = false ∧
    mayWrite (modPh 64 (fun p => { p with st := .open_, area := 0x8000 }) held) (.core 0 0) 0x8000 = false ∧ usable held 0xA0 = some flat ∧ flat.bypass = false ∧ (∀ d, Requester.core 0 0 ≠ .px d) ∧ flat.home (lineOf 0xA0 * 128) = 0 ∧
    lineOf 0xA0 = 1 ∧ (∀ k, k < 4 → (3#4).getLsbD k = true → (secAt line7.sectors k).valid = true) :=
  ⟨by decide +kernel, by decide +kernel, by decide +kernel, by decide +kernel, by decide +kernel, rfl, by simp, by decide +kernel, by decide, by decide⟩
theorem witness_HomeHits_write : flat.home (0xA5 / 32 * 32) = 0 ∧ lineOf (0xA5 / 32 * 32) = 1 ∧ usable held 0xA5 = some flat ∧ flat.ro = false ∧ flat.policy ≠ 1 ∧
    (secAt line7.sectors (0xA5 / 32 * 32 / 32 % 4)).valid = true := by decide +kernel
theorem witness_HomeHits_refused : usable (area { flat with ro := true } up) 0xA5 = some { flat with ro := true } := by decide +kernel
theorem witness_HomeHits_atomic : usable held 0xB8 = some flat ∧ 0xB8 % 8 = 0 ∧ flat.home 0xB8 = 0 ∧ lineOf 0xB8 = 1 ∧
    (secAt line7.sectors (0xB8 / 32 % 4)).valid = true ∧ AtOp.add ≠ .fadd32 := by decide +kernel
theorem witness_DeadHints_honoured : usable held 0x80 = some flat ∧ flat.ro = false ∧ (getHome held (flat.home (lineOf 0x80 * 128))).dirOf (lineOf 0x80) = .invalid ∧
    ((getHome held 0).line 1).isSome = true := by decide +kernel
def owned0 : State := modHome 0 (fun h => { h with dir := [(1, .owned 0)] }) held
def sharedDir (a b f : Bool) : State := modHome 0 (fun h => { h with dir := [(1, .shared a b f)] }) held
theorem witness_DeadHints_ignored : usable owned0 0x80 = some flat ∧ (getHome owned0 (flat.home (lineOf 0x80 * 128))).dirOf (lineOf 0x80) = .owned 0 ∧
    (getHome (sharedDir true false true) 0).dirOf 1 = .shared true false true ∧ (getHome (sharedDir false false true) 0).dirOf 1 = .shared false false true ∧
    ((getHome held 0).line 2).isNone = true := by decide +kernel
def buffered : State := modHome 0 (fun h => { h with evb := [{ line := 2, sectors := List.replicate 4 { sec7 with dirty := true } }] }) held
theorem witness_BufferAndSnoops_evict : halfLive buffered 0 = true ∧
    (getHome buffered 0).evb = { line := 2, sectors := List.replicate 4 { sec7 with dirty := true } } :: [] ∧
    regionAt buffered (2 * 128) = some flat ∧ memWaits buffered flat 2 true = false := by decide +kernel
def snooped (k : SnoopKind) (own : Bool) : State :=
  modPx 0 (fun p => { p with cache := [(1, some { sectors := List.replicate 4 { sec7 with dirty := own }, owned := own })] })
    (modHome 0 (fun h => { h with dir := [(1, if own then .owned 0 else .shared true false false)], snoops := [{ line := 1, die := 0, kind := k, waiting := [] }] }) held)
theorem witness_BufferAndSnoops_answer :
    (getHome (snooped .invalidate false) 0).snoops.find? (fun y => y.line == 1 && y.die == 0) = some { line := 1, die := 0, kind := .invalidate, waiting := [] } ∧
    (getPx (snooped .invalidate false) 0).line 1 = some { sectors := List.replicate 4 { sec7 with dirty := false }, owned := false } ∧
    (getHome (snooped .invalidate false) 0).pinWait = [] := by decide +kernel
theorem witness_BufferAndSnoops_owner : ∀ k ∈ [SnoopKind.recall, .downgrade],
    (getHome (snooped k true) 0).snoops.find? (fun y => y.line == 1 && y.die == 0) = some { line := 1, die := 0, kind := k, waiting := [] } ∧
    (getPx (snooped k true) 0).line 1 = some { sectors := List.replicate 4 { sec7 with dirty := true }, owned := true } ∧
    (getHome (snooped k true) 0).dirOf 1 = .owned 0 ∧ regionAt (snooped k true) (1 * 128) = some flat ∧ flat.policy ≠ 1 ∧
    (getHome (snooped k true) 0).line 1 = some line7 ∧ (∀ e ∈ (getHome (snooped k true) 0).evb, e.line ≠ 1) := by decide +kernel
theorem witness_BufferAndSnoops_timeout : (getHome owned0 0).dirOf 1 = .owned 0 ∧ (getHome owned0 0).line 1 = some line7 ∧ line7.sectors.length = 4 ∧
    (∀ e ∈ (getHome owned0 0).evb, e.line ≠ 1) ∧
    ∃ y ∈ (getHome (modHome 0 (fun h => { h with snoops := [{ line := 1, die := 0, kind := .recall, waiting := [] }] }) owned0) 0).snoops, y.line = 1 :=
  ⟨by decide +kernel, by decide +kernel, by decide, by decide +kernel, by decide +kernel⟩
def flushing : State := modLdg (fun l => { l with flushing := some 5, pending := 3#8 }) up
theorem witness_FlushAndHalfLoss_more : flushing.ldg.flushing = some 5 ∧ flushing.ldg.pending.getLsbD 0 = true ∧ (getHome flushing 0).flushLines = [] ∧
    (∀ e ∈ (getCtl flushing 0).wcb, e.marked = false) ∧ clearBit flushing.ldg.pending 0 ≠ 0#8 := by decide +kernel
theorem witness_FlushAndHalfLoss_last : clearBit (modLdg (fun l => { l with pending := 0x80#8 }) flushing).ldg.pending 7 = 0#8 := by decide +kernel
theorem witness_FlushAndHalfLoss_loss : halfLive up 7 = true := by decide +kernel

theorem witness_WriteCombiningBuffer_write : ctlServes up (stackOf (0xA5 / 32 * 32)) = true ∧ (1#32 : BitVec 32) ≠ 0#32 ∧ (getCtl up 0).entry (lineOf 0xA0) = none ∧
    (getCtl up 0).wcb.length < 64 ∧ (getCtl up 0).wcb.length + 1 < (getCtl up 0).cfgEff.wcbHigh.toNat ∧ chkAt up 0xA0 = 0#32 := by decide +kernel
def entry1 : WcbEntry := { line := 1, enables := 0xFFFFFFFF#128, data := 9#1024, poison := 1#4 }
def entered : State := modCtl 0 (fun c => { c with wcb := [entry1] }) up
theorem witness_WriteCombiningBuffer_drain : (getCtl entered 0).entry 1 = some entry1 ∧ ctlServes entered 0 = true ∧
    (∀ k, k < 4 → entry1.en k = 0#32 ∨ entry1.en k = BitVec.allOnes 32) ∧ entry1.en 0 = BitVec.allOnes 32 := by decide +kernel
theorem witness_MemoryUpkeep_read : ctlServes up (stackOf (0x40 / 32 * 32)) = true ∧ chkAt up (0x40 / 32 * 32) = 0#32 ∧
    (getCtl up (stackOf (0x40 / 32 * 32))).entry (lineOf 0x40) = none := by decide +kernel
def trained : State := modCtl 0 (fun c => { c with retraining := true }) up
theorem witness_MemoryUpkeep_retrain : (getCtl trained 0).retraining = true ∧ stackLive trained 0 = true ∧ ctlServes trained 0 = false := by decide +kernel
theorem witness_MemoryUpkeep_refresh : stackLive up 7 = true ∧ ctlServes up 7 = true ∧ (getCtl up 7).scrub.offset.toNat + 32 ≤ stackBytes ∧
    (getCtl up 7).scrub.offset.toNat % 32 = 0 ∧ chkAt up (7 * stackBytes) = 0#32 := by decide +kernel
def lastSector : State := modCtl 0 (fun c => { c with scrub := { offset := BitVec.ofNat 37 (stackBytes - 32), passes := 0xFFFF#16 } }) up
theorem witness_MemoryUpkeep_wrap : (getCtl lastSector 0).scrub.offset.toNat + 32 = stackBytes := by decide +kernel
def struck : State := strike 0x40 ⟨1#256, 0#32⟩ (modCtl 0 (fun c => { c with scrub := { offset := 0x40#37, passes := 0 } }) up)
theorem witness_MemoryUpkeep_corrected : (match storedDecode struck 0x40 with | .corrected _ _ => true | _ => false) = true ∧
    (getCtl struck 0).entry (lineOf 0x40) = none := by decide +kernel
def mirroring : State := area { flat with mirrored := true, mirrorNext := some 0x1FFF80, mirrorCmd := some 3 } up
theorem witness_MirrorCopy : mirroring.regions.find? (fun r => r.base == 0) = some { flat with mirrored := true, mirrorNext := some 0x1FFF80, mirrorCmd := some 3 } ∧
    0x1FFF80 % 128 = 0 ∧ ctlServes mirroring (stackOf 0x1FFF80) = true ∧ ctlServes mirroring (partnerOf (stackOf 0x1FFF80)) = true ∧
    (getCtl mirroring (stackOf 0x1FFF80)).wcb = [] ∧ (getCtl mirroring 2).wcb = [] ∧ 1 < (getCtl mirroring 2).cfgEff.wcbHigh.toNat ∧
    (∀ k, k < 4 → chkAt mirroring (0x1FFF80 + 32 * k) = 0#32) ∧ flat.base + flat.len ≤ 0x1FFF80 + 128 := by decide +kernel
def ue : ErrRec := { cls := 1, source := 0x0A }
def logged : State := { up with errs := [{ ue with seq := 0, count := 0xFFFF }], errSeq := 1 }
theorem witness_ErrorRecords_merge : ∃ x ∈ logged.errs, mergesWith x { ue with seq := logged.errSeq, bell := logged.stg.num, tNs := logged.stg.ptpNow } = true := by
  decide +kernel
theorem witness_ErrorRecords_new : ∀ x ∈ logged.errs,
    mergesWith x { ue with addr := 64#64, seq := logged.errSeq, bell := logged.stg.num, tNs := logged.stg.ptpNow } = false := by decide +kernel
theorem witness_ErrorRecords_corrected : (match decodeSyndromes (syndromes 1#256 0#32) with | .corrected _ _ => true | _ => false) = true := by decide +kernel
theorem witness_ErrorRecords_bad : decodeSyndromes (syndromes 3#256 0x100#32) = .uncorrectable := by decide +kernel
theorem witness_DieToDieLinks_words : (match decodeSyndromes (syndromes 1#256 0#32) with | .corrected _ _ => true | _ => false) = true ∧
    decodeSyndromes (syndromes 3#256 0x100#32) = .uncorrectable ∧ decodeSyndromes (syndromes 0#256 0#32) ≠ .uncorrectable := by decide +kernel
theorem witness_DieToDieLinks : linkLive up 4 = true ∧ linkLive up 5 = true ∧ linkLive up 0 = true := by decide +kernel
theorem witness_DieToDieLinks_third :
    2 ≤ ((tabGet {} (modSb (fun b => { b with links := [(4, { faultTimes := [0, 0] })] }) up).sb.links 4 : Link).faultTimes.filter
      (fun x => decide (up.stg.upNs < x + secNs))).length := by decide +kernel

-- the Innkeeper

def cmdOf (op : Nat) (args : List Word) : Cmd :=
  { ph := 0, slot := 0, opcode := BitVec.ofNat 16 op, cls := 1, flush := false, ordered := false, tag := 0#32, args := args, phase := .working }
def desk (op : Nat) (args : List Word) (s : State) : State := setCmd 0 (some (cmdOf op args)) s
def rtRegion : Region := { base := runtimeAreaBase, len := runtimeAreaLen, policy := 1, keep := true, mirrored := true }
def inn : State := { up with regions := [flat, rtRegion] }

theorem witness_SealAndRingWrites_report : (getPh inn 0).st = .open_ ∧ (0x10000#64).extractLsb' 16 8 = (getPh inn 0).epoch ∧
    ((0x10000#64).setWidth 16 : BitVec 16).toNat % 256 = 0 ∧ (((0x10000#64).setWidth 16 : BitVec 16) - (getPh inn 0).head).toNat < 256 := by decide +kernel
theorem witness_SealAndRingWrites_bad : ¬ ((0x20000#64).extractLsb' 16 8 = (getPh inn 0).epoch) := by decide +kernel
theorem witness_SealAndRingWrites_ring : (0x10000#64).extractLsb' 16 8 = (getPh inn 0).epoch ∧
    ((getPh inn 0).cqTail - ((0x10000#64).setWidth 16 : BitVec 16)).toNat ≤ 256 := by decide +kernel
/-- The home of an address holds its line, alone. -/
def holding (rg : Region) (a : Nat) (s : State) : State := modHome (rg.home (a / 32 * 32)) (fun h => { h with lines := [(lineOf a, some filledLine)] }) s
theorem witness_SealAndRingWrites_seal : WriteReady (.px 0) (runtimeAreaBase + 63 * 0x8000 + 255 * 64 + 0x38) rtRegion filledLine
      (holding rtRegion (runtimeAreaBase + 63 * 0x8000 + 255 * 64 + 0x38) inn) ∧
    phAt (holding rtRegion (runtimeAreaBase + 63 * 0x8000 + 255 * 64 + 0x38) inn) (runtimeAreaBase + 63 * 0x8000 + 255 * 64 + 0x38) = some 63 ∧
    (getPh inn 63).st = .open_ ∧ (getPh inn 63).area = runtimeAreaBase + 63 * 0x8000 ∧ (getPh inn 63).area % 128 = 0 :=
  ⟨⟨by decide +kernel, by decide +kernel, by unfold HoldsAlone; decide +kernel, by decide +kernel, by decide +kernel,
    fun _ b h => by rcases h with rfl | rfl <;> decide +kernel⟩, by decide +kernel, by decide +kernel, by decide +kernel, by decide +kernel⟩
theorem witness_SealAndRingWrites_ctl : WriteReady (.px 0) (runtimeAreaBase + 0x4000) rtRegion filledLine (holding rtRegion (runtimeAreaBase + 0x4000) inn) ∧
    phAt (holding rtRegion (runtimeAreaBase + 0x4000) inn) (runtimeAreaBase + 0x4000) = some 0 :=
  ⟨⟨by decide +kernel, by decide +kernel, by unfold HoldsAlone; decide +kernel, by decide +kernel, by decide +kernel,
    fun _ b h => by rcases h with rfl | rfl <;> decide +kernel⟩, by decide +kernel⟩
def guestPh : State := modPh 64 (fun p => { p with st := .open_, area := 0x8000 }) inn
theorem witness_SealAndRingWrites_guest : WriteReady .network (0x8000 + 0x38) flat filledLine (holding flat (0x8000 + 0x38) guestPh) ∧
    phAt (holding flat (0x8000 + 0x38) guestPh) (0x8000 + 0x38) = some 64 :=
  ⟨⟨by decide +kernel, by decide +kernel, by unfold HoldsAlone; decide +kernel, by decide +kernel, by decide +kernel,
    fun h => (by cases h)⟩, by decide +kernel⟩

def filledPh : State := modPh 5 (fun p => { p with full := [(0, some 0#64)] }) inn
def slotRead : Option (List Byte) × State := homeReadBytes .innkeeper ((getPh filledPh 5).area + 0 * 64) 64 filledPh
theorem witness_Acceptance_bad : innkUp filledPh = true ∧ isTurn filledPh 5 = true ∧ headSlot filledPh 5 = some (0, 0#64) ∧
    slotRead.1 = some (List.replicate 64 0#8) ∧ slotRead.2.innk = filledPh.innk ∧
    acceptCheck slotRead.2 (slotCmd slotRead.2 5 0 (List.replicate 64 0#8)) 0#64 0#8 0#8 = some stBadArg := by decide +kernel
def identSlot : State := setMemByte (runtimeAreaBase + 5 * 0x8000 + 2) 1#8 (setMemByte (runtimeAreaBase + 5 * 0x8000) 1#8 filledPh)
def identRead : Option (List Byte) × State := homeReadBytes .innkeeper ((getPh identSlot 5).area + 0 * 64) 64 identSlot
theorem witness_Acceptance_good : innkUp identSlot = true ∧ isTurn identSlot 5 = true ∧
    identRead.1 = some ([1#8, 0#8, 1#8] ++ List.replicate 61 0#8) ∧ identRead.2.innk = identSlot.innk ∧
    (slotCmd identRead.2 5 0 ([1#8, 0#8, 1#8] ++ List.replicate 61 0#8)).cls = 1 ∧
    acceptCheck identRead.2 (slotCmd identRead.2 5 0 ([1#8, 0#8, 1#8] ++ List.replicate 61 0#8)) 0#64 1#8 0#8 = none := by decide +kernel

def closeSlot (n : Nat) (s : State) : State :=
  setMemByte ((getPh s n).area + 8) 3#8 (setMemByte ((getPh s n).area + 2) 1#8 (setMemByte ((getPh s n).area + 1) 5#8 (setMemByte (getPh s n).area 2#8
    (modPh n (fun p => { p with full := [(0, some 0#64)] }) (modPh 67 (fun p => { p with st := .open_, area := 0x100000, maxInflight := 4 }) s)))))
def closing (n : Nat) : State := closeSlot n (modPh 67 (fun p => { p with area := 0x100000 }) inn)
def closeRead (n : Nat) : Option (List Byte) × State := homeReadBytes .innkeeper ((getPh (closing n) n).area + 0 * 64) 64 (closing n)
def closeBytes : List Byte := [2#8, 5#8, 1#8, 0#8, 0#8, 0#8, 0#8, 0#8, 3#8] ++ List.replicate 55 0#8
theorem witness_Acceptance_close : ∀ n ∈ [5, 67], innkUp (closing n) = true ∧ isTurn (closing n) n = true ∧ headSlot (closing n) n = some (0, 0#64) ∧
    (closeRead n).1 = some closeBytes ∧ (closeRead n).2.innk = (closing n).innk ∧
    acceptCheck (closeRead n).2 (slotCmd (closeRead n).2 n 0 closeBytes) 0#64 1#8 0#8 = none ∧ (slotCmd (closeRead n).2 n 0 closeBytes).opcode = 0x0502#16 ∧
    67 = 64 + (slotCmd (closeRead n).2 n 0 closeBytes).num 0 ∧ (getPh (closing n) 67).st = .open_ := by decide +kernel

def queuedCmd (id op : Nat) (s : State) : State := setCmd id (some { cmdOf op [] with phase := .queued, waitBells := 16 }) s
def waitingTwo : State := modInnk (fun i => { i with normQ := [3], bulkQ := [4] }) (queuedCmd 4 0x0401 (queuedCmd 3 1 inn))
theorem witness_DispatchAndAging : innkUp waitingTwo = true ∧ nextPiece waitingTwo = some 3 ∧ (getCmd waitingTwo 3).isSome = true ∧
    nextPiece inn = none ∧ 4 ∈ waitingTwo.innk.bulkQ ∧ (getCmd waitingTwo 4).map (·.waitBells) = some 16 := by decide +kernel

def doneCmd (ph : Nat) : Cmd := { cmdOf 1 [] with ph := ph, phase := .done }
def finished (ph : Nat) : State := setCmd 9 (some (doneCmd ph)) inn
theorem witness_CompletionRecords_ring : getCmd (finished 0) 9 = some (doneCmd 0) ∧ innkWrites (finished 0) 0 = true ∧ (getPh (finished 0) 0).st ≠ .lost ∧
    ((getPh (finished 0) 0).cqTail - (getPh (finished 0) 0).cqHead).toNat < 256 ∧ isNextRecord (finished 0) (doneCmd 0) = true ∧
    cmdMoves (finished 0) (doneCmd 0).outcome = false ∧ (getPh (finished 0) 0).area = runtimeAreaBase ∧ (getPh (finished 0) 0).cq = (getPh (finished 0) 0).area + 0x6000 := by
  decide +kernel
theorem witness_CompletionRecords_home : WriteReady .innkeeper (runtimeAreaBase + 0x6000) rtRegion filledLine (holding rtRegion (runtimeAreaBase + 0x6000) (finished 0)) :=
  ⟨by decide +kernel, by decide +kernel, by unfold HoldsAlone; decide +kernel, by decide +kernel, by decide +kernel,
   fun _ b h => by rcases h with rfl | rfl <;> decide +kernel⟩
def point : Endpoint := { port := 0, ipver := 6, dscp := 0, qpn := 11, psn := 0, rkey := 1#32, ip := 5#128, pmtu := 1024 }
def wired (x : Guest) (c : Conn) (s : State) : State := modNet (fun e => { e with ports := [(0, { up := true })], guests := [(3, x)], conns := [(5, some c)] }) s
def finishedG (x : Guest) : State := wired x { peer := .guest 3, remoteId := 9#32, opened := true } (modPh 67 (fun p => { p with st := .open_, area := 0x100000 }) (finished 67))
def roceG : Guest := { transport := some .roce, endpoint := some point, qp := some { txPsn := 0 } }
def relayG : Guest := { transport := some .relay, conn := some 5 }
theorem witness_CompletionRecords_roce : IdleRoce (67 - 64) { txPsn := 0 } point (finishedG roceG) ∧ 24 ≤ point.pmtu ∧ (getPh (finishedG roceG) 67).st = .open_ ∧
    isNextRecord (finishedG roceG) (doneCmd 67) = true ∧ cmdMoves (finishedG roceG) (doneCmd 67).outcome = false ∧ innkWrites (finishedG roceG) 67 = true :=
  ⟨⟨by decide +kernel, by decide +kernel, by decide +kernel, by decide +kernel⟩, by decide +kernel, by decide +kernel, by decide +kernel, by decide +kernel, by decide +kernel⟩
theorem witness_CompletionRecords_relay : IdleRelay (67 - 64) 5 { peer := .guest 3, remoteId := 9#32, opened := true } 0 (finishedG relayG) ∧
    isNextRecord (finishedG relayG) (doneCmd 67) = true :=
  ⟨⟨by decide +kernel, by decide +kernel, by decide +kernel, by decide +kernel, by decide +kernel, by decide +kernel⟩, by decide +kernel⟩
theorem witness_CompletionRecords_full : 256 ≤ ((getPh (modPh 0 (fun p => { p with cqTail := 256#16 }) (finished 0)) 0).cqTail -
    (getPh (modPh 0 (fun p => { p with cqTail := 256#16 }) (finished 0)) 0).cqHead).toNat ∧ (doneCmd 0).cqWaited = false := by decide +kernel
theorem witness_CompletionRecords_lost : (getPh (modPh 64 (fun p => { p with st := .lost }) (finished 64)) 64).st = .lost ∧
    isNextRecord (modPh 64 (fun p => { p with st := .lost }) (finished 64)) (doneCmd 64) = true ∧
    cmdMoves (modPh 64 (fun p => { p with st := .lost }) (finished 64)) (doneCmd 64).outcome = false ∧
    ({ doneCmd 64 with lost := some true } : Cmd).lost = some true := by decide +kernel

theorem witness_LockstepRestart : inn.innk.innk.halted ≠ 1#1 ∧ inn.mdl.st = .running ∧ inn.innk.lastMismatch = none ∧
    (modInnk (fun i => { i with lastMismatch := some 0 }) inn).stg.upNs ≤ 0 + 10000000000 := by decide +kernel
def restarted : State := modInnk (fun i => { i with innk := { i.innk with restarting := 1#1 } }) (desk 1 [] waitingTwo)
theorem witness_LockstepRestart_done : restarted.innk.innk.restarting = 1#1 ∧ (getCmd restarted 0).map (·.phase) = some .working ∧
    (getCmd restarted 3).map (·.phase) = some .queued ∧
    heldPieces (modPorter 2 (fun x => { x with cmdQ := [{ op := 2, flush := false, guest := 0, src := 0, dst := 0, len := 32, pattern := 0, owner := .cmd 7 0 }] }) restarted) 7 ≠ [] := by
  decide +kernel

-- the commands

theorem witness_UnusedArgumentBits : atWork (desk 0x0307 [0#64, 1#64] inn) 0 0x0307 = some (cmdOf 0x0307 [0#64, 1#64]) ∧
    argsFit (cmdOf 0x0307 [0#64, 1#64]) [allBits] = false := by decide +kernel
theorem witness_Commands_ident : atWork (desk 1 [] inn) 0 1 = some (cmdOf 1 []) ∧ argsFit (cmdOf 1 []) [] = true := by decide +kernel
def capsArgs : List Word := [0x1000#64, 64#64]
theorem witness_Commands_caps : argsFit (cmdOf 2 capsArgs) [allBits, allBits] = true ∧ atWork (desk 2 capsArgs inn) 0 2 = some (cmdOf 2 capsArgs) ∧
    cmdRange (desk 2 capsArgs inn) (cmdOf 2 capsArgs) true 0x1000 64 = none ∧
    (homeWriteBytes .innkeeper 0x1000 (List.replicate 64 7#8) (desk 2 capsArgs inn)).1 = true ∧
    getCmd (homeWriteBytes .innkeeper 0x1000 (List.replicate 64 7#8) (desk 2 capsArgs inn)).2 0 = some (cmdOf 2 capsArgs) := by decide +kernel
theorem witness_Commands_offline : atWork (desk 3 [0x23F#64] inn) 0 3 = some (cmdOf 3 [0x23F#64]) ∧ argsFit (cmdOf 3 [0x23F#64]) [0x3FF] = true ∧
    clusterIdWf 0x23F = true ∧ clusterFitted inn 0x23F = true ∧ clusterLive inn 0x23F = true ∧
    clusterFitted { inn with variant := .evist910 } 0x300 = false ∧ clusterIdWf 0x300 = true ∧
    clusterLive (modCluster 0 (fun c => { c with out := true }) inn) 0 = false := by decide +kernel
def stageArgs : List Word := [0x0008_0100_0014_01F4#64, 15#64]
theorem witness_Commands_stage : atWork (desk 0x11 stageArgs inn) 0 0x11 = some (cmdOf 0x11 stageArgs) ∧
    argsFit (cmdOf 0x11 stageArgs) [0x00FFFFFF03FF7FFF, 0xF] = true ∧ stageCfgOk (cfgDecided (desk 0x11 stageArgs inn)) 500 20 256 8 15 = true ∧
    boundCount (desk 0x11 stageArgs inn) = 0 := by decide +kernel

-- itineraries and jobs

/-- An image of 208 signed bytes and an empty signature block: one body of one cluster whose loop has one leg, which only ends. -/
def imgTab : Tab Byte :=
  [(0, 0x31#8), (1, 0x4E#8), (2, 0x49#8), (3, 0x54#8), (4, 1#8), (8, 0xF4#8), (9, 1#8), (10, 20#8), (12, 16#8), (14, 1#8),
   (0x10, 0x94#8), (0x11, 0x0F#8), (0x28, 0x80#8), (0x40, 0xD0#8)] ++
  [(0x80, 1#8), (0x82, 1#8), (0x83, 1#8), (0x88, 0xA0#8), (0x90, 0xA8#8), (0xAC, 1#8), (0xB0, 0xC0#8), (0xD0, 0x31#8), (0xD1, 0x47#8), (0xD2, 0x49#8), (0xD3, 0x53#8)]
def imgDigest : List Byte := wordBytes 32 (0xb1e423d8f3661c29e89cbbf13fe2b5528a79b5d8960f87509492cf224a64fd67#256)
def imgBytes : List Byte := (List.range 0xD8).map (fun k => tabGet 0#8 imgTab k) ++ imgDigest ++ List.replicate 3740 0#8
def loadArgs : List Word := [0x1000#64, 3988#64]
/-- The image lies in lines that home 0 holds: its sectors, of which the first eight are not 0. -/
def imgSector (j : Nat) : BitVec 256 :=
  if j < 8 then BitVec.ofNat 256 ((List.range 32).foldr (fun k n => n * 256 + (imgBytes.getD (32 * j + k) 0#8).toNat) 0) else 0#256
def imgState : State :=
  desk 0x0101 loadArgs (area { flat with ro := true, sealed := true } (modHome 0 (fun h => { h with lines := (List.range 32).map (fun l =>
    (32 + l, some { sectors := (List.range 4).map (fun k => { valid := true, data := imgSector (4 * l + k) }) })) }) up))
def imgRead : Option (List Byte) × State := homeReadBytes .innkeeper 0x1000 3988 imgState

/-- A sector holds all the bytes of its 32. -/
theorem lineSector_word (ls : List (Nat × List SectorVal)) (a : Nat) : lineSector ls a = lineSector ls (a / 32 * 32) := by
  unfold lineSector lineOf
  rw [show a / 32 * 32 / 128 = a / 128 by omega, show a / 32 * 32 / 32 = a / 32 by omega]
def imgLines : Option (List (Nat × List SectorVal)) × State := homeReadLines .innkeeper (rangeLines 0x1000 3988) imgState
def imgByte (i : Nat) : Byte := byteOf (lineSector (imgLines.1.getD []) (0x1000 + i)).data ((0x1000 + i) % 32)
theorem imgByte_head : (List.range 248).map imgByte = (List.range 0xD8).map (fun k => tabGet 0#8 imgTab k) ++ imgDigest := by decide +kernel
theorem imgByte_tail (i : Nat) (h : i < 3740) : imgByte (248 + i) = 0#8 := by
  have z : ∀ k ∈ List.range 125, 7 < k → (lineSector (imgLines.1.getD []) (0x1000 + 32 * k)).data = 0#256 ∨ k = 7 := by decide +kernel
  have e : (lineSector (imgLines.1.getD []) (0x1000 + (248 + i))).data = 0#256 ∨ i < 8 := by
    rw [lineSector_word, show (0x1000 + (248 + i)) / 32 * 32 = 0x1000 + 32 * ((248 + i) / 32) by omega]
    by_cases hi : i < 8
    · exact Or.inr hi
    · rcases z ((248 + i) / 32) (by simp; omega) (by omega) with h | h
      · exact Or.inl h
      · omega
  rcases e with e | e
  · unfold imgByte; rw [e]; unfold byteOf; simp
  · have s : ∀ j ∈ List.range 8, imgByte (248 + j) = 0#8 := by decide +kernel
    exact s i (by simpa using e)
theorem imgRead_bytes : imgRead.1 = some imgBytes := by
  have hs : imgLines.1.isSome = true := by decide +kernel
  have hl : imgLines.1 = some (imgLines.1.getD []) := by
    cases h : imgLines.1 with
    | none => rw [h] at hs; cases hs
    | some x => rfl
  have hr : imgRead.1 = some ((List.range 3988).map imgByte) := by
    change imgLines.1.map (fun ls => (List.range 3988).map (fun i => byteOf (lineSector ls (0x1000 + i)).data ((0x1000 + i) % 32))) = _
    conv_lhs => rw [hl]
    rfl
  rw [hr, show (3988 : Nat) = 248 + 3740 from rfl, List.range_add, List.map_append, imgByte_head, List.map_map]
  have ht : (List.range 3740).map (imgByte ∘ fun x => 248 + x) = List.replicate 3740 0#8 := by
    rw [List.eq_replicate_iff]
    refine ⟨by simp, fun b hb => ?_⟩
    obtain ⟨i, hi, rfl⟩ := List.mem_map.mp hb
    exact imgByte_tail i (List.mem_range.mp hi)
  rw [ht]; rfl
theorem witness_Commands_load : atWork imgState 0 0x0101 = some (cmdOf 0x0101 loadArgs) ∧ argsFit (cmdOf 0x0101 loadArgs) [allBits, allBits] = true ∧
    cmdRange imgState (cmdOf 0x0101 loadArgs) false 0x1000 3988 = none ∧ inSealed imgState 0x1000 3988 = true ∧ imgRead.1 = some imgBytes ∧
    getCmd imgRead.2 0 = some (cmdOf 0x0101 loadArgs) :=
  ⟨by decide +kernel, by decide +kernel, by decide +kernel, by decide +kernel, imgRead_bytes, by decide +kernel⟩
theorem witness_Commands_load_ok : imageStatus imgRead.2 imgBytes = none := by decide +kernel
theorem witness_Commands_load_bad : imageStatus imgRead.2 (imgBytes.drop 1) = some stBadArg := by decide +kernel

def resident (j : Option Job) (s : State) : State := setItin 0 (some { image := image, binding := some [0], job := j }) s
theorem witness_Commands_itinerary : (getItin (resident none inn) 0).map (·.evicting) = some false ∧
    atWork (desk 0x0102 [] (resident none inn)) 0 0x0102 = some (cmdOf 0x0102 []) ∧ argsFit (cmdOf 0x0102 []) [0xFFF] = true ∧
    jobActive (desk 0x0102 [] (resident none inn)) 0 = false ∧ atWork (desk 0x0103 [] (resident none inn)) 0 0x0103 = some (cmdOf 0x0103 []) := by decide +kernel
def unbindArgs : List Word := [0#64, 0x10#64]
theorem witness_Commands_unbind : atWork (desk 0x0105 unbindArgs (resident none inn)) 0 0x0105 = some (cmdOf 0x0105 unbindArgs) ∧
    argsFit (cmdOf 0x0105 unbindArgs) [0xFFF, allBits] = true ∧ tooLate (cmdOf 0x0105 unbindArgs) 0x10 = false ∧
    endedByEvict (desk 0x0105 unbindArgs (resident none inn)) 0 0 = false ∧ tooLate (cmdOf 0x0105 unbindArgs) 0 = true ∧
    endedByEvict (desk 0x0105 unbindArgs (modInnk (fun i => { i with acts := [.evict 0 9] }) (resident none inn))) 0 0 = true := by decide +kernel
def alone : Image := { image with peers := [], lenUs := 500, winUs := 20 }
def timed (s : State) : State := modStg (fun g => { g with time := { g.time with state := 1 } }) s
def bindArgs : List Word := [0#64, 0x10#64, 0x1000#64, 1#64]
def bindState : State := desk 0x0104 bindArgs (timed (setItin 0 (some { image := alone }) inn))
def bindRead : Option (List Byte) × State := homeReadBytes .innkeeper 0x1000 2 bindState
theorem witness_Commands_bind : atWork bindState 0 0x0104 = some (cmdOf 0x0104 bindArgs) ∧ argsFit (cmdOf 0x0104 bindArgs) [0xFFF, allBits, allBits, allBits] = true ∧
    alone.bodies[0]?.map (·.clusters) = some 1 ∧ alone.lenUs = (cfgAtBell (cmdOf 0x0104 bindArgs) 0x10).lenUs.toNat ∧ alone.winUs = (cfgAtBell (cmdOf 0x0104 bindArgs) 0x10).winUs.toNat ∧
    peerDevices alone = [] ∧ cmdRange bindState (cmdOf 0x0104 bindArgs) false 0x1000 2 = none ∧ bindRead.1 = some [0#8, 0#8] ∧
    getCmd bindRead.2 0 = some (cmdOf 0x0104 bindArgs) := by decide +kernel
theorem witness_Commands_bind2 : (placeOf [0#8, 0#8] 1).all clusterIdWf = true ∧ (placeOf [0#8, 0#8] 1).eraseDups.length = 1 ∧
    (∀ x ∈ placeOf [0#8, 0#8] 1, clusterLive bindRead.2 x = true ∧ (getCluster bindRead.2 x).offline = false) ∧ bindRead.2.stg.time.state ≠ timeUnset ∧
    beforeRestart bindRead.2 (bellInstant (cmdOf 0x0104 bindArgs) 0x10) = false ∧
    clashes bindRead.2 0 (bellInstant (cmdOf 0x0104 bindArgs) 0x10) (placeOf [0#8, 0#8] 1) = [] ∧ tooLate (cmdOf 0x0104 bindArgs) 0x10 = false ∧ endedByEvict bindState 0 0 = false := by decide +kernel

def jobAt (st : JobState) : Job := { id := 7#64, seed := 1#64, bell := 8, stages := 4, st := st, next := 2, released := 1 }
def solo (j : Option Job) : Itin := { image := alone, binding := some [0], job := j }
def bench (op : Nat) (args : List Word) (j : Option Job) : State := desk op args (timed (setItin 0 (some (solo j)) inn))
def prepArgs : List Word := [7#64, 0#64, 1#64, 4#64, 4#64]
theorem witness_JobCommands_prepare : (solo none).devicePeers = [] ∧ atWork (bench 0x0201 prepArgs none) 0 0x0201 = some (cmdOf 0x0201 prepArgs) ∧
    argsFit (cmdOf 0x0201 prepArgs) [allBits, 0xFFF, allBits, allBits, allBits] = true ∧ noLoop alone = false ∧ jobActive (bench 0x0201 prepArgs none) 0 = false ∧
    jobSlotIf (bench 0x0201 prepArgs none) 7#64 Job.active = none ∧ prepOf (bench 0x0201 prepArgs none) 7#64 = none ∧
    (bench 0x0201 prepArgs none).stg.time.state ≠ timeUnset ∧ 0 + 4 ≤ 4 := by decide +kernel
theorem witness_JobCommands_confirm : atWork (bench 0x0202 [7#64] (some (jobAt .prepared))) 0 0x0202 = some (cmdOf 0x0202 [7#64]) ∧
    argsFit (cmdOf 0x0202 [7#64]) [allBits] = true ∧ jobSlotIf (bench 0x0202 [7#64] (some (jobAt .prepared))) 7#64 (fun j => j.st == .prepared) = some 0 ∧
    confirming (bench 0x0202 [7#64] (some (jobAt .prepared))) 7#64 = false ∧ 0 + 1 < (jobAt .prepared).bell ∧
    ({ jobAt .prepared with bell := 1 } : Job).bell ≤ 0 + 1 := by decide +kernel
theorem witness_JobCommands_stop : jobSlot (bench 0x0203 [7#64, 0#64] (some (jobAt .running))) 7#64 = some 0 ∧ (jobAt .running).active = true ∧
    (jobAt .finished).active = false ∧ atWork (bench 0x0203 [7#64, 0#64] (some (jobAt .running))) 0 0x0203 = some (cmdOf 0x0203 [7#64, 0#64]) ∧
    argsFit (cmdOf 0x0203 [7#64, 0#64]) [allBits, allBits] = true := by decide +kernel
theorem witness_JobCommands_await : jobSlot (bench 0x0204 [7#64, 1#64] (some (jobAt .stopped))) 7#64 = some 0 ∧ (jobAt .stopped).released ≤ 1 ∧
    1 < (jobAt .stopped).stages ∧ 0 < (jobAt .running).released ∧ atWork (bench 0x0204 [7#64, 1#64] (some (jobAt .stopped))) 0 0x0204 = some (cmdOf 0x0204 [7#64, 1#64]) ∧
    atWork (bench 0x0205 [7#64] (some (jobAt .stopped))) 0 0x0205 = some (cmdOf 0x0205 [7#64]) := by decide +kernel

-- regions

def mapArgs : List Word := [0x400000#64, 0x1000#64, 9#64]
theorem witness_RegionCommands_map : atWork (desk 0x0301 mapArgs inn) 0 0x0301 = some (cmdOf 0x0301 mapArgs) ∧
    argsFit (cmdOf 0x0301 mapArgs) [allBits, allBits, 0xFF1F] = true ∧ inDevice 0x400000 0x1000 = true ∧ stackOf 0x400000 = stackOf (0x400000 + 0x1000 - 1) ∧
    ((9#64).getLsbD 3 = true ∧ (9#64).getLsbD 0 = true) ∧ stackLive (desk 0x0301 mapArgs inn) 0 = true ∧ decidedAt (desk 0x0301 mapArgs inn) 0x400000 = none ∧
    mapConflict (desk 0x0301 mapArgs inn) 0x400000 0x1000 none = none ∧ (mapDecided (desk 0x0301 mapArgs inn)).length < 65536 := by decide +kernel
def attrArgs : List Word := [0#64, 0x200000#64, 6#64]
theorem witness_RegionCommands_attr : atWork (desk 0x0301 attrArgs inn) 0 0x0301 = some (cmdOf 0x0301 attrArgs) ∧
    argsFit (cmdOf 0x0301 attrArgs) [allBits, allBits, 0xFF1F] = true ∧ inDevice 0 0x200000 = true ∧
    decidedAt (desk 0x0301 attrArgs inn) 0 = some flat ∧ mapConflict (desk 0x0301 attrArgs inn) 0 0x200000 (some 0) = none ∧ flat.sealed = false ∧
    holdsArea (desk 0x0301 attrArgs inn) flat = false := by decide +kernel
theorem witness_RegionCommands_unmap : atWork (desk 0x0302 [0#64] inn) 0 0x0302 = some (cmdOf 0x0302 [0#64]) ∧ argsFit (cmdOf 0x0302 [0#64]) [allBits] = true ∧
    decidedAt (desk 0x0302 [0#64] inn) 0 = some flat ∧ flat.base ≠ runtimeAreaBase ∧ holdsImage (desk 0x0302 [0#64] inn) flat = false ∧
    atWork (desk 0x0303 [0#64] inn) 0 0x0303 = some (cmdOf 0x0303 [0#64]) := by decide +kernel
theorem witness_RegionCommands_mirror : atWork (desk 0x0304 [0#64, 1#64] inn) 0 0x0304 = some (cmdOf 0x0304 [0#64, 1#64]) ∧
    argsFit (cmdOf 0x0304 [0#64, 1#64]) [allBits, 1] = true ∧ flat.mirrored = false ∧ flat.fromCopy = false ∧ stackLive inn 2 = true ∧ halfLive inn 2 = true ∧
    mapConflict (desk 0x0304 [0#64, 1#64] inn) (copyAddr 0) 0x200000 (some 0) = none ∧
    decidedAt (desk 0x0304 [BitVec.ofNat 64 runtimeAreaBase, 1#64] inn) runtimeAreaBase = some rtRegion ∧ rtRegion.mirrored = true := by decide +kernel
def pinArgs : List Word := [0x80#64, 0x1000#64]
theorem witness_RegionCommands_pin : argsFit (cmdOf 0x0305 pinArgs) [allBits, allBits] = true ∧
    lowestBad ((mapDecided (desk 0x0305 pinArgs inn)).flatMap (fun r => [r.base, r.base + r.len])) 0x80 0x1000
      (fun x => ((mapDecided (desk 0x0305 pinArgs inn)).find? (·.has x)).isNone) = none ∧
    lowestBad ((mapDecided (desk 0x0305 pinArgs inn)).flatMap (fun r => [r.base, r.base + r.len])) 0x80 0x1000
      (fun x => match (mapDecided (desk 0x0305 pinArgs inn)).find? (·.has x) with | some r => !halfLive (desk 0x0305 pinArgs inn) (r.home x) | none => false) = none ∧
    atWork (desk 0x0305 pinArgs inn) 0 0x0305 = some (cmdOf 0x0305 pinArgs) ∧ atWork (desk 0x0306 pinArgs inn) 0 0x0306 = some (cmdOf 0x0306 pinArgs) := by
  decide +kernel
theorem witness_RegionCommands_query : atWork (desk 0x0307 [0#64] inn) 0 0x0307 = some (cmdOf 0x0307 [0#64]) ∧ regionAt (desk 0x0307 [0#64] inn) 0 = some flat ∧
    argsFit (cmdOf 0x0307 [0#64]) [allBits] = true ∧ regionAt (desk 0x0307 [0x400000#64] inn) 0x400000 = none := by decide +kernel

-- porters, guests, records and firmware

def copyArgs : List Word := [0#64, 0x100000#64, 0x1000#64]
theorem witness_PorterCommands_first : atWork (desk 0x0401 copyArgs inn) 0 0x0401 = some (cmdOf 0x0401 copyArgs) ∧ choosePorter (desk 0x0401 copyArgs inn) = some 0 ∧
    argsFit (cmdOf 0x0401 copyArgs) [allBits, allBits, allBits] = true ∧ overlaps 0 0x1000 0x100000 0x1000 = false ∧
    cmdRange (desk 0x0401 copyArgs inn) (cmdOf 0x0401 copyArgs) false 0 0x1000 = none ∧
    cmdRange (desk 0x0401 copyArgs inn) (cmdOf 0x0401 copyArgs) true 0x100000 0x1000 = none := by decide +kernel
def openGuest (g : Nat) (s : State) : State := modPh (64 + g) (fun p => { p with st := .open_, area := 0x100000, maxInflight := 4 }) s
def pushArgs : List Word := [0#64, 0x12345#64, 0x1000#64, 3#64]
theorem witness_PorterCommands_push : atWork (desk 0x0403 pushArgs (openGuest 3 inn)) 0 0x0403 = some (cmdOf 0x0403 pushArgs) ∧
    (getPh (openGuest 3 inn) (64 + 3)).st = .open_ ∧ argsFit (cmdOf 0x0403 pushArgs) [allBits, allBits, allBits, 0x3FFF] = true ∧
    cmdRange (desk 0x0403 pushArgs (openGuest 3 inn)) (cmdOf 0x0403 pushArgs) false 0 0x1000 = none := by decide +kernel
def openArgs (tr : Nat) : List Word := [3#64, 0x100000#64, 0x2000#64, BitVec.ofNat 64 (4 + tr * 65536), 0x1000#64]
def homely : State :=
  modNet (fun e => { e with guests := [(3, { window := some (0x100000, 0x8000, 1) })], ports := [(0, { up := true })] })
    { (area { flat with policy := 1, keep := true, mirrored := true } up) with mem := [(0x1000, 1#8), (0x1002, 6#8), (0x1021, 16#8)] }
def opening (tr : Nat) : State := desk 0x0501 (openArgs tr) homely
def openRead (tr : Nat) : Option (List Byte) × State := homeReadBytes .innkeeper 0x1000 64 (opening tr)
theorem witness_GuestOpen : ∀ tr ∈ [1, 2], atWork (opening tr) 0 0x0501 = some (cmdOf 0x0501 (openArgs tr)) ∧
    argsFit (cmdOf 0x0501 (openArgs tr)) [0x3FFF, allBits, allBits, 0x303FF, allBits] = true ∧ areaOk (opening tr) 0x100000 = true ∧
    cmdRange (opening tr) (cmdOf 0x0501 (openArgs tr)) false 0x1000 64 = none ∧ getCmd (openRead tr).2 0 = some (cmdOf 0x0501 (openArgs tr)) ∧
    endpointOk (openRead tr).2 (tr == 1) ((openRead tr).1.getD []) = true ∧ areaTaken (openRead tr).2 3 0x100000 = false ∧
    windowDecided (openRead tr).2 3 = some (0x100000, 0x8000, 1) ∧ (getPh (openRead tr).2 67).st = .closed ∧
    portUp (openRead tr).2 (endpointAt ((openRead tr).1.getD [])).port = true ∧ (getPh (openRead tr).2 67).lostLog = [] := by decide +kernel
def phIs (st : PhState) : State := desk 0x0502 [3#64] (setCmd 1 (some { cmdOf 1 [] with ph := 67 }) (modPh 67 (fun p => { p with st := st }) inn))
theorem witness_GuestClose : (∀ st ∈ [PhState.closed, .lost, .open_], atWork (phIs st) 0 0x0502 = some (cmdOf 0x0502 [3#64]) ∧ (getPh (phIs st) 67).st = st) ∧
    argsFit (cmdOf 0x0502 [3#64]) [0x3FFF] = true ∧ (getCmd (phIs .open_) 1).map (·.ph) = some 67 ∧ 1 ∉ (getGuest (phIs .open_) 3).closeCmds := by decide +kernel
def winArgs : List Word := [3#64, 0x100000#64, 0x8000#64, 9#64]
theorem witness_GuestWindow : atWork (desk 0x0503 winArgs inn) 0 0x0503 = some (cmdOf 0x0503 winArgs) ∧
    argsFit (cmdOf 0x0503 winArgs) [0x3FFF, allBits, allBits, 0xFF] = true ∧ inDevice 0x100000 0x8000 = true ∧
    areaInWindow (desk 0x0503 winArgs inn) 3 0x100000 0x8000 9 = true := by decide +kernel

theorem witness_Records_power : atWork (desk 0x0601 [900#64] inn) 0 0x0601 = some (cmdOf 0x0601 [900#64]) ∧ argsFit (cmdOf 0x0601 [900#64]) [0xFFFF] = true ∧
    900 ≤ (desk 0x0601 [900#64] inn).variant.pmaxW ∧ atWork (desk 0x0602 [650#64] inn) 0 0x0602 = some (cmdOf 0x0602 [650#64]) ∧
    argsFit (cmdOf 0x0602 [650#64]) [0xFFFF] = true := by decide +kernel
theorem witness_Records_energy : ∀ k ∈ [0, 1, 2, 3], atWork (desk 0x0603 [BitVec.ofNat 64 k] (resident none inn)) 0 0x0603 = some (cmdOf 0x0603 [BitVec.ofNat 64 k]) ∧
    argsFit (cmdOf 0x0603 [BitVec.ofNat 64 k]) [3, allBits] = true ∧ (getItin (desk 0x0603 [BitVec.ofNat 64 k] (resident none inn)) 0).isSome = true := by
  decide +kernel
def ledgerArgs : List Word := [5#64, 1#64, 0x1000#64]
def ledgerState : State := desk 0x0701 ledgerArgs inn
theorem witness_Records_ledger : atWork ledgerState 0 0x0701 = some (cmdOf 0x0701 ledgerArgs) ∧ (cmdOf 0x0701 ledgerArgs).guest = none ∧
    argsFit (cmdOf 0x0701 ledgerArgs) [allBits, allBits, allBits] = true ∧ cmdRange ledgerState (cmdOf 0x0701 ledgerArgs) true 0x1000 256 = none ∧
    (homeWriteBytes .innkeeper 0x1000 [] ledgerState).1 = true ∧ ledgerState.ldg.records = [] := by decide +kernel
def faultArgs (k : Nat) : List Word := [BitVec.ofNat 64 k, 0#64, 1#64, 0x1000#64]
def faultState (k : Nat) : State := desk 0x0702 (faultArgs k) { inn with errs := [ue] }
theorem witness_Records_fault : ∀ k ∈ [0, 1], atWork (faultState k) 0 0x0702 = some (cmdOf 0x0702 (faultArgs k)) ∧
    argsFit (cmdOf 0x0702 (faultArgs k)) [1, allBits, allBits, allBits] = true ∧ cmdRange (faultState k) (cmdOf 0x0702 (faultArgs k)) true 0x1000 64 = none ∧
    (homeWriteBytes .innkeeper 0x1000 ue.bytes (faultState k)).1 = true ∧
    getCmd (homeWriteBytes .innkeeper 0x1000 ue.bytes (faultState k)).2 0 = some (cmdOf 0x0702 (faultArgs k)) := by decide +kernel

/-- A firmware image of no payload; its signature block has the digest of the 64 bytes covered and a public key of zeros, whose digest the slot
holds. What is left to R504 is ML-DSA.Verify, a free value. -/
def fwTab : Tab Byte :=
  [(0, 0x31#8), (1, 0x57#8), (2, 0x46#8), (3, 0x44#8), (8, 2#8), (0x10, 0x04#8), (0x11, 0x0F#8), (0x20, 0x40#8), (0x40, 0x31#8), (0x41, 0x47#8)] ++
  [(0x42, 0x49#8), (0x43, 0x53#8), (0x44, 1#8)]
def fwCovered : List Byte := (List.range 0x40).map (fun k => tabGet 0#8 fwTab k)
def fwBytes : List Byte := (List.range 0x48).map (fun k => tabGet 0#8 fwTab k) ++ wordBytes 32 (0x8fc9ce74cee20d9ed3dd97e1c5cb1a717f58312334f443183307893deb0c3a41#256) ++ List.replicate 3740 0#8
def fwArgs : List Word := [0x1000#64, 3844#64, 0#64]
def keyed : State := desk 0x0801 fwArgs { inn with sec := { inn.sec with slots := [(0, { fused := true, digest := some (0xf7fc7ed889402396b5c35b1b5bcd949f7ac69d02312d5feb988d0379411780bf#256) })] } }
theorem witness_Records_stage : atWork keyed 0 0x0801 = some (cmdOf 0x0801 fwArgs) ∧ argsFit (cmdOf 0x0801 fwArgs) [allBits, allBits, 0xF] = true ∧
    cmdRange keyed (cmdOf 0x0801 fwArgs) false 0x1000 3844 = none ∧ fwBytes.length = 3844 ∧ fieldNat fwBytes 0x10 8 = 3844 ∧ 3844 ≤ fwMax 0 ∧
    fieldNat fwBytes 4 1 = 0 ∧ (getComp keyed 0).reg.pending = 0#1 ∧ updating keyed = false := by decide +kernel
theorem witness_Records_stage_approved : blockCovers (fwBytes.take 64) (blockAt (fwBytes.drop 64)) = true ∧ slotUsable keyed 0 = true ∧
    (sha3 (blockAt (fwBytes.drop 64)).pubkey == slotDigest keyed 0) = true ∧ fieldNat fwBytes 0x20 8 = 0x40 + fieldNat fwBytes 0x18 8 ∧
    svnOf (BitVec.ofNat 32 (fieldNat fwBytes 8 4)) ≤ 64 ∧ (getComp keyed 0).svn ≤ svnOf (BitVec.ofNat 32 (fieldNat fwBytes 8 4)) := by decide +kernel
def stagedComp : State :=
  desk 0x0802 [0#64] (modComp 0 (fun c => { c with bankB := some { version := 2#32 }, reg := { c.reg with staged := 1#1 } }) inn)
theorem witness_Records_commit : atWork stagedComp 0 0x0802 = some (cmdOf 0x0802 [0#64]) ∧ argsFit (cmdOf 0x0802 [0#64]) [0xF] = true ∧
    (getComp stagedComp 0).reg.staged = 1#1 ∧ updating stagedComp = false ∧ atWork (desk 0x0803 [3#64] inn) 0 0x0803 = some (cmdOf 0x0803 [3#64]) := by decide +kernel
def quoteArgs : List Word := [0#64, 0x1000#64, 0x10000#64, 0xFFFF#64]
theorem witness_Records_quote : atWork (desk 0x0804 quoteArgs inn) 0 0x0804 = some (cmdOf 0x0804 quoteArgs) ∧
    argsFit (cmdOf 0x0804 quoteArgs) [allBits, allBits, allBits, 0xFFFF] = true ∧ cmdRange (desk 0x0804 quoteArgs inn) (cmdOf 0x0804 quoteArgs) false 0 32 = none ∧
    (∀ n, n ∈ [1, 0x10000] → cmdRange (desk 0x0804 quoteArgs inn) (cmdOf 0x0804 quoteArgs) true 0x1000 n = none) ∧ (desk 0x0804 quoteArgs inn).sec.idKeyOk = true ∧
    (homeReadBytes .innkeeper 0 32 (desk 0x0804 quoteArgs inn)).1 = some (List.replicate 32 0#8) := by decide +kernel

-- what the commands above do for a guest, and where a stage or an opening is not yet through

theorem witness_Commands_stage_read : atWork (desk 0x11 [0#64, 0#64] inn) 0 0x11 = some (cmdOf 0x11 [0#64, 0#64]) ∧ (cmdOf 0x11 [0#64, 0#64]).num 1 = 0 ∧
    (cmdOf 0x11 stageArgs).num 1 ≠ 0 ∧ (cmdOf 0x11 stageArgs).seen.bound = false := by decide +kernel
theorem witness_Commands_aborted : atWork (desk 0x0104 bindArgs (modInnk (fun i => { i with acts := [.evict 0 9] }) (resident none inn))) 0 0x0104 = some (cmdOf 0x0104 bindArgs) ∧
    (cmdOf 0x0104 bindArgs).num 3 ≠ 0 ∧ endedByEvict (desk 0x0104 bindArgs (modInnk (fun i => { i with acts := [.evict 0 9] }) (resident none inn))) 0 0 = true ∧
    atWork (desk 0x0010 [] inn) 0 0x0010 = some (cmdOf 0x0010 []) := by decide +kernel
/-- A command of guest 3, whose queue pair is idle. -/
def guestCmd (op : Nat) (args : List Word) : Cmd := { cmdOf op args with ph := 67 }
def asking (op : Nat) (args : List Word) : State := setCmd 0 (some (guestCmd op args)) (wired roceG { peer := .guest 3, remoteId := 9#32, opened := true } (modPh 67 (fun p => { p with st := .open_, area := 0x100000 }) inn))
theorem witness_Commands_caps_guest : atWork (asking 2 capsArgs) 0 2 = some (guestCmd 2 capsArgs) ∧ (guestCmd 2 capsArgs).guest = some 3 ∧ (guestCmd 2 capsArgs).num 1 = 64 ∧
    IdleRoce 3 { txPsn := 0 } point (asking 2 capsArgs) ∧ 0 < point.pmtu :=
  ⟨by decide +kernel, by decide +kernel, by decide +kernel, ⟨by decide +kernel, by decide +kernel, by decide +kernel, by decide +kernel⟩, by decide⟩
theorem witness_JobCommands_due : stopDue (bench 0x0203 [7#64, 0#64] (some (jobAt .stopped))) 7#64 = false ∧
    stopDue { bench 0x0203 [7#64, 0#64] (some (jobAt .stopped)) with ldg := { inn.ldg with stops := [{ itin := 0, job := 7#64, jsn := 2, fclass := 0, leg := none, fault := none }] } } 7#64 = true := by
  decide +kernel
def heldSeal : State := modHome 0 (fun h => { h with dir := [(0x100000 / 128, .owned 0)] })
    (modPx 0 (fun p => { p with cache := [(0x100000 / 128, some { sectors := List.replicate 4 { valid := true }, owned := true })] }) inn)
/-- A SEAL word that a processor cache owns is not zeroed; where none is held, zeroSeals answers true. -/
theorem witness_GuestOpen_held : (getPh inn 67).lostLog = [] ∧ (zeroSeals 0x100000 heldSeal).1 = false := by
  have h : ∀ (l : List Nat) (t : State), (l.foldl (fun p i =>
      let (ok, t) := homeWriteBytes .innkeeper (0x100000 + 64 * i + 0x38) (wordBytes 8 (0#64)) p.2
      (p.1 && ok, t)) (false, t)).1 = false := by
    intro l; induction l with
    | nil => intro t; rfl
    | cons a l ih => intro t; exact ih _
  refine ⟨by decide +kernel, ?_⟩
  have h0 : (homeWriteBytes .innkeeper (0x100000 + 64 * 0 + 0x38) (wordBytes 8 (0#64)) heldSeal).1 = false := by decide +kernel
  unfold zeroSeals
  rw [show List.range 256 = 0 :: (List.range 255).map Nat.succ from List.range_succ_eq_map, List.foldl_cons]
  simp only [h0, Bool.and_false]
  exact h _ _
theorem witness_GuestClose_idle : (∀ st ∈ [PhState.open_, .draining], (getPh (modPh 67 (fun p => { p with st := st }) (desk 0x0502 [3#64] inn)) 67).st = st) ∧
    (getGuest (desk 0x0502 [3#64] inn) 3).closeCmds = [] ∧ (cmdOf 0x0502 [3#64]).ph ≠ 64 + 3 := by decide +kernel
theorem witness_GuestWindow_none : atWork (desk 0x0503 [3#64, 0x100000#64, 0#64, 9#64] inn) 0 0x0503 = some (cmdOf 0x0503 [3#64, 0x100000#64, 0#64, 9#64]) ∧
    argsFit (cmdOf 0x0503 [3#64, 0x100000#64, 0#64, 9#64]) [0x3FFF, allBits, allBits, 0xFF] = true ∧
    ((getGuest inn 3).connected && (getGuest inn 3).openCmd == some 0) = false := by decide +kernel
theorem witness_PorterCommands_all : (∀ p ∈ [(0x0402, [0x1000#64, 0x1000#64, 5#64]), (0x0404, pushArgs)],
      atWork (desk p.1 p.2 (openGuest 3 inn)) 0 p.1 = some (cmdOf p.1 p.2) ∧ choosePorter (desk p.1 p.2 (openGuest 3 inn)) = some 0) ∧
    argsFit (cmdOf 0x0402 [0x1000#64, 0x1000#64, 5#64]) [allBits, allBits, allBits] = true ∧ (cmdOf 0x0401 copyArgs).again = [] ∧ (cmdOf 0x0401 copyArgs).lost = none ∧
    cmdRange (desk 0x0404 [0#64, 0x1000#64, 0x1000#64, 3#64] (openGuest 3 inn)) (cmdOf 0x0404 [0#64, 0x1000#64, 0x1000#64, 3#64]) true 0x1000 0x1000 = none := by decide +kernel
theorem witness_Records_energy_scopes : 0 < 4096 ∧ argsFit (cmdOf 0x0603 [2#64, 3#64]) [3, allBits] = true ∧ argsFit (cmdOf 0x0603 [3#64, 67#64]) [3, allBits] = true ∧
    67 < phCount ∧ (getItin (resident none inn) 0).map (·.evicting) = some false := by decide +kernel
theorem witness_Records_quote_guest : atWork (asking 0x0804 quoteArgs) 0 0x0804 = some (guestCmd 0x0804 quoteArgs) ∧
    argsFit (guestCmd 0x0804 quoteArgs) [allBits, allBits, allBits, 0xFFFFFFFF] = true ∧ ((guestCmd 0x0804 quoteArgs).arg 3).setWidth 16 ≠ 0#16 ∧
    (guestCmd 0x0804 quoteArgs).num 3 < 2 ^ 16 ∧ (guestCmd 0x0804 quoteArgs).num 2 ≠ 0 := by decide +kernel

-- the network engine

def wire (c : Conn) (s : State) : State :=
  modNet (fun e => { e with ports := [(0, { up := true, v4 := { addr := 1#32 } })], conns := [(5, some c)] }) (openGuest 3 s)
def netGuest (x : Guest) (s : State) : State := modNet (fun e => { e with guests := [(3, x)] }) s
def connG : Conn := { peer := .guest 3, remoteId := 9#32, opened := true }
def connD : Conn := { peer := .device 7#64, remoteId := 9#32, opened := true }
def hdr (src : BitVec 128) (dport : BitVec 16) : IpHdr := { v6 := false, src := src, dst := mapped4 1#32, dscp := 0#6, ecn := 2#2, sport := 49152#16, dport := dport }
def hdrRelay (src : BitVec 128) : IpHdr := hdr src up.net.cfgEff.relayUdp
def pktOf (src : BitVec 128) (psn a : Nat) : RelayPkt :=
  { port := 0, fcsOk := true, crcOk := true, ip := hdrRelay src, conn := 5#32, psn := BitVec.ofNat 32 psn, last := true, retx := false, immValid := false, imm := 0#32
    addr := BitVec.ofNat 64 a, ord := 0#16, payload := List.replicate 32 1#8 }
def pktG : Nat → Nat → RelayPkt := pktOf 5#128
def pktD : Nat → Nat → RelayPkt := pktOf 0x700#128
/-- A frame of the tests passes its checks in every state with the port of the tests. -/
theorem frameFits {s : State} {ip : IpHdr} {d : BitVec 16} (hp : portUp s 0 = true) (ha : addressed s 0 ip.v6 ip.dst = true) (hd : ip.dport = d) (hc : ip.ce = false) :
    FrameFits 0 true true ip d s := ⟨hp, rfl, rfl, ha, hd, hc⟩
def windowed : State := netGuest { window := some (0x108000, 0x8000, 0), conn := some 5, endpoint := some point } (wire connG (area flat up))
theorem witness_RelayPackets_checks : portUp windowed 0 = true ∧ portUp windowed 1 = false ∧ getConn windowed 6 = none ∧
    addressed windowed 0 false 0#128 = false := by decide +kernel
theorem witness_RelayPackets_stranger : FrameFits 0 true true (hdrRelay 6#128) windowed.net.cfgEff.relayUdp windowed ∧ getConn windowed 5 = some connG ∧
    peerHas windowed connG.peer 6#128 = false ∧ getConn windowed 6 = none :=
  ⟨frameFits (by decide +kernel) (by decide +kernel) rfl rfl, by decide +kernel, by decide +kernel, by decide +kernel⟩
theorem relayFits : RelayFits (pktG 0 0x108000) connG windowed :=
  ⟨frameFits (by decide +kernel) (by decide +kernel) rfl rfl, by decide +kernel, rfl, by decide +kernel⟩
theorem witness_RelayPackets_data : connG.seen 0 = false ∧ ({ connG with rxCum := 1 } : Conn).seen 0 = true ∧
    guestRefused windowed 3 true 0x108000 32 = false ∧ touchesArea windowed 0x108000 32 = false ∧ iodCut windowed = false ∧
    (homeWriteBytes .network 0x108000 (List.replicate 32 1#8) windowed).1 = true ∧
    getConn (homeWriteBytes .network 0x108000 (List.replicate 32 1#8) windowed).2 5 = some connG ∧ guestRefused windowed 3 true 0 32 = true ∧
    pickPort windowed (.guest 3) 0 = some 0 ∧ pickPort (wire connG up) (.guest 3) 0 = some 0 := by decide +kernel
/-- The command area of the guest lies in its window: the last packet of a message of one. -/
def ownArea : State := netGuest { window := some (0x100000, 0x8000, 0), conn := some 5, endpoint := some point } (wire { connG with rxCum := 1 } (area flat up))
theorem witness_RelayPackets_area : guestRefused ownArea 3 true 0x100000 32 = false ∧ touchesArea ownArea 0x100000 32 = true ∧ iodCut ownArea = false ∧
    ({ connG with rxCum := 1 } : Conn).rxOpen.contains ((1 + 2 ^ 32 - 1) % 2 ^ 32) = false ∧ ({ connG with rxCum := 1 } : Conn).seen ((1 + 2 ^ 32 - 1) % 2 ^ 32) = true ∧
    ({ connG with rxCum := 1 } : Conn).seen 1 = false ∧ (pktG 1 0x100000).last = true ∧
    (homeWriteBytes .network 0x100000 (List.replicate 32 1#8) ownArea).1 = true ∧
    getConn (homeWriteBytes .network 0x100000 (List.replicate 32 1#8) ownArea).2 5 = some { connG with rxCum := 1 } := by decide +kernel
theorem witness_RelayPackets_immediate : ({ pktG 0 0x108000 with immValid := true } : RelayPkt).payload ≠ [] ∧
    (homeWriteBytes .network 0x108000 (List.replicate 32 1#8) windowed).2.net.recvs = [] := by decide +kernel
def recvX : RecvX := { itin := 0, jsn := 0, entry := 0, peer := 0, ord := 0, addr := 0x1000, len := 32 }
def receiving : State := modNet (fun e => { e with recvs := [recvX] }) (resident none (wire connD inn))
theorem deviceFits : RelayFits (pktD 0 0) connD receiving :=
  ⟨frameFits (by decide +kernel) (by decide +kernel) rfl rfl, by decide +kernel, rfl, by decide +kernel⟩
theorem witness_RelayPackets_device : recvFor receiving (.device 7#64) 0#32 0 = some recvX ∧ 0 + 32 ≤ recvX.len ∧ recvX.len < 32 + 32 ∧
    recvFor (modNet (fun e => { e with recvs := [{ recvX with posted := false }] }) receiving) (.device 7#64) 0#32 0 = some { recvX with posted := false } ∧
    (landRecv recvX 0 (List.replicate 32 1#8) receiving).1 = true ∧ getConn (landRecv recvX 0 (List.replicate 32 1#8) receiving).2 5 = some connD ∧
    recvFor receiving (.device 7#64) 1#32 0 = none ∧ staleTag receiving (.device 7#64) 1#32 = false := by decide +kernel
def sent1 : Unacked := { psn := 4, owner := .send 0 0 0, type := 1, addr := 0, payload := List.replicate 32 1#8 }
def flow1 : Flow := { owner := .send 0 0 0, total := 64 }
def sending : State := modNet (fun e => { e with flows := [flow1] }) (wire { connD with unacked := [sent1] } up)
theorem witness_RelayPackets_ack : RelayFits (pktD 5 0) { connD with unacked := [sent1] } sending ∧ sending.net.relayEff.dupThresh ≠ 0#4 ∧
    psnBefore 4 5 = true ∧ flowOf sending sent1.owner = some flow1 ∧ flow1.acked + 32 < flow1.total ∧
    flowOf (wire { connD with unacked := [sent1] } up) sent1.owner = none :=
  ⟨⟨frameFits (by decide +kernel) (by decide +kernel) rfl rfl, by decide +kernel, rfl, by decide +kernel⟩, by decide +kernel⟩
def buffering : State := netGuest { endpoint := some point } (desk 2 [] (wire { connG with unacked := [{ sent1 with owner := .buffer 0 }] } up))
theorem witness_RelayPackets_nak : RelayFits (pktG 4 0) { connG with unacked := [{ sent1 with owner := .buffer 0 }] } buffering ∧
    (getCmd buffering 0).map (·.phase) = some .working ∧ (getPh buffering 67).st = .open_ :=
  ⟨⟨frameFits (by decide +kernel) (by decide +kernel) rfl rfl, by decide +kernel, rfl, by decide +kernel⟩, by decide +kernel⟩
theorem witness_RelayPackets_read : RelayFits (pktG 0 0) { connG with window := 0 }
      (netGuest { window := some (0x108000, 0x8000, 0), endpoint := some point } (wire { connG with window := 0 } (area flat up))) ∧
    guestRefused windowed 3 false 0x108000 64 = false ∧ guestRefused windowed 3 false 0 64 = true :=
  ⟨⟨frameFits (by decide +kernel) (by decide +kernel) rfl rfl, by decide +kernel, rfl, by decide +kernel⟩, by decide +kernel⟩
def readX : ReadOut := { num := 0, owner := .send 0 0 0, len := 32, dst := none }
def reading : State := modNet (fun e => { e with flows := [{ flow1 with reads := 2 }] }) (wire { connD with reads := [readX] } up)
theorem witness_RelayPackets_response : RelayFits (pktD 0 0) { connD with reads := [readX] } reading ∧
    [readX].find? (fun r => r.num == 0) = some readX ∧ readX.len ≤ rangesLen (readX.got ++ newRuns readX.got 0 32) ∧
    flowOf reading readX.owner = some { flow1 with reads := 2 } :=
  ⟨⟨frameFits (by decide +kernel) (by decide +kernel) rfl rfl, by decide +kernel, rfl, by decide +kernel⟩, by decide +kernel⟩
theorem witness_RelayPackets_timers : getConn sending 5 = some { connD with unacked := [sent1] } ∧ pickPort sending (.device 7#64) 0 = some 0 ∧
    [sent1].find? (fun u => u.psn == 4) = some sent1 ∧ sent1.via = none ∧
    [{ sent1 with via := some 0 }].find? (fun u => u.psn == 4) = some { sent1 with via := some 0 } ∧
    getConn (wire { connD with rxSinceAck := 1 } up) 5 = some { connD with rxSinceAck := 1 } ∧ pickPort (wire { connD with rxSinceAck := 1 } up) (.device 7#64) 0 = some 0 := by
  decide +kernel

def roce (q : Qp) : State :=
  netGuest { window := some (0x108000, 0x8000, 0), qp := some q, endpoint := some point, transport := some .roce } (wire connG (area flat up))
def rpkt (psn : Nat) : RocePkt :=
  { port := 0, icrcOk := true, ip := hdr 5#128 4791#16, first := true, last := true, qpn := 0x10003#24, psn := BitVec.ofNat 24 psn, rkey := 0x01000003#32
    va := 0x108000#64, dmaLen := 32, imm := 0#32, payload := List.replicate 32 1#8, ackReq := true }
theorem witness_RoceConnections_write : RoceFits (rpkt 0) 3 { txPsn := 0 } point (roce { txPsn := 0 }) ∧
    guestRefused (roce { txPsn := 0 }) 3 true 0x108000 32 = false ∧ iodCut (roce { txPsn := 0 }) = false ∧
    (homeWriteBytes .network 0x108000 (List.replicate 32 1#8) (roce { txPsn := 0 })).1 = true ∧
    getGuest (homeWriteBytes .network 0x108000 (List.replicate 32 1#8) (roce { txPsn := 0 })).2 3 = getGuest (roce { txPsn := 0 }) 3 :=
  ⟨⟨frameFits (by decide +kernel) (by decide +kernel) rfl rfl, (by decide +kernel : qpGuest 0x10003#24 = some 3), by decide +kernel, by decide +kernel⟩, by decide +kernel⟩
theorem witness_RoceConnections_refused : psn24Before 0 5 = true ∧ psn24Before 5 0 = false ∧ guestRefused (roce { txPsn := 0 }) 3 true 0 32 = true ∧
    (getPh (roce { txPsn := 0 }) 67).st = .open_ ∧ ({ rpkt 0 with rkey := 0#32 } : RocePkt).rkey ≠ BitVec.ofNat 32 (0x01000000 + 3) := by decide +kernel
theorem witness_RoceConnections_read : guestRefused (roce { txPsn := 0 }) 3 false 0x108000 32 = false ∧
    (nextPayload { owner := .resp, addr := 0, len := 32, src := .mem 0x108000 } 32 (roce { txPsn := 0 })).1.isSome = true ∧
    getGuest (nextPayload { owner := .resp, addr := 0, len := 32, src := .mem 0x108000 } 32 (roce { txPsn := 0 })).2 3 = getGuest (roce { txPsn := 0 }) 3 := by decide +kernel
def qpSent : Qp := { txPsn := 5, unacked := [sent1] }
def qpRead : Qp := { txPsn := 5, reads := [readX] }
theorem witness_RoceConnections_ack : RoceFits (rpkt 4) 3 qpSent point (modNet (fun e => { e with flows := [flow1] }) (roce qpSent)) ∧
    flowOf (modNet (fun e => { e with flows := [flow1] }) (roce qpSent)) sent1.owner = some flow1 ∧ flow1.acked + sent1.payload.length < flow1.total ∧
    (getPh (modNet (fun e => { e with flows := [flow1] }) (roce qpSent)) 67).st ≠ .closed :=
  ⟨⟨frameFits (by decide +kernel) (by decide +kernel) rfl rfl, (by decide +kernel : qpGuest 0x10003#24 = some 3), by decide +kernel, by decide +kernel⟩, by decide +kernel⟩
theorem witness_RoceConnections_response : RoceFits (rpkt 0) 3 qpRead point (modNet (fun e => { e with flows := [{ flow1 with reads := 2 }] }) (roce qpRead)) ∧
    qpRead.reads.find? (fun r => decide ((0 + 2 ^ 24 - r.num) % 2 ^ 24 < max 1 (ceilDiv r.len 1024))) = some readX ∧
    readX.len ≤ rangesLen (readX.got ++ newRuns readX.got ((0 + 2 ^ 24 - readX.num) % 2 ^ 24 * 1024) 32) ∧
    flowOf (modNet (fun e => { e with flows := [{ flow1 with reads := 2 }] }) (roce qpRead)) readX.owner = some { flow1 with reads := 2 } :=
  ⟨⟨frameFits (by decide +kernel) (by decide +kernel) rfl rfl, (by decide +kernel : qpGuest 0x10003#24 = some 3), by decide +kernel, by decide +kernel⟩, by decide +kernel⟩
theorem witness_RoceConnections_timers : (getGuest (roce qpSent) 3).qp = some qpSent ∧ qpGuest 0x10003#24 = some 3 ∧ qpGuest 1#24 = none ∧ portUp (roce qpSent) 0 = true ∧
    (getGuest (roce qpSent) 3).endpoint = some point ∧ (getGuest (roce qpSent) 3).openCmd = none ∧ guestWaits (roce qpSent) 3 = true ∧
    (getPh (roce qpSent) 67).st = .open_ ∧ guestWaits up 3 = false := by decide +kernel
theorem witness_RoceConnections_open : (getGuest (netGuest { openCmd := some 0 } (desk 0x0501 [] up)) 3).openCmd = some 0 ∧
    (getCmd (netGuest { openCmd := some 0 } (desk 0x0501 [] up)) 0).map (·.phase) = some .working := by decide +kernel

def portDown : State := modNet (fun e => { e with ports := [(0, { failed := true })] }) { up with pwr := { up.pwr with domOn := BitVec.allOnes _ } }
theorem witness_PortsAndFlits_train : pacelTakes portDown 0 = false ∧ portPowered portDown 0 = true ∧ (getPort portDown 0).up = false ∧
    NothingToSend portDown ∧ ∀ g, (getGuest portDown g).openCmd = none :=
  ⟨by decide +kernel, by decide +kernel, by decide +kernel, ⟨fun _ _ h => (by cases h), fun _ _ h => (by cases h), rfl⟩, fun _ => rfl⟩
theorem witness_PortsAndFlits_frames : pacelTakes windowed 0 = false ∧ portUp windowed 0 = true ∧ portIp4 windowed 0 = some 1#32 ∧
    bestPort (modNet (fun e => { e with ports := [(0, { up := true })] }) up) = none := by decide +kernel
theorem witness_PortsAndFlits_pfc :
    (modNet (fun e => { e with cfgEff := { e.cfgEff with pfcEn := 1#1 } }) up).net.cfgEff.pfcEn = 1#1 ∧ NothingToSend (modNet (fun e => { e with cfgEff := { e.cfgEff with pfcEn := 1#1 } }) up) :=
  ⟨rfl, fun _ _ h => (by cases h), fun _ _ h => (by cases h), rfl⟩
def pacelState (b : Bool) : State := modNet (fun e => { e with pacel := { e.pacel with enabled := true, up := b } }) { up with pwr := { up.pwr with domOn := BitVec.allOnes _ } }
theorem witness_PortsAndFlits_pacel : (pacelState false).net.pacel.enabled = true ∧ pacelTakes (pacelState false) 6 = true ∧ portPowered (pacelState false) 6 = true ∧
    (pacelState false).net.pacel.up = false ∧ (pacelState false).net.pacel.queue = [] := by decide +kernel
def flitState : State := modNet (fun e => { e with recvs := [recvX], pacel := { e.pacel with enabled := true, up := true } }) (resident none inn)
theorem witness_PortsAndFlits_flit : flitState.net.pacel.up = true ∧ peerAt flitState 0 0 = some (.device 7#64) ∧
    (Config.isT4 7#64 = true → (flitState.net.recvs.find? (fun r => (match peerAt flitState r.itin r.peer with | some (.device d) => Config.isT4 d | _ => false) &&
        BitVec.ofNat 32 r.jsn == 0#32 && r.ord == 0)) = some recvX) ∧
    (landRecv recvX 0 (List.replicate 32 1#8) flitState).1 = true ∧ (landRecv recvX 0 (List.replicate 32 1#8) flitState).2.net.pacel.queue = [] := by
  refine ⟨by decide +kernel, by decide +kernel, fun h => ?_, by decide +kernel, by decide +kernel⟩
  have hr : flitState.net.recvs = [recvX] := rfl
  have hp : peerAt flitState recvX.itin recvX.peer = some (.device 7#64) := by decide +kernel
  rw [hr]; simp only [List.find?, hp, h]; rfl

-- jobs over several devices

def ctrlOf (kind : Nat) (job : Word) (round members : Nat) (connId : BitVec 32) (bell stages : Nat) (mhash : BitVec 256) : CtrlMsg :=
  { port := 0, fcsOk := true, crcOk := true, ip := hdrRelay 0x700#128, conn := 5#32, psn := 0#32, imm := 0#32, addr := 0#64
    payload := wordBytes 8 job ++ wordBytes 8 7#64 ++ [BitVec.ofNat 8 round, 0#8] ++ wordBytes 2 (BitVec.ofNat 16 members) ++ wordBytes 4 connId ++
      wordBytes 8 (BitVec.ofNat 64 bell) ++ wordBytes 8 (BitVec.ofNat 64 stages) ++ wordBytes 8 0#64 ++ wordBytes 32 mhash ++ List.replicate (ctrlLen kind - 80) 0#8 }
def helloMsg : CtrlMsg := ctrlOf 1 0#64 0 0 9#32 0 0 0#256
def prepMsg (round : Nat) : CtrlMsg := ctrlOf 2 7#64 round 2 0#32 40 4 (membersHash [3#64, 7#64])
def ctrlMsg (kind : Nat) : CtrlMsg := ctrlOf kind 7#64 (if kind = 3 then 1 else 0) 0 0#32 0 0 0#256
def talk (s : State) : State := wire connD s
theorem ctrlFits {kind : Nat} {m : CtrlMsg} {c : Conn} {s : State} (h : m.port = 0 ∧ m.fcsOk = true ∧ m.crcOk = true ∧ portUp s 0 = true ∧
    addressed s 0 m.ip.v6 m.ip.dst = true ∧ m.ip.dport = s.net.cfgEff.relayUdp ∧ m.ip.ce = false ∧ m.wellFormed kind = true ∧ getConn s m.conn.toNat = some c ∧
    c.opened = true ∧ peerHas s c.peer m.ip.src = true ∧ c.peer = .device m.sender ∧ c.seen m.psn.toNat = false ∧ innkUp s = true) : CtrlFits kind m c s := by
  obtain ⟨hn, hf, hc, h1, h2, h3, h4, h5, h6, h7, h8, h9, h10, h11⟩ := h
  exact ⟨⟨by rw [hn]; exact h1, hf, hc, by rw [hn]; exact h2, h3, h4⟩, h5, h6, h7, h8, h9, h10, h11⟩
def rooted : Prep := { job := 7#64, cmd := 0, itin := 0, seed := 1#64, reqBell := 30, stages := 4, members := [3#64, 7#64], myPos := 0, round := 1, bell := 30, offer := 30, acked := [0] }
def leafy : Prep := { rooted with myPos := 1, acked := [1] }
def preparing (p : Prep) : State := modNet (fun e => { e with preps := [p] }) (desk 0x0201 [] (resident none (talk up)))
theorem witness_JobTreeMessages_hello : FrameFits helloMsg.port helloMsg.fcsOk helloMsg.crcOk helloMsg.ip up.net.cfgEff.relayUdp (talk up) ∧ helloMsg.wellFormed 1 = true ∧
    innkUp (talk up) = true ∧ innkUp State.reset = false ∧
    helloConn (wire { connD with opened := false } up) helloMsg = some (5, { connD with opened := false }) ∧ (Peer.device 7#64) = .device helloMsg.sender ∧
    helloConn (wire { connD with rxCum := 1 } up) helloMsg = some (5, { connD with rxCum := 1 }) ∧ connD.remoteId = helloMsg.connId ∧
    ({ connD with rxCum := 1 } : Conn).seen helloMsg.psn.toNat = true ∧ pickPort (wire { connD with rxCum := 1 } up) (.device 7#64) 0 = some 0 :=
  ⟨frameFits (by decide +kernel) (by decide +kernel) rfl rfl, by decide +kernel⟩
theorem witness_JobTreeMessages_early : CtrlFits 2 (prepMsg 1) connD (talk up) ∧ prepOf (talk up) 7#64 = none ∧ jobSlot (talk up) 7#64 = none :=
  ⟨ctrlFits (by decide +kernel), by decide +kernel, by decide +kernel⟩
theorem witness_JobTreeMessages_prepare : CtrlFits 2 (prepMsg 2) connD (preparing leafy) ∧ (prepMsg 2).job = 7#64 ∧ prepOf (preparing leafy) 7#64 = some leafy ∧
    leafy.myPos ≠ 0 ∧ (prepMsg 2).members = leafy.members.length ∧ (prepMsg 2).mhash = membersHash leafy.members ∧ (prepMsg 2).stages = leafy.stages ∧
    leafy.round < (prepMsg 2).round :=
  ⟨ctrlFits (by decide +kernel), by decide +kernel, by decide +kernel, by decide, by decide +kernel, by decide +kernel, by decide +kernel, by decide +kernel⟩
theorem witness_JobTreeMessages_differs : (prepMsg 2).stages ≠ ({ leafy with stages := 5 } : Prep).stages ∧ connOf (preparing leafy) (.device (prepMsg 2).sender) = some 5 ∧
    CtrlFits 2 (prepMsg 2) { connD with window := 0 } (modNet (fun e => { e with conns := [(5, some { connD with window := 0 })] }) (preparing { leafy with stages := 5 })) :=
  ⟨by decide +kernel, by decide +kernel, ctrlFits (by decide +kernel)⟩
def heard : Prep := { rooted with answered := posOf rooted.members 7#64 :: rooted.answered, acked := rooted.acked ++ [1].filter (fun i => !rooted.acked.contains i) }
/-- An answer to round 1 whose map names member 1. -/
def prepAckMsg : CtrlMsg := { ctrlMsg 3 with payload := ((ctrlMsg 3).payload.take 80) ++ [2#8] ++ List.replicate 511 0#8 }
theorem witness_JobTreeMessages_answer : CtrlFits 3 prepAckMsg connD (preparing rooted) ∧ prepAckMsg.job = 7#64 ∧ prepOf (preparing rooted) 7#64 = some rooted ∧
    prepAckMsg.round = rooted.round ∧ posOf rooted.members prepAckMsg.sender ∉ rooted.answered ∧ prepAckMsg.map = [1] ∧
    allAnswered heard = true ∧ (∀ i < rooted.members.length, i ∈ heard.acked) ∧ (getItin (preparing rooted) 0).isSome = true ∧
    (getCmd (preparing rooted) 0).map (·.phase) = some .working ∧ allAnswered { heard with members := [3#64, 7#64, 8#64], missing := [1], answered := [1] } = false :=
  ⟨ctrlFits (by decide +kernel), by decide +kernel, by decide +kernel, by decide +kernel, by decide +kernel, by decide +kernel, by decide +kernel,
   by decide +kernel, by decide +kernel, by decide +kernel, by decide +kernel⟩
def confirmMsg : CtrlMsg := ctrlOf 4 7#64 0 0 0#32 40 0 0#256
theorem witness_JobTreeMessages_confirm : CtrlFits 4 confirmMsg connD (preparing leafy) ∧ leafy.round ≠ 0 ∧ (getItin (preparing leafy) 0).isSome = true ∧
    (getCmd (preparing leafy) 0).map (·.phase) = some .working ∧ CtrlFits 5 (ctrlMsg 5) connD (preparing leafy) ∧ (ctrlMsg 5).job = 7#64 :=
  ⟨ctrlFits (by decide +kernel), by decide, by decide +kernel, by decide +kernel, ctrlFits (by decide +kernel), by decide +kernel⟩
def jobbed : State := resident (some (jobAt .running)) (talk up)
theorem witness_JobTreeMessages_abandon : CtrlFits 5 (ctrlMsg 5) connD jobbed ∧ prepOf jobbed 7#64 = none ∧ jobSlot jobbed 7#64 = some 0 ∧
    ((getItin jobbed 0).bind (·.job)) = some (jobAt .running) := ⟨ctrlFits (by decide +kernel), by decide +kernel⟩
def rolling (c : Word) : State := modNet (fun e => { e with rolls := [{ job := 7#64, coordinator := c, replies := [] }] }) jobbed
def rollMsg : CtrlMsg := ctrlOf 6 7#64 0 0 0#32 40 0 0#256
theorem witness_JobTreeMessages_rollback : CtrlFits 6 rollMsg connD jobbed ∧ rollMsg.job = 7#64 ∧ rollOf jobbed 7#64 = none ∧ CtrlFits 6 rollMsg connD (rolling 3#64) ∧
    rollOf (rolling 3#64) 7#64 = some { job := 7#64, coordinator := 3#64, replies := [] } ∧ (3#64).toNat < rollMsg.sender.toNat ∧
    jobSlot (rolling 3#64) 7#64 = some 0 :=
  ⟨ctrlFits (by decide +kernel), by decide +kernel, by decide +kernel, ctrlFits (by decide +kernel), by decide +kernel⟩
theorem witness_JobTreeMessages_coordinator : CtrlFits 7 (ctrlMsg 7) connD (rolling Config.deviceId) ∧
    rollOf (rolling Config.deviceId) 7#64 = some { job := 7#64, coordinator := Config.deviceId, replies := [] } ∧
    (∀ d ∈ (solo (some (jobAt .running))).devicePeers, d = (ctrlMsg 7).sender) ∧
    (Config.isT4 9#64 = false → 9#64 ∈ ({ solo none with image := { alone with peers := [.device 9#64] } } : Itin).devicePeers) :=
  ⟨ctrlFits (by decide +kernel), rfl, fun _ h => (by cases h),
   fun h => (by simp [Itin.devicePeers, h])⟩
theorem witness_JobTreeMessages_restart : CtrlFits 8 (ctrlOf 8 7#64 0 0 0#32 40 0 0#256) connD (rolling 7#64) ∧
    rollOf (rolling 7#64) 7#64 = some { job := 7#64, coordinator := (ctrlMsg 8).sender, replies := [] } := ⟨ctrlFits (by decide +kernel), by decide +kernel⟩
theorem witness_JobTreeMessages_wait : innkUp (preparing rooted) = true ∧ rollOf (preparing rooted) 7#64 = none ∧ rooted.replied = false ∧ leafy.replied = false ∧
    (∃ i < rooted.members.length, i ∉ rooted.acked) ∧ rooted.round < (preparing rooted).net.jobEff.prepRounds.toNat ∧
    (preparing { rooted with round := 15 }).net.jobEff.prepRounds.toNat ≤ 15 ∧ innkUp (rolling Config.deviceId) = true ∧
    prepOf (rolling Config.deviceId) 7#64 = none :=
  ⟨by decide +kernel, by decide +kernel, rfl, rfl, by decide +kernel, by decide +kernel, by decide +kernel, by rfl, by rfl⟩

-- legs and porters

def legTo (kind target desc : Nat) : Leg := { jsn := 2, start := 0, clusters := [0], entries := [{ kind := kind, target := target, offset := 0, desc := desc }] }
def legOf1 (kind desc : Nat) : Leg := legTo kind 0 desc
def entryOf (l : Leg) : Entry := l.entries.getD 0 { kind := 0, target := 0, offset := 0, desc := 0 }
def legItin (l : Leg) : Itin := { image := image, binding := some [0], job := some (jobAt .running), leg := some l }
def launching (l : Leg) (bytes : List (Nat × Byte)) : State := setItin 0 (some (legItin l)) { (wire { connD with window := 0 } inn) with mem := bytes }
/-- The descriptor of the leg's one entry, read, and what is left. -/
def descRead (l : Leg) (n : Nat) (s : State) : Option (List Byte) × State := imageBytes (legItin l) (entryOf l).desc n s
theorem witness_LegEntriesIssue_order : ∀ kind ∈ [1, 2, 3, 4], entryDue (launching (legOf1 kind 0) []) 0 0 kind = some (legItin (legOf1 kind 0), legOf1 kind 0, entryOf (legOf1 kind 0)) ∧
    inTableOrder (legOf1 kind 0) 0 (entryOf (legOf1 kind 0)) = true ∧ 0 ∉ (legOf1 kind 0).slipped ∧
    inTableOrder { legOf1 kind 0 with entries := [entryOf (legOf1 kind 0), entryOf (legOf1 kind 0)] } 1 (entryOf (legOf1 kind 0)) = false := by decide +kernel
def launchMem : List (Nat × Byte) := [(0x100108, 1#8), (0x100109, 2#8), (0x10010A, 4#8)]
theorem witness_LegEntriesIssue_launch : IssuesNow (launching (legOf1 1 0x100) launchMem) 0 0 1 (legItin (legOf1 1 0x100)) (legOf1 1 0x100) (entryOf (legOf1 1 0x100)) ∧
    ((descRead (legOf1 1 0x100) 80 (launching (legOf1 1 0x100) launchMem)).1.map (fun bs => (fieldNat bs 8 1, fieldNat bs 9 1, fieldNat bs 10 1))) = some (1, 2, 4) ∧
    getItin (descRead (legOf1 1 0x100) 80 (launching (legOf1 1 0x100) launchMem)).2 0 = some (legItin (legOf1 1 0x100)) ∧
    2 ≤ (getCore (launching (legOf1 1 0x100) []) 0 0).freeSlots.length ∧ (getCore (launching (legOf1 1 0x100) []) 0 0).regUsed + 2 * 4 ≤ 64 :=
  ⟨⟨by decide +kernel, by decide +kernel, by decide +kernel⟩, by decide +kernel⟩
theorem witness_LegEntriesIssue_empty : IssuesNow (launching (legOf1 1 0x100) []) 0 0 1 (legItin (legOf1 1 0x100)) (legOf1 1 0x100) (entryOf (legOf1 1 0x100)) ∧
    ((descRead (legOf1 1 0x100) 80 (launching (legOf1 1 0x100) [])).1.map (fun bs => (fieldNat bs 8 1, fieldNat bs 8 8))) = some (0, 0) :=
  ⟨⟨by decide +kernel, by decide +kernel, by decide +kernel⟩, by decide +kernel⟩
def crowded : State := modCore 0 0 (fun c => { c with slots := (List.range 16).map (fun i => (i, some car)) }) (launching (legOf1 1 0x100) launchMem)
theorem witness_LegEntriesIssue_full : (getCore crowded 0 0).freeSlots.length < 1 ∧ 0 ∉ (legOf1 1 0x100).slipped ∧
    IssuesNow crowded 0 0 1 (legItin (legOf1 1 0x100)) (legOf1 1 0x100) (entryOf (legOf1 1 0x100)) :=
  ⟨by decide +kernel, by decide, ⟨by decide +kernel, by decide +kernel, by decide +kernel⟩⟩
def moveMem : List (Nat × Byte) := [(0x100200, 2#8), (0x100210, 0x40#8), (0x100219, 0x10#8)]
theorem witness_LegEntriesIssue_move : IssuesNow (launching (legOf1 2 0x200) moveMem) 0 0 2 (legItin (legOf1 2 0x200)) (legOf1 2 0x200) (entryOf (legOf1 2 0x200)) ∧
    (((descRead (legOf1 2 0x200) 64 (launching (legOf1 2 0x200) moveMem)).1.map (fun bs => moveDesc bs (.leg 0 2 0))).map (fun d => (d.op, d.dst, d.len))) = some (2, 0x40, 0x1000) ∧
    getItin (descRead (legOf1 2 0x200) 64 (launching (legOf1 2 0x200) moveMem)).2 0 = some (legItin (legOf1 2 0x200)) ∧
    (getPorter (launching (legOf1 2 0x200) moveMem) 0).legQ.length < 32 ∧ (legOf1 2 0x200).suppressed = false ∧
    32 ≤ (getPorter (modPorter 0 (fun x => { x with legQ := List.replicate 32 { op := 2, flush := false, guest := 0, src := 0, dst := 0, len := 32, pattern := 0, owner := .cmd 0 0 } }) up) 0).legQ.length :=
  ⟨⟨by decide +kernel, by decide +kernel, by decide +kernel⟩, by decide +kernel⟩
def pushMem : List (Nat × Byte) := [(0x100200, 3#8), (0x100219, 0x10#8)]
def heldBack : Leg := { legOf1 2 0x200 with suppressed := true }
theorem witness_LegEntriesIssue_suppressed : IssuesNow (launching heldBack pushMem) 0 0 2 (legItin heldBack) heldBack (entryOf heldBack) ∧ heldBack.suppressed = true ∧
    (((descRead heldBack 64 (launching heldBack pushMem)).1.map (fun bs => moveDesc bs (.leg 0 2 0))).map (fun d => (d.op, d.len))) = some (3, 0x1000) :=
  ⟨⟨by decide +kernel, by decide +kernel, by decide +kernel⟩, by decide +kernel⟩
def xferMem : List (Nat × Byte) := [(0x100301, 0x10#8), (0x100308, 0x20#8)]
theorem noneQueued (s : State) (h : netQueued s = 0) : netFull s = false := by simp [netFull, h]
theorem witness_LegEntriesIssue_send : IssuesNow (launching (legOf1 3 0x300) xferMem) 0 0 3 (legItin (legOf1 3 0x300)) (legOf1 3 0x300) (entryOf (legOf1 3 0x300)) ∧
    (((descRead (legOf1 3 0x300) 32 (launching (legOf1 3 0x300) xferMem)).1.map (fun bs => (fieldNat bs 0 8, fieldNat bs 8 8)))) = some (0x1000, 32) ∧
    getItin (descRead (legOf1 3 0x300) 32 (launching (legOf1 3 0x300) xferMem)).2 0 = some (legItin (legOf1 3 0x300)) ∧ image.peers[0]? = some (.device 7#64) ∧
    netFull (descRead (legOf1 3 0x300) 32 (launching (legOf1 3 0x300) xferMem)).2 = false ∧
    connOf (descRead (legOf1 3 0x300) 32 (launching (legOf1 3 0x300) xferMem)).2 (.device 7#64) = some 5 ∧
    WindowFull (descRead (legOf1 3 0x300) 32 (launching (legOf1 3 0x300) xferMem)).2 5 { connD with window := 0 } ∧
    (descRead (legOf1 3 0x300) 32 (launching (legOf1 3 0x300) xferMem)).2.net.pacel.up = false :=
  ⟨⟨by decide +kernel, by decide +kernel, by decide +kernel⟩, by decide +kernel, by decide +kernel, rfl, noneQueued _ (by decide +kernel), by decide +kernel,
   by unfold WindowFull; decide +kernel, by decide +kernel⟩
def sendX : SendX := { itin := 0, jsn := 1, entry := 0, peer := 0, ord := 0, addr := 0, len := 32, remote := 0, flush := false }
theorem witness_LegEntriesIssue_queueFull (s : State) : netFull (modNet (fun e => { e with sends := List.replicate (Config.netQueueMore + 1) sendX }) s) = true := by
  simp only [netFull, netQueued, modNet, List.length_replicate, decide_eq_true_eq]; omega
def guestLeg (kind : Nat) : Leg := legTo kind 1 0x300
def toGuest (sup : Bool) (st : PhState) : State :=
  modPh 69 (fun p => { p with st := st }) (modNet (fun e => { e with guests := [(5, { conn := some 5 })], conns := [(5, some { connG with peer := .guest 5, window := 0 })] })
    (launching { guestLeg 3 with suppressed := sup } xferMem))
theorem witness_LegEntriesIssue_guest : IssuesNow (toGuest false .open_) 0 0 3 (legItin (guestLeg 3)) (guestLeg 3) (entryOf (guestLeg 3)) ∧ image.peers[1]? = some (.guest 5) ∧
    (getPh (descRead (guestLeg 3) 32 (toGuest false .open_)).2 69).st = .open_ ∧ (getGuest (descRead (guestLeg 3) 32 (toGuest false .open_)).2 5).conn = some 5 ∧
    WindowFull (descRead (guestLeg 3) 32 (toGuest false .open_)).2 5 { connG with peer := .guest 5, window := 0 } ∧
    netFull (descRead (guestLeg 3) 32 (toGuest false .open_)).2 = false ∧
    (getPh (descRead (guestLeg 3) 32 (toGuest false .lost)).2 69).st ≠ .open_ ∧ (getPh (descRead (guestLeg 3) 32 (toGuest false .lost)).2 69).st ≠ .draining :=
  ⟨⟨by decide +kernel, by decide +kernel, by decide +kernel⟩, rfl, by decide +kernel, by decide +kernel, by unfold WindowFull; decide +kernel,
   noneQueued _ (by decide +kernel), by decide +kernel, by decide +kernel⟩
theorem witness_LegEntriesIssue_guestHeld : IssuesNow (toGuest true .open_) 0 0 3 (legItin { guestLeg 3 with suppressed := true }) { guestLeg 3 with suppressed := true } (entryOf (guestLeg 3)) ∧
    netFull (descRead (guestLeg 3) 32 (toGuest true .open_)).2 = false :=
  ⟨⟨by decide +kernel, by decide +kernel, by decide +kernel⟩, noneQueued _ (by decide +kernel)⟩
theorem witness_LegEntriesIssue_recv : IssuesNow (launching (legOf1 4 0x300) xferMem) 0 0 4 (legItin (legOf1 4 0x300)) (legOf1 4 0x300) (entryOf (legOf1 4 0x300)) ∧
    netFull (descRead (legOf1 4 0x300) 32 (launching (legOf1 4 0x300) xferMem)).2 = false ∧
    lowestBad (addrEdges (launching (legOf1 4 0x300) xferMem)) 0x1000 32 (descBad (launching (legOf1 4 0x300) xferMem) (.leg 0 2 0) true) = none ∧
    lowestBad (addrEdges (launching (legOf1 4 0x300) xferMem)) 0x400000 32 (descBad (launching (legOf1 4 0x300) xferMem) (.leg 0 2 0) true) = some 0x400000 ∧
    (launching (legOf1 4 0x300) xferMem).net.recvs = [] :=
  ⟨⟨by decide +kernel, by decide +kernel, by decide +kernel⟩, noneQueued _ (by decide +kernel), by decide +kernel, by decide +kernel, by decide +kernel⟩
theorem witness_LegEntriesIssue_recvGuest : IssuesNow (launching (guestLeg 4) xferMem) 0 0 4 (legItin (guestLeg 4)) (guestLeg 4) (entryOf (guestLeg 4)) ∧
    (getPh (launching (guestLeg 4) xferMem) 69).st ≠ .lost := ⟨⟨by decide +kernel, by decide +kernel, by decide +kernel⟩, by decide +kernel⟩

def fillD : Desc := { op := 2, flush := false, guest := 0, src := 0, dst := 0x1000, len := 0x1800, pattern := 5, owner := .cmd 0 0 }
def copyD : Desc := { fillD with op := 1, src := 0x100000, len := 64 }
def portering (d : Desc) : State := modPorter 3 (fun x => { x with cmdQ := [d] }) (desk 0x0402 [] inn)
theorem witness_PorterChunks_fill : iodCut (portering fillD) = false ∧ nextChunk (portering fillD) 3 = some (fillD, true) ∧ descRefused (portering fillD) fillD = none ∧
    (clearAll (.porter 3) ((rangeLines 0x1000 4096).map (·.1)) (portering fillD)).1 = true := by decide +kernel
def copyClear : Bool × State := clearAll (.porter 3) ((rangeLines 0x1000 64).map (·.1)) (portering copyD)
def copyRead : Option (List (Nat × List SectorVal)) × State := homeReadLines (.porter 3) (rangeLines 0x100000 64) copyClear.2
def copyVals : List SectorVal := (List.range 2).map (fun i => lineSector (copyRead.1.getD []) (0x100000 + 0 + 32 * i))
theorem witness_PorterChunks_copy : nextChunk (portering copyD) 3 = some (copyD, true) ∧ descRefused (portering copyD) copyD = none ∧ copyClear.1 = true ∧ copyRead.1.isSome = true ∧
    poisonedAt 0x100000 (handOver 3 0x100000 none copyVals copyRead.2).1 = [] ∧
    poisonedAt 0x100000 (handOver 3 0x100000 (some { word := 1, err := ⟨0x0102030405060708#256, 0#32⟩, late := false }) copyVals copyRead.2).1 = [0x100020] := by
  decide +kernel
def legCopy : Desc := { copyD with src := 0x140000, owner := .leg 0 2 0 }
theorem witness_PorterChunks_poison : nextChunk (modPorter 3 (fun x => { x with legQ := [legCopy] }) (launching (legOf1 2 0x200) [])) 3 = some (legCopy, false) ∧
    descRefused (modPorter 3 (fun x => { x with legQ := [legCopy] }) (launching (legOf1 2 0x200) [])) legCopy = none := by decide +kernel
theorem witness_PorterChunks_refused : descRefused (portering { fillD with dst := 0x200000 }) { fillD with dst := 0x200000 } = some 0x200000 ∧
    nextChunk (portering { fillD with dst := 0x200000 }) 3 = some ({ fillD with dst := 0x200000 }, true) ∧
    (getCmd (portering fillD) 0).map (fun c => (c.wrote, c.phase, c.opcode)) = some (false, .working, 0x0402#16) := by decide +kernel
/-- A PUSH and a PULL of a guest of the Relay protocol whose window is full. -/
def remoteD (op : Nat) : Desc := { fillD with op := op, guest := 3, len := 64 }
def remoting (op : Nat) : State := netGuest { conn := some 5 } (wire { connG with window := 0 } (portering (remoteD op)))
def pushRead : Option (List (Nat × List SectorVal)) × State := homeReadLines (.porter 3) (rangeLines 0 64) (remoting 3)
theorem witness_PorterChunks_remote : (∀ op ∈ [3, 4], iodCut (remoting op) = false ∧ nextChunk (remoting op) 3 = some (remoteD op, true) ∧ descRefused (remoting op) (remoteD op) = none) ∧
    (getGuest (remoting 4) 3).conn = some 5 ∧ WindowFull (remoting 4) 5 { connG with window := 0 } ∧ pushRead.1.isSome = true ∧
    poisonedAt 0 ((List.range 2).map (fun i => lineSector (pushRead.1.getD []) (0 + 0 + 32 * i))) = [] ∧ (getGuest pushRead.2 3).conn = some 5 ∧
    WindowFull pushRead.2 5 { connG with window := 0 } :=
  ⟨by decide +kernel, by decide +kernel, by unfold WindowFull; decide +kernel, by decide +kernel, by decide +kernel, by decide +kernel, by unfold WindowFull; decide +kernel⟩
def doneD (o : Owner) : Desc := { fillD with moved := 0x1800, acked := 0x1800, owner := o }
def waitingCmd (op : Nat) : State :=
  modPorter 3 (fun x => { x with cmdQ := [doneD (.cmd 0 0)], legQ := [doneD (.leg 0 2 0)] })
    (setCmd 0 (some { cmdOf op [] with phase := .waiting, outstanding := 1 }) (launching (legOf1 2 0x200) []))
theorem witness_PorterChunks_complete : (doneD (.cmd 0 0)).complete = true ∧ (getPorter (waitingCmd 0x0403) 3).cmdQ[0]? = some (doneD (.cmd 0 0)) ∧
    (getPorter (waitingCmd 0x0403) 3).legQ[0]? = some (doneD (.leg 0 2 0)) ∧ ((getItin (waitingCmd 0x0403) 0).bind (·.leg)) = some (legOf1 2 0x200) ∧
    (getCmd (waitingCmd 0x0403) 0).map (fun c => (c.phase, c.outstanding)) = some (.waiting, 1) ∧ 0 ∉ (legOf1 2 0x200).done := by decide +kernel

-- stages and time, registers

def running (s : State) : State := resident (some (jobAt .running)) (modStg (fun g => { g with opened := true, time := { g.time with state := timeLocked } }) s)
def legged (l : Leg) (s : State) : State := setItin 0 (some { image := image, binding := some [0], job := some (jobAt .running), leg := some l }) (running s)
theorem witness_BellFalls : bellsFall (running inn) = true := by decide +kernel
theorem witness_WindowAndWatchdog : bellsFall (legged (legOf1 1 0) inn) = true ∧ (legged (legOf1 1 0) inn).stg.window = false ∧ up.stg.time.state = timeUnset ∧
    (legged { legOf1 1 0 with missed := 4 } (modStg (fun g => { g with window := true }) inn)).stg.window = true ∧
    inn.stg.cfg.wdogBells.toNat ≤ 4 ∧ 3 < inn.stg.cfg.wdogBells.toNat ∧ (legged (legOf1 1 0) inn).net.conns = [] := by decide +kernel
def ptpState (t : BitVec 2) : State :=
  modStg (fun g => { g with leftUnset := t != timeUnset, time := { g.time with state := t, errBound := 100#16 } })
    (modNet (fun e => { e with ports := [(2, { up := true, sync := true })], ptp := { e.ptp with ports := 4#8, active := 2#3, activeValid := 1#1 } }) up)
def ptpMsg (k : PtpKind) : PtpUpdate :=
  { port := 2, domain := up.net.ptp.domain, transport := up.net.ptp.transport, kind := k, locked := true, errNs := 100, offsetNs := 0, mpdNs := 50 }
def master1 : PtpMaster := { priority1 := 1, clockClass := 6, accuracy := 0x21, variance := 1, priority2 := 1, identity := 1#64, steps := 1 }
theorem witness_TimeUnit_messages : timeRuns (ptpState timeLocked) = true ∧ portUp (ptpState timeLocked) 2 = true ∧
    (∀ k ∈ [PtpKind.announce master1, .sync true, .management, .other], PtpFits (ptpMsg k) (ptpState timeLocked)) ∧
    activePort (ptpState timeLocked) = some 2 ∧ ¬ PtpFits { ptpMsg .other with domain := up.net.ptp.domain + 1#8 } (ptpState timeLocked) ∧ portUp (ptpState timeLocked) 3 = false := by
  unfold PtpFits; decide +kernel
theorem witness_TimeUnit_servo : (∀ k ∈ [PtpKind.sync false, .followUp, .delayResp], DrivesServo (ptpMsg k) (ptpState timeLocked) ∧ DrivesServo (ptpMsg k) (ptpState timeUnset)) ∧
    (ptpState timeLocked).stg.time.state ≠ timeUnset ∧ -(((ptpState timeLocked).stg.timeCfg.stepMs.toNat * 1000000 : Nat) : Int) ≤ 0 := by
  unfold DrivesServo PtpFits; decide +kernel
theorem witness_TimeUnit_lockLost : DrivesServo { ptpMsg .delayResp with locked := false } (modStg (fun g => { g with locked := true }) (ptpState timeLocked)) ∧
    (modStg (fun g => { g with locked := true }) (ptpState timeLocked)).stg.leftUnset = true ∧ (ptpState timeLocked).stg.time.errBound.toNat ≤ 200 := by
  unfold DrivesServo PtpFits; decide +kernel
theorem witness_TimeUnit_announce : (getPort (modPort 2 (fun p => { p with master := some master1 }) (ptpState timeLocked)) 2).master = some master1 ∧
    bestPort (modPort 2 (fun p => { p with master := some master1 }) (ptpState timeLocked)) = some 2 ∧ bestPort (ptpState timeLocked) = none ∧
    activePort (ptpState timeLocked) ≠ none := by decide +kernel
theorem witness_TimeUnit_pulses : (0 : Int).natAbs ≤ 1000 ∧ 1000 < (1001 : Int).natAbs ∧ (100 : Nat) ≤ 500000000 ∧
    2 ≤ (modStg (fun g => { g with ppsGood := 2 }) (ptpState timeHoldover)).stg.ppsGood := by decide +kernel
theorem witness_TimeUnit_step : (ptpState timeLocked).stg.leftUnset = true ∧ ((ptpState timeLocked).stg.timeCfg.stepMs.toNat * 1000000 : Int) < 4000000000000 ∧
    ((ptpState timeLocked).stg.timeCfg.backstepLimitS.toNat * 1000000000 : Int) < 4000000000000 ∧
    (modStg (fun g => { g with timeCfg := { g.timeCfg with backstepLimitS := 10 } }) up).stg.timeCfg.stepMs.toNat * 1000000 < 10 * 1000000000 := by decide +kernel
theorem witness_TimeUnit_unset : (ptpState timeUnset).stg.time.state = timeUnset ∧ (ptpState timeUnset).stg.leftUnset = false ∧
    (ptpState timeUnset).stg.time.stepRefused = 0#1 ∧ (ptpState timeUnset).stg.servo = none := by decide +kernel
theorem witness_TimeUnit_bound : (ptpState timeHoldover).stg.locked = false ∧ (ptpState timeHoldover).stg.time.state = timeHoldover ∧
    (ptpState timeHoldover).stg.time.errBound.toNat ≤ (200#16).toNat ∧ (200#16).toNat ≤ 200 ∧ 200 < (201#16).toNat := by decide +kernel
def cfgWord : Word := 0x8008_0100_0015_0320#64 ||| 0x0001_0000_0000_0000#64
theorem witness_RegisterWriting_apply : innkBooted inn = true ∧ cfgWord.getLsbD 63 = true ∧ lenWinOk (bitsNat cfgWord 0 15) (bitsNat cfgWord 16 10) = true ∧
    bitsNat cfgWord 32 16 ≠ 0 ∧ bitsNat cfgWord 48 8 ≠ 0 ∧ bitsNat cfgWord 0 15 ≠ (cfgDecided inn).lenUs.toNat ∧ bitsNat cfgWord 16 10 ≠ (cfgDecided inn).winUs.toNat ∧
    bitsNat cfgWord 32 16 ≠ (cfgDecided inn).ckptStages.toNat ∧ bitsNat cfgWord 48 8 ≠ (cfgDecided inn).wdogBells.toNat ∧ boundCount inn = 0 ∧
    lenWinOk (bitsNat (0x8001_0001_0014_0001#64) 0 15) (bitsNat (0x8001_0001_0014_0001#64) 16 10) = false := by decide +kernel
theorem witness_RegisterWriting_offline : clusterFitted inn 0x35F = true ∧ clusterLive inn 0x35F = true ∧ (getCluster inn 0x35F).offline = false ∧
    (getCluster (modCluster 0 (fun c => { c with out := true }) inn) 0).out = true ∧ clusterLive (modCluster 0 (fun c => { c with out := true }) inn) 0 = false := by decide +kernel
theorem witness_RegisterWriting_units : (∀ n, n < 8 → halfLive inn n = true ∧ stackLive inn n = true) ∧ clusterLive inn 0 = true := by decide +kernel

-- the processor complex

def pxSec : Sector := { valid := true, data := 9#256 }
def px (owned poison : Bool) (res : Option Nat) (s : State) : State :=
  modHart 1 (fun h => { h with released := true, reservation := res }) (modPx 0 (fun p => { p with
    cache := [(1, some { sectors := List.replicate 4 { pxSec with poison := poison }, owned := owned })] }) s)
def access (k : HartKind) (a n : Nat) : HartAccess := { hart := 1, va := a, kind := k, pa := a, size := n, nonCacheable := false }
theorem witness_ProcessorComplex_runs : hartRuns (px true false none inn) 1 = true ∧ hartRuns inn 1 = false := by decide +kernel
theorem witness_ProcessorComplex_vacant : (spanRanges (px true false none inn) (access .load 0x3000000 8)).contains .vacant = true ∧ accSizeOk (access .load 0x3000000 8) = true ∧
    (getHart (px true false none inn) 1).err.valid = 0#1 := by decide +kernel
theorem witness_ProcessorComplex_misaligned : (spanRanges (px true false none inn) (access .lr 0x84 8)).contains .vacant = false ∧
    (spanRanges (px true false none inn) (access .lr 0x84 8)).any (fun r => !ioPermits (access .lr 0x84 8) r) = false ∧ accMisaligned (access .lr 0x84 8) = true := by decide +kernel
theorem witness_ProcessorComplex_window : (access .load ctlBase 8).pa % 8 = 0 ∧ ctlBase ≤ (access .load ctlBase 8).pa ∧ (access .load ctlBase 8).pa < ctlBase + 10 * ctlBlock := by decide +kernel
theorem witness_ProcessorComplex_cache : pxRange (px true false (some 0x80) inn) 0x88 = .memory flat ∧ pxRange (px true false (some 0x80) inn) (0x88 + 8 - 1) = .memory flat ∧
    0x88 % 32 + 8 ≤ 32 ∧ ((getPx (px true false (some 0x80) inn) (hartDie 1)).line (0x88 / 128)).isSome = true ∧ flat.ro = false ∧
    (getHart (px true false (some 0x80) inn) 1).reservation = some (0x88 / 64 * 64) ∧ (getHart (px true true none inn) 1).reservation ≠ some (0x88 / 64 * 64) := by decide +kernel
theorem witness_ProcessorComplex_area : touchesArea (px true false none inn) 0x88 8 = false ∧
    touchesArea (modPh 67 (fun p => { p with st := .open_, area := 0 }) (px true false none inn)) 0x88 8 = true ∧
    pxRange (modPh 67 (fun p => { p with st := .open_, area := 0 }) (px true false none inn)) 0x88 = .memory flat := by decide +kernel
theorem witness_ProcessorComplex_readonly : pxRange (px true false none (area { flat with ro := true } up)) 0x88 = .memory { flat with ro := true } := by decide +kernel
def pxRegion : Region := { base := pxBase, len := pxLen }
def bootable (s : State) : State := modHart 1 (fun h => { h with released := true }) { s with regions := [pxRegion] }
theorem witness_ProcessorComplex_restart : hartRuns (bootable up) 1 = true ∧ innkUp (bootable up) = true ∧ (getPx (bootable up) 0).cache = [] ∧ (getPx (bootable up) 1).cache = [] ∧
    (getComp (bootable up) 3).bankOf (getComp (bootable up) 3).reg.bank.toNat = some {} ∧ bankPasses (bootable up) 3 {} = true ∧
    usable (bootable up) pxBase = some pxRegion ∧ pxNeeds ≤ pxRegion.len ∧
    (getComp (modComp 3 (fun c => { c with bankA := none }) (bootable up)) 3).bankOf 0 = none := by decide +kernel
theorem witness_ProcessorComplex_freq : (8#64).toNat % 64 = 8 ∧ (33#64).toNat % 64 = 33 ∧ (getPx (bootable up) 1).live = true ∧ (bootable up).mdl.st = .running := by decide +kernel

-- power, heat, the module

theorem witness_PowerAndHeat : inn.mdl.st = .running ∧ ({ inn with pwr := { inn.pwr with missing := 2 } } : State).pwr.missing = 2 ∧ 2 ≤ inn.sec.boot.toNat ∧
    inn.pwr.coolCfg.tjFlow.toNat ≤ 100 ∧ 95 + 5 ≤ inn.pwr.coolCfg.tjFlow.toNat := by decide +kernel
theorem witness_TripsAndDomains_trip : mainPower inn = true ∧ inn.mdl.st ≠ .tripped ∧ sensorTrips (.junction 6 (some 1151)) = true ∧ sensorTrips (.outlet (some 750)) = false := by
  decide +kernel
theorem witness_TripsAndDomains_domains : (fittedDomains State.reset.variant).getLsbD 23 = true ∧ State.reset.mdl.st ≠ .running ∧ mainPower State.reset = true ∧
    dieLive inn (11 / 3) = true ∧ (getPx inn 1).live = true ∧ stackLive inn (19 - 12) = true ∧ mainPower { State.reset with mdl := { st := .off } } = false ∧
    (fittedDomains State.reset.variant).getLsbD 29 = true := by decide +kernel
theorem witness_TripsAndDomains_rails : ∀ n ∈ [0, 12, 20, 22, 24], (List.range 31).any (fun r => railFitted State.reset.variant r && (railFeeds r).contains n) = true := by
  decide +kernel
theorem witness_TripsAndDomains_notFed : (List.range 31).any (fun r => !(railFeeds r).contains 0) = true ∧ railFitted State.reset.variant 31 = false := by decide +kernel
def idleHalf : State := { inn with pwr := { inn.pwr with cfg := { inn.pwr.cfg with idleOffStages := 3 }, idle := [(7, 3)], warming := 0x80#8 } }
theorem witness_TripsAndDomains_half : innkBooted idleHalf = true ∧ 7 < idleHalf.variant.stacks ∧ 0 < idleHalf.pwr.cfg.idleOffStages.toNat ∧
    idleHalf.pwr.cfg.idleOffStages.toNat ≤ tabGet 0 idleHalf.pwr.idle 7 ∧ halfNamed idleHalf 7 = false ∧ idleHalf.pwr.warming.getLsbD 7 = true ∧
    idleHalf.pwr.domFault.getLsbD (halfDomain 7) = false := by decide +kernel
def stated (m : Module) : State := { inn with mdl := m }
theorem witness_ModuleStates_power : (stated { st := .off, pwrEn := false }).mdl.st = .off ∧ (stated { st := .off, holdoff := true }).mdl.pwrEn = true ∧
    (stated { st := .latchedOff, pwrEn := false, holdoff := true }).mdl.st = .latchedOff ∧ (stated { st := .starting }).mdl.st = .starting ∧
    State.reset.mdl.st = .waitRelease ∧ State.reset.mdl.pwrGood = true ∧ inn.mdl.pwrEn = true ∧ mainPower inn = true := by decide +kernel
def booting : State := modComp 2 (fun c => { c with bankB := some {} }) { inn with sec := { inn.sec with boot := 1#2 } }
theorem witness_ModuleStates_boot : booting.mdl.st = .running ∧ booting.sec.boot = 1#2 ∧ booting.sec.innkFail = false ∧ (getComp booting 2).reg.fallback = 0#1 ∧
    booting.sec.innkTries = 0 ∧ (getComp booting 2).bankOf (getComp booting 2).inactive = some {} ∧ bankPasses booting 2 {} = true ∧
    (getComp (modComp 2 (fun c => { c with reg := { c.reg with fallback := 1#1 } }) booting) 2).reg.fallback = 1#1 := by decide +kernel

-- the sideband

def bus : State := { inn with sb := { onBus := true } }
theorem witness_SidebandBus : sbUp bus = true ∧ sbUp inn = false ∧ bus.sb.dynAddr = 0#7 ∧ ({ bus with sb := { bus.sb with dynAddr := 9#7 } } : State).sb.dynAddr ≠ 0#7 := by decide +kernel
theorem witness_PldmMonitoring : bus.sec.recovery = false ∧ 2 ≤ bus.sec.boot.toNat ∧ ({ bus with sec := { bus.sec with boot := 1#2 } } : State).sec.boot.toNat < 2 ∧
    sensorOf bus 0x0001 = some (true, 0) ∧ sensorOf bus 0 = none ∧ ({ bus with sb := { bus.sb with waiting := [1, 2], receiver := some 8#8 } } : State).sb.waiting = 1 :: [2] := by
  decide +kernel
def updatingIn (st : UpdState) : State := { bus with sb := { bus.sb with updState := st, updSize := 4, updBuf := List.replicate 4 0#8, updStaged := [0] } }
theorem witness_FirmwareUpdate : bus.sb.updState = .idle ∧ fwInFlight bus = false ∧ (∀ n < 4, (getComp bus n).reg.pending = 0#1) ∧ (updatingIn .ready).sb.updState = .ready ∧
    4 ≤ fwMax 0 ∧ (updatingIn .download).sb.updBuf.length = (updatingIn .download).sb.updSize ∧ (updatingIn .ready).sb.updStaged = [0] := by decide +kernel
def verifying (bs : List Byte) : State := { keyed with sb := { onBus := true, updState := .verify, updBuf := bs } }
theorem witness_FirmwareUpdate_verify : (verifying fwBytes).sb.updComp < 4 ∧ fieldNat fwBytes 0x10 8 = fwBytes.length ∧ sbUp (verifying fwBytes) = true ∧
    fieldNat (fwBytes.set 0 0#8) 0x10 8 = (fwBytes.set 0 0#8).length ∧ fwApproved (verifying (fwBytes.set 0 0#8)) 0 (fwBytes.set 0 0#8) = false := by decide +kernel
theorem witness_SpdmRequests : sbUp bus = true ∧ bus.sec.recovery = false ∧ bus.sec.idKeyOk = true ∧ ({ bus with sec := { bus.sec with idKeyOk := false } } : State).sec.idKeyOk = false := by
  decide +kernel
def opened (lv : Nat) : State := { bus with sec := { bus.sec with dbgLevel := lv } }
theorem witness_VendorMessages : 2 ≤ bus.sec.boot.toNat ∧ bus.innk.innk.restarting = 0#1 ∧ bus.innk.innk.halted = 0#1 ∧ bus.innk.dmiHalt = false ∧
    cfgSettable ctlBase = false ∧ bus.sec.dbgLevel = 0 ∧ (opened 2).sec.dbgLevel = 2 ∧ (0x80000001#32).getLsbD 31 = true ∧ clusterIdWf 0x35F = true ∧
    clusterLive (opened 2) 0x35F = true ∧ (getCluster (modCluster 0 (fun c => { c with halted := true }) (opened 2)) 0).halted = true ∧
    (getCluster (opened 2) 0).halted = false := by decide +kernel

theorem idBytes (x : BitVec 64) : bytesNat (wordBytes 8 x) = x.toNat := by
  have h : wordBytes 8 x = [byteOf x 0, byteOf x 1, byteOf x 2, byteOf x 3, byteOf x 4, byteOf x 5, byteOf x 6, byteOf x 7] := rfl
  rw [h]; simp only [bytesNat, byteOf, BitVec.extractLsb'_toNat, Nat.shiftRight_eq_div_pow]
  have := x.isLt; omega

/-- A debug token and a fuse request whose nonce is the monitor's: they pass where their signature does. -/
def nonced : State := { bus with sec := { bus.sec with nonce := 0#256, slots := [] } }
def tokenBytes : List Byte := [0x31#8, 0x47#8, 0x42#8, 0x44#8, 2#8, 0#8, 0#8, 0#8] ++ wordBytes 8 Config.deviceId ++ List.replicate 48 0#8
theorem witness_VendorMessages_token (b : SigBlock) (h : verifySigned nonced ctxDbg ([8, 9] ++ [10, 11]) tokenBytes b = true) :
    tokenOk nonced { bytes := tokenBytes, block := b } = true := by
  have h8 : fieldNat tokenBytes 8 8 = Config.deviceId.toNat := idBytes _
  have hl : fieldNat tokenBytes 4 1 = 2 := rfl
  have h0 : fieldNat tokenBytes 0 4 = 0x44424731 := rfl
  have h5 : fieldNat tokenBytes 5 3 = 0 := rfl
  have h3 : fieldNat tokenBytes 0x30 16 = 0 := rfl
  have hn : digestAt tokenBytes 0x10 = nonced.sec.nonce := rfl
  have hlen : tokenBytes.length = 64 := rfl
  unfold tokenOk; simp only [hl, h8, h0, h5, h3, hn, hlen]; simp only [show (2 : Nat) ≤ 2 from Nat.le_refl _, if_true, h, beq_self_eq_true]; decide
theorem witness_VendorMessages_token_bad : tokenOk nonced { bytes := [], block := blockAt [] } = false ∧ fuseOk nonced { bytes := [], block := blockAt [] } = false := by decide +kernel

-- the statements with basis 'stated', and the invariant

theorem witness_StepKeepsInvariant : Inv { up with mem := [(1, 5#8), (4, 7#8)], errs := [{ ue with seq := 0 }], errSeq := 1, pending := [.sramScrub 0 ⟨0, 0⟩] } ∧
    ∃ t, step { up with mem := [(1, 5#8), (4, 7#8)], errs := [{ ue with seq := 0 }], errSeq := 1, pending := [.sramScrub 0 ⟨0, 0⟩] } = .next t :=
  ⟨⟨by decide, by decide, by decide, by decide, by decide, by decide⟩, _, rfl⟩
def badCfg (mask : Nat) : List Word := [0x0000_0000_0014_0001#64, BitVec.ofNat 64 mask]
theorem witness_InvalidConfigChangesNothing : ∀ m ∈ [1, 2, 3, 4, 8], atWork (desk 0x11 (badCfg m) inn) 0 0x11 = some (cmdOf 0x11 (badCfg m)) ∧
    argsFit (cmdOf 0x11 (badCfg m)) [0x00FFFFFF03FF7FFF, 0xF] = true ∧ bitsNat ((cmdOf 0x11 (badCfg m)).arg 0) 0 15 = 1 ∧ lenWinOk 1 20 = false ∧
    lenWinOk 1 (cfgDecided (desk 0x11 (badCfg m) inn)).winUs.toNat = false ∧ bitsNat ((cmdOf 0x11 (badCfg m)).arg 0) 32 16 = 0 ∧
    bitsNat ((cmdOf 0x11 (badCfg m)).arg 0) 48 8 = 0 := by decide +kernel
theorem witness_InvalidConfigChangesNothing_window : lenWinOk (cfgDecided inn).lenUs.toNat 300 = false := by decide +kernel
theorem witness_RegionQueryWord : atWork (desk 0x0307 [0x1FFFFF#64] inn) 0 0x0307 = some (cmdOf 0x0307 [0x1FFFFF#64]) ∧
    argsFit (cmdOf 0x0307 [0x1FFFFF#64]) [allBits] = true ∧ regionAt (desk 0x0307 [0x1FFFFF#64] inn) 0x1FFFFF = some flat ∧
    regionAt inn 0x200000 = none := by decide +kernel
theorem test_idle_step : ∃ t, step up = .next t ∧ t.stg.upNs = 1 := ⟨_, rfl, rfl⟩
theorem test_region_word : regionWord { flat with base := 0x1000, ro := true, policy := 2, sealed := true } = 0x8250_0000_0000_1000 := by decide +kernel

-- instruction words of the spec's examples (spec/02 after R96, spec/03 after R114), and a word of a reserved class

theorem test_word_cmp : commandOf slot0 0x028BD40181000010#64 = .cmp slot0 { imm 0x14 1 0x81 16 with opc := 0x14#7 } := by decide
theorem test_word_bra : commandOf slot0 0x4028400000000007#64 = .bra slot0 { imm 0 0 0 7 with cls := 4#4, opc := 1#7, pred := 1#4 } := by decide
theorem test_word_mma : commandOf slot0 0x6003C80108101884#64 = .mma slot0 { ins 8 1 8 0x10 0x18 0x84 with cls := 6#4 } := by decide
theorem test_word_reserved : (Insn.ofWord 0x9003C00000000000#64).reserved = true ∧ (Insn.ofWord 0x6003C80108101884#64).reserved = false := by decide
theorem test_word_back : (Insn.ofWord 0x028BD40181000010#64).toWord = 0x028BD40181000010#64 := by decide
/-- The check value of the Castagnoli CRC (R381 names the code). -/
theorem test_crc32c : crc32c [0x31#8, 0x32#8, 0x33#8, 0x34#8, 0x35#8, 0x36#8, 0x37#8, 0x38#8, 0x39#8] = 0xE3069283#32 := by decide +kernel

-- a command that is ill formed in each of the ways of WellFormed

theorem test_ill_cluster : (Instr.offline 0x60 0#64).ill = [.cluster] := by decide
theorem test_ill_core : (Instr.vopComplete 0 8).ill = [.core] := by decide
theorem test_ill_slot : (Instr.nop { cluster := 0, core := 0, slot := 16 } { ins 0 0 0 0 0 0 with cls := 4#4 }).ill = [.caravanSlot] := by decide
theorem test_ill_opcode : (Instr.nop slot0 (ins 0 0 0 0 0 0)).ill = [.opcode] := by decide
theorem test_ill_itinerary : (Instr.launch 4096 0).ill = [.itinerary] := by decide
theorem test_ill_home : (Instr.evictionWriteback 8).ill = [.home] := by decide
theorem test_ill_stack : (Instr.tempRead 8 0#8).ill = [.stack] := by decide
theorem test_ill_bank : (Instr.refresh 0 64 0).ill = [.bank] := by decide
theorem test_ill_link : (Instr.linkTrainingFail 8).ill = [.link] := by decide
theorem test_ill_pigeonhole : (Instr.accept 16448).ill = [.pigeonhole] := by decide
theorem test_ill_sealSlot : (Instr.sealWrite 0 256 8 0#64).ill = [.sealSlot] := by decide
theorem test_ill_width : (Instr.cqCtl 0 3 0#64).ill = [.width] := by decide
theorem test_ill_port : (Instr.portLinkDown 8).ill = [.port] := by decide
theorem test_ill_priority : (Instr.pfcFrame 0 8 true).ill = [.priority] := by decide
theorem test_ill_guest : (Instr.rateIncrease 16384).ill = [.guest] := by decide
theorem test_ill_porter : (Instr.chunk 16 ⟨false, none⟩).ill = [.porter] := by decide
theorem test_ill_hart : (Instr.mxctlRestart 96).ill = [.hart] := by decide
theorem test_ill_die : (Instr.freqChangeDone 2).ill = [.die] := by decide
theorem test_ill_address : (Instr.memRead (2 ^ 52) ⟨0, 0⟩ ⟨0, 0⟩ 0).ill = [.address] := by decide
theorem test_ill_register : (Instr.regRead 4).ill = [.register] := by decide
theorem test_ill_powerDomain : (Instr.powerDomainFault ⟨30, none⟩).ill = [.powerDomain] := by decide
theorem test_ill_half : (Instr.clusterHalfPowerOn 8).ill = [.half] := by decide
theorem test_ill_requester : (Instr.homeDeadHint (.px 2) 0).ill = [.requester] := by decide
theorem test_ill_sensor : (Instr.getSensorReading 65536).ill = [.sensor] := by decide
theorem test_wf : (Instr.bell).wf = true ∧ (Instr.homeDeadHint (.px 1) 0).wf = true ∧ (Instr.offline 0x60 0#64).wf = false := by decide

end Sys2Proof.Tests
end

section
/-! PROOFS. The entries of a running leg as they issue (R34 to R39, R61 to R64, R397 to R400, R419, R425, R432): the leg's own account of an
entry, what each of the four kinds of entry does to its unit, and the obligation about them. -/

namespace Sys2Proof.Machine

-- runs over lists

/-- What every round of a run keeps, the run keeps. -/
theorem forEach_preserves {α : Type} {P : State → Prop} {f : α → State → State} (h : ∀ x t, P t → P (f x t)) (xs : List α) {s : State}
    (hs : P s) : P (forEach xs f s) := by
  induction xs generalizing s with
  | nil => exact hs
  | cons x xs ih => exact ih (h x s hs)

/-- A part of the state that no round of a run changes. -/
theorem forEach_keeps {α β : Type} (p : State → β) {f : α → State → State} (h : ∀ x t, p (f x t) = p t) (xs : List α) (s : State) :
    p (forEach xs f s) = p s :=
  forEach_preserves (P := fun t => p t = p s) (fun x t ht => (h x t).trans ht) xs rfl

/-- A run whose rounds all leave a state as it is. -/
theorem forEach_fixed {α : Type} {f : α → State → State} {s : State} (h : ∀ x, f x s = s) (xs : List α) : forEach xs f s = s :=
  forEach_preserves (P := fun t => t = s) (fun x t ht => by rw [ht, h x]) xs rfl

-- itineraries and their running legs

theorem getItin_of_itins {s t : State} (h : t.itins = s.itins) (k : Nat) : getItin t k = getItin s k := by
  unfold getItin; rw [h]

theorem getItin_modItin (n m : Nat) (f : Itin → Itin) (s : State) :
    getItin (modItin n f s) m = if m = n then (getItin s n).map f else getItin s m :=
  getItin_setItin n m _ s

theorem getItin_modLeg {s : State} {k : Nat} {i : Itin} {l : Leg} (hi : getItin s k = some i) (hl : i.leg = some l) (f : Leg → Leg) :
    getItin (modLeg k f s) k = some { i with leg := some (f l) } := by
  unfold modLeg
  rw [getItin_modItin, if_pos rfl, hi, Option.map_some, hl, Option.map_some]

theorem getItin_issued {s : State} {k e : Nat} {i : Itin} {l : Leg} (hi : getItin s k = some i) (hl : i.leg = some l) (empty done : Bool) :
    getItin (issued k e empty done s) k = some { i with leg := some { l with
      issued := e :: l.issued
      empty := if empty then l.empty + 1 else l.empty
      done := if done then e :: l.done else l.done } } :=
  getItin_modLeg hi hl _

/-- An entry that waits changes the account of its leg and the device's count of slips, and nothing else. -/
theorem slip_rest (k e : Nat) (s : State) : { slip k e s with stg := s.stg, itins := s.itins } = s := by
  unfold slip
  split
  · rfl
  · split <;> rfl

theorem slip_clusters (k e : Nat) (s : State) : (slip k e s).clusters = s.clusters := (congrArg State.clusters (slip_rest k e s) :)
theorem slip_porters (k e : Nat) (s : State) : (slip k e s).porters = s.porters := (congrArg State.porters (slip_rest k e s) :)
theorem slip_net (k e : Nat) (s : State) : (slip k e s).net = s.net := (congrArg State.net (slip_rest k e s) :)

/-- R37: An entry that waits for the first time counts one slip, on its leg and on the device. -/
theorem slip_first {s : State} {k e : Nat} {i : Itin} {l : Leg} (hi : getItin s k = some i) (hl : i.leg = some l) (he : e ∉ l.slipped) :
    getItin (slip k e s) k = some { i with leg := some { l with slipped := e :: l.slipped, slips := l.slips + 1 } } ∧
    (slip k e s).stg.events.slip = satInc s.stg.events.slip := by
  have heq : slip k e s = modStg (fun g => { g with events := { g.events with slip := satInc g.events.slip } })
      (modLeg k (fun l => { l with slipped := e :: l.slipped, slips := l.slips + 1 }) s) := by
    simp [slip, hi, hl, he]
  rw [heq]
  exact ⟨getItin_modLeg hi hl _, rfl⟩

theorem slip_again {s : State} {k e : Nat} {i : Itin} {l : Leg} (hi : getItin s k = some i) (hl : i.leg = some l) (he : e ∈ l.slipped) :
    slip k e s = s := by
  simp [slip, hi, hl, he]

-- an entry comes to issue (R37)

section
variable {s t : State} {k e : Nat}

theorem exec_launch (h : doLaunch k e s = t) : exec (.launch k e) s = .next t := congrArg Host.Outcome.next h
theorem exec_move (h : doMove k e s = t) : exec (.move k e) s = .next t := congrArg Host.Outcome.next h
theorem exec_send (h : doSend k e s = t) : exec (.send k e) s = .next t := congrArg Host.Outcome.next h
theorem exec_recv (h : doRecv k e s = t) : exec (.recv k e) s = .next t := congrArg Host.Outcome.next h

end

theorem entryDue_leg {s : State} {k e kind : Nat} {i : Itin} {l : Leg} {en : Entry} (h : entryDue s k e kind = some (i, l, en)) :
    getItin s k = some i ∧ i.leg = some l := by
  unfold entryDue at h
  split at h
  · cases h
  next j hj =>
    split at h
    · cases h
    next m hm =>
      split at h
      · cases h
      next =>
        split at h
        · obtain ⟨rfl, rfl, rfl⟩ := h
          exact ⟨hj, hm⟩
        · cases h

/-- Once its offset has come an entry issues, or stands behind an earlier one of its unit and slips; no time passes. -/
theorem comesToIssue_due {s : State} {k e kind : Nat} {i : Itin} {l : Leg} {en : Entry} (hd : entryDue s k e kind = some (i, l, en))
    (ht : l.begun + en.offset ≤ s.stg.upNs) (go : Itin → Leg → Entry → State → State) :
    comesToIssue k e kind s go = if inTableOrder l e en then go i l en s else slip k e s := by
  have hw : l.begun + en.offset - s.stg.upNs = 0 := by omega
  simp [comesToIssue, hd, hw, passNs]

theorem comesToIssue_now {s : State} {k e kind : Nat} {i : Itin} {l : Leg} {en : Entry} (h : IssuesNow s k e kind i l en)
    (go : Itin → Leg → Entry → State → State) : comesToIssue k e kind s go = go i l en s := by
  obtain ⟨hd, ht, ho⟩ := h
  rw [comesToIssue_due hd ht, if_pos ho]

theorem IssuesNow.leg {s : State} {k e kind : Nat} {i : Itin} {l : Leg} {en : Entry} (h : IssuesNow s k e kind i l en) : i.leg = some l :=
  (entryDue_leg h.1).2

/-- The command of an entry that stands behind an earlier one of its unit is a slip, whatever its kind. -/
theorem exec_entryCommand_behind {s : State} {k e kind : Nat} {i : Itin} {l : Leg} {en : Entry} (h1 : 1 ≤ kind) (h4 : kind ≤ 4)
    (hd : entryDue s k e kind = some (i, l, en)) (ht : l.begun + en.offset ≤ s.stg.upNs) (ho : inTableOrder l e en = false) :
    exec (entryCommand k e kind) s = .next (slip k e s) := by
  have hslip (go : Itin → Leg → Entry → State → State) : comesToIssue k e kind s go = slip k e s := by
    rw [comesToIssue_due hd ht, ho]; rfl
  obtain rfl | rfl | rfl | rfl : kind = 1 ∨ kind = 2 ∨ kind = 3 ∨ kind = 4 := by omega
  · exact exec_launch (hslip _)
  · exact exec_move (hslip _)
  · exact exec_send (hslip _)
  · exact exec_recv (hslip _)

-- LAUNCH (R61, R63, R64)

/-- The cores that a launch descriptor names. -/
def launchCores (bs : List Byte) : List Nat := (List.range 8).filter (fun c => (BitVec.ofNat 8 (fieldNat bs 8 1)).getLsbD c)

/-- A core has the slots and the register file for the caravans of a launch descriptor. -/
def Core.seats (bs : List Byte) (x : Core) : Prop :=
  fieldNat bs 9 1 ≤ x.freeSlots.length ∧ x.regUsed + fieldNat bs 9 1 * fieldNat bs 10 1 ≤ 64

/-- The caravan of a number that a launch descriptor makes. -/
def launchCaravan (k e : Nat) (bs : List Byte) (cvn : Nat) : Caravan :=
  freshCaravan k e (fieldNat bs 9 1) cvn (fieldNat bs 10 1)
    ((List.range 16).map (fun j => BitVec.ofNat 32 (fieldNat bs (16 + 4 * j) 4))) (fieldNat bs 0 8)

/-- The caravans of a launch descriptor enter a core's lowest free slots. -/
def Core.seat (k e : Nat) (bs : List Byte) (x : Core) : Core :=
  ((x.freeSlots.take (fieldNat bs 9 1)).zip (List.range (fieldNat bs 9 1))).foldl (fun y p => y.setSlot p.1 (some (launchCaravan k e bs p.2))) x

/-- They enter every core named. -/
def seatAll (k e cl : Nat) (bs : List Byte) (s : State) : State :=
  forEach (launchCores bs) (fun c t => modCore cl c (Core.seat k e bs) t) s

theorem mem_launchCores {bs : List Byte} {c : Nat} :
    c ∈ launchCores bs ↔ c < 8 ∧ (BitVec.ofNat 8 (fieldNat bs 8 1)).getLsbD c = true := by
  simp [launchCores]

/-- A field of one byte is zero as a mask where it is zero as a number. -/
theorem ofNat_fieldNat_one (bs : List Byte) (off : Nat) : BitVec.ofNat 8 (fieldNat bs off 1) = 0#8 ↔ fieldNat bs off 1 = 0 := by
  have hlt : fieldNat bs off 1 < 256 := by
    unfold fieldNat
    cases bs.drop off with
    | nil => decide
    | cons b t => simpa [bytesNat] using b.isLt
  rw [← BitVec.toNat_inj, BitVec.toNat_ofNat, Nat.mod_eq_of_lt hlt]; rfl

section
variable {s s1 : State} {k e cl : Nat} {i : Itin} {l : Leg} {en : Entry} {bs : List Byte}

theorem doLaunch_empty (now : IssuesNow s k e 1 i l en) (hb : imageBytes i en.desc 80 s = (some bs, s1)) (hcl : l.clusters[en.target]? = some cl)
    (h0 : fieldNat bs 8 1 = 0 ∨ fieldNat bs 9 1 = 0) : doLaunch k e s = issued k e true true s1 := by
  unfold doLaunch
  rw [comesToIssue_now now]
  simp only [hb, hcl, ofNat_fieldNat_one, h0, if_true]

theorem doLaunch_seats (now : IssuesNow s k e 1 i l en) (hb : imageBytes i en.desc 80 s = (some bs, s1)) (hcl : l.clusters[en.target]? = some cl)
    (hm : fieldNat bs 8 1 ≠ 0) (hn : fieldNat bs 9 1 ≠ 0) (hfit : ∀ c ∈ launchCores bs, (getCore s1 cl c).seats bs) :
    doLaunch k e s = issued k e false false (seatAll k e cl bs s1) := by
  have hall : (launchCores bs).all (fun c => decide (fieldNat bs 9 1 ≤ (getCore s1 cl c).freeSlots.length) &&
      decide ((getCore s1 cl c).regUsed + fieldNat bs 9 1 * fieldNat bs 10 1 ≤ 64)) = true := by
    simpa [Core.seats] using hfit
  unfold launchCores at hall
  unfold doLaunch
  rw [comesToIssue_now now]
  simp only [hb, hcl, ofNat_fieldNat_one, hm, hn, or_self, if_false, hall, Bool.not_true, Bool.false_eq_true]
  rfl

theorem doLaunch_waits (now : IssuesNow s k e 1 i l en) (hb : imageBytes i en.desc 80 s = (some bs, s1)) (hcl : l.clusters[en.target]? = some cl)
    (hm : fieldNat bs 8 1 ≠ 0) (hn : fieldNat bs 9 1 ≠ 0) {c : Nat} (hc : c ∈ launchCores bs) (hno : ¬ (getCore s1 cl c).seats bs) :
    doLaunch k e s = slip k e s1 := by
  have hall : (launchCores bs).all (fun c => decide (fieldNat bs 9 1 ≤ (getCore s1 cl c).freeSlots.length) &&
      decide ((getCore s1 cl c).regUsed + fieldNat bs 9 1 * fieldNat bs 10 1 ≤ 64)) = false := by
    rw [List.all_eq_false]
    exact ⟨c, hc, by simpa [Core.seats] using hno⟩
  unfold launchCores at hall
  unfold doLaunch
  rw [comesToIssue_now now]
  simp only [hb, hcl, ofNat_fieldNat_one, hm, hn, or_self, if_false, hall, Bool.not_false, if_true]

end

theorem slot_foldl_setSlot_other (g : Nat → Caravan) (j : Nat) (ps : List (Nat × Nat)) (h : j ∉ ps.map Prod.fst) (x : Core) :
    (ps.foldl (fun y p => y.setSlot p.1 (some (g p.2))) x).slot j = x.slot j := by
  induction ps generalizing x with
  | nil => rfl
  | cons p ps ih =>
    obtain ⟨hp, hps⟩ : j ≠ p.1 ∧ j ∉ ps.map Prod.fst := by simpa using h
    rw [List.foldl_cons, ih hps, slot_setSlot, if_neg hp]

theorem slot_foldl_setSlot_mem (g : Nat → Caravan) {j v : Nat} (ps : List (Nat × Nat)) (hnd : (ps.map Prod.fst).Nodup) (h : (j, v) ∈ ps)
    (x : Core) :
    (ps.foldl (fun y p => y.setSlot p.1 (some (g p.2))) x).slot j = some (g v) := by
  induction ps generalizing x with
  | nil => cases h
  | cons p ps ih =>
    obtain ⟨hp, hnd⟩ := List.nodup_cons.1 hnd
    rw [List.foldl_cons]
    cases h with
    | head => rw [slot_foldl_setSlot_other g j ps hp, slot_setSlot_self]
    | tail _ h => exact ih hnd h _

/-- An element among the first n of a list stands beside its position there. -/
theorem mem_zip_range_idxOf {j n : Nat} {xs : List Nat} (h : j ∈ xs.take n) : (j, xs.idxOf j) ∈ (xs.take n).zip (List.range n) := by
  have hj : j ∈ xs := List.mem_of_mem_take h
  have hlt : xs.idxOf j < xs.length := List.idxOf_lt_length_iff.2 hj
  have hn : xs.idxOf j < n := List.mem_take_iff_idxOf_lt hj |>.1 h
  refine List.mem_iff_getElem?.2 ⟨xs.idxOf j, ?_⟩
  simp [hn, hlt]

theorem nodup_freeSlots (x : Core) : x.freeSlots.Nodup := List.nodup_range.filter _

/-- R63: The lowest free slots of a core hold the new caravans in the order of their numbers; every other slot is as it was. -/
theorem slot_seat (k e : Nat) (bs : List Byte) (x : Core) (j : Nat) :
    (x.seat k e bs).slot j =
      if j ∈ x.freeSlots.take (fieldNat bs 9 1) then some (launchCaravan k e bs (x.freeSlots.idxOf j)) else x.slot j := by
  have hfst : ((x.freeSlots.take (fieldNat bs 9 1)).zip (List.range (fieldNat bs 9 1))).map Prod.fst = x.freeSlots.take (fieldNat bs 9 1) :=
    List.map_fst_zip (by simp)
  unfold Core.seat
  split
  next h => exact slot_foldl_setSlot_mem _ _ (by rw [hfst]; exact (nodup_freeSlots x).sublist (List.take_sublist ..)) (mem_zip_range_idxOf h) x
  next h => exact slot_foldl_setSlot_other _ j _ (by rwa [hfst]) x

theorem getCore_forEach_modCore (cl : Nat) (f : Core → Core) (xs : List Nat) (hnd : xs.Nodup) (s : State) (c : Nat) :
    getCore (forEach xs (fun c t => modCore cl c f t) s) cl c = if c ∈ xs then f (getCore s cl c) else getCore s cl c := by
  induction xs generalizing s with
  | nil => rfl
  | cons x xs ih =>
    obtain ⟨hx, hnd⟩ := List.nodup_cons.1 hnd
    rw [show forEach (x :: xs) (fun c t => modCore cl c f t) s = forEach xs (fun c t => modCore cl c f t) (modCore cl x f s) from rfl, ih hnd,
      getCore_modCore]
    by_cases h : c = x
    · subst h; simp [hx]
    · simp [h]

theorem getCore_seatAll (k e cl : Nat) (bs : List Byte) (s : State) (c : Nat) :
    getCore (seatAll k e cl bs s) cl c = if c ∈ launchCores bs then (getCore s cl c).seat k e bs else getCore s cl c :=
  getCore_forEach_modCore cl _ _ (List.nodup_range.filter _) s c

/-- R63: The slots of every core of the cluster once the caravans of a launch descriptor have entered. -/
theorem slot_seatAll (k e cl : Nat) (bs : List Byte) (s : State) {c : Nat} (hc : c < 8) (j : Nat) :
    (getCore (seatAll k e cl bs s) cl c).slot j =
      if (BitVec.ofNat 8 (fieldNat bs 8 1)).getLsbD c = true ∧ j ∈ (getCore s cl c).freeSlots.take (fieldNat bs 9 1) then
        some (launchCaravan k e bs ((getCore s cl c).freeSlots.idxOf j))
      else (getCore s cl c).slot j := by
  rw [getCore_seatAll]
  by_cases hbit : (BitVec.ofNat 8 (fieldNat bs 8 1)).getLsbD c = true
  · rw [if_pos (mem_launchCores.2 ⟨hc, hbit⟩), slot_seat]
    simp only [hbit, true_and]
  · rw [if_neg (fun h => hbit (mem_launchCores.1 h).2), if_neg (fun h => hbit h.1)]

theorem getCluster_seatAll (k e cl : Nat) (bs : List Byte) (s : State) {c : Nat} (hc : c ≠ cl) :
    getCluster (seatAll k e cl bs s) c = getCluster s c :=
  forEach_keeps (fun t => getCluster t c) (fun x t => by simp only [modCore, getCluster_modCluster, if_neg hc]) _ s

theorem seatAll_itins (k e cl : Nat) (bs : List Byte) (s : State) : (seatAll k e cl bs s).itins = s.itins :=
  forEach_keeps State.itins (f := fun c t => modCore cl c (Core.seat k e bs) t) (fun _ _ => rfl) _ s

theorem seatAll_mem (k e cl : Nat) (bs : List Byte) (s : State) : (seatAll k e cl bs s).mem = s.mem :=
  forEach_keeps State.mem (f := fun c t => modCore cl c (Core.seat k e bs) t) (fun _ _ => rfl) _ s

-- MOVE (R425, R432, R439)

theorem getPorter_modPorter (n m : Nat) (f : Porter → Porter) (s : State) :
    getPorter (modPorter n f s) m = if m = n then f (getPorter s n) else getPorter s m := by
  simp only [getPorter, modPorter, tabGet_tabSet]

/-- A porter counts an empty descriptor. -/
def countEmpty (x : Porter) : Porter := { x with run := { x.run with refuse := { x.run.refuse with empty := satInc x.run.refuse.empty } } }

/-- A descriptor joins a porter's leg queue. -/
def queueDesc (d : Desc) (x : Porter) : Porter := { x with legQ := x.legQ ++ [d] }

section
variable {s s1 : State} {k e : Nat} {i : Itin} {l : Leg} {en : Entry} {bs : List Byte}

theorem doMove_empty (now : IssuesNow s k e 2 i l en) (hb : imageBytes i en.desc 64 s = (some bs, s1))
    (h0 : (moveDesc bs (.leg k l.jsn e)).len = 0) : doMove k e s = modPorter en.target countEmpty (issued k e true true s1) := by
  unfold doMove
  rw [comesToIssue_now now]
  simp only [hb, h0, if_true]
  rfl

theorem doMove_heldBack (now : IssuesNow s k e 2 i l en) (hb : imageBytes i en.desc 64 s = (some bs, s1))
    (hlen : (moveDesc bs (.leg k l.jsn e)).len ≠ 0) (hsup : l.suppressed = true) (hop : (moveDesc bs (.leg k l.jsn e)).op = 3) :
    doMove k e s = issued k e false true s1 := by
  unfold doMove
  rw [comesToIssue_now now]
  simp [hb, hlen, hsup, hop]

theorem doMove_toPorter (now : IssuesNow s k e 2 i l en) (hb : imageBytes i en.desc 64 s = (some bs, s1))
    (hlen : (moveDesc bs (.leg k l.jsn e)).len ≠ 0) (hgo : l.suppressed = false ∨ (moveDesc bs (.leg k l.jsn e)).op ≠ 3) :
    doMove k e s = if 32 ≤ (getPorter s1 en.target).legQ.length then slip k e s1
      else modPorter en.target (queueDesc (moveDesc bs (.leg k l.jsn e))) (issued k e false false s1) := by
  have hno : (l.suppressed && (moveDesc bs (.leg k l.jsn e)).op == 3) = false := by
    rcases hgo with h | h <;> simp [h]
  unfold doMove
  rw [comesToIssue_now now]
  simp only [hb, hlen, hno, if_false, Bool.false_eq_true]
  rfl

end

-- queues that cannot send just now (R387, R418)

theorem getConn_setConn (id n : Nat) (v : Option Conn) (s : State) : getConn (setConn id v s) n = if n = id then v else getConn s n :=
  tabGet_tabSet none s.net.conns id v n

theorem getConn_queueConn {s : State} {id : Nat} {c : Conn} (r : TxReq) (h : getConn s id = some c) :
    getConn (queueConn id r s) id = some { c with queue := c.queue ++ [r] } := by
  unfold queueConn modConn
  rw [getConn_setConn, if_pos rfl, h, Option.map_some]

theorem WindowFull.queueConn {s : State} {id : Nat} {c : Conn} (r : TxReq) (h : WindowFull s id c) :
    WindowFull (queueConn id r s) id { c with queue := c.queue ++ [r] } :=
  ⟨getConn_queueConn r h.1, h.2⟩

/-- A connection with a full window and no CTRL message sends nothing. -/
theorem pumpConn_windowFull {s : State} {id : Nat} {c : Conn} (h : WindowFull s id c) : pumpConn id s = s := by
  obtain ⟨hc, hq, hw⟩ := h
  have hctrl : pumpCtrl id s = s := by unfold pumpCtrl; simp only [hc, hq]; rfl
  unfold pumpConn
  simp only [hctrl, hc, Nat.sub_eq_zero_of_le hw]
  rfl

theorem pumpGuest_windowFull {s : State} {g id : Nat} {c : Conn} (hg : (getGuest s g).conn = some id) (h : WindowFull s id c) :
    pumpGuest g s = s := by
  unfold pumpGuest
  rw [hg]
  exact pumpConn_windowFull h

theorem queueGuest_conn {s : State} {g id : Nat} (r : TxReq) (hg : (getGuest s g).conn = some id) : queueGuest g r s = queueConn id r s := by
  unfold queueGuest; rw [hg]

theorem sendFlitNow_down {s : State} (h : s.net.pacel.up = false) : sendFlitNow s = s := by
  unfold sendFlitNow
  dsimp only
  split
  · rfl
  · rw [h]; rfl

/-- A Pacel link that is down sends nothing. -/
theorem pumpPacel_down {s : State} (h : s.net.pacel.up = false) : pumpPacel s = s := forEach_fixed (fun _ => sendFlitNow_down h) _

-- an entry that the network engine refuses (R282, R283, R398, R400)

/-- An itinerary stands in its slot and no leg of it runs. -/
def LegGone (k : Nat) (s : State) : Prop := ∃ i, getItin s k = some i ∧ i.leg = none

theorem LegGone.of_itins {k : Nat} {s t : State} (h : LegGone k s) (e : t.itins = s.itins) : LegGone k t := by
  obtain ⟨i, hi, hl⟩ := h
  exact ⟨i, (getItin_of_itins e k).trans hi, hl⟩

theorem LegGone.modItin {k n : Nat} {f : Itin → Itin} {s : State} (h : LegGone k s) (hf : ∀ i, i.leg = none → (f i).leg = none) :
    LegGone k (modItin n f s) := by
  obtain ⟨i, hi, hl⟩ := h
  unfold LegGone
  rw [getItin_modItin]
  split
  next hn => subst hn; exact ⟨f i, by rw [hi]; rfl, hf i hl⟩
  next => exact ⟨i, hi, hl⟩

theorem legGone_modItin {k : Nat} {f : Itin → Itin} {s : State} {i : Itin} (hi : getItin s k = some i) (hf : (f i).leg = none) :
    LegGone k (modItin k f s) :=
  ⟨f i, by rw [getItin_modItin, if_pos rfl, hi]; rfl, hf⟩

theorem stopLegWork_itins (k : Nat) (leg : Leg) (s : State) : (stopLegWork k leg s).itins = s.itins :=
  forEach_keeps State.itins (f := fun c t => modCluster c Cluster.stopWork t) (fun _ _ => rfl) leg.clusters s

theorem logErr_itins (r : ErrRec) (s : State) : (logErr r s).itins = s.itins := by
  unfold logErr
  dsimp only
  split <;> rfl

theorem takeOffline_itins (c : Nat) (s : State) : (takeOffline c s).itins = s.itins := logErr_itins _ _

/-- The end of a job starts no leg. -/
theorem LegGone.stopJob {k n fclass : Nat} {fi : Option FaultInfo} {s : State} (h : LegGone k s) : LegGone k (stopJob n fclass fi s) := by
  unfold Machine.stopJob
  split
  · exact h
  · split
    · exact h
    · split
      · exact h
      · split
        next l _ =>
          have hdrop : LegGone k (dropRecvs n (stopLegWork n l s)) := h.of_itins (stopLegWork_itins n l s)
          exact (hdrop.modItin fun _ _ => rfl).of_itins rfl
        next =>
          have hdrop : LegGone k (dropRecvs n s) := h.of_itins rfl
          exact (hdrop.modItin fun _ _ => rfl).of_itins rfl

/-- R283: A stage fault discards the running leg, whatever its class and however often it has been discarded before. -/
theorem legGone_discardLeg {k : Nat} {fi : FaultInfo} {s : State} {i : Itin} {l : Leg} (hi : getItin s k = some i) (hl : i.leg = some l) :
    LegGone k (discardLeg k fi s) := by
  unfold discardLeg
  simp only [hi, hl]
  have hstop (u : State) (hu : u.itins = (stopLegWork k l s).itins) : getItin u k = some i :=
    (getItin_of_itins (hu.trans (stopLegWork_itins k l s)) k).trans hi
  split
  · exact legGone_modItin (hstop _ rfl) rfl
  · split
    · split
      next c _ =>
        refine forEach_preserves (fun j t ht => ht.modItin fun i hn => by split <;> exact hn) _ (LegGone.of_itins ?_ (takeOffline_itins c _))
        exact legGone_modItin (hstop _ rfl) rfl
      next =>
        refine LegGone.stopJob ?_
        exact legGone_modItin (hstop _ rfl) rfl
    · exact legGone_modItin (hstop _ rfl) rfl

/-- A refused entry is a stage fault: it counts once and the leg is discarded. -/
theorem refuseEntry_discards {k a : Nat} {s : State} {i : Itin} {l : Leg} (hi : getItin s k = some i) (hl : i.leg = some l) :
    LegGone k (refuseEntry k a s) ∧ (refuseEntry k a s).ldg.faultCount = s.ldg.faultCount + 1 := by
  constructor
  · unfold refuseEntry stageFault
    exact legGone_discardLeg (i := i) hi hl
  · exact (stageFault_kept _ _ _).count

-- SEND (R397, R398, R400, R419)

/-- A SEND has issued: its transfer and its flow stand in the tables of the network engine. -/
def sendBegun (k e : Nat) (x : SendX) (f : Flow) (s : State) : State :=
  modNet (fun n => { n with flows := n.flows ++ [f] }) (modNet (fun n => { n with sends := n.sends ++ [x] }) (issued k e false false s))

/-- A message joins the queue of the Pacel link. -/
def queuePacel (r : TxReq) (s : State) : State := modNet (fun n => { n with pacel := { n.pacel with queue := n.pacel.queue ++ [r] } }) s

/-- The message of a SEND to a device (R398). -/
def deviceReq (k e : Nat) (l : Leg) (en : Entry) (bs : List Byte) : TxReq :=
  { owner := .send k l.jsn e, addr := 0, len := fieldNat bs 8 8, src := .mem (fieldNat bs 0 8), imm := some (BitVec.ofNat 32 l.jsn)
    ord := ordinal l e en }

/-- The message of a SEND to a guest (R400). -/
def guestReq (k e : Nat) (l : Leg) (bs : List Byte) : TxReq :=
  { owner := .send k l.jsn e, addr := fieldNat bs 16 8, len := fieldNat bs 8 8, src := .mem (fieldNat bs 0 8) }

section
variable {s s1 : State} {k e g id : Nat} {dev : Word} {i : Itin} {l : Leg} {en : Entry} {bs : List Byte} {p : Peer}
variable (now : IssuesNow s k e 3 i l en) (hb : imageBytes i en.desc 32 s = (some bs, s1))
include now hb

theorem doSend_empty (hp : i.image.peers[en.target]? = some p) (h0 : fieldNat bs 8 8 = 0) : doSend k e s = issued k e true true s1 := by
  unfold doSend
  rw [comesToIssue_now now]
  simp only [hb, hp, h0, if_true]

theorem doSend_waits (hp : i.image.peers[en.target]? = some p) (hlen : fieldNat bs 8 8 ≠ 0) (hfull : netFull s1 = true) :
    doSend k e s = slip k e s1 := by
  unfold doSend
  rw [comesToIssue_now now]
  simp only [hb, hp, hlen, hfull, if_true, if_false]

theorem doSend_pacel (hp : i.image.peers[en.target]? = some (.device dev)) (hlen : fieldNat bs 8 8 ≠ 0) (hroom : netFull s1 = false)
    (ht4 : Config.isT4 dev = true) :
    ∃ x f, doSend k e s = pumpPacel (queuePacel (deviceReq k e l en bs) (sendBegun k e x f s1)) := by
  unfold doSend
  rw [comesToIssue_now now]
  simp only [hb, hp, hlen, hroom, ht4, if_true, if_false, Bool.false_eq_true]
  exact ⟨_, _, rfl⟩

theorem doSend_conn (hp : i.image.peers[en.target]? = some (.device dev)) (hlen : fieldNat bs 8 8 ≠ 0) (hroom : netFull s1 = false)
    (ht4 : Config.isT4 dev = false) (hid : connOf s1 (.device dev) = some id) :
    ∃ x f, doSend k e s = pumpConn id (queueConn id (deviceReq k e l en bs) (sendBegun k e x f s1)) := by
  have hid' (x : SendX) (f : Flow) : connOf (sendBegun k e x f s1) (.device dev) = some id := hid
  unfold sendBegun at hid'
  unfold doSend
  rw [comesToIssue_now now]
  simp only [hb, hp, hlen, hroom, ht4, hid', if_false, Bool.false_eq_true]
  exact ⟨_, _, rfl⟩

theorem doSend_guestHeldBack (hp : i.image.peers[en.target]? = some (.guest g)) (hlen : fieldNat bs 8 8 ≠ 0) (hroom : netFull s1 = false)
    (hsup : l.suppressed = true) : doSend k e s = issued k e false true s1 := by
  unfold doSend
  rw [comesToIssue_now now]
  simp only [hb, hp, hlen, hroom, hsup, if_true, if_false, Bool.false_eq_true]

theorem doSend_guest (hp : i.image.peers[en.target]? = some (.guest g)) (hlen : fieldNat bs 8 8 ≠ 0) (hroom : netFull s1 = false)
    (hsup : l.suppressed = false) (hst : (getPh s1 (64 + g)).st = .open_) :
    ∃ x f, doSend k e s = pumpGuest g (queueGuest g (guestReq k e l bs) (sendBegun k e x f s1)) := by
  unfold doSend
  rw [comesToIssue_now now]
  simp only [hb, hp, hlen, hroom, hsup, hst, bne_self_eq_false, Bool.false_and, if_false, Bool.false_eq_true]
  exact ⟨_, _, rfl⟩

theorem doSend_guestGone (hp : i.image.peers[en.target]? = some (.guest g)) (hlen : fieldNat bs 8 8 ≠ 0) (hroom : netFull s1 = false)
    (hsup : l.suppressed = false) (ho : (getPh s1 (64 + g)).st ≠ .open_) (hd : (getPh s1 (64 + g)).st ≠ .draining) :
    doSend k e s = refuseEntry k (fieldNat bs 0 8) (issued k e false false s1) := by
  unfold doSend
  rw [comesToIssue_now now]
  simp only [hb, hp, hlen, hroom, hsup, bne_iff_ne.2 ho, bne_iff_ne.2 hd, Bool.and_self, if_true, if_false, Bool.false_eq_true]

end

-- RECV (R398 to R400)

/-- Whether a landing range is an entry's own. -/
def RecvX.ofEntry (k j e : Nat) (y : RecvX) : Bool := y.itin == k && y.jsn == j && y.entry == e

/-- A landing range that nothing has landed in. -/
def freshRecv (k e : Nat) (l : Leg) (en : Entry) (bs : List Byte) : RecvX :=
  { itin := k, jsn := l.jsn, entry := e, peer := en.target, ord := ordinal l e en, addr := fieldNat bs 0 8, len := fieldNat bs 8 8 }

/-- A RECV has issued: its landing range stands in the table. -/
def recvPosted (k e : Nat) (x : RecvX) (s : State) : State :=
  modNet (fun n => { n with recvs := n.recvs.filter (fun y => !y.ofEntry x.itin x.jsn x.entry) ++ [x] }) (issued k e false false s)

section
variable {s s1 : State} {k e a g : Nat} {dev : Word} {i : Itin} {l : Leg} {en : Entry} {bs : List Byte} {p : Peer}
variable (now : IssuesNow s k e 4 i l en) (hb : imageBytes i en.desc 32 s = (some bs, s1))
include now hb

theorem doRecv_empty (hp : i.image.peers[en.target]? = some p) (h0 : fieldNat bs 8 8 = 0) : doRecv k e s = issued k e true true s1 := by
  unfold doRecv
  rw [comesToIssue_now now]
  simp only [hb, hp, h0, if_true]

theorem doRecv_waits (hp : i.image.peers[en.target]? = some p) (hlen : fieldNat bs 8 8 ≠ 0) (hfull : netFull s1 = true) :
    doRecv k e s = slip k e s1 := by
  unfold doRecv
  rw [comesToIssue_now now]
  simp only [hb, hp, hlen, hfull, if_true, if_false]

theorem doRecv_refused (hp : i.image.peers[en.target]? = some p) (hlen : fieldNat bs 8 8 ≠ 0) (hroom : netFull s1 = false)
    (hbad : lowestBad (addrEdges s1) (fieldNat bs 0 8) (fieldNat bs 8 8) (descBad s1 (.leg k l.jsn e) true) = some a) :
    doRecv k e s = refuseEntry k (fieldNat bs 0 8) (issued k e false false s1) := by
  unfold doRecv
  rw [comesToIssue_now now]
  simp only [hb, hp, hlen, hroom, hbad, Option.isSome_some, if_true, if_false, Bool.false_eq_true]

theorem doRecv_device (hp : i.image.peers[en.target]? = some (.device dev)) (hlen : fieldNat bs 8 8 ≠ 0) (hroom : netFull s1 = false)
    (hok : lowestBad (addrEdges s1) (fieldNat bs 0 8) (fieldNat bs 8 8) (descBad s1 (.leg k l.jsn e) true) = none)
    (hnew : s1.net.recvs.find? (fun y => y.itin == k && y.jsn == l.jsn && y.entry == e) = none) :
    doRecv k e s = recvPosted k e (freshRecv k e l en bs) s1 := by
  have hland : ¬ fieldNat bs 8 8 ≤ rangesLen [] := by simpa [rangesLen] using hlen
  unfold doRecv
  rw [comesToIssue_now now]
  simp only [hb, hp, hlen, hroom, hok, hnew, hland, Option.isSome_none, if_false, Bool.false_eq_true]
  rfl

theorem doRecv_guest (hp : i.image.peers[en.target]? = some (.guest g)) (hlen : fieldNat bs 8 8 ≠ 0) (hroom : netFull s1 = false)
    (hok : lowestBad (addrEdges s1) (fieldNat bs 0 8) (fieldNat bs 8 8) (descBad s1 (.leg k l.jsn e) true) = none)
    (hnew : s1.net.recvs.find? (fun y => y.itin == k && y.jsn == l.jsn && y.entry == e) = none) (hst : (getPh s1 (64 + g)).st ≠ .lost) :
    doRecv k e s = settleGuestRecvs g (recvPosted k e (freshRecv k e l en bs) s1) := by
  have hst' : ((getPh (recvPosted k e (freshRecv k e l en bs) s1) (64 + g)).st == .lost) = false := beq_eq_false_iff_ne.2 hst
  unfold recvPosted freshRecv RecvX.ofEntry at hst'
  unfold doRecv
  rw [comesToIssue_now now]
  simp only [hb, hp, hlen, hroom, hok, hnew, hst', Option.isSome_none, if_false, Bool.false_eq_true]
  rfl

end

/-- A posted landing range of an entry stands in the table. -/
def RecvStands (k j e a n : Nat) (s : State) : Prop :=
  ∃ r ∈ s.net.recvs, r.itin = k ∧ r.jsn = j ∧ r.entry = e ∧ r.posted = true ∧ r.addr = a ∧ r.len = n

theorem RecvStands.of_net {k j e a n : Nat} {s t : State} (h : RecvStands k j e a n s) (hnet : t.net = s.net) : RecvStands k j e a n t := by
  unfold RecvStands; rw [hnet]; exact h

/-- What a range counts is no part of where it stands. -/
theorem RecvStands.count {k j e a n : Nat} {s : State} (h : RecvStands k j e a n s) (r : RecvX) (c : Nat) :
    RecvStands k j e a n (modRecv r (fun x => { x with counted := c }) s) := by
  obtain ⟨y, hy, hfields⟩ := h
  refine ⟨_, List.mem_map.2 ⟨y, hy, rfl⟩, ?_⟩
  split <;> exact hfields

/-- Settling the RECVs from a guest takes no landing range away and writes no memory. -/
theorem settleGuestRecvs_keeps {k j e a n : Nat} (g : Nat) {s : State} (h : RecvStands k j e a n s) :
    (settleGuestRecvs g s).mem = s.mem ∧ RecvStands k j e a n (settleGuestRecvs g s) := by
  refine forEach_preserves (P := fun t => t.mem = s.mem ∧ RecvStands k j e a n t) (fun r t ht => ?_) _ ⟨rfl, h⟩
  obtain ⟨hmem, hr⟩ := ht
  dsimp only
  split
  · split <;> split <;> exact ⟨hmem, (hr.count r _).of_net rfl⟩
  · exact ⟨hmem, hr⟩

theorem recvStands_recvPosted (k e : Nat) (l : Leg) (en : Entry) (bs : List Byte) (s : State) :
    RecvStands k l.jsn e (fieldNat bs 0 8) (fieldNat bs 8 8) (recvPosted k e (freshRecv k e l en bs) s) :=
  ⟨freshRecv k e l en bs, List.mem_append_right _ (List.mem_singleton.2 rfl), rfl, rfl, rfl, rfl, rfl, rfl⟩

-- the obligation

/-- Settles O46: each clause is the equation of its case, read off by what `issued`, `slip` and the unit's own update change. -/
theorem legEntriesIssue : Obligations.LegEntriesIssue := by
  unfold Obligations.LegEntriesIssue
  refine ⟨?behind, ?launch, ?move, ?send, ?recv⟩
  case behind =>
    intro k e kind i l en s h1 h4 hd ht ho
    obtain ⟨hi, hl⟩ := entryDue_leg hd
    have hexec := exec_entryCommand_behind h1 h4 hd ht ho
    refine ⟨fun he => ?_, fun he => by rw [hexec, slip_again hi hl he]⟩
    obtain ⟨hleg, hcount⟩ := slip_first hi hl he
    exact ⟨_, hexec, hleg, hcount, slip_rest k e s⟩
  case launch =>
    intro k e i l en bs cl s s1 now hb hcl hi
    have hl := now.leg
    refine ⟨fun h0 => ?_, fun hm hn => ⟨fun hfit => ?_, fun hno he => ?_⟩⟩
    · exact ⟨_, exec_launch (doLaunch_empty now hb hcl h0), getItin_issued hi hl _ _, rfl⟩
    · have hseats : ∀ c ∈ launchCores bs, (getCore s1 cl c).seats bs := fun c hc =>
        hfit c (mem_launchCores.1 hc).1 (mem_launchCores.1 hc).2
      exact ⟨_, exec_launch (doLaunch_seats now hb hcl hm hn hseats),
        getItin_issued ((getItin_of_itins (seatAll_itins k e cl bs s1) k).trans hi) hl _ _,
        fun c hc j => slot_seatAll k e cl bs s1 hc j, fun c hc => getCluster_seatAll k e cl bs s1 hc, seatAll_mem k e cl bs s1⟩
    · obtain ⟨c, hc, hbit, hover⟩ := hno
      have hnot : ¬ (getCore s1 cl c).seats bs := by unfold Core.seats; omega
      obtain ⟨hleg, hcount⟩ := slip_first hi hl he
      exact ⟨_, exec_launch (doLaunch_waits now hb hcl hm hn (mem_launchCores.2 ⟨hc, hbit⟩) hnot), slip_clusters k e s1, hleg, hcount⟩
  case move =>
    intro k e i l en bs s s1 now hb hi
    have hl := now.leg
    refine ⟨fun h0 => ?_, fun hlen hsup hop => ?_, fun hlen hgo => ⟨fun hroom => ?_, fun hfull he => ?_⟩⟩
    · refine ⟨_, exec_move (doMove_empty now hb h0), getItin_issued hi hl _ _, ?_⟩
      rw [getPorter_modPorter, if_pos rfl]; rfl
    · exact ⟨_, exec_move (doMove_heldBack now hb hlen hsup hop), getItin_issued hi hl _ _, rfl⟩
    · have hmove := doMove_toPorter now hb hlen hgo
      rw [if_neg (by omega)] at hmove
      refine ⟨_, exec_move hmove, getItin_issued hi hl _ _, ?_, fun p hp => ?_, rfl⟩
      · rw [getPorter_modPorter, if_pos rfl]; rfl
      · rw [getPorter_modPorter, if_neg hp]; rfl
    · have hmove := doMove_toPorter now hb hlen hgo
      rw [if_pos hfull] at hmove
      exact ⟨_, exec_move hmove, slip_porters k e s1, (slip_first hi hl he).1⟩
  case send =>
    intro k e i l en bs p s s1 now hb hi hp req
    have hl := now.leg
    refine ⟨fun h0 => ?_, fun hlen hfull he => ?_, fun hlen hroom => ⟨?pacel, ?conn, ?held, ?guest, ?gone⟩⟩
    · exact ⟨_, exec_send (doSend_empty now hb hp h0), rfl, getItin_issued hi hl _ _⟩
    · exact ⟨_, exec_send (doSend_waits now hb hp hlen hfull), slip_net k e s1, (slip_first hi hl he).1⟩
    case pacel =>
      rintro d rfl ht4 hdown
      obtain ⟨x, f, hsend⟩ := doSend_pacel now hb hp hlen hroom ht4
      rw [pumpPacel_down (by exact hdown)] at hsend
      exact ⟨_, exec_send hsend, getItin_issued hi hl _ _, rfl, rfl⟩
    case conn =>
      rintro d id c rfl ht4 hid hwin
      obtain ⟨x, f, hsend⟩ := doSend_conn now hb hp hlen hroom ht4 hid
      have hq : WindowFull (sendBegun k e x f s1) id c := hwin
      rw [pumpConn_windowFull (hq.queueConn _)] at hsend
      exact ⟨_, _, exec_send hsend, getItin_issued hi hl _ _, (hq.queueConn _).1, rfl, rfl⟩
    case held =>
      rintro g rfl hsup
      exact ⟨_, exec_send (doSend_guestHeldBack now hb hp hlen hroom hsup), rfl, getItin_issued hi hl _ _⟩
    case guest =>
      rintro g id c rfl hsup hst hg hwin
      obtain ⟨x, f, hsend⟩ := doSend_guest now hb hp hlen hroom hsup hst
      have hq : WindowFull (sendBegun k e x f s1) id c := hwin
      rw [queueGuest_conn _ (by exact hg), pumpGuest_windowFull (by exact hg) (hq.queueConn _)] at hsend
      exact ⟨_, _, exec_send hsend, getItin_issued hi hl _ _, (hq.queueConn _).1, rfl, rfl⟩
    case gone =>
      rintro g rfl hsup ho hd
      obtain ⟨⟨i', hi', hnone⟩, hcount⟩ := refuseEntry_discards (a := fieldNat bs 0 8) (getItin_issued (e := e) hi hl false false) rfl
      exact ⟨_, i', exec_send (doSend_guestGone now hb hp hlen hroom hsup ho hd), hi', hnone, hcount⟩
  case recv =>
    intro k e i l en bs p s s1 now hb hi hp
    have hl := now.leg
    refine ⟨fun h0 => ?_, fun hlen hfull he => ?_, fun hlen hroom hok hnew => ⟨?device, ?guest⟩, fun a hlen hroom hbad => ?_⟩
    · exact ⟨_, exec_recv (doRecv_empty now hb hp h0), getItin_issued hi hl _ _, rfl⟩
    · exact ⟨_, exec_recv (doRecv_waits now hb hp hlen hfull), slip_net k e s1, (slip_first hi hl he).1⟩
    case device =>
      rintro d rfl
      exact ⟨_, exec_recv (doRecv_device now hb hp hlen hroom hok hnew), getItin_issued hi hl _ _, rfl, rfl⟩
    case guest =>
      rintro g rfl hst
      exact ⟨_, exec_recv (doRecv_guest now hb hp hlen hroom hok hnew hst), settleGuestRecvs_keeps g (recvStands_recvPosted k e l en bs s1)⟩
    · obtain ⟨⟨i', hi', hnone⟩, hcount⟩ := refuseEntry_discards (a := fieldNat bs 0 8) (getItin_issued (e := e) hi hl false false) rfl
      exact ⟨_, i', exec_recv (doRecv_refused now hb hp hlen hroom hbad), hi', hnone, hcount⟩

end Sys2Proof.Machine
end

section
/-! PROOFS. The stage configuration and the writes to registers (R18, R31, R45, R52 to R56, R102, R338, R350): what a refused configuration
leaves alone, and what each write of firmware changes. -/

namespace Sys2Proof.Machine

/-- Some selected value of a stage configuration is not permitted, the length or window not selected taken as it stands in a configuration
(R18, R31, R45, R53, R54). -/
def CfgRefused (c : StgCfgReg) (len win ckpt wdog mask : Nat) : Prop :=
  (mask.testBit 0 = true ∧ mask.testBit 1 = true ∧ lenWinOk len win = false) ∨
  (mask.testBit 0 = true ∧ mask.testBit 1 = false ∧ lenWinOk len c.winUs.toNat = false) ∨
  (mask.testBit 0 = false ∧ mask.testBit 1 = true ∧ lenWinOk c.lenUs.toNat win = false) ∨
  (mask.testBit 2 = true ∧ ckpt = 0) ∨ (mask.testBit 3 = true ∧ wdog = 0)

section
variable {c : StgCfgReg} {len win ckpt wdog mask : Nat} (h : CfgRefused c len win ckpt wdog mask)
include h

theorem CfgRefused.not_ok : stageCfgOk c len win ckpt wdog mask = false := by
  rcases h with ⟨h0, h1, hb⟩ | ⟨h0, h1, hb⟩ | ⟨h0, h1, hb⟩ | ⟨h2, rfl⟩ | ⟨h3, rfl⟩
  · simp [stageCfgOk, h0, h1, hb]
  · simp [stageCfgOk, h0, h1, hb]
  · simp [stageCfgOk, h0, h1, hb]
  · simp [stageCfgOk, h2]
  · simp [stageCfgOk, h3]

/-- Only a selected field is judged. -/
theorem CfgRefused.mask_ne_zero : mask ≠ 0 := by
  rintro rfl
  simp [CfgRefused] at h

end

/-- R54: What a `stage.config` with a value that is not permitted does is to complete with ST_BAD_ARG. -/
theorem exec_stageConfig_refused {s : State} {id : Nat} {c : Cmd} (hw : atWork s id 0x0011 = some c)
    (hfit : argsFit c [0x00FFFFFF03FF7FFF, 0xF] = true)
    (h : CfgRefused (cfgDecided s) (bitsNat (c.arg 0) 0 15) (bitsNat (c.arg 0) 16 10) (bitsNat (c.arg 0) 32 16) (bitsNat (c.arg 0) 48 8) (c.num 1)) :
    exec (.stageConfig id) s = .next (finishCmd id stBadArg 0 s) := by
  refine congrArg Host.Outcome.next ((withCmd_of hw _).trans ?_)
  simp only [hfit, h.not_ok, h.mask_ne_zero, Bool.not_true, Bool.not_false, Bool.false_eq_true, if_false, if_true]

/-- A command that completes changes the Innkeeper alone. -/
theorem CmdDone.only_innk {id res : Nat} {st : BitVec 16} {s t : State} (h : CmdDone id st res s t) : { t with innk := s.innk } = s :=
  (congrArg (fun u : State => { u with innk := s.innk }) h.rest :)

theorem CmdDone.stg_eq {id res : Nat} {st : BitVec 16} {s t : State} (h : CmdDone id st res s t) : t.stg = s.stg :=
  (congrArg State.stg h.rest :)

/-- Settles O4: a value that is not permitted ends the command before any field is staged. -/
theorem invalidConfigChangesNothing : Obligations.InvalidConfigChangesNothing := by
  unfold Obligations.InvalidConfigChangesNothing
  rintro id _ _ _ _ _ c s hw hfit rfl rfl rfl rfl rfl h
  have done := finishCmd_atWork stBadArg 0 hw
  obtain ⟨d, -, hd⟩ := done.cmd
  exact ⟨_, _, exec_stageConfig_refused hw hfit h, hd, rfl, rfl, done.others, done.stg_eq, done.only_innk⟩

-- writes to the stage registers (R52, R54, R56)

theorem bitsNat_lt {w : Nat} (x : BitVec w) (lo n : Nat) : bitsNat x lo n < 2 ^ n := Nat.mod_lt _ (Nat.two_pow_pos n)

theorem toNat_ofNat_bitsNat {w : Nat} (x : BitVec w) (lo n : Nat) : (BitVec.ofNat n (bitsNat x lo n)).toNat = bitsNat x lo n := by
  rw [BitVec.toNat_ofNat, Nat.mod_eq_of_lt (bitsNat_lt x lo n)]

/-- The fields of a write of STG_CFG_NEXT stand in the register, whether or not they are staged. -/
def putNext (v : Word) (s : State) : State :=
  modStg (fun g => { g with next := { g.next with
    lenUs := BitVec.ofNat 15 (bitsNat v 0 15), winUs := BitVec.ofNat 10 (bitsNat v 16 10)
    ckptStages := BitVec.ofNat 16 (bitsNat v 32 16), wdogBells := BitVec.ofNat 8 (bitsNat v 48 8) } }) s

/-- APPLY and BAD of STG_CFG_NEXT. -/
def markNext (bad apply : BitVec 1) (s : State) : State := modStg (fun g => { g with next := { g.next with bad := bad, apply := apply } }) s

section
variable {v : Word} {s : State} (hb : innkBooted s = true) (ha : v.getLsbD 63 = true)
include hb ha

/-- R54, R56: Values of which one is not permitted are refused together. -/
theorem exec_stgCfgNextApply_bad
    (h : lenWinOk (bitsNat v 0 15) (bitsNat v 16 10) = false ∨ bitsNat v 32 16 = 0 ∨ bitsNat v 48 8 = 0) :
    exec (.stgCfgNextApply v) s = .next (markNext 1#1 0#1 (putNext v s)) := by
  refine congrArg Host.Outcome.next ?_
  have hno : (lenWinOk (bitsNat v 0 15) (bitsNat v 16 10) && decide (0 < bitsNat v 32 16) && decide (0 < bitsNat v 48 8)) = false := by
    rcases h with h | h | h <;> simp [h]
  unfold doCfgNextApply
  simp only [hb, ha, hno, Bool.not_true, Bool.not_false, Bool.false_eq_true, if_false, if_true]
  rfl

/-- R52, R56: Permitted values that all change, while no cluster is bound, are all staged. -/
theorem exec_stgCfgNextApply_staged (hlw : lenWinOk (bitsNat v 0 15) (bitsNat v 16 10) = true) (hck : bitsNat v 32 16 ≠ 0)
    (hwd : bitsNat v 48 8 ≠ 0) (nl : bitsNat v 0 15 ≠ (cfgDecided s).lenUs.toNat) (nw : bitsNat v 16 10 ≠ (cfgDecided s).winUs.toNat)
    (nc : bitsNat v 32 16 ≠ (cfgDecided s).ckptStages.toNat) (nd : bitsNat v 48 8 ≠ (cfgDecided s).wdogBells.toNat)
    (hbound : boundCount s = 0) :
    exec (.stgCfgNextApply v) s = .next (markNext 0#1 1#1
      (stageCfg (bitsNat v 0 15) (bitsNat v 16 10) (bitsNat v 32 16) (bitsNat v 48 8) 15 (firstSecond s) 2 none (putNext v s))) := by
  refine congrArg Host.Outcome.next ?_
  have hok : (lenWinOk (bitsNat v 0 15) (bitsNat v 16 10) && decide (0 < bitsNat v 32 16) && decide (0 < bitsNat v 48 8)) = true := by
    simp [hlw, Nat.pos_of_ne_zero hck, Nat.pos_of_ne_zero hwd]
  have hdec : cfgDecided (putNext v s) = cfgDecided s := rfl
  have hcount : boundCount (putNext v s) = boundCount s := rfl
  unfold doCfgNextApply
  simp only [hb, ha, Bool.not_true, Bool.false_eq_true, if_false]
  rw [← putNext, hdec, if_neg nl, if_neg nw, if_neg nc, if_neg nd, hcount, hbound]
  simp only [hok, Bool.not_true, Bool.false_eq_true, if_false, lt_irrefl, decide_false, Bool.and_false]
  rfl

end

/-- Changes of checkpoint period and watchdog limit leave the length and the window. -/
theorem cfgCw_lenUs (c : StgCfgReg) (ps : List CwPend) : (cfgCw c ps).lenUs = c.lenUs := by
  unfold cfgCw
  induction ps generalizing c with
  | nil => rfl
  | cons p ps ih => exact ih _

theorem cfgCw_winUs (c : StgCfgReg) (ps : List CwPend) : (cfgCw c ps).winUs = c.winUs := by
  unfold cfgCw
  induction ps generalizing c with
  | nil => rfl
  | cons p ps ih => exact ih _

theorem cfgLw_append (c : StgCfgReg) (ps qs : List LwPend) : cfgLw c (ps ++ qs) = cfgLw (cfgLw c ps) qs := List.foldl_append ..

theorem cfgCw_append (c : StgCfgReg) (ps qs : List CwPend) : cfgCw c (ps ++ qs) = cfgCw (cfgCw c ps) qs := List.foldl_append ..

theorem cfgDecided_markNext (bad apply : BitVec 1) (s : State) : cfgDecided (markNext bad apply s) = cfgDecided s := rfl

/-- Once a change of every field is staged, the configuration decided is the one asked for. -/
theorem cfgDecided_stageCfg (len win ckpt wdog first bells : Nat) (cmd : Option Nat) (s : State) :
    cfgDecided (stageCfg len win ckpt wdog 15 first bells cmd s) =
      { lenUs := BitVec.ofNat 15 len, winUs := BitVec.ofNat 10 win, ckptStages := BitVec.ofNat 16 ckpt, wdogBells := BitVec.ofNat 8 wdog } := by
  have hstg : (stageCfg len win ckpt wdog 15 first bells cmd s).stg.pend =
      { lw := s.stg.pend.lw ++ [{ len := some len, win := some win, first := first, cmd := cmd }]
        cw := s.stg.pend.cw ++ [{ ckpt := some ckpt, wdog := some wdog, bells := bells, cmd := cmd }] } := rfl
  unfold cfgDecided
  rw [hstg, cfgLw_append, cfgCw_append]
  generalize cfgLw (stageCfg len win ckpt wdog 15 first bells cmd s).stg.cfg s.stg.pend.lw = c
  simp only [cfgLw, cfgCw, List.foldl_cons, List.foldl_nil, StgCfgReg.mk.injEq, and_true]
  exact ⟨cfgCw_lenUs _ s.stg.pend.cw, cfgCw_winUs _ s.stg.pend.cw⟩

-- OFFLINE of CL_CTL (R102)

/-- A record whose class is not a corrected error joins the log by itself. -/
theorem mem_errs_logErr {r : ErrRec} (hc : (r.cls == 1) = false) (s : State) :
    { r with seq := s.errSeq, bell := s.stg.num, tNs := s.stg.ptpNow } ∈ (logErr r s).errs := by
  have hno : s.errs.any (fun x => mergesWith x { r with seq := s.errSeq, bell := s.stg.num, tNs := s.stg.ptpNow }) = false := by
    simp [mergesWith, hc]
  unfold logErr
  simp only [hno, Bool.false_eq_true, if_false]
  exact List.mem_cons_self

theorem logErr_clusters (r : ErrRec) (s : State) : (logErr r s).clusters = s.clusters := by
  unfold logErr
  dsimp only
  split <;> rfl

theorem getCluster_takeOffline (c n : Nat) (s : State) :
    getCluster (takeOffline c s) n = if n = c then { getCluster s c with offline := true } else getCluster s n := by
  rw [← getCluster_modCluster c (fun x => { x with offline := true })]
  exact congrArg (fun t => tabGet {} t n) (logErr_clusters _ _)

section
variable {n : Nat} {v : Word} {s : State} (hb : innkBooted s = true) (hf : clusterFitted s n = true)
include hb hf

theorem exec_offline_set (hv : v.getLsbD 0 = true) (hl : clusterLive s n = true) (ho : (getCluster s n).offline = false) :
    exec (.offline n v) s = .next (takeOffline n s) := by
  refine congrArg Host.Outcome.next ?_
  simp [doOffline, hb, hf, hv, hl, ho]

theorem exec_offline_clear (hv : v.getLsbD 0 = false) (ho : (getCluster s n).out = false) :
    exec (.offline n v) s = .next (modCluster n (fun c => { c with offline := false }) s) := by
  refine congrArg Host.Outcome.next ?_
  unfold doOffline
  simp only [hb, hf, hv, ho, Bool.and_self, Bool.false_eq_true, if_false, if_true]

theorem exec_offline_out (ho : (getCluster s n).out = true) (hl : clusterLive s n = false) : exec (.offline n v) s = .next s := by
  refine congrArg Host.Outcome.next ?_
  simp [doOffline, hb, hf, ho, hl]

end

-- the blocks of the control space (R338)

/-- What a write at an offset of a block of the control space does. -/
def writeBlock (k off : Nat) (v : Word) (s : State) : State :=
  match k with
  | 0 => writeStg off v s
  | 1 => writeCl off v s
  | 2 => writeL2h off v s
  | 3 => writeMem off v s
  | 4 => writePh off v s
  | 5 => writeNet off v s
  | 6 => writePtr off v s
  | 7 => writePwr off v s
  | _ => s

section
variable {v : Word} {s t : State} {a k off : Nat} (hb : innkBooted s = true)
include hb

theorem exec_registerWrite_block (ha : a = ctlBase + k * ctlBlock + off) (ho : off < ctlBlock) (hw : writeBlock k off v s = t) :
    exec (.registerWrite a v) s = .next t := by
  have hge : ¬ a < ctlBase := by omega
  have hpos : 0 < ctlBlock := by decide
  have hsub : a - ctlBase = off + ctlBlock * k := by rw [Nat.mul_comm]; omega
  refine congrArg Host.Outcome.next ?_
  unfold doRegisterWrite writeReg
  rw [if_pos hb, if_neg hge, hsub, Nat.add_mul_mod_self_left, Nat.mod_eq_of_lt ho, Nat.add_mul_div_left _ _ hpos, Nat.div_eq_of_lt ho, Nat.zero_add]
  exact hw

/-- R338: Outside the eight writable blocks a write has no effect. -/
theorem exec_registerWrite_outside (ha : a < ctlBase ∨ ctlBase + 8 * ctlBlock ≤ a) : exec (.registerWrite a v) s = .next s := by
  rcases ha with ha | ha
  · refine congrArg Host.Outcome.next ?_
    unfold doRegisterWrite writeReg
    rw [if_pos hb, if_pos ha]
  · have hpos : 0 < ctlBlock := by decide
    have hk : 8 ≤ (a - ctlBase) / ctlBlock := (Nat.le_div_iff_mul_le hpos).2 (by omega)
    have heq := Nat.div_add_mod (a - ctlBase) ctlBlock
    refine exec_registerWrite_block hb (k := (a - ctlBase) / ctlBlock) (off := (a - ctlBase) % ctlBlock) ?_ (Nat.mod_lt _ hpos) ?_
    · rw [Nat.mul_comm]; omega
    · obtain ⟨m, hm⟩ := Nat.exists_eq_add_of_le' hk
      rw [hm]
      rfl

/-- A write in the page of a unit of a block. -/
theorem exec_registerWrite_page {n : Nat} (ha : a = ctlBase + k * ctlBlock + n * 0x1000 + off) (hn : n < 0x1000) (ho : off < 0x1000)
    (hw : writeBlock k (n * 0x1000 + off) v s = t) : exec (.registerWrite a v) s = .next t :=
  exec_registerWrite_block hb (by omega) (by unfold ctlBlock; omega) hw

end

theorem page_div {n off : Nat} (ho : off < 0x1000) : (n * 0x1000 + off) / 0x1000 = n := by omega
theorem page_mod {n off : Nat} (ho : off < 0x1000) : (n * 0x1000 + off) % 0x1000 = off := by omega

theorem clusterLive_lt {s : State} {n : Nat} (h : clusterLive s n = true) : n < 1024 := by
  simp only [clusterLive, clusterFitted, clusterIdWf, Bool.and_eq_true, decide_eq_true_eq] at h
  exact h.1.1.1.1

theorem writeCl_ctl {n : Nat} {v : Word} {s : State} (hl : clusterLive s n = true) : writeCl (n * 0x1000 + 0x010) v s = doOffline n v s := by
  unfold writeCl
  simp only [page_div (off := 0x010) (by decide), page_mod (off := 0x010) (by decide), hl, Bool.not_true, Bool.false_eq_true, if_false, if_true]

theorem writeL2h_cfg {n : Nat} {v : Word} {s : State} (hl : halfLive s n = true) :
    writeL2h (n * 0x1000 + 0x008) v s = modHome n (fun h => { h with cfg := putL2hCfg v h.cfg }) s := by
  unfold writeL2h
  simp only [page_div (off := 0x008) (by decide), page_mod (off := 0x008) (by decide), hl, Bool.not_true, Bool.false_eq_true, if_false]

theorem writeMem_cfg {n : Nat} {v : Word} {s : State} (hl : stackLive s n = true) :
    writeMem (n * 0x1000 + 0x008) v s = modCtl n (fun c => { c with cfg := putMemCfg v c.cfg }) s := by
  unfold writeMem
  simp only [page_div (off := 0x008) (by decide), page_mod (off := 0x008) (by decide), hl, Bool.not_true, Bool.false_eq_true, if_false]
  rfl

theorem inArray_at {base n i : Nat} (hi : i < n) : inArray (base + 8 * i) base n = some i := by
  have hin : base ≤ base + 8 * i ∧ base + 8 * i < base + 8 * n ∧ (base + 8 * i - base) % 8 = 0 := by omega
  unfold inArray
  rw [if_pos hin]
  congr 1
  omega

theorem writeMem_retired {n i : Nat} {v : Word} {s : State} (hl : stackLive s n = true) (hi : i < 256) :
    writeMem (n * 0x1000 + (0x400 + 8 * i)) v s = modCtl n (fun c => { c with retired := tabSet {} c.retired i (putMemRet v) }) s := by
  have ho : 0x400 + 8 * i < 0x1000 := by omega
  unfold writeMem
  simp only [page_div ho, page_mod ho, hl, inArray_at hi, Bool.not_true, Bool.false_eq_true, if_false]

theorem writeNet_v4 {n : Nat} {v : Word} {s : State} (hn : n < 8) :
    writeNet (0x1000 + n * 0x100 + 0x10) v s = modPort n (fun p => { p with v4 := putPortV4 v p.v4 }) s := by
  have hin : 0x1000 ≤ 0x1000 + n * 0x100 + 0x10 ∧ 0x1000 + n * 0x100 + 0x10 < 0x1800 := by omega
  have hport : (0x1000 + n * 0x100 + 0x10 - 0x1000) / 0x100 = n := by omega
  have hoff : (0x1000 + n * 0x100 + 0x10 - 0x1000) % 0x100 = 0x10 := by omega
  unfold writeNet
  rw [if_pos hin, hport, hoff]
  rfl

theorem getHome_modHome_self (n : Nat) (f : Home → Home) (s : State) : getHome (modHome n f s) n = f (getHome s n) := tabGet_tabSet_self ..
theorem getCtl_modCtl_self (n : Nat) (f : Ctl → Ctl) (s : State) : getCtl (modCtl n f s) n = f (getCtl s n) := tabGet_tabSet_self ..

theorem getPort_modPort (n m : Nat) (f : Port → Port) (s : State) :
    getPort (modPort n f s) m = if m = n then f (getPort s n) else getPort s m :=
  tabGet_tabSet ..

theorem onlyHome_modHome (n : Nat) (f : Home → Home) (s : State) : OnlyHome n s (modHome n f s) := ⟨rfl, fun _ hm => tabGet_tabSet_ne hm⟩
theorem onlyCtl_modCtl (n : Nat) (f : Ctl → Ctl) (s : State) : OnlyCtl n s (modCtl n f s) := ⟨rfl, fun _ hm => tabGet_tabSet_ne hm⟩

/-- Settles O51: each write is the equation of its register, read off by what the register's own update changes. -/
theorem registerWriting : Obligations.RegisterWriting := by
  unfold Obligations.RegisterWriting
  refine ⟨fun v s hb => ⟨fun ha => ⟨fun hbad => ?bad, fun hlw hck hwd nl nw nc nd hbound => ?staged⟩, ?events, fun n hf => ?offline⟩,
    fun v s hb => ⟨?time, ?ldg, ?next, ?clr, fun n hl => ?cl, fun n hn hl => ?l2h, fun n hn hl => ?mem, ?ph, ?net, ?relay, ?job,
      fun n hn => ?v4, ?ptr, ?pwr, ?cool, fun a ha => exec_registerWrite_outside hb ha⟩⟩
  case bad => exact ⟨_, exec_stgCfgNextApply_bad hb ha hbad, rfl, rfl, rfl, rfl, rfl⟩
  case staged =>
    refine ⟨_, exec_stgCfgNextApply_staged hb ha hlw hck hwd nl nw nc nd hbound, rfl, rfl, rfl, rfl, ?_⟩
    simp only [cfgDecided_markNext, cfgDecided_stageCfg, toNat_ofNat_bitsNat, and_self]
  case events =>
    have hup : ¬ ((!innkBooted s) = true) := by rw [hb]; decide
    exact ⟨_, congrArg Host.Outcome.next (if_neg hup), rfl, rfl, rfl, rfl, rfl, rfl⟩
  case offline =>
    refine ⟨fun hv hl ho => ⟨_, exec_offline_set hb hf hv hl ho, ?_⟩, fun hv ho => ⟨_, exec_offline_clear hb hf hv ho, ?_⟩,
      exec_offline_out hb hf⟩
    · refine ⟨(getCluster_takeOffline n n s).trans (if_pos rfl), fun m hm => (getCluster_takeOffline n m s).trans (if_neg hm),
        (coresKept_takeOffline n s).mem, takeOffline_itins n s, _, mem_errs_logErr (by rfl) _, rfl, rfl⟩
    · exact ⟨(getCluster_modCluster n _ s n).trans (if_pos rfl), rfl⟩
  case time => exact exec_registerWrite_block hb (k := 0) (off := 0x030) (by omega) (by decide) rfl
  case ldg => exact exec_registerWrite_block hb (k := 0) (off := 0x100) (by omega) (by decide) rfl
  case next => exact exec_registerWrite_block hb (k := 0) (off := 0x008) (by omega) (by decide) rfl
  case clr => exact exec_registerWrite_block hb (k := 0) (off := 0x040) (by omega) (by decide) rfl
  case cl =>
    have hn : n < 0x1000 := Nat.lt_trans (clusterLive_lt hl) (by decide)
    exact exec_registerWrite_page hb (k := 1) (off := 0x010) (by omega) hn (by decide) (writeCl_ctl hl)
  case l2h =>
    exact ⟨_, exec_registerWrite_page hb (k := 2) (off := 0x008) (by omega) (by omega) (by decide) (writeL2h_cfg hl),
      onlyHome_modHome .., getHome_modHome_self ..⟩
  case mem =>
    refine ⟨?_, fun i hi => ?_⟩
    · exact ⟨_, exec_registerWrite_page hb (k := 3) (off := 0x008) (by omega) (by omega) (by decide) (writeMem_cfg hl),
        onlyCtl_modCtl .., getCtl_modCtl_self ..⟩
    · refine ⟨_, exec_registerWrite_page hb (k := 3) (n := n) (off := 0x400 + 8 * i) (by omega) (by omega) (by omega) (writeMem_retired hl hi),
        onlyCtl_modCtl .., ?_⟩
      rw [getCtl_modCtl_self]
      exact ⟨tabGet_tabSet_self .., fun j hj => tabGet_tabSet_ne hj⟩
  case ph => exact exec_registerWrite_block hb (k := 4) (off := 0) (by omega) (by decide) rfl
  case net => exact exec_registerWrite_block hb (k := 5) (off := 0) (by omega) (by decide) rfl
  case relay => exact exec_registerWrite_block hb (k := 5) (off := 0x008) (by omega) (by decide) rfl
  case job => exact exec_registerWrite_block hb (k := 5) (off := 0x010) (by omega) (by decide) rfl
  case v4 =>
    have ho : 0x1000 + n * 0x100 + 0x10 < ctlBlock := by unfold ctlBlock; omega
    exact ⟨_, exec_registerWrite_block hb (k := 5) (by omega) ho (writeNet_v4 hn), rfl, (getPort_modPort ..).trans (if_pos rfl),
      fun m hm => (getPort_modPort ..).trans (if_neg hm)⟩
  case ptr => exact exec_registerWrite_block hb (k := 6) (off := 0) (by omega) (by decide) rfl
  case pwr => exact exec_registerWrite_block hb (k := 7) (off := 0) (by omega) (by decide) rfl
  case cool => exact exec_registerWrite_block hb (k := 7) (off := 0x010) (by omega) (by decide) rfl

end Sys2Proof.Machine
end

section
/-! PROOFS. The time unit (R22 to R27, R414 to R416, R531, R560): the states that follow from the lock and the bound, the corrections of an
offset, the messages that drive the servo, the choice of a master, the timeouts and the pulses. -/

namespace Sys2Proof.Machine

-- the states (R22)

theorem boundUnits_toNat (ns : Nat) : (boundUnits ns).toNat = min ((ns + 9) / 10) 0xFFFF := by
  unfold boundUnits
  rw [BitVec.toNat_ofNat, Nat.mod_eq_of_lt (by omega)]

theorem boundUnits_le {ns : Nat} : (boundUnits ns).toNat ≤ 50 ↔ ns ≤ 500 := by
  rw [boundUnits_toNat]
  omega

theorem timeStateOf_good {left : Bool} {u : BitVec 16} (hu : u.toNat ≤ 50) : timeStateOf true left 0#1 u = timeLocked := by
  simp [timeStateOf, hu]

theorem timeStateOf_never {u : BitVec 16} (r : BitVec 1) (hu : ¬ u.toNat ≤ 50) : timeStateOf true false r u = timeUnset := by
  simp [timeStateOf, hu]

theorem timeStateOf_withheld (u : BitVec 16) : timeStateOf true true 1#1 u = if u.toNat ≤ 200 then timeHoldover else timeFreerun := by
  simp [timeStateOf]

/-- Once UNSET has been left, a unit without lock is in HOLDOVER up to 2 us and in FREERUN beyond. -/
theorem timeStateOf_unlocked (r : BitVec 1) (u : BitVec 16) :
    (u.toNat ≤ 200 → timeStateOf false true r u = timeHoldover) ∧ (200 < u.toNat → timeStateOf false true r u = timeFreerun) := by
  constructor <;> intro h
  · simp [timeStateOf, h]
  · simp [timeStateOf, Nat.not_le.2 h]

-- the corrections (R25 to R27)

/-- STEP_REFUSED of STG_TIME_STATE. -/
def setRefused (b : BitVec 1) (s : State) : State := modStg (fun g => { g with time := { g.time with stepRefused := b } }) s

/-- STEP_MS, and the limit on backward steps, in nanoseconds. -/
def Stage.stepNs (g : Stage) : Int := g.timeCfg.stepMs.toNat * 1000000
def Stage.backLimitNs (g : Stage) : Int := g.timeCfg.backstepLimitS.toNat * 1000000000

theorem stepNs_nonneg (g : Stage) : 0 ≤ g.stepNs := by unfold Stage.stepNs; omega

section
variable {o : Int} {s : State}

theorem correct_slew (hlo : -s.stg.stepNs ≤ o) (hhi : o ≤ s.stg.stepNs) : correct o s = (o, setRefused 0#1 (slewBy o s)) := by
  unfold correct
  exact if_pos ⟨hlo, hhi⟩

theorem correct_forward (h : o < -s.stg.stepNs) : correct o s = (0, setRefused 0#1 (slewBy 0 (correctBy o s))) := by
  have hneg : o < 0 := by have := stepNs_nonneg s.stg; omega
  unfold correct
  exact (if_neg fun hin => absurd hin.1 (by unfold Stage.stepNs at h; omega)).trans (if_pos hneg)

theorem correct_backward (h : s.stg.stepNs < o) (hl : o ≤ s.stg.backLimitNs) :
    correct o s = (0, setRefused 0#1 (modStg (fun g => { g with suspended := true }) (slewBy 0 (correctBy o s)))) := by
  have hpos : ¬ o < 0 := by have := stepNs_nonneg s.stg; omega
  unfold correct
  exact (if_neg fun hin => absurd hin.2 (by unfold Stage.stepNs at h; omega)).trans ((if_neg hpos).trans (if_pos hl))

theorem correct_withheld (h : s.stg.stepNs < o) (hl : s.stg.backLimitNs < o) : correct o s = (o, setRefused 1#1 (slewBy 0 s)) := by
  have hpos : ¬ o < 0 := by have := stepNs_nonneg s.stg; omega
  unfold correct
  exact (if_neg fun hin => absurd hin.2 (by unfold Stage.stepNs at h; omega)).trans
    ((if_neg hpos).trans (if_neg (by unfold Stage.backLimitNs at hl; omega)))

end

-- the servo reports (R22 to R27, R560)

/-- The time unit once a locked servo has reported a bound and what remains of its offset, which OFFSET_NS takes as o. -/
def Stage.takeLock (e : Nat) (rest : Int) (o : BitVec 32) (g : Stage) : Stage :=
  let st := timeStateOf true g.leftUnset g.time.stepRefused (boundUnits e)
  { g with
    locked := true, servo := some (e, rest), leftUnset := g.leftUnset || st != timeUnset
    time := if st = timeUnset then g.time else { g.time with state := st, errBound := boundUnits e, offsetNs := o } }

/-- OFFSET_NS takes an offset that fits it. -/
def OffsetHeld (rest : Int) (o : BitVec 32) : Prop := -(2 ^ 31) ≤ rest → rest < 2 ^ 31 → o = BitVec.ofInt 32 rest

theorem offsetField_held (rest : Int) (s : State) : OffsetHeld rest (offsetField rest s).1 := by
  intro hlo hhi
  unfold offsetField
  rw [if_pos ⟨hlo, hhi⟩]

theorem offsetField_stg (rest : Int) (s : State) : (offsetField rest s).2.stg = s.stg := by
  unfold offsetField
  split <;> rfl

/-- What a locked servo's report makes of the time unit, by the correction that its offset calls for. -/
theorem servoLocked_stg {e : Nat} {off rest : Int} {s s1 : State}
    (h : (if s.stg.time.state == timeUnset then (0, correctBy off s) else correct off s) = (rest, s1)) :
    ∃ o, OffsetHeld rest o ∧ (servoLocked e off s).stg = s1.stg.takeLock e rest o := by
  unfold servoLocked Stage.takeLock
  simp only [h]
  split
  next hst =>
    have hst := beq_iff_eq.1 hst
    exact ⟨BitVec.ofInt 32 rest, fun _ _ => rfl, by rw [if_pos hst]; rfl⟩
  next hst =>
    have hst := fun hu => hst (beq_iff_eq.2 hu)
    simp only [modStg_stg, offsetField_stg, if_neg hst]
    exact ⟨_, offsetField_held rest _, rfl⟩

section
variable {e : Nat} {rest : Int} {o : BitVec 32} {g : Stage}

/-- Within 500 ns, and with no offset withheld, the unit is LOCKED and has left UNSET. -/
theorem takeLock_good (he : e ≤ 500) (hr : g.time.stepRefused = 0#1) :
    (g.takeLock e rest o).time = { g.time with state := timeLocked, errBound := boundUnits e, offsetNs := o } ∧
    (g.takeLock e rest o).leftUnset = true := by
  have hst : timeStateOf true g.leftUnset g.time.stepRefused (boundUnits e) = timeLocked := by
    rw [hr]; exact timeStateOf_good (boundUnits_le.2 he)
  unfold Stage.takeLock
  rw [hst]
  have hne : timeLocked ≠ timeUnset := by decide
  simp [hne]

/-- While an offset is withheld the unit that has left UNSET is not LOCKED. -/
theorem takeLock_refused (hl : g.leftUnset = true) (hr : g.time.stepRefused = 1#1) :
    (g.takeLock e rest o).time.stepRefused = 1#1 ∧ (g.takeLock e rest o).time.state ≠ timeLocked := by
  have hst : timeStateOf true g.leftUnset g.time.stepRefused (boundUnits e) ≠ timeUnset ∧
      timeStateOf true g.leftUnset g.time.stepRefused (boundUnits e) ≠ timeLocked := by
    rw [hl, hr, timeStateOf_withheld]
    split <;> decide
  obtain ⟨hset, hnot⟩ := hst
  unfold Stage.takeLock
  simp only [if_neg hset]
  exact ⟨hr, hnot⟩

/-- A unit that is UNSET stays so while the bound is above 500 ns. -/
theorem takeLock_never (hl : g.leftUnset = false) (he : 500 < e) : (g.takeLock e rest o).time = g.time := by
  unfold Stage.takeLock
  rw [hl]
  exact if_pos (timeStateOf_never _ (by rw [boundUnits_le]; omega))

end

/-- Nothing outside the Bell and time unit has changed (the count of free values drawn apart). -/
def OnlyTime (s t : State) : Prop := { t with stg := s.stg, freeCtr := s.freeCtr } = s

theorem onlyTime_refl (s : State) : OnlyTime s s := rfl

section
variable {s t : State} (h : OnlyTime s t)
include h

theorem OnlyTime.modStg (f : Stage → Stage) : OnlyTime s (modStg f t) := h

theorem OnlyTime.offsetField (o : Int) : OnlyTime s (offsetField o t).2 := by
  unfold Machine.offsetField
  split <;> exact h

theorem OnlyTime.mem : t.mem = s.mem := (congrArg State.mem h :)
theorem OnlyTime.net : t.net = s.net := (congrArg State.net h :)

end

theorem onlyTime_correct (o : Int) (s : State) : OnlyTime s (correct o s).2 := by
  unfold correct slewBy correctBy
  dsimp only
  split
  · exact (onlyTime_refl s).modStg _ |>.modStg _
  · split
    · exact (onlyTime_refl s).modStg _ |>.modStg _ |>.modStg _
    · split
      · exact (onlyTime_refl s).modStg _ |>.modStg _ |>.modStg _ |>.modStg _
      · exact (onlyTime_refl s).modStg _ |>.modStg _

theorem onlyTime_servoLocked (e : Nat) (off : Int) (s : State) : OnlyTime s (servoLocked e off s) := by
  have hcor : OnlyTime s (if s.stg.time.state == timeUnset then (0, correctBy off s) else correct off s).2 := by
    split
    · exact (onlyTime_refl s).modStg _
    · exact onlyTime_correct off s
  generalize hp : (if s.stg.time.state == timeUnset then (0, correctBy off s) else correct off s) = p at hcor
  obtain ⟨rest, s1⟩ := p
  unfold servoLocked
  simp only [hp]
  split
  · exact hcor.modStg _
  · exact ((hcor.modStg _).offsetField _).modStg _

theorem onlyTime_lockLost (s : State) : OnlyTime s (lockLost s) := (onlyTime_refl s).modStg _

theorem onlyTime_servoTakes (u : PtpUpdate) (s : State) : OnlyTime s (servoTakes u s) := by
  unfold servoTakes
  split
  · exact onlyTime_servoLocked ..
  · split
    · exact onlyTime_lockLost s
    · exact onlyTime_refl s

-- the messages (R378, R414, R415)

section
variable {u : PtpUpdate} {s : State}

theorem exec_ptpMessage_down (h : portUp s u.port = false) : exec (.ptpMessage u) s = .next s := by
  refine congrArg Host.Outcome.next ?_
  simp [doPtpMessage, h]

theorem exec_ptpMessage_unfit (hr : timeRuns s = true) (hp : portUp s u.port = true) (h : ¬ PtpFits u s) :
    exec (.ptpMessage u) s = .next (dropFrame u.port s) := by
  have hno : (!ptpPort s u.port || u.domain != s.net.ptp.domain || u.transport != s.net.ptp.transport) = true := by
    by_contra hc
    refine h ?_
    simpa [PtpFits, and_assoc] using hc
  refine congrArg Host.Outcome.next ?_
  simp [doPtpMessage, hr, hp, hno]

theorem exec_ptpMessage_fits (hr : timeRuns s = true) (h : PtpFits u s) : exec (.ptpMessage u) s = .next (takePtp u s) := by
  obtain ⟨hport, hdom, htr⟩ := h
  have hp : portUp s u.port = true := (Bool.and_eq_true_iff.1 hport).1
  refine congrArg Host.Outcome.next ?_
  simp [doPtpMessage, hr, hp, hport, hdom, htr]

end

/-- R414: A Sync that its Follow_Up completes is noted on the port that the unit follows. -/
theorem exec_ptpMessage_twoStep {u : PtpUpdate} {s : State} (hr : timeRuns s = true) (h : PtpFits u s) (hact : activePort s = some u.port)
    (hk : u.kind = .sync true) : exec (.ptpMessage u) s = .next (modPort u.port (fun p => { p with sync := true }) s) := by
  rw [exec_ptpMessage_fits hr h]
  unfold takePtp
  simp only [hk, hact, ne_eq, not_true_eq_false, if_false, if_true]

/-- What a message that drives the servo does: the servo takes it from a state whose time unit is the present one's, and either the path delay is
noted or a Delay_Req leaves; memory stays (R414). -/
structure ServoDriven (u : PtpUpdate) (s t : State) : Prop where
  stg : ∃ s1, s1.stg = s.stg ∧ t.stg = (servoTakes u s1).stg
  mem : t.mem = s.mem
  mpd : u.kind = .delayResp → t.net.ptp.mpdNs = BitVec.ofNat 32 u.mpdNs
  req : u.kind ≠ .delayResp → ∃ f, FrameQueued u.port f s t ∧ f.msg = .delayReq u.port s.net.ptp.domain s.net.ptp.transport

theorem getPort_of_net {s t : State} (h : t.net = s.net) (n : Nat) : getPort t n = getPort s n := by unfold getPort; rw [h]

/-- A Delay_Req joins the transmit queue of its port. -/
theorem sendDelayReq_queued {n : Nat} {s t : State} (hnet : t.net.ptp = s.net.ptp) (htx : (getPort t n).txq = (getPort s n).txq) :
    ∃ f, FrameQueued n f s (sendDelayReq n t) ∧ f.msg = .delayReq n s.net.ptp.domain s.net.ptp.transport := by
  refine ⟨{ cls := 1, flow := .own, len := frameBytes true 52, msg := .delayReq n t.net.ptp.domain t.net.ptp.transport }, ?_, by rw [← hnet]⟩
  unfold FrameQueued sendDelayReq sendOwn queueFrame
  rw [getPort_modPort, if_pos rfl, htx]

theorem servoDriven_sync {u : PtpUpdate} {s s1 : State} (hs : s1.stg = s.stg) (hm : s1.mem = s.mem) (hn : s1.net.ptp = s.net.ptp)
    (htx : (getPort s1 u.port).txq = (getPort s u.port).txq) (hk : u.kind ≠ .delayResp) :
    ServoDriven u s (sendDelayReq u.port (servoTakes u s1)) where
  stg := ⟨s1, hs, rfl⟩
  mem := (onlyTime_servoTakes u s1).mem.trans hm
  mpd h := absurd h hk
  req _ := by
    have hnet := (onlyTime_servoTakes u s1).net
    exact sendDelayReq_queued (hnet ▸ hn) ((congrArg Port.txq (getPort_of_net hnet u.port)).trans htx)

theorem exec_ptpMessage_drives {u : PtpUpdate} {s : State} (hr : timeRuns s = true) (h : DrivesServo u s) :
    ∃ t, exec (.ptpMessage u) s = .next t ∧ ServoDriven u s t := by
  obtain ⟨hfit, hact, hk⟩ := h
  refine ⟨_, exec_ptpMessage_fits hr hfit, ?_⟩
  unfold takePtp
  rcases hk with hk | ⟨hk, hsync⟩ | hk
  · simp only [hk, hact, ne_eq, not_true_eq_false, if_false, Bool.false_eq_true]
    exact servoDriven_sync rfl rfl rfl rfl (by simp [hk])
  · simp only [hk, hact, hsync, ne_eq, not_true_eq_false, if_false, Bool.not_true, Bool.false_eq_true, or_self]
    refine servoDriven_sync rfl rfl rfl ?_ (by simp [hk])
    rw [getPort_modPort, if_pos rfl]
  · simp only [hk, hact, ne_eq, not_true_eq_false, if_false]
    refine ⟨⟨_, ?stg, rfl⟩, (onlyTime_servoTakes u _).mem, fun _ => ?mpd, fun hno => absurd hk hno⟩
    case stg => rfl
    case mpd => exact congrArg (fun n => n.ptp.mpdNs) (onlyTime_servoTakes u _).net

section
variable {u : PtpUpdate} {s t : State} (h : ServoDriven u s t)
include h

theorem ServoDriven.locks (hl : u.locked = true) :
    ∃ s1 o rest s2, s1.stg = s.stg ∧ OffsetHeld rest o ∧ t.stg = s2.stg.takeLock u.errNs rest o ∧
      (rest, s2) = if s1.stg.time.state == timeUnset then (0, correctBy u.offsetNs s1) else correct u.offsetNs s1 := by
  obtain ⟨s1, hs, ht⟩ := h.stg
  unfold servoTakes at ht
  rw [if_pos hl] at ht
  obtain ⟨o, ho, hstg⟩ := servoLocked_stg (e := u.errNs) (off := u.offsetNs) (s := s1) rfl
  exact ⟨s1, o, _, _, hs, ho, ht.trans hstg, rfl⟩

/-- A locked servo's report, once the unit has left UNSET, follows the correction of its offset. -/
theorem ServoDriven.corrects (hl : u.locked = true) (hset : s.stg.time.state ≠ timeUnset) :
    ∃ s1 o, s1.stg = s.stg ∧ OffsetHeld (correct u.offsetNs s1).1 o ∧
      t.stg = (correct u.offsetNs s1).2.stg.takeLock u.errNs (correct u.offsetNs s1).1 o := by
  obtain ⟨s1, o, rest, s2, hs, ho, ht, hc⟩ := h.locks hl
  have hc : (rest, s2) = correct u.offsetNs s1 := by rw [hc, hs, if_neg (by simpa using hset)]
  exact ⟨s1, o, hs, hc ▸ ho, hc ▸ ht⟩

/-- The first lock sets the estimate at once. -/
theorem ServoDriven.first_lock (hl : u.locked = true) (hset : s.stg.time.state = timeUnset) :
    ∃ o, t.stg = (correctBy u.offsetNs s).stg.takeLock u.errNs 0 o := by
  obtain ⟨s1, o, rest, s2, hs, -, ht, hc⟩ := h.locks hl
  rw [hs, hset] at hc
  obtain ⟨rfl, rfl⟩ := Prod.mk.inj hc
  exact ⟨o, by rw [ht]; unfold correctBy; rw [modStg_stg, modStg_stg, hs]⟩

theorem ServoDriven.loses (hl : u.locked = false) (hlk : s.stg.locked = true) : ∃ s1, s1.stg = s.stg ∧ t.stg = (lockLost s1).stg := by
  obtain ⟨s1, hs, ht⟩ := h.stg
  unfold servoTakes at ht
  rw [if_neg (by simp [hl]), if_pos (by rw [hs]; exact hlk)] at ht
  exact ⟨s1, hs, ht⟩

end

/-- R22, R27: Lock lost leaves HOLDOVER up to 2 us and FREERUN beyond, once UNSET has been left; a withheld offset stays withheld. -/
theorem lockLost_states {s t : State} (ht : t.stg = (lockLost s).stg) (hleft : s.stg.leftUnset = true) :
    t.stg.locked = false ∧ t.stg.time.stepRefused = s.stg.time.stepRefused ∧
    (s.stg.time.errBound.toNat ≤ 200 → t.stg.time.state = timeHoldover) ∧
    (200 < s.stg.time.errBound.toNat → t.stg.time.state = timeFreerun) := by
  have hst : (lockLost s).stg.time.state = timeStateOf false true s.stg.time.stepRefused s.stg.time.errBound := by rw [← hleft]; rfl
  rw [ht, hst]
  exact ⟨rfl, rfl, timeStateOf_unlocked _ _⟩

-- the masters (R415)

theorem bestPort_congr {s t : State} (hp : ∀ n, ptpPort t n = ptpPort s n) (hm : ∀ n, (getPort t n).master = (getPort s n).master) :
    bestPort t = bestPort s := by
  unfold bestPort
  simp only [hp, hm]

theorem getPort_modNet {f : Net → Net} {s : State} (h : (f s.net).ports = s.net.ports) (n : Nat) : getPort (modNet f s) n = getPort s n := by
  unfold getPort; rw [modNet_net, h]

/-- A change of a port that leaves its link state leaves the ports that run PTP. -/
theorem ptpPort_modPort {n : Nat} {f : Port → Port} {s : State} (hf : (f (getPort s n)).up = (getPort s n).up) (m : Nat) :
    ptpPort (modPort n f s) m = ptpPort s m := by
  have hup : (getPort (modPort n f s) m).up = (getPort s m).up := by
    rw [getPort_modPort]
    split
    next h => rw [h, hf]
    next => rfl
  unfold ptpPort portUp
  rw [hup]
  rfl

/-- A run that keeps what it has or takes what it meets ends with something that it met. -/
theorem mem_of_foldl_some {α : Type} {f : Option α → α → Option α} (hf : ∀ b x, f b x = some x ∨ f b x = b) {xs : List α}
    {b : Option α} {y : α} (h : xs.foldl f b = some y) : y ∈ xs ∨ b = some y := by
  induction xs generalizing b with
  | nil => exact .inr h
  | cons x xs ih =>
    rcases ih h with hy | hb
    · exact .inl (List.mem_cons_of_mem _ hy)
    · rcases hf b x with hx | hx
      · rw [hx, Option.some.injEq] at hb
        exact .inl (hb ▸ List.mem_cons_self)
      · exact .inr (hx ▸ hb)

/-- The better of the best port so far and the next one, with the ranks of their masters. -/
def takeBetter (b : Option (Nat × List Nat)) (p : Nat × List Nat) : Option (Nat × List Nat) :=
  match b with
  | none => some p
  | some q => if rankBefore p.2 q.2 then some p else some q

theorem takeBetter_cases (b : Option (Nat × List Nat)) (p : Nat × List Nat) : takeBetter b p = some p ∨ takeBetter b p = b := by
  cases b with
  | none => exact .inl rfl
  | some q =>
    dsimp only [takeBetter]
    split
    · exact .inl rfl
    · exact .inr rfl

/-- The best port is one of the eight and has a master. -/
theorem bestPort_some {s : State} {n : Nat} (h : bestPort s = some n) : n < 8 ∧ (getPort s n).master ≠ none := by
  obtain ⟨⟨m, rank⟩, hm, rfl⟩ := Option.map_eq_some_iff.1 h
  rcases mem_of_foldl_some takeBetter_cases hm with hmem | hnone
  · obtain ⟨k, hk, hp⟩ := List.mem_filterMap.1 hmem
    split at hp
    · obtain ⟨w, hw, he⟩ := Option.map_eq_some_iff.1 hp
      obtain ⟨rfl, -⟩ := Prod.mk.inj he
      exact ⟨List.mem_range.1 hk, by simp [hw]⟩
    · cases hp
  · cases hnone

/-- Another port is followed: it waits for no Follow_Up. -/
def follow (n : Nat) (s : State) : State :=
  modPort n (fun p => { p with sync := false }) (modNet (fun e => { e with ptp := { e.ptp with active := BitVec.ofNat 3 n, activeValid := 1#1 } }) s)

/-- No port is followed. -/
def followNone (s : State) : State := modNet (fun e => { e with ptp := { e.ptp with activeValid := 0#1 } }) s

theorem followBest_some {s : State} {n : Nat} (h : bestPort s = some n) : followBest s = if activePort s = some n then s else follow n s := by
  unfold followBest; rw [h]; rfl

theorem followBest_none {s : State} (h : bestPort s = none) :
    followBest s = if activePort s = none then s else if s.stg.locked then lockLost (followNone s) else followNone s := by
  unfold followBest; rw [h]; rfl

theorem follow_master (n m : Nat) (s : State) : (getPort (follow n s) m).master = (getPort s m).master := by
  unfold follow
  rw [getPort_modPort, getPort_modNet rfl]
  split
  next h => rw [h]
  next => exact congrArg Port.master (getPort_modNet (by rfl) m)

theorem follow_ptpPort (n m : Nat) (s : State) : ptpPort (follow n s) m = ptpPort s m :=
  (ptpPort_modPort rfl m).trans rfl

theorem followBest_masters (s : State) (n : Nat) :
    (getPort (followBest s) n).master = (getPort s n).master ∧ ptpPort (followBest s) n = ptpPort s n := by
  cases hb : bestPort s with
  | some m =>
    rw [followBest_some hb]
    split
    · exact ⟨rfl, rfl⟩
    · exact ⟨follow_master m n s, follow_ptpPort m n s⟩
  | none =>
    rw [followBest_none hb]
    split
    · exact ⟨rfl, rfl⟩
    · split <;> exact ⟨rfl, rfl⟩

theorem followBest_bestPort (s : State) : bestPort (followBest s) = bestPort s :=
  bestPort_congr (fun n => (followBest_masters s n).2) (fun n => (followBest_masters s n).1)

/-- R415: The unit then follows the best port. -/
theorem followBest_activePort (s : State) : activePort (followBest s) = bestPort (followBest s) := by
  rw [followBest_bestPort]
  cases hb : bestPort s with
  | some m =>
    rw [followBest_some hb]
    split
    next h => exact h
    next =>
      have hm : (BitVec.ofNat 3 m).toNat = m := by rw [BitVec.toNat_ofNat, Nat.mod_eq_of_lt (bestPort_some hb).1]
      exact (if_pos rfl).trans (congrArg some hm)
  | none =>
    rw [followBest_none hb]
    split
    next h => exact h
    next => split <;> rfl

/-- R415: Where no port is left, lock is lost. -/
theorem followBest_loses {s : State} (hb : bestPort s = none) (ha : activePort s ≠ none) (hl : s.stg.locked = true) :
    (followBest s).stg = (lockLost s).stg := by
  rw [followBest_none hb, if_neg ha, if_pos hl]
  rfl

/-- The masters once one port's is another one and the unit has chosen again. -/
theorem followBest_modPort_master {n k : Nat} {f : Port → Port} {m : Option PtpMaster} {s : State} (hf : ∀ p, (f p).master = m) :
    (getPort (followBest (modPort n f s)) k).master = if k = n then m else (getPort s k).master := by
  rw [(followBest_masters _ k).1, getPort_modPort]
  split
  · exact hf _
  · rfl

-- the clauses on a message that drives a locked servo

section
variable {u : PtpUpdate} {s t : State} (h : ServoDriven u s t) (hl : u.locked = true)
include h hl

/-- R25: An offset up to STEP_MS is to be slewed away; with a bound up to 500 ns the unit is LOCKED. -/
theorem ServoDriven.slews (hset : s.stg.time.state ≠ timeUnset) (hlo : -s.stg.stepNs ≤ u.offsetNs) (hhi : u.offsetNs ≤ s.stg.stepNs)
    (he : u.errNs ≤ 500) :
    t.stg.time.state = timeLocked ∧ t.stg.locked = true ∧ t.stg.ptpNow = s.stg.ptpNow ∧ t.stg.slew = u.offsetNs ∧
    t.stg.time.errBound = BitVec.ofNat 16 ((u.errNs + 9) / 10) ∧ OffsetHeld u.offsetNs t.stg.time.offsetNs := by
  obtain ⟨s1, o, hs, ho, ht⟩ := h.corrects hl hset
  rw [← hs] at hlo hhi ⊢
  rw [correct_slew hlo hhi] at ho ht
  have htime := (takeLock_good (rest := u.offsetNs) (o := o) (g := (setRefused 0#1 (slewBy u.offsetNs s1)).stg) he rfl).1
  have hbound : boundUnits u.errNs = BitVec.ofNat 16 ((u.errNs + 9) / 10) := by
    unfold boundUnits; rw [Nat.min_eq_left (by omega)]
  rw [ht, htime]
  exact ⟨rfl, rfl, rfl, rfl, hbound, ho⟩

/-- R25: A larger forward offset steps the clock. -/
theorem ServoDriven.steps (hset : s.stg.time.state ≠ timeUnset) (hf : u.offsetNs < -s.stg.stepNs) :
    t.stg.slew = 0 ∧ t.stg.ptpNow = ((s.stg.ptpNow : Int) - u.offsetNs).toNat ∧ t.stg.suspended = s.stg.suspended := by
  obtain ⟨s1, o, hs, -, ht⟩ := h.corrects hl hset
  rw [← hs] at hf ⊢
  rw [ht, correct_forward hf]
  exact ⟨rfl, rfl, rfl⟩

/-- R26: A larger backward offset up to the limit suspends Bells. -/
theorem ServoDriven.suspends (hset : s.stg.time.state ≠ timeUnset) (hb : s.stg.stepNs < u.offsetNs) (hlim : u.offsetNs ≤ s.stg.backLimitNs) :
    t.stg.suspended = true ∧ t.stg.ptpNow = ((s.stg.ptpNow : Int) - u.offsetNs).toNat := by
  obtain ⟨s1, o, hs, -, ht⟩ := h.corrects hl hset
  rw [← hs] at hb hlim ⊢
  rw [ht, correct_backward hb hlim]
  exact ⟨rfl, rfl⟩

/-- R27: One beyond the limit is withheld, and the unit is not LOCKED. -/
theorem ServoDriven.withholds (hset : s.stg.time.state ≠ timeUnset) (hleft : s.stg.leftUnset = true) (hb : s.stg.stepNs < u.offsetNs)
    (hlim : s.stg.backLimitNs < u.offsetNs) :
    t.stg.time.stepRefused = 1#1 ∧ t.stg.ptpNow = s.stg.ptpNow ∧ t.stg.time.state ≠ timeLocked := by
  obtain ⟨s1, o, hs, -, ht⟩ := h.corrects hl hset
  rw [← hs] at hb hlim hleft ⊢
  rw [ht, correct_withheld hb hlim]
  obtain ⟨href, hst⟩ := takeLock_refused (e := u.errNs) (rest := u.offsetNs) (o := o) (g := (setRefused 1#1 (slewBy 0 s1)).stg) hleft rfl
  exact ⟨href, rfl, hst⟩

end

-- the timeouts and the pulses (R23, R415, R416, R531, R560)

/-- The unit leaves UNSET for FREERUN. -/
def leaveUnset (bound : BitVec 16) (off : BitVec 32) (s : State) : State :=
  modStg (fun g => { g with leftUnset := true, time := { g.time with state := timeFreerun, errBound := bound, offsetNs := off } }) s

theorem exec_freerunTimeout_set {s : State} (hst : s.stg.time.state ≠ timeUnset) : exec .freerunTimeout s = .next s := by
  refine congrArg Host.Outcome.next ?_
  unfold doFreerunTimeout
  simp [hst]

section
variable {s : State} (hr : timeRuns s = true)
include hr

theorem exec_freerunTimeout_free (hst : s.stg.time.state = timeUnset) (hv : s.stg.servo = none) :
    exec .freerunTimeout s = .next (leaveUnset 0xFFFF#16 0#32 (modStg (fun g => { g with ptpNow := 0 }) s)) := by
  refine congrArg Host.Outcome.next ?_
  unfold doFreerunTimeout
  simp only [hr, hst, hv, Bool.not_true, bne_self_eq_false, Bool.or_self, Bool.false_eq_true, if_false]
  rfl

theorem exec_freerunTimeout_servo {e : Nat} {o : Int} (hst : s.stg.time.state = timeUnset) (hv : s.stg.servo = some (e, o)) :
    exec .freerunTimeout s = .next (leaveUnset (boundUnits e) (offsetField o s).1 (offsetField o s).2) := by
  refine congrArg Host.Outcome.next ?_
  unfold doFreerunTimeout
  simp only [hr, hst, hv, Bool.not_true, bne_self_eq_false, Bool.or_self, Bool.false_eq_true, if_false]
  rfl

theorem exec_announceTimeout {n : Nat} (hn : n < 8) :
    exec (.announceTimeout n) s = .next (followBest (modPort n (fun p => { p with master := none, sync := false }) s)) := by
  refine congrArg Host.Outcome.next ?_
  unfold doAnnounceTimeout
  simp [hr, hn]

/-- R22, R560: In HOLDOVER the bound grows, and beyond 2 us the unit is in FREERUN. -/
theorem exec_errBoundExceeded {b : BitVec 16} (hl : s.stg.locked = false) (hst : s.stg.time.state = timeHoldover)
    (hb : s.stg.time.errBound.toNat ≤ b.toNat) :
    exec (.errBoundExceeded b) s =
      .next (modStg (fun g => { g with time := { g.time with errBound := b, state := timeStateOf false true 0#1 b } }) s) := by
  have hu : (if s.stg.time.errBound.toNat < b.toNat then b else s.stg.time.errBound) = b := by
    split
    · rfl
    · exact BitVec.eq_of_toNat_eq (by omega)
  refine congrArg Host.Outcome.next ?_
  unfold doErrBound
  simp only [hu]
  simp [hr, hl, hst, modStg, show timeHoldover ≠ timeFreerun by decide]

/-- A good edge counts, up to three, and the third sets PPS_OK. -/
def goodEdge (o : Int) (s : State) : State :=
  modStg (fun g => { g with
    ppsGood := min 3 (g.ppsGood + 1), ppsNext := (((((g.ptpNow : Int) - o).toNat + ptpSec / 2) / ptpSec) + 1) * ptpSec
    time := { g.time with ppsOk := if 3 ≤ min 3 (g.ppsGood + 1) then 1#1 else g.time.ppsOk } }) s

theorem exec_ppsEdge_good {o : Int} (ho : o.natAbs ≤ 1000) :
    exec (.ppsEdge o) s = .next (
      if s.stg.time.state = timeHoldover ∧ (goodEdge o s).stg.time.ppsOk = 1#1 then slewBy o (goodEdge o s) else goodEdge o s) := by
  refine congrArg Host.Outcome.next ?_
  unfold doPpsEdge
  rw [if_neg (by simp [hr]), if_pos ho]
  simp only [Bool.and_eq_true, beq_iff_eq]
  rfl

theorem exec_ppsEdge_bad {o : Int} (ho : 1000 < o.natAbs) : exec (.ppsEdge o) s = .next (ppsBad s) := by
  refine congrArg Host.Outcome.next ?_
  unfold doPpsEdge
  rw [if_neg (by simp [hr]), if_neg (Nat.not_le.2 ho)]

theorem exec_ppsFallingEdge_bad {h : Nat} (hh : h < 100 ∨ 500000000 < h) : exec (.ppsFallingEdge h) s = .next (ppsBad s) := by
  refine congrArg Host.Outcome.next (if_pos ?_)
  simpa [hr] using hh

end

theorem exec_ppsFallingEdge_good {s : State} {h : Nat} (hlo : 100 ≤ h) (hhi : h ≤ 500000000) : exec (.ppsFallingEdge h) s = .next s := by
  refine congrArg Host.Outcome.next (if_neg ?_)
  simp [Nat.not_lt.2 hlo, Nat.not_lt.2 hhi]

/-- Settles O50: each row's equation in each of its cases, with the corrections of an offset stated for the servo once. -/
theorem timeUnit : Obligations.TimeUnit := by
  unfold Obligations.TimeUnit
  intro s hr
  refine ⟨fun u => ⟨exec_ptpMessage_down, ?unfit, ?announce, ?sync, ?idle, ?lock, ?lost⟩, ?free, ?held,
    exec_freerunTimeout_set, ?timeout, ?bound, ?edge, ?fall⟩
  case unfit =>
    intro hp hfit
    exact ⟨_, exec_ptpMessage_unfit hr hp hfit, rfl, by unfold dropFrame; rw [getPort_modPort, if_pos rfl]⟩
  case announce =>
    intro m hfit hk
    refine ⟨_, (exec_ptpMessage_fits hr hfit).trans (by unfold takePtp; rw [hk]), ?_, followBest_activePort _, fun n hn => ?_⟩
    · exact (followBest_modPort_master fun _ => rfl).trans (if_pos rfl)
    · exact (followBest_modPort_master fun _ => rfl).trans (if_neg hn)
  case sync =>
    intro hfit hact hk
    exact ⟨_, exec_ptpMessage_twoStep hr hfit hact hk, rfl, by rw [getPort_modPort, if_pos rfl]⟩
  case idle =>
    intro hfit hk
    refine (exec_ptpMessage_fits hr hfit).trans ?_
    unfold takePtp
    rcases hk with hk | hk <;> rw [hk]
  case lock =>
    intro hdrive hl
    obtain ⟨t, ht, h⟩ := exec_ptpMessage_drives hr hdrive
    refine ⟨?_, fun hset hf => ⟨t, ht, h.steps hl hset hf⟩, fun hset hleft hb hlim => ⟨t, ht, h.withholds hl hset hleft hb hlim⟩,
      fun hset hb hlim => ⟨t, ht, h.suspends hl hset hb hlim⟩, fun hset hleft href => ?_⟩
    · rintro st rfl hset hlo hhi he
      obtain ⟨hst, hlk, hnow, hslew, hbound, hoff⟩ := h.slews hl hset (by exact_mod_cast hlo) (by exact_mod_cast hhi) he
      exact ⟨t, ht, hst, hlk, hnow, hslew, hbound, hoff, h.mpd, h.req, h.mem⟩
    · obtain ⟨o, hfirst⟩ := h.first_lock hl hset
      refine ⟨fun he => ⟨t, ht, ?_⟩, fun he => ⟨t, ht, ?_⟩⟩
      · obtain ⟨htime, hset⟩ := takeLock_good (rest := 0) (o := o) (g := (correctBy u.offsetNs s).stg) he href
        rw [hfirst, htime]
        exact ⟨rfl, hset, rfl⟩
      · rw [hfirst, takeLock_never (g := (correctBy u.offsetNs s).stg) hleft he]
        exact hset
  case lost =>
    intro hdrive hl hlk hleft
    obtain ⟨t, ht, h⟩ := exec_ptpMessage_drives hr hdrive
    obtain ⟨s1, hs, hlost⟩ := h.loses hl hlk
    exact ⟨t, ht, hs ▸ lockLost_states hlost (hs ▸ hleft)⟩
  case free =>
    intro hst hv
    exact ⟨_, exec_freerunTimeout_free hr hst hv, rfl, rfl, rfl, rfl, rfl⟩
  case held =>
    intro e o hst hv
    exact ⟨_, exec_freerunTimeout_servo hr hst hv, rfl, rfl, (congrArg Stage.ptpNow (offsetField_stg o s) :), rfl⟩
  case timeout =>
    intro n hn
    refine ⟨_, exec_announceTimeout hr hn, (followBest_modPort_master fun _ => rfl).trans (if_pos rfl), followBest_activePort _, fun hb => ?_,
      fun m hm => (followBest_modPort_master fun _ => rfl).trans (if_neg hm), fun hb ha hl hleft => ?_⟩
    · exact (bestPort_some hb).2 ((followBest_modPort_master fun _ => rfl).trans (if_pos rfl))
    · rw [followBest_bestPort] at hb
      obtain ⟨hlk, -, hstates⟩ := lockLost_states (followBest_loses hb ha hl) hleft
      exact ⟨hlk, hstates⟩
  case bound =>
    intro b hl hst hb
    obtain ⟨hhold, hfree⟩ := timeStateOf_unlocked 0#1 b
    exact ⟨_, exec_errBoundExceeded hr hl hst hb, rfl, hhold, hfree, rfl, rfl⟩
  case edge =>
    refine fun o => ⟨fun ho => ⟨_, exec_ppsEdge_good hr ho, ?_⟩, fun ho => ⟨_, exec_ppsEdge_bad hr ho, rfl, rfl, rfl⟩⟩
    have hok : 2 ≤ s.stg.ppsGood → (goodEdge o s).stg.time.ppsOk = 1#1 := fun h => if_pos (by omega)
    split
    next h => exact ⟨rfl, hok, fun _ _ => rfl, fun hno => absurd h.1 hno, rfl⟩
    next h => exact ⟨rfl, hok, fun hst h2 => absurd ⟨hst, hok h2⟩ h, fun _ => rfl, rfl⟩
  case fall => exact fun h => ⟨fun hh => ⟨_, exec_ppsFallingEdge_bad hr hh, rfl, rfl⟩, exec_ppsFallingEdge_good⟩

end Sys2Proof.Machine
end

section
/-! PROOFS. What a Bell's work leaves standing: the frame lemmas of every operation on the state that a Bell takes, in the order of the
model's files. They say that the operation leaves the Bell and time unit (but for its counts), the ledger's records and the next sequence
number as they are (R17, R273). -/

namespace Sys2Proof.Machine

/-- The Bell and time unit but for what a Bell counts there. -/
def Stage.still (g : Stage) : Stage := { g with events := {}, itinLate := 0 }

/-- What stands while a Bell does its work on the legs, the caches and the commands: the Bell and time unit but for its counts, the records
of the ledger and the next sequence number. -/
def still (s : State) : Stage × List LedgerRec × Nat := (s.stg.still, s.ldg.records, s.ldg.next)

theorem still_of {s t : State} (hg : t.stg = s.stg) (hl : t.ldg = s.ldg) : still t = still s := by
  unfold still
  rw [hg, hl]

theorem still_parts {s : State} {g : Stage} {rs : List LedgerRec} {n : Nat} (h : still s = (g.still, rs, n)) :
    s.stg.still = g.still ∧ s.ldg.records = rs ∧ s.ldg.next = n := by
  unfold still at h
  simpa only [Prod.mk.injEq] using h

-- updates of the state, branches and loops

/-- The equation of the constructor, for operations that write several units of the state at once. -/
@[simp] theorem still_mk (variant : Variant) (stg : Stage) (ldg : Ledger) (errs : List ErrRec) (errSeq : Nat) (innk : Innkeeper)
    (itins : Tab (Option Itin)) (regions : List Region) (clusters : Tab Cluster) (homes : Tab Home) (ctls : Tab Ctl) (mem : List Host.Cell)
    (chkXor : Tab (BitVec 32)) (porters : Tab Porter) (ptrCfg ptrCfgEff : PtrCfgReg) (px : Tab PxDie) (net : Net) (pwr : Power) (mdl : Module)
    (sec : Security) (sb : Sideband) (freeCtr : Nat) (pending : List Instr) :
    still (State.mk variant stg ldg errs errSeq innk itins regions clusters homes ctls mem chkXor porters ptrCfg ptrCfgEff px net pwr mdl sec
      sb freeCtr pending) = (stg.still, ldg.records, ldg.next) := by rw [still]

@[simp] theorem still_fold (s : State) : (s.stg.still, s.ldg.records, s.ldg.next) = still s := by rw [still]

@[simp] theorem still_modLdg (f : Ledger → Ledger) (s : State) : still (modLdg f s) = (s.stg.still, (f s.ldg).records, (f s.ldg).next) := by
  rw [still]
  rfl

@[simp] theorem still_modStg (f : Stage → Stage) (s : State) : still (modStg f s) = ((f s.stg).still, s.ldg.records, s.ldg.next) := by
  rw [still]
  rfl

theorem still_modStg_of {f : Stage → Stage} {s : State} (h : ∀ g, (f g).still = g.still) : still (modStg f s) = still s := by
  rw [still_modStg, h, still_fold]

@[simp] theorem still_ite (c : Prop) [Decidable c] (a b : State) : still (if c then a else b) = if c then still a else still b := apply_ite ..

@[simp] theorem still_ite_snd {α : Type} (c : Prop) [Decidable c] (a b : α × State) :
    still (if c then a else b).2 = if c then still a.2 else still b.2 := apply_ite (fun x : α × State => still x.2) ..

@[simp] theorem still_ite_thd {α β : Type} (c : Prop) [Decidable c] (a b : α × β × State) :
    still (if c then a else b).2.2 = if c then still a.2.2 else still b.2.2 := apply_ite (fun x : α × β × State => still x.2.2) ..

@[simp] theorem still_forEach {α : Type} {f : α → State → State} (xs : List α) (s : State) (h : ∀ x t, still (f x t) = still t) :
    still (forEach xs f s) = still s :=
  forEach_keeps still h xs s

@[simp] theorem still_foldl_snd {α β : Type} {f : β × State → α → β × State} (xs : List α) (p : β × State)
    (h : ∀ q x, still (f q x).2 = still q.2) : still (xs.foldl f p).2 = still p.2 := by
  induction xs generalizing p with
  | nil => rfl
  | cons x xs ih => rw [List.foldl_cons, ih, h]

@[simp] theorem still_forLegs {α : Type} {f : α → State → List LegRec × State} (xs : List α) (s : State)
    (h : ∀ x t, still (f x t).2 = still t) : still (forLegs xs f s).2 = still s :=
  still_foldl_snd xs ([], s) fun q x => h x q.2

-- Ops

@[simp] theorem still_draw (w : Nat) (s : State) : still (draw w s).2 = still s := still_of rfl rfl
@[simp] theorem still_modCluster (id : Nat) (f : Cluster → Cluster) (s : State) : still (modCluster id f s) = still s := still_of rfl rfl
@[simp] theorem still_modCore (cl co : Nat) (f : Core → Core) (s : State) : still (modCore cl co f s) = still s := still_of rfl rfl
@[simp] theorem still_modHome (n : Nat) (f : Home → Home) (s : State) : still (modHome n f s) = still s := still_of rfl rfl
@[simp] theorem still_modCtl (n : Nat) (f : Ctl → Ctl) (s : State) : still (modCtl n f s) = still s := still_of rfl rfl
@[simp] theorem still_modPorter (n : Nat) (f : Porter → Porter) (s : State) : still (modPorter n f s) = still s := still_of rfl rfl
@[simp] theorem still_modPx (n : Nat) (f : PxDie → PxDie) (s : State) : still (modPx n f s) = still s := still_of rfl rfl
@[simp] theorem still_setItin (n : Nat) (v : Option Itin) (s : State) : still (setItin n v s) = still s := still_of rfl rfl
@[simp] theorem still_modItin (n : Nat) (f : Itin → Itin) (s : State) : still (modItin n f s) = still s := still_of rfl rfl
@[simp] theorem still_modLeg (n : Nat) (f : Leg → Leg) (s : State) : still (modLeg n f s) = still s := still_of rfl rfl
@[simp] theorem still_setCmd (id : Nat) (v : Option Cmd) (s : State) : still (setCmd id v s) = still s := still_of rfl rfl
@[simp] theorem still_modCmd (id : Nat) (f : Cmd → Cmd) (s : State) : still (modCmd id f s) = still s := still_of rfl rfl
@[simp] theorem still_modInnk (f : Innkeeper → Innkeeper) (s : State) : still (modInnk f s) = still s := still_of rfl rfl
@[simp] theorem still_modNet (f : Net → Net) (s : State) : still (modNet f s) = still s := still_of rfl rfl
@[simp] theorem still_modSb (f : Sideband → Sideband) (s : State) : still (modSb f s) = still s := still_of rfl rfl
@[simp] theorem still_setMemByte (a : Nat) (b : Byte) (s : State) : still (setMemByte a b s) = still s := still_of rfl rfl
@[simp] theorem still_setMemSector (a : Nat) (d : BitVec 256) (s : State) : still (setMemSector a d s) = still s := by
  unfold setMemSector
  simp
@[simp] theorem still_setChk (a : Nat) (x : BitVec 32) (s : State) : still (setChk a x s) = still s := still_of rfl rfl
@[simp] theorem still_modRegion (base : Nat) (f : Region → Region) (s : State) : still (modRegion base f s) = still s := still_of rfl rfl
@[simp] theorem still_logErr (r : ErrRec) (s : State) : still (logErr r s) = still s := by unfold logErr; simp

-- Events

@[simp] theorem still_finishCmd (id : Nat) (st : BitVec 16) (res : Nat) (s : State) : still (finishCmd id st res s) = still s := by
  unfold finishCmd
  split <;> simp
@[simp] theorem still_abortJobCmds (job : Word) (res : Nat) (s : State) : still (abortJobCmds job res s) = still s := by
  unfold abortJobCmds
  exact still_forEach _ _ fun _ _ => by split <;> simp
@[simp] theorem still_syncEvents (s : State) : still (syncEvents s) = still s := by unfold syncEvents; simp

-- NetBase

@[simp] theorem still_modPort (n : Nat) (f : Port → Port) (s : State) : still (modPort n f s) = still s := still_of rfl rfl
@[simp] theorem still_setConn (id : Nat) (v : Option Conn) (s : State) : still (setConn id v s) = still s := still_of rfl rfl
@[simp] theorem still_modConn (id : Nat) (f : Conn → Conn) (s : State) : still (modConn id f s) = still s := still_of rfl rfl
@[simp] theorem still_modGuest (g : Nat) (f : Guest → Guest) (s : State) : still (modGuest g f s) = still s := still_of rfl rfl
@[simp] theorem still_queueFrame (n : Nat) (f : TxFrame) (s : State) : still (queueFrame n f s) = still s := by unfold queueFrame; simp
@[simp] theorem still_linePasses (ns n : Nat) (s : State) : still (linePasses ns n s) = still s := by unfold linePasses; simp
@[simp] theorem still_sendRelay (id cls : Nat) (p : Peer) (x : RelayTx) (s : State) : still (sendRelay id cls p x s) = still s := by
  unfold sendRelay
  simp
@[simp] theorem still_sendCtrlNow (id : Nat) (s : State) : still (sendCtrlNow id s) = still s := by
  unfold sendCtrlNow
  split
  · simp
  · split <;> simp
@[simp] theorem still_pumpCtrl (id : Nat) (s : State) : still (pumpCtrl id s) = still s := by
  unfold pumpCtrl
  split
  · simp
  · exact still_forEach _ _ fun _ _ => by simp
@[simp] theorem still_sendCtrl (dev : Word) (m : CtrlOut) (s : State) : still (sendCtrl dev m s) = still s := by
  unfold sendCtrl
  split <;> simp
@[simp] theorem still_clampWindows (s : State) : still (clampWindows s) = still s := by unfold clampWindows; simp
@[simp] theorem still_dropTx (mine : TxOwner → Bool) (s : State) : still (dropTx mine s) = still s := by unfold dropTx; simp

-- Faults

@[simp] theorem still_stopLegWork (k : Nat) (leg : Leg) (s : State) : still (stopLegWork k leg s) = still s := by unfold stopLegWork; simp
@[simp] theorem still_dropRecvs (k : Nat) (s : State) : still (dropRecvs k s) = still s := by unfold dropRecvs; simp
@[simp] theorem still_stopJob (k fclass : Nat) (fault : Option FaultInfo) (s : State) : still (stopJob k fclass fault s) = still s := by
  unfold stopJob
  dsimp only
  split
  · simp
  · split
    · simp
    · split
      · simp
      · split
        · split
          · split <;> simp
          · split <;> simp
        · split
          · split <;> simp
          · split <;> simp
@[simp] theorem still_takeOffline (c : Nat) (s : State) : still (takeOffline c s) = still s := by unfold takeOffline; simp
@[simp] theorem still_discardLeg (k : Nat) (fi : FaultInfo) (s : State) : still (discardLeg k fi s) = still s := by
  unfold discardLeg
  dsimp only
  split
  · simp
  · split
    · simp
    · split
      · simp
      · split
        · split <;> simp
        · simp
@[simp] theorem still_stageFault (ks : List Nat) (fi : FaultInfo) (s : State) : still (stageFault ks fi s) = still s := by
  unfold stageFault
  simp
@[simp] theorem still_abortRegionCmds (n : Nat) (s : State) : still (abortRegionCmds n s) = still s := by
  unfold abortRegionCmds
  refine still_forEach _ _ fun r _ => ?_
  split
  · split <;> simp
  · simp
@[simp] theorem still_dropHome (n : Nat) (s : State) : still (dropHome n s) = still s := by unfold dropHome; simp
@[simp] theorem still_fenceStack (n : Nat) (s : State) : still (fenceStack n s) = still s := by unfold fenceStack; simp
@[simp] theorem still_loseStackUnit (n : Nat) (s : State) : still (loseStackUnit n s) = still s := by unfold loseStackUnit; simp
@[simp] theorem still_loseHalfUnit (n : Nat) (s : State) : still (loseHalfUnit n s) = still s := by unfold loseHalfUnit; simp
@[simp] theorem still_loseLinkUnit (n : Nat) (s : State) : still (loseLinkUnit n s) = still s := by unfold loseLinkUnit; simp
@[simp] theorem still_losePx (d : Nat) (s : State) : still (losePx d s) = still s := by unfold losePx; simp
@[simp] theorem still_loseDieUnit (d : Nat) (s : State) : still (loseDieUnit d s) = still s := by unfold loseDieUnit; simp
@[simp] theorem still_loseUnreachable (s : State) : still (loseUnreachable s) = still s := by unfold loseUnreachable; simp
@[simp] theorem still_sendRollbacks (s : State) : still (sendRollbacks s) = still s := by
  unfold sendRollbacks
  refine still_forEach _ _ fun _ _ => ?_
  split
  · split <;> simp
  · rfl
@[simp] theorem still_cutIod (s : State) : still (cutIod s) = still s := by
  unfold cutIod
  split
  · simp only [still_modNet, still_modInnk, still_dropTx, still_mk, still_fold]
    exact still_forEach _ _ fun _ _ => by split <;> simp
  · rfl
@[simp] theorem still_selectForRestart (s : State) : still (selectForRestart s) = still s := by
  unfold selectForRestart
  exact still_forEach _ _ fun _ _ => by split <;> simp
@[simp] theorem still_stateLoss (lose : State → State) (addr : Word) (frec : Nat) (s : State)
    (h : ∀ t, still (lose t) = still t) :
    still (stateLoss lose addr frec s) = still s := by
  unfold stateLoss
  simp [h]
@[simp] theorem still_stackLoss (n source unit : Nat) (s : State) : still (stackLoss n source unit s) = still s := by unfold stackLoss; simp

-- MemCtl

@[simp] theorem still_retirePage (page : Nat) (s : State) : still (retirePage page s) = still s := by
  unfold retirePage
  dsimp only
  split
  · simp
  · split <;> simp
@[simp] theorem still_countPage (a : Nat) (s : State) : still (countPage a s) = still s := by unfold countPage; simp
@[simp] theorem still_countPin (a sym : Nat) (s : State) : still (countPin a sym s) = still s := by unfold countPin; simp
@[simp] theorem still_noteCorrected (a pos : Nat) (v : Byte) (syn : BitVec 32) (s : State) : still (noteCorrected a pos v syn s) = still s := by
  unfold noteCorrected
  simp
@[simp] theorem still_noteUncorrectable (a : Nat) (syn : BitVec 32) (s : State) : still (noteUncorrectable a syn s) = still s := by
  unfold noteUncorrectable
  simp
@[simp] theorem still_countRd (a : Nat) (s : State) : still (countRd a s) = still s := by unfold countRd; simp
@[simp] theorem still_countWr (a : Nat) (s : State) : still (countWr a s) = still s := by unfold countWr; simp
@[simp] theorem still_storeSector (a : Nat) (v : SectorVal) (s : State) : still (storeSector a v s) = still s := by unfold storeSector; simp
@[simp] theorem still_copyRead (c : Nat) (s : State) : still (copyRead c s).2.2 = still s := by
  unfold copyRead
  dsimp only
  split
  · simp
  · split <;> simp
@[simp] theorem still_stackRead (a : Nat) (s : State) : still (stackRead a s).2 = still s := by
  unfold stackRead
  dsimp only
  split
  · simp
  · simp
  · simp
  · split
    · simp
    · split <;> simp
@[simp] theorem still_drainSector (e : WcbEntry) (k : Nat) (s : State) : still (drainSector e k s) = still s := by unfold drainSector; simp
@[simp] theorem still_drainEntry (n : Nat) (e : WcbEntry) (s : State) : still (drainEntry n e s) = still s := by unfold drainEntry; simp
@[simp] theorem still_drainOldest (n : Nat) (s : State) : still (drainOldest n s) = still s := by unfold drainOldest; split <;> simp
@[simp] theorem still_drainDown (n : Nat) (s : State) : still (drainDown n s) = still s := by unfold drainDown; simp
@[simp] theorem still_ctlWrite (a : Nat) (en : BitVec 32) (v : SectorVal) (s : State) : still (ctlWrite a en v s) = still s := by
  unfold ctlWrite
  dsimp only
  split
  · split
    · split <;> simp
    · split <;> simp
  · split <;> simp
@[simp] theorem still_ctlRead (a : Nat) (s : State) : still (ctlRead a s).2 = still s := by unfold ctlRead; split <;> simp

-- Homes

@[simp] theorem still_writeSectors (l : Nat) (secs : List Sector) (pick : Nat → Sector → Bool) (s : State) :
    still (writeSectors l secs pick s) = still s := by
  unfold writeSectors
  split <;> simp
@[simp] theorem still_evbDrain (n : Nat) (s : State) : still (evbDrain n s) = still s := by unfold evbDrain; split <;> simp
@[simp] theorem still_evbDrainThrough (n l : Nat) (s : State) : still (evbDrainThrough n l s) = still s := by
  unfold evbDrainThrough
  simp
@[simp] theorem still_dropForeign (n l : Nat) (s : State) : still (dropForeign n l s) = still s := by unfold dropForeign; split <;> simp
@[simp] theorem still_pxDrop (die l : Nat) (s : State) : still (pxDrop die l s) = still s := by unfold pxDrop; simp
@[simp] theorem still_countSnoops (n k : Nat) (s : State) : still (countSnoops n k s) = still s := by unfold countSnoops; simp
@[simp] theorem still_takeDirty (n l : Nat) (secs : List Sector) (s : State) : still (takeDirty n l secs s) = still s := by
  unfold takeDirty
  simp
@[simp] theorem still_dirRoom (n l : Nat) (s : State) : still (dirRoom n l s) = still s := by
  unfold dirRoom
  dsimp only
  split
  · simp
  · split
    · simp
    · split <;> simp
@[simp] theorem still_offer (n l : Nat) (x : Line) (s : State) : still (offer n l x s) = still s := by
  unfold offer
  dsimp only
  split
  · simp
  · split
    · simp
    · split
      · simp
      · split <;> simp
@[simp] theorem still_evict (n l : Nat) (s : State) : still (evict n l s) = still s := by unfold evict; split <;> simp
@[simp] theorem still_allocLine (n l : Nat) (s : State) : still (allocLine n l s) = still s := by
  unfold allocLine
  dsimp only
  split
  · simp
  · split
    · simp
    · split <;> simp
@[simp] theorem still_touch (n l : Nat) (least : Bool) (s : State) : still (touch n l least s) = still s := by unfold touch; simp
@[simp] theorem still_putSector (n l k : Nat) (x : Sector) (s : State) : still (putSector n l k x s) = still s := by unfold putSector; simp
@[simp] theorem still_countMoved (r : Requester) (k : Nat) (s : State) : still (countMoved r k s) = still s := by unfold countMoved; simp
@[simp] theorem still_takeBack (n l : Nat) (s : State) : still (takeBack n l s) = still s := by unfold takeBack; split <;> simp
@[simp] theorem still_fillLine (r : Requester) (n l : Nat) (rg : Region) (mask : BitVec 4) (s : State) :
    still (fillLine r n l rg mask s) = still s := by
  unfold fillLine
  exact still_forEach _ _ fun _ _ => by split <;> simp
@[simp] theorem still_countHeavy (n l : Nat) (hit : Bool) (s : State) : still (countHeavy n l hit s) = still s := by unfold countHeavy; simp
@[simp] theorem still_countAccess (n l : Nat) (hit : Bool) (s : State) : still (countAccess n l hit s) = still s := by
  unfold countAccess
  simp
@[simp] theorem still_enterQueue (n l : Nat) (s : State) : still (enterQueue n l s) = still s := by unfold enterQueue; simp
@[simp] theorem still_sendSnoop (n l die : Nat) (kind : SnoopKind) (r : Requester) (store : Bool) (s : State) :
    still (sendSnoop n l die kind r store s) = still s := by
  unfold sendSnoop
  simp
@[simp] theorem still_readClear (n l : Nat) (r : Requester) (s : State) : still (readClear n l r s).2 = still s := by
  unfold readClear
  split <;> simp
@[simp] theorem still_countRad (n l : Nat) (s : State) : still (countRad n l s) = still s := by unfold countRad; simp
@[simp] theorem still_bypassRead (r : Requester) (n l : Nat) (rg : Region) (mask : BitVec 4) (s : State) :
    still (bypassRead r n l rg mask s).2 = still s := by
  unfold bypassRead
  simp
@[simp] theorem still_homeReadLine (r : Requester) (l : Nat) (mask : BitVec 4) (rg : Region) (s : State) :
    still (homeReadLine r l mask rg s).2 = still s := by
  have hs : still (if rg.bypass then draw 5 s else (0#5, s)).2 = still s := by simp
  unfold homeReadLine
  generalize (if rg.bypass then draw 5 s else (0#5, s)) = p at hs ⊢
  obtain ⟨occ, s1⟩ := p
  dsimp only at hs ⊢
  rw [← hs]
  split
  · split <;> simp
  · split
    · rfl
    · split
      · simp
      · split
        · split <;> simp
        · simp
        · split
          · simp
          · split <;> simp
@[simp] theorem still_memWrite (r : Requester) (rg : Region) (pa : Nat) (en : BitVec 32) (v : SectorVal) (s : State) :
    still (memWrite r rg pa en v s) = still s := by
  unfold memWrite
  simp
@[simp] theorem still_pinFetch (n l : Nat) (rg : Region) (s : State) : still (pinFetch n l rg s).2 = still s := by unfold pinFetch; simp
@[simp] theorem still_markPinned (n l : Nat) (s : State) : still (markPinned n l s) = still s := by unfold markPinned; simp
@[simp] theorem still_pinLine (cmd l : Nat) (s : State) : still (pinLine cmd l s) = still s := by
  unfold pinLine
  split
  · rfl
  · dsimp only
    split <;> simp
@[simp] theorem still_unpinLine (l : Nat) (s : State) : still (unpinLine l s) = still s := by
  unfold unpinLine
  dsimp only
  split
  · simp
  · split <;> simp
@[simp] theorem still_cleanLine (n l : Nat) (s : State) : still (cleanLine n l s) = still s := by
  unfold cleanLine
  dsimp only
  split <;> simp
@[simp] theorem still_flushRegion (rg : Region) (s : State) : still (flushRegion rg s) = still s := by unfold flushRegion; simp
@[simp] theorem still_discardRegionLines (rg : Region) (s : State) : still (discardRegionLines rg s) = still s := by
  unfold discardRegionLines
  simp

-- Pigeonholes

@[simp] theorem still_homeReadLines (r : Requester) (xs : List (Nat × BitVec 4)) (s : State) : still (homeReadLines r xs s).2 = still s := by
  induction xs generalizing s with
  | nil => simp [homeReadLines]
  | cons x xs ih =>
    obtain ⟨l, m⟩ := x
    unfold homeReadLines
    split
    · simp [ih]
    · dsimp only
      split <;> simp [ih]
@[simp] theorem still_homeReadBytes (r : Requester) (a n : Nat) (s : State) : still (homeReadBytes r a n s).2 = still s := by
  unfold homeReadBytes
  simp

-- HomeCmds

@[simp] theorem still_setPxLine (d l : Nat) (v : Option PxLine) (s : State) : still (setPxLine d l v s) = still s := by
  unfold setPxLine
  simp
@[simp] theorem still_pxSupply (n l : Nat) (secs : List Sector) (s : State) : still (pxSupply n l secs s) = still s := by
  unfold pxSupply
  split
  · rfl
  · split
    · refine (still_forEach _ _ fun _ _ => ?_).trans (by simp)
      dsimp only
      split
      · split <;> simp
      · rfl
    · rfl
@[simp] theorem still_pxWriteBack (d l : Nat) (keep : Bool) (s : State) : still (pxWriteBack d l keep s) = still s := by
  unfold pxWriteBack
  split <;> simp
@[simp] theorem still_completeCkpt (s : State) : still (completeCkpt s) = still s := by unfold completeCkpt; split <;> simp

-- NetEngine

@[simp] theorem still_modFlow (o : TxOwner) (f : Flow → Flow) (s : State) : still (modFlow o f s) = still s := by unfold modFlow; simp
@[simp] theorem still_notePath (o : TxOwner) (port last : Nat) (s : State) : still (notePath o port last s) = still s := by
  unfold notePath
  simp
@[simp] theorem still_nextPayload (r : TxReq) (n : Nat) (s : State) : still (nextPayload r n s).2 = still s := by
  unfold nextPayload
  split
  · simp
  · split
    · simp
    · dsimp only
      split
      · simp
      · split <;> simp
@[simp] theorem still_poisonSend (port k a : Nat) (s : State) : still (poisonSend port k a s) = still s := by unfold poisonSend; simp
@[simp] theorem still_refuseEntry (k a : Nat) (s : State) : still (refuseEntry k a s) = still s := by unfold refuseEntry; simp
@[simp] theorem still_countTx (o : TxOwner) (n : Nat) (s : State) : still (countTx o n s) = still s := by unfold countTx; split <;> simp
@[simp] theorem still_refuseSource (r : TxReq) (s : State) : still (refuseSource r s) = still s := by unfold refuseSource; split <;> simp
@[simp] theorem still_sendDataNow (id : Nat) (s : State) : still (sendDataNow id s) = still s := by
  unfold sendDataNow
  split
  · rfl
  · split
    · rfl
    next r _ _ =>
      split
      · rfl
      · split
        · rfl
        · split
          · simp
          · split
            · simp
            · extract_lets n
              have hp := still_nextPayload r n s
              split
              next heq => rw [heq] at hp; exact hp
              next heq =>
                rw [heq] at hp
                split <;> simpa using hp
@[simp] theorem still_pumpConn (id : Nat) (s : State) : still (pumpConn id s) = still s := by unfold pumpConn; dsimp only; split <;> simp
@[simp] theorem still_netPasses (ns : Nat) (s : State) : still (netPasses ns s) = still s := by unfold netPasses; simp

-- Clock

@[simp] theorem still_countLimit (ns : Nat) (s : State) : still (countLimit ns s) = still s := by unfold countLimit; simp

-- JobTree

@[simp] theorem still_dropPrep (job : Word) (s : State) : still (dropPrep job s) = still s := by unfold dropPrep; simp
@[simp] theorem still_sendAll (ms : List Word) (m : CtrlOut) (s : State) : still (sendAll ms m s) = still s := by unfold sendAll; simp
@[simp] theorem still_endJobCmds (job : Word) (n : Nat) (s : State) : still (endJobCmds job n s) = still s := by
  unfold endJobCmds
  rw [still_forEach _ _ fun _ _ => by split <;> simp, still_abortJobCmds]
@[simp] theorem still_forgetJob (k : Nat) (s : State) : still (forgetJob k s) = still s := by unfold forgetJob; split <;> simp
@[simp] theorem still_failPrep (p : Prep) (s : State) : still (failPrep p s) = still s := by unfold failPrep; simp

-- Porters

@[simp] theorem still_ptrErr (p addr cause : Nat) (s : State) : still (ptrErr p addr cause s) = still s := still_of rfl rfl
@[simp] theorem still_removeDescs (mine : Owner → Bool) (s : State) : still (removeDescs mine s) = still s := by unfold removeDescs; simp
@[simp] theorem still_endCmd (id : Nat) (st : BitVec 16) (res : Nat) (s : State) : still (endCmd id st res s) = still s := by
  unfold endCmd
  split <;> simp
@[simp] theorem still_refuseDesc (p : Nat) (d : Desc) (addr : Nat) (s : State) : still (refuseDesc p d addr s) = still s := by
  unfold refuseDesc
  split <;> simp

-- Monitor

@[simp] theorem still_modSec (f : Security → Security) (s : State) : still (modSec f s) = still s := still_of rfl rfl
@[simp] theorem still_extendMr (n : Nat) (v : BitVec 256) (s : State) : still (extendMr n v s) = still s := by unfold extendMr; simp

-- JobCmds

@[simp] theorem still_warmHalves (place : List Nat) (s : State) : still (warmHalves place s) = still s := by unfold warmHalves; simp

-- BellActs

@[simp] theorem still_endBindings (k : Nat) (place : List Nat) (s : State) : still (endBindings k place s) = still s := by
  unfold endBindings
  simp
@[simp] theorem still_bindTo (k : Nat) (place : List Nat) (s : State) : still (bindTo k place s) = still s := by unfold bindTo; simp
@[simp] theorem still_invalidateL1 (want : Nat → Bool) (s : State) : still (invalidateL1 want s) = still s := by unfold invalidateL1; simp
@[simp] theorem still_downgradeRegion (rg : Region) (s : State) : still (downgradeRegion rg s) = still s := by unfold downgradeRegion; simp
@[simp] theorem still_retirePending (rg : Region) (s : State) : still (retirePending rg s) = still s := by unfold retirePending; simp
@[simp] theorem still_unmapRegion (rg : Region) (s : State) : still (unmapRegion rg s) = still s := by unfold unmapRegion; split <;> simp
theorem still_onRegion (base cmd : Nat) (s : State) (f : Region → State) (h : ∀ r, still (f r) = still s) :
    still (onRegion base cmd s f) = still s := by
  unfold onRegion
  split <;> simp [h]
@[simp] theorem still_closePeers (s : State) : still (closePeers s) = still s := by unfold closePeers; simp
@[simp] theorem still_evictItin (k cmd : Nat) (s : State) : still (evictItin k cmd s) = still s := by unfold evictItin; simp
@[simp] theorem still_pinRange (addr len cmd : Nat) (on : Bool) (s : State) : still (pinRange addr len cmd on s) = still s := by
  unfold pinRange
  dsimp only
  split
  · simp
  · split
    · simp
    · split
      · split <;> simp
      · simp
@[simp] theorem still_setWindow (g base len pkey cmd : Nat) (s : State) : still (setWindow g base len pkey cmd s) = still s := by
  unfold setWindow
  simp
@[simp] theorem still_doAct (n : Nat) (a : BellAct) (s : State) : still (doAct n a s) = still s := by
  unfold doAct
  split
  · split
    · rfl
    · split
      · simp
      · split <;> simp
  · simp
  · simp
  · split <;> simp
  · refine still_onRegion _ _ _ _ fun r => ?_
    simp
  · exact still_onRegion _ _ _ _ fun r => by simp
  · exact still_onRegion _ _ _ _ fun r => by simp
  · refine still_onRegion _ _ _ _ fun r => ?_
    dsimp only
    split <;> simp
  · refine still_onRegion _ _ _ _ fun r => ?_
    dsimp only
    split <;> simp
  · simp
  · simp
  · simp
  · split <;> simp
  · split <;> simp
@[simp] theorem still_doActs (n t : Nat) (s : State) : still (doActs n t s) = still s := by unfold doActs; simp
@[simp] theorem still_install (k c : Nat) (s : State) : still (install k c s) = still s := by unfold install; split <;> simp
@[simp] theorem still_takeOut (s : State) : still (takeOut s) = still s := by unfold takeOut; simp
@[simp] theorem still_finishOffline (s : State) : still (finishOffline s) = still s := by
  unfold finishOffline
  rw [still_modInnk]
  exact still_forEach _ _ fun _ _ => by split <;> simp
@[simp] theorem still_reselect (now : Nat) (s : State) : still (reselect now s) = still s := by
  unfold reselect
  split
  · rfl
  · split
    · simp
    · exact still_forEach _ _ fun _ _ => by split <;> simp
@[simp] theorem still_switchL1 (before s : State) : still (switchL1 before s) = still s := by unfold switchL1; simp

-- BellLegs

@[simp] theorem still_chargeLeg (k : Nat) (l : Leg) (s : State) : still (chargeLeg k l s).2 = still s := by unfold chargeLeg; simp
@[simp] theorem still_finishAwaits (job : Word) (jsn n : Nat) (st : BitVec 16) (e : Word) (s : State) :
    still (finishAwaits job jsn n st e s) = still s := by
  unfold finishAwaits
  exact still_forEach _ _ fun _ _ => by split <;> simp
@[simp] theorem still_commitLeg (n k : Nat) (s : State) : still (commitLeg n k s).2 = still s := by
  unfold commitLeg
  split
  · simp
  · split <;> simp
@[simp] theorem still_missLeg (n k : Nat) (s : State) : still (missLeg n k s).2 = still s := by
  unfold missLeg
  split
  · rfl
  · split
    · rfl
    · exact (still_modStg_of fun _ => rfl).trans (by simp)
@[simp] theorem still_discardRec (n : Nat) (d : Discard) (s : State) : still (discardRec n d s).2 = still s := by
  unfold discardRec
  dsimp only; split <;> simp
@[simp] theorem still_stopRec (n : Nat) (r : StopReq) (s : State) : still (stopRec n r s).2 = still s := by
  unfold stopRec
  dsimp only
  split
  · simp
  · split <;> simp
@[simp] theorem still_settleStops (n : Nat) (s : State) : still (settleStops n s).2 = still s := by unfold settleStops; simp
@[simp] theorem still_stopAtBell (n k : Nat) (s : State) : still (stopAtBell n k s).2 = still s := by
  unfold stopAtBell
  dsimp only
  split
  · simp
  · split
    · simp
    · split
      · simp
      · split
        · simp
        · split
          · split <;> simp
          · split <;> simp
@[simp] theorem still_announceStops (n : Nat) (s : State) : still (announceStops n s) = still s := by
  unfold announceStops
  refine still_forEach _ _ fun _ _ => ?_
  split
  · split <;> simp
  · rfl
@[simp] theorem still_abandonPreps (n : Nat) (s : State) : still (abandonPreps n s) = still s := by unfold abandonPreps; simp
@[simp] theorem still_startJobs (n : Nat) (s : State) : still (startJobs n s) = still s := by
  unfold startJobs
  refine still_forEach _ _ fun _ _ => ?_
  split
  · split
    · split
      · exact (still_forEach _ _ fun _ _ => by split <;> simp).trans (by simp)
      · rfl
    · rfl
  · rfl
@[simp] theorem still_resume (n k : Nat) (ck : Option Nat) (s : State) : still (resume n k ck s).2 = still s := by
  unfold resume
  split
  · simp
  · split <;> simp
@[simp] theorem still_heatHalves (place : List Nat) (s : State) : still (heatHalves place s) = still s := by unfold heatHalves; simp
@[simp] theorem still_restartBell (n t : Nat) (s : State) : still (restartBell n t s).2 = still s := by
  unfold restartBell
  split
  · rfl
  · split
    · rfl
    · refine (still_forLegs _ _ fun _ _ => ?_).trans (by simp)
      split
      · split <;> simp
      · rfl
@[simp] theorem still_restartRolls (n : Nat) (s : State) : still (restartRolls n s).2 = still s := by
  unfold restartRolls
  split
  · rfl
  · refine still_forLegs _ _ fun _ _ => ?_
    dsimp only
    split <;> simp
@[simp] theorem still_readLeg (base fuel off : Nat) (s : State) : still (readLeg base fuel off s).2 = still s := by
  induction fuel generalizing off s with
  | zero => simp [readLeg]
  | succ fuel ih =>
    unfold readLeg
    dsimp only
    split
    · simp
    · split <;> simp [ih]
@[simp] theorem still_holdLeg (n k : Nat) (i : Itin) (j : Job) (s : State) : still (holdLeg n k i j s).2 = still s := by
  unfold holdLeg
  exact still_modStg_of fun _ => rfl
@[simp] theorem still_startLeg (n t k : Nat) (s : State) : still (startLeg n t k s).2 = still s := by
  unfold startLeg
  split
  · rfl
  · split
    · extract_lets due
      split
      · rfl
      · split
        · simp
        · split
          · rfl
          · dsimp only
            split <;> simp
    · rfl

-- Bell

@[simp] theorem still_closeCluster (id : Nat) (worked : Bool) (s : State) : still (closeCluster id worked s) = still s := by
  unfold closeCluster
  simp
@[simp] theorem still_closeClusters (worked held : List Nat) (s : State) : still (closeClusters worked held s) = still s := by
  unfold closeClusters
  simp
@[simp] theorem still_closeHome (n : Nat) (s : State) : still (closeHome n s) = still s := by unfold closeHome; simp
@[simp] theorem still_closePort (n : Nat) (s : State) : still (closePort n s) = still s := by unfold closePort; simp
@[simp] theorem still_closeStage (s : State) : still (closeStage s) = still s := by unfold closeStage; simp
@[simp] theorem still_chargeGuests (s : State) : still (chargeGuests s) = still s := by unfold chargeGuests; simp
@[simp] theorem still_countIdle (s : State) : still (countIdle s) = still s := by unfold countIdle; simp
@[simp] theorem still_clearClusters (s : State) : still (clearClusters s) = still s := by unfold clearClusters; simp
@[simp] theorem still_abandonFlush (s : State) : still (abandonFlush s) = still s := by unfold abandonFlush; simp
@[simp] theorem still_startCkpt (n : Nat) (s : State) : still (startCkpt n s) = still s := by unfold startCkpt; simp
@[simp] theorem still_refreshCaps (s : State) : still (refreshCaps s) = still s := by unfold refreshCaps; split <;> simp
@[simp] theorem still_recheckPorters (s : State) : still (recheckPorters s) = still s := by
  unfold recheckPorters
  refine still_forEach _ _ fun _ _ => still_forEach _ _ fun _ _ => ?_
  split <;> simp
@[simp] theorem still_endAllWork (s : State) : still (endAllWork s) = still s := by
  unfold endAllWork
  split
  · simp only [still_mk, still_fold]
    refine still_forEach _ _ fun _ _ => ?_
    split
    · split <;> simp
    · rfl
  · rfl
@[simp] theorem still_ageCmds (s : State) : still (ageCmds s) = still s := by unfold ageCmds; simp
@[simp] theorem still_judgeLegs (n : Nat) (s : State) : still (judgeLegs n s).2 = still s := by unfold judgeLegs; simp

-- the clock reaches an instant

theorem missPps_ptpNow (g : Stage) : g.missPps.ptpNow = g.ptpNow := by
  unfold Stage.missPps
  split <;> rfl

theorem runFor_ptpNow (d : Nat) (g : Stage) : (g.runFor d).ptpNow = g.ptpNow + d := missPps_ptpNow _

theorem still_passNs {d : Nat} (s : State) (hd : d ≠ 0) : still (passNs d s) = ((s.stg.runFor d).still, s.ldg.records, s.ldg.next) := by
  unfold passNs
  simp [hd]

/-- Two Bell and time units that differ in their counts alone. -/
theorem Stage.fields_of_still {g h : Stage} (e : g.still = h.still) :
    g.cfg = h.cfg ∧ g.num = h.num ∧ g.bellTime = h.bellTime ∧ g.opened = h.opened ∧ g.window = h.window ∧ g.ptpNow = h.ptpNow := by
  unfold Stage.still at e
  rw [Stage.mk.injEq] at e
  simp [e]

/-- The clocks reach the instant, if it has not passed, and the ledger's records stand. -/
theorem advanceTo_reaches (t : Nat) (s : State) :
    (advanceTo t s).stg.ptpNow = max t s.stg.ptpNow ∧ (advanceTo t s).ldg.records = s.ldg.records ∧ (advanceTo t s).ldg.next = s.ldg.next := by
  unfold advanceTo
  by_cases hd : t - s.stg.ptpNow = 0
  · have hmax : max t s.stg.ptpNow = s.stg.ptpNow := by omega
    simp [passNs, hd, hmax]
  · obtain ⟨hg, hr, hn⟩ := still_parts (still_passNs s hd)
    obtain ⟨-, -, -, -, -, hnow⟩ := Stage.fields_of_still hg
    rw [runFor_ptpNow] at hnow
    exact ⟨by omega, hr, hn⟩

end Sys2Proof.Machine
end

section
/-! PROOFS. Commit windows and the watchdog (R22, R29, R30, R45; O49). While the time up to a window passes nothing moves but the ports'
lines where no message waits to be sent; the window then tests every running leg, and the watchdog reports a stage fault. -/

namespace Sys2Proof.Machine

-- time passes while no message waits

/-- No connection has a message or a CTRL message that waits. -/
def NothingWaits (s : State) : Prop := ∀ id c, getConn s id = some c → c.queue = [] ∧ c.ctrlq = []

theorem sendDataNow_of_empty {s : State} {id : Nat} {c : Conn} (h : getConn s id = some c) (hq : c.queue = []) : sendDataNow id s = s := by
  unfold sendDataNow
  simp [h, hq, nextMsg]

theorem pumpConn_of_nothingWaits {s : State} (h : NothingWaits s) (id : Nat) : pumpConn id s = s := by
  unfold pumpConn
  cases hc : getConn s id with
  | none => simp [pumpCtrl, hc]
  | some c =>
    obtain ⟨hq, hctrl⟩ := h id c hc
    have hp : pumpCtrl id s = s := by simp [pumpCtrl, hc, hctrl, forEach]
    rw [hp]
    simp only [hc]
    exact forEach_fixed (fun _ => sendDataNow_of_empty hc hq) _

/-- What passing time leaves as it is where no message waits: memory, the clusters, the itineraries and the connections. -/
def atRest (s : State) : List Host.Cell × Tab Cluster × Tab (Option Itin) × Tab (Option Conn) := (s.mem, s.clusters, s.itins, s.net.conns)

theorem atRest_parts {s t : State} (h : atRest t = atRest s) :
    t.mem = s.mem ∧ t.clusters = s.clusters ∧ t.itins = s.itins ∧ t.net.conns = s.net.conns := by
  unfold atRest at h
  simpa only [Prod.mk.injEq] using h

theorem atRest_linePasses (ns n : Nat) (s : State) : atRest (linePasses ns n s) = atRest s := by
  unfold linePasses
  dsimp only
  split <;> rfl

theorem atRest_countLimit (ns : Nat) (s : State) : atRest (countLimit ns s) = atRest s := by
  unfold countLimit
  split <;> rfl

theorem NothingWaits.of_atRest {s t : State} (h : NothingWaits s) (e : atRest t = atRest s) : NothingWaits t := by
  intro id c hc
  obtain ⟨-, -, -, hconns⟩ := atRest_parts e
  exact h id c (by rw [← hc, getConn, getConn, hconns])

theorem atRest_netPasses {s : State} (h : NothingWaits s) (ns : Nat) : atRest (netPasses ns s) = atRest s := by
  unfold netPasses
  have hline : atRest (forEach (s.net.ports.map (·.1)) (linePasses ns) s) = atRest s := forEach_keeps atRest (atRest_linePasses ns) _ s
  extract_lets u
  rw [forEach_fixed (pumpConn_of_nothingWaits (h.of_atRest hline)), hline]

theorem atRest_advanceTo {s : State} (h : NothingWaits s) (t : Nat) : atRest (advanceTo t s) = atRest s := by
  unfold advanceTo passNs
  split
  · rfl
  · have hcount (d : Nat) : atRest (countLimit d (modStg (fun g => g.runFor d) s)) = atRest s := atRest_countLimit ..
    rw [atRest_netPasses (h.of_atRest (hcount _)), hcount]

-- keys of the table of itineraries, and runs over them

theorem mem_keys_of_tabGet {α : Type} {d : α} {t : Tab α} {n : Nat} (h : tabGet d t n ≠ d) : n ∈ t.map (·.1) := by
  induction t with
  | nil => exact absurd rfl h
  | cons p t ih =>
    unfold tabGet at h
    split at h
    next he => exact List.mem_cons.mpr (.inl he.symm)
    next => exact List.mem_cons_of_mem _ (ih h)

theorem mem_itinSlots {s : State} {k : Nat} {i : Itin} (h : getItin s k = some i) : k ∈ itinSlots s :=
  mem_keys_of_tabGet (d := none) (by rw [← getItin, h]; exact Option.some_ne_none i)

/-- A run reaches what the round of one of its elements brings about, if no round undoes it or what that round needs. -/
theorem forEach_reaches {α : Type} {P Q : State → Prop} {f : α → State → State} (hQ : ∀ x t, Q t → Q (f x t))
    (hP : ∀ x t, P t → P (f x t)) {k : α} (hk : ∀ t, Q t → P (f k t)) {xs : List α} (hmem : k ∈ xs) {s : State} (hs : Q s) :
    P (forEach xs f s) := by
  induction xs generalizing s with
  | nil => exact absurd hmem List.not_mem_nil
  | cons x xs ih =>
    rcases List.mem_cons.mp hmem with rfl | hmem
    · exact forEach_preserves hP xs (hk s hs)
    · exact ih hmem (hQ x s hs)

-- the window's tests

theorem legDone_of_clusters {s t : State} (h : t.clusters = s.clusters) (k : Nat) (l : Leg) : legDone t k l = legDone s k l := by
  unfold legDone entryIsDone getCluster
  rw [h]

/-- The commit window tests the running leg of one itinerary. -/
def testLeg (k : Nat) (t : State) : State := modLeg k (fun l => { l with windowDone := legDone t k l }) t

theorem testLeg_stg (k : Nat) (t : State) : (testLeg k t).stg = t.stg := rfl
theorem testLeg_mem (k : Nat) (t : State) : (testLeg k t).mem = t.mem := rfl
theorem testLeg_clusters (k : Nat) (t : State) : (testLeg k t).clusters = t.clusters := rfl

theorem getItin_testLeg_ne {j k : Nat} (h : k ≠ j) (t : State) : getItin (testLeg j t) k = getItin t k := by
  unfold testLeg modLeg
  rw [getItin_modItin, if_neg h]

/-- The leg of an itinerary is as it was but for its test, made or not, and the clusters are as they were. -/
def ButForTest (s : State) (k : Nat) (i : Itin) (l : Leg) (t : State) : Prop :=
  t.clusters = s.clusters ∧ ∃ b, getItin t k = some { i with leg := some { l with windowDone := b } }

/-- The leg of an itinerary has been tested, and the clusters are as they were. -/
def Tested (s : State) (k : Nat) (i : Itin) (l : Leg) (t : State) : Prop :=
  t.clusters = s.clusters ∧ getItin t k = some { i with leg := some { l with windowDone := legDone s k l } }

theorem ButForTest.testLeg {s t : State} {k : Nat} {i : Itin} {l : Leg} (h : ButForTest s k i l t) : Tested s k i l (testLeg k t) := by
  obtain ⟨hc, b, hi⟩ := h
  refine ⟨hc, (getItin_modLeg hi rfl _).trans ?_⟩
  rw [legDone_of_clusters hc]
  rfl

theorem Tested.butForTest {s t : State} {k : Nat} {i : Itin} {l : Leg} (h : Tested s k i l t) : ButForTest s k i l t := ⟨h.1, _, h.2⟩

theorem ButForTest.step {s t : State} {k : Nat} {i : Itin} {l : Leg} (h : ButForTest s k i l t) (j : Nat) :
    ButForTest s k i l (Machine.testLeg j t) := by
  by_cases hj : k = j
  · subst hj
    exact h.testLeg.butForTest
  · obtain ⟨hc, b, hi⟩ := h
    exact ⟨hc, b, (getItin_testLeg_ne hj t).trans hi⟩

theorem Tested.step {s t : State} {k : Nat} {i : Itin} {l : Leg} (h : Tested s k i l t) (j : Nat) : Tested s k i l (testLeg j t) := by
  by_cases hj : k = j
  · subst hj
    exact h.butForTest.testLeg
  · exact ⟨h.1, (getItin_testLeg_ne hj t).trans h.2⟩

/-- Every running leg is tested, and its itinerary else unchanged. -/
theorem getItin_testLegs {s : State} {k : Nat} {i : Itin} {l : Leg} (hi : getItin s k = some i) (hl : i.leg = some l) :
    getItin (forEach (itinSlots s) testLeg s) k = some { i with leg := some { l with windowDone := legDone s k l } } := by
  have hs : ButForTest s k i l s := ⟨rfl, l.windowDone, by rw [hi, ← hl]⟩
  exact (forEach_reaches (P := Tested s k i l) (fun j t h => ButForTest.step h j) (fun j t h => Tested.step h j) (fun t h => h.testLeg)
    (mem_itinSlots hi) hs).2

/-- The device as its commit window opens, before the tests. -/
def openWindow (s : State) : State := modStg (fun g => { g with window := true }) (advanceTo (windowNs s) s)

theorem openWindow_stg (s : State) : (openWindow s).stg.window = true ∧ (openWindow s).stg.ptpNow = max (windowNs s) s.stg.ptpNow :=
  ⟨rfl, (advanceTo_reaches (windowNs s) s).1⟩

theorem atRest_openWindow {s : State} (h : NothingWaits s) : atRest (openWindow s) = atRest s := atRest_advanceTo h (windowNs s)

theorem doWindow_due {s : State} (hb : bellsFall s = true) (ho : s.stg.opened = true) (hw : s.stg.window = false) :
    doWindow s = forEach (itinSlots (openWindow s)) testLeg (openWindow s) := by
  unfold doWindow
  rw [if_neg (by simp [hb, ho, hw])]
  rfl

theorem doWindow_opened {s : State} (hw : s.stg.window = true) : doWindow s = s := by
  unfold doWindow
  rw [if_pos (by simp [hw])]

theorem doBell_unset {s : State} (h : s.stg.time.state = timeUnset) : doBell s = s := by
  unfold doBell
  rw [if_pos (by simp [bellsFall, h])]

-- the watchdog

theorem logErr_discards (r : ErrRec) (s : State) : (logErr r s).ldg.discards = s.ldg.discards := by
  unfold logErr
  dsimp only
  split <;> rfl

theorem stopLegWork_discards (k : Nat) (l : Leg) (s : State) : (stopLegWork k l s).ldg.discards = s.ldg.discards :=
  forEach_keeps (fun t => t.ldg.discards) (f := fun c t => modCluster c Cluster.stopWork t) (fun _ _ => rfl) l.clusters s

theorem stopJob_discards (k fclass : Nat) (fi : Option FaultInfo) (s : State) : (stopJob k fclass fi s).ldg.discards = s.ldg.discards := by
  unfold stopJob
  split
  · rfl
  · split
    · rfl
    · split
      · rfl
      · split
        next l _ => exact stopLegWork_discards k l s
        next => rfl

/-- R283: A stage fault's discard waits for its record, with the leg and the fault. -/
theorem discardLeg_discards {k : Nat} {fi : FaultInfo} {s : State} {i : Itin} {l : Leg} (hi : getItin s k = some i) (hl : i.leg = some l) :
    (discardLeg k fi s).ldg.discards =
      s.ldg.discards ++ [{ itin := k, leg := l, fault := fi, time := s.stg.ptpNow, bell := s.stg.num }] := by
  have hstg : (stopLegWork k l s).stg = s.stg := (stopLegWork_frame s k l s (HomeFrame.refl s)).stg
  have hwork : (stopLegWork k l s).ldg.discards = s.ldg.discards := stopLegWork_discards k l s
  unfold discardLeg
  simp only [hi, hl, hstg]
  rw [← hwork]
  split
  · rfl
  · split
    · split
      next c _ =>
        refine (forEach_keeps (fun t => t.ldg.discards) (fun j t => ?_) _ _).trans (logErr_discards ..)
        rfl
      next => exact stopJob_discards ..
    · rfl

/-- The stage's count of watchdog faults rises. -/
def countWatchdog (s : State) : State := modStg (fun g => { g with events := { g.events with wdog := satInc g.events.wdog } }) s

/-- A leg that has missed too many Bells is reported, counted and discarded (R45). -/
theorem doWatchdog_due {s : State} {k : Nat} {i : Itin} {l : Leg} (hi : getItin s k = some i) (hl : i.leg = some l) (hw : s.stg.window = true)
    (hd : l.windowDone = false) (hm : s.stg.cfg.wdogBells.toNat ≤ l.missed) :
    doWatchdog k s = stageFault [k] { fclass := 5 } (countWatchdog s) := by
  unfold doWatchdog
  rw [hi, Option.bind_some, hl]
  exact if_pos (by simp [hw, hd, hm])

theorem doWatchdog_early {s : State} {k : Nat} {i : Itin} {l : Leg} (hi : getItin s k = some i) (hl : i.leg = some l)
    (hm : l.missed < s.stg.cfg.wdogBells.toNat) : doWatchdog k s = s := by
  unfold doWatchdog
  rw [hi, Option.bind_some, hl]
  exact if_neg (by simp [hm])

/-- A stage fault of one running leg: its itinerary, the counts and the discard. -/
theorem stageFault_one {s : State} {k : Nat} {fi : FaultInfo} {i : Itin} {l : Leg} (hi : getItin s k = some i) (hl : i.leg = some l) :
    LegGone k (stageFault [k] fi s) ∧ (stageFault [k] fi s).stg = s.stg ∧ (stageFault [k] fi s).ldg.faultCount = s.ldg.faultCount + 1 ∧
      (stageFault [k] fi s).mem = s.mem ∧
      (stageFault [k] fi s).ldg.discards =
        s.ldg.discards ++ [{ itin := k, leg := l, fault := fi, time := s.stg.ptpNow, bell := s.stg.num }] := by
  obtain ⟨hmem, -, hcount, -⟩ := stageFault_kept [k] fi s
  exact ⟨legGone_discardLeg (i := i) hi hl, (stageFault_frame s [k] fi s (HomeFrame.refl s)).stg, hcount, hmem,
    discardLeg_discards (i := i) hi hl⟩

/-- Settles O49: the window by its tests of the running legs, the watchdog by the stage fault that it reports. -/
theorem windowAndWatchdog : Obligations.WindowAndWatchdog := by
  intro s
  refine ⟨fun hu => ?_, fun hb ho hw => ?_, fun hw => ?_, fun k i l hi hl hw hd => ⟨fun hm => ?_, fun hm => ?_⟩⟩
  · exact congrArg Host.Outcome.next (doBell_unset hu)
  · obtain ⟨hwin, hnow⟩ := openWindow_stg s
    have hstg : (forEach (itinSlots (openWindow s)) testLeg (openWindow s)).stg = (openWindow s).stg :=
      forEach_keeps State.stg testLeg_stg _ _
    refine ⟨_, congrArg Host.Outcome.next (doWindow_due hb ho hw), by rw [hstg, hwin], by rw [hstg, hnow], fun hq => ?_⟩
    obtain ⟨hmem, hcl, hit, -⟩ := atRest_parts (atRest_openWindow hq)
    refine ⟨(forEach_keeps State.mem testLeg_mem _ _).trans hmem, (forEach_keeps State.clusters testLeg_clusters _ _).trans hcl, ?_⟩
    intro k i l hi hl
    rw [getItin_testLegs ((getItin_of_itins hit k).trans hi) hl, legDone_of_clusters hcl]
  · exact congrArg Host.Outcome.next (doWindow_opened hw)
  · obtain ⟨⟨i', hi', hl'⟩, hstg, hcount, hmem, hdis⟩ := stageFault_one (s := countWatchdog s) (fi := { fclass := 5 }) hi hl
    exact ⟨_, i', congrArg Host.Outcome.next (doWatchdog_due hi hl hw hd hm), hi', hl',
      congrArg (fun g : Stage => g.events.wdog) hstg, hcount, hmem, _, hdis, rfl, rfl, rfl⟩
  · exact congrArg Host.Outcome.next (doWatchdog_early hi hl hm)

end Sys2Proof.Machine
end

section
/-! PROOFS. A Bell opens its stage and writes its records (R17, R28, R272, R273, R278; O48). The Bell's instant is reached, the closed stage
counts and the staged configuration enters; what stands then stands until the records are written, by the frame lemmas above. -/

namespace Sys2Proof.Machine

-- the stage opens

/-- The staged configuration enters: the clock and the ledger's records stand. -/
theorem enterConfig_still (t : Nat) (s : State) :
    ∃ g : Stage, g.ptpNow = s.stg.ptpNow ∧ still (enterConfig t s) = (g.still, s.ldg.records, s.ldg.next) := by
  unfold enterConfig
  extract_lets _ _ _ _ staged finished _ _ _ entered
  have hfin : still finished = still staged := still_forEach _ _ fun _ _ => still_finishCmd ..
  have hent : still entered = still finished := (still_mk ..).trans (still_fold _)
  exact ⟨staged.stg, rfl, (still_forEach _ _ fun _ _ => still_drainDown ..).trans ((still_clampWindows _).trans (hent.trans hfin))⟩

/-- The device at a Bell's instant: the closed stage has counted and the staged configuration is in force. -/
def enterStage (s : State) : State := enterConfig (nextBellNs s) (chargeGuests (countIdle (closeStage (advanceTo (nextBellNs s) s))))

theorem enterStage_ledger (s : State) :
    (enterStage s).stg.ptpNow = max (nextBellNs s) s.stg.ptpNow ∧ (enterStage s).ldg.records = s.ldg.records ∧
      (enterStage s).ldg.next = s.ldg.next := by
  unfold enterStage
  obtain ⟨hnow, hrec, hnext⟩ := advanceTo_reaches (nextBellNs s) s
  generalize advanceTo (nextBellNs s) s = u at hnow hrec hnext ⊢
  have hclosed : still (chargeGuests (countIdle (closeStage u))) = still u := by simp
  obtain ⟨hcg, hcr, hcn⟩ := still_parts hclosed
  generalize chargeGuests (countIdle (closeStage u)) = c at hcg hcr hcn ⊢
  obtain ⟨g, hg, hent⟩ := enterConfig_still (nextBellNs s) c
  obtain ⟨heg, her, hen⟩ := still_parts hent
  obtain ⟨-, -, -, -, -, hce⟩ := Stage.fields_of_still hcg
  obtain ⟨-, -, -, -, -, hee⟩ := Stage.fields_of_still heg
  exact ⟨hee.trans (hg.trans (hce.trans hnow)), her.trans (hcr.trans hrec), hen.trans (hcn.trans hnext)⟩

/-- The stage of a Bell at an instant opens. -/
def openStage (t : Nat) (s : State) : State :=
  modStg (fun g => { g with num := t / lenNs s, bellTime := t, bellUp := g.upNs, opened := true, window := false, suspended := false }) s

-- the Bell's work

/-- A Bell's work on the open stage ends with its records: what stands of the open stage stands until they are written. -/
def BellEnds (opened : State) (n t : Nat) (v : State) : Prop :=
  ∃ (ckpt restarted : Bool) (press : BitVec 8) (rs : List LegRec) (u : State), still u = still opened ∧
    v = syncEvents (recheckPorters (ageCmds (completeCkpt (writeRecords n t ckpt restarted press rs u))))

theorem still_snd_of_eq {s t : State} {α : Type} {f : α × State} {r : α} (h : f = (r, t)) (hf : still f.2 = still s) : still t = still s := by
  rw [h] at hf
  exact hf

/-- The records of the legs that start; a device that binds nothing starts none. -/
theorem still_startLegs (n t : Nat) (s : State) :
    still (if noBind s then ([], s) else forLegs (itinSlots s) (startLeg n t) s).2 = still s := by
  split
  · rfl
  · exact still_forLegs _ _ fun _ _ => still_startLeg ..

theorem doBell_ends {s : State} (h : bellsFall s = true) :
    BellEnds (openStage (nextBellNs s) (enterStage s)) (nextBellNs s / lenNs (enterStage s)) (nextBellNs s) (doBell s) := by
  unfold doBell
  rw [if_neg (by simp [h])]
  extract_lets t before _ worked _ _ n opened working
  change BellEnds opened n t _
  have hwork : still working = still opened := still_endAllWork _
  clear_value before worked n t opened working
  -- the legs of the closed stage, and the stops
  split
  next r1 s1 h1 =>
  replace h1 : still s1 = still working := still_snd_of_eq h1 (still_judgeLegs ..)
  extract_lets clear
  have hclear : still clear = still s1 := still_closeClusters ..
  split
  next r2 s2 h2 =>
  replace h2 : still s2 = still clear := still_snd_of_eq h2 (still_settleStops ..)
  extract_lets announced acted chosen
  have hact : still chosen = still s2 := by simp [chosen, acted, announced]
  -- the restarts
  split
  next r3 s3 h3 =>
  replace h3 : still s3 = still chosen := still_snd_of_eq h3 (still_restartBell ..)
  split
  next r4 s4 h4 =>
  replace h4 : still s4 = still s3 := still_snd_of_eq h4 (still_restartRolls ..)
  split
  next r5 s5 h5 =>
  replace h5 : still s5 = still s4 := still_snd_of_eq h5 (still_settleStops ..)
  extract_lets switched emptied ready
  have hready : still ready = still s5 := by simp [ready, emptied, switched]
  clear_value ready
  -- the stage that opens
  split
  next r6 s6 h6 =>
  replace h6 : still s6 = still ready := still_snd_of_eq h6 (still_startLegs ..)
  extract_lets ckpt started counted
  have hstart : still started = still s6 := by
    unfold started
    split
    · exact still_startCkpt ..
    · rfl
  have hcount : still counted = still started := still_modStg_of fun _ => rfl
  clear_value counted
  exact ⟨ckpt, _, _, _, counted, by rw [hcount, hstart, h6, hready, h5, h4, h3, hact, h2, hclear, h1, hwork], rfl⟩

-- the records

/-- A Bell's records enter the ring, the Bell record first: what they are, and that the Bell and time unit stands. -/
theorem writeRecords_spec (n t : Nat) (ckpt restarted : Bool) (press : BitVec 8) (rs : List LegRec) (s : State) :
    ∃ (b : BellRec) (legs : List LedgerRec), b.seq = s.ldg.next ∧ b.bell = n ∧ b.tNs = t ∧ (∀ r ∈ legs, ∃ x, r = LedgerRec.leg x) ∧
      still (writeRecords n t ckpt restarted press rs s) =
        (s.stg.still, (legs.reverse ++ [LedgerRec.bell b] ++ s.ldg.records).take 65536, s.ldg.next + 1 + legs.length) := by
  refine ⟨bellRecord n t ckpt restarted press rs s, _, rfl, rfl, rfl, ?_, rfl⟩
  intro r hr
  obtain ⟨p, -, rfl⟩ := List.mem_map.mp hr
  exact ⟨_, rfl⟩

/-- Settles O48: the open stage stands until the Bell's records are written, and the records after them. -/
theorem bellFalls : Obligations.BellFalls := by
  intro s hs
  obtain ⟨ckpt, restarted, press, rs, u, hu, hv⟩ := doBell_ends hs
  obtain ⟨hnow, hrec, hnext⟩ := enterStage_ledger s
  generalize enterStage s = e at hu hv hnow hrec hnext
  obtain ⟨b, legs, hseq, hbell, ht, hlegs, hwrite⟩ := writeRecords_spec (nextBellNs s / lenNs e) (nextBellNs s) ckpt restarted press rs u
  obtain ⟨hug, hur, hun⟩ := still_parts hu
  have hend : still (doBell s) = still (writeRecords (nextBellNs s / lenNs e) (nextBellNs s) ckpt restarted press rs u) := by
    rw [hv]
    simp
  rw [hwrite, hug, hur, hun] at hend
  obtain ⟨hg, hr, hn⟩ := still_parts hend
  obtain ⟨hcfg, hnum, htime, hopened, hwindow, hptp⟩ := Stage.fields_of_still hg
  have hlen : lenNs (doBell s) = lenNs e := by rw [lenNs, hcfg]; rfl
  replace hnum : (doBell s).stg.num = nextBellNs s / lenNs e := hnum
  rw [← hlen] at hnum hbell
  exact ⟨doBell s, b, legs, rfl, hptp.trans hnow, htime, hnum, hopened, hwindow, by rw [hr, ← hrec]; rfl, by rw [hn, ← hnext]; rfl,
    (hseq.trans hun).trans hnext, hbell, ht, hlegs⟩

end Sys2Proof.Machine
end

section
/-! PROOFS. Requests that hit a line of their home (R199, R202, R203, R214, R221 to R223, R226, R231, R314, R317; O22): the bytes of a sector,
the bookkeeping of a home, which leaves its lines as they are, and the equations of a read, a store and an atomic where the home holds the
line alone. -/

namespace Sys2Proof.Machine

-- the bytes of a sector

theorem bytesNat_lt (bs : List Byte) : bytesNat bs < 256 ^ bs.length := by
  induction bs with
  | nil => simp [bytesNat]
  | cons b bs ih =>
    have hb : b.toNat < 256 := b.isLt
    rw [bytesNat, List.length_cons, pow_succ]
    omega

theorem bytesNat_digit (bs : List Byte) (i : Nat) (hi : i < bs.length) : bytesNat bs / 256 ^ i % 256 = bs[i].toNat := by
  induction bs generalizing i with
  | nil => exact absurd hi (Nat.not_lt_zero i)
  | cons b bs ih =>
    have hb : b.toNat < 256 := b.isLt
    cases i with
    | zero => simp only [bytesNat, List.getElem_cons_zero]; omega
    | succ i =>
      have hdiv : (b.toNat + 256 * bytesNat bs) / 256 = bytesNat bs := by omega
      rw [bytesNat, pow_succ', ← Nat.div_div_eq_div_mul, hdiv, List.getElem_cons_succ]
      exact ih i (Nat.lt_of_succ_lt_succ hi)

/-- A word that is made of 32 bytes has them as its bytes (R15). -/
theorem byteOf_ofBytes {bs : List Byte} (hl : bs.length = 32) {b : Nat} (hb : b < bs.length) : byteOf (BitVec.ofNat 256 (bytesNat bs)) b = bs[b] := by
  have hlt : bytesNat bs < 2 ^ 256 := by
    have := bytesNat_lt bs
    rw [hl] at this
    exact this
  apply BitVec.eq_of_toNat_eq
  rw [byteOf, BitVec.extractLsb'_toNat, BitVec.toNat_ofNat, Nat.mod_eq_of_lt hlt, Nat.shiftRight_eq_div_pow, pow_mul]
  exact bytesNat_digit bs b hb

/-- A merge takes the enabled bytes from the new data and the others from the old. -/
theorem byteOf_mergeBytes (old new : BitVec 256) (en : BitVec 32) {b : Nat} (hb : b < 32) :
    byteOf (mergeBytes old new en) b = if en.getLsbD b then byteOf new b else byteOf old b := by
  unfold mergeBytes
  rw [byteOf_ofBytes (by simp) (by simpa using hb)]
  simp

-- a list of four sectors

theorem secAt_set_self {xs : List Sector} {k : Nat} (hk : k < xs.length) (x : Sector) : secAt (xs.set k x) k = x := by
  simp [secAt, hk]

theorem secAt_set_ne (xs : List Sector) {j k : Nat} (h : j ≠ k) (x : Sector) : secAt (xs.set k x) j = secAt xs j := by
  simp [secAt, List.getElem?_set_ne (Ne.symm h)]

-- reads of one home after an update of a home

theorem getHome_modHome_ne {n m : Nat} (h : m ≠ n) (f : Home → Home) (s : State) : getHome (modHome n f s) m = getHome s m :=
  tabGet_tabSet_ne h

theorem Home.line_setLine (l m : Nat) (v : Option Line) (h : Home) : (h.setLine l v).line m = if m = l then v else h.line m := tabGet_tabSet ..
theorem Home.dirOf_setDir (l m : Nat) (d : Dir) (h : Home) : (h.setDir l d).dirOf m = if m = l then d else h.dirOf m := tabGet_tabSet ..

theorem otherHalf_ne (n : Nat) : otherHalf n ≠ n := by
  intro h
  have : n ^^^ 1 = n ^^^ 0 := by simp [otherHalf] at h
  exact absurd (Nat.xor_right_inj.mp this) (by decide)

/-- Nothing outside the homes has changed, the count of free values drawn apart. -/
def OnlyHomes (s t : State) : Prop := { t with homes := s.homes, freeCtr := s.freeCtr } = s

theorem OnlyHomes.trans {s t u : State} (h : OnlyHomes s t) (k : OnlyHomes t u) : OnlyHomes s u := by
  unfold OnlyHomes at h k ⊢
  calc { u with homes := s.homes, freeCtr := s.freeCtr }
      = { ({ u with homes := t.homes, freeCtr := t.freeCtr } : State) with homes := s.homes, freeCtr := s.freeCtr } := rfl
    _ = { t with homes := s.homes, freeCtr := s.freeCtr } := by rw [k]
    _ = s := h

section
variable {s t : State} (h : OnlyHomes s t)
include h

theorem OnlyHomes.mem : t.mem = s.mem := (congrArg State.mem h :)
theorem OnlyHomes.chkXor : t.chkXor = s.chkXor := (congrArg State.chkXor h :)
theorem OnlyHomes.ctls : t.ctls = s.ctls := (congrArg State.ctls h :)
theorem OnlyHomes.innk : t.innk = s.innk := (congrArg State.innk h :)
theorem OnlyHomes.px : t.px = s.px := (congrArg State.px h :)

end

theorem onlyHomes_modHome (n : Nat) (f : Home → Home) (s : State) : OnlyHomes s (modHome n f s) := rfl

theorem OnlyHome.homes {n : Nat} {s t : State} (h : OnlyHome n s t) : OnlyHomes s t := h.1

theorem OnlyHome.refl (n : Nat) (s : State) : OnlyHome n s s := ⟨rfl, fun _ _ => rfl⟩

theorem OnlyHome.trans {n : Nat} {s t u : State} (h : OnlyHome n s t) (k : OnlyHome n t u) : OnlyHome n s u :=
  ⟨h.homes.trans k.homes, fun m hm => (k.2 m hm).trans (h.2 m hm)⟩

-- bookkeeping

/-- A home has done its bookkeeping (its queue, its counts, its list of dead lines): its lines, its directory, its eviction buffer and everything
outside it stand. -/
structure Bookkept (n : Nat) (s t : State) : Prop where
  only : OnlyHome n s t
  lines : (getHome t n).lines = (getHome s n).lines
  dir : (getHome t n).dir = (getHome s n).dir
  evb : (getHome t n).evb = (getHome s n).evb

theorem Bookkept.refl (n : Nat) (s : State) : Bookkept n s s := ⟨.refl n s, rfl, rfl, rfl⟩

theorem Bookkept.trans {n : Nat} {s t u : State} (h : Bookkept n s t) (k : Bookkept n t u) : Bookkept n s u :=
  ⟨h.only.trans k.only, k.lines.trans h.lines, k.dir.trans h.dir, k.evb.trans h.evb⟩

theorem bookkept_modHome {n : Nat} {f : Home → Home} (h : ∀ x, (f x).lines = x.lines ∧ (f x).dir = x.dir ∧ (f x).evb = x.evb) (s : State) :
    Bookkept n s (modHome n f s) := by
  obtain ⟨hl, hd, he⟩ := h (getHome s n)
  refine ⟨onlyHome_modHome n f s, ?_, ?_, ?_⟩ <;> rw [getHome_modHome_self]
  · exact hl
  · exact hd
  · exact he

theorem bookkept_draw (n w : Nat) (s : State) : Bookkept n s (draw w s).2 := ⟨⟨rfl, fun _ _ => rfl⟩, rfl, rfl, rfl⟩

/-- The equation of a request's entry into its slice's queue: the draw taken apart. -/
theorem enterQueue_eq (n l : Nat) (s : State) :
    enterQueue n l s = modHome n (fun h => { h with
      hotLine := if (draw 1 s).1 = 1#1 then { addr := BitVec.ofNat 45 l ++ 0#7 } else h.hotLine }) (draw 1 s).2 := rfl

theorem bookkept_enterQueue (n l : Nat) (s : State) : Bookkept n s (enterQueue n l s) := by
  rw [enterQueue_eq]
  refine (bookkept_draw n 1 s).trans ?_
  apply bookkept_modHome
  exact fun _ => ⟨rfl, rfl, rfl⟩

theorem bookkept_countRad (n l : Nat) (s : State) : Bookkept n s (countRad n l s) := by
  apply bookkept_modHome
  intro h
  split <;> exact ⟨rfl, rfl, rfl⟩

theorem bookkept_countHeavy (n l : Nat) (hit : Bool) (s : State) : Bookkept n s (countHeavy n l hit s) := by
  unfold countHeavy
  dsimp only
  generalize (_ && _) = heavy
  split
  · apply bookkept_modHome
    exact fun _ => ⟨rfl, rfl, rfl⟩
  · exact .refl n s

theorem bookkept_countAccess (n l : Nat) (hit : Bool) (s : State) : Bookkept n s (countAccess n l hit s) := by
  refine (bookkept_countHeavy n l hit s).trans ?_
  apply bookkept_modHome
  exact fun _ => ⟨rfl, rfl, rfl⟩

theorem HoldsAlone.length {s : State} {n l : Nat} {x : Line} (h : HoldsAlone s n l x) : x.sectors.length = 4 := h.2.1

theorem HoldsAlone.of_bookkept {n l : Nat} {s t : State} {x : Line} (h : HoldsAlone s n l x) (hb : Bookkept n s t) : HoldsAlone t n l x := by
  obtain ⟨hline, hlen, hdir, hevb, hpartner⟩ := h
  refine ⟨?_, hlen, ?_, ?_, ?_⟩
  · rw [Home.line, hb.lines]
    exact hline
  · rw [Home.dirOf, hb.dir]
    exact hdir
  · rw [hb.evb]
    exact hevb
  · rw [hb.only.2 _ (otherHalf_ne n)]
    exact hpartner

/-- A run whose rounds over its list all leave a state as it is. -/
theorem forEach_fixed_of_mem {α : Type} {f : α → State → State} {s : State} (xs : List α) (h : ∀ x ∈ xs, f x s = s) : forEach xs f s = s := by
  induction xs with
  | nil => rfl
  | cons x xs ih =>
    rw [forEach, List.foldl_cons, h x (List.mem_cons_self ..)]
    exact ih fun y hy => h y (List.mem_cons_of_mem _ hy)

-- what the parts of a request do where the home holds the line

theorem evbDrainThrough_of_absent {n l : Nat} {s : State} (h : ∀ e ∈ (getHome s n).evb, e.line ≠ l) : evbDrainThrough n l s = s := by
  have hnone : (getHome s n).evb.findIdx? (fun e => e.line == l) = none := by simpa [List.findIdx?_eq_none_iff] using h
  rw [evbDrainThrough, hnone]
  rfl

theorem allocLine_of_held {n l : Nat} {s : State} {x : Line} (h : (getHome s n).line l = some x) : allocLine n l s = s := by
  rw [allocLine, h]

theorem takeBack_of_absent {n l : Nat} {s : State} (h : (getHome s (otherHalf n)).line l = none) : takeBack n l s = s := by
  rw [takeBack, h]

theorem maskValid_iff (mask : BitVec 4) (secs : List Sector) :
    maskValid mask secs = true ↔ ∀ k, k < 4 → mask.getLsbD k = true → (secAt secs k).valid = true := by
  simp [maskValid, Bool.or_eq_true, ← Bool.not_eq_true, imp_iff_not_or]

theorem maskValid_maskBit {k : Nat} {secs : List Sector} (h : (secAt secs k).valid = true) : maskValid (maskBit 4 k) secs = true := by
  refine (maskValid_iff ..).mpr fun j _ hj => ?_
  have hjk : j = k := by
    simp [maskBit] at hj
    omega
  rw [hjk, h]

theorem fillLine_of_valid {r : Requester} {n l : Nat} {rg : Region} {mask : BitVec 4} {s : State} {x : Line}
    (h : (getHome s n).line l = some x) (hv : maskValid mask x.sectors = true) : fillLine r n l rg mask s = s := by
  refine forEach_fixed_of_mem _ fun k hk => ?_
  have hvk := (maskValid_iff ..).mp hv k (List.mem_range.mp hk)
  simp only [h]
  refine if_neg ?_
  simpa using hvk

theorem readHits_of_held {n l : Nat} {mask : BitVec 4} {s : State} {x : Line} (h : (getHome s n).line l = some x) :
    readHits s n l mask = maskValid mask x.sectors := by
  rw [readHits, h]

theorem storeHits_of_alone {n l k : Nat} {whole : Bool} {rg : Region} {s : State} {x : Line} (h : HoldsAlone s n l x)
    (hv : (secAt x.sectors k).valid = true) (hp : rg.policy ≠ 1) : storeHits s n l k whole rg = true := by
  obtain ⟨hline, -, -, hevb, -⟩ := h
  have hany : (getHome s n).evb.any (fun e => e.line == l) = false := by simpa using hevb
  simp [storeHits, hline, hany, hv, hp]

theorem readClear_of_invalid {n l : Nat} {r : Requester} {s : State} (h : (getHome s n).dirOf l = .invalid) : readClear n l r s = (true, s) := by
  rw [readClear, h]

theorem lineClear_of_invalid {store : Bool} {n l : Nat} {r : Requester} {s : State} (h : (getHome s n).dirOf l = .invalid) :
    lineClear store n l r s = (true, s) := by
  rw [lineClear, h]

-- the home's line after a request

/-- A line that is marked used keeps its sectors, its pin, its directory entry and the home's counts. -/
theorem touch_line {n l : Nat} {s : State} {x : Line} (least : Bool) (h : (getHome s n).line l = some x) :
    ∃ y, (getHome (touch n l least s) n).line l = some y ∧ y.sectors = x.sectors ∧ y.pinned = x.pinned := by
  unfold touch
  rw [getHome_modHome_self, h]
  cases least
  · exact ⟨_, (Home.line_setLine ..).trans (if_pos rfl), rfl, rfl⟩
  · exact ⟨_, (Home.line_setLine ..).trans (if_pos rfl), rfl, rfl⟩

theorem touch_rest (n l : Nat) (least : Bool) (s : State) :
    (getHome (touch n l least s) n).run = (getHome s n).run ∧ (getHome (touch n l least s) n).deadList = (getHome s n).deadList := by
  unfold touch
  rw [getHome_modHome_self]
  split
  · split <;> exact ⟨rfl, rfl⟩
  · exact ⟨rfl, rfl⟩

theorem getHome_putSector {n l : Nat} {s : State} {x : Line} (k : Nat) (z : Sector) (h : (getHome s n).line l = some x) :
    getHome (putSector n l k z s) n = (getHome s n).setLine l (some { x with sectors := x.sectors.set k z }) := by
  unfold putSector
  rw [getHome_modHome_self, h]

/-- What a store leaves in a home that has done its bookkeeping: the line with one sector replaced, and the list of dead lines. -/
theorem stored_line {n l k : Nat} {s u : State} {x : Line} (h : HoldsAlone s n l x) (hb : Bookkept n s u) (z : Sector) (least : Bool) :
    ∃ y, OnlyHome n s (touch n l least (putSector n l k z u)) ∧
      (getHome (touch n l least (putSector n l k z u)) n).line l = some y ∧ y.sectors = x.sectors.set k z ∧
      (getHome (touch n l least (putSector n l k z u)) n).deadList = (getHome u n).deadList := by
  obtain ⟨hline, -⟩ := h.of_bookkept hb
  have hput := getHome_putSector k z hline
  have hlp : (getHome (putSector n l k z u) n).line l = some { x with sectors := x.sectors.set k z } := by
    rw [hput, Home.line_setLine, if_pos rfl]
  obtain ⟨y, hy, hsec, -⟩ := touch_line least hlp
  refine ⟨y, (hb.only.trans (onlyHome_modHome ..)).trans (onlyHome_modHome ..), hy, hsec, ?_⟩
  rw [(touch_rest ..).2, hput]
  rfl

/-- The bytes, the poison and the mark of a sector that a store has merged into. -/
theorem Sector.store_fields (x : Sector) (en : BitVec 32) (v : SectorVal) (hv : v.poison = false) :
    (x.store en v true).valid = true ∧ (x.store en v true).dirty = true ∧
    (x.store en v true).poison = (if en = BitVec.allOnes 32 then false else x.poison) ∧
    ∀ b, b < 32 → byteOf (x.store en v true).data b = if en.getLsbD b then byteOf v.data b else byteOf x.data b := by
  refine ⟨rfl, Bool.or_true _, ?_, fun b hb => byteOf_mergeBytes _ _ _ hb⟩
  simp [Sector.store, hv]

-- reads (R202, R231)

theorem run_enterQueue (n l : Nat) (s : State) : (getHome (enterQueue n l s) n).run = (getHome s n).run := by
  rw [enterQueue_eq, getHome_modHome_self]
  rfl

theorem access_countRad (n l : Nat) (s : State) : (getHome (countRad n l s) n).run.access = (getHome s n).run.access := by
  rw [countRad, getHome_modHome_self]
  split <;> rfl

theorem countHeavy_rest (n l : Nat) (hit : Bool) (s : State) :
    (getHome (countHeavy n l hit s) n).run.access = (getHome s n).run.access ∧
    (getHome (countHeavy n l hit s) n).deadList = (getHome s n).deadList := by
  unfold countHeavy
  dsimp only
  generalize (_ && _) = heavy
  split
  · rw [getHome_modHome_self]
    exact ⟨rfl, rfl⟩
  · exact ⟨rfl, rfl⟩

theorem hits_countAccess (n l : Nat) (s : State) :
    (getHome (countAccess n l true s) n).run.access.hits = (getHome s n).run.access.hits + 1#32 := by
  rw [countAccess, getHome_modHome_self, if_pos rfl, (countHeavy_rest ..).1]

theorem deadList_countAccess (n l : Nat) (hit : Bool) (s : State) :
    (getHome (countAccess n l hit s) n).deadList = (getHome s n).deadList := by
  rw [countAccess, getHome_modHome_self]
  exact (countHeavy_rest n l hit s).2

/-- A read that finds its sectors valid: the home does its bookkeeping, counts a hit and marks the line used. -/
theorem homeReadLine_hit {r : Requester} {l : Nat} {mask : BitVec 4} {rg : Region} {s : State} {x : Line} (hb : rg.bypass = false)
    (h : HoldsAlone s (rg.home (l * 128)) l x) (hv : maskValid mask x.sectors = true) :
    ∃ u, Bookkept (rg.home (l * 128)) s u ∧
      (getHome u (rg.home (l * 128))).run.access.hits = (getHome s (rg.home (l * 128))).run.access.hits + 1#32 ∧
      homeReadLine r l mask rg s = (some (x.sectors.map Sector.val), touch (rg.home (l * 128)) l (rg.policy == 3) u) := by
  generalize hn : rg.home (l * 128) = n at h
  have hb1 := bookkept_enterQueue n l s
  have hb2 := hb1.trans (bookkept_countRad n l _)
  have hb3 := hb2.trans (bookkept_countAccess n l true _)
  obtain ⟨hline, -⟩ := id h
  obtain ⟨-, -, hdir1, -⟩ := h.of_bookkept hb1
  obtain ⟨hline2, -⟩ := h.of_bookkept hb2
  obtain ⟨hline3, -⟩ := h.of_bookkept hb3
  obtain ⟨y, hy, hsec, -⟩ := touch_line (rg.policy == 3) hline3
  refine ⟨_, hb3, ?_, ?_⟩
  · rw [hits_countAccess, access_countRad, run_enterQueue]
  · unfold homeReadLine
    simp [hb, hn, readHits_of_held hline, hv, readClear_of_invalid hdir1, hline2, fillLine_of_valid hline3 hv, hy, hsec]

-- writes (R199, R202, R226, R314)

/-- A store to a valid sector of a line that is not under write-through: the home does its bookkeeping, forgets that the line was dead,
merges the bytes into the sector and marks the line used. -/
theorem homeWriteSector_hit {r : Requester} {a : Nat} {en : BitVec 32} {v : SectorVal} {rg : Region} {s : State} {x : Line} (hp : rg.policy ≠ 1)
    (hen : en ≠ 0#32) (h : HoldsAlone s (rg.home a) (lineOf a) x) (hv : (secAt x.sectors (a / 32 % 4)).valid = true) :
    ∃ u, Bookkept (rg.home a) s u ∧ lineOf a ∉ (getHome u (rg.home a)).deadList ∧
      homeWriteSector r a en v rg s = (true, touch (rg.home a) (lineOf a) (rg.policy == 3)
        (putSector (rg.home a) (lineOf a) (a / 32 % 4) ((secAt x.sectors (a / 32 % 4)).store en v true) u)) := by
  generalize hn : rg.home a = n at h
  generalize hl : lineOf a = l at h
  generalize hk : a / 32 % 4 = k at hv
  have hb1 := bookkept_enterQueue n l s
  have hb2 : Bookkept n s (modHome n (fun h => { h with deadList := h.deadList.filter (· != l) }) (enterQueue n l s)) := by
    refine hb1.trans ?_
    apply bookkept_modHome
    exact fun _ => ⟨rfl, rfl, rfl⟩
  have hb3 := hb2.trans (bookkept_countAccess n l true _)
  obtain ⟨-, -, hdir1, hevb1, -⟩ := h.of_bookkept hb1
  obtain ⟨hline2, -⟩ := h.of_bookkept hb2
  obtain ⟨hline3, -⟩ := h.of_bookkept hb3
  refine ⟨_, hb3, ?_, ?_⟩
  · rw [deadList_countAccess, getHome_modHome_self]
    simp
  · unfold homeWriteSector
    by_cases hp0 : rg.policy = 0
    · simp [hn, hl, hk, hen, hp0, hv, storeHits_of_alone h hv hp, writeClear, lineClear_of_invalid hdir1, evbDrainThrough_of_absent hevb1, hline2,
        allocLine_of_held hline3, fillLine_of_valid hline3 (maskValid_maskBit hv), hline3]
    · simp [hn, hl, hk, hen, hp0, hp, hv, storeHits_of_alone h hv hp, writeClear, lineClear_of_invalid hdir1, evbDrainThrough_of_absent hevb1, hline2,
        hline3]

/-- What the homes report of a write changes nothing but the Innkeeper's pigeonholes. -/
theorem reportWord_rest (w : Nat) (wide : Bool) (v : Word) (s : State) : { reportWord w wide v s with innk := s.innk } = s := by
  unfold reportWord
  split
  · rfl
  · dsimp only
    split
    · split
      · unfold sealReport
        dsimp only
        split
        · rfl
        · split
          · rfl
          · split <;> rfl
      · rfl
    · split
      · unfold cqReport
        dsimp only
        split <;> rfl
      · rfl

theorem reportSector_rest (a : Nat) (en : BitVec 32) (d : BitVec 256) (s : State) : { reportSector a en d s with innk := s.innk } = s := by
  refine forEach_keeps (fun t : State => { t with innk := s.innk }) (fun i t => ?_) _ s
  dsimp only
  split
  · rfl
  · exact congrArg (fun u : State => { u with innk := s.innk }) (reportWord_rest ..)

theorem phAt_of_innk {s t : State} (h : t.innk = s.innk) (a : Nat) : phAt t a = phAt s a := by
  unfold phAt
  rw [h]

theorem reportWord_of_noArea {w : Nat} {s : State} (h : phAt s w = none) (wide : Bool) (v : Word) : reportWord w wide v s = s := by
  have hnone : ((usable s w).bind fun _ => phAt s w) = none := by simp [h]
  rw [reportWord, hnone]

theorem reportSector_of_noArea {a : Nat} {s : State} (h : ∀ j, j < 4 → phAt s (a + 8 * j) = none) (en : BitVec 32) (d : BitVec 256) :
    reportSector a en d s = s := by
  refine forEach_fixed_of_mem _ fun j hj => ?_
  dsimp only
  split
  · rfl
  · exact reportWord_of_noArea (h j (List.mem_range.mp hj)) ..

-- atomics (R222, R223)

/-- What one atomic request answers and leaves: each operation works on what those before it left. -/
theorem atRun_eq (op : AtOp) (w : Nat) (cur : BitVec w) (os : List AtOperand) :
    atRun op w cur os = ((List.range os.length).map (fun j => ((os.take j).foldl (atCompute op w) cur).setWidth 64), os.foldl (atCompute op w) cur) := by
  induction os generalizing cur with
  | nil => rfl
  | cons o os ih =>
    rw [atRun, ih, List.length_cons, List.range_succ_eq_map]
    simp

/-- The bytes that an atomic of a width enables in its sector, as bits of the enables. -/
theorem atomicEnables_bit (wide : Bool) (off : Nat) {b : Nat} (hb : b < 32) :
    ((if wide then 0xFF#32 else 0xF#32) <<< off : BitVec 32).getLsbD b = decide (off ≤ b ∧ b < off + (if wide then 64 else 32) / 8) := by
  have hlow : ∀ i, i < 32 → (if wide then 0xFF#32 else 0xF#32).getLsbD i = decide (i < (if wide then 64 else 32) / 8) := by
    cases wide <;> decide
  rw [BitVec.getLsbD_shiftLeft, hlow _ (by omega), Bool.eq_iff_iff]
  simp [hb]
  omega

theorem atomicEnables_ne_allOnes (wide : Bool) (off : Nat) : ((if wide then 0xFF#32 else 0xF#32) <<< off : BitVec 32) ≠ BitVec.allOnes 32 := by
  intro h
  have h0 := atomicEnables_bit wide off (b := 0) (by decide)
  have h31 := atomicEnables_bit wide off (b := 31) (by decide)
  rw [h] at h0 h31
  cases wide <;> simp at h0 h31 <;> omega

/-- The bytes of a word that is placed at an offset in its sector. -/
theorem byteOf_placed {w : Nat} (f : BitVec w) {off b : Nat} (hlo : off ≤ b) (hb : b < 32) :
    byteOf ((f.setWidth 256) <<< (8 * off)) b = byteOf f (b - off) := by
  apply BitVec.eq_of_getLsbD_eq
  intro i hi
  have e : 8 * b + i - 8 * off = 8 * (b - off) + i := by omega
  have h1 : 8 * b + i < 256 := by omega
  have h2 : ¬ 8 * b + i < 8 * off := by omega
  simp [byteOf, hi, h1, h2, e]

/-- What a home notes of an atomic request of some operations (R214, R231). -/
def Home.noteAtomic (l k : Nat) : Home → Home := fun h => { h with
  deadList := h.deadList.filter (· != l)
  run := { h.run with atom := { reqs := h.run.atom.reqs + 1#32, operands := h.run.atom.operands + BitVec.ofNat 32 k } } }

/-- An atomic on a valid sector of a line that is not under write-through: the home does its bookkeeping, puts the last value into the sector
and marks the line used. -/
theorem homeAtomicOp_hit {r : Requester} {op : AtOp} {wide : Bool} {a : Nat} {os : List AtOperand} {rg : Region} {s : State} {x : Line}
    (hp : rg.policy ≠ 1) (h : HoldsAlone s (rg.home a) (lineOf a) x) (hv : (secAt x.sectors (a / 32 % 4)).valid = true) :
    let w := if wide then 64 else 32
    let z := secAt x.sectors (a / 32 % 4)
    let cur : BitVec w := z.data.extractLsb' (8 * (a % 32)) w
    let f := os.foldl (atCompute op w) cur
    ∃ u, Bookkept (rg.home a) s u ∧ homeAtomicOp r op wide a os rg s =
      (some ((List.range os.length).map (fun j => ((os.take j).foldl (atCompute op w) cur).setWidth 64), z.poison),
       touch (rg.home a) (lineOf a) (decide (2 ≤ rg.policy)) (putSector (rg.home a) (lineOf a) (a / 32 % 4)
        (z.store ((if wide then 0xFF#32 else 0xF#32) <<< (a % 32)) { data := (f.setWidth 256) <<< (8 * (a % 32)) } true) u)) := by
  intro w z cur f
  generalize hn : rg.home a = n at h
  generalize hl : lineOf a = l at h
  have hb1 := bookkept_enterQueue n l s
  have hb2 := (hb1.trans (bookkept_countAccess n l true _)).trans (bookkept_countRad n l _)
  obtain ⟨hline1, -, hdir1, hevb1, hpartner1⟩ := h.of_bookkept hb1
  have hb3 : Bookkept n s (modHome n (Home.noteAtomic l os.length) (countRad n l (countAccess n l true (enterQueue n l s)))) :=
    hb2.trans (bookkept_modHome (f := Home.noteAtomic l os.length) (fun _ => ⟨rfl, rfl, rfl⟩) _)
  unfold Home.noteAtomic at hb3
  obtain ⟨hline3, -⟩ := h.of_bookkept hb3
  have hdirty : (rg.policy != 1) = true := by simpa using hp
  refine ⟨_, hb3, ?_⟩
  unfold homeAtomicOp
  simp [hn, hl, hv, hp, hdirty, storeHits_of_alone h hv hp, lineClear_of_invalid hdir1, evbDrainThrough_of_absent hevb1, takeBack_of_absent hpartner1, hline1,
    allocLine_of_held hline3, fillLine_of_valid hline3 (maskValid_maskBit hv), hline3, atRun_eq, w, z, cur, f]

-- the rows (R199, R203, R317)

theorem exec_homeRead {r : Requester} {addr : Nat} {mask : BitVec 4} {s : State} {rg : Region} (hr : reachesHomes s r = true)
    (hu : usable s addr = some rg) (hpx : ∀ d, r ≠ .px d) :
    exec (.homeRead r addr mask) s = .next (homeReadLine r (lineOf addr) mask rg s).2 := by
  change Host.Outcome.next (doHomeRead r addr mask s) = _
  unfold doHomeRead
  rw [if_pos hr, hu]
  cases r with
  | px d => exact absurd rfl (hpx d)
  | _ => rfl

theorem exec_homeWrite_refused {r : Requester} {addr : Nat} {en : BitVec 32} {d : BitVec 256} {s : State} {rg : Region}
    (hu : usable s addr = some rg) (h : rg.ro = true ∨ mayWrite s r addr = false) : exec (.homeWrite r addr en d) s = .next s := by
  have hno : (rg.ro || !mayWrite s r addr) = true := by simpa using h
  change Host.Outcome.next (doHomeWrite r addr en d s) = _
  unfold doHomeWrite
  split
  next => rfl
  next g hg =>
    obtain ⟨-, rfl⟩ : reachesHomes s r = true ∧ rg = g := by simpa [hu] using hg
    rw [if_pos hno]

theorem exec_homeWrite {r : Requester} {addr : Nat} {en : BitVec 32} {d : BitVec 256} {s t : State} {rg : Region} (hr : reachesHomes s r = true)
    (hu : usable s addr = some rg) (hro : rg.ro = false) (hm : mayWrite s r addr = true) (hv : isVoided s r (lineOf addr) = false)
    (ht : homeWriteSector r (addr / 32 * 32) en { data := d } rg s = (true, t)) :
    exec (.homeWrite r addr en d) s = .next (reportSector (addr / 32 * 32) en d t) := by
  change Host.Outcome.next (doHomeWrite r addr en d s) = _
  simp [doHomeWrite, hr, hu, hro, hm, hv, ht]

theorem exec_homeAtomic {r : Requester} {op : AtOp} {wide : Bool} {addr : Nat} {os : List AtOperand} {s : State} {rg : Region}
    (hr : reachesHomes s r = true) (hu : usable s addr = some rg) (hro : rg.ro = false) (hm : mayWrite s r addr = true)
    (ha : addr % (if wide then 8 else 4) = 0) (hop : wide = true → op ≠ .fadd32) :
    exec (.homeAtomic r op wide addr os) s = .next (homeAtomicOp r op wide addr os rg s).2 := by
  have hfit : (wide && op == .fadd32) = false := by simpa using hop
  change Host.Outcome.next (doHomeAtomic r op wide addr os s) = _
  simp [doHomeAtomic, hr, hu, hro, hm, ha, hfit]

/-- Settles O22: a request that finds its sector in a line held alone is the home's bookkeeping and one update of that line. -/
theorem homeHits : Obligations.HomeHits := by
  unfold Obligations.HomeHits
  refine ⟨fun r addr mask s rg x hr hu hb hpx h hmask => ?read,
    fun r addr en d s rg hu => ⟨exec_homeWrite_refused hu, fun x hr hro hm hvoid hp hen h hv => ?write⟩,
    fun r op wide addr os s rg x => ?atomic⟩
  case read =>
    obtain ⟨u, hbook, hhits, heq⟩ := homeReadLine_hit (r := r) hb h ((maskValid_iff ..).mpr hmask)
    obtain ⟨hline, -⟩ := h.of_bookkept hbook
    obtain ⟨y, hy, hsec, hpin⟩ := touch_line (rg.policy == 3) hline
    rw [exec_homeRead hr hu hpx, heq]
    refine ⟨_, y, rfl, hbook.only.trans (onlyHome_modHome ..), rfl, hy, hsec, hpin, ?_⟩
    rw [(touch_rest ..).1, hhits]
  case write =>
    have hk : addr / 32 * 32 / 32 % 4 < x.sectors.length := by
      rw [h.length]
      omega
    obtain ⟨u, hbook, hdead, heq⟩ := homeWriteSector_hit (r := r) (v := { data := d }) hp hen h hv
    obtain ⟨y, honly, hline, hsec, hlist⟩ := stored_line h hbook
      ((secAt x.sectors (addr / 32 * 32 / 32 % 4)).store en { data := d } true) (rg.policy == 3)
    generalize htu : touch _ _ _ _ = t at heq honly hline hlist
    have hinnk : t.innk = s.innk := honly.homes.innk
    have hrest := reportSector_rest (addr / 32 * 32) en d t
    rw [hinnk] at hrest
    have hhome : ∀ m, getHome (reportSector (addr / 32 * 32) en d t) m = getHome t m := fun m =>
      (congrArg (fun v : State => getHome v m) hrest :)
    obtain ⟨fvalid, fdirty, fpoison, fbytes⟩ := Sector.store_fields (secAt x.sectors (addr / 32 * 32 / 32 % 4)) en { data := d } rfl
    refine ⟨_, y, exec_homeWrite hr hu hro hm hvoid heq, ?_, fun hno => ?_, ?_, fun j hj => ?_, ?_, ?_, ?_, fun b hb => ?_, ?_⟩
    · rw [hrest]
      exact honly
    · rw [reportSector_of_noArea fun j hj => (phAt_of_innk hinnk _).trans (hno j hj)]
      exact hinnk
    · rw [hhome]
      exact hline
    · rw [hsec, secAt_set_ne _ hj]
    · rw [hsec, secAt_set_self hk, fvalid]
    · rw [hsec, secAt_set_self hk, fdirty]
    · rw [hsec, secAt_set_self hk, fpoison]
    · rw [hsec, secAt_set_self hk, fbytes b hb]
    · rw [hhome, hlist]
      exact hdead
  case atomic =>
    intro w n l k hr hu hro hm hp ha hop h hv cur
    have hk : k < x.sectors.length := by
      rw [h.length]
      omega
    obtain ⟨u, hbook, heq⟩ := homeAtomicOp_hit (r := r) (op := op) (wide := wide) (os := os) hp h hv
    obtain ⟨y, honly, hline, hsec, -⟩ := stored_line h hbook ((secAt x.sectors k).store ((if wide then 0xFF#32 else 0xF#32) <<< (addr % 32))
      { data := ((os.foldl (atCompute op w) cur).setWidth 256) <<< (8 * (addr % 32)) } true) (decide (2 ≤ rg.policy))
    obtain ⟨-, fdirty, fpoison, fbytes⟩ := Sector.store_fields (secAt x.sectors k) ((if wide then 0xFF#32 else 0xF#32) <<< (addr % 32))
      { data := ((os.foldl (atCompute op w) cur).setWidth 256) <<< (8 * (addr % 32)) } rfl
    rw [exec_homeAtomic hr hu hro hm ha hop, heq]
    refine ⟨_, y, rfl, honly, rfl, hline, fun j hj => ?_, ?_, ?_, fun b hb => ?_⟩
    · rw [hsec, secAt_set_ne _ hj]
    · rw [hsec, secAt_set_self hk, fdirty]
    · rw [hsec, secAt_set_self hk, fpoison, if_neg (atomicEnables_ne_allOnes wide (addr % 32))]
    · rw [hsec, secAt_set_self hk, fbytes b hb, atomicEnables_bit wide _ hb]
      by_cases hin : addr % 32 ≤ b ∧ b < addr % 32 + w / 8
      · rw [if_pos hin, if_pos (decide_eq_true hin), byteOf_placed _ hin.1 hb]
      · rw [if_neg hin, if_neg (by simpa [w] using hin)]

end Sys2Proof.Machine
end

section
/-! PROOFS. Dead hints (R212 to R214, R219, R226; O23): what a hint does to the partner's copy, to the buffered sectors and to the line, each as an
update of the home, and the two equations of a hint, honoured and ignored. -/

namespace Sys2Proof.Machine

-- the partner's copy (R206)

theorem onlyHomes_dropForeign (n l : Nat) (s : State) : OnlyHomes s (dropForeign n l s) := by
  unfold dropForeign
  split
  · exact (onlyHomes_modHome ..).trans (onlyHomes_modHome ..)
  · rfl

theorem dropForeign_of_noPartner {n l : Nat} {s : State} (h : ∀ a b, (getHome s n).dirOf l ≠ .shared a b true) : dropForeign n l s = s := by
  unfold dropForeign
  split
  next a b hd => exact absurd hd (h a b)
  next => rfl

theorem dropForeign_of_invalid {n l : Nat} {s : State} (h : (getHome s n).dirOf l = .invalid) : dropForeign n l s = s :=
  dropForeign_of_noPartner fun a b => by rw [h]; nofun

theorem getHome_dropForeign_of_partner {n l : Nat} {s : State} {a b : Bool} (h : (getHome s n).dirOf l = .shared a b true) :
    getHome (dropForeign n l s) n = (getHome s n).setDir l (Dir.norm (.shared a b false)) := by
  unfold dropForeign
  rw [h]
  dsimp only
  rw [getHome_modHome_self, getHome_modHome_ne (otherHalf_ne n).symm]

/-- The home itself changes its directory alone when the partner's copy is dropped. -/
theorem getHome_dropForeign (n l : Nat) (s : State) : ∃ d, getHome (dropForeign n l s) n = { getHome s n with dir := d } := by
  by_cases h : ∃ a b, (getHome s n).dirOf l = .shared a b true
  · obtain ⟨a, b, h⟩ := h
    exact ⟨_, getHome_dropForeign_of_partner h⟩
  · rw [dropForeign_of_noPartner fun a b hd => h ⟨a, b, hd⟩]
    exact ⟨_, rfl⟩

theorem getHome_enterQueue (n l : Nat) (s : State) : ∃ q, getHome (enterQueue n l s) n = { getHome s n with hotLine := q } := by
  rw [enterQueue_eq, getHome_modHome_self]
  exact ⟨_, rfl⟩

theorem dirOf_enterQueue (n l : Nat) (s : State) (m : Nat) : (getHome (enterQueue n l s) n).dirOf m = (getHome s n).dirOf m := by
  rw [Home.dirOf, (bookkept_enterQueue n l s).dir]
  rfl

/-- A hint has reached its home and the partner's copy is gone: the home's lines, its eviction buffer, its list of dead lines and its counts
stand. -/
theorem getHome_hintTaken {n l : Nat} {s : State} {h : Home} (hh : getHome (dropForeign n l (enterQueue n l s)) n = h) :
    h.lines = (getHome s n).lines ∧ h.evb = (getHome s n).evb ∧ h.deadList = (getHome s n).deadList ∧ h.run = (getHome s n).run := by
  obtain ⟨d, hd⟩ := getHome_dropForeign n l (enterQueue n l s)
  obtain ⟨q, hq⟩ := getHome_enterQueue n l s
  rw [← hh, hd, hq]
  exact ⟨rfl, rfl, rfl, rfl⟩

-- buffered sectors and the line (R212, R213)

/-- A line's buffered sectors are dropped, but for those whose poison memory does not hold. -/
def Home.dropBuffered (l : Nat) : Home → Home := fun h => { h with
  evb := (h.evb.map (fun e => if e.line = l then { e with sectors := deadRest e.sectors } else e)).filter (fun e =>
    e.line != l || !nothingLeft e.sectors) }

/-- A line that is present is dropped in the same way; the hint is listed and counted. -/
def Home.dropLine (l : Nat) : Home → Home := fun h =>
  match h.line l with
  | none => h
  | some x => { h.setLine l (if x.pinned || !nothingLeft (deadRest x.sectors) then some { x with sectors := deadRest x.sectors } else none) with
      deadList := (l :: h.deadList).take 64
      run := { h.run with dead := { h.run.dead with hints := h.run.dead.hints + 1#32 } } }

/-- A hint that is ignored is counted. -/
def Home.ignoreHint : Home → Home := fun h => { h with run := { h.run with dead := { h.run.dead with ignored := satInc h.run.dead.ignored } } }

theorem deadRest_left {secs : List Sector} {z : Sector} (hz : z ∈ deadRest secs) (hv : z.valid = true) : z.dirty = true ∧ z.poison = true := by
  obtain ⟨x, -, rfl⟩ := List.mem_map.mp hz
  split at hv
  next h =>
    rw [if_pos h]
    simp only [Bool.and_eq_true] at h
    obtain ⟨⟨-, hdirty⟩, hpoison⟩ := h
    exact ⟨hdirty, hpoison⟩
  next => cases hv

theorem dropBuffered_left {l : Nat} {h : Home} {e : EvbLine} (he : e ∈ (h.dropBuffered l).evb) (hl : e.line = l) :
    ∀ z ∈ e.sectors, z.valid = true → z.dirty = true ∧ z.poison = true := by
  obtain ⟨x, -, rfl⟩ := List.mem_map.mp (List.mem_filter.mp he).1
  split at hl
  next hx =>
    rw [if_pos hx]
    exact fun z hz hv => deadRest_left hz hv
  next hx => exact absurd hl hx

theorem dropBuffered_others (l : Nat) (h : Home) : (h.dropBuffered l).evb.filter (fun e => e.line != l) = h.evb.filter (fun e => e.line != l) := by
  unfold Home.dropBuffered
  induction h.evb with
  | nil => rfl
  | cons e es ih =>
    dsimp only at ih ⊢
    by_cases he : e.line = l
    · by_cases hz : nothingLeft (deadRest e.sectors) <;> simpa [he, hz] using ih
    · simpa [he] using ih

theorem line_dropLine_self (l : Nat) (h : Home) : (h.dropLine l).line l = (h.line l).bind (fun x =>
    if x.pinned || !nothingLeft (deadRest x.sectors) then some { x with sectors := deadRest x.sectors } else none) := by
  unfold Home.dropLine
  split
  next hx => rw [hx]; rfl
  next x hx =>
    rw [hx]
    exact (Home.line_setLine ..).trans (if_pos rfl)

theorem line_dropLine_ne {l m : Nat} (hm : m ≠ l) (h : Home) : (h.dropLine l).line m = h.line m := by
  unfold Home.dropLine
  split
  · rfl
  · exact (Home.line_setLine ..).trans (if_neg hm)

theorem dropLine_present {l : Nat} {h : Home} (hl : h.line l ≠ none) :
    (h.dropLine l).deadList = (l :: h.deadList).take 64 ∧ (h.dropLine l).run.dead.hints = h.run.dead.hints + 1#32 := by
  unfold Home.dropLine
  split
  next hx => exact absurd hx hl
  next => exact ⟨rfl, rfl⟩

theorem dropLine_absent {l : Nat} {h : Home} (hl : h.line l = none) : h.dropLine l = h := by
  rw [Home.dropLine, hl]

theorem dropLine_evb (l : Nat) (h : Home) : (h.dropLine l).evb = h.evb ∧ (h.dropLine l).dir = h.dir := by
  unfold Home.dropLine
  split <;> exact ⟨rfl, rfl⟩

-- the two equations of a hint

/-- A hint to a writable line that no processor cache holds. -/
theorem homeDead_honoured {l : Nat} {rg : Region} {s : State} (hro : rg.ro = false)
    (h : (getHome s (rg.home (l * 128))).dirOf l = .invalid ∨ (getHome s (rg.home (l * 128))).dirOf l = .shared false false true) :
    homeDead l rg s = modHome (rg.home (l * 128)) (Home.dropLine l) (modHome (rg.home (l * 128)) (Home.dropBuffered l)
      (dropForeign (rg.home (l * 128)) l (enterQueue (rg.home (l * 128)) l s))) := by
  unfold homeDead
  obtain h | h := h <;> simp only [dirOf_enterQueue, h, hro, Bool.or_self, Bool.false_eq_true, if_false] <;> rfl

/-- A hint to a read-only region, or to a line that a processor cache holds. -/
theorem homeDead_ignored {l : Nat} {rg : Region} {s : State} (h : rg.ro = true ∨ (∃ d, (getHome s (rg.home (l * 128))).dirOf l = .owned d) ∨
      (∃ a b f, (getHome s (rg.home (l * 128))).dirOf l = .shared a b f ∧ (a || b) = true)) :
    homeDead l rg s = modHome (rg.home (l * 128)) Home.ignoreHint
      (if rg.ro then enterQueue (rg.home (l * 128)) l s else dropForeign (rg.home (l * 128)) l (enterQueue (rg.home (l * 128)) l s)) := by
  unfold homeDead
  obtain h | ⟨d, h⟩ | ⟨a, b, f, h, hab⟩ := h
  · simp only [h, Bool.or_true, if_true]
    rfl
  · simp only [dirOf_enterQueue, h, Bool.true_or, if_true]
    rfl
  · simp only [dirOf_enterQueue, h, hab, Bool.true_or, if_true]
    rfl

theorem exec_homeDeadHint {r : Requester} {addr : Nat} {s : State} {rg : Region} (hu : usable s addr = some rg) :
    exec (.homeDeadHint r addr) s = .next (homeDead (lineOf addr) rg s) := by
  change Host.Outcome.next (doHomeDead addr s) = _
  rw [doHomeDead, hu]

/-- Settles O23: a hint is honoured by dropping the partner's copy, the buffered sectors and the line, and ignored by a count. -/
theorem homeDeadHints : Obligations.DeadHints := by
  unfold Obligations.DeadHints
  intro r addr s rg hu n l
  rw [exec_homeDeadHint hu]
  have hqueue := (bookkept_enterQueue n l s).only
  have hqdir := dirOf_enterQueue n l s l
  have hrest : OnlyHomes s (dropForeign n l (enterQueue n l s)) := hqueue.homes.trans (onlyHomes_dropForeign ..)
  generalize hh : getHome (dropForeign n l (enterQueue n l s)) n = h
  obtain ⟨hlines, hevb, hlist, hrun⟩ := getHome_hintTaken hh
  refine ⟨fun hro hdir => ?honoured, fun hno => ?ignored⟩
  case honoured =>
    have hline : ∀ m, h.line m = (getHome s n).line m := fun m => congrArg (tabGet none · m) hlines
    rw [homeDead_honoured hro hdir]
    have hall := (hrest.trans (onlyHomes_modHome n (Home.dropBuffered l) _)).trans (onlyHomes_modHome n (Home.dropLine l) _)
    refine ⟨_, rfl, hall.mem, hall.chkXor, hall.ctls, ?_, fun hinv => ?_, ?_⟩
    · rw [getHome_modHome_self, getHome_modHome_self, Home.dirOf, (dropLine_evb ..).2]
      change (getHome (dropForeign n l (enterQueue n l s)) n).dirOf l = .invalid
      obtain hdir | hdir := hdir
      · rw [dropForeign_of_invalid (hqdir.trans hdir), hqdir, hdir]
      · rw [getHome_dropForeign_of_partner (hqdir.trans hdir), Home.dirOf_setDir, if_pos rfl]
        rfl
    · rw [dropForeign_of_invalid (hqdir.trans hinv)]
      exact (hqueue.trans (onlyHome_modHome ..)).trans (onlyHome_modHome ..)
    · rw [getHome_modHome_self, getHome_modHome_self, hh, (dropLine_evb ..).1, ← hline l, ← hevb, ← hlist, ← hrun]
      refine ⟨line_dropLine_self .., fun m hm => (line_dropLine_ne hm _).trans (hline m), fun e he hl => dropBuffered_left he hl,
        dropBuffered_others .., fun hl => dropLine_present hl, fun hl => ?_⟩
      rw [dropLine_absent (h := Home.dropBuffered l h) hl]
      exact ⟨rfl, rfl⟩
  case ignored =>
    rw [homeDead_ignored hno]
    cases hro : rg.ro with
    | true =>
      rw [if_pos rfl]
      obtain ⟨q, hheard⟩ := getHome_enterQueue n l s
      have hall := hqueue.homes.trans (onlyHomes_modHome n Home.ignoreHint _)
      refine ⟨_, rfl, hall.mem, hall.ctls, ?_⟩
      rw [getHome_modHome_self, hheard]
      exact ⟨rfl, rfl, rfl, rfl, nofun⟩
    | false =>
      rw [if_neg Bool.false_ne_true]
      have hall := hrest.trans (onlyHomes_modHome n Home.ignoreHint _)
      refine ⟨_, rfl, hall.mem, hall.ctls, ?_⟩
      rw [getHome_modHome_self, hh]
      refine ⟨hlines, hevb, by rw [← hrun]; rfl, hlist, fun a b _ hdir => ?_⟩
      change h.dirOf l = _
      rw [← hh, getHome_dropForeign_of_partner (hqdir.trans hdir), Home.dirOf_setDir, if_pos rfl]
      have hab : (a || b) = true := by
        obtain hro' | ⟨e, howned⟩ | ⟨a', b', f, hshared, hab⟩ := hno
        · exact absurd hro' (by rw [hro]; decide)
        · cases hdir.symm.trans howned
        · cases hdir.symm.trans hshared
          exact hab
      revert hab
      cases a <;> cases b <;> decide

end Sys2Proof.Machine
end

section
/-! PROOFS. The eviction buffer, the answers of processor caches and the timeout of a snoop (R205, R219, R225, R226; O24). -/

namespace Sys2Proof.Machine

-- the eviction buffer (R205)

/-- No sector of a list is picked: nothing is written to memory. -/
theorem writeSectors_of_none {l : Nat} {secs : List Sector} {pick : Nat → Sector → Bool} {s : State} (h : ∀ k, pick k (secAt secs k) = false) :
    writeSectors l secs pick s = s := by
  unfold writeSectors
  split
  · rfl
  · refine forEach_fixed (fun k => ?_) _
    dsimp only
    rw [h k, if_neg Bool.false_ne_true]

theorem secAt_mem_or_empty (secs : List Sector) (k : Nat) : secAt secs k ∈ secs ∨ secAt secs k = {} := by
  unfold secAt
  rw [List.getD_eq_getElem?_getD]
  cases h : secs[k]? with
  | none => exact .inr rfl
  | some x => exact .inl (List.mem_of_getElem? h)

theorem exec_evictionWriteback {n : Nat} {s : State} {e : EvbLine} {rest : List EvbLine} (hl : halfLive s n = true)
    (he : (getHome s n).evb = e :: rest) (hw : ∀ rg, regionAt s (e.line * 128) = some rg → memWaits s rg e.line true = false) :
    exec (.evictionWriteback n) s = .next (modHome n
      (fun h => { h with evb := rest, run := { h.run with evb := { h.run.evb with writebacks := h.run.evb.writebacks + 1#32 } } })
      (writeSectors e.line e.sectors (fun _ x => x.valid && x.dirty) s)) := by
  change Host.Outcome.next (doWriteback n s) = _
  congr 1
  unfold doWriteback evbDrain
  cases hr : regionAt s (e.line * 128) with
  | none => simp only [he, hl, hr, Bool.not_false, Bool.and_self, if_true]
  | some rg => simp only [he, hl, hr, hw rg hr, Bool.not_false, Bool.and_self, if_true]

-- processor caches (R218, R219)

theorem getPx_modPx (d e : Nat) (f : PxDie → PxDie) (s : State) : getPx (modPx d f s) e = if e = d then f (getPx s d) else getPx s e :=
  tabGet_tabSet ..

theorem PxDie.cache_lose (out : Nat → Bool) (p : PxDie) : (PxDie.lose out p).cache = p.cache := rfl

theorem getPx_setPxLine_self (d l : Nat) (v : Option PxLine) (s : State) : (getPx (setPxLine d l v s) d).line l = v := by
  unfold setPxLine pxDrop
  cases v <;> simp [getPx_modPx, PxDie.cache_lose, PxDie.line]

/-- What a die cache drops stays dropped, whichever die drops it next. -/
theorem getPx_setPxLine_none (d e l : Nat) (s : State) (h : (getPx s e).line l = none) : (getPx (setPxLine d l none s) e).line l = none := by
  by_cases hed : e = d
  · rw [hed, getPx_setPxLine_self]
  · unfold setPxLine pxDrop
    rw [if_neg (by decide), getPx_modPx, if_neg hed, h]

theorem setPxLine_rest (d l : Nat) (v : Option PxLine) (s : State) : { setPxLine d l v s with px := s.px } = s := by
  unfold setPxLine pxDrop
  split <;> rfl

theorem getHome_setPxLine (d l : Nat) (v : Option PxLine) (s : State) (n : Nat) : getHome (setPxLine d l v s) n = getHome s n :=
  (congrArg (fun t : State => getHome t n) (setPxLine_rest d l v s) :)

-- pins (R209)

theorem settlePins_of_nil {n : Nat} {s : State} (h : (getHome s n).pinWait = []) : settlePins n s = s := by
  unfold settlePins
  rw [h]
  rfl

-- the contents of one line of a home

/-- Nothing but the contents of one line of a home has changed. -/
structure OnlyLine (n l : Nat) (s t : State) : Prop where
  only : OnlyHome n s t
  home : ∃ ls, getHome t n = { getHome s n with lines := ls }
  others : ∀ m, m ≠ l → (getHome t n).line m = (getHome s n).line m

theorem OnlyLine.refl (n l : Nat) (s : State) : OnlyLine n l s s := ⟨.refl n s, ⟨_, rfl⟩, fun _ _ => rfl⟩

theorem OnlyLine.trans {n l : Nat} {s t u : State} (h : OnlyLine n l s t) (k : OnlyLine n l t u) : OnlyLine n l s u := by
  obtain ⟨xs, hx⟩ := h.home
  obtain ⟨ys, hy⟩ := k.home
  exact ⟨h.only.trans k.only, ⟨ys, by rw [hy, hx]⟩, fun m hm => (k.others m hm).trans (h.others m hm)⟩

theorem onlyLine_putSector (n l k : Nat) (x : Sector) (s : State) : OnlyLine n l s (putSector n l k x s) := by
  unfold putSector
  refine ⟨onlyHome_modHome .., ?_, fun m hm => ?_⟩
  · rw [getHome_modHome_self]
    split <;> exact ⟨_, rfl⟩
  · rw [getHome_modHome_self]
    split
    · exact (Home.line_setLine ..).trans (if_neg hm)
    · rfl

/-- Some sectors of a held line are replaced, one after the other. -/
theorem forEach_putSector {n l : Nat} (pick : Nat → Bool) (f : Nat → Sector) (ks : List Nat) (hk : ∀ k ∈ ks, k < 4) {s : State} {z : Line}
    (hz : (getHome s n).line l = some z) (hlen : z.sectors.length = 4) :
    ∃ y, OnlyLine n l s (forEach ks (fun k t => if pick k then putSector n l k (f k) t else t) s) ∧
      (getHome (forEach ks (fun k t => if pick k then putSector n l k (f k) t else t) s) n).line l = some y ∧
      ∀ j, secAt y.sectors j = if j ∈ ks ∧ pick j = true then f j else secAt z.sectors j := by
  induction ks generalizing s z with
  | nil => exact ⟨z, .refl n l s, hz, fun j => by simp⟩
  | cons k ks ih =>
    have hks : ∀ i ∈ ks, i < 4 := fun i hi => hk i (List.mem_cons_of_mem _ hi)
    rw [forEach, List.foldl_cons, ← forEach]
    by_cases hp : pick k = true
    · rw [if_pos hp]
      have hput : (getHome (putSector n l k (f k) s) n).line l = some { z with sectors := z.sectors.set k (f k) } := by
        rw [getHome_putSector k (f k) hz, Home.line_setLine, if_pos rfl]
      obtain ⟨y, honly, hy, hsec⟩ := ih hks hput (by simpa using hlen)
      refine ⟨y, (onlyLine_putSector ..).trans honly, hy, fun j => ?_⟩
      have hkl : k < z.sectors.length := by
        rw [hlen]
        exact hk k (List.mem_cons_self ..)
      rw [hsec]
      by_cases hj : j = k
      · subst hj
        simp [hp, secAt_set_self hkl]
      · simp [hj, secAt_set_ne _ hj]
    · rw [if_neg hp]
      obtain ⟨y, honly, hy, hsec⟩ := ih hks hz hlen
      refine ⟨y, honly, hy, fun j => ?_⟩
      rw [hsec]
      by_cases hj : j = k
      · subst hj
        simp [hp]
      · simp [hj]

/-- What an owner supplies goes into a line that its home holds, outside write-through: its modified sectors replace the home's (R219). -/
theorem pxSupply_held {n l : Nat} {secs : List Sector} {s : State} {rg : Region} {z : Line} (hr : regionAt s (l * 128) = some rg)
    (hp : rg.policy ≠ 1) (hz : (getHome s n).line l = some z) (hlen : z.sectors.length = 4) (he : ∀ e ∈ (getHome s n).evb, e.line ≠ l) :
    ∃ y, OnlyLine n l s (pxSupply n l secs s) ∧ (getHome (pxSupply n l secs s) n).line l = some y ∧
      ∀ k, k < 4 → secAt y.sectors k = if (secAt secs k).valid && (secAt secs k).dirty then secAt secs k else secAt z.sectors k := by
  unfold pxSupply
  simp only [hr]
  by_cases hany : secs.any (fun x => x.valid && x.dirty) = true
  · obtain ⟨y, honly, hy, hsec⟩ := forEach_putSector (fun k => (secAt secs k).valid && (secAt secs k).dirty)
      (fun k => { secAt secs k with dirty := true }) (List.range 4) (fun k => List.mem_range.mp) hz hlen
    have hdirty : (rg.policy != 1) = true := by simpa using hp
    simp only [hany, if_true, evbDrainThrough_of_absent he, allocLine_of_held hz, hdirty, if_neg hp]
    refine ⟨y, honly, hy, fun k hk => ?_⟩
    rw [hsec]
    by_cases hd : ((secAt secs k).valid && (secAt secs k).dirty) = true
    · rw [if_pos ⟨List.mem_range.mpr hk, hd⟩, if_pos hd, ← (Bool.and_eq_true_iff.mp hd).2]
    · rw [if_neg fun h => hd h.2, if_neg hd]
  · rw [if_neg hany]
    refine ⟨z, .refl n l s, hz, fun k _ => ?_⟩
    obtain hmem | hempty := secAt_mem_or_empty secs k
    · rw [if_neg fun hd => hany (List.any_eq_true.mpr ⟨_, hmem, hd⟩)]
    · rw [hempty]
      rfl

-- the answer to a snoop (R219)

/-- A snoop to one die for a line is over. -/
def Home.dropSnoop (l d : Nat) : Home → Home := fun h => { h with snoops := h.snoops.filter (fun x => !(x.line == l && x.die == d)) }

/-- The directory follows a die that gives its copy up, or keeps it shared. -/
def Home.answerDir (l d : Nat) (keep : Bool) : Home → Home := fun h =>
  h.setDir l (if keep then Dir.addPx d false (Dir.dropPx d (h.dirOf l)) else Dir.dropPx d (h.dirOf l))

theorem dirOf_answerDir (l d : Nat) (keep : Bool) (h : Home) : (h.answerDir l d keep).dirOf l =
    if keep then Dir.addPx d false (Dir.dropPx d (h.dirOf l)) else Dir.dropPx d (h.dirOf l) :=
  (Home.dirOf_setDir ..).trans (if_pos rfl)

/-- What a die keeps of a line after its answer. -/
def PxLine.answered (keep : Bool) (x : PxLine) : Option PxLine :=
  if keep then some { sectors := x.sectors.map (fun y => { y with dirty := false }), owned := false } else none

/-- An answer that finds its snoop: the owner's modified sectors reach the home, the die's copy and the directory follow. -/
theorem exec_snoopAnswer {n l d : Nat} {s u : State} {sn : Snoop} {x : PxLine}
    (hsn : (getHome s n).snoops.find? (fun y => y.line == l && y.die == d) = some sn) (hx : (getPx s d).line l = some x)
    (hu : (if x.owned then pxSupply n l x.sectors (modHome n (Home.dropSnoop l d) s) else modHome n (Home.dropSnoop l d) s) = u)
    (hpx : u.px = s.px) (hpin : (getHome u n).pinWait = []) :
    exec (.snoopAnswer n l d) s =
      .next (modHome n (Home.answerDir l d (sn.kind == .downgrade)) (setPxLine d l (x.answered (sn.kind == .downgrade)) u)) := by
  change Host.Outcome.next (doSnoopAnswer n l d s) = _
  congr 1
  have hx1 : (getPx (modHome n (Home.dropSnoop l d) s) d).line l = some x := hx
  have hxu : (getPx u d).line l = some x := by
    rw [getPx, hpx]
    exact hx
  unfold Home.dropSnoop at hu hx1
  unfold doSnoopAnswer
  simp only [hsn, hx1, hu, hxu]
  rw [settlePins_of_nil]
  · rfl
  · rw [getHome_modHome_self, getHome_setPxLine]
    exact hpin

-- what a stage fault spares (R282, R283)

/-- The marks of lost units in the ledger, its count of stage faults, its rollback and its flush under way. -/
def Ledger.lossMarks (l : Ledger) : BitVec 8 × BitVec 8 × Nat × Option Rollback × Option Nat :=
  (l.halfLost, l.msLost, l.faultCount, l.rollback, l.flushing)

/-- What the discard of a leg and the end of a job leave as it is: the homes, the processor caches and the ledger's marks of losses. -/
def spared (s : State) : Tab Home × Tab PxDie × BitVec 8 × BitVec 8 × Nat × Option Rollback × Option Nat := (s.homes, s.px, s.ldg.lossMarks)

theorem spared_modLdg (f : Ledger → Ledger) (s : State) : spared (modLdg f s) = (s.homes, s.px, (f s.ldg).lossMarks) := rfl

theorem spared_modLdg_of {f : Ledger → Ledger} (s : State) (h : (f s.ldg).lossMarks = s.ldg.lossMarks) : spared (modLdg f s) = spared s := by
  rw [spared_modLdg, h, spared]

@[simp] theorem spared_modItin (k : Nat) (f : Itin → Itin) (s : State) : spared (modItin k f s) = spared s := rfl
@[simp] theorem spared_modCluster (id : Nat) (f : Cluster → Cluster) (s : State) : spared (modCluster id f s) = spared s := rfl

@[simp] theorem spared_forEach {α : Type} {f : α → State → State} (xs : List α) (s : State) (h : ∀ x t, spared (f x t) = spared t) :
    spared (forEach xs f s) = spared s :=
  forEach_keeps spared h xs s

@[simp] theorem spared_logErr (r : ErrRec) (s : State) : spared (logErr r s) = spared s := by
  unfold logErr
  dsimp only
  split <;> rfl

@[simp] theorem spared_stopLegWork (k : Nat) (leg : Leg) (s : State) : spared (stopLegWork k leg s) = spared s :=
  spared_forEach (f := fun c t => modCluster c Cluster.stopWork t) leg.clusters s fun _ _ => rfl

@[simp] theorem spared_dropRecvs (k : Nat) (s : State) : spared (dropRecvs k s) = spared s := rfl

@[simp] theorem spared_takeOffline (c : Nat) (s : State) : spared (takeOffline c s) = spared s := by
  unfold takeOffline
  rw [spared_logErr, spared_modCluster]

@[simp] theorem spared_stopJob (k fclass : Nat) (fault : Option FaultInfo) (s : State) : spared (stopJob k fclass fault s) = spared s := by
  unfold stopJob
  dsimp only
  split
  · rfl
  · split
    · rfl
    · split
      · rfl
      · rw [spared_modLdg_of _ rfl, spared_modItin, spared_dropRecvs]
        split
        · exact spared_stopLegWork ..
        · rfl

@[simp] theorem spared_discardLeg (k : Nat) (fi : FaultInfo) (s : State) : spared (discardLeg k fi s) = spared s := by
  unfold discardLeg
  dsimp only
  split
  · rfl
  · split
    · rfl
    · split
      · rw [spared_modItin, spared_modLdg_of _ rfl, spared_stopLegWork]
      · split
        · split
          · rw [spared_forEach _ _ fun _ _ => spared_modItin .., spared_takeOffline, spared_modItin, spared_modLdg_of _ rfl, spared_stopLegWork]
          · rw [spared_stopJob, spared_modItin, spared_modLdg_of _ rfl, spared_stopLegWork]
        · rw [spared_modItin, spared_modLdg_of _ rfl, spared_stopLegWork]

/-- The homes and the processor caches. -/
def caches (s : State) : Tab Home × Tab PxDie := (s.homes, s.px)

theorem caches_of_spared {s t : State} (h : spared t = spared s) : caches t = caches s := congrArg (fun p => (p.1, p.2.1)) h

theorem getHome_of_caches {s t : State} (h : caches t = caches s) (n : Nat) : getHome t n = getHome s n :=
  (congrArg (fun p : Tab Home × Tab PxDie => tabGet ({} : Home) p.1 n) h :)

theorem getPx_of_caches {s t : State} (h : caches t = caches s) (d : Nat) : getPx t d = getPx s d :=
  (congrArg (fun p : Tab Home × Tab PxDie => tabGet ({} : PxDie) p.2 d) h :)

theorem caches_logErr (r : ErrRec) (s : State) : caches (logErr r s) = caches s := caches_of_spared (spared_logErr ..)

theorem caches_stageFault (ks : List Nat) (fi : FaultInfo) (s : State) : caches (stageFault ks fi s) = caches s := by
  unfold stageFault
  rw [caches_of_spared (spared_forEach _ _ fun _ _ => spared_discardLeg ..)]
  rfl

theorem caches_porterIf (c : Prop) [Decidable c] (p : Nat) (f : Porter → Porter) (s : State) :
    caches (if c then modPorter p f s else s) = caches s := by
  split <;> rfl

-- the timeout of a snoop (R225)

/-- Every sector of a line is poisoned. -/
def Home.poisonLine (l : Nat) : Home → Home := fun h =>
  match h.line l with
  | some x => h.setLine l (some { x with sectors := x.sectors.map (fun y => { y with valid := true, dirty := true, poison := true }) })
  | none => h

theorem poisonLine_line {l : Nat} {h : Home} {x : Line} (hx : h.line l = some x) :
    ∃ y, (h.poisonLine l).line l = some y ∧ ∀ z ∈ y.sectors, z.valid = true ∧ z.dirty = true ∧ z.poison = true := by
  unfold Home.poisonLine
  rw [hx]
  refine ⟨_, (Home.line_setLine ..).trans (if_pos rfl), fun z hz => ?_⟩
  obtain ⟨q, -, rfl⟩ := List.mem_map.mp hz
  exact ⟨rfl, rfl, rfl⟩

theorem poisonLine_rest (l : Nat) (h : Home) : ∃ ls, h.poisonLine l = { h with lines := ls } := by
  unfold Home.poisonLine
  split <;> exact ⟨_, rfl⟩

theorem poisonLine_pinWait (l : Nat) (h : Home) : (h.poisonLine l).pinWait = h.pinWait := by
  obtain ⟨ls, hls⟩ := poisonLine_rest l h
  rw [hls]

/-- The home gives up its snoops for a line: the directory entry is cleared, the stores that waited are voided, the line is named and the timeout
counted. -/
def Home.timeOut (l : Nat) (void : List (Nat × Requester)) : Home → Home := fun h => { h.setDir l .invalid with
  snoops := h.snoops.filter (fun x => x.line != l)
  voided := h.voided ++ void.filter (fun x => !h.voided.contains x)
  poisonAddr := { addr := BitVec.ofNat 52 (l * 128), valid := 1#1 }
  run := { h.run with coh := { h.run.coh with timeouts := satInc h.run.coh.timeouts } } }

/-- The stores that a timeout completes without performing them. -/
def voidedStores (l : Nat) (sns : List Snoop) : List (Nat × Requester) := ((sns.flatMap (·.stores)).eraseDups.filter voidsStore).map (fun r => (l, r))

theorem dirOf_timeOut (l : Nat) (void : List (Nat × Requester)) (h : Home) : (h.timeOut l void).dirOf l = .invalid :=
  (Home.dirOf_setDir l l .invalid h).trans (if_pos rfl)

theorem mem_timeOut_voided {l : Nat} {void : List (Nat × Requester)} {h : Home} {p : Nat × Requester} (hp : p ∈ void) :
    p ∈ (h.timeOut l void).voided := by
  change p ∈ h.voided ++ void.filter (fun x => !h.voided.contains x)
  by_cases hin : p ∈ h.voided
  · exact List.mem_append_left _ hin
  · exact List.mem_append_right _ (List.mem_filter.mpr ⟨hp, by simpa using hin⟩)

theorem mem_voidedStores {l : Nat} {sns : List Snoop} {q : Snoop} {r : Requester} (hq : q ∈ sns) (hr : r ∈ q.stores) (hv : voidsStore r = true) :
    (l, r) ∈ voidedStores l sns :=
  List.mem_map.mpr ⟨r, List.mem_filter.mpr ⟨List.mem_eraseDups.mpr (List.mem_flatMap.mpr ⟨q, hq, hr⟩), hv⟩, rfl⟩

/-- The caches after a timeout on a line that its home holds, with no copy in the partner or in the eviction buffer. -/
theorem exec_coherenceTimeout {n l : Nat} {s : State} {x : Line} (hx : (getHome s n).line l = some x)
    (he : ∀ e ∈ (getHome s n).evb, e.line ≠ l) (hd : ∀ a b, (getHome s n).dirOf l ≠ .shared a b true)
    (hsn : ∃ y ∈ (getHome s n).snoops, y.line = l) (hpin : (getHome s n).pinWait = []) :
    ∃ t, exec (.coherenceTimeout n l) s = .next t ∧ caches t = caches (setPxLine 1 l none (setPxLine 0 l none
      (modHome n (Home.timeOut l (voidedStores l ((getHome s n).snoops.filter (fun q => q.line == l)))) (modHome n (Home.poisonLine l) s)))) := by
  refine ⟨_, rfl, ?_⟩
  unfold doCoherenceTimeout
  split
  next hnone =>
    obtain ⟨y, hy, hyl⟩ := hsn
    exact absurd (List.filter_eq_nil_iff.mp hnone y hy) (by simp [hyl])
  next sns _ =>
    extract_lets ws ks void s1 s2 s3 bad s4 s5 s6 seq s7 s8
    have h3 : s3 = s := by
      have h1 : s1 = s := evbDrainThrough_of_absent he
      have h2 : s2 = s := by
        unfold s2
        rw [h1]
        exact dropForeign_of_noPartner hd
      unfold s3
      rw [h2]
      exact allocLine_of_held hx
    have h4 : s4 = modHome n (Home.poisonLine l) s := by
      unfold s4
      rw [h3]
      rfl
    have h6 : s6 = setPxLine 1 l none (setPxLine 0 l none (modHome n (Home.timeOut l
        (voidedStores l ((getHome s n).snoops.filter (fun q => q.line == l)))) (modHome n (Home.poisonLine l) s))) := by
      unfold s6 s5
      rw [h4]
      rfl
    have h8 : caches s8 = caches s6 := by
      -- a porter that waits at most counts a retry, and no other requester changes anything
      refine (forEach_keeps caches (fun r t => ?_) ws s7).trans (caches_logErr ..)
      cases r with
      | porter p => exact caches_porterIf ..
      | _ => rfl
    have h9 : caches (forEach ks (fun k t => stageFault [k] { fclass := 2, addr := BitVec.ofNat 64 (l * 128), frec := BitVec.ofNat 64 seq } t) s8) =
        caches s6 := (forEach_keeps caches (fun _ _ => caches_stageFault ..) ks s8).trans h8
    have hwait : (getHome s6 n).pinWait = [] := by
      rw [h6, getHome_setPxLine, getHome_setPxLine, getHome_modHome_self, getHome_modHome_self]
      exact (poisonLine_pinWait ..).trans hpin
    rw [settlePins_of_nil ((congrArg Home.pinWait (getHome_of_caches h9 n)).trans hwait), h9, h6]

theorem mem_dropSnoop {l d : Nat} {h : Home} {y : Snoop} (hy : y ∈ (h.dropSnoop l d).snoops) : ¬ (y.line = l ∧ y.die = d) := by
  have := (List.mem_filter.mp hy).2
  simpa [imp_iff_not_or] using this

theorem mem_setPxLine (d l : Nat) (v : Option PxLine) (s : State) : (setPxLine d l v s).mem = s.mem :=
  (congrArg State.mem (setPxLine_rest d l v s) :)

/-- Settles O24: the oldest buffered line leaves by its write-back, an answer is the owner's supply and the directory's step, and a timeout is
the poisoned line and the home's report of it. -/
theorem bufferAndSnoops : Obligations.BufferAndSnoops := by
  unfold Obligations.BufferAndSnoops
  refine ⟨fun n s e rest hl he hw => ?buffer, fun n l d s sn x hsn hx hpin => ⟨fun hk ho => ?clean, fun rg z ho hd hr hp hz hlen he => ?owner⟩,
    fun n l s x hcase hsn hpin => ?timeout⟩
  case buffer =>
    intro w
    refine ⟨_, exec_evictionWriteback hl he hw, ?_, rfl, fun m hm => getHome_modHome_ne hm .., ?_, fun hclean => ?_⟩
    · rw [getHome_modHome_self]
    · rw [getHome_modHome_self]
    · have hnone : writeSectors e.line e.sectors (fun _ x => x.valid && x.dirty) s = s := by
        refine writeSectors_of_none fun k => ?_
        obtain hmem | hempty := secAt_mem_or_empty e.sectors k
        · rw [hclean _ hmem, Bool.and_false]
        · rw [hempty]
          rfl
      rw [hnone]
      refine ⟨onlyHome_modHome .., ?_⟩
      rw [getHome_modHome_self]
  case clean =>
    have hkeep : (sn.kind == .downgrade) = false := by simpa using hk
    have hdrop : getHome (modHome n (Home.dropSnoop l d) s) n = Home.dropSnoop l d (getHome s n) := getHome_modHome_self ..
    have heq := exec_snoopAnswer (u := modHome n (Home.dropSnoop l d) s) hsn hx (by rw [ho]; rfl) rfl (by rw [hdrop]; exact hpin)
    rw [hkeep] at heq
    refine ⟨_, heq, getPx_setPxLine_self .., ?_⟩
    rw [getHome_modHome_self, getHome_setPxLine, hdrop]
    exact ⟨(Home.dirOf_setDir ..).trans (if_pos rfl), rfl, fun y hy => mem_dropSnoop hy, mem_setPxLine ..⟩
  case owner =>
    have hdrop : getHome (modHome n (Home.dropSnoop l d) s) n = Home.dropSnoop l d (getHome s n) := getHome_modHome_self ..
    obtain ⟨y, honly, hy, hsec⟩ := pxSupply_held (n := n) (secs := x.sectors) (s := modHome n (Home.dropSnoop l d) s) (z := z) hr hp
      (by rw [hdrop]; exact hz) hlen (by rw [hdrop]; exact he)
    generalize hu : pxSupply n l x.sectors (modHome n (Home.dropSnoop l d) s) = u at honly hy
    obtain ⟨ls, hls⟩ := honly.home
    rw [hdrop] at hls
    have hdir : (getHome u n).dirOf l = .owned d := by
      rw [hls]
      exact hd
    have hhomes : OnlyHomes s u := (onlyHomes_modHome ..).trans honly.only.homes
    have heq := exec_snoopAnswer hsn hx ((if_pos ho).trans hu) hhomes.px (by rw [hls]; exact hpin)
    refine ⟨_, y, heq, (mem_setPxLine ..).trans hhomes.mem, ?_⟩
    rw [getHome_modHome_self, getHome_setPxLine]
    refine ⟨hy, hsec, fun m hm => ?_, fun q hq => ?_, fun hk => ⟨?_, ?_⟩, fun hk => ⟨?_, ?_⟩⟩
    · have := honly.others m hm
      rw [hdrop] at this
      exact this
    · refine mem_dropSnoop (h := getHome s n) ?_
      rw [hls] at hq
      exact hq
    · have hkeep : (sn.kind == .downgrade) = false := by simpa using hk
      rw [hkeep]
      exact getPx_setPxLine_self ..
    · have hkeep : (sn.kind == .downgrade) = false := by simpa using hk
      rw [hkeep, dirOf_answerDir, hdir]
      simp [Dir.dropPx]
    · rw [hk]
      exact getPx_setPxLine_self ..
    · rw [hk, dirOf_answerDir, hdir]
      simp [Dir.dropPx, Dir.addPx]
  case timeout =>
    have hheld : (getHome s n).line l = some x ∧ (∀ e ∈ (getHome s n).evb, e.line ≠ l) ∧ ∀ a b, (getHome s n).dirOf l ≠ .shared a b true := by
      obtain ⟨hx, -, hd, he, -⟩ | ⟨d, hd, hx, -, he⟩ := hcase
      · exact ⟨hx, he, fun a b => by rw [hd]; nofun⟩
      · exact ⟨hx, he, fun a b => by rw [hd]; nofun⟩
    obtain ⟨hx, he, hd⟩ := hheld
    obtain ⟨t, ht, hcaches⟩ := exec_coherenceTimeout hx he hd hsn hpin
    obtain ⟨y, hy, hbad⟩ := poisonLine_line hx
    obtain ⟨ls, hls⟩ := poisonLine_rest l (getHome s n)
    have hhome := getHome_of_caches hcaches n
    rw [getHome_setPxLine, getHome_setPxLine, getHome_modHome_self, getHome_modHome_self] at hhome
    refine ⟨t, y, ht, ?_⟩
    rw [hhome, getPx_of_caches hcaches, getPx_of_caches hcaches]
    refine ⟨hy, hbad, dirOf_timeOut .., fun z hz => ?_, ?_, fun q hq hql r hr hv => ?_, rfl,
      getPx_setPxLine_none _ _ _ _ (getPx_setPxLine_self ..), getPx_setPxLine_self ..⟩
    · simpa using (List.mem_filter.mp hz).2
    · rw [hls]
      rfl
    · exact mem_timeOut_voided (mem_voidedStores (List.mem_filter.mpr ⟨hq, by simpa using hql⟩) hr hv)

end Sys2Proof.Machine
end

section
/-! PROOFS. The end of a home's part of a checkpoint flush, and the loss of an L2 half (R201, R250, R291 to R294; O25). -/

namespace Sys2Proof.Machine

-- the end of a home's part of a flush (R250, R292)

/-- A home with no line left to flush, and no marked entry in its controller's buffer, leaves the flush. -/
theorem exec_homeFlushDone {n c : Nat} {s : State} (hf : s.ldg.flushing = some c) (hp : s.ldg.pending.getLsbD n = true)
    (hl : (getHome s n).flushLines = []) (hr : (getCtl s n).retraining = false) (hm : ∀ e ∈ (getCtl s n).wcb, e.marked = false) :
    ∃ u, exec (.homeFlushDone n) s = .next (completeCkpt (modLdg (fun l => { l with pending := clearBit l.pending n }) u)) ∧
      u.ldg = s.ldg ∧ u.mem = s.mem := by
  have hnone : (getCtl s n).wcb.filter (·.marked) = [] := List.filter_eq_nil_iff.mpr fun e he => by simp [hm e he]
  have hdrain : drainMarked n (modHome n (fun h => { h with flushLines := [] }) s) = modHome n (fun h => { h with flushLines := [] }) s := by
    unfold drainMarked
    change forEach ((getCtl s n).wcb.filter (·.marked)) _ _ = _
    rw [hnone]
    rfl
  have hready : (s.ldg.flushing.isSome && s.ldg.pending.getLsbD n && !(getCtl s n).retraining &&
      !((getHome s n).flushLines.flatMap (flushTargets s)).any (fun l => (getCtl s (stackOf (l * 128))).retraining)) = true := by
    simp [hf, hp, hl, hr]
  change ∃ u, Host.Outcome.next (doHomeFlushDone n s) = _ ∧ _
  unfold doHomeFlushDone
  rw [if_pos hready, hl]
  extract_lets ls cnt before s1 s2 s3
  have h2 : s2 = modHome n (fun h => { h with flushLines := [] }) s := hdrain
  exact ⟨s3, rfl, (congrArg State.ldg h2 :), (congrArg State.mem h2 :)⟩

theorem completeCkpt_pending {s : State} (hp : s.ldg.pending ≠ 0#8) : completeCkpt s = s := by
  unfold completeCkpt
  split
  · rfl
  · rw [if_pos hp]

theorem completeCkpt_last {s : State} {c : Nat} (hf : s.ldg.flushing = some c) (hp : s.ldg.pending = 0#8) :
    (completeCkpt s).mem = s.mem ∧ (completeCkpt s).ldg = { s.ldg with ckpt := some c, flushing := none, ckptDone := true } := by
  unfold completeCkpt
  rw [hf]
  dsimp only
  rw [if_neg (not_not_intro hp)]
  exact ⟨rfl, rfl⟩

-- what the loss of units changes in the ledger (R293)

/-- Units may have been lost, and nothing else of a loss has been noted: no half or stack that was lost is back, and the faults counted, the
rollback and the flush under way are as they were. -/
structure Losing (s t : State) : Prop where
  half : ∀ n, s.ldg.halfLost.getLsbD n = true → t.ldg.halfLost.getLsbD n = true
  stack : ∀ n, s.ldg.msLost.getLsbD n = true → t.ldg.msLost.getLsbD n = true
  count : t.ldg.faultCount = s.ldg.faultCount
  rollback : t.ldg.rollback = s.ldg.rollback
  flushing : t.ldg.flushing = s.ldg.flushing

theorem Losing.refl (s : State) : Losing s s := ⟨fun _ h => h, fun _ h => h, rfl, rfl, rfl⟩

theorem Losing.trans {s t u : State} (h : Losing s t) (k : Losing t u) : Losing s u :=
  ⟨fun n hn => k.half n (h.half n hn), fun n hn => k.stack n (h.stack n hn), k.count.trans h.count, k.rollback.trans h.rollback,
    k.flushing.trans h.flushing⟩

/-- What leaves the ledger's marks as they are loses nothing. -/
theorem losing_of_marks {s t : State} (h : t.ldg.lossMarks = s.ldg.lossMarks) : Losing s t := by
  simp only [Ledger.lossMarks, Prod.mk.injEq] at h
  obtain ⟨hhalf, hstack, hcount, hroll, hflush⟩ := h
  exact ⟨fun _ hn => hhalf ▸ hn, fun _ hn => hstack ▸ hn, hcount, hroll, hflush⟩

theorem losing_of_spared {s t : State} (h : spared t = spared s) : Losing s t := losing_of_marks (congrArg (fun p => p.2.2) h)

theorem losing_forEach {α : Type} {f : α → State → State} (xs : List α) (s : State) (h : ∀ x t, Losing t (f x t)) : Losing s (forEach xs f s) :=
  forEach_preserves (P := Losing s) (fun x t ht => ht.trans (h x t)) xs (.refl s)

theorem setBit_self {w n : Nat} (m : BitVec w) (h : n < w) : (setBit m n).getLsbD n = true := by
  simp [setBit, maskBit, h]

theorem setBit_mono {w k : Nat} {m : BitVec w} (n : Nat) (h : m.getLsbD k = true) : (setBit m n).getLsbD k = true := by
  simp [setBit, h]

-- operations that leave the ledger as it is

theorem logErr_service (r : ErrRec) (s : State) : (logErr r s).variant = s.variant ∧ (logErr r s).ldg = s.ldg := by
  unfold logErr
  dsimp only
  split <;> exact ⟨rfl, rfl⟩

theorem finishCmd_ldg (id : Nat) (st : BitVec 16) (res : Nat) (s : State) : (finishCmd id st res s).ldg = s.ldg := by
  unfold finishCmd
  split
  · rfl
  · split <;> rfl

theorem dropHome_ldg (n : Nat) (s : State) : (dropHome n s).ldg = s.ldg := by
  unfold dropHome
  dsimp only
  rw [modHome_ldg, modHome_ldg]
  exact forEach_keeps State.ldg (fun _ _ => finishCmd_ldg ..) _ s

theorem abortRegionCmds_ldg (n : Nat) (s : State) : (abortRegionCmds n s).ldg = s.ldg := by
  refine forEach_keeps State.ldg (fun r t => ?_) _ s
  split
  · split
    · exact finishCmd_ldg ..
    · rfl
  · rfl

theorem fenceStack_ldg (n : Nat) (s : State) : (fenceStack n s).ldg = s.ldg := by
  unfold fenceStack
  dsimp only
  rw [modCtl_ldg, abortRegionCmds_ldg, dropHome_ldg]

theorem sendCtrlNow_ldg (id : Nat) (s : State) : (sendCtrlNow id s).ldg = s.ldg := by
  unfold sendCtrlNow
  split
  · rfl
  · split
    · split <;> rfl
    · rfl

theorem sendCtrl_ldg (dev : Word) (m : CtrlOut) (s : State) : (sendCtrl dev m s).ldg = s.ldg := by
  unfold sendCtrl
  split
  · rfl
  · unfold pumpCtrl
    split
    · rfl
    · exact forEach_keeps State.ldg (fun _ _ => sendCtrlNow_ldg ..) _ _

theorem sendRollbacks_ldg (s : State) : (sendRollbacks s).ldg = s.ldg := by
  refine forEach_keeps State.ldg (fun k t => ?_) _ s
  split
  · split
    · dsimp only
      split
      · exact forEach_keeps State.ldg (fun _ _ => sendCtrl_ldg ..) _ _
      · rfl
    · rfl
  · rfl

theorem cutIod_ldg (s : State) : (cutIod s).ldg = s.ldg := by
  unfold cutIod
  split
  · refine forEach_keeps State.ldg (f := fun id t => match getCmd t id with
      | some c => if c.ph < 64 then t else finishCmd id stAborted 0 t
      | none => t) (fun id t => ?_) _ s
    split
    · split
      · rfl
      · exact finishCmd_ldg ..
    · rfl
  · rfl

-- units leave service

theorem losing_of_ldg {s t : State} (h : t.ldg = s.ldg) : Losing s t := losing_of_marks (congrArg Ledger.lossMarks h)

theorem losing_loseStackUnit (n : Nat) (s : State) : Losing s (loseStackUnit n s) := by
  unfold loseStackUnit
  split
  · have hmark : Losing s (modLdg (fun l => { l with msLost := setBit l.msLost n }) s) :=
      ⟨fun _ h => h, fun _ h => setBit_mono n h, rfl, rfl, rfl⟩
    exact hmark.trans (losing_of_ldg (fenceStack_ldg ..))
  · exact .refl s

theorem losing_loseHalfUnit (n : Nat) (s : State) : Losing s (loseHalfUnit n s) := by
  unfold loseHalfUnit
  split
  · have hmark : Losing s (modLdg (fun l => { l with halfLost := setBit l.halfLost n }) s) :=
      ⟨fun _ h => setBit_mono n h, fun _ h => h, rfl, rfl, rfl⟩
    exact hmark.trans (losing_loseStackUnit ..)
  · exact .refl s

theorem losing_loseLinkUnit (n : Nat) (s : State) : Losing s (loseLinkUnit n s) := by
  unfold loseLinkUnit
  split
  · exact losing_of_marks rfl
  · exact .refl s

theorem losing_loseDieUnit (d : Nat) (s : State) : Losing s (loseDieUnit d s) := by
  unfold loseDieUnit
  split
  · extract_lets s1 s2 s3 s4
    have h1 : Losing s s1 := (losing_loseHalfUnit ..).trans (losing_loseHalfUnit ..)
    have h2 : Losing s1 s2 := losing_of_marks rfl
    have h3 : Losing s2 s3 := losing_forEach _ _ losing_loseLinkUnit
    have h4 : Losing s3 s4 := by
      unfold s4
      split
      · exact losing_of_ldg rfl
      · exact .refl s3
    refine ((h1.trans h2).trans (h3.trans h4)).trans ?_
    split
    · exact losing_of_ldg rfl
    · exact .refl s4
  · exact .refl s

theorem losing_loseUnreachable (s : State) : Losing s (loseUnreachable s) := by
  refine losing_forEach _ _ fun d t => ?_
  split
  · exact losing_loseDieUnit d t
  · exact .refl t

theorem losing_selectForRestart (s : State) : Losing s (selectForRestart s) := by
  refine losing_forEach _ _ fun r t => ?_
  split
  · exact losing_of_ldg rfl
  · exact losing_of_spared ((spared_stopJob ..).trans (spared_modItin ..))

/-- A home in service that leaves it is marked lost, and its stack with it. -/
theorem loseHalfUnit_marks {n : Nat} {s : State} (h : halfLive s n = true) :
    (loseHalfUnit n s).ldg.halfLost.getLsbD n = true ∧ (loseHalfUnit n s).ldg.msLost.getLsbD n = true := by
  obtain ⟨hn, -, -⟩ : n < s.variant.stacks ∧ s.ldg.halfLost.getLsbD n = false ∧ dieLive s (n / 2) = true := by
    simpa [halfLive, and_assoc] using h
  have h8 : n < 8 := by
    refine Nat.lt_of_lt_of_le hn ?_
    cases s.variant <;> decide
  unfold loseHalfUnit
  rw [if_pos h]
  refine ⟨(losing_loseStackUnit ..).half n (setBit_self _ h8), ?_⟩
  unfold loseStackUnit
  split
  · rw [fenceStack_ldg]
    exact setBit_self _ h8
  next hdead =>
    simpa [stackLive, hn] using hdead

/-- A state-loss fault counts once, ends a flush and sets a rollback; what its units' loss marked stays marked. -/
theorem stateLoss_marks (lose : State → State) (addr : Word) (frec : Nat) (s : State) :
    (∀ n, (lose s).ldg.halfLost.getLsbD n = true → (stateLoss lose addr frec s).ldg.halfLost.getLsbD n = true) ∧
    (∀ n, (lose s).ldg.msLost.getLsbD n = true → (stateLoss lose addr frec s).ldg.msLost.getLsbD n = true) ∧
    (stateLoss lose addr frec s).ldg.rollback.isSome = true ∧
    (stateLoss lose addr frec s).ldg.faultCount = (lose s).ldg.faultCount + 1 ∧ (stateLoss lose addr frec s).ldg.flushing = none := by
  unfold stateLoss
  extract_lets alive s1 px now ks s2 s3 s4
  have hbefore : Losing (lose s) s2 :=
    (losing_loseUnreachable _).trans (losing_forEach _ _ fun _ _ => losing_of_spared (spared_discardLeg ..))
  have hafter : Losing s4 (syncEvents (cutIod (sendRollbacks (if iodCut s4 then s4 else selectForRestart s4)))) := by
    refine Losing.trans ?_ (losing_of_ldg ((cutIod_ldg _).trans (sendRollbacks_ldg _)))
    split
    · exact .refl s4
    · exact losing_selectForRestart s4
  obtain ⟨hhalf, hstack, hcount, -, -⟩ := hbefore
  obtain ⟨khalf, kstack, kcount, kroll, kflush⟩ := hafter
  refine ⟨fun n h => khalf n (hhalf n h), fun n h => kstack n (hstack n h), ?_, ?_, kflush⟩
  · rw [kroll]
    rfl
  · rw [kcount, ← hcount]
    rfl

/-- Settles O25: a home's end of the flush is one bit of the pending homes, and a half's loss is the state-loss fault of its marks. -/
theorem flushAndHalfLoss : Obligations.FlushAndHalfLoss := by
  unfold Obligations.FlushAndHalfLoss
  refine ⟨fun n c s hf _ hp hl hr hm => ?flush, fun n s hlive => ?loss⟩
  case flush =>
    obtain ⟨u, heq, hldg, hmem⟩ := exec_homeFlushDone hf hp hl hr hm
    refine ⟨_, heq, ?_⟩
    have hpend : (modLdg (fun l => { l with pending := clearBit l.pending n }) u).ldg.pending = clearBit s.ldg.pending n := by
      rw [modLdg_ldg, hldg]
    have hflush : (modLdg (fun l => { l with pending := clearBit l.pending n }) u).ldg.flushing = some c := by
      rw [modLdg_ldg, hldg, hf]
    by_cases hz : clearBit s.ldg.pending n = 0#8
    · obtain ⟨hm1, hl1⟩ := completeCkpt_last hflush (hpend.trans hz)
      refine ⟨hm1.trans hmem, fun h => absurd hz h, fun _ => ?_⟩
      rw [hl1]
      exact ⟨hpend.trans hz, rfl, rfl, rfl⟩
    · rw [completeCkpt_pending (by rw [hpend]; exact hz)]
      exact ⟨hmem, fun _ => ⟨hpend, hflush, by rw [modLdg_ldg, hldg]⟩, fun h => absurd h hz⟩
  case loss =>
    change ∃ t, Host.Outcome.next (halfLoss n s) = _ ∧ _
    unfold halfLoss
    rw [if_pos hlive]
    obtain ⟨hvariant, hldg⟩ := logErr_service { cls := 0x0F, action := 2, source := 0x04, unit := n } s
    generalize logErr _ s = s1 at hvariant hldg ⊢
    have hlive1 : halfLive s1 n = true := by
      rw [← hlive, halfLive, halfLive, dieLive, dieLive, hvariant, hldg]
    obtain ⟨hhalf, hstack⟩ := loseHalfUnit_marks hlive1
    obtain ⟨khalf, kstack, kroll, kcount, kflush⟩ := stateLoss_marks (loseHalfUnit n) 0#64 s.errSeq s1
    refine ⟨_, rfl, khalf n hhalf, ?_, kroll, ?_, kflush⟩
    · rw [stackLive, kstack n hstack, Bool.not_true, Bool.and_false]
    · rw [kcount, (losing_loseHalfUnit n s1).count, hldg]

end Sys2Proof.Machine
end

section
/-! PROOFS. The memory controllers' operations, each rule once (R226, R245 to R249, R463 to R467; for O26, O27, O28): bytes and check bytes of
stored sectors, the sectors of a buffer entry, what draining an entry writes, and the equations of a read and of an accepted write. -/

namespace Sys2Proof.Machine

-- the bytes of a stored sector

theorem memByte_forEach_setMemByte (a : Nat) (f : Nat → Byte) (n : Nat) (s : State) (x : Nat) :
    memByte (forEach (List.range n) (fun i t => setMemByte (a + i) (f i) t) s) x = if a ≤ x ∧ x < a + n then f (x - a) else memByte s x := by
  induction n with
  | zero => exact (if_neg (by omega)).symm
  | succ n ih =>
    have hstep : forEach (List.range (n + 1)) (fun i t => setMemByte (a + i) (f i) t) s =
        setMemByte (a + n) (f n) (forEach (List.range n) (fun i t => setMemByte (a + i) (f i) t) s) := by
      rw [forEach, List.range_succ, List.foldl_append]
      rfl
    rw [hstep, memByte_setMemByte, ih]
    by_cases hx : x = a + n
    · subst hx
      rw [if_pos rfl, if_pos (by omega), Nat.add_sub_cancel_left]
    · rw [if_neg hx]
      exact if_congr (by omega) rfl rfl

/-- A sector stored reads back byte by byte, and every other byte reads as before (R15). -/
theorem memByte_setMemSector (a : Nat) (d : BitVec 256) (s : State) (x : Nat) :
    memByte (setMemSector a d s) x = if a ≤ x ∧ x < a + 32 then byteOf d (x - a) else memByte s x := by
  unfold setMemSector
  exact memByte_forEach_setMemByte a (byteOf d) 32 s x

theorem setMemSector_rest (a : Nat) (d : BitVec 256) (s : State) : { setMemSector a d s with mem := s.mem } = s := by
  unfold setMemSector
  generalize List.range 32 = xs
  exact forEach_keeps (fun t : State => { t with mem := s.mem }) (f := fun i t => setMemByte (a + i) (byteOf d i) t) (fun _ _ => rfl) xs s

theorem byteOf_memSector (s : State) (a : Nat) {b : Nat} (hb : b < 32) : byteOf (memSector s a) b = memByte s (a + b) := by
  rw [memSector, byteOf_ofBytes (by simp) (by simpa using hb)]
  simp

theorem eq_of_byteOf {d e : BitVec 256} (h : ∀ b, b < 32 → byteOf d b = byteOf e b) : d = e := by
  apply BitVec.eq_of_getLsbD_eq
  intro i hi
  have := congrArg (fun x : Byte => x.getLsbD (i % 8)) (h (i / 8) (by omega))
  simpa [byteOf, Nat.mod_lt, Nat.div_add_mod] using this

theorem memSector_eq {s : State} {a : Nat} {d : BitVec 256} (h : ∀ b, b < 32 → memByte s (a + b) = byteOf d b) : memSector s a = d :=
  eq_of_byteOf fun b hb => (byteOf_memSector s a hb).trans (h b hb)

theorem memSector_of_mem {s t : State} (h : t.mem = s.mem) (a : Nat) : memSector t a = memSector s a :=
  memSector_eq fun b hb => by rw [byteOf_memSector s a hb, memByte, memByte, h]

theorem storedDecode_clean {s : State} {a : Nat} (h : chkAt s a = 0#32) : storedDecode s a = .clean := if_pos h

theorem storedDecode_of_chk {s t : State} {a : Nat} (h : chkAt t a = chkAt s a) : storedDecode t a = storedDecode s a := by
  unfold storedDecode
  rw [h]

-- controllers that only count

/-- Nothing of any controller but the counts of its stage has changed. -/
def CtlsCount (s t : State) : Prop := ∀ n, ∃ r, getCtl t n = { getCtl s n with run := r }

theorem CtlsCount.refl (s : State) : CtlsCount s s := fun n => ⟨(getCtl s n).run, rfl⟩

theorem CtlsCount.trans {s t u : State} (h : CtlsCount s t) (k : CtlsCount t u) : CtlsCount s u := by
  intro n
  obtain ⟨p, hp⟩ := h n
  obtain ⟨q, hq⟩ := k n
  exact ⟨q, by rw [hq, hp]⟩

theorem getCtl_modCtl (n m : Nat) (f : Ctl → Ctl) (s : State) : getCtl (modCtl n f s) m = if m = n then f (getCtl s n) else getCtl s m :=
  tabGet_tabSet ..

theorem ctlsCount_modCtl {n : Nat} {f : Ctl → Ctl} (h : ∀ c, ∃ r, f c = { c with run := r }) (s : State) : CtlsCount s (modCtl n f s) := by
  intro m
  rw [getCtl_modCtl]
  split
  next hm =>
    subst hm
    exact h _
  next => exact ⟨_, rfl⟩

theorem ctlsCount_of_ctls {s t : State} (h : t.ctls = s.ctls) : CtlsCount s t := by
  intro n
  exact ⟨(getCtl s n).run, by rw [getCtl, getCtl, h]⟩

theorem ctlsCount_countRd (a : Nat) (s : State) : CtlsCount s (countRd a s) := by
  apply ctlsCount_modCtl
  exact fun _ => ⟨_, rfl⟩

theorem ctlsCount_countWr (a : Nat) (s : State) : CtlsCount s (countWr a s) := by
  apply ctlsCount_modCtl
  exact fun _ => ⟨_, rfl⟩

-- a sector written whole (R466)

theorem memByte_countWr (a : Nat) (s : State) (x : Nat) : memByte (countWr a s) x = memByte s x := rfl
theorem memByte_setChk (a : Nat) (q : BitVec 32) (s : State) (x : Nat) : memByte (setChk a q s) x = memByte s x := rfl
theorem chkAt_countWr (a : Nat) (s : State) (b : Nat) : chkAt (countWr a s) b = chkAt s b := rfl

theorem memByte_storeSector (a : Nat) (v : SectorVal) (s : State) (x : Nat) :
    memByte (storeSector a v s) x = if a ≤ x ∧ x < a + 32 then byteOf v.data (x - a) else memByte s x := by
  rw [storeSector, memByte_countWr, memByte_setChk, memByte_setMemSector]

theorem chkAt_setMemSector (a : Nat) (d : BitVec 256) (s : State) (b : Nat) : chkAt (setMemSector a d s) b = chkAt s b := by
  rw [chkAt, chkAt, (congrArg State.chkXor (setMemSector_rest a d s) :)]

theorem chkAt_storeSector (a : Nat) (v : SectorVal) (s : State) (b : Nat) :
    chkAt (storeSector a v s) b = if b / 32 = a / 32 then (if v.poison then poisonQ else 0#32) else chkAt s b := by
  rw [storeSector, chkAt_countWr, chkAt_setChk, chkAt_setMemSector]

/-- Storing a sector changes nothing but memory, check bytes and the controllers. -/
theorem storeSector_rest (a : Nat) (v : SectorVal) (s : State) :
    { storeSector a v s with mem := s.mem, chkXor := s.chkXor, ctls := s.ctls } = s := by
  have hstored (q : BitVec 32) (t : State) :
      ({ countWr a (setChk a q t) with mem := s.mem, chkXor := s.chkXor, ctls := s.ctls } : State) =
        { ({ t with mem := s.mem } : State) with chkXor := s.chkXor, ctls := s.ctls } := rfl
  rw [storeSector, hstored, setMemSector_rest]

theorem ctlsCount_storeSector (a : Nat) (v : SectorVal) (s : State) : CtlsCount s (storeSector a v s) := by
  have hctls (q : BitVec 32) (t : State) : CtlsCount t (setChk a q t) := ctlsCount_of_ctls rfl
  have hsector : CtlsCount s (setMemSector a v.data s) := ctlsCount_of_ctls (congrArg State.ctls (setMemSector_rest a v.data s) :)
  exact (hsector.trans (hctls _ _)).trans (ctlsCount_countWr a _)

-- the sectors of a buffer entry (R246)

theorem extractLsb'_four {w : Nat} (f : Nat → BitVec w) {j : Nat} (hj : j < 4) :
    (f 3 ++ f 2 ++ f 1 ++ f 0).extractLsb' (w * j) w = f j := by
  apply BitVec.eq_of_getLsbD_eq
  intro i hi
  simp only [BitVec.getLsbD_extractLsb', BitVec.getLsbD_append, hi, decide_true, Bool.true_and]
  obtain rfl | rfl | rfl | rfl : j = 0 ∨ j = 1 ∨ j = 2 ∨ j = 3 := by omega
  · rw [if_pos (by omega)]
    congr 1
    omega
  · rw [if_neg (by omega), if_pos (by omega)]
    congr 1
    omega
  · rw [if_neg (by omega), if_neg (by omega), if_pos (by omega)]
    congr 1
    omega
  · rw [if_neg (by omega), if_neg (by omega), if_neg (by omega)]
    congr 1
    omega

theorem WcbEntry.en_put (e : WcbEntry) (k : Nat) (en : BitVec 32) (d : BitVec 256) (p : Bool) {j : Nat} (hj : j < 4) :
    (e.put k en d p).en j = if j = k then en else e.en j := extractLsb'_four (fun i => if i = k then en else e.en i) hj

theorem WcbEntry.dat_put (e : WcbEntry) (k : Nat) (en : BitVec 32) (d : BitVec 256) (p : Bool) {j : Nat} (hj : j < 4) :
    (e.put k en d p).dat j = if j = k then d else e.dat j := extractLsb'_four (fun i => if i = k then d else e.dat i) hj

/-- An entry is full when each of its sectors is. -/
theorem WcbEntry.full_iff (e : WcbEntry) : e.enables = BitVec.allOnes 128 ↔ ∀ j, j < 4 → e.en j = BitVec.allOnes 32 := by
  constructor
  · intro h j hj
    apply BitVec.eq_of_getLsbD_eq
    intro i hi
    rw [WcbEntry.en, h]
    simp only [BitVec.getLsbD_extractLsb', BitVec.getLsbD_allOnes, hi]
    simp only [decide_true, Bool.true_and, decide_eq_true_eq]
    omega
  · intro h
    apply BitVec.eq_of_getLsbD_eq
    intro i hi
    have hbit := congrArg (fun x : BitVec 32 => x.getLsbD (i % 32)) (h (i / 32) (by omega))
    have hone : (e.en (i / 32)).getLsbD (i % 32) = e.enables.getLsbD i := by
      simp [WcbEntry.en, Nat.mod_lt, Nat.div_add_mod]
    simp only [BitVec.getLsbD_allOnes] at hbit ⊢
    rw [← hone, hbit]
    simp only [hi, Nat.mod_lt, Nat.zero_lt_succ]

section
variable (e : WcbEntry) (k : Nat) (en : BitVec 32) (v : SectorVal) (now : Nat) {j : Nat}

theorem WcbEntry.en_merge (hj : j < 4) : (e.merge k en v now).en j = if j = k then e.en k ||| en else e.en j :=
  e.en_put k _ (mergeBytes (e.dat k) v.data en) (if en = BitVec.allOnes 32 then v.poison else e.poison.getLsbD k || v.poison) hj

theorem WcbEntry.dat_merge (hj : j < 4) : (e.merge k en v now).dat j = if j = k then mergeBytes (e.dat k) v.data en else e.dat j :=
  e.dat_put k (e.en k ||| en) _ (if en = BitVec.allOnes 32 then v.poison else e.poison.getLsbD k || v.poison) hj

theorem WcbEntry.line_merge : (e.merge k en v now).line = e.line := rfl

theorem WcbEntry.whole_merge : (e.merge k en v now).whole = if en = BitVec.allOnes 32 then setBit e.whole k else e.whole := rfl

theorem WcbEntry.poison_merge : (e.merge k en v now).poison =
    if (if en = BitVec.allOnes 32 then v.poison else e.poison.getLsbD k || v.poison) then setBit e.poison k else clearBit e.poison k := rfl

end

-- what draining an entry writes (R247, R226)

/-- The poison that a sector covered by an entry drains with: the buffer's, or memory's where several writes covered it together. -/
def WcbEntry.drainPoison (e : WcbEntry) (k : Nat) (s : State) : Bool :=
  e.poison.getLsbD k || (!e.covers k && storedDecode s (e.line * 128 + 32 * k) == .poison)

theorem WcbEntry.drainPoison_of_chk {e : WcbEntry} {k : Nat} {s t : State}
    (h : chkAt t (e.line * 128 + 32 * k) = chkAt s (e.line * 128 + 32 * k)) : e.drainPoison k t = e.drainPoison k s := by
  rw [drainPoison, drainPoison, storedDecode_of_chk h]

/-- The byte lies in a sector that an entry covers whole. -/
def WcbEntry.writes (e : WcbEntry) (k x : Nat) : Prop :=
  e.en k = BitVec.allOnes 32 ∧ e.line * 128 + 32 * k ≤ x ∧ x < e.line * 128 + 32 * k + 32

/-- Changes of memory, its check bytes and the controllers, one after the other. -/
theorem onlyMemory_trans {s t u : State} (h : { t with mem := s.mem, chkXor := s.chkXor, ctls := s.ctls } = s)
    (k : { u with mem := t.mem, chkXor := t.chkXor, ctls := t.ctls } = t) : { u with mem := s.mem, chkXor := s.chkXor, ctls := s.ctls } = s := by
  calc ({ u with mem := s.mem, chkXor := s.chkXor, ctls := s.ctls } : State)
      = { ({ u with mem := t.mem, chkXor := t.chkXor, ctls := t.ctls } : State) with mem := s.mem, chkXor := s.chkXor, ctls := s.ctls } := rfl
    _ = { t with mem := s.mem, chkXor := s.chkXor, ctls := s.ctls } := by rw [k]
    _ = s := h

/-- Some sectors of an entry have drained: those that it covers whole stand in memory with their check bytes, and nothing else has changed but
counts of the controllers. -/
structure Drained (e : WcbEntry) (ks : List Nat) (s t : State) : Prop where
  data : ∀ k ∈ ks, e.en k = BitVec.allOnes 32 → ∀ b, b < 32 → memByte t (e.line * 128 + 32 * k + b) = byteOf (e.dat k) b
  chk : ∀ k ∈ ks, e.en k = BitVec.allOnes 32 → chkAt t (e.line * 128 + 32 * k) = if e.drainPoison k s then poisonQ else 0#32
  others : ∀ x, (∀ k ∈ ks, ¬ e.writes k x) → memByte t x = memByte s x
  otherChks : ∀ a, (∀ k ∈ ks, a / 32 ≠ (e.line * 128 + 32 * k) / 32) → chkAt t a = chkAt s a
  ctls : CtlsCount s t
  rest : { t with mem := s.mem, chkXor := s.chkXor, ctls := s.ctls } = s

theorem drained_nil (e : WcbEntry) (s : State) : Drained e [] s s := by
  refine ⟨?_, ?_, fun _ _ => rfl, fun _ _ => rfl, .refl s, rfl⟩ <;> exact fun k hk => absurd hk List.not_mem_nil

/-- One sector of an entry that covers it whole or not at all. -/
theorem drained_sector {e : WcbEntry} {k : Nat} (hk : e.en k = 0#32 ∨ e.en k = BitVec.allOnes 32) (s : State) :
    Drained e [k] s (drainSector e k s) := by
  unfold drainSector
  dsimp only
  rcases hk with h0 | h1
  · have hnot : e.en k ≠ BitVec.allOnes 32 := by rw [h0]; decide
    rw [if_pos h0]
    refine ⟨?_, ?_, fun _ _ => rfl, fun _ _ => rfl, .refl s, rfl⟩
    · intro j hj hw
      rw [List.mem_singleton.mp hj] at hw
      exact absurd hw hnot
    · intro j hj hw
      rw [List.mem_singleton.mp hj] at hw
      exact absurd hw hnot
  · rw [if_neg (by rw [h1]; decide), if_pos h1]
    refine ⟨?_, ?_, ?_, ?_, ctlsCount_storeSector _ _ s, storeSector_rest ..⟩
    · intro j hj _ b hb
      rw [List.mem_singleton.mp hj, memByte_storeSector, if_pos (by omega), Nat.add_sub_cancel_left]
    · intro j hj _
      rw [List.mem_singleton.mp hj, chkAt_storeSector, if_pos rfl]
      rfl
    · intro x hx
      rw [memByte_storeSector, if_neg fun h => hx k (List.mem_singleton_self k) ⟨h1, h⟩]
    · intro a ha
      rw [chkAt_storeSector, if_neg (ha k (List.mem_singleton_self k))]

theorem drained_cons {e : WcbEntry} {k : Nat} {ks : List Nat} {s t u : State} (h : Drained e [k] s t) (hs : Drained e ks t u) (hk : k ∉ ks) :
    Drained e (k :: ks) s u := by
  have apart : ∀ j ∈ ks, j ≠ k := fun j hj hjk => hk (hjk ▸ hj)
  refine ⟨?_, ?_, ?_, ?_, h.ctls.trans hs.ctls, ?_⟩
  · intro j hj hw b hb
    rcases List.mem_cons.mp hj with rfl | hj
    · rw [hs.others]
      · exact h.data j (List.mem_singleton_self j) hw b hb
      · rintro i hi ⟨-, hlo, hhi⟩
        have := apart i hi
        omega
    · exact hs.data j hj hw b hb
  · intro j hj hw
    rcases List.mem_cons.mp hj with rfl | hj
    · rw [hs.otherChks]
      · exact h.chk j (List.mem_singleton_self j) hw
      · intro i hi
        have := apart i hi
        omega
    · rw [hs.chk j hj hw, WcbEntry.drainPoison_of_chk]
      apply h.otherChks
      intro i hi
      have := apart j hj
      rw [List.mem_singleton.mp hi]
      omega
  · intro x hx
    rw [hs.others x fun j hj => hx j (List.mem_cons_of_mem _ hj), h.others]
    intro j hj
    rw [List.mem_singleton.mp hj]
    exact hx k List.mem_cons_self
  · intro a ha
    rw [hs.otherChks a fun j hj => ha j (List.mem_cons_of_mem _ hj), h.otherChks]
    intro j hj
    rw [List.mem_singleton.mp hj]
    exact ha k List.mem_cons_self
  · exact onlyMemory_trans h.rest hs.rest

theorem drained_forEach {e : WcbEntry} (ks : List Nat) (hnd : ks.Nodup) (hk : ∀ k ∈ ks, e.en k = 0#32 ∨ e.en k = BitVec.allOnes 32) (s : State) :
    Drained e ks s (forEach ks (fun k t => drainSector e k t) s) := by
  induction ks generalizing s with
  | nil => exact drained_nil e s
  | cons k ks ih =>
    obtain ⟨hfresh, hnd⟩ := List.nodup_cons.mp hnd
    exact drained_cons (drained_sector (hk k List.mem_cons_self) s) (ih hnd (fun j hj => hk j (List.mem_cons_of_mem _ hj)) _) hfresh

theorem mem_sectors {k : Nat} : k ∈ [0, 1, 2, 3] ↔ k < 4 := by
  simp only [List.mem_cons, List.not_mem_nil, or_false]
  omega

/-- An entry leaves the buffer of a stack. -/
def dropEntry (n line : Nat) (s : State) : State := modCtl n (fun c => { c with wcb := c.wcb.filter (fun x => x.line != line) }) s

/-- An entry without partly enabled sectors leaves the buffer, and its whole sectors are written. -/
theorem drained_drainEntry {n : Nat} {e : WcbEntry} (h : ∀ k, k < 4 → e.en k = 0#32 ∨ e.en k = BitVec.allOnes 32) (s : State) :
    Drained e [0, 1, 2, 3] (dropEntry n e.line s) (drainEntry n e s) :=
  drained_forEach _ (by decide) (fun k hk => h k (mem_sectors.mp hk)) _

-- reads of a stack (R245, R249)

theorem ctlServes_live {s : State} {n : Nat} (h : ctlServes s n = true) : stackLive s n = true ∧ (getCtl s n).retraining = false := by
  simpa [ctlServes] using h

theorem stackRead_clean {a : Nat} {s : State} (h : chkAt s a = 0#32) : stackRead a s = ({ data := memSector s a }, countRd a s) := by
  unfold stackRead
  dsimp only
  rw [show storedDecode (countRd a s) a = .clean from storedDecode_clean h]
  rfl

theorem ctlRead_unbuffered {a : Nat} {s : State} (h : (getCtl s (stackOf a)).entry (lineOf a) = none) : ctlRead a s = stackRead a s := by
  unfold ctlRead
  dsimp only
  rw [h]

/-- The buffer's bytes stand over those of a sector without an error. -/
theorem ctlRead_buffered {a : Nat} {s : State} {e : WcbEntry} (h : (getCtl s (stackOf a)).entry (lineOf a) = some e) (hc : chkAt s a = 0#32)
    (hp : e.poison.getLsbD (a / 32 % 4) = false) :
    (ctlRead a s).1.poison = false ∧ ∀ b, b < 32 → byteOf (ctlRead a s).1.data b =
      if (e.en (a / 32 % 4)).getLsbD b then byteOf (e.dat (a / 32 % 4)) b else memByte s (a + b) := by
  unfold ctlRead
  dsimp only
  rw [h]
  dsimp only
  split
  next h1 =>
    refine ⟨?_, fun b hb => ?_⟩
    · simp [hp, storedDecode_clean hc]
    · rw [h1, BitVec.getLsbD_allOnes, decide_eq_true hb, if_pos rfl]
  next =>
    rw [stackRead_clean hc]
    split
    next h0 =>
      refine ⟨rfl, fun b hb => ?_⟩
      rw [h0, BitVec.getLsbD_zero, if_neg (by decide), ← byteOf_memSector s a hb]
    next =>
      refine ⟨hp, fun b hb => ?_⟩
      rw [byteOf_mergeBytes _ _ _ hb, byteOf_memSector s a hb]

-- reads that correct an error (R263 to R265)

/-- Device memory as it is stored: its bytes and its check bytes. -/
def stored (s : State) : List Host.Cell × Tab (BitVec 32) := (s.mem, s.chkXor)

theorem memByte_of_stored {s t : State} (h : stored t = stored s) (x : Nat) : memByte t x = memByte s x :=
  (congrArg (fun q : List Host.Cell × Tab (BitVec 32) => tabGet 0#8 q.1 x) h :)

theorem chkAt_of_stored {s t : State} (h : stored t = stored s) (a : Nat) : chkAt t a = chkAt s a :=
  (congrArg (fun q : List Host.Cell × Tab (BitVec 32) => tabGet 0#32 q.2 (a / 32)) h :)

theorem stored_modCtl (n : Nat) (f : Ctl → Ctl) (s : State) : stored (modCtl n f s) = stored s := rfl
theorem stored_syncEvents (s : State) : stored (syncEvents s) = stored s := rfl

theorem stored_logErr (r : ErrRec) (s : State) : stored (logErr r s) = stored s := by
  unfold logErr
  dsimp only
  split <;> rfl

theorem stored_retirePage (page : Nat) (s : State) : stored (retirePage page s) = stored s := by
  unfold retirePage
  dsimp only
  split
  · rfl
  · split
    · rfl
    · rw [stored_logErr, stored_modCtl]

theorem stored_countPage (a : Nat) (s : State) : stored (countPage a s) = stored s := by
  unfold countPage
  dsimp only
  split
  · rw [stored_retirePage, stored_modCtl]
  · rfl

theorem stored_countPin (a sym : Nat) (s : State) : stored (countPin a sym s) = stored s := by
  unfold countPin
  dsimp only
  split
  · rw [stored_syncEvents, stored_modCtl, stored_modCtl]
  · rfl

theorem stored_noteCorrected (a pos : Nat) (v : Byte) (syn : BitVec 32) (s : State) : stored (noteCorrected a pos v syn s) = stored s := by
  unfold noteCorrected
  dsimp only
  rw [stored_countPin]
  split
  · rw [stored_modCtl, stored_logErr]
  · rw [stored_countPage, stored_modCtl, stored_logErr]

/-- A read that corrects an error delivers the right data and leaves memory as it is stored. -/
theorem stackRead_corrected {a p : Nat} {v : Byte} {s : State} (h : storedDecode s a = .corrected p v) :
    (stackRead a s).1 = { data := correctData (memSector s a) p v } ∧ stored (stackRead a s).2 = stored s := by
  unfold stackRead
  dsimp only
  rw [show storedDecode (countRd a s) a = .corrected p v from h, memSector_of_mem (s := s) (t := countRd a s) rfl]
  dsimp only
  exact ⟨rfl, (stored_noteCorrected ..).trans (stored_modCtl ..)⟩

-- writes that the buffer accepts (R246, R247)

theorem drainDown_of_below {n : Nat} {s : State} (h : (getCtl s n).wcb.length < (getCtl s n).cfgEff.wcbHigh.toNat) : drainDown n s = s := by
  unfold drainDown
  apply forEach_fixed
  exact fun _ => if_neg (Nat.not_le.mpr h)

/-- An entry that holds nothing yet. -/
def freshEntry (line : Nat) : WcbEntry := { line := line, enables := 0#128, data := 0#1024 }

theorem en_freshEntry (line k : Nat) : (freshEntry line).en k = 0#32 := by
  simp [freshEntry, WcbEntry.en]

/-- The entry that a write to a line without one takes. -/
def newEntry (a : Nat) (en : BitVec 32) (v : SectorVal) (s : State) : WcbEntry := (freshEntry (lineOf a)).merge (a / 32 % 4) en v s.stg.upNs

/-- A write takes an entry of its own. -/
def takeEntry (a : Nat) (en : BitVec 32) (v : SectorVal) (s : State) : State :=
  modCtl (stackOf a) (fun c => { c with wcb := c.wcb ++ [newEntry a en v s] }) s

theorem entry_append_of_none {c : Ctl} {e : WcbEntry} (h : c.entry e.line = none) : ({ c with wcb := c.wcb ++ [e] } : Ctl).entry e.line = some e := by
  unfold Ctl.entry at h ⊢
  rw [List.find?_append, h]
  simp

theorem entry_takeEntry {a : Nat} {en : BitVec 32} {v : SectorVal} {s : State} (h : (getCtl s (stackOf a)).entry (lineOf a) = none) :
    (getCtl (takeEntry a en v s) (stackOf a)).entry (lineOf a) = some (newEntry a en v s) := by
  rw [takeEntry, getCtl_modCtl_self]
  exact entry_append_of_none (e := newEntry a en v s) h

/-- A new entry leaves sectors free. -/
theorem newEntry_not_full (a : Nat) (en : BitVec 32) (v : SectorVal) (s : State) : (newEntry a en v s).enables ≠ BitVec.allOnes 128 := by
  intro hfull
  have hnext := (WcbEntry.full_iff _).mp hfull ((a / 32 + 1) % 4) (by omega)
  rw [newEntry, WcbEntry.en_merge _ _ _ _ _ (by omega), if_neg (by omega), en_freshEntry] at hnext
  exact absurd hnext (by decide)

theorem ctlWrite_new {a : Nat} {en : BitVec 32} {v : SectorVal} {s : State} (hnone : (getCtl s (stackOf a)).entry (lineOf a) = none)
    (hlen : (getCtl s (stackOf a)).wcb.length < 64)
    (hroom : (getCtl s (stackOf a)).wcb.length + 1 < (getCtl s (stackOf a)).cfgEff.wcbHigh.toNat) : ctlWrite a en v s = takeEntry a en v s := by
  unfold ctlWrite
  dsimp only
  rw [if_neg (by omega), hnone]
  dsimp only
  change drainDown (stackOf a) (match (getCtl (takeEntry a en v s) (stackOf a)).entry (lineOf a) with
    | some e => if e.enables = BitVec.allOnes 128 then drainEntry (stackOf a) e (takeEntry a en v s) else takeEntry a en v s
    | none => takeEntry a en v s) = takeEntry a en v s
  rw [entry_takeEntry hnone]
  dsimp only
  rw [if_neg (newEntry_not_full a en v s)]
  apply drainDown_of_below
  rw [takeEntry, getCtl_modCtl_self]
  simpa using hroom

end Sys2Proof.Machine
end

section
/-! PROOFS. The write-combining buffer (R226, R245 to R249; O26): a write that takes an entry, the read over it, and an entry that drains. -/

namespace Sys2Proof.Machine

theorem exec_wcbWrite {addr : Nat} {en : BitVec 32} {d : BitVec 256} {s : State} (hs : ctlServes s (stackOf (addr / 32 * 32)) = true)
    (hen : en ≠ 0#32) :
    exec (.wcbWrite addr en d) s = .next (ctlWrite (addr / 32 * 32) en { data := d } s) :=
  congrArg Host.Outcome.next (if_pos (by simp [hs, hen]))

theorem exec_wcbIdleDrain {n line : Nat} {s : State} {e : WcbEntry} (he : (getCtl s n).entry line = some e) (hs : ctlServes s n = true) :
    exec (.wcbIdleDrain n line) s = .next (drainEntry n e s) := by
  refine congrArg Host.Outcome.next ?_
  unfold doWcbIdleDrain
  rw [he]
  exact if_pos hs

theorem Ctl.entry_line {c : Ctl} {line : Nat} {e : WcbEntry} (h : c.entry line = some e) : e.line = line := by
  simpa using List.find?_some h

-- the entry that a write takes

section
variable (a : Nat) (en : BitVec 32) (v : SectorVal) (s : State)

theorem en_newEntry {j : Nat} (hj : j < 4) : (newEntry a en v s).en j = if j = a / 32 % 4 then en else 0#32 := by
  rw [newEntry, WcbEntry.en_merge _ _ _ _ _ hj, en_freshEntry, en_freshEntry, BitVec.zero_or]

theorem byteOf_dat_newEntry {b : Nat} (hb : b < 32) (hen : en.getLsbD b = true) :
    byteOf ((newEntry a en v s).dat (a / 32 % 4)) b = byteOf v.data b := by
  rw [newEntry, WcbEntry.dat_merge _ _ _ _ _ (Nat.mod_lt _ (by decide)), if_pos rfl, byteOf_mergeBytes _ _ _ hb, if_pos hen]

theorem clean_newEntry (hv : v.poison = false) : (newEntry a en v s).poison.getLsbD (a / 32 % 4) = false := by
  rw [newEntry, WcbEntry.poison_merge, hv]
  simp [freshEntry, clearBit]

end

/-- Settles O26: a write is the equation of a new entry, a drain what its sectors leave in memory. -/
theorem writeCombiningBuffer : Obligations.WriteCombiningBuffer := by
  unfold Obligations.WriteCombiningBuffer
  refine ⟨fun addr en d s => ?write, fun n line s e he hs hwhole => ?drain⟩
  case write =>
    intro a n hs hen hnone hlen hroom
    have hctl : getCtl (takeEntry a en { data := d } s) n = { getCtl s n with wcb := (getCtl s n).wcb ++ [newEntry a en { data := d } s] } :=
      getCtl_modCtl_self ..
    refine ⟨takeEntry a en { data := d } s, newEntry a en { data := d } s, ?_, onlyCtl_modCtl .., congrArg Ctl.wcb hctl, rfl,
      fun j hj => en_newEntry _ _ _ _ hj, fun hchk => ?_⟩
    · rw [exec_wcbWrite hs hen, ctlWrite_new hnone hlen hroom]
    · obtain ⟨hp, hbytes⟩ := ctlRead_buffered (entry_takeEntry hnone) hchk (clean_newEntry a en { data := d } s rfl)
      refine ⟨hp, fun b hb => (hbytes b hb).trans ?_⟩
      rw [en_newEntry _ _ _ _ (Nat.mod_lt _ (by decide)), if_pos rfl]
      split
      next hset => exact byteOf_dat_newEntry a en _ s hb hset
      next => rfl
  case drain =>
    obtain rfl := Ctl.entry_line he
    have hd := drained_drainEntry (n := n) hwhole s
    refine ⟨_, exec_wcbIdleDrain he hs, ?_, fun k b hk hb hw => hd.data k (mem_sectors.mpr hk) hw b hb,
      fun k hk hw => hd.chk k (mem_sectors.mpr hk) hw, fun x hx => ?_,
      (congrArg State.regions hd.rest :), (congrArg State.errs hd.rest :)⟩
    · obtain ⟨r, hr⟩ := hd.ctls n
      intro x hx
      rw [hr, dropEntry, getCtl_modCtl_self] at hx
      simpa using (List.mem_filter.mp hx).2
    · exact hd.others x fun k hk hw => hx k (mem_sectors.mp hk) hw.1 hw.2

end Sys2Proof.Machine
end

section
/-! PROOFS. Reads, retries, retraining, refresh and the patrol scrub (R245, R251 to R253, R269, R467; O27). -/

namespace Sys2Proof.Machine

theorem OnlyCtl.trans {n : Nat} {s t u : State} (h : OnlyCtl n s t) (k : OnlyCtl n t u) : OnlyCtl n s u := by
  obtain ⟨hs, ho⟩ := h
  obtain ⟨ks, ko⟩ := k
  refine ⟨?_, fun m hm => (ko m hm).trans (ho m hm)⟩
  calc { u with ctls := s.ctls } = { ({ u with ctls := t.ctls } : State) with ctls := s.ctls } := rfl
    _ = { t with ctls := s.ctls } := by rw [ks]
    _ = s := hs

theorem onlyCtl_refl (n : Nat) (s : State) : OnlyCtl n s s := ⟨rfl, fun _ _ => rfl⟩

theorem onlyCtl_countRd (a : Nat) (s : State) : OnlyCtl (stackOf a) s (countRd a s) := onlyCtl_modCtl ..

/-- A word without an error strikes nothing. -/
theorem strikeBoth_none (a : Nat) (s : State) : strikeBoth a ⟨0#256, 0#32⟩ ⟨0#256, 0#32⟩ s = s := by
  have hstrike (b : Nat) (t : State) : strike b ⟨0#256, 0#32⟩ t = t := if_pos ⟨rfl, rfl⟩
  unfold strikeBoth
  dsimp only
  rw [hstrike]
  split
  · exact hstrike _ s
  · rfl

-- a read and its transfers (R253)

section
variable {addr fails : Nat} {s : State} (hs : ctlServes s (stackOf (addr / 32 * 32)) = true)
include hs

theorem exec_memRead_served (hf : fails ≤ 4) (hc : chkAt s (addr / 32 * 32) = 0#32)
    (hnone : (getCtl s (stackOf (addr / 32 * 32))).entry (lineOf (addr / 32 * 32)) = none) :
    exec (.memRead addr ⟨0#256, 0#32⟩ ⟨0#256, 0#32⟩ fails) s =
      .next (countRd (addr / 32 * 32) (countRetries (stackOf (addr / 32 * 32)) fails s)) := by
  refine congrArg Host.Outcome.next ?_
  unfold doMemRead
  dsimp only
  rw [if_neg (by simp [hs]), strikeBoth_none, if_neg (Nat.not_lt.mpr hf), ctlRead_unbuffered, stackRead_clean]
  · exact hc
  · rw [countRetries, getCtl_modCtl_self]
    exact hnone

theorem exec_memRead_fails (hf : 4 < fails) :
    exec (.memRead addr ⟨0#256, 0#32⟩ ⟨0#256, 0#32⟩ fails) s = .next (countRetries (stackOf (addr / 32 * 32)) fails s) := by
  refine congrArg Host.Outcome.next ?_
  unfold doMemRead
  dsimp only
  rw [if_neg (by simp [hs]), strikeBoth_none, if_pos hf]

end

-- the end of a retraining (R253, R269)

theorem exec_phyRetrainDone {n : Nat} {s : State} (hr : (getCtl s n).retraining = true) (ok : Bool) :
    exec (.phyRetrainDone n ok) s = .next (if ok then settlePins n (modCtl n (fun c => { c with retraining := false }) s)
      else stackLoss n 5 n (modCtl n (fun c => { c with retraining := false }) s)) :=
  congrArg Host.Outcome.next (if_neg (by simp [hr]))

theorem stacks_le (v : Variant) : v.stacks ≤ 8 := by
  cases v <;> decide

theorem stackLive_lt {s : State} {n : Nat} (h : stackLive s n = true) : n < s.variant.stacks := by
  simp only [stackLive, Bool.and_eq_true, decide_eq_true_eq] at h
  exact h.1

theorem stackLive_of_lost {s : State} {n : Nat} (h : s.ldg.msLost.getLsbD n = true) : stackLive s n = false := by
  rw [stackLive, h, Bool.not_true, Bool.and_false]

theorem loseStackUnit_marks {n : Nat} {s : State} (h : stackLive s n = true) : (loseStackUnit n s).ldg.msLost.getLsbD n = true := by
  rw [loseStackUnit, if_pos h, fenceStack_ldg]
  exact setBit_self _ (Nat.lt_of_lt_of_le (stackLive_lt h) (stacks_le _))

/-- A stack in service that is lost is marked so, and a rollback is set. -/
theorem stackLoss_marks {n : Nat} {s : State} (source unit : Nat) (h : stackLive s n = true) :
    stackLive (stackLoss n source unit s) n = false ∧ (stackLoss n source unit s).ldg.rollback.isSome = true := by
  unfold stackLoss
  rw [if_pos h]
  obtain ⟨hvariant, hldg⟩ := logErr_service { cls := 0x10, action := 2, source := source, unit := unit } s
  generalize logErr _ s = s1 at hvariant hldg ⊢
  have hlive : stackLive s1 n = true := by rw [← h, stackLive, stackLive, hvariant, hldg]
  obtain ⟨-, hstack, hroll, -, -⟩ := stateLoss_marks (loseStackUnit n) 0#64 s.errSeq s1
  exact ⟨stackLive_of_lost (hstack n (loseStackUnit_marks hlive)), hroll⟩

-- refresh and temperature (R251)

theorem exec_refresh {n pc bank : Nat} {s : State} (hl : stackLive s n = true) (hpc : pc < 64) (hb : bank < 64) :
    exec (.refresh n pc bank) s = .next (modCtl n (fun c => { c with
      refreshed := tabSet 0 c.refreshed (pc * 64 + bank) (tabGet 0 c.refreshed (pc * 64 + bank) + 1) }) s) :=
  congrArg Host.Outcome.next (if_pos (by simp [hl, hpc, hb]))

theorem exec_tempRead {n : Nat} {c : BitVec 8} {s : State} (hl : stackLive s n = true) :
    exec (.tempRead n c) s = .next (modCtl n (fun x => { x with
      tempC := c
      refresh2x := if 85 ≤ c.toNat then true else if c.toNat < 80 then false else x.refresh2x }) s) :=
  congrArg Host.Outcome.next (if_pos hl)

-- the patrol scrub (R252)

/-- The sector that the patrol scrub of a stack reads next. -/
def scrubAt (n : Nat) (s : State) : Nat := n * stackBytes + (getCtl s n).scrub.offset.toNat

/-- The patrol scrub goes on to the next sector, from the last one to the first. -/
def scrubNext (n : Nat) (next : Nat) (s : State) : State :=
  modCtl n (fun c => { c with scrub :=
    if stackBytes ≤ next then { offset := 0#37, passes := satInc c.scrub.passes } else { c.scrub with offset := BitVec.ofNat 37 next } }) s

theorem stored_scrubNext (n next : Nat) (s : State) : stored (scrubNext n next s) = stored s := rfl

theorem scrubNext_scrub {n off : Nat} {s t : State} (hle : off + 32 ≤ stackBytes) (h : (getCtl t n).scrub = (getCtl s n).scrub) :
    (getCtl (scrubNext n (off + 32) t) n).scrub = if off + 32 = stackBytes then { offset := 0#37, passes := satInc (getCtl s n).scrub.passes }
      else { (getCtl s n).scrub with offset := BitVec.ofNat 37 (off + 32) } := by
  rw [scrubNext, getCtl_modCtl_self]
  dsimp only
  rw [h]
  exact if_congr ⟨fun hge => Nat.le_antisymm hle hge, fun he => he.ge⟩ rfl rfl

theorem stackOf_scrubAt {n : Nat} {s : State} (hle : (getCtl s n).scrub.offset.toNat + 32 ≤ stackBytes) : stackOf (scrubAt n s) = n := by
  unfold stackOf scrubAt
  rw [Nat.mul_comm, Nat.mul_add_div (by decide), Nat.div_eq_of_lt (by omega), Nat.add_zero]

/-- A sector rewritten by the scrub has right check bytes and its new data, and every other byte is as it was. -/
theorem scrubNext_rewritten (n next a : Nat) (d : BitVec 256) {s u : State} (hu : stored u = stored s) :
    chkAt (scrubNext n next (storeSector a { data := d } u)) a = 0#32 ∧ memSector (scrubNext n next (storeSector a { data := d } u)) a = d ∧
      ∀ x, ¬ (a ≤ x ∧ x < a + 32) → memByte (scrubNext n next (storeSector a { data := d } u)) x = memByte s x := by
  have hbyte (x : Nat) : memByte (scrubNext n next (storeSector a { data := d } u)) x =
      if a ≤ x ∧ x < a + 32 then byteOf d (x - a) else memByte s x := by
    rw [memByte_of_stored (stored_scrubNext ..), memByte_storeSector, memByte_of_stored hu]
  refine ⟨?_, memSector_eq fun b hb => ?_, fun x hx => ?_⟩
  · rw [chkAt_of_stored (stored_scrubNext ..), chkAt_storeSector, if_pos rfl]
    rfl
  · rw [hbyte, if_pos (by omega), Nat.add_sub_cancel_left]
  · rw [hbyte, if_neg hx]

section
variable {n : Nat} {s : State} (hs : ctlServes s n = true)
include hs

/-- At a sector without an error the scrub reads it, or passes over it where a write to it is buffered. -/
theorem exec_patrolScrub_clean (hc : chkAt s (scrubAt n s) = 0#32) :
    ∃ t, exec (.patrolScrub n ⟨0#256, 0#32⟩ ⟨0#256, 0#32⟩) s = .next (scrubNext n ((getCtl s n).scrub.offset.toNat + 32) t) ∧
      (t = s ∨ t = countRd (scrubAt n s) s) := by
  change ∃ t, Host.Outcome.next (doPatrolScrub n _ _ s) = _ ∧ _
  unfold doPatrolScrub
  rw [if_neg (by simp [hs])]
  extract_lets off a busy struck read next
  refine ⟨read, rfl, ?_⟩
  replace hc : chkAt s a = 0#32 := hc
  unfold read struck
  split
  · exact .inl rfl
  · rw [strikeBoth_none, storedDecode_clean hc, stackRead_clean hc]
    exact .inr rfl

theorem exec_patrolScrub_corrected {p : Nat} {v : Byte} (hd : storedDecode s (scrubAt n s) = .corrected p v)
    (hnone : (getCtl s n).entry (lineOf (scrubAt n s)) = none) :
    exec (.patrolScrub n ⟨0#256, 0#32⟩ ⟨0#256, 0#32⟩) s = .next (scrubNext n ((getCtl s n).scrub.offset.toNat + 32)
      (storeSector (scrubAt n s) (stackRead (scrubAt n s) s).1 (stackRead (scrubAt n s) s).2)) := by
  refine congrArg Host.Outcome.next ?_
  unfold doPatrolScrub
  rw [if_neg (by simp [hs])]
  extract_lets off a busy struck read next
  have hbusy : busy = false := by
    unfold busy
    rw [show (getCtl s n).entry (lineOf a) = none from hnone]
  have hread : read = storeSector a (stackRead a s).1 (stackRead a s).2 := by
    unfold read struck
    rw [hbusy, if_neg Bool.false_ne_true, strikeBoth_none, show storedDecode s a = .corrected p v from hd]
  exact congrArg (scrubNext n next) hread

end

/-- Settles O27: each row is the equation of its controller's update. -/
theorem memoryUpkeep : Obligations.MemoryUpkeep := by
  unfold Obligations.MemoryUpkeep
  refine ⟨⟨fun addr fails s hs hf hc hnone => ?served, fun addr fails s hs hf => ?fails, fun n s hr => ?retrained⟩,
    fun n pc bank s hl hpc hb => ?refresh, fun n c s hl => ?temp, fun n s hs hle _ => ?scrub⟩
  case served =>
    obtain ⟨-, hr⟩ := ctlServes_live hs
    refine ⟨_, exec_memRead_served hs hf hc hnone, (onlyCtl_modCtl ..).trans (onlyCtl_modCtl ..), ?_⟩
    rw [countRd, getCtl_modCtl_self, countRetries, getCtl_modCtl_self]
    exact ⟨rfl, congrArg (satAdd _) (Nat.min_eq_left hf), by simp [hr, hf]⟩
  case fails =>
    have hretrain : (getCtl (countRetries (stackOf (addr / 32 * 32)) fails s) (stackOf (addr / 32 * 32))).retraining = true := by
      rw [countRetries, getCtl_modCtl_self]
      simp [hf]
    exact ⟨_, exec_memRead_fails hs hf, onlyCtl_modCtl .., hretrain, by rw [ctlServes, hretrain, Bool.not_true, Bool.and_false]⟩
  case retrained =>
    refine ⟨fun hp => ⟨_, ?_, onlyCtl_modCtl n (fun c => { c with retraining := false }) s, congrArg Ctl.retraining (getCtl_modCtl_self ..)⟩,
      fun hl => ?_⟩
    · rw [exec_phyRetrainDone hr, if_pos rfl, settlePins_of_nil]
      exact hp
    · exact ⟨_, exec_phyRetrainDone hr false, stackLoss_marks 5 n hl⟩
  case refresh =>
    refine ⟨_, exec_refresh hl hpc hb, onlyCtl_modCtl .., fun k => ?_⟩
    rw [getCtl_modCtl_self]
    dsimp only
    rw [tabGet_tabSet]
    split
    next hk => rw [hk]
    next => rfl
  case temp =>
    refine ⟨_, exec_tempRead hl, onlyCtl_modCtl .., ?_⟩
    rw [getCtl_modCtl_self]
    exact ⟨rfl, fun h => if_pos h, fun h => (if_neg (by omega)).trans (if_pos h), fun h1 h2 => (if_neg (by omega)).trans (if_neg (by omega))⟩
  case scrub =>
    intro a
    have hcount : OnlyCtl n s (countRd (scrubAt n s) s) := by
      have h := onlyCtl_countRd (scrubAt n s) s
      rwa [stackOf_scrubAt hle] at h
    refine ⟨fun hc => ?_, fun p v hd hnone => ?_⟩
    · obtain ⟨t, heq, ht⟩ := exec_patrolScrub_clean hs hc
      have hread : OnlyCtl n s t ∧ (getCtl t n).scrub = (getCtl s n).scrub := by
        rcases ht with rfl | rfl
        · exact ⟨onlyCtl_refl n _, rfl⟩
        · obtain ⟨r, hr⟩ := ctlsCount_countRd (scrubAt n s) s n
          exact ⟨hcount, by rw [hr]⟩
      exact ⟨_, heq, hread.1.trans (onlyCtl_modCtl ..), scrubNext_scrub hle hread.2⟩
    · obtain ⟨hv, hkeep⟩ := stackRead_corrected (a := scrubAt n s) hd
      refine ⟨_, exec_patrolScrub_corrected hs hd hnone, ?_⟩
      rw [hv]
      exact scrubNext_rewritten n _ (scrubAt n s) _ hkeep

end Sys2Proof.Machine
end

section
/-! PROOFS. A line of a region that is being mirrored is copied (R246, R247, R256, R257; O28): its four sectors gather in one entry of the
partner's write-combining buffer, and the last one fills the entry, which drains into the copy. -/

namespace Sys2Proof.Machine

-- where the copy of a line lies (R256)

theorem partnerOf_ne (n : Nat) : partnerOf n ≠ n := by
  intro h
  have : n ^^^ 2 = n ^^^ 0 := by simp [partnerOf] at h
  exact absurd (Nat.xor_right_inj.mp this) (by decide)

section
variable {a k : Nat} (ha : a % 128 = 0) (hk : k < 4)
include ha hk

theorem stackOf_sector : stackOf (a + 32 * k) = stackOf a := by
  unfold stackOf stackBytes
  omega

theorem copyAddr_sector : copyAddr (a + 32 * k) = copyAddr a + 32 * k := by
  unfold copyAddr
  rw [stackOf_sector ha hk]
  unfold stackBytes
  omega

end

section
variable {a : Nat} (ha : a % 128 = 0)
include ha

theorem copyAddr_aligned : copyAddr a % 128 = 0 := by
  unfold copyAddr stackBytes
  omega

theorem lineOf_copyAddr_mul : lineOf (copyAddr a) * 128 = copyAddr a := by
  have := copyAddr_aligned ha
  unfold lineOf
  omega

end

theorem stackOf_copyAddr (a : Nat) : stackOf (copyAddr a) = partnerOf (stackOf a) := by
  rw [copyAddr, stackOf, Nat.add_mul_div_right _ _ (by decide), Nat.div_eq_of_lt (Nat.mod_lt _ (by decide)), Nat.zero_add]

section
variable {a k : Nat} (ha : a % 128 = 0) (hk : k < 4)
include ha hk

theorem stackOf_copySector : stackOf (copyAddr (a + 32 * k)) = partnerOf (stackOf a) := by rw [stackOf_copyAddr, stackOf_sector ha hk]

theorem lineOf_copySector : lineOf (copyAddr (a + 32 * k)) = lineOf (copyAddr a) := by
  have := copyAddr_aligned ha
  rw [copyAddr_sector ha hk]
  unfold lineOf
  omega

theorem sector_copySector : copyAddr (a + 32 * k) / 32 % 4 = k := by
  have := copyAddr_aligned ha
  rw [copyAddr_sector ha hk]
  omega

end

-- a write into the one entry of a buffer (R246, R247)

/-- A write merges into the entry of its line. -/
def mergeEntry (a : Nat) (en : BitVec 32) (v : SectorVal) (s : State) : State :=
  modCtl (stackOf a) (fun c => { c with
    wcb := c.wcb.map (fun e => if e.line = lineOf a then e.merge (a / 32 % 4) en v s.stg.upNs else e)
    run := { c.run with wcb := { c.run.wcb with merges := c.run.wcb.merges + 1#32 } } }) s

section
variable {a : Nat} {en : BitVec 32} {v : SectorVal} {s : State} {e : WcbEntry} (hwcb : (getCtl s (stackOf a)).wcb = [e]) (hline : e.line = lineOf a)
include hwcb hline

theorem wcb_mergeEntry : (getCtl (mergeEntry a en v s) (stackOf a)).wcb = [e.merge (a / 32 % 4) en v s.stg.upNs] := by
  rw [mergeEntry, getCtl_modCtl_self]
  dsimp only
  rw [hwcb, List.map_singleton, if_pos hline]

theorem ctlWrite_merge : ctlWrite a en v s = drainDown (stackOf a)
    (if (e.merge (a / 32 % 4) en v s.stg.upNs).enables = BitVec.allOnes 128 then
      drainEntry (stackOf a) (e.merge (a / 32 % 4) en v s.stg.upNs) (mergeEntry a en v s)
    else mergeEntry a en v s) := by
  have hfound : (getCtl s (stackOf a)).entry (lineOf a) = some e := by simp [Ctl.entry, hwcb, hline]
  have hmerged : (getCtl (mergeEntry a en v s) (stackOf a)).entry (lineOf a) = some (e.merge (a / 32 % 4) en v s.stg.upNs) := by
    rw [Ctl.entry, wcb_mergeEntry hwcb hline]
    simp [WcbEntry.line_merge, hline]
  unfold ctlWrite
  dsimp only
  rw [if_neg (by simp [hfound]), hfound]
  dsimp only
  rw [← mergeEntry, hmerged]

end

-- the entry in which a line's copy gathers

/-- The entry holds the first sectors of the line, each covered by a write of its own, without poison. -/
structure CopyEntry (a k : Nat) (s : State) (e : WcbEntry) : Prop where
  line : e.line = lineOf (copyAddr a)
  en : ∀ j, j < 4 → e.en j = if j < k then BitVec.allOnes 32 else 0#32
  dat : ∀ j, j < 4 → j < k → e.dat j = memSector s (a + 32 * j)
  poison : ∀ j, e.poison.getLsbD j = false
  covers : ∀ j, j < 4 → j < k → e.covers j = true

theorem copyEntry_fresh (a : Nat) (s : State) : CopyEntry a 0 s (freshEntry (lineOf (copyAddr a))) :=
  ⟨rfl, fun j _ => en_freshEntry _ j, fun j _ h => absurd h (Nat.not_lt_zero j), fun j => by simp [freshEntry],
    fun j _ h => absurd h (Nat.not_lt_zero j)⟩

theorem mergeBytes_all (old new : BitVec 256) : mergeBytes old new (BitVec.allOnes 32) = new :=
  eq_of_byteOf fun b hb => by rw [byteOf_mergeBytes _ _ _ hb, BitVec.getLsbD_allOnes, decide_eq_true hb, if_pos rfl]

theorem CopyEntry.merge {a k : Nat} {s : State} {e : WcbEntry} (h : CopyEntry a k s e) (hk : k < 4) (now : Nat) :
    CopyEntry a (k + 1) s (e.merge k (BitVec.allOnes 32) { data := memSector s (a + 32 * k) } now) := by
  refine ⟨h.line, fun j hj => ?_, fun j hj hjk => ?_, fun j => ?_, fun j hj hjk => ?_⟩
  · rw [WcbEntry.en_merge _ _ _ _ _ hj]
    by_cases hjk : j = k
    · rw [if_pos hjk, if_pos (by omega), BitVec.or_allOnes]
    · rw [if_neg hjk, h.en j hj]
      exact if_congr (by omega) rfl rfl
  · rw [WcbEntry.dat_merge _ _ _ _ _ hj]
    by_cases hjk' : j = k
    · rw [if_pos hjk', mergeBytes_all, hjk']
    · rw [if_neg hjk', h.dat j hj (by omega)]
  · rw [WcbEntry.poison_merge, if_pos rfl, if_neg Bool.false_ne_true]
    simp [clearBit, h.poison j]
  · rw [WcbEntry.covers, WcbEntry.whole_merge, if_pos rfl]
    by_cases hjk' : j = k
    · rw [hjk']
      exact setBit_self _ hk
    · exact setBit_mono k (h.covers j hj (by omega))

theorem CopyEntry.full_iff {a k : Nat} {s : State} {e : WcbEntry} (h : CopyEntry a k s e) : e.enables = BitVec.allOnes 128 ↔ 4 ≤ k := by
  rw [WcbEntry.full_iff]
  constructor
  · intro hfull
    by_contra hk
    have hfree := hfull 3 (by decide)
    rw [h.en 3 (by decide), if_neg (by omega)] at hfree
    exact absurd hfree (by decide)
  · intro hk j hj
    rw [h.en j hj, if_pos (by omega)]

-- the copying, sector by sector

/-- An update of a controller leaves what stands outside the controllers. -/
theorem ctls_modCtl_rest (n : Nat) (f : Ctl → Ctl) (s u : State) : { modCtl n f u with ctls := s.ctls } = { u with ctls := s.ctls } := rfl

/-- One sector of the line is read and written to the copy. -/
def copySector (a k : Nat) (t : State) : State :=
  ctlWrite (copyAddr (a + 32 * k)) (BitVec.allOnes 32) (ctlRead (a + 32 * k) t).1 (ctlRead (a + 32 * k) t).2

/-- The first sectors of a line stand in the partner's buffer, in an entry of their own; nothing outside the controllers has changed. -/
structure Gathered (a k : Nat) (s u : State) : Prop where
  rest : { u with ctls := s.ctls } = s
  own : (getCtl u (stackOf a)).wcb = []
  high : (getCtl u (partnerOf (stackOf a))).cfgEff = (getCtl s (partnerOf (stackOf a))).cfgEff
  buffer : ∃ e, (getCtl u (partnerOf (stackOf a))).wcb = [e] ∧ CopyEntry a k s e

/-- What a line must meet to be copied: its stack's buffer empty, its stored sectors without an error, room in the partner's buffer. -/
structure Copyable (a : Nat) (s : State) : Prop where
  aligned : a % 128 = 0
  own : (getCtl s (stackOf a)).wcb = []
  partner : (getCtl s (partnerOf (stackOf a))).wcb = []
  room : 1 < (getCtl s (partnerOf (stackOf a))).cfgEff.wcbHigh.toNat
  clean : ∀ k, k < 4 → chkAt s (a + 32 * k) = 0#32

section
variable {a k : Nat} {s u : State} (c : Copyable a s)
include c

/-- A sector of the line as its controller reads it, while nothing is buffered for the line. -/
theorem ctlRead_copied (hk : k < 4) (hrest : { u with ctls := s.ctls } = s) (hown : (getCtl u (stackOf a)).wcb = []) :
    ctlRead (a + 32 * k) u = ({ data := memSector s (a + 32 * k) }, countRd (a + 32 * k) u) := by
  have hchk : chkAt u (a + 32 * k) = 0#32 := by
    rw [← c.clean k hk, chkAt, chkAt, (congrArg State.chkXor hrest :)]
  have hnone : (getCtl u (stackOf (a + 32 * k))).entry (lineOf (a + 32 * k)) = none := by
    rw [stackOf_sector c.aligned hk, Ctl.entry, hown]
    rfl
  rw [ctlRead_unbuffered hnone, stackRead_clean hchk, memSector_of_mem (s := s) (t := u) (congrArg State.mem hrest :)]

theorem gathered_first : Gathered a 1 s (copySector a 0 s) := by
  have hk : 0 < 4 := by decide
  have hp := stackOf_copySector c.aligned hk
  obtain ⟨r, hr⟩ := ctlsCount_countRd (a + 32 * 0) s (partnerOf (stackOf a))
  obtain ⟨q, hq⟩ := ctlsCount_countRd (a + 32 * 0) s (stackOf a)
  have hnone : (getCtl (countRd (a + 32 * 0) s) (stackOf (copyAddr (a + 32 * 0)))).entry (lineOf (copyAddr (a + 32 * 0))) = none := by
    rw [hp, hr, Ctl.entry]
    dsimp only
    rw [c.partner]
    rfl
  have hwrite : copySector a 0 s =
      takeEntry (copyAddr (a + 32 * 0)) (BitVec.allOnes 32) { data := memSector s (a + 32 * 0) } (countRd (a + 32 * 0) s) := by
    rw [copySector, ctlRead_copied c hk rfl c.own]
    apply ctlWrite_new hnone
    · rw [hp, hr]
      simp [c.partner]
    · rw [hp, hr]
      simpa [c.partner] using c.room
  rw [hwrite, takeEntry, hp]
  have hentry := (copyEntry_fresh a s).merge hk s.stg.upNs
  refine ⟨?_, ?_, ?_, _, ?_, hentry⟩
  · rw [ctls_modCtl_rest, countRd, ctls_modCtl_rest]
  · rw [getCtl_modCtl, if_neg (partnerOf_ne _).symm, hq]
    exact c.own
  · rw [getCtl_modCtl_self, hr]
  · rw [getCtl_modCtl_self, hr]
    dsimp only
    rw [c.partner, newEntry, lineOf_copySector c.aligned hk, sector_copySector c.aligned hk]
    rfl

/-- A further sector merges into the entry; what the controllers then hold. -/
theorem copySector_merges (g : Gathered a k s u) (hk : k < 4) :
    ∃ (e : WcbEntry) (v : State), CopyEntry a (k + 1) s e ∧ { v with ctls := s.ctls } = s ∧ (getCtl v (stackOf a)).wcb = [] ∧
      (getCtl v (partnerOf (stackOf a))).wcb = [e] ∧
      (getCtl v (partnerOf (stackOf a))).cfgEff = (getCtl s (partnerOf (stackOf a))).cfgEff ∧
      copySector a k u = drainDown (partnerOf (stackOf a))
        (if e.enables = BitVec.allOnes 128 then drainEntry (partnerOf (stackOf a)) e v else v) := by
  obtain ⟨hrest, hown, hhigh, e, hwcb, he⟩ := g
  have hp := stackOf_copySector c.aligned hk
  obtain ⟨r, hr⟩ := ctlsCount_countRd (a + 32 * k) u (partnerOf (stackOf a))
  obtain ⟨q, hq⟩ := ctlsCount_countRd (a + 32 * k) u (stackOf a)
  have hbuf : (getCtl (countRd (a + 32 * k) u) (stackOf (copyAddr (a + 32 * k)))).wcb = [e] := by
    rw [hp, hr]
    exact hwcb
  have hline : e.line = lineOf (copyAddr (a + 32 * k)) := by rw [he.line, lineOf_copySector c.aligned hk]
  have hentry := he.merge hk u.stg.upNs
  refine ⟨_, mergeEntry (copyAddr (a + 32 * k)) (BitVec.allOnes 32) { data := memSector s (a + 32 * k) } (countRd (a + 32 * k) u),
    hentry, ?_, ?_, ?_, ?_, ?_⟩
  · rw [mergeEntry, ctls_modCtl_rest, countRd, ctls_modCtl_rest]
    exact hrest
  · rw [mergeEntry, hp, getCtl_modCtl, if_neg (partnerOf_ne _).symm, hq]
    exact hown
  · rw [← hp, wcb_mergeEntry hbuf hline, sector_copySector c.aligned hk]
    rfl
  · rw [mergeEntry, hp, getCtl_modCtl_self, hr]
    exact hhigh
  · rw [copySector, ctlRead_copied c hk hrest hown, ctlWrite_merge hbuf hline, sector_copySector c.aligned hk, hp]
    rfl

theorem gathered_next (g : Gathered a k s u) (hk : k + 1 < 4) : Gathered a (k + 1) s (copySector a k u) := by
  obtain ⟨e, v, he, hrest, hown, hwcb, hhigh, heq⟩ := copySector_merges c g (by omega)
  rw [heq, if_neg (by rw [he.full_iff]; omega), drainDown_of_below]
  · exact ⟨hrest, hown, hhigh, e, hwcb, he⟩
  · rw [hwcb, hhigh]
    exact c.room

/-- The last sector fills the entry, and the line stands in the copy. -/
theorem copySector_last (g : Gathered a 3 s u) :
    ∃ e v, CopyEntry a 4 s e ∧ { v with ctls := s.ctls } = s ∧ Drained e [0, 1, 2, 3] v (copySector a 3 u) := by
  obtain ⟨e, v, he, hrest, hown, hwcb, hhigh, heq⟩ := copySector_merges c g (by decide)
  have hfull : ∀ j, j < 4 → e.en j = 0#32 ∨ e.en j = BitVec.allOnes 32 := fun j hj => .inr ((he.en j hj).trans (if_pos hj))
  have hdrained := drained_drainEntry (n := partnerOf (stackOf a)) hfull v
  have hempty : drainDown (partnerOf (stackOf a)) (drainEntry (partnerOf (stackOf a)) e v) = drainEntry (partnerOf (stackOf a)) e v := by
    apply drainDown_of_below
    obtain ⟨r, hr⟩ := hdrained.ctls (partnerOf (stackOf a))
    rw [hr, dropEntry, getCtl_modCtl_self]
    dsimp only
    rw [hwcb, hhigh]
    simpa using Nat.zero_lt_of_lt c.room
  refine ⟨e, dropEntry (partnerOf (stackOf a)) e.line v, he, hrest, ?_⟩
  rw [heq, if_pos (he.full_iff.mpr (by decide)), hempty]
  exact hdrained

end

-- the row (R257)

theorem forEach_four (f : Nat → State → State) (s : State) : forEach (List.range 4) f s = f 3 (f 2 (f 1 (f 0 s))) := rfl

/-- A line in the copy: its bytes with right check bytes, every other byte as before, and nothing else changed but controllers. -/
structure LineCopied (a : Nat) (s t : State) : Prop where
  data : ∀ b, b < 128 → memByte t (copyAddr a + b) = memByte s (a + b)
  chk : ∀ k, k < 4 → chkAt t (copyAddr a + 32 * k) = 0#32
  others : ∀ x, ¬ (copyAddr a ≤ x ∧ x < copyAddr a + 128) → memByte t x = memByte s x
  rest : { t with mem := s.mem, chkXor := s.chkXor, ctls := s.ctls } = s

theorem lineCopied {a : Nat} {s : State} (c : Copyable a s) : LineCopied a s (forEach (List.range 4) (copySector a) s) := by
  have g2 := gathered_next c (gathered_next c (gathered_first c) (by decide)) (by decide)
  obtain ⟨e, v, he, hrest, hd⟩ := copySector_last c g2
  have hfull : ∀ k, k < 4 → e.en k = BitVec.allOnes 32 := fun k hk => (he.en k hk).trans (if_pos hk)
  have hline : e.line * 128 = copyAddr a := by rw [he.line, lineOf_copyAddr_mul c.aligned]
  have hv (x : Nat) : memByte v x = memByte s x := (congrArg (fun t : State => memByte t x) hrest :)
  rw [forEach_four]
  refine ⟨fun b hb => ?_, fun k hk => ?_, fun x hx => ?_, ?_⟩
  · have hk : b / 32 < 4 := by omega
    have hbyte := hd.data (b / 32) (mem_sectors.mpr hk) (hfull _ hk) (b % 32) (Nat.mod_lt _ (by decide))
    rw [he.dat _ hk hk, byteOf_memSector _ _ (Nat.mod_lt _ (by decide)), hline] at hbyte
    rwa [Nat.add_assoc, Nat.add_assoc, Nat.div_add_mod] at hbyte
  · have hclean : e.drainPoison k v = false := by
      rw [WcbEntry.drainPoison, he.poison k, he.covers k hk hk]
      rfl
    have hchk := hd.chk k (mem_sectors.mpr hk) (hfull k hk)
    rwa [hline, hclean, if_neg Bool.false_ne_true] at hchk
  · rw [hd.others x, hv]
    rintro k hk ⟨-, hlo, hhi⟩
    have := mem_sectors.mp hk
    omega
  · have hkept : { v with mem := s.mem, chkXor := s.chkXor, ctls := s.ctls } = s :=
      (congrArg (fun t : State => { t with mem := s.mem, chkXor := s.chkXor }) hrest :)
    exact onlyMemory_trans hkept hd.rest

/-- The region goes on to its next line, or its copying ends. -/
def stepMirror (base : Nat) (rg : Region) (a : Nat) (s : State) : State :=
  modRegion base (fun r => { r with
    mirrorNext := if decide (rg.base + rg.len ≤ a + 128) then none else some (a + 128)
    mirrorCmd := if decide (rg.base + rg.len ≤ a + 128) then none else r.mirrorCmd }) s

theorem mirrorNext_stepMirror {base a : Nat} {rg : Region} {s : State} {r : Region} (hr : r ∈ (stepMirror base rg a s).regions)
    (hb : r.base = base) :
    r.mirrorNext = if rg.base + rg.len ≤ a + 128 then none else some (a + 128) := by
  obtain ⟨x, -, rfl⟩ := List.mem_map.mp hr
  split at hb
  next hx =>
    rw [if_pos hx]
    simp only [decide_eq_true_eq]
  next hx => exact absurd hb hx

/-- The command that the end of the copying completes. -/
def finishMirror (rg : Region) (a : Nat) (s : State) : State :=
  match rg.mirrorCmd with
  | some c => if rg.base + rg.len ≤ a + 128 then finishCmd c stOk 0 s else s
  | none => s

/-- Completing a command changes the Innkeeper alone. -/
theorem finishCmd_rest (id : Nat) (st : BitVec 16) (res : Nat) (s : State) : { finishCmd id st res s with innk := s.innk } = s := by
  unfold finishCmd
  split
  · rfl
  · split <;> rfl

theorem finishMirror_rest (rg : Region) (a : Nat) (s : State) : { finishMirror rg a s with innk := s.innk } = s := by
  unfold finishMirror
  split
  · split
    · exact finishCmd_rest ..
    · rfl
  · rfl

theorem exec_mirrorLineCopy {base a : Nat} {s : State} {rg : Region} (hrg : s.regions.find? (fun r => r.base == base) = some rg)
    (ha : rg.mirrorNext = some a) (hs : ctlServes s (stackOf a) = true) (hp : ctlServes s (partnerOf (stackOf a)) = true) :
    exec (.mirrorLineCopy base) s = .next (finishMirror rg a (stepMirror base rg a (forEach (List.range 4) (copySector a) s))) := by
  have hones : BitVec.ofNat 32 0xFFFFFFFF = BitVec.allOnes 32 := by decide
  refine congrArg Host.Outcome.next ?_
  unfold doMirrorLineCopy
  rw [hrg]
  dsimp only
  rw [ha]
  dsimp only
  rw [if_neg (by simp [hs, hp]), hones]
  change (match decide (rg.base + rg.len ≤ a + 128), rg.mirrorCmd with
    | true, some c => finishCmd c stOk 0 (stepMirror base rg a (forEach (List.range 4) (copySector a) s))
    | _, _ => stepMirror base rg a (forEach (List.range 4) (copySector a) s)) = _
  generalize stepMirror base rg a (forEach (List.range 4) (copySector a) s) = t
  unfold finishMirror
  cases rg.mirrorCmd with
  | none => by_cases hdone : rg.base + rg.len ≤ a + 128 <;> simp [hdone]
  | some c => by_cases hdone : rg.base + rg.len ≤ a + 128 <;> simp [hdone]

/-- Settles O28: four sectors gather and drain, the region steps on, and the last line completes the command. -/
theorem mirrorCopy : Obligations.MirrorCopy := by
  unfold Obligations.MirrorCopy
  intro base a s rg hrg hnext ha hs hp hown hpartner hroom hclean
  obtain ⟨hdata, hchk, hothers, hrest⟩ := lineCopied ⟨ha, hown, hpartner, hroom, hclean⟩
  refine ⟨_, exec_mirrorLineCopy hrg hnext hs hp, ?_⟩
  generalize forEach (List.range 4) (copySector a) s = u at hdata hchk hothers hrest ⊢
  have hend := finishMirror_rest rg a (stepMirror base rg a u)
  have hmem : (finishMirror rg a (stepMirror base rg a u)).mem = u.mem := (congrArg State.mem hend :)
  have hxor : (finishMirror rg a (stepMirror base rg a u)).chkXor = u.chkXor := (congrArg State.chkXor hend :)
  have hregions : (finishMirror rg a (stepMirror base rg a u)).regions = (stepMirror base rg a u).regions := (congrArg State.regions hend :)
  have hbyte (x : Nat) : memByte (finishMirror rg a (stepMirror base rg a u)) x = memByte u x := by rw [memByte, memByte, hmem]
  refine ⟨fun b hb => (hbyte _).trans (hdata b hb), fun k hk => ?_, fun x hx => (hbyte x).trans (hothers x hx), fun r hr hb => ?_, ?_⟩
  · rw [← hchk k hk, chkAt, chkAt, hxor]
  · exact mirrorNext_stepMirror (hregions ▸ hr) hb
  · intro id c hid hc hphase hdone
    have hcmd : getCmd (stepMirror base rg a u) id = some c := by
      rw [← hc, getCmd, getCmd, (congrArg State.innk hrest : _ = s.innk).symm]
      rfl
    obtain ⟨d, -, hd⟩ := (finishCmd_done stOk 0 hcmd hphase).cmd
    rw [finishMirror, hid]
    dsimp only
    rw [if_pos hdone]
    exact ⟨_, hd, rfl, rfl, rfl⟩

end Sys2Proof.Machine
end

section
/-! PROOFS. The die-to-die links (R241 to R243, R283, R293; O30): what a stage fault and the loss of units leave of memory, of the links and of
what has left service, then a link's words, its faults and its loss. -/

namespace Sys2Proof.Machine

-- what a fault on a link leaves as it is

/-- A link as the sideband reports it. -/
def linkAt (s : State) (n : Nat) : Link := tabGet {} s.sb.links n

/-- The parts of the state on which memory, running legs, links and processor dies in service rest. -/
def linkView (s : State) : Variant × List Host.Cell × Tab (Option Itin) × Tab Link × BitVec 8 × Tab PxDie :=
  (s.variant, s.mem, s.itins, s.sb.links, s.ldg.linkLost, s.px)

/-- Legs may have been discarded and units lost, and nothing comes back: no leg starts, no link or processor die returns to service; memory is
as it was, and so is each link but for LIVE. -/
structure LossKept (s t : State) : Prop where
  variant : t.variant = s.variant
  mem : t.mem = s.mem
  legs : ∀ k, legOf s k = none → legOf t k = none
  links : ∀ n, ∃ b, linkAt t n = { linkAt s n with regs := { (linkAt s n).regs with live := b } }
  lost : ∀ n, s.ldg.linkLost.getLsbD n = true → t.ldg.linkLost.getLsbD n = true
  dark : ∀ d, (getPx s d).live = false → (getPx t d).live = false

theorem LossKept.refl (s : State) : LossKept s s :=
  ⟨rfl, rfl, fun _ h => h, fun n => ⟨(linkAt s n).regs.live, rfl⟩, fun _ h => h, fun _ h => h⟩

theorem LossKept.trans {s t u : State} (h : LossKept s t) (k : LossKept t u) : LossKept s u := by
  refine ⟨k.variant.trans h.variant, k.mem.trans h.mem, fun i hi => k.legs i (h.legs i hi), fun n => ?_, fun n hn => k.lost n (h.lost n hn),
    fun d hd => k.dark d (h.dark d hd)⟩
  obtain ⟨b, hb⟩ := h.links n
  obtain ⟨c, hc⟩ := k.links n
  exact ⟨c, by rw [hc, hb]⟩

theorem lossKept_of_view {s t : State} (h : linkView t = linkView s) : LossKept s t := by
  simp only [linkView, Prod.mk.injEq] at h
  obtain ⟨hvariant, hmem, hitins, hlinks, hlost, hpx⟩ := h
  refine ⟨hvariant, hmem, fun k hk => ?_, fun n => ⟨(linkAt s n).regs.live, ?_⟩, fun n hn => hlost ▸ hn, fun d hd => ?_⟩
  · rwa [legOf, getItin_of_itins hitins]
  · rw [linkAt, hlinks]
    rfl
  · rwa [getPx, hpx]

theorem lossKept_forEach {α : Type} {f : α → State → State} (xs : List α) (s : State) (h : ∀ x t, LossKept t (f x t)) :
    LossKept s (forEach xs f s) :=
  forEach_preserves (P := LossKept s) (fun x t ht => ht.trans (h x t)) xs (.refl s)

theorem lossKept_modItin {n : Nat} {f : Itin → Itin} (h : ∀ i, i.leg = none → (f i).leg = none) (s : State) : LossKept s (modItin n f s) := by
  refine ⟨rfl, rfl, fun k hk => ?_, fun n => ⟨(linkAt s n).regs.live, rfl⟩, fun _ h => h, fun _ h => h⟩
  rw [legOf, getItin_modItin]
  split
  next hkn =>
    subst hkn
    unfold legOf at hk
    cases hi : getItin s k with
    | none => rfl
    | some i =>
      rw [hi] at hk
      exact h i hk
  next => exact hk

-- operations that touch none of these parts

theorem linkView_modHome (n : Nat) (f : Home → Home) (s : State) : linkView (modHome n f s) = linkView s := rfl
theorem linkView_modCtl (n : Nat) (f : Ctl → Ctl) (s : State) : linkView (modCtl n f s) = linkView s := rfl
theorem linkView_modLdg {f : Ledger → Ledger} (s : State) (h : (f s.ldg).linkLost = s.ldg.linkLost) : linkView (modLdg f s) = linkView s := by
  simp only [linkView, modLdg_ldg, h, modLdg_variant, modLdg_mem, modLdg_itins, modLdg_sb, modLdg_px]

theorem linkView_logErr (r : ErrRec) (s : State) : linkView (logErr r s) = linkView s := by
  unfold logErr
  dsimp only
  split <;> rfl

theorem linkView_finishCmd (id : Nat) (st : BitVec 16) (res : Nat) (s : State) : linkView (finishCmd id st res s) = linkView s := by
  unfold finishCmd
  split
  · rfl
  · split <;> rfl

theorem linkView_stopLegWork (k : Nat) (leg : Leg) (s : State) : linkView (stopLegWork k leg s) = linkView s :=
  forEach_keeps linkView (f := fun c t => modCluster c Cluster.stopWork t) (fun _ _ => rfl) leg.clusters s

theorem linkView_takeOffline (c : Nat) (s : State) : linkView (takeOffline c s) = linkView s := linkView_logErr ..

theorem linkView_abortRegionCmds (n : Nat) (s : State) : linkView (abortRegionCmds n s) = linkView s := by
  refine forEach_keeps linkView (fun r t => ?_) _ s
  split
  · split
    · exact linkView_finishCmd ..
    · rfl
  · rfl

theorem linkView_sendCtrlNow (id : Nat) (s : State) : linkView (sendCtrlNow id s) = linkView s := by
  unfold sendCtrlNow
  split
  · rfl
  · split
    · split <;> rfl
    · rfl

theorem linkView_sendCtrl (dev : Word) (m : CtrlOut) (s : State) : linkView (sendCtrl dev m s) = linkView s := by
  unfold sendCtrl
  split
  · rfl
  · unfold pumpCtrl
    split
    · rfl
    · exact forEach_keeps linkView (fun _ _ => linkView_sendCtrlNow ..) _ _

theorem linkView_sendRollbacks (s : State) : linkView (sendRollbacks s) = linkView s := by
  refine forEach_keeps linkView (fun k t => ?_) _ s
  split
  · split
    · dsimp only
      split
      · exact forEach_keeps linkView (fun _ _ => linkView_sendCtrl ..) _ _
      · rfl
    · rfl
  · rfl

theorem linkView_cutIod (s : State) : linkView (cutIod s) = linkView s := by
  unfold cutIod
  split
  · refine forEach_keeps linkView (f := fun id t => match getCmd t id with
      | some c => if c.ph < 64 then t else finishCmd id stAborted 0 t
      | none => t) (fun id t => ?_) _ s
    split
    · split
      · rfl
      · exact linkView_finishCmd ..
    · rfl
  · rfl

-- legs are discarded and jobs stopped (R283, R288)

theorem lossKept_stopJob (k fclass : Nat) (fi : Option FaultInfo) (s : State) : LossKept s (stopJob k fclass fi s) := by
  unfold stopJob
  split
  · exact .refl s
  · split
    · exact .refl s
    · split
      · exact .refl s
      · split
        next l _ =>
          have hstop : LossKept s (dropRecvs k (stopLegWork k l s)) := lossKept_of_view (linkView_stopLegWork k l s)
          exact (hstop.trans (lossKept_modItin (fun _ _ => rfl) _)).trans (lossKept_of_view (linkView_modLdg _ rfl))
        next =>
          have hdrop : LossKept s (dropRecvs k s) := lossKept_of_view rfl
          exact (hdrop.trans (lossKept_modItin (fun _ _ => rfl) _)).trans (lossKept_of_view (linkView_modLdg _ rfl))

theorem lossKept_discardLeg (k : Nat) (fi : FaultInfo) (s : State) : LossKept s (discardLeg k fi s) := by
  unfold discardLeg
  split
  · exact .refl s
  · split
    · exact .refl s
    next leg _ =>
      extract_lets stopped now noted rmax acting replayed
      have hnoted : LossKept s noted := lossKept_of_view (linkView_stopLegWork k leg s)
      have hreplayed : LossKept s replayed := hnoted.trans (lossKept_modItin (fun _ _ => rfl) noted)
      clear_value noted replayed
      split
      · exact hnoted.trans (lossKept_modItin (fun _ _ => rfl) noted)
      · split
        · split
          next c _ =>
            refine (hreplayed.trans (lossKept_of_view (linkView_takeOffline c replayed))).trans (lossKept_forEach _ _ fun j t => ?_)
            apply lossKept_modItin
            intro i hi
            split <;> exact hi
          next => exact hreplayed.trans (lossKept_stopJob ..)
        · exact hreplayed

theorem legOf_discardLeg (k : Nat) (fi : FaultInfo) (s : State) : legOf (discardLeg k fi s) k = none := by
  cases hl : legOf s k with
  | none => exact (lossKept_discardLeg k fi s).legs k hl
  | some l =>
    obtain ⟨i, hi, hil⟩ := Option.bind_eq_some_iff.mp hl
    obtain ⟨j, hj, hjl⟩ := legGone_discardLeg (fi := fi) hi hil
    rw [legOf, hj]
    exact hjl

theorem lossKept_stageFault (ks : List Nat) (fi : FaultInfo) (s : State) : LossKept s (stageFault ks fi s) := by
  unfold stageFault
  refine LossKept.trans ?_ (lossKept_forEach ks _ fun k t => lossKept_discardLeg k fi t)
  exact lossKept_of_view (linkView_modLdg _ rfl)

theorem tabGet_mem {α : Type} {d : α} {t : Tab α} {n : Nat} (h : tabGet d t n ≠ d) : (n, tabGet d t n) ∈ t := by
  induction t with
  | nil => exact absurd rfl h
  | cons p t ih =>
    obtain ⟨m, v⟩ := p
    by_cases hm : m = n
    · simp [tabGet, hm]
    · rw [tabGet, if_neg hm] at h ⊢
      exact List.mem_cons_of_mem _ (ih h)

theorem mem_runningItins {s : State} {k : Nat} (h : legOf s k ≠ none) : k ∈ runningItins s := by
  obtain ⟨l, hl⟩ := Option.ne_none_iff_exists'.mp h
  obtain ⟨i, hi, hil⟩ := Option.bind_eq_some_iff.mp hl
  have hmem : (k, some i) ∈ s.itins := by
    have := tabGet_mem (d := none) (t := s.itins) (n := k) (by rw [← getItin, hi]; exact Option.some_ne_none i)
    rwa [← getItin, hi] at this
  exact List.mem_filterMap.mpr ⟨(k, some i), hmem, by simp [hil]⟩

/-- R242, R283: A stage fault of every running leg leaves none. -/
theorem legOf_stageFault_all (fi : FaultInfo) (s : State) (k : Nat) : legOf (stageFault (runningItins s) fi s) k = none := by
  by_cases hl : legOf s k = none
  · exact (lossKept_stageFault _ fi s).legs k hl
  · exact forEach_reaches (Q := fun _ => True) (P := fun t => legOf t k = none) (fun _ _ _ => trivial)
      (fun j t ht => (lossKept_discardLeg j fi t).legs k ht) (fun t _ => legOf_discardLeg k fi t) (mem_runningItins hl) trivial

-- units leave service (R293, R456)

/-- What a property of the entries of a table keeps, when each entry is changed alike. -/
theorem tabGet_map_keeps {α : Type} {P : α → Prop} {f : α → α} {d : α} (hf : ∀ x, P x → P (f x)) (t : Tab α) {n : Nat} (h : P (tabGet d t n)) :
    P (tabGet d (t.map fun p => (p.1, f p.2)) n) := by
  induction t with
  | nil => exact h
  | cons p t ih =>
    obtain ⟨m, v⟩ := p
    by_cases hm : m = n
    · simp only [List.map_cons, tabGet, if_pos hm] at h ⊢
      exact hf v h
    · simp only [List.map_cons, tabGet, if_neg hm] at h ⊢
      exact ih h

/-- An update of each processor die's cache. -/
theorem lossKept_mapPx {f : PxDie → PxDie} (h : ∀ p, (f p).live = p.live) (s : State) :
    LossKept s { s with px := s.px.map fun p => (p.1, f p.2) } := by
  refine ⟨rfl, rfl, fun _ h => h, fun n => ⟨(linkAt s n).regs.live, rfl⟩, fun _ h => h, fun d hd => ?_⟩
  exact tabGet_map_keeps (P := fun p : PxDie => p.live = false) (fun p hp => (h p).trans hp) s.px hd

theorem lossKept_dropHome (n : Nat) (s : State) : LossKept s (dropHome n s) := by
  unfold dropHome
  extract_lets lost aborted own foreign
  have haborted : LossKept s aborted := lossKept_of_view (forEach_keeps linkView (fun _ _ => linkView_finishCmd ..) _ s)
  have hforeign : LossKept aborted foreign := lossKept_of_view ((linkView_modHome ..).trans (linkView_modHome ..))
  clear_value foreign
  refine (haborted.trans hforeign).trans ?_
  exact lossKept_mapPx (f := fun p => PxDie.lose lost { p with cache := p.cache.filter (fun q => !lost q.1) }) (fun _ => rfl) foreign

theorem lossKept_fenceStack (n : Nat) (s : State) : LossKept s (fenceStack n s) := by
  unfold fenceStack
  extract_lets home aborted emptied
  have haborted : LossKept home aborted := lossKept_of_view (linkView_abortRegionCmds n home)
  have hemptied : LossKept aborted emptied := lossKept_of_view (linkView_modCtl ..)
  have hhome : LossKept s home := lossKept_dropHome n s
  clear_value home aborted emptied
  exact ((hhome.trans haborted).trans hemptied).trans (lossKept_of_view rfl)

theorem lossKept_loseStackUnit (n : Nat) (s : State) : LossKept s (loseStackUnit n s) := by
  unfold loseStackUnit
  split
  · refine LossKept.trans ?_ (lossKept_fenceStack ..)
    exact lossKept_of_view (linkView_modLdg _ rfl)
  · exact .refl s

theorem lossKept_loseHalfUnit (n : Nat) (s : State) : LossKept s (loseHalfUnit n s) := by
  unfold loseHalfUnit
  split
  · refine LossKept.trans ?_ (lossKept_loseStackUnit ..)
    exact lossKept_of_view (linkView_modLdg _ rfl)
  · exact .refl s

theorem lossKept_loseLinkUnit (n : Nat) (s : State) : LossKept s (loseLinkUnit n s) := by
  unfold loseLinkUnit
  split
  · refine ⟨rfl, rfl, fun _ h => h, fun m => ?_, fun m hm => setBit_mono n hm, fun _ h => h⟩
    by_cases hm : m = n
    · subst hm
      exact ⟨0#1, tabGet_tabSet_self ..⟩
    · exact ⟨(linkAt s m).regs.live, tabGet_tabSet_ne hm⟩
  · exact .refl s

theorem live_losePx (d e : Nat) (s : State) : (getPx (losePx d s) e).live = if e = d then false else (getPx s e).live := by
  unfold losePx
  extract_lets dark
  change (getPx dark e).live = _
  unfold dark
  rw [getPx_modPx]
  split <;> rfl

theorem lossKept_losePx (d : Nat) (s : State) : LossKept s (losePx d s) := by
  refine ⟨rfl, rfl, fun _ h => h, fun n => ⟨(linkAt s n).regs.live, rfl⟩, fun _ h => h, fun e he => ?_⟩
  rw [live_losePx, he, ite_self]

theorem losePx_dark (d : Nat) (s : State) : (getPx (losePx d s) d).live = false := by
  rw [live_losePx, if_pos rfl]

theorem lossKept_loseDieUnit (d : Nat) (s : State) : LossKept s (loseDieUnit d s) := by
  unfold loseDieUnit
  split
  · extract_lets halves marked links px0
    have hmarked : LossKept s marked :=
      ((lossKept_loseHalfUnit ..).trans (lossKept_loseHalfUnit ..)).trans (lossKept_of_view (linkView_modLdg _ rfl))
    have hlinks : LossKept s links := hmarked.trans (lossKept_forEach _ _ lossKept_loseLinkUnit)
    have hpx0 : LossKept s px0 := by
      unfold px0
      split
      · exact hlinks.trans (lossKept_losePx ..)
      · exact hlinks
    split
    · exact hpx0.trans (lossKept_losePx ..)
    · exact hpx0
  · exact .refl s

theorem lossKept_loseUnreachable (s : State) : LossKept s (loseUnreachable s) := by
  refine lossKept_forEach _ _ fun d t => ?_
  split
  · exact lossKept_loseDieUnit d t
  · exact .refl t

theorem lossKept_selectForRestart (s : State) : LossKept s (selectForRestart s) := by
  refine lossKept_forEach _ _ fun r t => ?_
  split
  · apply lossKept_modItin
    exact fun _ h => h
  · refine LossKept.trans ?_ (lossKept_stopJob ..)
    apply lossKept_modItin
    exact fun _ h => h

/-- A state-loss fault brings back nothing of what its units' loss took. -/
theorem lossKept_stateLoss (lose : State → State) (addr : Word) (frec : Nat) (s : State) : LossKept (lose s) (stateLoss lose addr frec s) := by
  unfold stateLoss
  extract_lets alive lost px now ks discarded noted cleared
  have hlost : LossKept (lose s) lost := lossKept_loseUnreachable _
  have hdiscarded : LossKept lost discarded := lossKept_forEach _ _ fun _ _ => lossKept_discardLeg ..
  have hnoted : LossKept discarded noted := lossKept_of_view (linkView_modLdg _ rfl)
  have hcleared : LossKept noted cleared := lossKept_of_view rfl
  clear_value cleared
  refine (((hlost.trans hdiscarded).trans hnoted).trans hcleared).trans ?_
  have hselected : LossKept cleared (if iodCut cleared then cleared else selectForRestart cleared) := by
    split
    · exact .refl cleared
    · exact lossKept_selectForRestart cleared
  exact hselected.trans (lossKept_of_view ((linkView_cutIod _).trans (linkView_sendRollbacks _)))

-- the loss of a link (R242, R243)

/-- A link leaves service, a spur with its processor die. -/
def loseLink (n : Nat) (s : State) : State :=
  if n = 4 then losePx 0 (loseLinkUnit n s) else if n = 5 then losePx 1 (loseLinkUnit n s) else loseLinkUnit n s

theorem lossKept_loseLink (n : Nat) (s : State) : LossKept s (loseLink n s) := by
  have hlink := lossKept_loseLinkUnit n s
  unfold loseLink
  split
  · exact hlink.trans (lossKept_losePx ..)
  · split
    · exact hlink.trans (lossKept_losePx ..)
    · exact hlink

theorem linkLive_fitted {s : State} {n : Nat} (h : linkLive s n = true) : s.variant.hasLink n = true ∧ n < 8 := by
  simp only [linkLive, Bool.and_eq_true] at h
  have hfit := h.1
  simp only [Variant.hasLink, Bool.and_eq_true, decide_eq_true_eq] at hfit
  exact ⟨h.1, hfit.1⟩

theorem linkLive_of_lost {s : State} {n : Nat} (h : s.ldg.linkLost.getLsbD n = true) : linkLive s n = false := by
  rw [linkLive, h, Bool.not_true, Bool.and_false]

theorem loseLinkUnit_lost {n : Nat} {s : State} (hfit : s.variant.hasLink n = true) (h8 : n < 8) :
    (loseLinkUnit n s).ldg.linkLost.getLsbD n = true := by
  unfold loseLinkUnit
  rw [if_pos hfit]
  exact setBit_self _ h8

theorem loseLink_lost {n : Nat} {s : State} (hfit : s.variant.hasLink n = true) (h8 : n < 8) : (loseLink n s).ldg.linkLost.getLsbD n = true := by
  have hlost := loseLinkUnit_lost hfit h8
  unfold loseLink
  split
  · exact hlost
  · split <;> exact hlost

theorem linkLoss_live {n : Nat} {s : State} (h : linkLive s n = true) :
    linkLoss n s = stateLoss (loseLink n) 0#64 s.errSeq (logErr { cls := 0x0E, action := 2, source := 0x06, unit := n } s) := if_pos h

theorem lossKept_linkLoss (n : Nat) (s : State) : LossKept s (linkLoss n s) := by
  by_cases h : linkLive s n = true
  · rw [linkLoss_live h]
    exact ((lossKept_of_view (linkView_logErr ..)).trans (lossKept_loseLink n _)).trans (lossKept_stateLoss ..)
  · rw [linkLoss, if_neg h]
    exact .refl s

theorem linkLoss_lost {n : Nat} {s : State} (h : linkLive s n = true) : (linkLoss n s).ldg.linkLost.getLsbD n = true := by
  obtain ⟨hfit, h8⟩ := linkLive_fitted h
  rw [linkLoss_live h]
  refine (lossKept_stateLoss ..).lost n (loseLink_lost ?_ h8)
  rw [(logErr_service _ s).1]
  exact hfit

/-- After the loss of a link it is not in service, whether it was before or not. -/
theorem linkLive_linkLoss (n : Nat) (s : State) : linkLive (linkLoss n s) n = false := by
  by_cases h : linkLive s n = true
  · exact linkLive_of_lost (linkLoss_lost h)
  · rw [linkLoss, if_neg h]
    exact Bool.not_eq_true _ ▸ h

/-- A spur takes the processor die behind it. -/
theorem linkLoss_dark {n d : Nat} {s : State} (h : linkLive s n = true) (hd : n = 4 ∧ d = 0 ∨ n = 5 ∧ d = 1) :
    (getPx (linkLoss n s) d).live = false := by
  rw [linkLoss_live h]
  refine (lossKept_stateLoss ..).dark d ?_
  rcases hd with ⟨rfl, rfl⟩ | ⟨rfl, rfl⟩ <;> exact losePx_dark _ _

-- the words of a link (R241)

/-- A link has counted what came over it, and the error log may have a record of it: memory, itineraries and the ledger are as they were. -/
structure LinkNoted (n : Nat) (f : Link → Link) (s t : State) : Prop where
  mem : t.mem = s.mem
  itins : t.itins = s.itins
  ldg : t.ldg = s.ldg
  link : linkAt t n = f (linkAt s n)

theorem linkNoted_log (n : Nat) (f : Link → Link) (r : ErrRec) (s : State) : LinkNoted n f s (logErr r (modLink n f s)) := by
  have hview := linkView_logErr r (modLink n f s)
  refine ⟨(congrArg (fun v => v.2.1) hview :), logErr_itins .., (logErr_service r _).2, ?_⟩
  have hlink : linkAt (logErr r (modLink n f s)) n = linkAt (modLink n f s) n := (congrArg (fun v => tabGet ({} : Link) v.2.2.2.1 n) hview :)
  rw [hlink]
  exact tabGet_tabSet_self ..

theorem LinkNoted.trans {n : Nat} {f g : Link → Link} {s t u : State} (h : LinkNoted n f s t) (k : LinkNoted n g t u) :
    LinkNoted n (fun l => g (f l)) s u :=
  ⟨k.mem.trans h.mem, k.itins.trans h.itins, k.ldg.trans h.ldg, by rw [k.link, h.link]⟩

def countCorrected (l : Link) : Link := { l with regs := { l.regs with corrected := satInc l.regs.corrected } }
def countResent (l : Link) : Link := { l with regs := { l.regs with resent := satInc l.regs.resent } }

/-- A failure is counted, and its time is kept for a second. -/
def countFailed (now : Nat) (l : Link) : Link := { l with
  regs := { l.regs with failed := satInc l.regs.failed }
  faultTimes := now :: l.faultTimes.filter (fun x => decide (now < x + secNs)) }

theorem linkNoted_corrects (n lane : Nat) (syn : BitVec 32) (p : Nat) (v : Byte) (s : State) :
    LinkNoted n countCorrected s (linkCorrects n lane syn p v s) := linkNoted_log ..

/-- A word sent again that arrives right, or correctable, is counted. -/
theorem linkNoted_again {again : WordErr} (h : decodeSyndromes (syndromes again.data again.chk) ≠ .uncorrectable) (n lane : Nat) (s : State) :
    LinkNoted n countResent s (linkAgain n lane again s) ∨ LinkNoted n (fun l => countCorrected (countResent l)) s (linkAgain n lane again s) := by
  have hgood := linkNoted_log n countResent { cls := 7, source := 6, unit := n, sub := lane } s
  unfold linkAgain
  dsimp only
  split
  · exact .inr (hgood.trans (linkNoted_corrects ..))
  · exact .inl hgood
  · exact .inl hgood
  next hbad => exact absurd hbad h

/-- A word that fails once more is counted and logged. -/
def noteFailed (n lane : Nat) (s : State) : State :=
  logErr { cls := 8, action := 1, source := 6, unit := n, sub := lane } (modLink n (countFailed s.stg.upNs) s)

/-- It is a stage fault of every running leg. -/
def failLink (n lane : Nat) (s : State) : State :=
  stageFault (runningItins (noteFailed n lane s)) { fclass := 4, frec := BitVec.ofNat 64 s.errSeq } (noteFailed n lane s)

theorem linkAgain_failed {again : WordErr} (h : decodeSyndromes (syndromes again.data again.chk) = .uncorrectable) (n lane : Nat) (s : State) :
    linkAgain n lane again s =
      if 3 ≤ (linkAt (failLink n lane s) n).faultTimes.length then linkLoss n (failLink n lane s) else failLink n lane s := by
  unfold linkAgain
  rw [h]
  rfl

theorem failLink_spec (n lane : Nat) (s : State) :
    (failLink n lane s).mem = s.mem ∧ (∀ k, legOf (failLink n lane s) k = none) ∧
      ∃ b, linkAt (failLink n lane s) n =
        { countFailed s.stg.upNs (linkAt s n) with regs := { (countFailed s.stg.upNs (linkAt s n)).regs with live := b } } := by
  obtain ⟨hmem, -, -, hlink⟩ : LinkNoted n (countFailed s.stg.upNs) s (noteFailed n lane s) := linkNoted_log ..
  have hkept : LossKept (noteFailed n lane s) (failLink n lane s) := lossKept_stageFault ..
  obtain ⟨b, hb⟩ := hkept.links n
  refine ⟨hkept.mem.trans hmem, fun k => legOf_stageFault_all .., b, ?_⟩
  rw [hlink] at hb
  exact hb

theorem exec_linkResend {n : Nat} {s : State} (hl : linkLive s n = true) (lane : Nat) (err again : WordErr) :
    exec (.linkResend n lane ⟨err, again⟩) s = .next (match decodeSyndromes (syndromes err.data err.chk) with
      | .corrected p v => linkCorrects n lane (syndromes err.data err.chk) p v s
      | .uncorrectable => linkAgain n lane again s
      | _ => s) := by
  refine congrArg Host.Outcome.next ?_
  unfold doLinkResend
  rw [if_neg (by simp [hl])]
  cases decodeSyndromes (syndromes err.data err.chk) <;> rfl

/-- Settles O30: words that arrive are counts of their link, a second failure a stage fault of every running leg, and a loss the state-loss
fault of the link. -/
theorem dieToDieLinks : Obligations.DieToDieLinks := by
  unfold Obligations.DieToDieLinks
  refine ⟨fun n lane err again s hl => ⟨fun p v hd => ?corrected, fun hd hagain => ?again, fun hd hagain => ?failed⟩, fun n s hl => ?training⟩
  case corrected =>
    have hnoted := linkNoted_corrects n lane (syndromes err.data err.chk) p v s
    exact ⟨_, by rw [exec_linkResend hl, hd], hnoted.mem, hnoted.itins, hnoted.ldg, (congrArg Link.regs hnoted.link :)⟩
  case again =>
    refine ⟨linkAgain n lane again s, by rw [exec_linkResend hl, hd], ?_⟩
    rcases linkNoted_again hagain n lane s with ⟨hmem, hitins, hldg, hlink⟩ | ⟨hmem, hitins, hldg, hlink⟩
    · exact ⟨hmem, hitins, hldg, (congrArg (fun l : Link => l.regs.resent) hlink :), (congrArg (fun l : Link => l.regs.failed) hlink :)⟩
    · exact ⟨hmem, hitins, hldg, (congrArg (fun l : Link => l.regs.resent) hlink :), (congrArg (fun l : Link => l.regs.failed) hlink :)⟩
  case failed =>
    obtain ⟨hmem, hlegs, b, hlink⟩ := failLink_spec n lane s
    have hfailed : (linkAt (failLink n lane s) n).regs.failed = satInc (linkAt s n).regs.failed := by rw [hlink]; rfl
    have hkept : LossKept (failLink n lane s) (linkAgain n lane again s) := by
      rw [linkAgain_failed hagain]
      split
      · exact lossKept_linkLoss ..
      · exact .refl _
    refine ⟨linkAgain n lane again s, by rw [exec_linkResend hl, hd], fun k => hkept.legs k (hlegs k), hkept.mem.trans hmem, ?_, fun htwo => ?_⟩
    · obtain ⟨c, hc⟩ := hkept.links n
      refine Eq.trans ?_ hfailed
      exact (congrArg (fun l : Link => l.regs.failed) hc :)
    · have hthree : 3 ≤ (linkAt (failLink n lane s) n).faultTimes.length := by
        rw [hlink]
        exact Nat.succ_le_succ htwo
      rw [linkAgain_failed hagain, if_pos hthree]
      exact linkLive_linkLoss ..
  case training =>
    exact ⟨linkLoss n s, rfl, linkLive_linkLoss n s, linkLoss_lost hl, (lossKept_linkLoss n s).mem, fun hn => linkLoss_dark hl (.inl ⟨hn, rfl⟩),
      fun hn => linkLoss_dark hl (.inr ⟨hn, rfl⟩)⟩

end Sys2Proof.Machine
end

section
/-! PROOFS. The commands on regions (R257, R343, R364 to R368; O39): each command's equation once its checks have passed, and how it ends. -/

namespace Sys2Proof.Machine

-- how a command that has passed its checks ends

/-- A row that puts a command's effect off to a Bell. -/
theorem exec_decides {i : Instr} {id op : Nat} {a : BellAct} {c : Cmd} {s : State} (hw : atWork s id op = some c)
    (h : exec i s = .next (addAct a id s)) : ∃ t, exec i s = .next t ∧ CmdDecided id a s t :=
  ⟨_, h, addAct_decided a (atWork_some hw).1⟩

/-- A row that completes its command. -/
theorem exec_completes {i : Instr} {id op res : Nat} {st : BitVec 16} {c : Cmd} {s : State} (hw : atWork s id op = some c)
    (h : exec i s = .next (finishCmd id st res s)) : ∃ t, exec i s = .next t ∧ CmdDone id st res s t :=
  ⟨_, h, finishCmd_atWork st res hw⟩

-- region.map (R364)

/-- The arguments of a region.map name whole pages of one stack in service, and a region that bypasses the caches is read-only. -/
structure MapArgsOk (c : Cmd) (s : State) : Prop where
  fit : argsFit c [allBits, allBits, 0xFF1F] = true
  nonempty : c.num 1 ≠ 0
  base : c.num 0 % 4096 = 0
  len : c.num 1 % 4096 = 0
  inside : inDevice (c.num 0) (c.num 1) = true
  stack : stackOf (c.num 0) = stackOf (c.num 0 + c.num 1 - 1)
  bypass : (c.arg 2).getLsbD 3 = true → (c.arg 2).getLsbD 0 = true
  live : stackLive s (stackOf (c.num 0)) = true

section
variable {id : Nat} {c : Cmd} {s : State} (hw : atWork s id 0x0301 = some c) (ok : MapArgsOk c s)
include hw ok

/-- R364: A range that is free but for the region with its base and length comes to the change of that region, or to a new one. -/
theorem doRegionMap_free {old : Option Region} (hold : (decidedAt s (c.num 0)).filter (fun r => r.len == c.num 1) = old)
    (hfree : mapConflict s (c.num 0) (c.num 1) (old.map (·.base)) = none) :
    doRegionMap id s = old.elim
      (if 65536 ≤ (mapDecided s).length then finishCmd id stDenied 0 s
        else addAct (.mapNew { base := c.num 0, len := c.num 1, ro := (c.arg 2).getLsbD 0, policy := bitsNat (c.arg 2) 1 2,
                               bypass := (c.arg 2).getLsbD 3, keep := (c.arg 2).getLsbD 4, pkey := bitsNat (c.arg 2) 8 8 } id) id s)
      (fun r =>
        if (r.sealed && !(c.arg 2).getLsbD 0) ||
            (holdsArea s r && !((c.arg 2).getLsbD 4 && bitsNat (c.arg 2) 1 2 == 1 && r.mirrored)) then finishCmd id stDenied 0 s
        else addAct (.mapAttr (c.num 0) ((c.arg 2).getLsbD 0) (bitsNat (c.arg 2) 1 2) ((c.arg 2).getLsbD 3) ((c.arg 2).getLsbD 4)
          (bitsNat (c.arg 2) 8 8) id) id s) := by
  refine (withCmd_of hw _).trans ?_
  have hargs : (c.num 0 % 4096 != 0 || !inDevice (c.num 0) (c.num 1) || stackOf (c.num 0) != stackOf (c.num 0 + c.num 1 - 1) ||
      ((c.arg 2).getLsbD 3 && !(c.arg 2).getLsbD 0)) = false := by
    simpa [ok.base, ok.inside, ← ok.stack] using ok.bypass
  dsimp only
  rw [if_neg (by simp [ok.fit]), if_neg ok.nonempty, if_neg (ne_true_of_eq_false hargs), if_neg (by simp [ok.len]), if_neg (by simp [ok.live]), hold,
    hfree]
  cases old <;> rfl

theorem exec_regionMap_new (hnone : decidedAt s (c.num 0) = none) (hfree : mapConflict s (c.num 0) (c.num 1) none = none)
    (hroom : (mapDecided s).length < 65536) :
    exec (.regionMap id) s = .next (addAct (.mapNew { base := c.num 0, len := c.num 1, ro := (c.arg 2).getLsbD 0, policy := bitsNat (c.arg 2) 1 2,
                                                      bypass := (c.arg 2).getLsbD 3, keep := (c.arg 2).getLsbD 4,
                                                      pkey := bitsNat (c.arg 2) 8 8 } id) id s) := by
  have hold : (decidedAt s (c.num 0)).filter (fun r => r.len == c.num 1) = none := by rw [hnone]; rfl
  exact congrArg Host.Outcome.next ((doRegionMap_free hw ok hold hfree).trans (if_neg (by omega)))

theorem exec_regionMap_attr {r : Region} (hr : decidedAt s (c.num 0) = some r) (hlen : r.len = c.num 1)
    (hfree : mapConflict s (c.num 0) (c.num 1) (some r.base) = none) (hseal : r.sealed = true → (c.arg 2).getLsbD 0 = true)
    (harea : holdsArea s r = true → (c.arg 2).getLsbD 4 = true ∧ bitsNat (c.arg 2) 1 2 = 1 ∧ r.mirrored = true) :
    exec (.regionMap id) s = .next (addAct (.mapAttr (c.num 0) ((c.arg 2).getLsbD 0) (bitsNat (c.arg 2) 1 2) ((c.arg 2).getLsbD 3)
      ((c.arg 2).getLsbD 4) (bitsNat (c.arg 2) 8 8) id) id s) := by
  have hold : (decidedAt s (c.num 0)).filter (fun r => r.len == c.num 1) = some r := by
    rw [hr, Option.filter_some, if_pos (by simp [hlen])]
  have hkeeps : ((r.sealed && !(c.arg 2).getLsbD 0) ||
      (holdsArea s r && !((c.arg 2).getLsbD 4 && bitsNat (c.arg 2) 1 2 == 1 && r.mirrored))) = false := by
    simpa [and_assoc] using And.intro hseal harea
  exact congrArg Host.Outcome.next ((doRegionMap_free hw ok hold hfree).trans (if_neg (ne_true_of_eq_false hkeeps)))

end

-- region.unmap, region.seal and region.mirror (R257, R365, R366)

section
variable {id : Nat} {c : Cmd} {s : State} {r : Region} (hr : decidedAt s (c.num 0) = some r)
include hr

theorem exec_regionUnmap (hw : atWork s id 0x0302 = some c) (hfit : argsFit c [allBits] = true) (hbase : r.base ≠ runtimeAreaBase)
    (himage : holdsImage s r = false) (harea : holdsArea s r = false) :
    exec (.regionUnmap id) s = .next (addAct (.unmap r.base id) id s) := by
  refine congrArg Host.Outcome.next ((withCmd_of hw _).trans ?_)
  simp [hfit, hr, hbase, himage, harea]

theorem exec_regionSeal (hw : atWork s id 0x0303 = some c) (hfit : argsFit c [allBits] = true) :
    exec (.regionSeal id) s = .next (if r.sealed then finishCmd id stOk 0 s else addAct (.sealRegion r.base id) id s) := by
  refine congrArg Host.Outcome.next ((withCmd_of hw _).trans ?_)
  simp only [hfit, hr, Bool.not_true, Bool.false_eq_true, if_false]

theorem exec_regionMirror_off (hw : atWork s id 0x0304 = some c) (hfit : argsFit c [allBits, 1] = true) (h0 : c.num 1 = 0)
    (harea : holdsArea s r = false) : exec (.regionMirror id) s = .next (addAct (.mirrorOff r.base id) id s) := by
  refine congrArg Host.Outcome.next ((withCmd_of hw _).trans ?_)
  simp [hfit, hr, h0, harea]

theorem exec_regionMirror_again (hw : atWork s id 0x0304 = some c) (hfit : argsFit c [allBits, 1] = true) (h1 : c.num 1 = 1)
    (hm : r.mirrored = true) : exec (.regionMirror id) s = .next (finishCmd id stOk 0 s) := by
  refine congrArg Host.Outcome.next ((withCmd_of hw _).trans ?_)
  simp [hfit, hr, h1, hm]

theorem exec_regionMirror_on (hw : atWork s id 0x0304 = some c) (hfit : argsFit c [allBits, 1] = true) (h1 : c.num 1 = 1)
    (hm : r.mirrored = false) (hcopy : r.fromCopy = false) (hstack : stackLive s (partnerOf (stackOf r.base)) = true)
    (hhalf : halfLive s (partnerOf (stackOf r.base)) = true) (hfree : mapConflict s (copyAddr r.base) r.len (some r.base) = none) :
    exec (.regionMirror id) s = .next (addAct (.mirrorOn r.base id) id s) := by
  refine congrArg Host.Outcome.next ((withCmd_of hw _).trans ?_)
  simp [hfit, hr, h1, hm, hcopy, hstack, hhalf, hfree]

end

-- region.pin, region.unpin and region.query (R367, R368)

/-- What region.pin and region.unpin check alike has passed. -/
theorem pinChecks_pass {id : Nat} {c : Cmd} {s : State} (go : State) (hfit : argsFit c [allBits, allBits] = true) (hlen : c.num 1 ≠ 0)
    (ha : c.num 0 % 128 = 0) (hn : c.num 1 % 128 = 0)
    (hmapped : lowestBad ((mapDecided s).flatMap (fun r => [r.base, r.base + r.len])) (c.num 0) (c.num 1)
      (fun x => ((mapDecided s).find? (·.has x)).isNone) = none)
    (hhomes : lowestBad ((mapDecided s).flatMap (fun r => [r.base, r.base + r.len])) (c.num 0) (c.num 1)
      (fun x => match (mapDecided s).find? (·.has x) with | some r => !halfLive s (r.home x) | none => false) = none) :
    pinChecks id c s go = go := by
  unfold pinChecks
  rw [if_neg (by simp [hfit]), if_neg hlen, if_neg, if_neg (by simp [hn]), if_neg]
  · exact fun h => absurd (h.symm.trans (congrArg Option.isSome hhomes)) (by decide)
  · simp [ha, hmapped]

theorem exec_regionQuery {id : Nat} {c : Cmd} {s : State} (hw : atWork s id 0x0307 = some c) (hfit : argsFit c [allBits] = true) :
    exec (.regionQuery id) s = .next (finishCmd id stOk (((regionAt s (c.num 0)).map regionWord).getD 0) s) := by
  refine congrArg Host.Outcome.next ((withCmd_of hw _).trans ?_)
  rw [if_neg (by simp [hfit])]
  cases regionAt s (c.num 0) <;> rfl

/-- Settles O39: each row is the equation of its command, and its end is what `addAct` or `finishCmd` does. -/
theorem regionCommands : Obligations.RegionCommands := by
  unfold Obligations.RegionCommands
  intro id c s
  refine ⟨fun hw hfit hlen hb hl hin hone hby hlive => ?map, fun r hr => ⟨?unmap, ?sealing, ?mirror⟩, fun hfit hlen ha hn hmapped hhomes => ?pin,
    fun hw hfit => ?query⟩
  case map =>
    have ok : MapArgsOk c s := ⟨hfit, hlen, hb, hl, hin, hone, hby, hlive⟩
    exact ⟨fun hnone hfree hroom => exec_decides hw (exec_regionMap_new hw ok hnone hfree hroom),
      fun r hr hrl hfree hseal harea => exec_decides hw (exec_regionMap_attr hw ok hr hrl hfree hseal harea)⟩
  case unmap => exact fun hw hfit hbase himage harea => exec_decides hw (exec_regionUnmap hr hw hfit hbase himage harea)
  case sealing =>
    intro hw hfit
    refine ⟨fun hs => exec_decides hw ?_, fun hs => exec_completes hw ?_⟩
    · rw [exec_regionSeal hr hw hfit, hs]
      rfl
    · rw [exec_regionSeal hr hw hfit, hs]
      rfl
  case mirror =>
    exact fun hw hfit => ⟨fun h0 harea => exec_decides hw (exec_regionMirror_off hr hw hfit h0 harea),
      fun h1 hm => exec_completes hw (exec_regionMirror_again hr hw hfit h1 hm),
      fun h1 hm hcopy hstack hhalf hfree => exec_decides hw (exec_regionMirror_on hr hw hfit h1 hm hcopy hstack hhalf hfree)⟩
  case pin =>
    have pass (go : State) : pinChecks id c s go = go := pinChecks_pass go hfit hlen ha hn hmapped hhomes
    exact ⟨fun hw => exec_decides hw (congrArg Host.Outcome.next ((withCmd_of hw _).trans (pass _))),
      fun hw => exec_decides hw (congrArg Host.Outcome.next ((withCmd_of hw _).trans (pass _)))⟩
  case query =>
    refine ⟨fun r hr => exec_completes hw ?_, fun hnone => exec_completes hw ?_⟩
    · rw [exec_regionQuery hw hfit, hr]
      rfl
    · rw [exec_regionQuery hw hfit, hnone]
      rfl

end Sys2Proof.Machine
end

section
/-! PROOFS. The invariant of the machine (R273, R275, R473, R474; O2, O3): the reset state has it, since its memory and its logs are empty; every
command keeps it, by the lemma of its meaning, and so does an idle tick, so every step keeps it. -/

namespace Sys2Proof.Machine

/-- Memory and check bytes in which nothing is written are canonical, and logs without records are bounded and without a gap. -/
theorem inv_of_nothing_written {s : State} (hm : s.mem = []) (hc : s.chkXor = []) (he : s.errs = []) (hr : s.ldg.records = []) : Inv s where
  mem := by rw [hm]; rfl
  chk := by rw [hc]; rfl
  errLen := by rw [he]; exact Nat.zero_le _
  errSeq := by rw [he]; simp [countDown]
  recLen := by rw [hr]; exact Nat.zero_le _
  recSeq := by rw [hr]; simp [countDown]

/-- Settles O3: nothing is written in memory or in a log at reset. -/
theorem resetHasInvariant : Obligations.ResetHasInvariant :=
  ⟨inv_of_nothing_written rfl rfl rfl rfl, rfl⟩

/-- Each command keeps the invariant, whatever it finds: its meaning does, command by command in the order of `exec`. -/
theorem exec_inv (i : Instr) {s t : State} (hs : Inv s) (hi : exec i s = .next t) : Inv t :=
  match i with
  -- the Bell, the legs and time
  | .bell => execBell_inv s hs hi
  | .commitWindowOpen => execCommitWindowOpen_inv s hs hi
  | .watchdogFault itin => execWatchdogFault_inv itin s hs hi
  | .launch itin entry => execLaunch_inv itin entry s hs hi
  | .move itin entry => execMove_inv itin entry s hs hi
  | .send itin entry => execSend_inv itin entry s hs hi
  | .recv itin entry => execRecv_inv itin entry s hs hi
  | .ptpMessage u => execPtpMessage_inv u s hs hi
  | .freerunTimeout => execFreerunTimeout_inv s hs hi
  | .announceTimeout port => execAnnounceTimeout_inv port s hs hi
  | .ppsEdge offsetNs => execPpsEdge_inv offsetNs s hs hi
  | .stgCfgNextApply value => execStgCfgNextApply_inv value s hs hi
  | .stgEventsClr value => execStgEventsClr_inv value s hs hi
  | .offline cluster value => execOffline_inv cluster value s hs hi
  | .registerWrite addr value => execRegisterWrite_inv addr value s hs hi
  -- the instructions of the compute cores
  | .intAdd c f => execIntAdd_inv c f s hs hi
  | .intSub c f => execIntSub_inv c f s hs hi
  | .intMul c f => execIntMul_inv c f s hs hi
  | .intMulh c f => execIntMulh_inv c f s hs hi
  | .intMad c f => execIntMad_inv c f s hs hi
  | .intAnd c f => execIntAnd_inv c f s hs hi
  | .intOr c f => execIntOr_inv c f s hs hi
  | .intXor c f => execIntXor_inv c f s hs hi
  | .intShl c f => execIntShl_inv c f s hs hi
  | .intShr c f => execIntShr_inv c f s hs hi
  | .intSar c f => execIntSar_inv c f s hs hi
  | .intMin c f => execIntMin_inv c f s hs hi
  | .intMax c f => execIntMax_inv c f s hs hi
  | .sel c f => execSel_inv c f s hs hi
  | .cmp c f => execCmp_inv c f s hs hi
  | .mov c f => execMov_inv c f s hs hi
  | .popc c f => execPopc_inv c f s hs hi
  | .clz c f => execClz_inv c f s hs hi
  | .ld c f => execLd_inv c f s hs hi
  | .st c f => execSt_inv c f s hs hi
  | .dead c f => execDead_inv c f s hs hi
  | .atAdd c f => execAtAdd_inv c f s hs hi
  | .fadd32 c f => execFadd32_inv c f s hs hi
  | .atMin c f => execAtMin_inv c f s hs hi
  | .atMax c f => execAtMax_inv c f s hs hi
  | .atAnd c f => execAtAnd_inv c f s hs hi
  | .atOr c f => execAtOr_inv c f s hs hi
  | .atXor c f => execAtXor_inv c f s hs hi
  | .xchg c f => execXchg_inv c f s hs hi
  | .cas c f => execCas_inv c f s hs hi
  | .cpyIn c f => execCpyIn_inv c f s hs hi
  | .nop c f => execNop_inv c f s hs hi
  | .bra c f => execBra_inv c f s hs hi
  | .brx c f => execBrx_inv c f s hs hi
  | .exit c f => execExit_inv c f s hs hi
  | .waitc c f => execWaitc_inv c f s hs hi
  | .arv c f => execArv_inv c f s hs hi
  | .trap c f => execTrap_inv c f s hs hi
  | .shfl c f => execShfl_inv c f s hs hi
  | .vote c f => execVote_inv c f s hs hi
  | .ballot c f => execBallot_inv c f s hs hi
  | .mma c f => execMma_inv c f s hs hi
  | .mld c f => execMld_inv c f s hs hi
  | .mrd c f => execMrd_inv c f s hs hi
  | .vop c f => execVop_inv c f s hs hi
  -- what the units of a core do after an instruction has issued
  | .splitTimeout c => execSplitTimeout_inv c s hs hi
  | .copyDelivery cluster req sector => execCopyDelivery_inv cluster req sector s hs hi
  | .l1MissFill cluster core => execL1MissFill_inv cluster core s hs hi
  | .mxOpComplete cluster core => execMxOpComplete_inv cluster core s hs hi
  | .vopComplete cluster core => execVopComplete_inv cluster core s hs hi
  -- the coherence homes
  | .homeRead r addr sectors => execHomeRead_inv r addr sectors s hs hi
  | .homeWrite r addr enables data => execHomeWrite_inv r addr enables data s hs hi
  | .homeAtomic r op width64 addr operands => execHomeAtomic_inv r op width64 addr operands s hs hi
  | .homeDeadHint r addr => execHomeDeadHint_inv r addr s hs hi
  | .evictionWriteback home => execEvictionWriteback_inv home s hs hi
  | .snoopAnswer home line die => execSnoopAnswer_inv home line die s hs hi
  | .coherenceTimeout home line => execCoherenceTimeout_inv home line s hs hi
  | .homeFlushDone home => execHomeFlushDone_inv home s hs hi
  -- the memory controllers and the links
  | .wcbWrite addr enables data => execWcbWrite_inv addr enables data s hs hi
  | .wcbIdleDrain stack line => execWcbIdleDrain_inv stack line s hs hi
  | .memRead addr err copyErr ifFails => execMemRead_inv addr err copyErr ifFails s hs hi
  | .phyRetrainDone stack ok => execPhyRetrainDone_inv stack ok s hs hi
  | .refresh stack pc bank => execRefresh_inv stack pc bank s hs hi
  | .tempRead stack tempC => execTempRead_inv stack tempC s hs hi
  | .patrolScrub stack err copyErr => execPatrolScrub_inv stack err copyErr s hs hi
  | .mirrorLineCopy base => execMirrorLineCopy_inv base s hs hi
  | .sramScrub word err => execSramScrub_inv word err s hs hi
  | .linkResend link lane e => execLinkResend_inv link lane e s hs hi
  | .linkTrainingFail link => execLinkTrainingFail_inv link s hs hi
  -- the Innkeeper and its pigeonholes
  | .sealWrite ph slot width value => execSealWrite_inv ph slot width value s hs hi
  | .accept ph => execAccept_inv ph s hs hi
  | .dispatch => execDispatch_inv s hs hi
  | .agingPromotion cmd => execAgingPromotion_inv cmd s hs hi
  | .completionRecord cmd => execCompletionRecord_inv cmd s hs hi
  | .cqCtl ph width value => execCqCtl_inv ph width value s hs hi
  | .lockstepMismatch => execLockstepMismatch_inv s hs hi
  | .innkeeperRestartDone => execInnkeeperRestartDone_inv s hs hi
  -- the commands of the command set, each on an entry of the command table
  | .deviceIdent cmd => execDeviceIdent_inv cmd s hs hi
  | .deviceCaps cmd => execDeviceCaps_inv cmd s hs hi
  | .clusterOffline cmd => execClusterOffline_inv cmd s hs hi
  | .timeStatus cmd => execTimeStatus_inv cmd s hs hi
  | .stageConfig cmd => execStageConfig_inv cmd s hs hi
  | .itineraryLoad cmd => execItineraryLoad_inv cmd s hs hi
  | .itineraryEvict cmd => execItineraryEvict_inv cmd s hs hi
  | .itineraryQuery cmd => execItineraryQuery_inv cmd s hs hi
  | .stageBind cmd => execStageBind_inv cmd s hs hi
  | .stageUnbind cmd => execStageUnbind_inv cmd s hs hi
  | .jobPrepare cmd => execJobPrepare_inv cmd s hs hi
  | .jobConfirm cmd => execJobConfirm_inv cmd s hs hi
  | .jobStop cmd => execJobStop_inv cmd s hs hi
  | .jobAwait cmd => execJobAwait_inv cmd s hs hi
  | .jobStatus cmd => execJobStatus_inv cmd s hs hi
  | .regionMap cmd => execRegionMap_inv cmd s hs hi
  | .regionUnmap cmd => execRegionUnmap_inv cmd s hs hi
  | .regionSeal cmd => execRegionSeal_inv cmd s hs hi
  | .regionMirror cmd => execRegionMirror_inv cmd s hs hi
  | .regionPin cmd => execRegionPin_inv cmd s hs hi
  | .regionUnpin cmd => execRegionUnpin_inv cmd s hs hi
  | .regionQuery cmd => execRegionQuery_inv cmd s hs hi
  | .porterCopy cmd => execPorterCopy_inv cmd s hs hi
  | .porterFill cmd => execPorterFill_inv cmd s hs hi
  | .porterPush cmd => execPorterPush_inv cmd s hs hi
  | .porterPull cmd => execPorterPull_inv cmd s hs hi
  | .guestOpen cmd => execGuestOpen_inv cmd s hs hi
  | .guestClose cmd => execGuestClose_inv cmd s hs hi
  | .guestWindow cmd => execGuestWindow_inv cmd s hs hi
  | .powerCap cmd => execPowerCap_inv cmd s hs hi
  | .coolantTarget cmd => execCoolantTarget_inv cmd s hs hi
  | .energyRead cmd => execEnergyRead_inv cmd s hs hi
  | .ledgerRead cmd => execLedgerRead_inv cmd s hs hi
  | .faultRead cmd => execFaultRead_inv cmd s hs hi
  | .fwStage cmd => execFwStage_inv cmd s hs hi
  | .fwCommit cmd => execFwCommit_inv cmd s hs hi
  | .fwStatus cmd => execFwStatus_inv cmd s hs hi
  | .attestQuote cmd => execAttestQuote_inv cmd s hs hi
  -- the network engine
  | .data p => execData_inv p s hs hi
  | .ack p a => execAck_inv p a s hs hi
  | .nak p code => execNak_inv p code s hs hi
  | .read p target len => execRead_inv p target len s hs hi
  | .readResp p => execReadResp_inv p s hs hi
  | .hello m => execHello_inv m s hs hi
  | .prepare m => execPrepare_inv m s hs hi
  | .prepAck m => execPrepAck_inv m s hs hi
  | .confirm m => execConfirm_inv m s hs hi
  | .abandon m => execAbandon_inv m s hs hi
  | .rollback m => execRollback_inv m s hs hi
  | .rollbackAck m => execRollbackAck_inv m s hs hi
  | .restart m => execRestart_inv m s hs hi
  | .rtoExpiry conn psn => execRtoExpiry_inv conn psn s hs hi
  | .ackTimer conn => execAckTimer_inv conn s hs hi
  | .ackWaitExpiry job => execAckWaitExpiry_inv job s hs hi
  | .rdmaWrite p => execRdmaWrite_inv p s hs hi
  | .rdmaWriteWithImmediate p => execRdmaWriteWithImmediate_inv p s hs hi
  | .rdmaReadRequest p => execRdmaReadRequest_inv p s hs hi
  | .rdmaReadResponse p => execRdmaReadResponse_inv p s hs hi
  | .acknowledgement p a => execAcknowledgement_inv p a s hs hi
  | .cnp qpn port => execCnp_inv qpn port s hs hi
  | .localAckTimeout guest => execLocalAckTimeout_inv guest s hs hi
  | .rateIncrease guest => execRateIncrease_inv guest s hs hi
  | .transportTimeout guest => execTransportTimeout_inv guest s hs hi
  | .portLinkDown port => execPortLinkDown_inv port s hs hi
  | .portRetrainDone port => execPortRetrainDone_inv port s hs hi
  | .arp port ip => execArp_inv port ip s hs hi
  | .neighborDiscovery port ip => execNeighborDiscovery_inv port ip s hs hi
  | .icmpEcho port ip payload => execIcmpEcho_inv port ip payload s hs hi
  | .pfcFrame port prio pause => execPfcFrame_inv port prio pause s hs hi
  | .unusedFrame port => execUnusedFrame_inv port s hs hi
  | .flit f => execFlit_inv f s hs hi
  -- the porters
  | .chunk porter e => execChunk_inv porter e s hs hi
  | .descriptorComplete porter leg index => execDescriptorComplete_inv porter leg index s hs hi
  -- the processor complex
  | .hartAccess a => execHartAccess_inv a s hs hi
  | .mxctlRestart hart => execMxctlRestart_inv hart s hs hi
  | .mxfreqWrite hart value => execMxfreqWrite_inv hart value s hs hi
  | .freqChangeDone die => execFreqChangeDone_inv die s hs hi
  -- power, heat and coolant
  | .throttleEvaluation t => execThrottleEvaluation_inv t s hs hi
  | .telemLost => execTelemLost_inv s hs hi
  | .capUnmet => execCapUnmet_inv s hs hi
  | .valveEvaluation r => execValveEvaluation_inv r s hs hi
  | .warningTimer w => execWarningTimer_inv w s hs hi
  | .criticalTrip x => execCriticalTrip_inv x s hs hi
  | .platformEventRetry => execPlatformEventRetry_inv s hs hi
  | .powerDomainFault f => execPowerDomainFault_inv f s hs hi
  | .clusterHalfPowerOff half => execClusterHalfPowerOff_inv half s hs hi
  | .clusterHalfPowerOn half => execClusterHalfPowerOn_inv half s hs hi
  -- the module interface
  | .pwrEnRise => execPwrEnRise_inv s hs hi
  | .pwrEnHoldoff => execPwrEnHoldoff_inv s hs hi
  | .pwrGood => execPwrGood_inv s hs hi
  | .powerGoodTimeout => execPowerGoodTimeout_inv s hs hi
  | .releaseInstant slotId => execReleaseInstant_inv slotId s hs hi
  | .innkeeperReady => execInnkeeperReady_inv s hs hi
  | .innkReadyTimeout => execInnkReadyTimeout_inv s hs hi
  | .pwrEnFall => execPwrEnFall_inv s hs hi
  | .moduleReset lowNs => execModuleReset_inv lowNs s hs hi
  | .vinShutdown vinMv durNs => execVinShutdown_inv vinMv durNs s hs hi
  | .currentLimit durNs => execCurrentLimit_inv durNs s hs hi
  | .refclkLoss durNs => execRefclkLoss_inv durNs s hs hi
  -- the management sideband
  | .entdaa addr => execEntdaa_inv addr s hs hi
  | .setdasa static addr => execSetdasa_inv static addr s hs hi
  | .setnewda addr => execSetnewda_inv addr s hs hi
  | .rstdaa => execRstdaa_inv s hs hi
  | .enec => execEnec_inv s hs hi
  | .disec => execDisec_inv s hs hi
  | .getpid => execGetpid_inv s hs hi
  | .getbcr => execGetbcr_inv s hs hi
  | .getdcr => execGetdcr_inv s hs hi
  | .getstatus => execGetstatus_inv s hs hi
  | .getmrl => execGetmrl_inv s hs hi
  | .getmwl => execGetmwl_inv s hs hi
  | .setmrl n => execSetmrl_inv n s hs hi
  | .setmwl n => execSetmwl_inv n s hs hi
  | .setEndpointId eid => execSetEndpointId_inv eid s hs hi
  | .getEndpointId => execGetEndpointId_inv s hs hi
  | .getEndpointUuid => execGetEndpointUuid_inv s hs hi
  | .getMctpVersionSupport => execGetMctpVersionSupport_inv s hs hi
  | .getMessageTypeSupport => execGetMessageTypeSupport_inv s hs hi
  | .messageDropped a => execMessageDropped_inv a s hs hi
  | .getTid => execGetTid_inv s hs hi
  | .setTid tid => execSetTid_inv tid s hs hi
  | .getPldmTypes => execGetPldmTypes_inv s hs hi
  | .getPldmCommands type => execGetPldmCommands_inv type s hs hi
  | .getPldmVersion type => execGetPldmVersion_inv type s hs hi
  | .setEventReceiver eid => execSetEventReceiver_inv eid s hs hi
  | .getPdrRepositoryInfo => execGetPdrRepositoryInfo_inv s hs hi
  | .getPdr record => execGetPdr_inv record s hs hi
  | .getSensorReading sensor => execGetSensorReading_inv sensor s hs hi
  | .getStateSensorReadings sensor => execGetStateSensorReadings_inv sensor s hs hi
  | .queryDeviceIdentifiers => execQueryDeviceIdentifiers_inv s hs hi
  | .getFirmwareParameters => execGetFirmwareParameters_inv s hs hi
  | .requestUpdate => execRequestUpdate_inv s hs hi
  | .passComponentTable component => execPassComponentTable_inv component s hs hi
  | .updateComponent u => execUpdateComponent_inv u s hs hi
  | .firmwareData offset bytes => execFirmwareData_inv offset bytes s hs hi
  | .transferComplete ok => execTransferComplete_inv ok s hs hi
  | .verifyComplete => execVerifyComplete_inv s hs hi
  | .applyComplete => execApplyComplete_inv s hs hi
  | .activateFirmware => execActivateFirmware_inv s hs hi
  | .pldmGetStatus => execPldmGetStatus_inv s hs hi
  | .cancelUpdateComponent => execCancelUpdateComponent_inv s hs hi
  | .cancelUpdate => execCancelUpdate_inv s hs hi
  | .updateModeTimeout => execUpdateModeTimeout_inv s hs hi
  | .getVersion => execGetVersion_inv s hs hi
  | .getCapabilities => execGetCapabilities_inv s hs hi
  | .negotiateAlgorithms baseAsym baseHash => execNegotiateAlgorithms_inv baseAsym baseHash s hs hi
  | .getDigests => execGetDigests_inv s hs hi
  | .getCertificate slot offset length => execGetCertificate_inv slot offset length s hs hi
  | .challenge slot nonce => execChallenge_inv slot nonce s hs hi
  | .getMeasurements index nonce => execGetMeasurements_inv index nonce s hs hi
  | .regRead addr => execRegRead_inv addr s hs hi
  | .sidebandFaultRead seq count => execSidebandFaultRead_inv seq count s hs hi
  | .cfgSet addr value persist => execCfgSet_inv addr value persist s hs hi
  | .dbgUnlock t => execDbgUnlock_inv t s hs hi
  | .dmi target write addr data => execDmi_inv target write addr data s hs hi
  | .clHalt cluster halt => execClHalt_inv cluster halt s hs hi
  | .dbgRead space cluster addr len => execDbgRead_inv space cluster addr len s hs hi
  | .fuse r => execFuse_inv r s hs hi
  -- the rows at the end of the table
  | .errBoundExceeded bound => execErrBoundExceeded_inv bound s hs hi
  | .ppsFallingEdge highNs => execPpsFallingEdge_inv highNs s hs hi
  | .l2HalfLoss home => execL2HalfLoss_inv home s hs hi
  | .platformEventAcknowledged => execPlatformEventAcknowledged_inv s hs hi
  | .unsupportedRequest u => execUnsupportedRequest_inv u s hs hi
  | .unsupportedOpcode port src q => execUnsupportedOpcode_inv port src q s hs hi

/-- Settles O2: an empty queue lets a tick pass, and a command runs on the state without it, which has the invariant too. -/
theorem stepKeepsInvariant : Obligations.StepKeepsInvariant := by
  intro s t hs e
  unfold step at e
  split at e
  case h_1 => exact next_inv e (idleTick_inv s hs)
  case h_2 c rest _ => exact exec_inv c (pending_inv rest hs) e

end Sys2Proof.Machine
end

section
/-! PROOFS. The command table, the class queues and the lockstep pair (R307, R319 to R327, R334; O1, O32, O33, O35): what each operation of the
Innkeeper writes, and what acceptance, dispatch, aging and a restart leave. -/

namespace Sys2Proof.Machine

/-- Settles O1: the step takes the command at the front, and what is left of the queue is the queue without it. -/
theorem stepRunsFrontCommand : Obligations.StepRunsFrontCommand := by
  intro c s
  rfl

-- the command table and the class queues

theorem getCmd_modCmd (id k : Nat) (f : Cmd → Cmd) (s : State) :
    getCmd (modCmd id f s) k = if k = id then (getCmd s id).map f else getCmd s k :=
  getCmd_setCmd ..

theorem getCmd_of_cmds {s t : State} (h : t.innk.cmds = s.innk.cmds) (k : Nat) : getCmd t k = getCmd s k := by
  unfold getCmd
  rw [h]

@[simp] theorem getCmd_enqueue (cls id k : Nat) (s : State) : getCmd (enqueue cls id s) k = getCmd s k :=
  getCmd_modInnk _ (fun i => by split_ifs <;> rfl) k s

/-- Some class queue holds the identifier of a command. -/
def Queued (id : Nat) (s : State) : Prop := id ∈ s.innk.urgQ ∨ id ∈ s.innk.normQ ∨ id ∈ s.innk.bulkQ

theorem queued_enqueue_self (cls id : Nat) (s : State) : Queued id (enqueue cls id s) := by
  unfold enqueue Queued
  by_cases h0 : cls = 0
  · simp [h0]
  · by_cases h1 : cls = 1
    · simp [h1]
    · simp [h0, h1]

theorem Queued.enqueue {k : Nat} {s : State} (h : Queued k s) (cls id : Nat) : Queued k (enqueue cls id s) := by
  unfold Machine.enqueue Queued at *
  by_cases h0 : cls = 0
  · simp only [h0, modInnk_innk, if_pos]
    exact h.imp_left (List.mem_append_left _)
  · by_cases h1 : cls = 1
    · simp only [h1, modInnk_innk, if_pos, if_neg (by decide : ¬ (1 : Nat) = 0)]
      exact h.imp_right (Or.imp_left (List.mem_append_left _))
    · simp only [h0, h1, modInnk_innk, if_neg, not_false_iff]
      exact h.imp_right (Or.imp_right (List.mem_append_left _))

theorem enqueue_phs (cls id : Nat) (s : State) : (enqueue cls id s).innk.phs = s.innk.phs := by
  unfold enqueue
  simp only [modInnk_innk]
  split_ifs <;> rfl

theorem innkUp_halted {s : State} (h : s.innk.innk.halted = 1#1) : innkUp s = false := by
  simp [innkUp, h]

theorem innkUp_restarting {s : State} (h : s.innk.innk.restarting = 1#1) : innkUp s = false := by
  simp [innkUp, h]

-- dispatch and aging (R324 to R326)

/-- The piece to dispatch is in a queue, may run, and stands behind none that may. -/
theorem nextPiece_first {s : State} {id : Nat} (h : nextPiece s = some id) :
    ∃ before after, s.innk.urgQ ++ s.innk.normQ ++ s.innk.bulkQ = before ++ id :: after ∧ ∀ k ∈ before, dispatchable s k = false := by
  obtain ⟨-, before, after, hq, hb⟩ := List.find?_eq_some_iff_append.mp h
  exact ⟨before, after, hq, fun k hk => by simpa using hb k hk⟩

theorem doDispatch_none {s : State} (h : nextPiece s = none) : doDispatch s = s := by
  unfold doDispatch
  split
  · rfl
  · rw [h]

/-- A piece leaves its queue and is counted. -/
def takePiece (id : Nat) (s : State) : State :=
  modInnk (fun i => { i with
    urgQ := i.urgQ.filter (· != id), normQ := i.normQ.filter (· != id), bulkQ := i.bulkQ.filter (· != id)
    stage := { i.stage with dispatched := satInc i.stage.dispatched } }) s

theorem doDispatch_some {s : State} {id : Nat} (hup : innkUp s = true) (h : nextPiece s = some id) :
    doDispatch s = modCmd id (fun c => { c with phase := .working, waitBells := 0 }) (takePiece id s) := by
  simp [doDispatch, hup, h, takePiece]

theorem getCmd_takePiece (id k : Nat) (s : State) : getCmd (takePiece id s) k = getCmd s k := rfl

theorem doAging_moves {s : State} {id : Nat} {c : Cmd} (hup : innkUp s = true) (hc : getCmd s id = some c) (hq : id ∈ s.innk.bulkQ)
    (hw : 16 ≤ c.waitBells) :
    doAging id s = modInnk (fun i => { i with
      bulkQ := i.bulkQ.filter (· != id), urgQ := i.urgQ ++ [id], stage := { i.stage with aged := satInc i.stage.aged } }) s := by
  simp [doAging, hc, hup, hq, hw]

/-- Settles O33: the search through the queues in their order finds the first piece that may run, which is at work once it has left its
queue. -/
theorem dispatchAndAging : Obligations.DispatchAndAging := by
  refine ⟨fun s id c hup hn hc => ?_, fun s hn => ?_, fun s id c hup hc hq hw => ?_⟩
  · refine ⟨_, congrArg Host.Outcome.next (doDispatch_some hup hn), ?_, rfl, rfl, rfl, fun k hk => ?_, rfl, nextPiece_first hn⟩
    · have hup' : innkUp (modCmd id (fun c => { c with phase := .working, waitBells := 0 }) (takePiece id s)) = true := hup
      simp [atWork, getCmd_modCmd, getCmd_takePiece, hc, hup']
    · rw [getCmd_modCmd, if_neg hk, getCmd_takePiece]
  · exact congrArg Host.Outcome.next (doDispatch_none hn)
  · exact ⟨_, congrArg Host.Outcome.next (doAging_moves hup hc hq hw), rfl, rfl, rfl, fun k => rfl, rfl, rfl⟩

-- the lockstep pair (R307)

/-- Writing an error record leaves all but the error log. -/
theorem logErr_rest (r : ErrRec) (s : State) : { logErr r s with errs := s.errs, errSeq := s.errSeq } = s := by
  unfold logErr
  dsimp only
  split <;> rfl

theorem logErr_innk (r : ErrRec) (s : State) : (logErr r s).innk = s.innk := (congrArg State.innk (logErr_rest r s) :)
theorem logErr_stg (r : ErrRec) (s : State) : (logErr r s).stg = s.stg := (congrArg State.stg (logErr_rest r s) :)
theorem logErr_mem (r : ErrRec) (s : State) : (logErr r s).mem = s.mem := (congrArg State.mem (logErr_rest r s) :)

/-- The record of a mismatch. -/
def mismatchRec : ErrRec := { cls := 0x12, source := 0x0C }

/-- The mismatch before stood at most ten seconds ago. -/
def Again (s : State) : Prop := ∃ t0, s.innk.lastMismatch = some t0 ∧ s.stg.upNs ≤ t0 + tenSecNs

theorem again_iff (s : State) :
    (match s.innk.lastMismatch with | some t => decide (s.stg.upNs ≤ t + tenSecNs) | none => false) = true ↔ Again s := by
  unfold Again
  cases s.innk.lastMismatch <;> simp

section
variable {s : State} (hh : s.innk.innk.halted ≠ 1#1) (hr : s.mdl.st = .running)
include hh hr

theorem doLockstep_restarts (h : ∀ t0, s.innk.lastMismatch = some t0 → t0 + 10000000000 < s.stg.upNs) :
    doLockstep s = modInnk (fun i => { i with
      lastMismatch := some s.stg.upNs, innk := { i.innk with restarting := 1#1, restarts := satInc i.innk.restarts } }) (logErr mismatchRec s) := by
  have hlate : ¬ Again s := fun ⟨t0, hm, hle⟩ => Nat.not_le.mpr (h t0 hm) hle
  unfold doLockstep
  rw [if_neg (by simp [hh, hr])]
  simp only [logErr_innk, logErr_stg]
  exact if_neg (hlate ∘ (again_iff s).mp)

theorem doLockstep_halts (h : Again s) :
    doLockstep s = syncEvents (modInnk (fun i => { i with innk := { i.innk with halted := 1#1, restarting := 0#1 } }) (logErr mismatchRec s)) := by
  unfold doLockstep
  rw [if_neg (by simp [hh, hr])]
  simp only [logErr_innk, logErr_stg]
  exact if_pos ((again_iff s).mpr h)

end

-- the restart (R307)

/-- What a restart makes of a command, of whose pieces porters held some. -/
def requeued (ps : List Nat) (c : Cmd) : Cmd :=
  { c with again := c.again ++ ps, outstanding := c.outstanding - ps.length
           phase := if c.phase = .working ∨ (ps ≠ [] ∧ c.phase = .waiting) then .queued else c.phase }

theorem redispatch_none {held : Nat → List Nat} {id : Nat} {s : State} (h : getCmd s id = none) : redispatch held id s = s := by
  simp [redispatch, h]

theorem redispatch_some {held : Nat → List Nat} {id : Nat} {s : State} {c : Cmd} (h : getCmd s id = some c) :
    redispatch held id s = if c.phase = .working ∨ (held id ≠ [] ∧ c.phase = .waiting)
      then enqueue c.cls id (setCmd id (some (requeued (held id) c)) s) else setCmd id (some (requeued (held id) c)) s := by
  simp [redispatch, h, requeued]

theorem getCmd_redispatch (held : Nat → List Nat) (id k : Nat) (s : State) :
    getCmd (redispatch held id s) k = if k = id then (getCmd s id).map (requeued (held id)) else getCmd s k := by
  cases h : getCmd s id with
  | none =>
    rw [redispatch_none h]
    split
    · next hk => rw [hk, h]; rfl
    · rfl
  | some c =>
    rw [redispatch_some h]
    split <;> simp [getCmd_setCmd]

/-- A command that is queued again by its own turn stays so. -/
theorem Queued.redispatch {k : Nat} {s : State} (h : Queued k s) (held : Nat → List Nat) (id : Nat) : Queued k (redispatch held id s) := by
  cases hc : getCmd s id with
  | none => rwa [redispatch_none hc]
  | some c =>
    rw [redispatch_some hc]
    split
    · exact Queued.enqueue (s := setCmd id _ s) h ..
    · exact h

theorem redispatch_rest (held : Nat → List Nat) (id : Nat) (s : State) :
    { redispatch held id s with innk := s.innk } = s ∧ (redispatch held id s).innk.phs = s.innk.phs ∧
      (redispatch held id s).innk.innk = s.innk.innk := by
  cases hc : getCmd s id with
  | none => rw [redispatch_none hc]; exact ⟨rfl, rfl, rfl⟩
  | some c =>
    rw [redispatch_some hc]
    split
    · refine ⟨rfl, enqueue_phs .., ?_⟩
      unfold enqueue
      simp only [modInnk_innk]
      split_ifs <;> rfl
    · exact ⟨rfl, rfl, rfl⟩

/-- Each command of a list without repetition has had its turn once. -/
theorem getCmd_forEach_redispatch (held : Nat → List Nat) (ids : List Nat) (hnd : ids.Nodup) (s : State) (k : Nat) :
    getCmd (forEach ids (redispatch held) s) k = if k ∈ ids then (getCmd s k).map (requeued (held k)) else getCmd s k := by
  induction ids generalizing s with
  | nil => simp [forEach]
  | cons id ids ih =>
    obtain ⟨hid, hnd⟩ := List.nodup_cons.mp hnd
    have hcons : forEach (id :: ids) (redispatch held) s = forEach ids (redispatch held) (redispatch held id s) := rfl
    rw [hcons, ih hnd, getCmd_redispatch]
    by_cases hk : k = id
    · subst hk; simp [hid]
    · simp [hk]

/-- A command that a restart puts back is in a class queue in the end. -/
theorem queued_forEach_redispatch {held : Nat → List Nat} {ids : List Nat} (hnd : ids.Nodup) {s : State} {k : Nat} {c : Cmd} (hk : k ∈ ids)
    (hc : getCmd s k = some c) (hb : c.phase = .working ∨ (held k ≠ [] ∧ c.phase = .waiting)) : Queued k (forEach ids (redispatch held) s) := by
  induction ids generalizing s with
  | nil => cases hk
  | cons id ids ih =>
    obtain ⟨hid, hnd⟩ := List.nodup_cons.mp hnd
    have hcons : forEach (id :: ids) (redispatch held) s = forEach ids (redispatch held) (redispatch held id s) := rfl
    rw [hcons]
    by_cases hkid : k = id
    · subst hkid
      refine forEach_preserves (P := Queued k) (fun x t ht => ht.redispatch held x) ids ?_
      rw [redispatch_some hc, if_pos hb]
      exact queued_enqueue_self ..
    · exact ih hnd ((List.mem_cons.mp hk).resolve_left hkid) (by rw [getCmd_redispatch, if_neg hkid, hc])

/-- The porters and the network engine have given up the pieces of commands, and the Innkeeper has resumed. -/
def giveUpPieces (s : State) : State :=
  let s := modInnk (fun i => { i with innk := { i.innk with restarting := 0#1 } }) s
  dropTx (fun o => match o with | .desc _ (.cmd _ _) => true | _ => false) { s with porters := s.porters.map (fun p => (p.1, { p.2 with cmdQ := [] })) }

theorem doRestartDone_eq {s : State} (h : s.innk.innk.restarting = 1#1) :
    doRestartDone s = forEach (s.innk.cmds.map (·.1)).dedup (redispatch (heldPieces s)) (giveUpPieces s) := by
  unfold doRestartDone
  rw [if_neg (by simp [h])]
  rfl

theorem getPorter_giveUpPieces (s : State) (p : Nat) : getPorter (giveUpPieces s) p = { getPorter s p with cmdQ := [] } := by
  have hmap : getPorter (giveUpPieces s) p = tabGet {} (s.porters.map (fun p => (p.1, { p.2 with cmdQ := [] }))) p := rfl
  rw [hmap, getPorter]
  induction s.porters with
  | nil => rfl
  | cons q ps ih =>
    simp only [List.map_cons, tabGet]
    split
    · rfl
    · exact ih

theorem mem_keys_of_getCmd {s : State} {id : Nat} {c : Cmd} (h : getCmd s id = some c) : id ∈ (s.innk.cmds.map (·.1)).dedup := by
  have hne : tabGet none s.innk.cmds id ≠ none := by rw [← getCmd, h]; exact Option.some_ne_none c
  exact List.mem_dedup.mpr (List.mem_map.mpr ⟨_, tabGet_mem hne, rfl⟩)

/-- Settles O35: the comparator's note leaves the Innkeeper as it was, and each command of the table has one turn in which it is put back. -/
theorem lockstepRestart : Obligations.LockstepRestart := by
  refine ⟨fun s hh hr => ⟨fun h => ?_, fun h => ?_⟩, fun s h => ?_⟩
  · refine ⟨_, congrArg Host.Outcome.next (doLockstep_restarts hh hr h), rfl, ?_, rfl, ?_, innkUp_restarting rfl⟩
    · simp [logErr_innk]
    · simp [logErr_innk]
  · refine ⟨_, congrArg Host.Outcome.next (doLockstep_halts hh hr h), rfl, ?_, innkUp_halted rfl, logErr_mem mismatchRec s⟩
    exact (congrArg Innkeeper.cmds (logErr_innk mismatchRec s) :)
  · have hnd := List.nodup_dedup (s.innk.cmds.map (·.1))
    have hrest := forEach_preserves (P := fun t => { t with innk := (giveUpPieces s).innk } = giveUpPieces s ∧ t.innk.phs = s.innk.phs ∧
        t.innk.innk = (giveUpPieces s).innk.innk) (f := redispatch (heldPieces s))
      (fun id t ⟨ht, hphs, hin⟩ => by
        obtain ⟨hr, hp, hi⟩ := redispatch_rest (heldPieces s) id t
        refine ⟨?_, hp.trans hphs, hi.trans hin⟩
        rw [← ht]
        exact congrArg (fun u : State => { u with innk := (giveUpPieces s).innk }) hr)
      (s.innk.cmds.map (·.1)).dedup (s := giveUpPieces s) ⟨rfl, rfl, rfl⟩
    obtain ⟨hst, hphs, hin⟩ := hrest
    refine ⟨_, congrArg Host.Outcome.next (doRestartDone_eq h), ?_, (congrArg State.mem hst :), hphs, fun p => ?_, fun id c hc => ?_⟩
    · rw [hin]; rfl
    · have hp : ∀ t : State, { t with innk := (giveUpPieces s).innk } = giveUpPieces s → getPorter t p = { getPorter s p with cmdQ := [] } :=
        fun t ht => (congrArg (fun u : State => getPorter u p) ht :).trans (getPorter_giveUpPieces s p)
      rw [hp _ hst]
      exact ⟨rfl, rfl⟩
    · have hget : getCmd (forEach (s.innk.cmds.map (·.1)).dedup (redispatch (heldPieces s)) (giveUpPieces s)) id =
          some (requeued (heldPieces s id) c) := by
        rw [getCmd_forEach_redispatch _ _ hnd, if_pos (mem_keys_of_getCmd hc), show getCmd (giveUpPieces s) id = some c from hc]
        rfl
      refine ⟨fun hb => ⟨?_, queued_forEach_redispatch hnd (mem_keys_of_getCmd hc) (s := giveUpPieces s) hc hb⟩, fun hb => ?_⟩
      · rw [hget, requeued, if_pos hb]
      · rw [hget, requeued, if_neg hb]

-- pigeonholes

theorem getPh_modPh (n m : Nat) (f : Pigeonhole → Pigeonhole) (s : State) : getPh (modPh n f s) m = if m = n then f (getPh s n) else getPh s m := by
  have h : getPh (modPh n f s) m = (tabGet none (tabSet none s.innk.phs n (some (f (getPh s n)))) m).getD (defaultPh m) := rfl
  rw [h, tabGet_tabSet]
  split <;> rfl

@[simp] theorem getPh_modPh_self (n : Nat) (f : Pigeonhole → Pigeonhole) (s : State) : getPh (modPh n f s) n = f (getPh s n) := by
  rw [getPh_modPh, if_pos rfl]

theorem getPh_modPh_ne {n m : Nat} (h : m ≠ n) (f : Pigeonhole → Pigeonhole) (s : State) : getPh (modPh n f s) m = getPh s m := by
  rw [getPh_modPh, if_neg h]

theorem getPh_of_phs {s t : State} (h : t.innk.phs = s.innk.phs) (n : Nat) : getPh t n = getPh s n := by
  unfold getPh
  rw [h]

theorem getPh_setCmd (id m : Nat) (v : Option Cmd) (s : State) : getPh (setCmd id v s) m = getPh s m := rfl

theorem finishCmd_phs (id : Nat) (st : BitVec 16) (res : Nat) (s : State) : (finishCmd id st res s).innk.phs = s.innk.phs := by
  unfold finishCmd
  split
  · rfl
  · split <;> rfl

-- acceptance (R319 to R323, R334)

/-- A slot taken at HEAD: the visit and the acceptance are counted, HEAD steps, the slot is free, and the command is in the table. -/
def slotTaken (n slot : Nat) (c : Cmd) (s : State) : State :=
  setCmd s.innk.nextCmd (some c) <|
    modPh n (fun p => { p with
      head := p.head + 1#16, full := tabSet none p.full slot none, count := { p.count with accepted := p.count.accepted + 1#32 } }) <|
    modInnk (fun i => { i with
      visits := if i.lastVisited = n ∧ i.visits < 4 then i.visits + 1 else 1
      lastVisited := n
      nextCmd := s.innk.nextCmd + 1
      stage := { i.stage with accepted := satInc i.stage.accepted } }) s

theorem getCmd_slotTaken (n slot k : Nat) (c : Cmd) (s : State) :
    getCmd (slotTaken n slot c s) k = if k = s.innk.nextCmd then some c else getCmd s k :=
  getCmd_setCmd ..

theorem getPh_slotTaken (n slot m : Nat) (c : Cmd) (s : State) :
    getPh (slotTaken n slot c s) m = if m = n then { getPh s n with
      head := (getPh s n).head + 1#16, full := tabSet none (getPh s n).full slot none
      count := { (getPh s n).count with accepted := (getPh s n).count.accepted + 1#32 } } else getPh s m := by
  unfold slotTaken
  rw [getPh_setCmd, getPh_modPh]
  rfl

/-- The checks of an acceptance read the variant, the itineraries, the guests and one flag of the command's pigeonhole; taking the slot leaves
them. -/
theorem acceptCheck_slotTaken (n slot : Nat) (c d : Cmd) (seen : Seen) (sealV : Word) (b f : Byte) (s : State) :
    acceptCheck (slotTaken n slot d s) { c with seen := seen } sealV b f = acceptCheck s c sealV b f := by
  have hu : (getPh (slotTaken n slot d s) c.ph).urgentOk = (getPh s c.ph).urgentOk := by
    rw [getPh_slotTaken]
    split
    · next h => rw [h]
    · rfl
  unfold acceptCheck
  simp only [hu]
  rfl

theorem doAccept_eq {n slot : Nat} {sealV : Word} {bs : List Byte} {s s1 : State} (hup : innkUp s = true) (hturn : isTurn s n = true)
    (hhead : headSlot s n = some (slot, sealV)) (hread : homeReadBytes .innkeeper ((getPh s n).area + slot * 64) 64 s = (some bs, s1)) :
    doAccept n s =
      let c := { slotCmd s1 n slot bs with seen := seenNow s1 }
      match acceptCheck (slotTaken n slot c s1) c sealV (bs.getD 2 0#8) (bs.getD 3 0#8) with
      | some st => finishCmd s1.innk.nextCmd st 0 (slotTaken n slot c s1)
      | none => enqueue c.cls s1.innk.nextCmd (beginDrain c (slotTaken n slot c s1)) := by
  unfold doAccept
  rw [hup, hturn, hhead]
  simp only [Bool.not_true, Bool.or_self, Bool.false_eq_true, if_false, hread, slotTaken] <;> rfl

/-- A drain begins where an accepted `guest.close` names an open pigeonhole. -/
theorem getPh_beginDrain (c : Cmd) (s : State) (m : Nat) :
    getPh (beginDrain c s) m = if c.opcode = 0x0502#16 ∧ m = 64 + c.num 0 ∧ (getPh s m).st = .open_ then { getPh s m with st := .draining, full := [] }
      else getPh s m := by
  unfold beginDrain
  by_cases hm : m = 64 + c.num 0
  · subst hm
    by_cases h : c.opcode = 0x0502#16 ∧ (getPh s (64 + c.num 0)).st = .open_
    · simp [h]
    · rw [if_neg h, if_neg fun ⟨hop, _, hst⟩ => h ⟨hop, hst⟩]
  · have hne : ¬ (c.opcode = 0x0502#16 ∧ m = 64 + c.num 0 ∧ (getPh s m).st = .open_) := fun h => hm h.2.1
    rw [if_neg hne]
    split
    · exact getPh_modPh_ne hm _ _
    · rfl

theorem beginDrain_rest (c : Cmd) (s : State) :
    { beginDrain c s with innk := s.innk } = s ∧ { (beginDrain c s).innk with phs := s.innk.phs } = s.innk := by
  unfold beginDrain
  split <;> exact ⟨rfl, rfl⟩

theorem beginDrain_innk (c : Cmd) (s : State) {α : Type} (f : Innkeeper → α) (hf : ∀ i phs, f { i with phs := phs } = f i) :
    f (beginDrain c s).innk = f s.innk := by
  rw [← hf _ s.innk.phs, (beginDrain_rest c s).2]

theorem getCmd_beginDrain (c : Cmd) (s : State) (k : Nat) : getCmd (beginDrain c s) k = getCmd s k :=
  getCmd_of_cmds (beginDrain_innk c s (·.cmds) fun _ _ => rfl) k

theorem enqueue_innk (cls id : Nat) (s : State) {α : Type} (f : Innkeeper → α)
    (hf : ∀ (i : Innkeeper) u n b, f { i with urgQ := u, normQ := n, bulkQ := b } = f i) : f (enqueue cls id s).innk = f s.innk := by
  unfold enqueue
  simp only [modInnk_innk]
  split_ifs
  · exact hf s.innk (s.innk.urgQ ++ [id]) s.innk.normQ s.innk.bulkQ
  · exact hf s.innk s.innk.urgQ (s.innk.normQ ++ [id]) s.innk.bulkQ
  · exact hf s.innk s.innk.urgQ s.innk.normQ (s.innk.bulkQ ++ [id])

/-- What every acceptance leaves, whether the checks pass or not: t differs from the state with the slot taken in what R323 and R334 say alone. -/
structure Accepts (n slot : Nat) (s t : State) : Prop where
  next : t.innk.nextCmd = s.innk.nextCmd + 1
  visited : t.innk.lastVisited = n
  mem : t.mem = s.mem
  head : (getPh t n).head = (getPh s n).head + 1#16
  free : tabGet none (getPh t n).full slot = none
  others : ∀ id, id ≠ s.innk.nextCmd → getCmd t id = getCmd s id

section
variable {n slot : Nat} {c : Cmd} {s : State}

theorem full_slotTaken : tabGet none (getPh (slotTaken n slot c s) n).full slot = none := by
  rw [getPh_slotTaken, if_pos rfl]
  exact tabGet_tabSet_self none (getPh s n).full slot none

theorem head_slotTaken : (getPh (slotTaken n slot c s) n).head = (getPh s n).head + 1#16 := by
  rw [getPh_slotTaken, if_pos rfl]

theorem queues_beginDrain_slotTaken (n slot : Nat) (c : Cmd) (s : State) :
    (beginDrain c (slotTaken n slot c s)).innk.urgQ = s.innk.urgQ ∧ (beginDrain c (slotTaken n slot c s)).innk.normQ = s.innk.normQ ∧
      (beginDrain c (slotTaken n slot c s)).innk.bulkQ = s.innk.bulkQ :=
  ⟨beginDrain_innk _ _ (·.urgQ) fun _ _ => rfl, beginDrain_innk _ _ (·.normQ) fun _ _ => rfl, beginDrain_innk _ _ (·.bulkQ) fun _ _ => rfl⟩

/-- A command refused at acceptance is done with the status of the check that failed. -/
theorem accepts_refused (hq : c.phase = .queued) (st : BitVec 16) :
    Accepts n slot s (finishCmd s.innk.nextCmd st 0 (slotTaken n slot c s)) ∧
      (∀ m, m ≠ n → getPh (finishCmd s.innk.nextCmd st 0 (slotTaken n slot c s)) m = getPh s m) ∧
      ∃ d, getCmd (finishCmd s.innk.nextCmd st 0 (slotTaken n slot c s)) s.innk.nextCmd = some d ∧ d.phase = .done ∧ d.status = st ∧
        d.result = 0#64 := by
  have hget : getCmd (slotTaken n slot c s) s.innk.nextCmd = some c := by rw [getCmd_slotTaken, if_pos rfl]
  obtain ⟨⟨d, hd, hdone⟩, hothers, -, hrest⟩ := finishCmd_done st 0 hget (by rw [hq]; decide)
  have hph := getPh_of_phs (finishCmd_phs s.innk.nextCmd st 0 (slotTaken n slot c s))
  refine ⟨⟨(congrArg (fun t : State => t.innk.nextCmd) hrest :), (congrArg (fun t : State => t.innk.lastVisited) hrest :),
    (congrArg State.mem hrest :), ?_, ?_, fun id hid => ?_⟩, fun m hm => ?_, _, hdone, rfl, rfl, rfl⟩
  · rw [hph, head_slotTaken]
  · rw [hph, full_slotTaken]
  · rw [hothers id hid, getCmd_slotTaken, if_neg hid]
  · rw [hph, getPh_slotTaken, if_neg hm]

/-- The pigeonholes after a command has been accepted, the drain that a `guest.close` begins among them. -/
theorem getPh_accepted (m : Nat) (hm : m ≠ n) :
    getPh (enqueue c.cls s.innk.nextCmd (beginDrain c (slotTaken n slot c s))) m =
      if c.opcode = 0x0502#16 ∧ m = 64 + c.num 0 ∧ (getPh s m).st = .open_ then { getPh s m with st := .draining, full := [] } else getPh s m := by
  rw [getPh_of_phs (enqueue_phs ..), getPh_beginDrain, getPh_slotTaken, if_neg hm]

/-- A command whose checks pass is in the table, and at the tail of its class queue. -/
theorem accepts_passed (n slot : Nat) (c : Cmd) (s : State) : Accepts n slot s (enqueue c.cls s.innk.nextCmd (beginDrain c (slotTaken n slot c s))) := by
  have hph := fun m => getPh_of_phs (enqueue_phs c.cls s.innk.nextCmd (beginDrain c (slotTaken n slot c s))) m
  refine ⟨?_, ?_, (congrArg State.mem (beginDrain_rest ..).1 :), ?_, ?_, fun id hid => ?_⟩
  · rw [enqueue_innk _ _ _ (·.nextCmd) fun _ _ _ _ => rfl, beginDrain_innk _ _ (·.nextCmd) fun _ _ => rfl]
    rfl
  · rw [enqueue_innk _ _ _ (·.lastVisited) fun _ _ _ _ => rfl, beginDrain_innk _ _ (·.lastVisited) fun _ _ => rfl]
    rfl
  · rw [hph, getPh_beginDrain]
    split <;> exact head_slotTaken
  · rw [hph, getPh_beginDrain]
    split
    · rfl
    · exact full_slotTaken
  · rw [getCmd_enqueue, getCmd_beginDrain, getCmd_slotTaken, if_neg hid]

end

/-- Settles O32: the slot is taken whether the checks pass or not; what follows is the refusal, or the queue and the drain. -/
theorem acceptance : Obligations.Acceptance := by
  intro n slot sealV bs s s1 hup hturn hhead hread hinnk
  have hcmd : ∀ id, getCmd s1 id = getCmd s id := getCmd_of_cmds (congrArg Innkeeper.cmds hinnk)
  have hph : ∀ m, getPh s1 m = getPh s m := getPh_of_phs (congrArg Innkeeper.phs hinnk)
  have heq := doAccept_eq hup hturn hhead hread
  dsimp only at heq
  rw [acceptCheck_slotTaken] at heq
  cases hcheck : acceptCheck s1 (slotCmd s1 n slot bs) sealV (bs.getD 2 0#8) (bs.getD 3 0#8) with
  | some st =>
    rw [hcheck] at heq
    obtain ⟨⟨hnext, hvis, hmem, hhd, hfull, hoth⟩, hphs, hd⟩ :=
      accepts_refused (n := n) (slot := slot) (c := { slotCmd s1 n slot bs with seen := seenNow s1 }) (s := s1) rfl st
    rw [hinnk] at hnext hoth hd
    rw [hph] at hhd
    simp only [hcmd] at hoth
    simp only [hph] at hphs
    rw [hinnk] at heq hmem hhd hfull hphs hvis
    refine ⟨_, congrArg Host.Outcome.next heq, hnext, hvis, hmem, hhd, hfull, hoth, fun h => (by cases h), fun st' h => ?_⟩
    obtain rfl := Option.some.inj h
    exact ⟨hphs, hd⟩
  | none =>
    rw [hcheck] at heq
    obtain ⟨hnext, hvis, hmem, hhd, hfull, hoth⟩ := accepts_passed n slot { slotCmd s1 n slot bs with seen := seenNow s1 } s1
    refine ⟨_, congrArg Host.Outcome.next heq, ?_, hvis, hmem, ?_, hfull, fun id hid => ?_, fun _ => ⟨?_, fun m hm => ?_, fun hop hn hst => ?_, fun hc => ?_,
      fun hc => ?_, fun hc => ?_⟩, fun st h => (by cases h)⟩
    · rw [hnext, hinnk]
    · rw [hhd, hph]
    · rw [hoth id (by rwa [hinnk]), hcmd]
    · rw [getCmd_enqueue, getCmd_beginDrain, getCmd_slotTaken, if_pos (by rw [hinnk])]
    · refine (getPh_accepted m hm).trans ?_
      rw [hph]
      rfl
    · rw [getPh_of_phs (enqueue_phs ..), getPh_beginDrain, if_pos ⟨hop, hn, by rw [getPh_slotTaken, if_pos rfl, hph]; exact hst⟩]
      exact ⟨rfl, rfl⟩
    all_goals
      obtain ⟨hu, hm, hb⟩ := queues_beginDrain_slotTaken n slot { slotCmd s1 n slot bs with seen := seenNow s1 } s1
      rw [← hinnk, ← hu, ← hm, ← hb]
      simp [enqueue, hc]

end Sys2Proof.Machine
end

section
/-! PROOFS. A write inside one 32-byte word of device memory that its home performs at once (R202, R203, R216, R219, R225, R258, R314), and what
its homes report of it (R311, R314, R330; O31). -/

namespace Sys2Proof.Machine

-- the bytes of a 32-byte word, put together from bytes at addresses (R89, R471)

theorem bytesNat_set (bs : List Byte) (k : Nat) (b : Byte) (hk : k < bs.length) :
    bytesNat (bs.set k b) + bs[k].toNat * 256 ^ k = bytesNat bs + b.toNat * 256 ^ k := by
  induction bs generalizing k with
  | nil => exact absurd hk (Nat.not_lt_zero k)
  | cons c bs ih =>
    cases k with
    | zero => simp only [List.set_cons_zero, bytesNat, List.getElem_cons_zero, pow_zero]; omega
    | succ k =>
      have h := ih k (Nat.lt_of_succ_lt_succ hk)
      simp only [List.set_cons_succ, bytesNat, List.getElem_cons_succ, pow_succ']
      linarith

theorem bytesNat_append (bs : List Byte) (b : Byte) : bytesNat (bs ++ [b]) = bytesNat bs + 256 ^ bs.length * b.toNat := by
  induction bs with
  | nil => simp [bytesNat]
  | cons c bs ih => rw [List.cons_append, bytesNat, bytesNat, ih, List.length_cons, pow_succ']; ring

/-- The lowest bytes of a word make its lowest digits. -/
theorem bytesNat_wordBytes {w : Nat} (n : Nat) (x : BitVec w) : bytesNat (wordBytes n x) = x.toNat % 256 ^ n := by
  induction n with
  | zero => simp [wordBytes, bytesNat, Nat.mod_one]
  | succ n ih =>
    have happ : wordBytes (n + 1) x = wordBytes n x ++ [byteOf x n] := by simp [wordBytes, List.range_succ]
    have hbyte : (byteOf x n).toNat = x.toNat / 256 ^ n % 256 := by
      rw [byteOf, BitVec.extractLsb'_toNat, Nat.shiftRight_eq_div_pow, pow_mul]
      norm_num
    rw [happ, bytesNat_append, ih, hbyte, Nat.mod_pow_succ]
    simp [wordBytes]

theorem ofNat_bytesNat_wordBytes (v : Word) : BitVec.ofNat 64 (bytesNat (wordBytes 8 v)) = v := by
  rw [bytesNat_wordBytes, Nat.mod_eq_of_lt (show v.toNat < 256 ^ 8 from v.isLt), BitVec.ofNat_toNat, BitVec.setWidth_eq]

theorem toNat_bytes (d : BitVec 256) : d.toNat = bytesNat (wordBytes 32 d) := by
  rw [bytesNat_wordBytes, Nat.mod_eq_of_lt (show d.toNat < 256 ^ 32 from d.isLt)]

/-- One byte of a 256-bit word is replaced. -/
def putByte (d : BitVec 256) (k : Nat) (b : Byte) : BitVec 256 :=
  BitVec.ofNat 256 (d.toNat - (byteOf d k).toNat * 2 ^ (8 * k) + b.toNat * 2 ^ (8 * k))

theorem byteOf_putByte (d : BitVec 256) {k j : Nat} (hk : k < 32) (hj : j < 32) (b : Byte) :
    byteOf (putByte d k b) j = if j = k then b else byteOf d j := by
  have hl : (wordBytes 32 d).length = 32 := by simp [wordBytes]
  have hkl : k < (wordBytes 32 d).length := by rwa [hl]
  have hset := bytesNat_set (wordBytes 32 d) k b hkl
  have hdigit : (wordBytes 32 d)[k].toNat * 256 ^ k ≤ bytesNat (wordBytes 32 d) := by
    rw [← bytesNat_digit _ k hkl]
    exact (Nat.mul_le_mul_right _ (Nat.mod_le ..)).trans (Nat.div_mul_le_self ..)
  have hput : putByte d k b = BitVec.ofNat 256 (bytesNat ((wordBytes 32 d).set k b)) := by
    have hk' : byteOf d k = (wordBytes 32 d)[k] := by simp [wordBytes]
    rw [putByte, pow_mul, show (2 : Nat) ^ 8 = 256 from rfl, toNat_bytes d, hk']
    congr 1
    omega
  rw [hput, byteOf_ofBytes (by simpa using hl) (by simpa [wordBytes] using hj), List.getElem_set]
  simp [wordBytes, eq_comm]

section
variable {w : Nat}

theorem wordEnables_append (bs : List (Nat × Byte)) (p : Nat × Byte) :
    wordEnables (bs ++ [p]) w = if p.1 / 32 = w then setBit (wordEnables bs w) (p.1 % 32) else wordEnables bs w := by
  simp [wordEnables]

theorem wordData_append (bs : List (Nat × Byte)) (p : Nat × Byte) :
    wordData (bs ++ [p]) w = if p.1 / 32 = w then putByte (wordData bs w) (p.1 % 32) p.2 else wordData bs w := by
  simp [wordData, putByte]

theorem getLsbD_setBit_self {n k : Nat} (m : BitVec n) (hk : k < n) : (setBit m k).getLsbD k = true := by
  simp [setBit, maskBit, hk]

theorem getLsbD_setBit_of {n j : Nat} {m : BitVec n} (h : m.getLsbD j = true) (k : Nat) : (setBit m k).getLsbD j = true := by
  simp [setBit, h]

/-- Every byte of a 32-byte word is enabled and stands in its data, where no two bytes lie at one address. -/
theorem word_of_bytes (bs : List (Nat × Byte)) (hw : ∀ p ∈ bs, p.1 / 32 = w) (hnd : (bs.map (·.1)).Nodup) :
    ∀ p ∈ bs, (wordEnables bs w).getLsbD (p.1 % 32) = true ∧ byteOf (wordData bs w) (p.1 % 32) = p.2 := by
  induction bs using List.reverseRecOn with
  | nil => exact fun p hp => absurd hp (List.not_mem_nil)
  | append_singleton bs q ih =>
    rw [List.map_append, List.nodup_append] at hnd
    obtain ⟨hbs, -, hne⟩ := hnd
    have hq : q.1 / 32 = w := hw q (by simp)
    have ih := ih (fun p hp => hw p (List.mem_append_left _ hp)) hbs
    intro p hp
    rw [wordEnables_append, wordData_append, if_pos hq, if_pos hq, byteOf_putByte _ (by omega) (by omega)]
    rcases List.mem_append.mp hp with hp | hp
    · have hpq : p.1 ≠ q.1 := hne p.1 (List.mem_map_of_mem hp) q.1 (by simp)
      have hpw : p.1 / 32 = w := hw p (List.mem_append_left _ hp)
      obtain ⟨hen, hdat⟩ := ih p hp
      exact ⟨getLsbD_setBit_of hen _, (if_neg (by omega)).trans hdat⟩
    · obtain rfl := List.mem_singleton.mp hp
      exact ⟨getLsbD_setBit_self _ (by omega), if_pos rfl⟩

end

/-- Bytes at consecutive addresses. -/
def placedBytes (a : Nat) (bs : List Byte) : List (Nat × Byte) := ((List.range bs.length).zip bs).map (fun p => (a + p.1, p.2))

theorem mem_placedBytes {a i : Nat} {bs : List Byte} (h : i < bs.length) : (a + i, bs[i]) ∈ placedBytes a bs := by
  refine List.mem_map.mpr ⟨(i, bs[i]), ?_, rfl⟩
  exact List.mem_iff_getElem.mpr ⟨i, by simpa using h, by simp⟩

theorem placedBytes_range {a : Nat} {bs : List Byte} {p : Nat × Byte} (h : p ∈ placedBytes a bs) : a ≤ p.1 ∧ p.1 < a + bs.length := by
  obtain ⟨q, hq, rfl⟩ := List.mem_map.mp h
  have := List.mem_range.mp (List.of_mem_zip hq).1
  exact ⟨Nat.le_add_right .., Nat.add_lt_add_left this a⟩

theorem placedBytes_nodup (a : Nat) (bs : List Byte) : ((placedBytes a bs).map (·.1)).Nodup := by
  have h : (placedBytes a bs).map (·.1) = (List.range bs.length).map (a + ·) := by
    have hzip : ((List.range bs.length).zip bs).map Prod.fst = List.range bs.length := List.map_fst_zip (by simp)
    rw [placedBytes, List.map_map, ← hzip, List.map_map, hzip]
    rfl
  rw [h]
  exact List.nodup_range.map fun x y h => Nat.add_left_cancel h

-- the lines and sectors of a range inside one word (R216)

/-- A mask of four bits that are set one by one. -/
theorem getLsbD_mask_four (c : Nat → Bool) {k : Nat} (hk : k < 4) :
    ((List.range 4).foldl (fun m j => if c j then setBit m j else m) 0#4).getLsbD k = c k := by
  have h : ∀ b0 b1 b2 b3 : Bool, let m := [(b0, 0), (b1, 1), (b2, 2), (b3, 3)].foldl (fun (m : BitVec 4) p => if p.1 then setBit m p.2 else m) 0#4
      m.getLsbD 0 = b0 ∧ m.getLsbD 1 = b1 ∧ m.getLsbD 2 = b2 ∧ m.getLsbD 3 = b3 := by decide
  obtain ⟨h0, h1, h2, h3⟩ := h (c 0) (c 1) (c 2) (c 3)
  obtain rfl | rfl | rfl | rfl : k = 0 ∨ k = 1 ∨ k = 2 ∨ k = 3 := by omega
  · exact h0
  · exact h1
  · exact h2
  · exact h3

section
variable {a n : Nat} (hn : 0 < n) (hfit : a % 32 + n ≤ 32)
include hn hfit

theorem sectorMask_inside {k : Nat} (hk : k < 4) : (sectorMask a n).getLsbD k = decide (k = a / 32 % 4) := by
  rw [sectorMask, getLsbD_mask_four (fun k => overlaps a n (a / 128 * 128 + 32 * k) 32) hk]
  unfold overlaps
  by_cases h : k = a / 32 % 4
  · simp only [h, Bool.and_eq_true, decide_eq_true_eq, decide_true]
    omega
  · simp only [h, decide_false, Bool.and_eq_false_imp, decide_eq_false_iff_not, Bool.and_eq_true, decide_eq_true_eq]
    omega

theorem rangeLines_inside : rangeLines a n = [(lineOf a, sectorMask a n)] := by
  have hcount : (a + n - 1) / 128 + 1 - a / 128 = 1 := by omega
  have hmin : min (a + n) (a / 128 * 128 + 128) = a + n := by omega
  have hmax : max a (a / 128 * 128) = a := by omega
  simp [rangeLines, Nat.pos_iff_ne_zero.mp hn, hcount, hmin, hmax, lineOf]

end

-- one sector written at its home

/-- What a write of one sector leaves: the line with the sector stored into; outside the homes, the write-combining buffers, the counts of moved
sectors and the count of free values nothing has changed. -/
structure SectorWritten (a : Nat) (rg : Region) (x : Line) (en : BitVec 32) (v : SectorVal) (s t : State) : Prop where
  rest : { t with homes := s.homes, ctls := s.ctls, sb := s.sb, freeCtr := s.freeCtr } = s
  line : ∃ y dirty, (getHome t (rg.home (a / 32 * 32))).line (lineOf a) = some y ∧
    y.sectors = x.sectors.set (a / 32 % 4) ((secAt x.sectors (a / 32 % 4)).store en v dirty)

theorem stackOf_word (a : Nat) : stackOf (a / 32 * 32) = stackOf a := by
  unfold stackOf stackBytes
  omega

theorem lineOf_word (a : Nat) : lineOf (a / 32 * 32) = lineOf a := by
  unfold lineOf
  omega

theorem stackOf_lineBase (a : Nat) : stackOf (lineOf a * 128) = stackOf a := by
  unfold stackOf stackBytes lineOf
  omega

theorem Region.home_word (rg : Region) (a : Nat) : rg.home (a / 32 * 32) = rg.home a := by
  unfold Region.home
  rw [stackOf_word]

theorem Region.home_lineBase (rg : Region) (a : Nat) : rg.home (lineOf a * 128) = rg.home a := by
  unfold Region.home
  rw [stackOf_lineBase]

theorem copyAddr_word (a : Nat) : copyAddr (a / 32 * 32) = copyAddr a / 32 * 32 := by
  unfold copyAddr
  rw [stackOf_word]
  generalize partnerOf (stackOf a) = p
  unfold stackBytes
  omega

theorem Region.memAddr_word (rg : Region) (a : Nat) : rg.memAddr (a / 32 * 32) = rg.memAddr a / 32 * 32 := by
  unfold Region.memAddr
  split
  · exact copyAddr_word a
  · rfl

/-- The buffer of an address has room for an entry of its own (R247). -/
def BufferRoom (b : Nat) (s : State) : Prop :=
  (getCtl s (stackOf b)).entry (lineOf b) = none ∧ (getCtl s (stackOf b)).wcb.length + 1 < min 64 (getCtl s (stackOf b)).cfgEff.wcbHigh.toNat

theorem BufferRoom.word {b : Nat} {s : State} (h : BufferRoom b s) : BufferRoom (b / 32 * 32) s := by
  unfold BufferRoom
  rwa [stackOf_word, lineOf_word]

theorem BufferRoom.of_ctl {b : Nat} {s t : State} (h : BufferRoom b s) (hc : getCtl t (stackOf b) = getCtl s (stackOf b)) : BufferRoom b t := by
  unfold BufferRoom
  rwa [hc]

theorem ctlWrite_room {b : Nat} {s : State} (h : BufferRoom b s) (en : BitVec 32) (v : SectorVal) : ctlWrite b en v s = takeEntry b en v s := by
  obtain ⟨hnone, hlen⟩ := h
  exact ctlWrite_new hnone (by omega) (by omega)

theorem takeEntry_rest (b : Nat) (en : BitVec 32) (v : SectorVal) (s : State) : { takeEntry b en v s with ctls := s.ctls } = s := rfl

theorem countMoved_rest (r : Requester) (k : Nat) (s : State) : { countMoved r k s with sb := s.sb } = s := rfl

/-- A write-through with room takes entries in the write-combining buffers and counts the sector moved. -/
theorem memWrite_room {r : Requester} {rg : Region} {pa : Nat} {s : State} (h : BufferRoom (rg.memAddr pa) s) (hc : BufferRoom (copyAddr (rg.memAddr pa)) s)
    (en : BitVec 32) (v : SectorVal) :
    { memWrite r rg pa en v s with ctls := s.ctls, sb := s.sb } = s := by
  unfold memWrite
  dsimp only
  rw [ctlWrite_room h]
  generalize hw : takeEntry (rg.memAddr pa) en v s = w
  have hws : { w with ctls := s.ctls } = s := by rw [← hw, takeEntry_rest]
  have hone : { countMoved r 1 w with ctls := s.ctls, sb := s.sb } = s :=
    calc ({ countMoved r 1 w with ctls := s.ctls, sb := s.sb } : State)
        = { w with ctls := s.ctls, sb := s.sb } := (congrArg (fun t : State => { t with ctls := s.ctls, sb := s.sb }) (countMoved_rest r 1 w) :)
      _ = s := (congrArg (fun t : State => { t with sb := s.sb }) hws :)
  split
  · have hroom : BufferRoom (copyAddr (rg.memAddr pa)) (countMoved r 1 w) := by
      refine hc.of_ctl ?_
      rw [← hw]
      refine tabGet_tabSet_ne ?_
      rw [stackOf_copyAddr]
      exact partnerOf_ne _
    rw [ctlWrite_room hroom]
    exact (congrArg (fun t : State => { t with ctls := s.ctls, sb := s.sb }) (takeEntry_rest (copyAddr (rg.memAddr pa)) en v (countMoved r 1 w)) :).trans hone
  · exact hone

theorem byteOf_store (x : Sector) (en : BitVec 32) (v : SectorVal) (dirty : Bool) {b : Nat} (hb : b < 32) :
    byteOf (x.store en v dirty).data b = if en.getLsbD b then byteOf v.data b else byteOf x.data b :=
  byteOf_mergeBytes _ _ _ hb

section
variable {r : Requester} {a : Nat} {rg : Region} {x : Line} {s : State}

/-- The equation of a store to a valid sector under write-through: the home's bookkeeping, the sector stored into, and the write to memory. -/
theorem homeWriteSector_through {en : BitVec 32} {v : SectorVal} (hp : rg.policy = 1) (hen : en ≠ 0#32) (hw : memWaits s rg (lineOf a) true = false)
    (h : HoldsAlone s (rg.home a) (lineOf a) x) (hv : (secAt x.sectors (a / 32 % 4)).valid = true) :
    ∃ u, Bookkept (rg.home a) s u ∧ homeWriteSector r a en v rg s = (true, memWrite r rg (lineOf a * 128 + 32 * (a / 32 % 4)) en v
      (touch (rg.home a) (lineOf a) false (putSector (rg.home a) (lineOf a) (a / 32 % 4) ((secAt x.sectors (a / 32 % 4)).store en v false) u))) := by
  generalize hn : rg.home a = n at h
  generalize hl : lineOf a = l at h hw
  generalize hk : a / 32 % 4 = k at hv
  have hb1 := bookkept_enterQueue n l s
  have hb2 : Bookkept n s (modHome n (fun h => { h with deadList := h.deadList.filter (· != l) }) (enterQueue n l s)) := by
    refine hb1.trans ?_
    apply bookkept_modHome
    exact fun _ => ⟨rfl, rfl, rfl⟩
  have hb3 := hb2.trans (bookkept_countAccess n l true _)
  obtain ⟨-, -, hdir1, hevb1, -⟩ := h.of_bookkept hb1
  obtain ⟨hline2, -⟩ := h.of_bookkept hb2
  obtain ⟨hline3, -⟩ := h.of_bookkept hb3
  refine ⟨_, hb3, ?_⟩
  unfold homeWriteSector
  simp [hn, hl, hk, hen, hp, hw, hv, writeClear, lineClear_of_invalid hdir1, evbDrainThrough_of_absent hevb1, hline2, hline3]

/-- A write-through that is ready finds room for its word, and for the copy of it, also once the home has been written. -/
theorem WriteReady.roomWord (h : WriteReady r a rg x s) (hp : rg.policy = 1) {t : State} (ht : OnlyHomes s t) :
    BufferRoom (rg.memAddr (a / 32 * 32)) t := by
  rw [rg.memAddr_word]
  exact ((show BufferRoom (rg.memAddr a) s from h.room hp _ (.inl rfl)).of_ctl (by unfold getCtl; rw [ht.ctls])).word

theorem WriteReady.roomCopy (h : WriteReady r a rg x s) (hp : rg.policy = 1) {t : State} (ht : OnlyHomes s t) :
    BufferRoom (copyAddr (rg.memAddr (a / 32 * 32))) t := by
  rw [rg.memAddr_word, copyAddr_word]
  exact ((show BufferRoom (copyAddr (rg.memAddr a)) s from h.room hp _ (.inr rfl)).of_ctl (by unfold getCtl; rw [ht.ctls])).word

/-- A write to one sector that its home performs at once. -/
theorem homeWriteSector_ready {en : BitVec 32} (h : WriteReady r a rg x s) (hen : en ≠ 0#32) (v : SectorVal) :
    ∃ t, homeWriteSector r (a / 32 * 32) en v rg s = (true, t) ∧ SectorWritten a rg x en v s t := by
  have hsec : a / 32 * 32 / 32 % 4 = a / 32 % 4 := by omega
  have hline : HoldsAlone s (rg.home (a / 32 * 32)) (lineOf (a / 32 * 32)) x := by rw [lineOf_word]; exact h.line
  have hv : (secAt x.sectors (a / 32 * 32 / 32 % 4)).valid = true := by rw [hsec]; exact h.sector
  by_cases hp : rg.policy = 1
  · obtain ⟨u, hbook, heq⟩ := homeWriteSector_through (r := r) (v := v) hp hen (by rw [lineOf_word]; exact h.ready) hline hv
    obtain ⟨y, honly, hy, hys, -⟩ := stored_line hline hbook ((secAt x.sectors (a / 32 * 32 / 32 % 4)).store en v false) false
    have hbase : lineOf a * 128 + 32 * (a / 32 % 4) = a / 32 * 32 := by unfold lineOf; omega
    rw [lineOf_word, hsec] at heq honly hy
    rw [hsec] at hys
    rw [hbase] at heq
    generalize touch _ _ _ _ = w at heq honly hy
    have hrest := memWrite_room (r := r) (s := w) (h.roomWord hp honly.homes) (h.roomCopy hp honly.homes) en v
    refine ⟨_, heq, ?_, y, false, ?_, hys⟩
    · calc ({ memWrite r rg (a / 32 * 32) en v w with homes := s.homes, ctls := s.ctls, sb := s.sb, freeCtr := s.freeCtr } : State)
          = { ({ memWrite r rg (a / 32 * 32) en v w with ctls := w.ctls, sb := w.sb } : State) with
              homes := s.homes, ctls := s.ctls, sb := s.sb, freeCtr := s.freeCtr } := rfl
        _ = { ({ w with homes := s.homes, freeCtr := s.freeCtr } : State) with ctls := s.ctls, sb := s.sb } :=
            (congrArg (fun t : State => { t with homes := s.homes, ctls := s.ctls, sb := s.sb, freeCtr := s.freeCtr }) hrest :)
        _ = s := (congrArg (fun t : State => { t with ctls := s.ctls, sb := s.sb }) honly.1 :)
    · exact (congrArg (fun t : State => (getHome t (rg.home (a / 32 * 32))).line (lineOf a)) hrest :).trans hy
  · obtain ⟨u, hbook, -, heq⟩ := homeWriteSector_hit (r := r) (v := v) hp hen hline hv
    obtain ⟨y, honly, hy, hys, -⟩ := stored_line hline hbook ((secAt x.sectors (a / 32 * 32 / 32 % 4)).store en v true) (rg.policy == 3)
    rw [lineOf_word, hsec] at heq honly hy
    rw [hsec] at hys
    refine ⟨_, heq, ?_, y, true, hy, hys⟩
    exact (congrArg (fun t : State => { t with ctls := s.ctls, sb := s.sb }) honly.1 :)

end

-- bytes written inside one word

section
variable {r : Requester} {a : Nat} {rg : Region} {x : Line} {s : State}

theorem clearAll_ready (h : WriteReady r a rg x s) : clearAll r [lineOf a] s = (true, s) := by
  obtain ⟨-, -, hl⟩ := h.homes
  obtain ⟨-, -, hdir, -⟩ := h.line
  rw [rg.home_word, ← rg.home_lineBase] at hdir
  simp [clearAll, clearLines, hl, lineClear_of_invalid hdir, h.ready]

theorem forEach_one {α : Type} (y : α) (f : α → State → State) (s : State) : forEach [y] f s = f y s := rfl

/-- A run in which one round alone does anything. -/
theorem forEach_single {xs : List Nat} (hnd : xs.Nodup) {k : Nat} (hk : k ∈ xs) {f : Nat → State → State} (h : ∀ j, j ≠ k → ∀ u, f j u = u) (s : State) :
    forEach xs f s = f k s := by
  induction xs with
  | nil => exact absurd hk (List.not_mem_nil)
  | cons j xs ih =>
    obtain ⟨hj, hnd⟩ := List.nodup_cons.mp hnd
    have hcons : forEach (j :: xs) f s = forEach xs f (f j s) := rfl
    rw [hcons]
    by_cases hjk : j = k
    · subst hjk
      exact forEach_fixed_of_mem xs fun m hm => h m (fun hmj => hj (hmj ▸ hm)) _
    · rw [h j hjk]
      exact ih hnd ((List.mem_cons.mp hk).resolve_left (Ne.symm hjk))

/-- Bytes inside one word that its home writes at once: one store to the sector, and the reports of the homes. -/
theorem homeWriteBytes_ready (h : WriteReady r a rg x s) {bs : List Byte} (hn : 0 < bs.length) (hfit : a % 32 + bs.length ≤ 32) :
    ∃ t, homeWriteBytes r a bs s = (true, reportWrite a bs [] t) ∧
      { t with homes := s.homes, ctls := s.ctls, sb := s.sb, freeCtr := s.freeCtr } = s ∧ WordWritten a rg bs s t := by
  obtain ⟨hword, -⟩ := h.homes
  have hw : ∀ p ∈ placedBytes a bs, p.1 / 32 = a / 32 := fun p hp => by
    obtain ⟨hlo, hhi⟩ := placedBytes_range hp
    omega
  have hbytes := word_of_bytes (placedBytes a bs) hw (placedBytes_nodup a bs)
  have hfirst := hbytes _ (mem_placedBytes hn)
  have hen : wordEnables (placedBytes a bs) (a / 32) ≠ 0#32 := fun h0 => by
    rw [h0] at hfirst
    simp at hfirst
  obtain ⟨t, ht, hwr⟩ := homeWriteSector_ready h hen { data := wordData (placedBytes a bs) (a / 32) }
  refine ⟨t, ?_, hwr.rest, ?_, (congrArg State.mem hwr.rest :), (congrArg State.regions hwr.rest :), (congrArg State.clusters hwr.rest :),
    (congrArg (fun u : State => u.ldg.records) hwr.rest :)⟩
  · have hmine : (placedBytes a bs).filter (fun p => p.1 / 32 == a / 32) = placedBytes a bs :=
      List.filter_eq_self.mpr fun p hp => by simpa using hw p hp
    have hsec : lineOf a * 4 + a / 32 % 4 = a / 32 := by unfold lineOf; omega
    have hmask : ∀ j, j ≠ a / 32 % 4 → (sectorMask a bs.length).getLsbD j = false := fun j hj => by
      by_cases hj4 : j < 4
      · rw [sectorMask_inside hn hfit hj4, decide_eq_false hj]
      · exact BitVec.getLsbD_of_ge _ _ (by omega)
    unfold homeWriteBytes
    rw [rangeLines_inside hn hfit]
    simp only [List.map_cons, List.map_nil, clearAll_ready h, Bool.not_true, Bool.false_eq_true, if_false, List.filter_cons, h.done,
      List.filter_nil, List.contains_nil, Bool.not_false, if_true]
    refine congrArg (fun u => (true, reportWrite a bs [] u)) ?_
    rw [forEach_one]
    refine (forEach_single List.nodup_range (List.mem_range.mpr (Nat.mod_lt (a / 32) (by decide : 0 < 4))) (fun j hj u => ?_) s).trans ?_
    · exact if_neg (by rw [hmask j hj]; decide)
    · dsimp only
      rw [if_pos (by rw [sectorMask_inside hn hfit (Nat.mod_lt _ (by decide)), decide_eq_true rfl]), hsec, hword, ← placedBytes, hmine]
      exact congrArg Prod.snd ht
  · obtain ⟨y, dirty, hy, hys⟩ := hwr.line
    refine ⟨y, hy, fun b hb => ?_⟩
    have hk : a / 32 % 4 < x.sectors.length := by rw [h.line.length]; omega
    have hpos : (a + b) % 32 = a % 32 + b := by omega
    obtain ⟨hbit, hbyte⟩ := hbytes _ (mem_placedBytes hb)
    rw [hpos] at hbit hbyte
    rw [hys, secAt_set_self hk, byteOf_store _ _ _ _ (by omega), if_pos hbit, hbyte]
    simp [hb]

end

-- reports (R311, R314, R330, R334)

/-- What the report of a SEAL write does to its pigeonhole. -/
def Pigeonhole.sealed (slot : Nat) (wide : Bool) (v : Word) (p : Pigeonhole) : Pigeonhole :=
  if p.st ≠ .open_ then p
  else if wide = false then { p with err := { p.err with partialSeal := satInc p.err.partialSeal } }
  else if v.extractLsb' 16 8 = p.epoch ∧ (v.setWidth 16 : BitVec 16).toNat % 256 = slot ∧ ((v.setWidth 16 : BitVec 16) - p.head).toNat < 256 then
    { p with full := tabSet none p.full slot (some v) }
  else { p with err := { p.err with badSeal := satInc p.err.badSeal } }

section
variable {p : Pigeonhole} (h : p.st = .open_) (slot : Nat) (v : Word)
include h

theorem Pigeonhole.sealed_open : p.sealed slot true v =
    if v.extractLsb' 16 8 = p.epoch ∧ (v.setWidth 16 : BitVec 16).toNat % 256 = slot ∧ ((v.setWidth 16 : BitVec 16) - p.head).toNat < 256 then
      { p with full := tabSet none p.full slot (some v) }
    else { p with err := { p.err with badSeal := satInc p.err.badSeal } } :=
  (if_neg (not_not.mpr h)).trans (if_neg (by decide))

theorem Pigeonhole.sealed_partial : p.sealed slot false v = { p with err := { p.err with partialSeal := satInc p.err.partialSeal } } :=
  (if_neg (not_not.mpr h)).trans (if_pos rfl)

end

/-- What the report of a CQ_CTL write does to its pigeonhole. -/
def Pigeonhole.consumed (wide : Bool) (v : Word) (p : Pigeonhole) : Pigeonhole :=
  if wide = true ∧ v.extractLsb' 16 8 = p.epoch ∧ (p.cqTail - (v.setWidth 16 : BitVec 16)).toNat ≤ 256 then { p with cqHead := v.setWidth 16 }
  else { p with err := { p.err with badCqh := satInc p.err.badCqh } }

theorem getPh_sealReport (n slot m : Nat) (wide : Bool) (v : Word) (s : State) :
    getPh (sealReport n slot wide v s) m = if m = n then (getPh s n).sealed slot wide v else getPh s m := by
  unfold sealReport Pigeonhole.sealed seqFits
  by_cases hm : m = n
  · subst hm
    simp only [bne_iff_ne, Bool.not_eq_true', Bool.and_eq_true, beq_iff_eq, decide_eq_true_eq, if_true]
    split
    · rfl
    · split
      · exact getPh_modPh_self _ _ _
      · split <;> exact getPh_modPh_self _ _ _
  · dsimp only
    rw [if_neg hm]
    split
    · rfl
    · split
      · exact getPh_modPh_ne hm _ _
      · split <;> exact getPh_modPh_ne hm _ _

theorem getPh_cqReport (n m : Nat) (wide : Bool) (v : Word) (s : State) :
    getPh (cqReport n wide v s) m = if m = n then (getPh s n).consumed wide v else getPh s m := by
  unfold cqReport Pigeonhole.consumed
  by_cases hm : m = n
  · subst hm
    simp only [Bool.and_eq_true, beq_iff_eq, decide_eq_true_eq, if_true, and_assoc]
    split <;> exact getPh_modPh_self _ _ _
  · dsimp only
    rw [if_neg hm]
    split <;> exact getPh_modPh_ne hm _ _

theorem Pigeonhole.sealed_narrow (slot : Nat) (v w : Word) (p : Pigeonhole) : p.sealed slot false v = p.sealed slot false w := by
  simp [Pigeonhole.sealed]

theorem Pigeonhole.consumed_narrow (v w : Word) (p : Pigeonhole) : p.consumed false v = p.consumed false w := by
  simp [Pigeonhole.consumed]

/-- A write of at most 8 bytes at the start of an 8-byte word makes the report of that word. -/
theorem reportWrite_word {a : Nat} {bs : List Byte} (ha : a % 8 = 0) (hn : 0 < bs.length) (hle : bs.length ≤ 8) (s : State) :
    reportWrite a bs [] s = reportWord a (decide (8 ≤ bs.length)) (BitVec.ofNat 64 (bytesNat bs)) s := by
  have hcount : (a + bs.length + 7) / 8 - a / 8 = 1 := by omega
  have hw : (a / 8 + 0) * 8 = a := by omega
  have hne : bs.isEmpty = false := by simpa [List.isEmpty_iff] using List.ne_nil_of_length_pos hn
  have hwide : decide (a + 8 ≤ a + bs.length) = decide (8 ≤ bs.length) := by simp
  unfold reportWrite
  rw [hcount, List.range_one, forEach_one]
  dsimp only
  rw [hw, hne, hwide, Nat.sub_self, List.drop_zero, List.take_of_length_le hle]
  simp

theorem lowBytes_eq_take (width : Nat) (v : Word) : lowBytes width v = (wordBytes 8 v).take width := by
  simp [lowBytes, wordBytes, ← List.map_take, List.take_range]

/-- A report of a SEAL word in a pigeonhole's command area. -/
theorem reportWord_seal {n slot w : Nat} {s : State} {rg : Region} (hu : usable s w = some rg) (hp : phAt s w = some n)
    (hw : w = (getPh s n).area + slot * 64 + 0x38) (hs : slot < 256) (wide : Bool) (v : Word) : reportWord w wide v s = sealReport n slot wide v s := by
  have hoff : w - (getPh s n).area = slot * 64 + 0x38 := by omega
  have hdiv : (slot * 64 + 0x38) / 64 = slot := by omega
  rw [reportWord, hu, Option.bind_some, hp]
  dsimp only
  rw [hoff, if_pos (by omega), if_pos (by omega), hdiv]

/-- A report of CQ_CTL. -/
theorem reportWord_cq {n w : Nat} {s : State} {rg : Region} (hu : usable s w = some rg) (hp : phAt s w = some n)
    (hw : w = (getPh s n).area + 0x4000) (wide : Bool) (v : Word) : reportWord w wide v s = cqReport n wide v s := by
  have hoff : w - (getPh s n).area = 0x4000 := by omega
  rw [reportWord, hu, Option.bind_some, hp]
  dsimp only
  rw [hoff]
  rfl

-- the obligation

/-- What the reports of a write leave of the word written. -/
theorem WordWritten.reported {a w : Nat} {rg : Region} {bs : List Byte} {s t : State} (h : WordWritten a rg bs s t) (wide : Bool) (v : Word) :
    WordWritten a rg bs s (reportWord w wide v t) := by
  have hrest := reportWord_rest w wide v t
  obtain ⟨hy, hmem, hreg, hcl, hrec⟩ := h
  refine ⟨?_, (congrArg State.mem hrest :).trans hmem, (congrArg State.regions hrest :).trans hreg, (congrArg State.clusters hrest :).trans hcl,
    (congrArg (fun u : State => u.ldg.records) hrest :).trans hrec⟩
  rw [show getHome (reportWord w wide v t) = getHome t from (congrArg getHome hrest :)]
  exact hy

/-- A write of a pigeonhole's owner to a whole 8-byte word or its lowest bytes, performed at once: the bytes are in the word, and the word is
reported. -/
theorem ownerWrite {n width a : Nat} {v : Word} {s : State} {rg : Region} {x : Line} (hwidth : 0 < width) (ha : a % 8 = 0)
    (h : WriteReady (if n < 64 then .px 0 else .network) a rg x s) :
    ∃ u, (homeWriteBytes (phOwner n) a (lowBytes width v) s).2 =
        reportWord a (decide (8 ≤ width)) (BitVec.ofNat 64 (bytesNat (lowBytes width v))) u ∧ u.innk = s.innk ∧ usable u a = some rg ∧
      WordWritten a rg ((wordBytes 8 v).take width) s (homeWriteBytes (phOwner n) a (lowBytes width v) s).2 := by
  have hlen : (lowBytes width v).length = min width 8 := by simp [lowBytes, wordBytes]
  have hu : usable s a = some rg := by
    obtain ⟨-, hu, -⟩ := h.homes
    rwa [show a / 8 * 8 = a by omega] at hu
  obtain ⟨u, heq, hrest, hwr⟩ := homeWriteBytes_ready (r := phOwner n) h (bs := lowBytes width v) (by omega) (by omega)
  have hreport := reportWrite_word ha (bs := lowBytes width v) (by omega) (by omega) u
  have hwide : decide (8 ≤ (lowBytes width v).length) = decide (8 ≤ width) := by rw [hlen]; simp
  rw [hwide] at hreport
  rw [heq, ← lowBytes_eq_take]
  exact ⟨u, hreport, (congrArg State.innk hrest :), (congrArg (fun t : State => usable t a) hrest :).trans hu, by rw [hreport]; exact hwr.reported ..⟩

/-- The value of a write is used by its report only where the whole word was written. -/
theorem value_of_wide {width : Nat} (v : Word) (h : 8 ≤ width) : BitVec.ofNat 64 (bytesNat (lowBytes width v)) = v := by
  rw [lowBytes, Nat.min_eq_right h, ofNat_bytesNat_wordBytes]

theorem sealed_value (slot width : Nat) (v : Word) (p : Pigeonhole) :
    p.sealed slot (decide (8 ≤ width)) (BitVec.ofNat 64 (bytesNat (lowBytes width v))) = p.sealed slot (decide (8 ≤ width)) v := by
  by_cases h : 8 ≤ width
  · rw [value_of_wide v h]
  · rw [decide_eq_false h]
    exact p.sealed_narrow ..

theorem consumed_value (width : Nat) (v : Word) (p : Pigeonhole) :
    p.consumed (decide (8 ≤ width)) (BitVec.ofNat 64 (bytesNat (lowBytes width v))) = p.consumed (decide (8 ≤ width)) v := by
  by_cases h : 8 ≤ width
  · rw [value_of_wide v h]
  · rw [decide_eq_false h]
    exact p.consumed_narrow ..

/-- Settles O31: a report is one update of its pigeonhole, and an owner's write at a ready word is performed and makes one report. -/
theorem sealAndRingWrites : Obligations.SealAndRingWrites := by
  refine ⟨fun n v s => ⟨fun slot _ _ hopen => ?_, ?_⟩, fun n width v s rg x hn hst harea hwidth => ⟨fun slot hslot hp h => ?_, fun hp h => ?_⟩⟩
  · have hph : ∀ wide, getPh (sealReport n slot wide v s) n = (getPh s n).sealed slot wide v := fun wide => by rw [getPh_sealReport, if_pos rfl]
    rw [hph, hph, Pigeonhole.sealed_open hopen, Pigeonhole.sealed_partial hopen]
    refine ⟨fun h => ?_, fun h => ?_, rfl, rfl⟩
    · rw [if_pos h]
      have hfull := tabGet_tabSet none (getPh s n).full slot (some v)
      exact ⟨(hfull slot).trans (if_pos rfl), rfl, fun k hk => (hfull k).trans (if_neg hk)⟩
    · rw [if_neg h]
      exact ⟨rfl, rfl⟩
  · simp only [getPh_cqReport, if_true, Pigeonhole.consumed, true_and, Bool.false_eq_true, false_and, if_false, and_true]
    exact ⟨fun h => if_pos h, fun h => if_neg h⟩
  · obtain ⟨u, heq, hinnk, huse, hwr⟩ := ownerWrite (v := v) hwidth (by omega) h
    have hph : ∀ m, getPh u m = getPh s m := getPh_of_phs (by rw [hinnk])
    rw [reportWord_seal huse ((phAt_of_innk hinnk _).trans hp) (by rw [hph]) hslot] at heq
    refine ⟨_, congrArg Host.Outcome.next (if_pos (by simp [hn, hslot, hst])), hwr, ?_, fun m hm => ?_⟩
    · rw [heq, getPh_sealReport, getPh_sealReport, if_pos rfl, if_pos rfl, hph, sealed_value]
    · rw [heq, getPh_sealReport, if_neg hm, hph]
  · obtain ⟨u, heq, hinnk, huse, hwr⟩ := ownerWrite (v := v) hwidth (by omega) h
    have hph : ∀ m, getPh u m = getPh s m := getPh_of_phs (by rw [hinnk])
    rw [reportWord_cq huse ((phAt_of_innk hinnk _).trans hp) (by rw [hph])] at heq
    refine ⟨_, congrArg Host.Outcome.next (if_pos (by simp [hn, hst])), hwr, ?_, fun m hm => ?_⟩
    · rw [heq, getPh_cqReport, getPh_cqReport, if_pos rfl, if_pos rfl, hph, consumed_value]
    · rw [heq, getPh_cqReport, if_neg hm, hph]

end Sys2Proof.Machine
end

section
/-! PROOFS. Completion records (R329, R330, R336, R404; O34): what leaves the command table and the pigeonhole, a message that one packet carries, over
RoCEv2 and over Relay, and the record as it goes into a ring, to a guest, or into the lost log. -/

namespace Sys2Proof.Machine

-- what stays inside the network engine

theorem OnlyNet.trans {s t u : State} (h : OnlyNet s t) (k : OnlyNet t u) : OnlyNet s u := by
  unfold OnlyNet at h k ⊢
  calc { u with net := s.net }
      = { ({ u with net := t.net } : State) with net := s.net } := rfl
    _ = { t with net := s.net } := by rw [k]
    _ = s := h

theorem onlyNet_modNet (f : Net → Net) (s : State) : OnlyNet s (modNet f s) := rfl
theorem onlyNet_modGuest (g : Nat) (f : Guest → Guest) (s : State) : OnlyNet s (modGuest g f s) := rfl
theorem onlyNet_modConn (id : Nat) (f : Conn → Conn) (s : State) : OnlyNet s (modConn id f s) := rfl
theorem onlyNet_notePath (o : TxOwner) (port last : Nat) (s : State) : OnlyNet s (notePath o port last s) := rfl
theorem onlyNet_queueFrame (n : Nat) (f : TxFrame) (s : State) : OnlyNet s (queueFrame n f s) := rfl

section
variable {s t : State} (h : OnlyNet s t)
include h

theorem OnlyNet.innk : t.innk = s.innk := (congrArg State.innk h :)
theorem OnlyNet.mem : t.mem = s.mem := (congrArg State.mem h :)
theorem OnlyNet.ldg : t.ldg = s.ldg := (congrArg State.ldg h :)

theorem OnlyNet.getPh (n : Nat) : Machine.getPh t n = Machine.getPh s n := getPh_of_phs (by rw [h.innk]) n
theorem OnlyNet.getCmd (k : Nat) : Machine.getCmd t k = Machine.getCmd s k := getCmd_of_cmds (by rw [h.innk]) k

end

theorem getGuest_modGuest (g m : Nat) (f : Guest → Guest) (s : State) : getGuest (modGuest g f s) m = if m = g then f (getGuest s g) else getGuest s m :=
  tabGet_tabSet ({} : Guest) s.net.guests g (f (getGuest s g)) m

theorem getGuest_modGuest_self (g : Nat) (f : Guest → Guest) (s : State) : getGuest (modGuest g f s) g = f (getGuest s g) := by
  rw [getGuest_modGuest, if_pos rfl]

theorem qp_modGuest {g : Nat} {f : Guest → Guest} (hf : ∀ x, (f x).qp = x.qp) (k : Nat) (s : State) : (getGuest (modGuest g f s) k).qp = (getGuest s k).qp := by
  rw [getGuest_modGuest]
  split
  · next h => rw [hf, h]
  · rfl

theorem getConn_modConn (id n : Nat) (f : Conn → Conn) (s : State) : getConn (modConn id f s) n = if n = id then (getConn s id).map f else getConn s n :=
  getConn_setConn ..

/-- Two states have the same ports in service. -/
def SamePorts (s t : State) : Prop := ∀ n, portUp t n = portUp s n

theorem samePorts_queueFrame (n : Nat) (f : TxFrame) (s : State) : SamePorts s (queueFrame n f s) := by
  intro m
  have hup : (getPort (queueFrame n f s) m).up = (getPort s m).up := by
    unfold queueFrame
    rw [getPort_modPort]
    split
    · next h => rw [h]
    · rfl
  unfold portUp
  rw [hup]
  rfl

-- a message that one packet carries (R390, R395)

/-- A write of bytes that the message itself holds, of which nothing has been sent, and which is not a leg's. -/
structure Carried (r : TxReq) (bs : List Byte) : Prop where
  type : r.type = 1
  whole : r.sent = 0 ∧ r.len = bs.length
  src : r.src = .bytes bs
  owner : ∀ k j e, r.owner ≠ .send k j e
  plain : r.via = none ∧ r.ord = 0 ∧ r.imm = none

/-- The packet of such a message, as it waits for its acknowledgement. -/
def carriedPacket (psn : Nat) (r : TxReq) (bs : List Byte) : Unacked := { psn := psn, owner := r.owner, type := 1, addr := r.addr, payload := bs }

theorem nextMsg_single {r : TxReq} (h : r.sent = 0) : nextMsg [r] = some (r, []) := by
  unfold nextMsg
  by_cases hc : r.owner.cls = 2
  · simp [h, hc]
  · simp [h, hc]

section
variable {r : TxReq} {bs : List Byte} (h : Carried r bs)
include h

theorem Carried.notGone (s : State) : sourceGone r s = false := by
  unfold sourceGone
  rw [h.src]

theorem Carried.payload (s : State) : nextPayload r bs.length s = (some (bs, none), s) := by
  obtain ⟨hsent, -⟩ := h.whole
  unfold nextPayload
  rw [h.src, hsent]
  simp

theorem Carried.countTx (n : Nat) (s : State) : Machine.countTx r.owner n s = s := by
  unfold Machine.countTx
  split
  · next k j e ho => exact absurd ho (h.owner k j e)
  · rfl

end

-- over RoCEv2 (R390 to R393)

section
variable {g : Nat} {q : Qp} {e : Endpoint} {s : State} {r : TxReq} {bs : List Byte}

/-- What a queue pair leaves that has sent its one message in one packet. -/
structure QpSent (g : Nat) (q : Qp) (u : Unacked) (s t : State) : Prop where
  only : OnlyNet s t
  ports : SamePorts s t
  guest : getGuest t g = { getGuest s g with qp := some { q with queue := [], txPsn := (q.txPsn + 1) % 2 ^ 24, unacked := q.unacked ++ [u] } }

theorem getGuest_sendRoce (cls : Nat) (op : RoceOp) (psn va : Nat) (rkey : BitVec 32) (k : Nat) :
    getGuest (sendRoce g cls e op psn va rkey bs s) k = getGuest s k := rfl

theorem getGuest_notePath (o : TxOwner) (port last k : Nat) : getGuest (notePath o port last s) k = getGuest s k := rfl

theorem sendQpNow_carried (hq : (getGuest s g).qp = some q) (hqueue : q.queue = [r]) (he : (getGuest s g).endpoint = some e)
    (hport : portUp s e.port = true) (hr : Carried r bs) (hfit : bs.length ≤ e.pmtu) :
    QpSent g q (carriedPacket q.txPsn r bs) s (sendQpNow g s) := by
  obtain ⟨hsent, hlen⟩ := hr.whole
  have hmin : min e.pmtu (r.len - r.sent) = bs.length := by omega
  have hlast : decide (r.len ≤ r.sent + bs.length) = true := by rw [decide_eq_true_eq]; omega
  unfold sendQpNow
  simp only [hq, he, hqueue, nextMsg_single hsent, hport, hr.type, hr.notGone, hmin, hr.payload, hlast, hr.countTx, Bool.not_true, Bool.false_eq_true,
    if_false, if_true, Nat.reduceEqDiff]
  refine ⟨((onlyNet_modGuest ..).trans (onlyNet_notePath ..)).trans (onlyNet_queueFrame ..), fun n => (samePorts_queueFrame _ _ _ n).trans rfl, ?_⟩
  rw [getGuest_sendRoce, getGuest_notePath, getGuest_modGuest_self, hq, Option.map_some, hsent]
  rfl

theorem packetsOf_single {unit : Nat} (hlen : r.len - r.sent = bs.length) (hpos : 0 < bs.length) (hfit : bs.length ≤ unit) : packetsOf [r] unit = 1 := by
  have hdiv : (bs.length + unit - 1) / unit = 1 := Nat.div_eq_of_lt_le (by omega) (by omega)
  simp [packetsOf, ceilDiv, hlen, hdiv]

/-- A message that joins the empty queue of a queue pair leaves in one packet. -/
theorem pumpGuest_qp (hc : (getGuest s g).conn = none) (hq : (getGuest s g).qp = some q) (hqueue : q.queue = []) (he : (getGuest s g).endpoint = some e)
    (hport : portUp s e.port = true) (hr : Carried r bs) (hpos : 0 < bs.length) (hfit : bs.length ≤ e.pmtu) :
    QpSent g q (carriedPacket q.txPsn r bs) s (pumpGuest g (queueGuest g r s)) := by
  obtain ⟨hsent, hlen⟩ := hr.whole
  have hqueued : queueGuest g r s = modGuest g (fun x => { x with qp := x.qp.map (fun q => { q with queue := q.queue ++ [r] }) }) s := by
    unfold queueGuest
    simp only [hc]
  have hguest : getGuest (queueGuest g r s) g = { getGuest s g with qp := some { q with queue := [r] } } := by
    rw [hqueued, getGuest_modGuest_self, hq, Option.map_some, hqueue]
    rfl
  have hpump : pumpGuest g (queueGuest g r s) = sendQpNow g (queueGuest g r s) := by
    unfold pumpGuest pumpQp
    rw [hguest]
    simp only [hc, he]
    rw [packetsOf_single (by omega) hpos hfit]
    rfl
  have hnet : OnlyNet s (queueGuest g r s) := by rw [hqueued]; rfl
  have hp : portUp (queueGuest g r s) e.port = true := by rw [hqueued]; exact hport
  obtain ⟨honly, hports, hg⟩ := sendQpNow_carried (s := queueGuest g r s) (by rw [hguest]) rfl (by rw [hguest]; exact he) hp hr hfit
  rw [hpump]
  refine ⟨hnet.trans honly, fun n => (hports n).trans (by rw [hqueued]; rfl), ?_⟩
  rw [hg, hguest]

end

-- over Relay (R381, R384, R387)

section
variable {id port : Nat} {c : Conn} {s : State} {r : TxReq} {bs : List Byte}

/-- What a connection leaves that has sent its one message in one packet. -/
structure ConnSent (id : Nat) (c : Conn) (u : Unacked) (s t : State) : Prop where
  only : OnlyNet s t
  guests : ∀ g, getGuest t g = getGuest s g
  conn : ∃ n, getConn t id = some n ∧ n.queue = [] ∧ n.unacked = c.unacked ++ [u]

theorem sendDataNow_carried (hc : getConn s id = some c) (hqueue : c.queue = [r]) (hctrl : c.ctrlq = []) (hopen : c.opened = true)
    (hroom : c.unacked.length < c.window) (hport : pickPort s c.peer c.nextPort = some port) (hr : Carried r bs) (hfit : bs.length ≤ 4096) :
    ConnSent id c (carriedPacket c.txPsn r bs) s (sendDataNow id s) := by
  obtain ⟨hsent, hlen⟩ := hr.whole
  obtain ⟨hvia, hord, himm⟩ := hr.plain
  have hmin : min 4096 (r.len - r.sent) = bs.length := by omega
  have hlast : decide (r.len ≤ r.sent + bs.length) = true := by rw [decide_eq_true_eq]; omega
  have hreq : reqPort s c r = some port := by rw [reqPort, hvia]; exact hport
  have hfull : decide (c.window ≤ c.unacked.length) = false := by rw [decide_eq_false_iff_not]; omega
  unfold sendDataNow
  simp only [hc, hqueue, nextMsg_single hsent, hreq, hopen, hctrl, hfull, hr.type, hr.notGone, hmin, hr.payload, hlast, hr.countTx, Bool.not_true,
    List.isEmpty_nil, Bool.or_self, Bool.false_eq_true, if_false, if_true, Nat.reduceEqDiff]
  refine ⟨((onlyNet_modConn ..).trans (onlyNet_notePath ..)).trans (onlyNet_queueFrame ..), fun g => rfl, ?_⟩
  refine ⟨_, (getConn_modConn id id _ s).trans (by rw [if_pos rfl, hc, Option.map_some]), rfl, ?_⟩
  rw [hsent, hord, himm]
  rfl

/-- A connection with nothing to send sends nothing. -/
theorem sendDataNow_empty (hc : getConn s id = some c) (hqueue : c.queue = []) : sendDataNow id s = s := by
  unfold sendDataNow
  simp only [hc, hqueue, nextMsg]

/-- A message that joins the empty queue of a connection with room leaves in one packet. -/
theorem pumpGuest_conn {g : Nat} (hg : (getGuest s g).conn = some id) (hc : getConn s id = some c) (hqueue : c.queue = []) (hctrl : c.ctrlq = [])
    (hopen : c.opened = true) (hroom : c.unacked.length < c.window) (hport : pickPort s c.peer c.nextPort = some port) (hr : Carried r bs)
    (hfit : bs.length ≤ 4096) : ConnSent id c (carriedPacket c.txPsn r bs) s (pumpGuest g (queueGuest g r s)) := by
  rw [queueGuest_conn r hg]
  have hq : getConn (queueConn id r s) id = some { c with queue := [r] } := by rw [getConn_queueConn r hc, hqueue]; rfl
  have hgs : ∀ k, getGuest (queueConn id r s) k = getGuest s k := fun k => rfl
  obtain ⟨honly, hguests, n, hn, hnq, hnu⟩ := sendDataNow_carried (s := queueConn id r s) hq rfl hctrl hopen hroom hport hr hfit
  have hpump : pumpGuest g (queueConn id r s) = sendDataNow id (queueConn id r s) := by
    have hctl : pumpCtrl id (queueConn id r s) = queueConn id r s := by unfold pumpCtrl; simp only [hq, hctrl]; rfl
    obtain ⟨k, hk⟩ : ∃ k, c.window - c.unacked.length = k + 1 := ⟨c.window - c.unacked.length - 1, by omega⟩
    unfold pumpGuest pumpConn
    rw [hgs, hg]
    simp only [hctl, hq, hk]
    rw [List.range_succ_eq_map, forEach, List.foldl_cons]
    exact forEach_fixed (fun _ => sendDataNow_empty hn hnq) _
  rw [hpump]
  exact ⟨(onlyNet_modConn ..).trans honly, fun k => (hguests k).trans (hgs k), n, hn, hnq, hnu⟩

end

-- a command leaves the table (R322, R332, R333)

section
variable (id : Nat) (c : Cmd) (s : State)

/-- What a command leaves behind that leaves the table: its slot is free, and its pigeonhole counts it. -/
def uncharged (id : Nat) (c : Cmd) (s : State) : State :=
  modPh c.ph (fun p => { p with
    count := { p.count with completed := p.count.completed + 1#32 }
    energy := { p.energy with mj := p.energy.mj + c.energy }
    err := if c.status = stDenied then { p.err with denied := satInc p.err.denied } else p.err })
    (modInnk (fun i => { i with stage := { i.stage with completed := satInc i.stage.completed } }) (setCmd id none s))

/-- Of the rest, a guest's energy and the ledger's counters of commands change. -/
def charged (c : Cmd) (s : State) : State :=
  modLdg (fun l => { l with cmds := l.cmds + 1, cmdsEmpty := l.cmdsEmpty + (if c.empty then 1 else 0) })
    (if 64 ≤ c.ph then modGuest (c.ph - 64) (fun g => { g with energy := g.energy + c.energy }) s else s)

theorem retireCmd_eq : retireCmd id c s = charged c (uncharged id c s) := rfl

theorem charged_rest : { charged c s with ldg := s.ldg, net := s.net } = s := by
  unfold charged
  by_cases h : 64 ≤ c.ph
  · rw [if_pos h]; rfl
  · rw [if_neg h]; rfl

theorem getConn_charged (k : Nat) : getConn (charged c s) k = getConn s k := by
  unfold charged
  by_cases h : 64 ≤ c.ph
  · rw [if_pos h]; rfl
  · rw [if_neg h]; rfl

theorem qp_charged (g : Nat) : (getGuest (charged c s) g).qp = (getGuest s g).qp := by
  unfold charged
  by_cases h : 64 ≤ c.ph
  · rw [if_pos h]
    exact qp_modGuest (f := fun x => { x with energy := x.energy + c.energy }) (fun _ => rfl) g s
  · rw [if_neg h]; rfl

theorem innk_charged : (charged c s).innk = s.innk := (congrArg State.innk (charged_rest c s) :)

theorem getCmd_retireCmd (k : Nat) : getCmd (retireCmd id c s) k = if k = id then none else getCmd s k :=
  (getCmd_of_cmds (congrArg Innkeeper.cmds (innk_charged c (uncharged id c s))) k).trans (getCmd_setCmd id k none s)

theorem retireCmd_cmds : (retireCmd id c s).ldg.cmds = s.ldg.cmds + 1 := by
  rw [retireCmd_eq, charged]
  by_cases h : 64 ≤ c.ph
  · rw [if_pos h]; rfl
  · rw [if_neg h]; rfl

theorem getConn_retireCmd (k : Nat) : getConn (retireCmd id c s) k = getConn s k := getConn_charged c (uncharged id c s) k

theorem qp_retireCmd (g : Nat) : (getGuest (retireCmd id c s) g).qp = (getGuest s g).qp := qp_charged c (uncharged id c s) g

theorem retireCmd_rest : { retireCmd id c s with innk := s.innk, ldg := s.ldg, net := s.net } = s :=
  (congrArg (fun u : State => { u with innk := s.innk }) (charged_rest c (uncharged id c s)) :)

theorem retireCmd_records : (retireCmd id c s).ldg.records = s.ldg.records := by
  rw [retireCmd_eq, charged]
  by_cases h : 64 ≤ c.ph
  · rw [if_pos h]; rfl
  · rw [if_neg h]; rfl

theorem mem_retireCmd : (retireCmd id c s).mem = s.mem := (congrArg State.mem (retireCmd_rest id c s) :)

/-- A command that leaves is counted in its pigeonhole, whose pointers, state and lost log stand. -/
theorem getPh_retireCmd (m : Nat) : ∃ k e r, getPh (retireCmd id c s) m = { getPh s m with count := k, energy := e, err := r } := by
  have h : getPh (retireCmd id c s) m = getPh (uncharged id c s) m := getPh_of_phs (congrArg Innkeeper.phs (innk_charged c (uncharged id c s))) m
  rw [h, uncharged, getPh_modPh]
  split
  · next hm => rw [hm]; exact ⟨_, _, _, rfl⟩
  · exact ⟨_, _, _, rfl⟩

end

-- the record of a command (R329, R330)

theorem Cmd.outcome_same (c : Cmd) : c.outcome.ph = c.ph ∧ c.outcome.phase = c.phase ∧ c.outcome.doneAt = c.doneAt ∧ c.outcome.cqWaited = c.cqWaited := by
  unfold Cmd.outcome
  split <;> exact ⟨rfl, rfl, rfl, rfl⟩

theorem isNextRecord_outcome (s : State) (c : Cmd) : isNextRecord s c.outcome = isNextRecord s c := by
  obtain ⟨hph, -, hat, -⟩ := c.outcome_same
  unfold isNextRecord
  rw [hph, hat]

section
variable {s : State} {id : Nat} {c : Cmd} (hc : getCmd s id = some c) (hdone : c.phase = .done) (hw : innkWrites s c.ph = true)
include hc hdone hw

/-- The equation of a record that goes into the lost log. -/
theorem doCompletion_lost (hl : (getPh s c.ph).st = .lost) (hn : isNextRecord s c = true) (hm : cmdMoves s c.outcome = false) :
    doCompletion id s = retireCmd id c.outcome
      (modPh c.ph (fun q => { q with lostLog := (q.lostLog ++ [recordOf s (getPh s c.ph) c.outcome]).take 256 }) s) := by
  obtain ⟨hph, hphase, -, -⟩ := c.outcome_same
  unfold doCompletion
  simp only [hc, Option.map_some, hph, hphase, hdone, hw, hl, isNextRecord_outcome, hn, withOwnEnergy, hm, bne_self_eq_false, Bool.not_true,
    Bool.or_self, Bool.false_eq_true, if_false, if_true, beq_self_eq_true]

/-- The equation of a record that waits for room in the ring. -/
theorem doCompletion_waits (hl : (getPh s c.ph).st ≠ .lost) (hroom : ringRoom (getPh s c.ph) = false) (hq : c.cqWaited = false) :
    doCompletion id s = modCmd id (fun d => { d with cqWaited := true })
      (modInnk (fun i => { i with stall := { i.stall with cqWaits := satInc i.stall.cqWaits } }) s) := by
  obtain ⟨hph, hphase, -, hwait⟩ := c.outcome_same
  unfold doCompletion
  simp only [hc, Option.map_some, hph, hphase, hdone, hw, hroom, hwait, hq, bne_self_eq_false, Bool.not_true, Bool.not_false,
    Bool.or_self, Bool.false_eq_true, if_false, if_true, beq_eq_false_iff_ne.mpr hl]

/-- The equation of a record that goes into a ring, at once. -/
theorem doCompletion_ring {t : State} (hl : (getPh s c.ph).st ≠ .lost) (hroom : ringRoom (getPh s c.ph) = true) (hn : isNextRecord s c = true)
    (hm : cmdMoves s c.outcome = false) (ht : writeRing c.ph (recordOf s (getPh s c.ph) c.outcome) s = (true, t)) :
    doCompletion id s = if 64 ≤ c.ph then settleDrain (c.ph - 64) (retireCmd id c.outcome t) else retireCmd id c.outcome t := by
  obtain ⟨hph, hphase, -, -⟩ := c.outcome_same
  unfold doCompletion
  simp only [hc, Option.map_some, hph, hphase, hdone, hw, hroom, isNextRecord_outcome, hn, withOwnEnergy, hm, bne_self_eq_false, Bool.not_true,
    Bool.or_self, Bool.false_eq_true, if_false, beq_eq_false_iff_ne.mpr hl, ht]

end

/-- A pigeonhole that does not drain has no drain to settle. -/
theorem settleDrain_open {g : Nat} {s : State} (h : (getPh s (64 + g)).st = .open_) : settleDrain g s = s := by
  unfold settleDrain
  simp [h]

/-- The tail of a ring steps (R330). -/
def stepTail (n : Nat) (s : State) : State := modPh n (fun q => { q with cqTail := q.cqTail + 1#16 }) s

theorem getPh_stepTail (n m : Nat) (s : State) :
    getPh (stepTail n s) m = if m = n then { getPh s n with cqTail := (getPh s n).cqTail + 1#16 } else getPh s m := getPh_modPh ..

-- a runtime ring (R330)

theorem length_bytesOfWords (ws : List Word) : (bytesOfWords ws).length = 8 * ws.length := by
  induction ws with
  | nil => rfl
  | cons w ws ih =>
    have hcons : bytesOfWords (w :: ws) = wordBytes 8 w ++ bytesOfWords ws := rfl
    rw [hcons, List.length_append, ih, List.length_cons]
    simp [wordBytes]
    omega

theorem CplRec.length_bytes (r : CplRec) : r.bytes.length = 32 := by
  rw [CplRec.bytes, length_bytesOfWords]
  rfl

theorem CplRec.bytes_split (r : CplRec) : r.bytes = bytesOfWords r.words ++ wordBytes 8 r.sealWord := by
  simp [CplRec.bytes, bytesOfWords]

theorem CplRec.length_words (r : CplRec) : (bytesOfWords r.words).length = 24 := by
  rw [length_bytesOfWords]
  rfl

/-- The homes report nothing of a word in a runtime ring. -/
theorem reportWord_ring {n w : Nat} {s : State} (hn : n < 64) (ha : (getPh s n).area = runtimeAreaBase + n * 0x8000)
    (hlo : (getPh s n).area + 0x6000 ≤ w) (hhi : w < (getPh s n).area + 0x8000) (wide : Bool) (v : Word) : reportWord w wide v s = s := by
  have hp : phAt s w = some n := by
    unfold phAt
    rw [if_pos (by unfold runtimeAreaLen; omega)]
    congr 1
    omega
  unfold reportWord
  split
  · rfl
  · next m hm =>
    rw [hp] at hm
    obtain ⟨rg, -, hm⟩ := Option.bind_eq_some_iff.mp hm
    obtain rfl := Option.some.inj hm
    dsimp only
    rw [if_neg (by omega), if_neg (by omega)]

/-- A record of 32 bytes written into an entry of a runtime ring: the bytes are in the entry, and no pigeonhole hears of it. -/
theorem writeRing_runtime {n : Nat} {s : State} {rg : Region} {x : Line} (r : CplRec) (hn : n < 64) (ha : (getPh s n).area = runtimeAreaBase + n * 0x8000)
    (hcq : (getPh s n).cq = (getPh s n).area + 0x6000)
    (h : WriteReady .innkeeper ((getPh s n).cq + 32 * ((getPh s n).cqTail.toNat % 256)) rg x s) :
    ∃ t, writeRing n r s = (true, stepTail n t) ∧ { t with homes := s.homes, ctls := s.ctls, sb := s.sb, freeCtr := s.freeCtr } = s ∧
      WordWritten ((getPh s n).cq + 32 * ((getPh s n).cqTail.toNat % 256)) rg r.bytes s t := by
  generalize hA : (getPh s n).cq + 32 * ((getPh s n).cqTail.toNat % 256) = a at h
  have hal : a % 32 = 0 := by
    have : runtimeAreaBase % 32 = 0 := rfl
    omega
  have hu : usable s a = some rg := by
    obtain ⟨hu, -⟩ := h.homes
    rwa [show a / 32 * 32 = a by omega] at hu
  obtain ⟨t, ht, hrest, hwr⟩ := homeWriteBytes_ready h (bs := r.bytes) (by rw [r.length_bytes]; decide) (by rw [r.length_bytes]; omega)
  refine ⟨t, ?_, hrest, hwr⟩
  have hph : getPh t n = getPh s n := getPh_of_phs (congrArg Innkeeper.phs (congrArg State.innk hrest :)) n
  have hreport : reportWrite a r.bytes [] t = t := by
    refine forEach_fixed_of_mem _ fun i hi => ?_
    dsimp only
    have hi := List.mem_range.mp hi
    rw [r.length_bytes] at hi
    split
    · rfl
    · refine reportWord_ring hn (by rw [hph, ha]) ?_ ?_ _ _ <;> rw [hph]
      · omega
      · have := Nat.mod_lt (getPh s n).cqTail.toNat (by decide : 0 < 256)
        omega
  rw [hreport] at ht
  unfold writeRing
  dsimp only
  rw [if_pos hn, hA, hu]
  dsimp only
  rw [← CplRec.bytes, ht]
  rfl

/-- A command that leaves when its record is written leaves the record as it is written. -/
theorem WordWritten.retired {a n : Nat} {rg : Region} {bs : List Byte} {s t : State} (h : WordWritten a rg bs s t) (id : Nat) (c : Cmd) :
    WordWritten a rg bs s (retireCmd id c (stepTail n t)) := by
  have hrest := retireCmd_rest id c (stepTail n t)
  obtain ⟨hy, hmem, hreg, hcl, hrec⟩ := h
  refine ⟨?_, (congrArg State.mem hrest :).trans hmem, (congrArg State.regions hrest :).trans hreg, (congrArg State.clusters hrest :).trans hcl,
    (retireCmd_records ..).trans hrec⟩
  rw [show getHome (retireCmd id c (stepTail n t)) = getHome t from (congrArg getHome hrest :)]
  exact hy

-- a guest's ring (R404)

/-- The flow of a completion record (R400). -/
def recordFlow (o : TxOwner) (g : Nat) (s : State) : State :=
  modNet (fun e => { e with flows := e.flows ++ [{ owner := o, total := 24, flush := false, guest := some g }] }) s

/-- The write of a record's first three words. -/
def recordReq (n : Nat) (r : CplRec) (e a : Nat) : TxReq := { owner := .record n r e, addr := a, len := 24, src := .bytes (bytesOfWords r.words) }

theorem carried_recordReq (n : Nat) (r : CplRec) (e a : Nat) : Carried (recordReq n r e a) (bytesOfWords r.words) :=
  ⟨rfl, ⟨rfl, r.length_words.symm⟩, rfl, fun _ _ _ h => (by cases h), ⟨rfl, rfl, rfl⟩⟩

theorem carried_sealReq (n e cq : Nat) (r : CplRec) : Carried (sealReq n e cq r) (wordBytes 8 r.sealWord) :=
  ⟨rfl, ⟨rfl, by simp [sealReq, wordBytes]⟩, rfl, fun _ _ _ h => (by cases h), ⟨rfl, rfl, rfl⟩⟩

/-- The record of a guest's command has been given to its transport. -/
def recordSent (n : Nat) (r : CplRec) (s : State) : State :=
  let e := (getPh s n).cqTail.toNat % 256
  pumpGuest (n - 64) (queueGuest (n - 64) (recordReq n r e ((getPh s n).cq + 32 * e)) (recordFlow (.record n r e) (n - 64) (stepTail n s)))

/-- The equation of a record into a guest's ring, by transport (R404). -/
theorem writeRing_guest {n : Nat} (r : CplRec) {s : State} (hn : 64 ≤ n) : writeRing n r s = (true, match (getGuest (recordSent n r s) (n - 64)).transport with
    | some .roce => pumpGuest (n - 64) (queueGuest (n - 64) (sealReq n ((getPh s n).cqTail.toNat % 256) (getPh s n).cq r) (recordSent n r s))
    | _ => recordSent n r s) := by
  unfold writeRing
  dsimp only
  rw [if_neg (by omega)]
  rfl

/-- A guest's ring under Relay: the record goes as one message, and its SEAL word waits for the acknowledgement. -/
theorem writeRing_relay {n k port : Nat} {s : State} {c : Conn} (r : CplRec) (hn : 64 ≤ n) (h : IdleRelay (n - 64) k c port s) :
    let e := (getPh s n).cqTail.toNat % 256
    ∃ t, writeRing n r s = (true, t) ∧ OnlyNet (stepTail n s) t ∧ (∃ c', getConn t k = some c' ∧ c'.queue = [] ∧
      c'.unacked = c.unacked ++ [carriedPacket c.txPsn (recordReq n r e ((getPh s n).cq + 32 * e)) (bytesOfWords r.words)]) := by
  intro e
  obtain ⟨⟨htr, hconn⟩, hc, hopen, ⟨hq, hctrl⟩, hwin, hport⟩ := h
  obtain ⟨honly, hguests, hcn⟩ : ConnSent k c _ _ (recordSent n r s) :=
    pumpGuest_conn (s := recordFlow (.record n r e) (n - 64) (stepTail n s)) (g := n - 64) (id := k) hconn hc hq hctrl hopen hwin hport
      (carried_recordReq n r e ((getPh s n).cq + 32 * e)) (by rw [r.length_words]; decide)
  have htr' : (getGuest (recordSent n r s) (n - 64)).transport = some .relay := (congrArg Guest.transport (hguests (n - 64))).trans htr
  refine ⟨_, ?_, (onlyNet_modNet _ _).trans honly, hcn⟩
  rw [writeRing_guest r hn, htr']

/-- A guest's ring under RoCEv2: the record goes as one message, and its SEAL word as the next. -/
theorem writeRing_roce {n : Nat} {s : State} {q : Qp} {p : Endpoint} (r : CplRec) (hn : 64 ≤ n) (h : IdleRoce (n - 64) q p s) (hmtu : 24 ≤ p.pmtu) :
    let e := (getPh s n).cqTail.toNat % 256
    ∃ t, writeRing n r s = (true, t) ∧ OnlyNet (stepTail n s) t ∧ (∃ q', (getGuest t (n - 64)).qp = some q' ∧ q'.queue = [] ∧
      q'.unacked = q.unacked ++ [carriedPacket q.txPsn (recordReq n r e ((getPh s n).cq + 32 * e)) (bytesOfWords r.words),
        carriedPacket ((q.txPsn + 1) % 2 ^ 24) (sealReq n e (getPh s n).cq r) (wordBytes 8 r.sealWord)]) := by
  intro e
  obtain ⟨⟨htr, hconn⟩, ⟨hq, hqueue⟩, he, hport⟩ := h
  obtain ⟨honly, hports, hg⟩ : QpSent (n - 64) q _ _ (recordSent n r s) :=
    pumpGuest_qp (s := recordFlow (.record n r e) (n - 64) (stepTail n s)) hconn hq hqueue he hport
      (carried_recordReq n r e ((getPh s n).cq + 32 * e)) (by rw [r.length_words]; decide) (by rw [r.length_words]; exact hmtu)
  have htr' : (getGuest (recordSent n r s) (n - 64)).transport = some .roce := by rw [hg]; exact htr
  have hlen : (wordBytes 8 r.sealWord).length = 8 := by simp [wordBytes]
  obtain ⟨honly2, -, hg2⟩ := pumpGuest_qp (s := recordSent n r s) (g := n - 64) (e := p) (by rw [hg]; exact hconn) (by rw [hg]) rfl (by rw [hg]; exact he)
    ((hports p.port).trans hport) (carried_sealReq n e (getPh s n).cq r) (by rw [hlen]; decide) (by rw [hlen]; omega)
  refine ⟨_, ?_, ((onlyNet_modNet _ _).trans honly).trans honly2, _, by rw [hg2], rfl, List.append_assoc ..⟩
  rw [writeRing_guest r hn, htr']

-- the obligation's cases, each about a command that is done (R329)

section
variable {s : State} {id : Nat} {c : Cmd} (hc : getCmd s id = some c) (hdone : c.phase = .done) (hw : innkWrites s c.ph = true)
include hc hdone hw

/-- The record leaves into a runtime ring. -/
theorem record_runtime {rg : Region} {x : Line} (hn : c.ph < 64) (hl : (getPh s c.ph).st ≠ .lost) (hroom : ringRoom (getPh s c.ph) = true)
    (hnext : isNextRecord s c = true ∧ cmdMoves s c.outcome = false) (ha : (getPh s c.ph).area = runtimeAreaBase + c.ph * 0x8000)
    (hcq : (getPh s c.ph).cq = (getPh s c.ph).area + 0x6000)
    (h : WriteReady .innkeeper ((getPh s c.ph).cq + 32 * ((getPh s c.ph).cqTail.toNat % 256)) rg x s) :
    ∃ t, exec (.completionRecord id) s = .next t ∧ getCmd t id = none ∧ (∀ k, k ≠ id → getCmd t k = getCmd s k) ∧
      (getPh t c.ph).cqTail = (getPh s c.ph).cqTail + 1#16 ∧
      WordWritten ((getPh s c.ph).cq + 32 * ((getPh s c.ph).cqTail.toNat % 256)) rg (recordOf s (getPh s c.ph) c.outcome).bytes s t ∧
      t.ldg.cmds = s.ldg.cmds + 1 := by
  obtain ⟨hph, -⟩ := c.outcome_same
  obtain ⟨u, hwrite, hrest, hwr⟩ := writeRing_runtime (recordOf s (getPh s c.ph) c.outcome) hn ha hcq h
  have hinnk : u.innk = s.innk := (congrArg State.innk hrest :)
  have hldg : u.ldg = s.ldg := (congrArg State.ldg hrest :)
  refine ⟨retireCmd id c.outcome (stepTail c.ph u), ?_, ?_, ?_, ?_, ?_, ?_⟩
  · have h' := doCompletion_ring hc hdone hw hl hroom hnext.1 hnext.2 hwrite
    rw [if_neg (by omega)] at h'
    exact congrArg Host.Outcome.next h'
  · rw [getCmd_retireCmd, if_pos rfl]
  · intro k hk
    rw [getCmd_retireCmd, if_neg hk]
    exact getCmd_of_cmds (congrArg Innkeeper.cmds hinnk) k
  · obtain ⟨_, _, _, hp⟩ := getPh_retireCmd id c.outcome (stepTail c.ph u) c.ph
    rw [hp, getPh_stepTail, if_pos rfl, getPh_of_phs (congrArg Innkeeper.phs hinnk)]
  · exact hwr.retired id c.outcome
  · rw [retireCmd_cmds]
    exact congrArg (·.cmds + 1) hldg

/-- What a record into a guest's ring leaves, whatever its transport. -/
theorem record_guest {t : State} (hn : 64 ≤ c.ph) (ho : (getPh s c.ph).st = .open_) (hroom : ringRoom (getPh s c.ph) = true)
    (hnext : isNextRecord s c = true ∧ cmdMoves s c.outcome = false)
    (ht : writeRing c.ph (recordOf s (getPh s c.ph) c.outcome) s = (true, t)) (hnet : OnlyNet (stepTail c.ph s) t) :
    exec (.completionRecord id) s = .next (retireCmd id c.outcome t) ∧ getCmd (retireCmd id c.outcome t) id = none ∧
      (∀ k, k ≠ id → getCmd (retireCmd id c.outcome t) k = getCmd s k) ∧
      (getPh (retireCmd id c.outcome t) c.ph).cqTail = (getPh s c.ph).cqTail + 1#16 ∧ (retireCmd id c.outcome t).mem = s.mem ∧
      (retireCmd id c.outcome t).ldg.cmds = s.ldg.cmds + 1 := by
  obtain ⟨_, _, _, hp⟩ := getPh_retireCmd id c.outcome t c.ph
  have hph : getPh t c.ph = { getPh s c.ph with cqTail := (getPh s c.ph).cqTail + 1#16 } := by rw [hnet.getPh, getPh_stepTail, if_pos rfl]
  refine ⟨congrArg Host.Outcome.next ?_, ?_, ?_, ?_, ?_, ?_⟩
  · have h' := doCompletion_ring hc hdone hw (by rw [ho]; decide) hroom hnext.1 hnext.2 ht
    rw [if_pos hn, settleDrain_open (by rw [show 64 + (c.ph - 64) = c.ph by omega, hp, hph]; exact ho)] at h'
    exact h'
  · rw [getCmd_retireCmd, if_pos rfl]
  · intro k hk
    rw [getCmd_retireCmd, if_neg hk, hnet.getCmd]
    rfl
  · rw [hp, hph]
  · rw [mem_retireCmd, hnet.mem]
    rfl
  · rw [retireCmd_cmds, hnet.ldg]
    rfl

end

theorem ringRoom_iff (p : Pigeonhole) : ringRoom p = true ↔ (p.cqTail - p.cqHead).toNat < 256 := decide_eq_true_iff

theorem CplRec.take_bytes (r : CplRec) : r.bytes.take 24 = bytesOfWords r.words := by
  rw [r.bytes_split]
  exact List.take_left' r.length_words

theorem CplRec.drop_bytes (r : CplRec) : r.bytes.drop 24 = wordBytes 8 r.sealWord := by
  rw [r.bytes_split]
  exact List.drop_left' r.length_words

/-- Settles O34, case by case of where the record goes. -/
theorem completionRecords : Obligations.CompletionRecords := by
  unfold Obligations.CompletionRecords
  intro s id c hc hdone hw p r a next
  refine ⟨?_, ?_, ?_, ?_, ?_, ?_⟩
  · intro rg x hn hl hroom hnext ha hcq h
    exact record_runtime hc hdone hw hn hl ((ringRoom_iff p).mpr hroom) hnext ha hcq h
  · intro q e hn ho hroom hnext h hmtu
    obtain ⟨t, ht, hnet, q', hq', hqueue, hun⟩ := writeRing_roce r hn h hmtu
    obtain ⟨h1, h2, h3, h4, h5, h6⟩ := record_guest hc hdone hw hn ho ((ringRoom_iff p).mpr hroom) hnext ht hnet
    refine ⟨_, h1, h2, h3, h4, h5, h6, q', (qp_retireCmd ..).trans hq', hqueue, ?_⟩
    rw [hun, r.take_bytes, r.drop_bytes]
    rfl
  · intro k n port hn ho hroom hnext h
    obtain ⟨t, ht, hnet, n', hn', hqueue, hun⟩ := writeRing_relay r hn h
    obtain ⟨h1, h2, h3, h4, h5, h6⟩ := record_guest hc hdone hw hn ho ((ringRoom_iff p).mpr hroom) hnext ht hnet
    refine ⟨_, h1, h2, h3, h4, h5, h6, n', (getConn_retireCmd ..).trans hn', hqueue, ?_⟩
    rw [hun, r.take_bytes]
    rfl
  · intro hl hroom hq
    have hfull : ringRoom p = false := by rw [ringRoom, decide_eq_false_iff_not]; omega
    exact ⟨_, congrArg Host.Outcome.next (doCompletion_waits hc hdone hw hl hfull hq),
      by
      rw [getCmd_modCmd, if_pos rfl]
      exact congrArg (Option.map fun d => { d with cqWaited := true }) hc, rfl, rfl⟩
  · intro hl hnext hn hroom
    refine ⟨_, congrArg Host.Outcome.next (doCompletion_lost hc hdone hw hl hnext.1 hnext.2), by rw [getCmd_retireCmd, if_pos rfl], ?_,
      mem_retireCmd ..⟩
    obtain ⟨_, _, _, hp⟩ := getPh_retireCmd id c.outcome
      (modPh c.ph (fun q => { q with lostLog := (q.lostLog ++ [recordOf s (getPh s c.ph) c.outcome]).take 256 }) s) c.ph
    rw [hp, getPh_modPh_self]
    exact List.take_of_length_le (by rw [List.length_append]; exact hroom)
  · intro w hlost
    have ho : c.outcome = { c with status := stGuestLost, result := if w then 1#64 else 0#64 } := by rw [Cmd.outcome, hlost]
    exact ⟨by rw [show r.status = c.outcome.status from rfl, ho], by rw [show r.result = c.outcome.result from rfl, ho]⟩

end Sys2Proof.Machine
end

section
/-! PROOFS. Porter commands and commands on guests (R335, R372; O40): the case that fails, a guest.close of a pigeonhole of which nothing is in
flight, in a state whose command table lists a key twice. -/

namespace Sys2Proof.Machine

/-- A guest.close of guest 0, dispatched. -/
def closeOfGuest0 : Cmd :=
  { ph := 0, slot := 0, opcode := 0x0502#16, cls := 1, flush := false, ordered := false, tag := 0#32, args := [0#64], phase := .working }

/-- A state with the pigeonhole of guest 0 open, a guest.close of it at work, and a command of it that is listed behind another under the same
key: a read of the table does not find it, the count of the commands in flight does. No run reaches the state, whose table is not in
canonical form; the statement is about every state. -/
def shadowedTable : State :=
  let s : State := { State.reset with mdl := { st := .running }, sec := { State.reset.sec with boot := 2#2 } }
  { s with innk := { s.innk with
      phs := [(64, some { st := .open_, urgentOk := false, epoch := 1#8, area := 0, cq := 0, maxInflight := 4 })]
      cmds := [(0, some closeOfGuest0), (1, some { closeOfGuest0 with phase := .queued }), (1, some { closeOfGuest0 with ph := 64, phase := .queued })] } }

theorem shadowedTable_closes : atWork shadowedTable 0 0x0502 = some closeOfGuest0 ∧ argsFit closeOfGuest0 [0x3FFF] = true ∧
    (getPh shadowedTable (64 + closeOfGuest0.num 0)).st = .open_ ∧ (getGuest shadowedTable (closeOfGuest0.num 0)).closeCmds = [] := by decide +kernel

/-- No command that the table reads is of the pigeonhole closed. -/
theorem shadowedTable_reads (k : Nat) (d : Cmd) (h : getCmd shadowedTable k = some d) : d.ph ≠ 64 + closeOfGuest0.num 0 := by
  have hph : d.ph = 0 := by
    change (if 0 = k then some closeOfGuest0 else if 1 = k then some { closeOfGuest0 with phase := .queued } else if 1 = k then _ else none) = some d at h
    rcases Nat.decEq 0 k with h0 | h0
    · rw [if_neg h0] at h
      rcases Nat.decEq 1 k with h1 | h1
      · rw [if_neg h1, if_neg h1] at h
        cases h
      · rw [if_pos h1] at h
        cases h
        rfl
    · rw [if_pos h0] at h
      cases h
      rfl
  rw [hph]
  omega

/-- The guest.close waits on in DRAINING. -/
theorem shadowedTable_waits : (getCmd (doGuestClose 0 shadowedTable) 0).map (·.phase) = some .waiting := by decide +kernel

/-- Refutes O40: in `shadowedTable` no command that the table reads is of the pigeonhole that a guest.close names, and the guest.close still
waits, since a command listed behind another under the same key counts as in flight. -/
theorem not_porterAndGuestCommands : ¬ Obligations.PorterAndGuestCommands := by
  unfold Obligations.PorterAndGuestCommands
  intro h
  obtain ⟨-, -, hclose, -⟩ := h 0 closeOfGuest0 shadowedTable
  obtain ⟨hwork, hfit, hopen, hnone⟩ := shadowedTable_closes
  obtain ⟨-, -, -, hidle⟩ := hclose hwork hfit
  obtain ⟨t, d, ht, hd, hdone, -⟩ := hidle (.inl hopen) shadowedTable_reads hnone
  obtain rfl : doGuestClose 0 shadowedTable = t := Host.Outcome.next.inj ht
  have hwait := shadowedTable_waits
  rw [hd, Option.map_some, hdone] at hwait
  exact absurd hwait (by decide)

end Sys2Proof.Machine
end

section
/-! PROOFS. The processor complex (R317, R443 to R445, R448, R454, R457 to R459, R461, R462; O52): the laws of a hart's state, the checks of an
access in their order, an access that its die's cache holds, the restart of the complex, and the frequency of a die. -/

namespace Sys2Proof.Machine

-- what stays inside the processor complex

/-- Nothing outside the processor complex has changed. -/
def OnlyPx (s t : State) : Prop := { t with px := s.px } = s

theorem OnlyPx.trans {s t u : State} (h : OnlyPx s t) (k : OnlyPx t u) : OnlyPx s u := by
  unfold OnlyPx at h k ⊢
  calc { u with px := s.px }
      = { ({ u with px := t.px } : State) with px := s.px } := rfl
    _ = { t with px := s.px } := by rw [k]
    _ = s := h

theorem onlyPx_refl (s : State) : OnlyPx s s := rfl
theorem onlyPx_modHart (h : Nat) (f : Hart → Hart) (s : State) : OnlyPx s (modHart h f s) := rfl
theorem onlyPx_breakRes (h a n : Nat) (s : State) : OnlyPx s (breakRes h a n s) := rfl
theorem onlyPx_setPxLine (d l : Nat) (v : Option PxLine) (s : State) : OnlyPx s (setPxLine d l v s) := setPxLine_rest d l v s

theorem onlyPx_pxStore (d a : Nat) (bs : List Byte) (s : State) : OnlyPx s (pxStore d a bs s) := by
  refine forEach_preserves (P := OnlyPx s) (fun w t ht => ?_) _ (onlyPx_refl s)
  dsimp only
  split
  · exact ht.trans (onlyPx_setPxLine ..)
  · exact ht

-- a hart's state after a change of it or of another

section
variable (h : Nat) (f : Hart → Hart) (s : State)

theorem getPx_modHart (d : Nat) : getPx (modHart h f s) d =
    if d = hartDie h then { getPx s (hartDie h) with harts := tabSet {} (getPx s (hartDie h)).harts h (f (getHart s h)) } else getPx s d :=
  getPx_modPx ..

theorem cache_modHart (d : Nat) : (getPx (modHart h f s) d).cache = (getPx s d).cache := by
  rw [getPx_modHart]
  split
  · next hd => rw [hd]
  · rfl

theorem live_modHart (d : Nat) : (getPx (modHart h f s) d).live = (getPx s d).live := by
  rw [getPx_modHart]
  split
  · next hd => rw [hd]
  · rfl

theorem getHart_modHart (k : Nat) : getHart (modHart h f s) k = if k = h then f (getHart s h) else getHart s k := by
  unfold getHart
  rw [getPx_modHart]
  by_cases hd : hartDie k = hartDie h
  · rw [if_pos hd, hd]
    exact tabGet_tabSet ({} : Hart) (getPx s (hartDie h)).harts h (f (getHart s h)) k
  · have hk : k ≠ h := fun hk => hd (congrArg hartDie hk)
    rw [if_neg hd, if_neg hk]

theorem getHart_modHart_self : getHart (modHart h f s) h = f (getHart s h) := by
  rw [getHart_modHart, if_pos rfl]

theorem getHart_hartOk (v : Option (BitVec 256)) : getHart (hartOk h v s) h = { getHart s h with lastValue := v, trap := none } :=
  getHart_modHart_self ..

theorem getHart_hartTrap (t : HartTrap) (tval : Nat) :
    getHart (hartTrap h t tval s) h = { getHart s h with trap := some t, mtval := BitVec.ofNat 64 tval, lastValue := none } :=
  getHart_modHart_self ..

end

theorem getHart_hartFault (a : HartAccess) (t : HartTrap) (cause : BitVec 4) (s : State) :
    getHart (hartFault a t cause s) a.hart = { getHart s a.hart with
      trap := some t, mtval := BitVec.ofNat 64 a.va, lastValue := none
      err := if (getHart s a.hart).err.valid = 1#1 then (getHart s a.hart).err else { addr := BitVec.ofNat 52 a.pa, cause := cause, valid := 1#1 } } := by
  unfold hartFault
  rw [getHart_modHart_self, getHart_hartTrap]

theorem onlyPx_hartFault (a : HartAccess) (t : HartTrap) (cause : BitVec 4) (s : State) : OnlyPx s (hartFault a t cause s) := rfl

/-- What an exception of R448 leaves in mxerr while it is not valid. -/
theorem err_hartFault (a : HartAccess) (t : HartTrap) (cause : BitVec 4) {s : State} (hv : (getHart s a.hart).err.valid = 0#1) :
    (getHart (hartFault a t cause s) a.hart).err = { addr := BitVec.ofNat 52 a.pa, cause := cause, valid := 1#1 } := by
  rw [getHart_hartFault, hv]
  rfl

theorem err_hartFault_held (a : HartAccess) (t : HartTrap) (cause : BitVec 4) {s : State} (hv : (getHart s a.hart).err.valid = 1#1) :
    (getHart (hartFault a t cause s) a.hart).err = (getHart s a.hart).err := by
  rw [getHart_hartFault, hv]
  rfl

-- an access of a hart that runs (R448)

section
variable {a : HartAccess} {s : State} (hr : hartRuns s a.hart = true)
include hr

theorem doHartAccess_csrRead {c m : Nat} (hk : a.kind = .csrRead c m) : doHartAccess a s = csrRead a.hart c m s := by
  unfold doHartAccess
  simp only [hr, hk, Bool.not_true, Bool.false_eq_true, if_false]

theorem doHartAccess_csrWrite {c m : Nat} {v : Word} (hk : a.kind = .csrWrite c m v) : doHartAccess a s = csrWrite a.hart c m v s := by
  unfold doHartAccess
  simp only [hr, hk, Bool.not_true, Bool.false_eq_true, if_false]

theorem doHartAccess_mem (h1 : ∀ c m, a.kind ≠ .csrRead c m) (h2 : ∀ c m v, a.kind ≠ .csrWrite c m v) : doHartAccess a s = memAccess a s := by
  unfold doHartAccess
  rw [if_neg (by rw [hr]; decide)]
  split
  · next c m hk => exact absurd hk (h1 c m)
  · next c m v hk => exact absurd hk (h2 c m v)
  · rfl

end

-- the checks of an access, in order (R445, R448)

/-- A range lies in a read-only region. -/
def PxRange.readOnly : PxRange → Bool
  | .memory rg => rg.ro
  | _ => false

section
variable {a : HartAccess} {s : State} (hsz : accSizeOk a = true)
include hsz

theorem memAccess_vacant (hv : (spanRanges s a).contains .vacant = true) : memAccess a s = hartFault a (accessFault a.kind) 3#4 s := by
  unfold memAccess
  simp only [hsz, hv, Bool.not_true, Bool.false_eq_true, if_false, if_true]

variable (hv : (spanRanges s a).contains .vacant = false) (hio : (spanRanges s a).any (fun r => !ioPermits a r) = false)
include hv hio

theorem memAccess_misaligned (hm : accMisaligned a = true) : memAccess a s = hartTrap a.hart .storeMisaligned a.va s := by
  unfold memAccess
  simp only [hsz, hv, hio, hm, Bool.not_true, Bool.false_eq_true, if_false, if_true]

variable (hm : accMisaligned a = false)
include hm

theorem memAccess_readOnly (hro : (kindWrites a.kind && (spanRanges s a).any PxRange.readOnly) = true) :
    memAccess a s = hartFault a (accessFault a.kind) 2#4 s := by
  unfold memAccess
  simp only [hsz, hv, hio, hm, Bool.not_true, Bool.false_eq_true, if_false]
  exact if_pos hro

/-- The equation of an access that passes every check. -/
theorem memAccess_passes (hro : (kindWrites a.kind && (spanRanges s a).any PxRange.readOnly) = false) :
    memAccess a s = match (spanRanges s a).head? with
      | some .pigeonholes => pigeonAccess a s
      | some .status => statusLoad a s
      | _ => if a.nonCacheable then homeAccess a s else cachedAccess a s := by
  unfold memAccess
  simp only [hsz, hv, hio, hm, Bool.not_true, Bool.false_eq_true, if_false]
  exact if_neg (Bool.eq_false_iff.mp hro)

end

-- the status window (R459)

theorem pxRange_status {s : State} {x : Nat} (hlo : ctlBase ≤ x) (hhi : x < ctlBase + 10 * ctlBlock) : pxRange s x = .status := if_pos ⟨hlo, hhi⟩

/-- An aligned 8-byte load of the status window returns the register's word. -/
theorem memAccess_status {a : HartAccess} {s : State} (hk : a.kind = .load) (hsz : a.size = 8) (hal : a.pa % 8 = 0) (hlo : ctlBase ≤ a.pa)
    (hhi : a.pa < ctlBase + 10 * ctlBlock) : memAccess a s = hartOk a.hart (asValue (readReg s a.pa).toNat) s := by
  have hend : a.pa + 8 - 1 < ctlBase + 10 * ctlBlock := by
    have : (ctlBase + 10 * ctlBlock) % 8 = 0 := rfl
    omega
  have hspan : spanRanges s a = [.status, .status] := by
    unfold spanRanges accSpan
    simp only [hk, hsz, pxRange_status hlo hhi, pxRange_status (show ctlBase ≤ a.pa + 8 - 1 by omega) hend]
  have hload : statusLoad a s = hartOk a.hart (asValue (readReg s a.pa).toNat) s := by
    unfold statusLoad
    simp only [hsz, if_true, Nat.div_mul_cancel (Nat.dvd_of_mod_eq_zero hal)]
  have hperm : ioPermits a .status = true := by simp only [ioPermits, hk, hsz, hal, beq_self_eq_true, Bool.or_true, Bool.and_self]
  have heq := memAccess_passes (a := a) (s := s) (by simp only [accSizeOk, hk, hsz]; rfl) (by rw [hspan]; rfl)
    (by rw [hspan]; simp only [List.any_cons, List.any_nil, hperm, Bool.not_true, Bool.or_self]) (by simp only [accMisaligned, hk]; rfl)
    (by rw [hk]; rfl)
  rw [hspan] at heq
  exact heq.trans hload

-- an access inside one word that the die's cache holds (R452, R454)

/-- A load, LR, a store, SC. -/
def scalarKind : HartKind → Bool
  | .load => true
  | .lr => true
  | .store _ => true
  | .sc _ => true
  | _ => false

theorem scalarKind_cases {k : HartKind} (h : scalarKind k = true) : k = .load ∨ k = .lr ∨ (∃ v, k = .store v) ∨ ∃ v, k = .sc v := by
  cases k <;> simp [scalarKind] at h ⊢

/-- A naturally aligned access of 4 or 8 bytes inside one word of cacheable main memory, whose line the die's cache holds. -/
structure CachedWord (a : HartAccess) (rg : Region) (x : PxLine) (s : State) : Prop where
  first : pxRange s a.pa = .memory rg
  last : pxRange s (a.pa + a.size - 1) = .memory rg
  cacheable : a.nonCacheable = false
  inside : a.pa % 32 + a.size ≤ 32
  size : a.size = 4 ∨ a.size = 8
  aligned : a.pa % a.size = 0
  line : (getPx s (hartDie a.hart)).line (a.pa / 128) = some x

/-- The sector of a cached access. -/
def PxLine.sectorOf (x : PxLine) (pa : Nat) : Sector := secAt x.sectors (pa / 32 % 4)

/-- The bytes that a cached access reads. -/
def PxLine.read (x : PxLine) (pa n : Nat) : Nat := bytesNat ((List.range n).map (fun i => byteOf (x.sectorOf pa).data ((pa + i) % 32)))

theorem accSpan_scalar {a : HartAccess} (hk : scalarKind a.kind = true) : accSpan a = (a.pa, a.size) := by
  unfold accSpan
  rcases scalarKind_cases hk with hk | hk | ⟨v, hk⟩ | ⟨v, hk⟩ <;> simp only [hk]

section
variable {a : HartAccess} {rg : Region} {x : PxLine} {s : State} (h : CachedWord a rg x s)
include h

theorem CachedWord.pos : 0 < a.size := by rcases h.size with hs | hs <;> omega

theorem CachedWord.spanLines : spanLines a.pa a.size = [a.pa / 128] := by
  rw [Machine.spanLines, rangeLines_inside h.pos h.inside]
  rfl

theorem CachedWord.sector {i : Nat} (hi : i < a.size) : pxSector s (hartDie a.hart) (a.pa + i) = x.sectorOf a.pa := by
  have hin := h.inside
  have hl : (a.pa + i) / 128 = a.pa / 128 := by omega
  have hk : (a.pa + i) / 32 % 4 = a.pa / 32 % 4 := by omega
  rw [pxSector, hl, h.line]
  exact congrArg (secAt x.sectors) hk

theorem CachedWord.bytes : pxBytes s (hartDie a.hart) a.pa a.size = x.read a.pa a.size := by
  refine congrArg bytesNat (List.map_congr_left fun i hi => ?_)
  rw [pxByte, h.sector (List.mem_range.mp hi)]

theorem CachedWord.poison : pxPoison s (hartDie a.hart) a.pa a.size = (x.sectorOf a.pa).poison := by
  have hin := h.inside
  have hpos := h.pos
  have hone : (a.pa + a.size + 31) / 32 - a.pa / 32 = 1 := by omega
  have hl : (a.pa / 32 + 0) * 32 / 128 = a.pa / 128 := by omega
  have hk : (a.pa / 32 + 0) * 32 / 32 % 4 = a.pa / 32 % 4 := by omega
  rw [pxPoison, hone]
  simp only [List.range_one, List.any_cons, List.any_nil, Bool.or_false, pxSector, hl, h.line, hk]
  rfl

theorem CachedWord.held {own : Bool} (ho : own = true → x.owned = true) : pxHold (hartDie a.hart) own [a.pa / 128] s = (true, s) := by
  have hb : (x.owned || !own) = true := by
    cases own
    · simp
    · simp [ho rfl]
  simp only [pxHold, h.line, hb, if_true]

theorem CachedWord.misaligned : accMisaligned a = false := by
  rw [accMisaligned, h.aligned]
  exact Bool.and_false _

variable (hk : scalarKind a.kind = true)
include hk

theorem CachedWord.ranges : spanRanges s a = [.memory rg, .memory rg] := by
  rw [spanRanges, accSpan_scalar hk]
  simp only [h.first, h.last]

theorem CachedWord.sizeOk : accSizeOk a = true := by
  unfold accSizeOk
  rcases scalarKind_cases hk with hk | hk | ⟨v, hk⟩ | ⟨v, hk⟩ <;> rcases h.size with hs | hs <;> simp [hk, hs]

/-- Such an access is made in the die's cache, unless it writes to a read-only region. -/
theorem CachedWord.memAccess (hro : kindWrites a.kind = true → rg.ro = false) : Machine.memAccess a s = cachedAccess a s := by
  have hw : (kindWrites a.kind && rg.ro) = false := by
    cases hkw : kindWrites a.kind
    · rfl
    · rw [hro hkw]; rfl
  rw [memAccess_passes (h.sizeOk hk) (by rw [h.ranges hk]; rfl) (by rw [h.ranges hk]; rfl) h.misaligned
    (by simpa [h.ranges hk, PxRange.readOnly] using hw), h.ranges hk]
  exact if_neg (by rw [h.cacheable]; decide)

/-- The equation of such an access: the cache holds the line. -/
theorem CachedWord.access (ho : kindWrites a.kind = true → x.owned = true) : cachedAccess a s =
    if kindReads a.kind && (x.sectorOf a.pa).poison then hartFault a (accessFault a.kind) 1#4 s
    else memEffect a (x.read a.pa a.size) (hartStores a s (fun bs t => pxStore (hartDie a.hart) a.pa bs t)) s := by
  have hheld := h.held ho
  have hpoison := h.poison
  have hbytes := h.bytes
  have hlines := h.spanLines
  unfold cachedAccess
  rw [accSpan_scalar hk]
  rcases scalarKind_cases hk with hk | hk | ⟨v, hk⟩ | ⟨v, hk⟩ <;> rw [hk] at hheld <;>
    simp only [hk, hlines, hheld, hpoison, hbytes, Bool.not_true, Bool.false_eq_true, if_false]

end

-- a store in the die's cache (R454)

/-- Bytes that all lie in one word make up one word. -/
theorem wordsOf_inside {w : Nat} {bs : List (Nat × Byte)} (hne : bs ≠ []) (hw : ∀ p ∈ bs, p.1 / 32 = w) : wordsOf bs = [w] := by
  have hfold : ∀ (bs : List (Nat × Byte)) (m : BitVec 4), (∀ p ∈ bs, p.1 / 32 = w) →
      ∃ m', bs.foldl (fun acc b => insertLine (b.1 / 32) 0#4 acc) [(w, m)] = [(w, m')] := by
    intro bs
    induction bs with
    | nil => exact fun m _ => ⟨m, rfl⟩
    | cons p bs ih =>
      intro m hw
      rw [List.foldl_cons, hw p List.mem_cons_self, insertLine, if_neg (Nat.lt_irrefl w), if_pos rfl]
      exact ih _ fun q hq => hw q (List.mem_cons_of_mem _ hq)
  cases bs with
  | nil => exact absurd rfl hne
  | cons p bs =>
    obtain ⟨m, hm⟩ := hfold bs 0#4 fun q hq => hw q (List.mem_cons_of_mem _ hq)
    rw [wordsOf, List.foldl_cons, hw p List.mem_cons_self, insertLine, hm]
    rfl

theorem secAt_map_range {f : Nat → Sector} {k : Nat} (hk : k < 4) : secAt ((List.range 4).map f) k = f k := by
  simp [secAt, hk]

theorem pxByte_of_cache {s t : State} {d : Nat} (h : (getPx t d).cache = (getPx s d).cache) (x : Nat) : pxByte t d x = pxByte s d x := by
  unfold pxByte pxSector PxDie.line
  rw [h]

/-- Bytes stored inside one word of a line that the die's cache holds stand in it. -/
theorem pxByte_pxStore {d a : Nat} {x : PxLine} {s : State} {bs : List Byte} (hx : (getPx s d).line (a / 128) = some x) (hfit : a % 32 + bs.length ≤ 32)
    {i : Nat} (hi : i < bs.length) : pxByte (pxStore d a bs s) d (a + i) = bs[i] := by
  have hw : ∀ p ∈ placedBytes a bs, p.1 / 32 = a / 32 := fun p hp => by
    obtain ⟨hlo, hhi⟩ := placedBytes_range hp
    omega
  have hmem := mem_placedBytes (a := a) hi
  obtain ⟨hbit, hbyte⟩ := word_of_bytes (placedBytes a bs) hw (placedBytes_nodup a bs) _ hmem
  have hl : a / 32 / 4 = (a + i) / 128 := by omega
  have hstore : pxStore d a bs s = setPxLine d ((a + i) / 128) (some { x with sectors := (List.range 4).map (fun k =>
      if k = a / 32 % 4 then Sector.store (secAt x.sectors k) (wordEnables (placedBytes a bs) (a / 32)) { data := wordData (placedBytes a bs) (a / 32) } true
      else secAt x.sectors k) }) s := by
    unfold pxStore
    dsimp only
    rw [← placedBytes, wordsOf_inside (List.ne_nil_of_mem hmem) hw, forEach_one, hl, show (a + i) / 128 = a / 128 by omega, hx]
  unfold pxByte pxSector
  rw [hstore, getPx_setPxLine_self]
  dsimp only
  rw [secAt_map_range (Nat.mod_lt _ (by decide)), if_pos (by omega), byteOf_store _ _ _ _ (Nat.mod_lt _ (by decide))]
  dsimp only at hbit hbyte
  rw [if_pos hbit, hbyte]

theorem getElem_natBytes {n i : Nat} (v : Word) (hi : i < (natBytes n v.toNat).length) : (natBytes n v.toNat)[i] = v.extractLsb' (8 * i) 8 := by
  have hin : i < n := by simpa [natBytes, wordBytes] using hi
  simp only [natBytes, wordBytes, List.getElem_map, List.getElem_range, byteOf]
  refine BitVec.eq_of_getLsbD_eq fun j hj => ?_
  rw [BitVec.getLsbD_extractLsb', BitVec.getLsbD_extractLsb', BitVec.getLsbD_ofNat, decide_eq_true (show 8 * i + j < 8 * n by omega), Bool.true_and]
  rfl

theorem length_natBytes (n x : Nat) : (natBytes n x).length = n := by simp [natBytes, wordBytes]

/-- The reservations that a store ends among the harts of one die. -/
def PxDie.breakRes (h a n : Nat) (p : PxDie) : PxDie :=
  { p with harts := p.harts.map (fun q => (q.1,
      if q.1 != h && (match q.2.reservation with | some r => overlaps a n r 64 | none => false) then { q.2 with reservation := none } else q.2)) }

theorem cache_breakRes (h a n d : Nat) (s : State) : (getPx (breakRes h a n s) d).cache = (getPx s d).cache :=
  tabGet_map_keeps (P := fun p : PxDie => p.cache = (getPx s d).cache) (f := PxDie.breakRes h a n) (d := {}) (fun _ hp => hp) s.px rfl

-- the effect of an access, by its kind

/-- A store takes effect, and ends the reservations of other harts on its bytes. -/
def putBytes (a : HartAccess) (v : Word) (st : List Byte → State → State) (s : State) : State :=
  breakRes a.hart a.pa a.size (st (natBytes a.size v.toNat) s)

section
variable {a : HartAccess} (rd : Nat) (st : List Byte → State → State) (s : State)

theorem memEffect_load (hk : a.kind = .load) : memEffect a rd st s = hartOk a.hart (asValue rd) s := by
  unfold memEffect
  simp only [hk]

theorem memEffect_lr (hk : a.kind = .lr) :
    memEffect a rd st s = modHart a.hart (fun x => { x with reservation := some (resSet a.pa) }) (hartOk a.hart (asValue rd) s) := by
  unfold memEffect
  simp only [hk]

theorem memEffect_store {v : Word} (hk : a.kind = .store v) : memEffect a rd st s = hartOk a.hart none (putBytes a v st s) := by
  unfold memEffect
  simp only [hk]
  rfl

theorem memEffect_sc {v : Word} (hk : a.kind = .sc v) (h : (getHart s a.hart).reservation = some (resSet a.pa)) :
    memEffect a rd st s = modHart a.hart (fun x => { x with reservation := none }) (hartOk a.hart (asValue 0) (putBytes a v st s)) := by
  unfold memEffect
  simp only [hk, h, if_true]
  rfl

theorem memEffect_sc_fails {v : Word} (hk : a.kind = .sc v) (h : (getHart s a.hart).reservation ≠ some (resSet a.pa)) :
    memEffect a rd st s = modHart a.hart (fun x => { x with reservation := none }) (hartOk a.hart (asValue 1) s) := by
  unfold memEffect
  simp only [hk, h, if_false]

end

-- what such an access does (R317, R444, R448, R454)

section
variable {a : HartAccess} {rg : Region} {x : PxLine} {s : State} (h : CachedWord a rg x s)
include h

/-- A load or LR of a sector without poison. -/
theorem CachedWord.read_effect (hp : (x.sectorOf a.pa).poison = false) (hk : scalarKind a.kind = true) (hw : kindWrites a.kind = false) :
    Machine.memAccess a s = memEffect a (x.read a.pa a.size) (hartStores a s (fun bs t => pxStore (hartDie a.hart) a.pa bs t)) s := by
  rw [h.memAccess hk (fun h' => absurd (hw.symm.trans h') (by decide)), h.access hk (fun h' => absurd (hw.symm.trans h') (by decide)),
    if_neg (by rw [hp, Bool.and_false]; decide)]

/-- A load of a poisoned sector. -/
theorem CachedWord.poisoned (hp : (x.sectorOf a.pa).poison = true) (hk : a.kind = .load) : Machine.memAccess a s = hartFault a .loadAccess 1#4 s := by
  have hs : scalarKind a.kind = true := by rw [hk]; rfl
  have hw : kindWrites a.kind = false := by rw [hk]; rfl
  rw [h.memAccess hs (fun h' => absurd (hw.symm.trans h') (by decide)), h.access hs (fun h' => absurd (hw.symm.trans h') (by decide)),
    if_pos (by rw [hp, hk]; rfl), hk]
  rfl

/-- A store to a read-only region. -/
theorem CachedWord.readOnly (hro : rg.ro = true) {v : Word} (hk : a.kind = .store v) : Machine.memAccess a s = hartFault a .storeAccess 2#4 s := by
  have hs : scalarKind a.kind = true := by rw [hk]; rfl
  rw [memAccess_readOnly (h.sizeOk hs) (by rw [h.ranges hs]; rfl) (by rw [h.ranges hs]; rfl) h.misaligned
    (by rw [h.ranges hs, hk]; change (rg.ro || (rg.ro || false)) = true; rw [hro]; rfl), hk]
  rfl

/-- A store or SC to a line held as owned, in a region that may be written. -/
theorem CachedWord.write_effect (hro : rg.ro = false) (ho : x.owned = true) (hk : scalarKind a.kind = true) (hr : kindReads a.kind = false) :
    Machine.memAccess a s = memEffect a (x.read a.pa a.size) (hartStores a s (fun bs t => pxStore (hartDie a.hart) a.pa bs t)) s := by
  rw [h.memAccess hk (fun _ => hro), h.access hk (fun _ => ho), if_neg (by rw [hr, Bool.false_and]; decide)]

/-- Bytes that are stored outside every command area stand in the die's cache; into one, nothing is stored (R317, log 86). -/
theorem CachedWord.stored (hk : scalarKind a.kind = true) (v : Word) :
    let t := putBytes a v (hartStores a s (fun bs t => pxStore (hartDie a.hart) a.pa bs t)) s
    OnlyPx s t ∧ (touchesArea s a.pa a.size = false → ∀ i < a.size, pxByte t (hartDie a.hart) (a.pa + i) = v.extractLsb' (8 * i) 8) ∧
      (touchesArea s a.pa a.size = true → (getPx t (hartDie a.hart)).cache = (getPx s (hartDie a.hart)).cache) := by
  intro t
  have hstores : hartStores a s (fun bs t => pxStore (hartDie a.hart) a.pa bs t) =
      if touchesArea s a.pa a.size then fun _ t => t else fun bs t => pxStore (hartDie a.hart) a.pa bs t := by
    unfold hartStores
    rw [accSpan_scalar hk]
  have hcache : (getPx t (hartDie a.hart)).cache =
      (getPx (hartStores a s (fun bs t => pxStore (hartDie a.hart) a.pa bs t) (natBytes a.size v.toNat) s) (hartDie a.hart)).cache := cache_breakRes ..
  rw [hstores] at hcache
  refine ⟨?_, fun harea i hi => ?_, fun harea => ?_⟩
  · refine OnlyPx.trans ?_ (onlyPx_breakRes ..)
    rw [hstores]
    split
    · exact onlyPx_refl s
    · exact onlyPx_pxStore ..
  · rw [harea] at hcache
    rw [pxByte_of_cache hcache, ← getElem_natBytes (n := a.size) v (by rwa [length_natBytes])]
    exact pxByte_pxStore h.line (by rw [length_natBytes]; exact h.inside) _
  · rw [harea] at hcache
    exact hcache

end

-- CSRs (R443, R461)

theorem csrRead_stage (h : Nat) (s : State) : csrRead h 0xCC0 3 s = hartOk h (asValue (s.stg.num % 2 ^ 64)) s := by
  have hword : (wordXstage { stage := BitVec.ofNat 64 s.stg.num }).toNat = s.stg.num % 2 ^ 64 := by simp [wordXstage, fieldAt]
  rw [← hword]
  rfl

theorem csrRead_mxctl {h m : Nat} (hm : m ≠ 3) (s : State) : csrRead h 0x7C0 m s = hartTrap h .illegal 0 s := if_neg hm

theorem csrWrite_mxerr (h : Nat) (v : Word) (s : State) : csrWrite h 0x7C2 3 v s =
    modHart h (fun x => { x with err := { x.err with valid := if v.getLsbD 63 then 0#1 else x.err.valid } }) (hartOk h none s) := rfl

-- the restart of the complex (R457, R458)

/-- What is true of the default and of every value after a change of all listed values is true of every value read. -/
theorem tabGet_map_all {α : Type} {P : α → Prop} {f : α → α} {d : α} (hf : ∀ x, P (f x)) (hd : P d) (t : Tab α) (n : Nat) :
    P (tabGet d (t.map fun p => (p.1, f p.2)) n) := by
  induction t with
  | nil => exact hd
  | cons p t ih =>
    rw [List.map_cons, tabGet]
    split
    · exact hf p.2
    · exact ih

theorem getHart_holdHarts (s : State) (k : Nat) : getHart (holdHarts s) k = {} := by
  have h : (getPx (holdHarts s) (hartDie k)).harts = [] :=
    tabGet_map_all (P := fun p : PxDie => p.harts = []) (f := fun p => { p with harts := [] }) (fun _ => rfl) rfl s.px (hartDie k)
  unfold getHart
  rw [h]
  rfl

/-- Harts released one after another. -/
theorem getHart_release (R : Nat → Hart) (xs : List Nat) (s : State) (k : Nat) :
    getHart (forEach xs (fun h t => modHart h (fun _ => R h) t) s) k = if k ∈ xs then R k else getHart s k := by
  induction xs generalizing s with
  | nil => rfl
  | cons h xs ih =>
    have hcons : forEach (h :: xs) (fun h t => modHart h (fun _ => R h) t) s =
        forEach xs (fun h t => modHart h (fun _ => R h) t) (modHart h (fun _ => R h) s) := rfl
    rw [hcons, ih, getHart_modHart]
    by_cases hk : k ∈ xs
    · rw [if_pos hk, if_pos (List.mem_cons_of_mem _ hk)]
    · rw [if_neg hk]
      by_cases hkh : k = h
      · rw [if_pos hkh, if_pos (hkh ▸ List.mem_cons_self), hkh]
      · rw [if_neg hkh, if_neg (by simp [hkh, hk])]

theorem live_releaseHarts (s : State) (d : Nat) : (getPx (releaseHarts s) d).live = (getPx s d).live :=
  forEach_keeps (fun t => (getPx t d).live) (fun h t => live_modHart h _ t d) _ s

/-- The harts of the dies in service start at the image base. -/
theorem getHart_releaseHarts {s : State} {k : Nat} (hk : k < 96) (hl : (getPx (releaseHarts s) (hartDie k)).live = true) :
    getHart (releaseHarts s) k = { released := true, entry := pxBase, a0 := k, a1 := pxBase + pxTreeOff } := by
  rw [live_releaseHarts] at hl
  exact (getHart_release (fun h => { released := true, entry := pxBase, a0 := h, a1 := pxBase + pxTreeOff }) _ s k).trans
    (if_pos (List.mem_filter.mpr ⟨List.mem_range.mpr hk, hl⟩))

theorem emptyPxCache_of_nil {d : Nat} {s : State} (h : (getPx s d).cache = []) : emptyPxCache d s = s := by
  unfold emptyPxCache
  rw [h]
  rfl

/-- The equation of a restart with nothing in the die caches. -/
theorem restartComplex_eq {s : State} (hup : innkUp s = true) (h0 : (getPx s 0).cache = []) (h1 : (getPx s 1).cache = []) :
    restartComplex s = match (getComp s 3).bankOf (getComp s 3).reg.bank.toNat with
      | some b => if bankPasses s 3 b then placeImage b (holdHarts s) else refuseFw (refusePx (holdHarts s))
      | none => refusePx (holdHarts s) := by
  unfold restartComplex
  rw [if_neg (by rw [hup]; decide), emptyPxCache_of_nil h0, emptyPxCache_of_nil h1]
  rfl

/-- An image that the first processor region holds is placed, and then the harts are released. -/
theorem placeImage_fits {s : State} {rg : Region} (hu : usable s pxBase = some rg) (hbase : rg.base = pxBase) (hlen : pxNeeds ≤ rg.len) (b : FwBank) :
    ∃ u, placeImage b s = syncEvents (releaseHarts u) := by
  unfold placeImage
  rw [hu]
  exact ⟨_, if_pos ⟨hbase, hlen⟩⟩

theorem getHart_refusePx (s : State) (k : Nat) : getHart (refusePx s) k = {} := getHart_holdHarts s k

section
variable {s : State} {h : Nat} (hr : hartRuns s h = true) (hup : innkUp s = true) (h0 : (getPx s 0).cache = []) (h1 : (getPx s 1).cache = [])
include hr hup h0 h1

/-- A restart without an image to start refuses the start, and every hart stays in reset. -/
theorem mxctlRestart_refused (hb : (getComp s 3).bankOf (getComp s 3).reg.bank.toNat = none) :
    exec (.mxctlRestart h) s = .next (refusePx (holdHarts s)) := by
  refine congrArg Host.Outcome.next ?_
  rw [doMxctlRestart, if_pos hr, restartComplex_eq hup h0 h1, hb]

/-- A restart with an image that passes releases the harts after the image and the devicetree are placed. -/
theorem mxctlRestart_starts {b : FwBank} {rg : Region} (hb : (getComp s 3).bankOf (getComp s 3).reg.bank.toNat = some b) (hpass : bankPasses s 3 b = true)
    (hu : usable s pxBase = some rg) (hbase : rg.base = pxBase) (hlen : pxNeeds ≤ rg.len) :
    ∃ u, exec (.mxctlRestart h) s = .next (syncEvents (releaseHarts u)) := by
  obtain ⟨u, hplace⟩ := placeImage_fits (s := holdHarts s) hu hbase hlen b
  refine ⟨u, congrArg Host.Outcome.next ?_⟩
  rw [doMxctlRestart, if_pos hr, restartComplex_eq hup h0 h1, hb, ← hplace]
  exact if_pos hpass

end

-- the frequency of a die (R461, R462)

theorem getPx_modPx_self (d : Nat) (f : PxDie → PxDie) (s : State) : getPx (modPx d f s) d = f (getPx s d) := by
  rw [getPx_modPx, if_pos rfl]

theorem getPx_modPx_ne {d e : Nat} (he : e ≠ d) (f : PxDie → PxDie) (s : State) : getPx (modPx d f s) e = getPx s e := by
  rw [getPx_modPx, if_neg he]

theorem toNat_frequency (v : Word) : (v.setWidth 6 : BitVec 6).toNat = v.toNat % 64 := BitVec.toNat_setWidth ..

section
variable {h : Nat} {v : Word} {s : State} (hr : hartRuns s h = true)
include hr

theorem mxfreqWrite_taken (hlo : 8 ≤ v.toNat % 64) (hhi : v.toNat % 64 ≤ 32) :
    exec (.mxfreqWrite h v) s = .next (modPx (h / 48) (fun p => { p with freq := { p.freq with freq := v.setWidth 6 } }) s) := by
  refine congrArg Host.Outcome.next ?_
  rw [doMxfreqWrite, if_pos hr, putFreq]
  exact if_pos (by rw [toNat_frequency]; exact ⟨hlo, hhi⟩)

theorem mxfreqWrite_refused (hv : v.toNat % 64 < 8 ∨ 32 < v.toNat % 64) : exec (.mxfreqWrite h v) s = .next s := by
  refine congrArg Host.Outcome.next ?_
  rw [doMxfreqWrite, if_pos hr, putFreq]
  exact if_neg (by rw [toNat_frequency]; omega)

end

theorem freqChangeDone_eq {d : Nat} {s : State} (hd : d < 2) (hl : (getPx s d).live = true) (hm : s.mdl.st = .running) :
    exec (.freqChangeDone d) s = .next (modPx d (fun p => { p with freq := { p.freq with freqNow := p.freq.freq } }) s) :=
  congrArg Host.Outcome.next (if_pos ⟨hd, hl, hm⟩)

-- the obligation, by parts

/-- An access inside one word that the die's cache holds does what O52 says of it. -/
theorem hartAccess_cached {a : HartAccess} {s : State} {rg : Region} {x : PxLine} (hr : hartRuns s a.hart = true) (h : CachedWord a rg x s) :
    ((x.sectorOf a.pa).poison = false → (a.kind = .load ∨ a.kind = .lr) →
      ∃ t, exec (.hartAccess a) s = .next t ∧ (getHart t a.hart).trap = none ∧ { t with px := s.px } = s ∧
        (getHart t a.hart).lastValue = asValue (x.read a.pa a.size) ∧
        (a.kind = .lr → (getHart t a.hart).reservation = some (a.pa / 64 * 64))) ∧
    ((x.sectorOf a.pa).poison = true → a.kind = .load →
      ∃ t, exec (.hartAccess a) s = .next t ∧ (getHart t a.hart).trap = some .loadAccess ∧
        ((getHart s a.hart).err.valid = 0#1 → (getHart t a.hart).err.cause = 1#4)) ∧
    (∀ v, rg.ro = false → x.owned = true → (a.kind = .store v ∨ (a.kind = .sc v ∧ (getHart s a.hart).reservation = some (a.pa / 64 * 64))) →
      ∃ t, exec (.hartAccess a) s = .next t ∧ (getHart t a.hart).trap = none ∧ { t with px := s.px } = s ∧
        (a.kind = .sc v → (getHart t a.hart).lastValue = asValue 0 ∧ (getHart t a.hart).reservation = none) ∧
        (touchesArea s a.pa a.size = false → ∀ i < a.size, pxByte t (hartDie a.hart) (a.pa + i) = v.extractLsb' (8 * i) 8) ∧
        (touchesArea s a.pa a.size = true → (getPx t (hartDie a.hart)).cache = (getPx s (hartDie a.hart)).cache)) ∧
    (∀ v, rg.ro = false → x.owned = true → a.kind = .sc v → (getHart s a.hart).reservation ≠ some (a.pa / 64 * 64) →
      ∃ t, exec (.hartAccess a) s = .next t ∧ (getHart t a.hart).lastValue = asValue 1 ∧ (getHart t a.hart).reservation = none ∧
        (getPx t (hartDie a.hart)).cache = (getPx s (hartDie a.hart)).cache) ∧
    (∀ v, rg.ro = true → a.kind = .store v →
      ∃ t, exec (.hartAccess a) s = .next t ∧ (getHart t a.hart).trap = some .storeAccess ∧
        ((getHart s a.hart).err.valid = 0#1 → (getHart t a.hart).err.cause = 2#4) ∧ { t with px := s.px } = s) := by
  have hexec : ∀ {t}, scalarKind a.kind = true → memAccess a s = t → exec (.hartAccess a) s = .next t := fun {t} hk ht =>
    congrArg Host.Outcome.next ((doHartAccess_mem hr (fun c m h' => by rw [h'] at hk; cases hk) (fun c m v h' => by rw [h'] at hk; cases hk)).trans ht)
  refine ⟨?_, ?_, ?_, ?_, ?_⟩
  · rintro hp (hk | hk)
    · refine ⟨_, hexec (by rw [hk]; rfl) ((h.read_effect hp (by rw [hk]; rfl) (by rw [hk]; rfl)).trans (memEffect_load _ _ s hk)), ?_, rfl, ?_, ?_⟩
      · rw [getHart_hartOk]
      · rw [getHart_hartOk]
      · rw [hk]
        exact fun h' => by cases h'
    · refine ⟨_, hexec (by rw [hk]; rfl) ((h.read_effect hp (by rw [hk]; rfl) (by rw [hk]; rfl)).trans (memEffect_lr _ _ s hk)), ?_, rfl, ?_, ?_⟩
      · rw [getHart_modHart_self, getHart_hartOk]
      · rw [getHart_modHart_self, getHart_hartOk]
      · rw [getHart_modHart_self]
        exact fun _ => rfl
  · intro hp hk
    refine ⟨_, hexec (by rw [hk]; rfl) (h.poisoned hp hk), by rw [getHart_hartFault], fun hv => by rw [err_hartFault _ _ _ hv]⟩
  · rintro v hro ho (hk | ⟨hk, hres⟩)
    · obtain ⟨honly, hbytes, hcache⟩ := h.stored (by rw [hk]; rfl) v
      refine ⟨_, hexec (by rw [hk]; rfl) ((h.write_effect hro ho (by rw [hk]; rfl) (by rw [hk]; rfl)).trans (memEffect_store _ _ s hk)), ?_,
        honly.trans (onlyPx_modHart ..), ?_, fun harea i hi => ?_, fun harea => (cache_modHart ..).trans (hcache harea)⟩
      · rw [getHart_hartOk]
      · rw [hk]
        exact fun h' => by cases h'
      · exact (pxByte_of_cache (cache_modHart ..) _).trans (hbytes harea i hi)
    · obtain ⟨honly, hbytes, hcache⟩ := h.stored (by rw [hk]; rfl) v
      refine ⟨_, hexec (by rw [hk]; rfl) ((h.write_effect hro ho (by rw [hk]; rfl) (by rw [hk]; rfl)).trans (memEffect_sc _ _ s hk hres)), ?_,
        (honly.trans (onlyPx_modHart ..)).trans (onlyPx_modHart ..), fun _ => ⟨?_, ?_⟩, fun harea i hi => ?_,
        fun harea => ((cache_modHart ..).trans (cache_modHart ..)).trans (hcache harea)⟩
      · rw [getHart_modHart_self, getHart_hartOk]
      · rw [getHart_modHart_self, getHart_hartOk]
      · rw [getHart_modHart_self]
      · exact (pxByte_of_cache ((cache_modHart ..).trans (cache_modHart ..)) _).trans (hbytes harea i hi)
  · intro v hro ho hk hres
    refine ⟨_, hexec (by rw [hk]; rfl) ((h.write_effect hro ho (by rw [hk]; rfl) (by rw [hk]; rfl)).trans (memEffect_sc_fails _ _ s hk hres)), ?_, ?_,
      (cache_modHart ..).trans (cache_modHart ..)⟩
    · rw [getHart_modHart_self, getHart_hartOk]
    · rw [getHart_modHart_self]
  · intro v hro hk
    exact ⟨_, hexec (by rw [hk]; rfl) (h.readOnly hro hk), by rw [getHart_hartFault], fun hv => by rw [err_hartFault _ _ _ hv], onlyPx_hartFault ..⟩

/-- Settles O52, part by part: the accesses of a hart, the restart of the complex, the frequency of a die. -/
theorem processorComplex : Obligations.ProcessorComplex := by
  unfold Obligations.ProcessorComplex
  refine ⟨fun a s => ⟨fun hr => congrArg Host.Outcome.next (if_pos (by rw [hr]; rfl)), fun hr => ⟨?_, ?_, ?_, ?_, ?_⟩⟩, fun h s => ⟨?_, ?_, ?_⟩⟩
  · intro hk
    refine ⟨_, congrArg Host.Outcome.next ((doHartAccess_csrRead hr hk).trans (csrRead_stage ..)), ?_, ?_⟩ <;> rw [getHart_hartOk]
  · intro m hm hk
    exact ⟨_, congrArg Host.Outcome.next ((doHartAccess_csrRead hr hk).trans (csrRead_mxctl hm s)), by rw [getHart_hartTrap], rfl⟩
  · intro v hk hv
    refine ⟨_, congrArg Host.Outcome.next ((doHartAccess_csrWrite hr hk).trans (csrWrite_mxerr ..)), ?_⟩
    rw [getHart_modHart_self, getHart_hartOk, hv]
    rfl
  · intro hsz hr1 hr2
    have hmem := doHartAccess_mem hr hr1 hr2
    refine ⟨?_, ?_, ?_⟩
    · intro hv
      exact ⟨_, congrArg Host.Outcome.next (hmem.trans (memAccess_vacant hsz hv)), by rw [getHart_hartFault], by rw [getHart_hartFault],
        err_hartFault _ _ _, err_hartFault_held _ _ _, onlyPx_hartFault ..⟩
    · intro hv hio hm
      exact ⟨_, congrArg Host.Outcome.next (hmem.trans (memAccess_misaligned hsz hv hio hm)), by rw [getHart_hartTrap], by rw [getHart_hartTrap], rfl⟩
    · intro hk hs hal hlo hhi
      exact ⟨_, congrArg Host.Outcome.next (hmem.trans (memAccess_status hk hs hal hlo hhi)), by rw [getHart_hartOk], by rw [getHart_hartOk], rfl⟩
  · intro rg x h1 h2 hnc hin _ hal hs hx
    obtain ⟨hload, hpoison, hstore, hfail, hro⟩ := hartAccess_cached hr ⟨h1, h2, hnc, hin, hs, hal, hx⟩
    exact ⟨hload, hpoison, hstore, hfail, hro⟩
  · intro hr hup h0 h1
    refine ⟨fun hb => ⟨_, mxctlRestart_refused hr hup h0 h1 hb, rfl, getHart_refusePx _, rfl⟩, fun b rg hb hpass hu hbase hlen => ?_⟩
    obtain ⟨u, hu⟩ := mxctlRestart_starts hr hup h0 h1 hb hpass hu hbase hlen
    exact ⟨_, hu, fun k hk hl => getHart_releaseHarts hk hl⟩
  · intro v hr
    refine ⟨fun hlo hhi => ⟨_, mxfreqWrite_taken hr hlo hhi, by rw [getPx_modPx_self], rfl, fun d hd => getPx_modPx_ne hd _ s⟩, mxfreqWrite_refused hr⟩
  · intro d hd hl hm
    exact ⟨_, freqChangeDone_eq hd hl hm, by rw [getPx_modPx_self], rfl⟩

end Sys2Proof.Machine
end

section
/-! PROOFS. The region word and the checks on argument words (R340, R368; O5, O36): the fields of the word that region.query answers, and a command
whose argument words have a bit set that it does not read. -/

namespace Sys2Proof.Machine

-- the region word (R368)

/-- The fields of the region word, as numbers. -/
structure RegionFields (w : Nat) (r : Region) : Prop where
  base : w % 2 ^ 52 = r.base % 2 ^ 52
  ro : w / 2 ^ 52 % 2 = r.ro.toNat
  policy : w / 2 ^ 53 % 2 ^ 2 = r.policy % 2 ^ 2
  bypass : w / 2 ^ 55 % 2 = r.bypass.toNat
  keep : w / 2 ^ 56 % 2 = r.keep.toNat
  sealed : w / 2 ^ 57 % 2 = r.sealed.toNat
  mirrored : w / 2 ^ 58 % 2 = r.mirrored.toNat
  reserved : w / 2 ^ 59 % 2 ^ 4 = 0
  valid : w / 2 ^ 63 % 2 = 1

theorem regionWord_fields (r : Region) : RegionFields (regionWord r) r := by
  have hro := r.ro.toNat_le
  have hbypass := r.bypass.toNat_le
  have hkeep := r.keep.toNat_le
  have hsealed := r.sealed.toNat_le
  have hmirrored := r.mirrored.toNat_le
  unfold regionWord
  constructor <;> omega

/-- A field of a 64-bit word is read from the word's number. -/
theorem extractLsb'_ofNat {x v lo n : Nat} (hfit : lo + n ≤ 64) (h : x / 2 ^ lo % 2 ^ n = v % 2 ^ n) :
    (BitVec.ofNat 64 x).extractLsb' lo n = BitVec.ofNat n v := by
  apply BitVec.eq_of_toNat_eq
  have hdvd : 2 ^ n ∣ 2 ^ (64 - lo) := Nat.pow_dvd_pow 2 (by omega)
  rw [BitVec.extractLsb'_toNat, BitVec.toNat_ofNat, BitVec.toNat_ofNat, Nat.shiftRight_eq_div_pow, ← h,
    show 2 ^ 64 = 2 ^ lo * 2 ^ (64 - lo) by rw [← pow_add]; congr 1; omega, Nat.mod_mul_right_div_self, Nat.mod_mod_of_dvd _ hdvd]

/-- A bit of a 64-bit word is read from the word's number. -/
theorem getLsbD_ofNat_word {x i : Nat} {b : Bool} (hi : i < 64) (h : x / 2 ^ i % 2 = b.toNat) : (BitVec.ofNat 64 x).getLsbD i = b := by
  rw [BitVec.getLsbD_ofNat, decide_eq_true hi, Bool.true_and, Nat.testBit_eq_decide_div_mod_eq, h]
  cases b <;> rfl

/-- Settles O5: the command's equation, and each field of the region word. -/
theorem regionQueryWord : Obligations.RegionQueryWord := by
  unfold Obligations.RegionQueryWord
  intro id c s hw hfit
  obtain ⟨t, hexec, hdone⟩ := exec_completes hw (exec_regionQuery hw hfit)
  obtain ⟨c', -, hcmd⟩ := hdone.cmd
  refine ⟨t, _, hexec, hcmd, rfl, rfl, hdone.only_innk, fun r hr => ?_, fun hnone => ?_⟩
  · have hf := regionWord_fields r
    rw [hr, Option.map_some, Option.getD_some]
    exact ⟨extractLsb'_ofNat (by decide) (by simpa using hf.base), getLsbD_ofNat_word (by decide) hf.ro, extractLsb'_ofNat (by decide) hf.policy,
      getLsbD_ofNat_word (by decide) hf.bypass, getLsbD_ofNat_word (by decide) hf.keep, getLsbD_ofNat_word (by decide) hf.sealed,
      getLsbD_ofNat_word (by decide) hf.mirrored, extractLsb'_ofNat (by decide) hf.reserved, getLsbD_ofNat_word (b := true) (by decide) hf.valid⟩
  · rw [hnone]
    rfl

-- argument words (R340)

/-- The row of a command, with its opcode and the masks of its argument words, answers ST_BAD_ARG to a bit set outside the masks: a porter command at
its first piece, a guest.open before its transport is up. -/
def ChecksArgs (id : Nat) (row : Instr × Nat × List Nat) : Prop :=
  ∀ c s, (row.2.1 = 0x0501 → ((getGuest s (c.num 0)).connected && (getGuest s (c.num 0)).openCmd == some id) = false) →
    atWork s id row.2.1 = some c → c.piece = 0 → argsFit c row.2.2 = false → ∃ t, exec row.1 s = .next t ∧ CmdDone id stBadArg 0 s t

section
variable {i : Instr} {id op : Nat} {masks : List Nat}

/-- A row that checks the argument words first, alone or together with what they say. -/
theorem checksArgs_among {bad : Cmd → State → Bool} {go : Cmd → State → State} (hbad : ∀ c s, argsFit c masks = false → bad c s = true)
    (h : ∀ s, exec i s = .next (withCmd id op s (fun c => if bad c s then finishCmd id stBadArg 0 s else go c s))) : ChecksArgs id (i, op, masks) :=
  fun c s _ hw _ hfit => exec_completes hw ((h s).trans (congrArg Host.Outcome.next ((withCmd_of hw _).trans (if_pos (hbad c s hfit)))))

theorem checksArgs_alone {go : Cmd → State → State}
    (h : ∀ s, exec i s = .next (withCmd id op s (fun c => if !argsFit c masks then finishCmd id stBadArg 0 s else go c s))) :
    ChecksArgs id (i, op, masks) :=
  checksArgs_among (fun _ _ hfit => by rw [hfit]; rfl) h

/-- A porter row checks them at its first piece (R369). -/
theorem checksArgs_porter {d : Cmd → Desc} (h : ∀ s, exec i s = .next (withCmd id op s (fun c => porterCmd id c masks (d c) s))) :
    ChecksArgs id (i, op, masks) := by
  intro c s _ hw hp hfit
  have hbad : porterCmd id c masks (d c) s = finishCmd id stBadArg 0 s := by
    unfold porterCmd
    rw [if_neg (by omega), if_pos (by rw [hfit]; rfl)]
  exact exec_completes hw ((h s).trans (congrArg Host.Outcome.next ((withCmd_of hw _).trans hbad)))

end

/-- A guest.open checks them unless its guest is connected (R371). -/
theorem checksArgs_guestOpen (id : Nat) : ChecksArgs id (.guestOpen id, 0x0501, [0x3FFF, allBits, allBits, 0x303FF, allBits]) := by
  intro c s hopen hw _ hfit
  refine exec_completes hw (congrArg Host.Outcome.next ((withCmd_of hw _).trans ?_))
  dsimp only
  rw [if_neg (ne_true_of_eq_false (hopen rfl)), if_pos (by rw [hfit]; rfl)]

/-- Settles O36: the rows in the order of the command reference, each with the place where it checks its argument words. -/
theorem unusedArgumentBits : Obligations.UnusedArgumentBits := by
  unfold Obligations.UnusedArgumentBits
  intro id op masks i c s hrow
  refine (List.forall_iff_forall_mem (p := ChecksArgs id)).1 ?_ (i, op, masks) hrow c s
  have alone {i op masks go} := @checksArgs_alone i id op masks go
  have among {i op masks bad go} := @checksArgs_among i id op masks bad go
  have porter {i op masks d} := @checksArgs_porter i id op masks d
  exact ⟨
    -- device and stage
    alone fun _ => rfl, alone fun _ => rfl, among (fun _ _ h => by simp [h]) fun _ => rfl, alone fun _ => rfl, alone fun _ => rfl,
    -- itineraries
    alone fun _ => rfl, alone fun _ => rfl, alone fun _ => rfl, alone fun _ => rfl, alone fun _ => rfl,
    -- jobs
    alone fun _ => rfl, alone fun _ => rfl, alone fun _ => rfl, alone fun _ => rfl, alone fun _ => rfl,
    -- regions
    alone fun _ => rfl, alone fun _ => rfl, alone fun _ => rfl, alone fun _ => rfl, alone fun _ => rfl, alone fun _ => rfl, alone fun _ => rfl,
    -- porters
    porter fun _ => rfl, porter fun _ => rfl, porter fun _ => rfl, porter fun _ => rfl,
    -- guests
    checksArgs_guestOpen id, alone fun _ => rfl, alone fun _ => rfl,
    -- power, coolant and energy
    among (fun _ _ h => by simp [h]) fun _ => rfl, among (fun _ _ h => by simp [h]) fun _ => rfl, alone fun _ => rfl,
    -- records
    alone fun _ => rfl, among (fun _ _ h => by simp [h]) fun _ => rfl,
    -- firmware and quotes
    alone fun _ => rfl, among (fun _ _ h => by simp [h]) fun _ => rfl, among (fun _ _ h => by simp [h]) fun _ => rfl, alone fun _ => rfl⟩

end Sys2Proof.Machine
end

section
/-! PROOFS. The commands on the jobs of one device (R359 to R363; O38): what the end of a job leaves of the command at work and of the itineraries,
and each command's equation once its checks have passed. -/

namespace Sys2Proof.Machine

-- commands that complete, and the command at work

theorem getCmd_finishCmd_ne {id k : Nat} (hk : k ≠ id) (st : BitVec 16) (res : Nat) (s : State) : getCmd (finishCmd id st res s) k = getCmd s k := by
  unfold finishCmd
  split
  · rfl
  · split
    · rfl
    · refine (getCmd_modInnk _ ?_ k _).trans ((getCmd_setCmd id k _ s).trans (if_neg hk))
      exact fun _ => rfl

theorem finishCmd_itins (id : Nat) (st : BitVec 16) (res : Nat) (s : State) : (finishCmd id st res s).itins = s.itins :=
  (congrArg State.itins (finishCmd_rest id st res s) :)

/-- A round over the command table that completes its command, which waits, or that changes nothing. -/
def CompletesWaiting (k : Nat) (t u : State) : Prop :=
  u = t ∨ ∃ d st n, getCmd t k = some d ∧ d.phase = .waiting ∧ u = finishCmd k st n t

theorem CompletesWaiting.itins_eq {k : Nat} {t u : State} (h : CompletesWaiting k t u) : u.itins = t.itins := by
  rcases h with rfl | ⟨d, st, n, -, -, rfl⟩
  · rfl
  · exact finishCmd_itins ..

theorem CompletesWaiting.keeps {k id : Nat} {c : Cmd} {t u : State} (h : CompletesWaiting k t u) (hc : getCmd t id = some c)
    (hp : c.phase ≠ .waiting) : getCmd u id = some c := by
  rcases h with rfl | ⟨d, st, n, hd, hwait, rfl⟩
  · exact hc
  · have hk : id ≠ k := by
      rintro rfl
      rw [hc, Option.some.injEq] at hd
      exact hp (hd ▸ hwait)
    exact (getCmd_finishCmd_ne hk ..).trans hc

section
variable {P : State → Prop} (h : ∀ k t u, CompletesWaiting k t u → P t → P u)
include h

theorem abortJobCmds_preserves (job : Word) (n : Nat) {s : State} (hs : P s) : P (abortJobCmds job n s) := by
  refine forEach_preserves (fun k t ht => h k t _ ?_ ht) _ hs
  split
  · next d hd =>
    split
    · next hw =>
      simp only [waitsOnJob, Bool.and_eq_true, beq_iff_eq] at hw
      obtain ⟨-, hwait⟩ := hw
      exact .inr ⟨d, _, _, hd, hwait, rfl⟩
    · exact .inl rfl
  · exact .inl rfl

theorem endJobCmds_preserves (job : Word) (n : Nat) {s : State} (hs : P s) : P (endJobCmds job n s) := by
  refine forEach_preserves (fun k t ht => h k t _ ?_ ht) _ (abortJobCmds_preserves h job n hs)
  split
  · next d hd =>
    split
    · next hw =>
      simp only [Bool.and_eq_true, beq_iff_eq] at hw
      obtain ⟨⟨-, hwait⟩, -⟩ := hw
      exact .inr ⟨d, _, _, hd, hwait, rfl⟩
    · exact .inl rfl
  · exact .inl rfl

end

theorem endJobCmds_itins (job : Word) (n : Nat) (s : State) : (endJobCmds job n s).itins = s.itins :=
  endJobCmds_preserves (P := fun t => t.itins = s.itins) (fun _ _ _ hu ht => hu.itins_eq.trans ht) job n rfl

section
variable {id : Nat} {c : Cmd} {s : State} (hc : getCmd s id = some c) (hp : c.phase ≠ .waiting)
include hc hp

/-- The commands that wait on a job complete; one that does not wait stays as it is. -/
theorem getCmd_endJobCmds (job : Word) (n : Nat) : getCmd (endJobCmds job n s) id = some c :=
  endJobCmds_preserves (P := fun t => getCmd t id = some c) (fun _ _ _ hu ht => hu.keeps ht hp) job n hc

theorem getCmd_forgetJob (k : Nat) : getCmd (forgetJob k s) id = some c := by
  unfold forgetJob
  split
  · exact getCmd_endJobCmds (s := dropRecvs k s) hc hp ..
  · exact hc

theorem getCmd_createJob (k : Nat) (job seed : Word) (bell stages : Nat) (confirmed : Bool) (round : Nat) :
    getCmd (createJob k job seed bell stages confirmed round s) id = some c := getCmd_forgetJob hc hp k

end

-- a job comes into being (R359)

theorem forgetJob_itins (k : Nat) (s : State) : (forgetJob k s).itins = s.itins := by
  unfold forgetJob
  split
  · exact endJobCmds_itins ..
  · rfl

theorem getItin_createJob {k : Nat} {i : Itin} {s : State} (hi : getItin s k = some i) (job seed : Word) (bell stages : Nat) :
    ∃ i', getItin (createJob k job seed bell stages false 1 s) k = some i' ∧
      i'.job = some { id := job, seed := seed, bell := bell, stages := stages, confirmed := false } := by
  have hmade := getItin_modItin k k (fun i => { i with
    job := some { id := job, seed := seed, bell := bell, stages := stages, confirmed := false, round := max 1 1 }
    discards := 0, history := [], replayAfter := none, started := 0, isReplay := false, ckptPos := [], ckptNew := 0, jsnEnergy := 0#64 }) (forgetJob k s)
  rw [if_pos rfl, getItin_of_itins (forgetJob_itins k s), hi, Option.map_some] at hmade
  exact ⟨_, hmade, rfl⟩

-- the members of a job of one device (R406)

theorem membersOf_alone {i : Itin} (h : i.devicePeers = []) : membersOf i = [Config.deviceId] := by
  unfold membersOf
  rw [h, List.eraseDups_cons, List.filter_nil, List.eraseDups_nil, List.mergeSort_singleton]

/-- A job of one device has no other member to tell. -/
theorem sendAll_alone {i : Itin} (h : i.devicePeers = []) (m : CtrlOut) (s : State) : sendAll (membersOf i) m s = s := by
  unfold sendAll
  rw [membersOf_alone h]
  simp [forEach]

-- the stage at which a job stops (R361)

/-- An itinerary whose job is to stop at a stage, or at the one set before where that comes first. -/
def Itin.stoppingAt (b : Nat) (i : Itin) : Itin := { i with job := i.job.map (fun j => { j with stopAt := some (min (j.stopAt.getD b) b) }) }

theorem getItin_setStop {k : Nat} {i : Itin} {s : State} (hi : getItin s k = some i) (b : Nat) : getItin (setStop k b s) k = some (i.stoppingAt b) := by
  refine (getItin_modItin k k _ s).trans ?_
  rw [if_pos rfl, hi, Option.map_some, Itin.stoppingAt]
  congr 3
  funext j
  cases j.stopAt <;> simp

-- the rows

section
variable {id k : Nat} {c : Cmd} {i : Itin} {s : State} (hi : getItin s k = some i) (halone : i.devicePeers = [])
include hi halone

theorem exec_jobPrepare_alone (hw : atWork s id 0x0201 = some c) (hfit : argsFit c [allBits, 0xFFF, allBits, allBits, allBits] = true)
    (hstages : c.num 4 ≠ 0) (hk : c.num 1 = k) (hloop : noLoop i.image = false ∨ c.num 4 ≤ prologue i.image) (hev : i.evicting = false)
    (hjob : jobActive s k = false) (hslot : jobSlotIf s (c.arg 0) Job.active = none) (hprep : prepOf s (c.arg 0) = none)
    (htime : s.stg.time.state ≠ timeUnset) (hpeers : peerDevices i.image = []) (hbell : c.acceptedStage + 4 ≤ c.num 3) :
    exec (.jobPrepare id) s = .next (finishCmd id stOk (c.num 3) (createJob k (c.arg 0) (c.arg 2) (c.num 3) (c.num 4) false 1 s)) := by
  subst hk
  have hlegs : (noLoop i.image && decide (prologue i.image < c.num 4)) = false := by
    rcases hloop with h | h
    · rw [h, Bool.false_and]
    · rw [decide_eq_false (by omega), Bool.and_false]
  refine congrArg Host.Outcome.next ((withCmd_of hw _).trans ?_)
  simp [hfit, hstages, hi, hlegs, hev, hjob, hslot, hprep, htime, hpeers, Nat.not_lt.2 hbell, halone]

section
variable {j : Job} (hj : i.job = some j) (hw : atWork s id 0x0202 = some c) (hfit : argsFit c [allBits] = true)
  (hslot : jobSlotIf s (c.arg 0) (fun j => j.st == .prepared) = some k) (hone : confirming s j.id = false)
include hj hw hfit hslot hone

theorem exec_jobConfirm_inTime (hbell : c.acceptedStage + 1 < j.bell) :
    exec (.jobConfirm id) s = .next (waitCmd id (modItin k (fun x => { x with job := some { j with confirmed := true } }) s)) := by
  refine congrArg Host.Outcome.next ((withCmd_of hw _).trans ?_)
  simp [hfit, hslot, hi, hj, halone, hone, Nat.not_le.2 hbell]

theorem exec_jobConfirm_late (hbell : j.bell ≤ c.acceptedStage + 1) :
    exec (.jobConfirm id) s = .next (finishCmd id stLate 0 (endJobCmds j.id s.stg.num
      (modItin k (fun x => { x with job := some { j with st := .stopped, endBell := s.stg.num } }) s))) := by
  refine congrArg Host.Outcome.next ((withCmd_of hw _).trans ?_)
  simp [hfit, hslot, hi, hj, halone, hone, hbell, abandonJob]

end

section
variable {j : Job} (hj : i.job = some j) (hslot : jobSlot s (c.arg 0) = some k)
include hj hslot

omit halone in
theorem exec_jobStop_ended (hw : atWork s id 0x0203 = some c) (hfit : argsFit c [allBits, allBits] = true) (hact : j.active = false) :
    exec (.jobStop id) s = .next (if stopDue s j.id then waitCmd id s else finishCmd id stOk j.endBell s) := by
  refine congrArg Host.Outcome.next ((withCmd_of hw _).trans ?_)
  simp [hfit, hslot, hi, hj, hact]

/-- R361: The stage at which the job stops is set; no other member hears of it. -/
theorem exec_jobStop_active (hw : atWork s id 0x0203 = some c) (hfit : argsFit c [allBits, allBits] = true) (hact : j.active = true) :
    exec (.jobStop id) s = .next (waitCmd id (setStop k (if c.num 1 ≤ max c.acceptedStage s.stg.num then s.stg.num + 1 else c.num 1) s)) := by
  refine congrArg Host.Outcome.next ((withCmd_of hw _).trans ?_)
  generalize (if c.num 1 ≤ max c.acceptedStage s.stg.num then s.stg.num + 1 else c.num 1) = b
  have hset : getItin (setStop k b (waitCmd id s)) k = some (i.stoppingAt b) := getItin_setStop (s := waitCmd id s) hi b
  simp only [hfit, hslot, hi, hj, hact, Option.bind_some, Bool.not_true, Bool.false_eq_true, if_false, hset, sendAll_alone (i := i.stoppingAt b) halone,
    ite_self]
  rfl

omit halone in
theorem exec_jobAwait (hw : atWork s id 0x0204 = some c) (hfit : argsFit c [allBits, allBits] = true) (hstage : c.num 1 < j.stages) :
    exec (.jobAwait id) s = .next (if c.num 1 < j.released then finishCmd id stOk s.stg.num s
      else if j.st = .stopped && !stopDue s j.id then finishCmd id stAborted j.endBell s else waitCmd id s) := by
  refine congrArg Host.Outcome.next ((withCmd_of hw _).trans ?_)
  simp only [hfit, hslot, hi, hj, Option.bind_some, Bool.not_true, Bool.false_eq_true, if_false]
  rw [if_neg (Nat.not_le.2 hstage)]

omit halone in
theorem exec_jobStatus (hw : atWork s id 0x0205 = some c) (hfit : argsFit c [allBits] = true) :
    exec (.jobStatus id) s = .next (finishCmd id stOk (j.next % 2 ^ 48 + (jobCode i.job - 1) * 2 ^ 48 + i.config * 2 ^ 52) s) := by
  refine congrArg Host.Outcome.next ((withCmd_of hw _).trans ?_)
  simp [hfit, hslot, hi, hj]

end

end

-- a row that waits, over a change of an itinerary

/-- A row that waits once it has changed an itinerary. -/
theorem exec_waits {i : Instr} {id op : Nat} {c : Cmd} {s u : State} (hw : atWork s id op = some c) 
    (h : exec i s = .next (waitCmd id u)) (hu : u.innk = s.innk) : ∃ t, exec i s = .next t ∧ CmdWaits id u t :=
  ⟨_, h, waitCmd_waits ((getCmd_of_cmds (congrArg _ hu) id).trans (atWork_some hw).1)⟩

/-- Settles O38: each row is the equation of its command, and its end is what `waitCmd` or `finishCmd` does. -/
theorem jobCommands : Obligations.JobCommands := by
  unfold Obligations.JobCommands
  intro id k c i s hi halone
  refine ⟨?prepare, fun j hj hw hfit hslot hone => ⟨fun hbell => ?inTime, fun hbell => ?late⟩,
    fun j hj hslot => ⟨fun hw hfit => ⟨fun hact => ?stop, fun hact hdue => ?stopDue, fun hact hdue => ?ended⟩,
      fun hw hfit hstage => ⟨fun hrel => ?released, fun hrel hst hdue => ?aborted, fun hrel hst => ?waits⟩, fun hw hfit => ?status⟩⟩
  case prepare =>
    intro hw hfit hstages hk hloop hev hjob hslot hprep htime hpeers hbell
    obtain ⟨hc, -, hphase, -⟩ := atWork_some hw
    have hmade := getCmd_createJob hc (by rw [hphase]; decide) k (c.arg 0) (c.arg 2) (c.num 3) (c.num 4) false 1
    obtain ⟨i', hi', hj'⟩ := getItin_createJob hi (c.arg 0) (c.arg 2) (c.num 3) (c.num 4)
    exact ⟨_, exec_jobPrepare_alone hi halone hw hfit hstages hk hloop hev hjob hslot hprep htime hpeers hbell,
      finishCmd_done stOk (c.num 3) hmade (by rw [hphase]; decide), i', (getItin_of_itins (finishCmd_itins ..) k).trans hi', hj'⟩
  case inTime => exact exec_waits hw (exec_jobConfirm_inTime hi halone hj hw hfit hslot hone hbell) rfl
  case late =>
    obtain ⟨hc, -, hphase, -⟩ := atWork_some hw
    have hkept := getCmd_endJobCmds (s := modItin k (fun x => { x with job := some { j with st := .stopped, endBell := s.stg.num } }) s) hc
      (by rw [hphase]; decide) j.id s.stg.num
    refine ⟨_, exec_jobConfirm_late hi halone hj hw hfit hslot hone hbell, finishCmd_done stLate 0 hkept (by rw [hphase]; decide), ?_⟩
    rw [getItin_of_itins ((finishCmd_itins ..).trans (endJobCmds_itins ..)), getItin_modItin, if_pos rfl, hi]
    rfl
  case stop =>
    obtain ⟨t, ht, hwaits⟩ := exec_waits hw (exec_jobStop_active hi halone hj hslot hw hfit hact) rfl
    have hset : getItin t k = _ := (getItin_of_itins (congrArg State.itins hwaits.rest) k).trans (getItin_setStop hi _)
    refine ⟨t, ht, hwaits, ?_⟩
    rw [hset, Option.bind_some, Itin.stoppingAt, hj, Option.map_some]
    exact ⟨_, rfl, rfl⟩
  case stopDue => exact exec_waits hw (by rw [exec_jobStop_ended hi hj hslot hw hfit hact, if_pos hdue]) rfl
  case ended => exact exec_completes hw (by rw [exec_jobStop_ended hi hj hslot hw hfit hact, if_neg (ne_true_of_eq_false hdue)])
  case released => exact exec_completes hw (by rw [exec_jobAwait hi hj hslot hw hfit hstage, if_pos hrel])
  case aborted => exact exec_completes hw (by rw [exec_jobAwait hi hj hslot hw hfit hstage, if_neg (by omega), if_pos (by simp [hst, hdue])])
  case waits =>
    refine exec_waits hw ?_ rfl
    rw [exec_jobAwait hi hj hslot hw hfit hstage, if_neg (by omega), if_neg]
    rcases hst with hst | hdue
    · simp [hst]
    · simp [hdue]
  case status => exact exec_completes hw (exec_jobStatus hi hj hslot hw hfit)

end Sys2Proof.Machine
end

section
/-! PROOFS. The commands on power, records and firmware (R341, R373 to R376, R489, R493, R497, R512, R513, R516; O41): an output buffer as it goes to
memory or to a guest, the length of a quote, and each command's equation once its checks have passed. -/

namespace Sys2Proof.Machine

/-- A row that completes its command after work that leaves the command as it is. -/
theorem exec_completes_after {i : Instr} {id op res : Nat} {st : BitVec 16} {c : Cmd} {s u : State} (hw : atWork s id op = some c)
    (hc : getCmd u id = some c) (h : exec i s = .next (finishCmd id st res u)) : ∃ t, exec i s = .next t ∧ CmdDone id st res u t :=
  ⟨_, h, finishCmd_done st res hc (by rw [(atWork_some hw).2.2.1]; decide)⟩

-- an output buffer (R341)

theorem writeOut_memory {id a res : Nat} {c : Cmd} {bs : List Byte} {s s1 : State} (hg : c.guest = none)
    (h : homeWriteBytes .innkeeper a bs s = (true, s1)) : writeOut id c a bs res s = finishCmd id stOk res s1 := by
  unfold writeOut
  simp only [hg, h, if_true]

theorem outRange_memory {c : Cmd} (hg : c.guest = none) (s : State) (a n : Nat) : outRange s c a n = cmdRange s c true a n := by
  unfold outRange
  rw [if_neg (by simp [hg])]

theorem outRange_guest {g : Nat} {c : Cmd} (hg : c.guest = some g) (s : State) (a n : Nat) : outRange s c a n = none := by
  unfold outRange
  rw [if_pos (by simp [hg])]

/-- A message of a command's output buffer: it holds its bytes. -/
structure IsBuffer (id : Nat) (r : TxReq) : Prop where
  owner : r.owner = .buffer id
  type : r.type = 1
  src : ∃ bs, r.src = .bytes bs

/-- A command's output buffer goes to its guest: its flow stands, and nothing but messages of it waits in the queue pair; outside the network engine
nothing changes. -/
structure BufferGoes (id g len : Nat) (flush : Bool) (s t : State) : Prop where
  only : OnlyNet s t
  flow : ∃ f ∈ t.net.flows, f.owner = .buffer id ∧ f.total = len ∧ f.guest = some g ∧ f.flush = flush
  queue : ∀ q, (getGuest t g).qp = some q → ∀ r ∈ q.queue, IsBuffer id r

/-- The message sent next, and those behind it, come from the queue. -/
theorem nextMsg_mem {q rest : List TxReq} {r : TxReq} (h : nextMsg q = some (r, rest)) : r ∈ q ∧ ∀ x ∈ rest, x ∈ q := by
  unfold nextMsg at h
  split at h
  · cases h
  · next r' rest' =>
    split at h
    · cases h
      exact ⟨List.mem_cons_self, fun x hx => List.mem_cons_of_mem _ hx⟩
    · split at h
      · next i _ =>
        obtain ⟨x, hx, heq⟩ := Option.map_eq_some_iff.1 h
        cases heq
        exact ⟨List.mem_of_getElem? hx, fun y hy => List.mem_of_mem_eraseIdx hy⟩
      · cases h
        exact ⟨List.mem_cons_self, fun x hx => List.mem_cons_of_mem _ hx⟩

/-- A message joins a queue pair's queue. -/
def queueQp (g : Nat) (r : TxReq) (s : State) : State :=
  modGuest g (fun x => { x with qp := x.qp.map (fun q => { q with queue := q.queue ++ [r] }) }) s

theorem queueGuest_noConn {g : Nat} {s : State} (r : TxReq) (h : (getGuest s g).conn = none) : queueGuest g r s = queueQp g r s := by
  unfold queueGuest
  simp only [h, queueQp]

theorem pumpGuest_noConn {g : Nat} {s : State} (h : (getGuest s g).conn = none) : pumpGuest g s = pumpQp g s := by
  unfold pumpGuest
  simp only [h]

/-- The flow of a transfer to a guest begins (R400). -/
def beginFlow (o : TxOwner) (g len : Nat) (flush : Bool) (s : State) : State :=
  modNet (fun e => { e with flows := e.flows ++ [{ owner := o, total := len, flush := flush, guest := some g }] }) s

theorem guestWrite_noConn {o : TxOwner} {g a len : Nat} {src : TxSrc} {flush : Bool} {s : State} (h : (getGuest s g).conn = none) :
    guestWrite o g a src len flush s = pumpQp g (queueQp g { owner := o, addr := a, len := len, src := src } (beginFlow o g len flush s)) := by
  have hqueued : (getGuest (queueQp g { owner := o, addr := a, len := len, src := src } (beginFlow o g len flush s)) g).conn = none := by
    unfold queueQp
    rw [getGuest_modGuest_self]
    exact h
  rw [← pumpGuest_noConn hqueued, ← queueGuest_noConn (s := beginFlow o g len flush s) _ h]
  rfl

section
variable {id g len : Nat} {flush : Bool} {s t : State}

theorem BufferGoes.notePath (h : BufferGoes id g len flush s t) (o : TxOwner) (port last : Nat) :
    BufferGoes id g len flush s (notePath o port last t) := by
  obtain ⟨f, hf, howner, htotal, hguest, hflush⟩ := h.flow
  refine ⟨h.only.trans rfl, ?_, h.queue⟩
  refine ⟨_, List.mem_map_of_mem hf, ?_⟩
  dsimp only
  split
  · split <;> exact ⟨howner, htotal, hguest, hflush⟩
  · exact ⟨howner, htotal, hguest, hflush⟩

theorem BufferGoes.modGuest (h : BufferGoes id g len flush s t) {f : Guest → Guest} 
    (hf : ∀ q, (f (getGuest t g)).qp = some q → ∀ r ∈ q.queue, IsBuffer id r) : BufferGoes id g len flush s (modGuest g f t) := by
  refine ⟨h.only.trans rfl, h.flow, ?_⟩
  rw [getGuest_modGuest_self]
  exact hf

theorem BufferGoes.sendRoce (h : BufferGoes id g len flush s t) (k cls : Nat) (e : Endpoint) (op : RoceOp) (psn va : Nat) (rkey : BitVec 32)
    (bs : List Byte) : BufferGoes id g len flush s (sendRoce k cls e op psn va rkey bs t) :=
  ⟨h.only.trans (onlyNet_queueFrame ..), h.flow, h.queue⟩

/-- One packet of a queue pair leaves, or none. -/
theorem BufferGoes.sendQpNow (h : BufferGoes id g len flush s t) : BufferGoes id g len flush s (sendQpNow g t) := by
  unfold Machine.sendQpNow
  dsimp only
  split
  · next q e hq he =>
    split
    · exact h
    · next r rest hr =>
      obtain ⟨hmem, hrest⟩ := nextMsg_mem hr
      have hall := h.queue q hq
      obtain ⟨howner, htype, bs, hsrc⟩ := hall r hmem
      split
      · exact h
      · rw [if_neg (by rw [htype]; decide), if_neg (by simp [sourceGone, hsrc])]
        have hpay : nextPayload r (min e.pmtu (r.len - r.sent)) t = (some ((bs.drop r.sent).take (min e.pmtu (r.len - r.sent)), none), t) := by
          unfold nextPayload
          rw [hsrc]
        have hcount (n : Nat) (u : State) : countTx r.owner n u = u := by rw [howner]; rfl
        simp only [hpay, hcount]
        refine ((h.modGuest fun q' hq' x hx => ?_).notePath r.owner e.port _).sendRoce ..
        rw [hq, Option.map_some, Option.some.injEq] at hq'
        subst hq'
        dsimp only at hx
        split at hx
        · exact hall x (hrest x hx)
        · rcases List.mem_cons.1 hx with rfl | hx
          · exact ⟨howner, htype, bs, hsrc⟩
          · exact hall x (hrest x hx)
  · exact h

theorem BufferGoes.pumpQp (h : BufferGoes id g len flush s t) : BufferGoes id g len flush s (pumpQp g t) := by
  unfold Machine.pumpQp
  split
  · exact forEach_preserves (fun _ _ => BufferGoes.sendQpNow) _ h
  · exact h

omit s t in
/-- The write of a buffer to a guest begins with a queue pair in which nothing waits. -/
theorem bufferGoes_guestWrite {s : State} {q : Qp} {e : Endpoint} (h : IdleRoce g q e s) (a : Nat) (bs : List Byte) :
    BufferGoes id g len flush s (guestWrite (.buffer id) g a (.bytes bs) len flush s) := by
  obtain ⟨⟨-, hconn⟩, ⟨hq, hqueue⟩, -, -⟩ := h
  rw [guestWrite_noConn hconn]
  have hbegun : BufferGoes id g len flush s (beginFlow (.buffer id) g len flush s) := by
    refine ⟨onlyNet_modNet .., ⟨_, List.mem_append_right _ (List.mem_singleton_self _), rfl, rfl, rfl, rfl⟩, fun q' hq' r hr => ?_⟩
    cases hq.symm.trans hq'
    rw [hqueue] at hr
    cases hr
  refine (hbegun.modGuest fun q' hq' r hr => ?_).pumpQp
  have hguest : (getGuest s g).qp.map _ = some q' := hq'
  rw [hq, Option.map_some, Option.some.injEq] at hguest
  rw [← hguest, hqueue, List.nil_append, List.mem_singleton] at hr
  subst hr
  exact ⟨rfl, rfl, bs, rfl⟩

end

/-- A guest's buffer is on its way, and its command waits for the acknowledgement (R341). -/
theorem writeOut_guest {id g a res : Nat} {c : Cmd} {bs : List Byte} {q : Qp} {e : Endpoint} {s : State} (hc : getCmd s id = some c)
    (hg : c.guest = some g) (h : IdleRoce g q e s) (hbs : bs ≠ []) : BufferSent id g c bs.length res s (writeOut id c a bs res s) := by
  let u := modCmd id (fun d => { d with phase := .waiting, status := stOk, result := BitVec.ofNat 64 res }) s
  have heq : writeOut id c a bs res s = guestWrite (.buffer id) g a (.bytes bs) bs.length c.flush u := by
    unfold writeOut
    simp only [hg]
    exact if_neg (by simpa using hbs)
  have hu : IdleRoce g q e u := ⟨h.kind, h.qp, h.endpoint, h.port⟩
  obtain ⟨honly, hflow, -⟩ := bufferGoes_guestWrite (id := id) (len := bs.length) (flush := c.flush) hu a bs
  rw [heq]
  refine ⟨?_, fun k hk => ?_, hflow, honly.mem, by rw [honly.innk]; rfl⟩
  · rw [honly.getCmd, getCmd_modCmd, if_pos rfl, hc]
    rfl
  · rw [honly.getCmd, getCmd_modCmd, if_neg hk]

-- the length of a quote (R516)

theorem length_digestBytes (v : BitVec 256) : (digestBytes v).length = 32 := by simp [digestBytes, wordBytes]

/-- A quote is as long as its mask says, whatever it holds. -/
theorem length_quoteBytes (s t : State) (mask : BitVec 16) (a b a' b' : BitVec 256) :
    (quoteBytes s mask a b).length = (quoteBytes t mask a' b').length := by
  simp [quoteBytes, measureBody, idSignature, length_digestBytes, length_natBytes, List.length_flatMap]

theorem quoteBytes_ne_nil (s : State) (mask : BitVec 16) (a b : BitVec 256) : quoteBytes s mask a b ≠ [] := by
  apply List.ne_nil_of_length_pos
  unfold quoteBytes
  rw [List.append_assoc, List.append_assoc, List.append_assoc, List.append_assoc, List.append_assoc, List.length_append, length_natBytes]
  omega

-- power, coolant and energy (R373, R489, R493, R497)

theorem finishCmd_pwr (id : Nat) (st : BitVec 16) (res : Nat) (s : State) : (finishCmd id st res s).pwr = s.pwr :=
  (congrArg State.pwr (finishCmd_rest id st res s) :)

theorem finishCmd_sec (id : Nat) (st : BitVec 16) (res : Nat) (s : State) : (finishCmd id st res s).sec = s.sec :=
  (congrArg State.sec (finishCmd_rest id st res s) :)

theorem finishCmd_mem (id : Nat) (st : BitVec 16) (res : Nat) (s : State) : (finishCmd id st res s).mem = s.mem :=
  (congrArg State.mem (finishCmd_rest id st res s) :)

/-- A row that changes the power state and completes its command. -/
theorem exec_setsPower {i : Instr} {id op res : Nat} {st : BitVec 16} {c : Cmd} {s : State} (hw : atWork s id op = some c) {f : Power → Power}
    (h : exec i s = .next (finishCmd id st res (modPwr f s))) :
    ∃ t, exec i s = .next t ∧ t.pwr = f s.pwr ∧ CmdDone id st res { s with pwr := t.pwr } t := by
  have hc : getCmd (modPwr f s) id = some c := (atWork_some hw).1
  obtain ⟨t, ht, hdone⟩ := exec_completes_after hw hc h
  have hpwr : t.pwr = f s.pwr := by
    cases h.symm.trans ht
    exact finishCmd_pwr ..
  refine ⟨t, ht, hpwr, ?_⟩
  rw [hpwr]
  exact hdone

section
variable {id : Nat} {c : Cmd} {s : State}

theorem exec_powerCap (hw : atWork s id 0x0601 = some c) (hfit : argsFit c [0xFFFF] = true) (hlo : 900 ≤ c.num 0) (hhi : c.num 0 ≤ s.variant.pmaxW) :
    exec (.powerCap id) s = .next (finishCmd id stOk s.pwr.cfg.capW.toNat
      (modPwr (fun p => { p with cfg := { p.cfg with capW := BitVec.ofNat 16 (c.num 0) } }) s)) := by
  refine congrArg Host.Outcome.next ((withCmd_of hw _).trans (if_neg ?_))
  simp [hfit, hlo, hhi]

theorem exec_coolantTarget (hw : atWork s id 0x0602 = some c) (hfit : argsFit c [0xFFFF] = true) (hlo : 450 ≤ c.num 0) (hhi : c.num 0 ≤ 650) :
    exec (.coolantTarget id) s = .next (finishCmd id stOk s.pwr.coolCfg.target.toNat
      (modPwr (fun p => { p with coolCfg := { p.coolCfg with target := BitVec.ofNat 10 (c.num 0) } }) s)) := by
  refine congrArg Host.Outcome.next ((withCmd_of hw _).trans (if_neg ?_))
  simp [hfit, hlo, hhi]

section
variable (hw : atWork s id 0x0603 = some c) (hfit : argsFit c [3, allBits] = true)
include hw hfit

theorem exec_energyRead_device (h0 : c.num 0 = 0) (h1 : c.num 1 = 0) :
    exec (.energyRead id) s = .next (finishCmd id stOk (energyWord s.pwr.energyFj) s) := by
  refine congrArg Host.Outcome.next ((withCmd_of hw _).trans ?_)
  simp [hfit, h0, h1]

theorem exec_energyRead_itinerary {i : Itin} (h0 : c.num 0 = 1) (h1 : c.num 1 < 4096) (hi : getItin s (c.num 1) = some i) (hev : i.evicting = false) :
    exec (.energyRead id) s = .next (finishCmd id stOk i.energy.toNat s) := by
  refine congrArg Host.Outcome.next ((withCmd_of hw _).trans ?_)
  simp [hfit, h0, h1, hi, hev]

theorem exec_energyRead_guest (h0 : c.num 0 = 2) (h1 : c.num 1 < 16384) :
    exec (.energyRead id) s = .next (finishCmd id stOk (getGuest s (c.num 1)).energy.toNat s) := by
  refine congrArg Host.Outcome.next ((withCmd_of hw _).trans ?_)
  simp [hfit, h0, h1]

theorem exec_energyRead_pigeonhole (h0 : c.num 0 = 3) (h1 : c.num 1 < phCount) :
    exec (.energyRead id) s = .next (finishCmd id stOk (getPh s (c.num 1)).energy.mj.toNat s) := by
  refine congrArg Host.Outcome.next ((withCmd_of hw _).trans ?_)
  simp [hfit, h0, h1]

end

-- records (R374)

/-- Records written out to memory. -/
theorem readRecords_memory {α : Type} {buf size count lost : Nat} {xs : List α} {enc : α → List Byte} {s1 : State} (hg : c.guest = none)
    (hr : cmdRange s c true buf (size * count) = none) (h : homeWriteBytes .innkeeper buf (xs.flatMap enc) s = (true, s1)) :
    readRecords id c buf size count lost (xs.map enc) s = finishCmd id stOk (xs.length + lost * 2 ^ 32) s1 := by
  unfold readRecords
  rw [outRange_memory hg, hr, List.length_map]
  exact writeOut_memory hg h

theorem exec_ledgerRead (hw : atWork s id 0x0701 = some c) (hfit : argsFit c [allBits, allBits, allBits] = true) (hlo : 0 < c.num 1)
    (hhi : c.num 1 ≤ 4096) :
    exec (.ledgerRead id) s = .next (readRecords id c (c.num 2) 256 (c.num 1) (lostCount (ldgOldest s) (c.num 0) (c.num 1))
      ((s.ldg.records.filter (fun r => decide (c.num 0 ≤ r.seq) && decide (r.seq < c.num 0 + c.num 1))).reverse.map LedgerRec.bytes) s) :=
  congrArg Host.Outcome.next ((withCmd_of hw _).trans ((if_neg (by simp [hfit])).trans ((if_neg (by omega)).trans (if_neg (by omega)))))

section
variable (hw : atWork s id 0x0702 = some c) (hfit : argsFit c [1, allBits, allBits, allBits] = true) (hlo : 0 < c.num 2) (hhi : c.num 2 ≤ 4096)
include hw hfit hlo hhi

theorem exec_faultRead_log (h0 : c.num 0 = 0) :
    exec (.faultRead id) s = .next (readRecords id c (c.num 3) 64 (c.num 2) (lostCount (errOldest s) (c.num 1) (c.num 2))
      ((s.errs.filter (fun r => decide (c.num 1 ≤ r.seq) && decide (r.seq < c.num 1 + c.num 2))).reverse.map ErrRec.bytes) s) :=
  congrArg Host.Outcome.next ((withCmd_of hw _).trans
    ((if_neg (by simp [hfit, h0])).trans ((if_neg (by omega)).trans ((if_neg (by omega)).trans (if_neg (by omega))))))

theorem exec_faultRead_lost (h0 : c.num 0 = 1) (h1 : c.num 1 < 16384) :
    exec (.faultRead id) s = .next (readRecords id c (c.num 3) 32 (c.num 2) 0 (((getPh s (64 + c.num 1)).lostLog.take (c.num 2)).map CplRec.bytes) s) :=
  congrArg Host.Outcome.next ((withCmd_of hw _).trans
    ((if_neg (by simp [hfit, h1])).trans ((if_neg (by omega)).trans ((if_neg (by omega)).trans (if_pos h0)))))

end

-- firmware (R375, R512, R513)

theorem getComp_modComp (n m : Nat) (f : Component → Component) (s : State) : getComp (modComp n f s) m = if m = n then f (getComp s n) else getComp s m :=
  tabGet_tabSet ({} : Component) s.sec.comps n (f (getComp s n)) m

theorem getComp_finishCmd (id : Nat) (st : BitVec 16) (res n : Nat) (s : State) : getComp (finishCmd id st res s) n = getComp s n := by
  unfold getComp
  rw [finishCmd_sec]

theorem Component.bankOf_putBank (b : Nat) (v : Option FwBank) (x : Component) : (x.putBank b v).bankOf b = v := by
  unfold Component.putBank Component.bankOf
  by_cases hb : b = 0
  · simp only [if_pos hb]
  · simp only [if_neg hb]

/-- A component with an image in a bank, which has passed there (R512). -/
def Component.withStaged (b : Nat) (bs : List Byte) (x : Component) : Component :=
  { x.putBank b (some (fwBankOf bs)) with reg := { x.reg with staged := 1#1 } }

theorem stageImage_approved {n : Nat} {bs : List Byte} (h : fwApproved s n bs = true) :
    stageImage n bs s = (true, modComp n (Component.withStaged (getComp s n).inactive bs) s) := if_pos h

theorem exec_fwStage {bs : List Byte} {s1 : State} (hw : atWork s id 0x0801 = some c) (hfit : argsFit c [allBits, allBits, 0xF] = true)
    (hlen : 0 < c.num 1) (hn : c.num 2 < 4) (hr : cmdRange s c false (c.num 0) (c.num 1) = none)
    (hread : homeReadBytes .innkeeper (c.num 0) (c.num 1) s = (some bs, s1)) (hsize : fieldNat bs 0x10 8 = c.num 1) (hmax : c.num 1 ≤ fwMax (c.num 2))
    (hcomp : fieldNat bs 4 1 = c.num 2) (hpend : (getComp s1 (c.num 2)).reg.pending = 0#1) (hup : updating s1 = false)
    (happ : fwApproved s1 (c.num 2) bs = true) :
    exec (.fwStage id) s = .next (finishCmd id stOk 0
      (modComp (c.num 2) (Component.withStaged (getComp s1 (c.num 2)).inactive bs) s1)) := by
  refine congrArg Host.Outcome.next ((withCmd_of hw _).trans ?_)
  simp [hfit, Nat.pos_iff_ne_zero.1 hlen, Nat.not_le.2 hn, hr, hread, hcomp, hsize, Nat.not_lt.2 hmax, hpend, hup, stageImage_approved happ]

/-- A component whose staged image is the one that the next boot takes (R513). -/
def Component.withCommitted (b : Nat) (x : Component) : Component :=
  { x with commitB := decide (b = 1), reg := { x.reg with staged := 0#1, pending := 1#1 } }

/-- The version of the image in a bank, 0 where it is empty. -/
def Component.versionIn (b : Nat) (x : Component) : Nat := match x.bankOf b with | some v => v.version.toNat | none => 0

theorem exec_fwCommit (hw : atWork s id 0x0802 = some c) (hfit : argsFit c [0xF] = true) (hn : c.num 0 < 4)
    (hst : (getComp s (c.num 0)).reg.staged = 1#1) (hup : updating s = false) :
    exec (.fwCommit id) s = .next (finishCmd id stOk ((getComp s (c.num 0)).versionIn (getComp s (c.num 0)).inactive)
      (modComp (c.num 0) (Component.withCommitted (getComp s (c.num 0)).inactive) s)) := by
  refine congrArg Host.Outcome.next ((withCmd_of hw _).trans ((if_neg ?_).trans (if_neg (ne_true_of_eq_false hup))))
  simp [hfit, Nat.not_le.2 hn, hst]

theorem exec_fwStatus (hw : atWork s id 0x0803 = some c) (hfit : argsFit c [0xF] = true) (hn : c.num 0 < 4) :
    exec (.fwStatus id) s = .next (finishCmd id stOk ((getComp s (c.num 0)).reg.version.toNat +
      (if (getComp s (c.num 0)).reg.staged = 1#1 then (getComp s (c.num 0)).versionIn (getComp s (c.num 0)).inactive else 0) * 2 ^ 32) s) := by
  refine congrArg Host.Outcome.next ((withCmd_of hw _).trans (if_neg ?_))
  simp [hfit, Nat.not_le.2 hn]

-- quotes (R376, R516)

section
variable {bs : List Byte} {s1 : State} (hw : atWork s id 0x0804 = some c) (hfit : argsFit c [allBits, allBits, allBits, 0xFFFFFFFF] = true)
  (hmask : (c.arg 3).setWidth 16 ≠ 0#16) (hflags : c.num 3 < 2 ^ 16) (hbuf : c.num 2 ≠ 0)
  (hroom : (quoteBytes s ((c.arg 3).setWidth 16) 0#256 0#256).length ≤ c.num 2) (hnonce : cmdRange s c false (c.num 0) 32 = none)
  (hout : outRange s c (c.num 1) (quoteBytes s ((c.arg 3).setWidth 16) 0#256 0#256).length = none) (hkey : s.sec.idKeyOk = true)
  (hread : homeReadBytes .innkeeper (c.num 0) 32 s = (some bs, s1))
include hw hfit hmask hflags hbuf hroom hnonce hout hkey hread

/-- A quote that passes its checks is written out over a fresh nonce. -/
theorem exec_attestQuote : exec (.attestQuote id) s = .next (writeOut id c (c.num 1)
    (quoteBytes (draw 256 s1).2 ((c.arg 3).setWidth 16) (digestAt bs 0) (draw 256 s1).1)
    (quoteBytes s ((c.arg 3).setWidth 16) 0#256 0#256).length (draw 256 s1).2) := by
  refine congrArg Host.Outcome.next ((withCmd_of hw _).trans ?_)
  dsimp only
  rw [if_neg (by simp [hfit]), if_neg hbuf, if_neg (by simp [hmask]; omega), if_neg (Nat.not_lt.2 hroom), hnonce, hout]
  simp [lower, hkey, hread]

end

end

/-- Settles O41: each row is the equation of its command, and its end is what `finishCmd` does, or what becomes of a guest's buffer. -/
theorem recordAndFirmwareCommands : Obligations.RecordAndFirmwareCommands := by
  unfold Obligations.RecordAndFirmwareCommands
  intro id c s
  refine ⟨fun hw hfit hlo hhi => ?cap, fun hw hfit hlo hhi => ?coolant, fun hw hfit => ⟨fun h0 h1 => ?device, fun i h0 h1 hi hev => ?itinerary,
    fun h0 h1 => ?guest, fun h0 h1 => ?pigeonhole⟩, fun s1 hg hc => ⟨fun hw hfit hlo hhi hr h => ?ledger,
    fun hw hfit hlo hhi => ⟨fun h0 hr h => ?log, fun h0 h1 hr h => ?lost⟩,
    fun bs hw hfit hlen hn hr hread hsize hmax hcomp hpend hup happ => ?stage⟩, fun hw hfit hn hst hup => ?commit, fun hw hfit hn => ?status,
    fun bs s1 s2 hw hfit hg hmask hflags hbuf hroom hnonce hout hkey hread hwrite hc => ?quote,
    fun bs s1 g q e hw hfit hg hmask hflags hbuf hroom hnonce hkey hread hc hidle hmtu => ?quoteGuest⟩
  case cap =>
    obtain ⟨t, ht, hpwr, hdone⟩ := exec_setsPower hw (exec_powerCap hw hfit hlo hhi)
    exact ⟨t, ht, by rw [hpwr, BitVec.toNat_ofNat], hdone⟩
  case coolant =>
    obtain ⟨t, ht, hpwr, hdone⟩ := exec_setsPower hw (exec_coolantTarget hw hfit hlo hhi)
    exact ⟨t, ht, by rw [hpwr, BitVec.toNat_ofNat, Nat.mod_eq_of_lt (by omega)], hdone⟩
  case device => exact exec_completes hw (exec_energyRead_device hw hfit h0 h1)
  case itinerary => exact exec_completes hw (exec_energyRead_itinerary hw hfit h0 h1 hi hev)
  case guest => exact exec_completes hw (exec_energyRead_guest hw hfit h0 h1)
  case pigeonhole => exact exec_completes hw (exec_energyRead_pigeonhole hw hfit h0 h1)
  case ledger =>
    refine exec_completes_after hw hc ?_
    rw [exec_ledgerRead hw hfit hlo hhi, readRecords_memory hg hr h, List.length_reverse]
  case log =>
    refine exec_completes_after hw hc ?_
    rw [exec_faultRead_log hw hfit hlo hhi h0, readRecords_memory hg hr h, List.length_reverse]
  case lost =>
    refine exec_completes_after hw hc ?_
    rw [exec_faultRead_lost hw hfit hlo hhi h0 h1, readRecords_memory hg hr h, Nat.zero_mul, Nat.add_zero]
  case stage =>
    have hrow := exec_fwStage hw hfit hlen hn hr hread hsize hmax hcomp hpend hup happ
    have hkept : getCmd (modComp (c.num 2) (Component.withStaged (getComp s1 (c.num 2)).inactive bs) s1) id = some c := hc
    obtain ⟨t, ht, hdone⟩ := exec_completes_after hw hkept hrow
    obtain ⟨d, -, hcmd⟩ := hdone.cmd
    cases hrow.symm.trans ht
    refine ⟨_, _, hrow, hcmd, rfl, rfl, ?_, ?_, finishCmd_mem ..⟩
    · rw [getComp_finishCmd, getComp_modComp, if_pos rfl]
      exact Component.bankOf_putBank ..
    · rw [getComp_finishCmd, getComp_modComp, if_pos rfl]
      rfl
  case commit =>
    have hrow := exec_fwCommit hw hfit hn hst hup
    have hkept : getCmd (modComp (c.num 0) (Component.withCommitted (getComp s (c.num 0)).inactive) s) id = some c := (atWork_some hw).1
    obtain ⟨t, ht, hdone⟩ := exec_completes_after hw hkept hrow
    obtain ⟨d, -, hcmd⟩ := hdone.cmd
    cases hrow.symm.trans ht
    refine ⟨_, _, hrow, hcmd, rfl, rfl, fun b hb => ?_, ?_⟩
    · rw [Component.versionIn, hb]
    · rw [getComp_finishCmd, getComp_modComp, if_pos rfl]
      exact ⟨rfl, rfl, decide_eq_true_iff⟩
  case status => exact exec_completes hw (exec_fwStatus hw hfit hn)
  case quote =>
    have hrow := exec_attestQuote hw hfit hmask hflags hbuf hroom hnonce ((outRange_memory hg ..).trans hout) hkey hread
    exact exec_completes_after hw hc (hrow.trans (congrArg Host.Outcome.next (writeOut_memory hg hwrite)))
  case quoteGuest =>
    have hrow := exec_attestQuote hw hfit hmask hflags hbuf hroom hnonce (outRange_guest hg ..) hkey hread
    have hdrawn : IdleRoce g q e (draw 256 s1).2 := ⟨hidle.kind, hidle.qp, hidle.endpoint, hidle.port⟩
    refine ⟨_, hrow, ?_⟩
    have hsent := writeOut_guest (a := c.num 1) (res := (quoteBytes s ((c.arg 3).setWidth 16) 0#256 0#256).length) (s := (draw 256 s1).2) hc hg hdrawn
      (quoteBytes_ne_nil (draw 256 s1).2 ((c.arg 3).setWidth 16) (digestAt bs 0) (draw 256 s1).1)
    rw [length_quoteBytes _ s ((c.arg 3).setWidth 16) _ _ 0#256 0#256] at hsent
    exact ⟨hsent.cmd, hsent.others, hsent.flow, hsent.rest⟩

end Sys2Proof.Machine
end

section
/-! PROOFS. The RoCEv2 engine (R371, R390 to R392, R396, R400, R402, R403; O43): the frames that join a port's queue, the loss of a guest, the credit of
a transfer, and what each packet and each timer comes to. -/

namespace Sys2Proof.Machine

-- frames (R393, R395, R422)

/-- A RoCEv2 packet of a queue pair, and the frame that carries it. -/
def rocePacket (e : Endpoint) (op : RoceOp) (psn va : Nat) (rkey : BitVec 32) (bs : List Byte) (s : State) : RoceTx :=
  { port := e.port, src := portIp s e.port (e.ipver == 6), dst := e.ip, dscp := BitVec.ofNat 6 e.dscp, op := op, qpn := e.qpn, psn := psn, va := va,
    rkey := rkey, payload := bs }
def roceFrame (g cls : Nat) (e : Endpoint) (op : RoceOp) (psn va : Nat) (rkey : BitVec 32) (bs : List Byte) (s : State) : TxFrame :=
  { cls := cls, flow := .qp g, len := frameBytes (e.ipver == 6) (8 + roceBytes op + bs.length), msg := .roce (rocePacket e op psn va rkey bs s) }

theorem frameQueued_queueFrame (n : Nat) (f : TxFrame) (s : State) : FrameQueued n f s (queueFrame n f s) := by
  unfold FrameQueued queueFrame
  rw [getPort_modPort, if_pos rfl]

theorem frameQueued_sendRoce (g cls : Nat) (e : Endpoint) (op : RoceOp) (psn va : Nat) (rkey : BitVec 32) (bs : List Byte) (s : State) :
    FrameQueued e.port (roceFrame g cls e op psn va rkey bs s) s (sendRoce g cls e op psn va rkey bs s) := frameQueued_queueFrame ..

theorem roceQueued_sendRoce (g cls : Nat) (e : Endpoint) (op : RoceOp) (psn va : Nat) (rkey : BitVec 32) (bs : List Byte) (s : State) :
    RoceQueued g cls e op psn bs s (sendRoce g cls e op psn va rkey bs s) :=
  ⟨_, rocePacket e op psn va rkey bs s, frameQueued_sendRoce .., rfl, rfl, rfl, rfl, rfl, rfl, rfl, rfl⟩

theorem onlyNet_sendRoce (g cls : Nat) (e : Endpoint) (op : RoceOp) (psn va : Nat) (rkey : BitVec 32) (bs : List Byte) (s : State) :
    OnlyNet s (sendRoce g cls e op psn va rkey bs s) := onlyNet_queueFrame ..

theorem onlyNet_modPort (n : Nat) (f : Port → Port) (s : State) : OnlyNet s (modPort n f s) := onlyNet_modNet ..
theorem onlyNet_modFlow (o : TxOwner) (f : Flow → Flow) (s : State) : OnlyNet s (modFlow o f s) := onlyNet_modNet ..
theorem onlyNet_modQp (g : Nat) (f : Qp → Qp) (s : State) : OnlyNet s (modQp g f s) := onlyNet_modGuest ..

theorem onlyNet_roceNak (g : Nat) (e : Endpoint) (op : RoceOp) (psn : Nat) (s : State) : OnlyNet s (roceNak g e op psn s) :=
  (onlyNet_modPort ..).trans (onlyNet_sendRoce ..)

theorem RoceQueued.of_txq {g cls psn : Nat} {e : Endpoint} {op : RoceOp} {bs : List Byte} {s u t : State} (h : RoceQueued g cls e op psn bs u t)
    (hu : (getPort u e.port).txq = (getPort s e.port).txq) : RoceQueued g cls e op psn bs s t := by
  obtain ⟨f, x, hf, hrest⟩ := h
  exact ⟨f, x, hf.trans (by rw [hu]), hrest⟩

theorem getPort_countNak (n : Nat) (s : State) :
    getPort (countNak n s) n = { getPort s n with err := { (getPort s n).err with nak := satInc (getPort s n).err.nak } } := by
  unfold countNak
  rw [getPort_modPort, if_pos rfl]

theorem roceQueued_roceNak (g : Nat) (e : Endpoint) (op : RoceOp) (psn : Nat) (s : State) : RoceQueued g 1 e op psn [] s (roceNak g e op psn s) :=
  (roceQueued_sendRoce g 1 e op psn 0 0#32 [] (countNak e.port s)).of_txq (by rw [getPort_countNak])

theorem err_queueFrame (n : Nat) (f : TxFrame) (s : State) : (getPort (queueFrame n f s) n).err = (getPort s n).err := by
  unfold queueFrame
  rw [getPort_modPort, if_pos rfl]

theorem nak_roceNak (g : Nat) (e : Endpoint) (op : RoceOp) (psn : Nat) (s : State) :
    (getPort (roceNak g e op psn s) e.port).err.nak = satInc (getPort s e.port).err.nak :=
  (congrArg NetPortErrReg.nak (err_queueFrame ..)).trans (by rw [getPort_countNak])

/-- Rounds each of which puts a frame into one port's queue, in order. -/
theorem forEach_queues {α : Type} {n : Nat} {f : α → State → State} {Q : α → TxFrame → Prop} (h : ∀ x t, ∃ fr, FrameQueued n fr t (f x t) ∧ Q x fr)
    (xs : List α) (s : State) :
    ∃ fs, (getPort (forEach xs f s) n).txq = (getPort s n).txq ++ fs ∧ fs.length = xs.length ∧
      ∀ (i : Nat) fr x, fs[i]? = some fr → xs[i]? = some x → Q x fr := by
  induction xs generalizing s with
  | nil => exact ⟨[], (List.append_nil _).symm, rfl, fun i fr x hfr => by simp at hfr⟩
  | cons y xs ih =>
    obtain ⟨fr, hfr, hQ⟩ := h y s
    obtain ⟨fs, htxq, hlen, hfs⟩ := ih (f y s)
    refine ⟨fr :: fs, ?_, by rw [List.length_cons, List.length_cons, hlen], fun i fr' x hfr' hx => ?_⟩
    · exact htxq.trans (by rw [hfr, List.append_assoc, List.singleton_append])
    · cases i with
      | zero =>
        cases hfr'
        cases hx
        exact hQ
      | succ i => exact hfs i fr' x hfr' hx

-- the loss of a guest (R336, R396, R403)

theorem loseCmds_phs (before : State) (ph : Nat) (s : State) : (loseCmds before ph s).innk.phs = s.innk.phs := by
  refine forEach_keeps (fun t => t.innk.phs) (fun id t => ?_) _ s
  split
  · split
    · rfl
    · split
      · rfl
      · exact finishCmd_phs ..
  · rfl

/-- The connection of an open guest ends: its pigeonhole is LOST, and nothing of it is full any more. -/
theorem loseGuestIfOpen_open {g : Nat} {s : State} (h : (getPh s (64 + g)).st = .open_) :
    (getPh (loseGuestIfOpen g s) (64 + g)).st = .lost ∧ (getPh (loseGuestIfOpen g s) (64 + g)).full = [] := by
  have hlost : loseGuestIfOpen g s = loseGuest g s := if_pos (by rw [h]; rfl)
  rw [hlost]
  unfold loseGuest
  dsimp only
  rw [getPh_of_phs (loseCmds_phs ..), getPh_modPh, if_pos rfl]
  exact ⟨rfl, rfl⟩

theorem endTransport_rest (g : Nat) (s : State) : OnlyNet s (endTransport g s) := by
  unfold endTransport
  refine OnlyNet.trans ?_ ((onlyNet_modNet ..).trans (onlyNet_modGuest ..))
  split
  · exact onlyNet_modNet ..
  · rfl

-- transfers and queue pairs (R391, R400, R402)

section
variable {o : TxOwner} {f : Flow} {s : State} (h : flowOf s o = some f)
include h

theorem flowOf_modFlow {F : Flow → Flow} (hF : ∀ x, (F x).owner = x.owner) : flowOf (modFlow o F s) o = some (F f) := by
  have hsame : ((fun x : Flow => x.owner == o) ∘ fun x => if x.owner = o then F x else x) = fun x => x.owner == o := by
    funext x
    by_cases hx : x.owner = o <;> simp [hx, hF]
  have howner : f.owner = o := by simpa using List.find?_some h
  refine (List.find?_map ..).trans ?_
  rw [hsame, show s.net.flows.find? (fun x => x.owner == o) = some f from h, Option.map_some, if_pos howner]

theorem creditFlow_part {n : Nat} (hn : f.acked + n < f.total) : creditFlow o n s = modFlow o (fun x => { x with acked := x.acked + n }) s := by
  unfold creditFlow
  simp only [h, if_pos hn]

theorem creditRead_part (hn : 2 ≤ f.reads) : creditRead o s = modFlow o (fun x => { x with reads := x.reads - 1 }) s := by
  unfold creditRead
  simp only [h]
  rw [if_neg (by omega)]

end

section
variable {g : Nat} {q : Qp} {s : State}

theorem qp_modQp (hq : (getGuest s g).qp = some q) (f : Qp → Qp) : (getGuest (modQp g f s) g).qp = some (f q) := by
  unfold modQp
  rw [getGuest_modGuest_self]
  exact congrArg (Option.map f) hq

theorem pumpQp_empty (hq : (getGuest s g).qp = some q) (hqueue : q.queue = []) : pumpQp g s = s := by
  unfold pumpQp
  rw [hq]
  split
  · next q' e hq' he =>
    cases hq'
    rw [hqueue]
    rfl
  · rfl

theorem reapGuest_held (h : (getPh s (64 + g)).st ≠ .closed) : reapGuest g s = s := if_neg (by simp [h])

end

-- packets that pass the checks (R390)

/-- The address a write lands at, and the length of its message with it (R390, R400). -/
def Qp.target (p : RocePkt) (q : Qp) : Nat := if p.first then p.va.toNat else q.writeVa
def Qp.msgSoFar (p : RocePkt) (q : Qp) : Nat := (if p.first then 0 else q.msgBytes) + p.payload.length

/-- The remote key of a guest (R391). -/
def guestKey (g : Nat) : BitVec 32 := BitVec.ofNat 32 (0x01000000 + g)

/-- A write has been taken; its immediate value counts for all bytes of its message; it is acknowledged where it asks for it. -/
def takeWrite (p : RocePkt) (g : Nat) (q : Qp) (s : State) : State :=
  modQp g (fun x => { x with rxPsn := (p.psn.toNat + 1) % 2 ^ 24, writeVa := q.target p + p.payload.length, msgBytes := q.msgSoFar p }) s
def countImm (p : RocePkt) (g : Nat) (q : Qp) (s : State) : State :=
  settleGuestRecvs g (noteImm g p.imm (q.target p + p.payload.length - q.msgSoFar p) (q.msgSoFar p) s)
def ackWrite (p : RocePkt) (g : Nat) (e : Endpoint) (s : State) : State := if p.ackReq then roceSend g e .ack p.psn.toNat s else s

/-- The responses to an RDMA READ request (R390). -/
def answerRead (g : Nat) (e : Endpoint) (psn span : Nat) (bs : List Byte) (s : State) : State :=
  forEach (List.range span) (fun i t => sendRoce g 3 e .readResp ((psn + i) % 2 ^ 24) 0 0#32 ((bs.drop (i * e.pmtu)).take e.pmtu) t) s

/-- An acknowledgement or NAK with a sequence number covers a packet of data (R391). -/
def Unacked.coveredBy (a : RoceAck) (psn : Nat) (u : Unacked) : Bool := u.type == 1 && (psn24Before u.psn psn || (a == .ack && u.psn == psn))

/-- The packets that an acknowledgement covers wait no more, and are credited to their transfers (R391, R402). -/
def retireCovered (a : RoceAck) (psn g : Nat) (s : State) : State :=
  modQp g (fun d => { d with unacked := d.unacked.filter (fun u => !u.coveredBy a psn) }) s
def creditCovered (a : RoceAck) (psn g : Nat) (q : Qp) (s : State) : State :=
  forEach (q.unacked.filter (Unacked.coveredBy a psn)) (fun u t => creditFlow u.owner u.payload.length t) (retireCovered a psn g s)

/-- A queue pair whose READ with a number has its whole answer (R402). -/
def Qp.readEnded (num : Nat) (q : Qp) : Qp :=
  { q with reads := q.reads.filter (fun x => x.num != num), unacked := q.unacked.filter (fun u => !(u.type == 4 && u.psn == num)) }

section
variable {p : RocePkt} {g : Nat} {q : Qp} {e : Endpoint} {s : State} (h : RoceFits p g q e s)
include h

theorem rxRoce_fits (act : Nat → Qp → Endpoint → State → State) : rxRoce p.port p.icrcOk p.ip p.qpn act s = act g q e s := by
  obtain ⟨⟨hport, -, hcrc, hdst, hudp, hce⟩, hguest, hq, he⟩ := h
  unfold rxRoce rxFrame
  simp [hport, hcrc, hdst, hudp, hce, hguest, hq, he]

-- writes (R390, R391, R396, R400)

theorem doRdmaWrite_again (withImm : Bool) (hne : p.psn.toNat ≠ q.rxPsn) (hb : psn24Before p.psn.toNat q.rxPsn = true) :
    doRdmaWrite p withImm s = roceSend g e .ack p.psn.toNat s :=
  (rxRoce_fits h _).trans ((if_neg hne).trans (if_pos hb))

theorem doRdmaWrite_gap (withImm : Bool) (hne : p.psn.toNat ≠ q.rxPsn) (hb : psn24Before p.psn.toNat q.rxPsn = false) :
    doRdmaWrite p withImm s = roceNak g e .nakSequence q.rxPsn s :=
  (rxRoce_fits h _).trans ((if_neg hne).trans (if_neg (ne_true_of_eq_false hb)))

theorem doRdmaWrite_refused (withImm : Bool) (heq : p.psn.toNat = q.rxPsn)
    (hbad : (p.first = true ∧ p.rkey ≠ guestKey g) ∨ guestRefused s g true (q.target p) p.payload.length = true) :
    doRdmaWrite p withImm s = loseGuestIfOpen g (roceNak g e .nakAccess p.psn.toNat s) := by
  refine (rxRoce_fits h _).trans ((if_pos heq).trans (if_pos ?_))
  rw [Bool.or_eq_true, Bool.and_eq_true, bne_iff_ne]
  exact hbad

theorem doRdmaWrite_lands (withImm : Bool) {s1 : State} (heq : p.psn.toNat = q.rxPsn) (hkey : p.first = true → p.rkey = guestKey g)
    (hfree : guestRefused s g true (q.target p) p.payload.length = false) (hcut : iodCut s = false)
    (hwrite : homeWriteBytes .network (q.target p) p.payload s = (true, s1)) :
    doRdmaWrite p withImm s = ackWrite p g e (if withImm then countImm p g q (takeWrite p g q s1) else takeWrite p g q s1) := by
  have hpass : (p.first && p.rkey != BitVec.ofNat 32 (0x01000000 + g) || guestRefused s g true (q.target p) p.payload.length) = false := by
    simpa [hfree, guestKey] using hkey
  have hland : netWrite .network (q.target p) p.payload s = (true, s1) := by
    unfold netWrite
    rw [hcut]
    exact hwrite
  refine (rxRoce_fits h _).trans ((if_pos heq).trans ((if_neg (ne_true_of_eq_false hpass)).trans ?_))
  dsimp only
  rw [show netWrite .network (if p.first then p.va.toNat else q.writeVa) p.payload s = (true, s1) from hland]
  rfl

-- reads (R390, R396, R402)

omit h in
theorem psn24Before_self (n : Nat) : psn24Before n n = false := by
  unfold psn24Before
  rw [Nat.add_sub_cancel_left, Nat.mod_self]
  rfl

theorem doRdmaRead_refused (hb : psn24Before q.rxPsn p.psn.toNat = false) (hkey : p.rkey ≠ guestKey g) :
    doRdmaRead p s = loseGuestIfOpen g (roceNak g e .nakAccess p.psn.toNat s) := by
  refine (rxRoce_fits h _).trans ((if_neg (ne_true_of_eq_false hb)).trans (if_pos ?_))
  rw [Bool.or_eq_true, bne_iff_ne]
  exact .inl hkey

theorem doRdmaRead_answers {bs : List Byte} {b : Option Nat} {s1 : State} (heq : p.psn.toNat = q.rxPsn) (hkey : p.rkey = guestKey g)
    (hfree : guestRefused s g false p.va.toNat p.dmaLen = false)
    (hpay : nextPayload { owner := .resp, addr := 0, len := p.dmaLen, src := .mem p.va.toNat } p.dmaLen s = (some (bs, b), s1)) :
    doRdmaRead p s = answerRead g e p.psn.toNat (max 1 (ceilDiv p.dmaLen e.pmtu)) bs
      (modQp g (fun x => { x with rxPsn := (p.psn.toNat + max 1 (ceilDiv p.dmaLen e.pmtu)) % 2 ^ 24 }) s1) := by
  have hpass : (p.rkey != BitVec.ofNat 32 (0x01000000 + g) || guestRefused s g false p.va.toNat p.dmaLen) = false := by
    rw [hfree, hkey]
    simp [guestKey]
  refine (rxRoce_fits h _).trans ((if_neg (by rw [← heq, psn24Before_self]; decide)).trans ((if_neg (ne_true_of_eq_false hpass)).trans ?_))
  rw [hpay]
  dsimp only
  rw [if_pos heq]
  rfl

theorem doRdmaReadResp_last {r : ReadOut} {f : Flow} (hqueue : q.queue = [])
    (hr : q.reads.find? (fun r => decide ((p.psn.toNat + 2 ^ 24 - r.num) % 2 ^ 24 < max 1 (ceilDiv r.len e.pmtu))) = some r) (hdst : r.dst = none)
    (hlen : r.len ≤ rangesLen (r.got ++ newRuns r.got ((p.psn.toNat + 2 ^ 24 - r.num) % 2 ^ 24 * e.pmtu) p.payload.length))
    (hf : flowOf s r.owner = some f) (hreads : 2 ≤ f.reads) (hst : (getPh s (64 + g)).st ≠ .closed) :
    doRdmaReadResp p s = modQp g (Qp.readEnded r.num) (modFlow r.owner (fun x => { x with reads := x.reads - 1 }) s) := by
  have htake : takeRead r ((p.psn.toNat + 2 ^ 24 - r.num) % 2 ^ 24 * e.pmtu) p.payload s =
      (none, modFlow r.owner (fun x => { x with reads := x.reads - 1 }) s) := by
    unfold takeRead
    simp only [hdst, if_neg (Nat.not_lt.2 hlen), creditRead_part hf hreads]
  refine (rxRoce_fits h _).trans ?_
  dsimp only
  rw [hr]
  dsimp only
  rw [htake]
  dsimp only
  have hended : modQp g (fun d => { d with
      reads := (d.reads.filter (fun x => x.num != r.num)) ++ []
      unacked := d.unacked.filter (fun u => !(u.type == 4 && u.psn == r.num && (none : Option ReadOut).isNone)) }) =
      modQp g (Qp.readEnded r.num) := by
    congr 1
    funext d
    simp [Qp.readEnded]
  have hqp : (getGuest (modQp g (Qp.readEnded r.num) (modFlow r.owner (fun x => { x with reads := x.reads - 1 }) s)) g).qp = some (q.readEnded r.num) :=
    qp_modQp h.qp _
  rw [hended, pumpQp_empty hqp hqueue]
  exact reapGuest_held hst

-- acknowledgements (R390, R391, R396)

theorem doRoceAck_ack : doRoceAck p .ack s = reapGuest g (pumpQp g (creditCovered .ack p.psn.toNat g q s)) := rxRoce_fits h _

theorem doRoceAck_sequence : doRoceAck p .nakSequence s = goBack g (creditCovered .nakSequence p.psn.toNat g q s) := rxRoce_fits h _

theorem doRoceAck_remote (code : Nat) (hu : q.unacked = []) :
    doRoceAck p (.nakRemote code) s = loseGuestIfOpen g (creditCovered (.nakRemote code) p.psn.toNat g q s) := by
  refine (rxRoce_fits h _).trans ?_
  dsimp only
  rw [hu, List.find?_nil, creditCovered, hu]
  rfl

theorem doRoceAck_last {u : Unacked} {f : Flow} (hqueue : q.queue = []) (hu : q.unacked = [u]) (htype : u.type = 1) (hpsn : u.psn = p.psn.toNat)
    (hf : flowOf s u.owner = some f) (hpart : f.acked + u.payload.length < f.total) (hst : (getPh s (64 + g)).st ≠ .closed) :
    doRoceAck p .ack s =
      modFlow u.owner (fun x => { x with acked := x.acked + u.payload.length }) (retireCovered .ack p.psn.toNat g s) := by
  have hcovers : u.coveredBy .ack p.psn.toNat = true := by simp [Unacked.coveredBy, htype, hpsn]
  have hcredit : creditCovered .ack p.psn.toNat g q s =
      modFlow u.owner (fun x => { x with acked := x.acked + u.payload.length }) (retireCovered .ack p.psn.toNat g s) := by
    unfold creditCovered
    rw [hu, List.filter_cons_of_pos hcovers, List.filter_nil, forEach_one]
    have hkept : flowOf (retireCovered .ack p.psn.toNat g s) u.owner = some f := hf
    exact creditFlow_part hkept hpart
  have hqp : (getGuest (modFlow u.owner (fun x => { x with acked := x.acked + u.payload.length }) (retireCovered .ack p.psn.toNat g s)) g).qp = _ :=
    qp_modQp h.qp _
  rw [doRoceAck_ack h, hcredit, pumpQp_empty hqp hqueue]
  exact reapGuest_held hst

end

-- what is sent again (R391)

/-- A packet counts as sent again on its port (R422), and joins its queue. -/
def countRetx (n : Nat) (s : State) : State := modPort n (fun p => { p with err := { p.err with retx := satInc p.err.retx } }) s
def resendRoce (g : Nat) (e : Endpoint) (u : Unacked) (s : State) : State :=
  sendRoce g u.owner.cls e (if u.type = 4 then .readReq u.readLen else .write) u.psn u.addr e.rkey u.payload (countRetx e.port s)

theorem txq_countRetx (n : Nat) (s : State) : (getPort (countRetx n s) n).txq = (getPort s n).txq := by
  unfold countRetx
  rw [getPort_modPort, if_pos rfl]

theorem goBack_up {g : Nat} {q : Qp} {e : Endpoint} {s : State} (hq : (getGuest s g).qp = some q) (he : (getGuest s g).endpoint = some e)
    (hport : portUp s e.port = true) : goBack g s = forEach q.unacked (resendRoce g e) s := by
  unfold goBack
  simp only [hq, he, hport, Bool.not_true, Bool.false_eq_true, if_false]
  rfl

theorem frameQueued_resendRoce (g : Nat) (e : Endpoint) (u : Unacked) (s : State) : FrameQueued e.port
    (roceFrame g u.owner.cls e (if u.type = 4 then .readReq u.readLen else .write) u.psn u.addr e.rkey u.payload (countRetx e.port s)) s
    (resendRoce g e u s) :=
  (frameQueued_sendRoce ..).trans (by rw [txq_countRetx])

theorem onlyNet_resendRoce (g : Nat) (e : Endpoint) (u : Unacked) (s : State) : OnlyNet s (resendRoce g e u s) :=
  (onlyNet_modPort ..).trans (onlyNet_sendRoce ..)

theorem getGuest_resendRoce (g : Nat) (e : Endpoint) (u : Unacked) (s : State) (k : Nat) : getGuest (resendRoce g e u s) k = getGuest s k := rfl

-- immediate values (R400)

/-- Settling the RECVs from a guest changes itineraries and RECVs alone. -/
theorem settleGuestRecvs_rest {β : Type} (part : State → β) (hpart : ∀ is rs t, part { t with itins := is, net := { t.net with recvs := rs } } = part t)
    (g : Nat) (s : State) : part (settleGuestRecvs g s) = part s := by
  refine forEach_keeps part (fun r t => ?_) _ s
  dsimp only
  split
  · rw [apply_ite part]
    exact (ite_congr rfl (fun _ => hpart _ _ t) (fun _ => hpart _ _ t)).trans (ite_self _)
  · rfl

theorem getGuest_settleGuestRecvs (g k : Nat) (s : State) : getGuest (settleGuestRecvs g s) k = getGuest s k :=
  settleGuestRecvs_rest (fun t => getGuest t k) (fun _ _ _ => rfl) g s

theorem landed_noteImm {g : Nat} {imm : BitVec 32} {a n : Nat} {s : State} (hn : 0 < n) :
    ∃ ps, (getGuest (noteImm g imm a n s) g).landed.head? = some (imm, (a, n) :: ps) := by
  unfold noteImm
  rw [getGuest_modGuest_self]
  dsimp only
  rw [if_neg (by omega), List.take_succ_cons, List.head?_cons]
  exact ⟨_, rfl⟩

theorem getGuest_ackWrite (p : RocePkt) (g k : Nat) (e : Endpoint) (s : State) : getGuest (ackWrite p g e s) k = getGuest s k := by
  unfold ackWrite
  split <;> rfl

theorem onlyNet_ackWrite (p : RocePkt) (g : Nat) (e : Endpoint) (s : State) : OnlyNet s (ackWrite p g e s) := by
  unfold ackWrite
  split <;> rfl

-- packets that the engine does not support (R390)

theorem doUnsupportedOp_guest {port g : Nat} {src : BitVec 128} {qpn psn : BitVec 24} {q : Qp} {e : Endpoint} {s : State} (hport : portUp s port = true)
    (hg : qpGuest qpn = some g) (hq : (getGuest s g).qp = some q) (he : (getGuest s g).endpoint = some e) :
    doUnsupportedOp port src qpn psn s = roceNak g e .nakInvalid psn.toNat s := by
  unfold doUnsupportedOp
  simp [hport, hg, hq, he]

/-- The answer to a packet that names no queue pair of the device. -/
def strangerNak (port : Nat) (src : BitVec 128) (psn : BitVec 24) (s : State) : RoceTx :=
  { port := port, src := portIp s port ((src >>> 32) != 0xFFFF#128), dst := src, dscp := s.net.cfgEff.dscp, op := .nakInvalid
    qpn := (Config.strangerQp src).toNat, psn := psn.toNat }

theorem doUnsupportedOp_stranger {port : Nat} {src : BitVec 128} {qpn psn : BitVec 24} {s : State} (hport : portUp s port = true)
    (hg : qpGuest qpn = none) :
    doUnsupportedOp port src qpn psn s = sendOwn port (frameBytes ((src >>> 32) != 0xFFFF#128) (8 + roceBytes .nakInvalid))
      (.roce (strangerNak port src psn s)) (countNak port s) := by
  unfold doUnsupportedOp
  rw [if_neg (by simp [hport]), hg]
  rfl

-- timers (R371, R392, R403)

theorem doTransportTimeout_opening {g id : Nat} {s : State} (ho : (getGuest s g).openCmd = some id) :
    doTransportTimeout g s =
      finishCmd id stGuestLost 0 (modGuest g (fun x => { x with openCmd := none, openArgs := none }) (endTransport g s)) := by
  have hwaits : guestWaits s g = true := by simp [guestWaits, ho]
  unfold doTransportTimeout
  rw [if_neg (by simp [hwaits]), ho]

theorem doTransportTimeout_open {g : Nat} {s : State} (ho : (getGuest s g).openCmd = none) (hw : guestWaits s g = true) :
    doTransportTimeout g s = loseGuestIfOpen g s := by
  unfold doTransportTimeout
  rw [if_neg (by simp [hw]), ho]

theorem transport_endTransport (g : Nat) (s : State) : (getGuest (endTransport g s) g).transport = none := by
  unfold endTransport
  dsimp only
  rw [getGuest_modGuest_self]

theorem getGuest_finishCmd (id : Nat) (st : BitVec 16) (res k : Nat) (s : State) : getGuest (finishCmd id st res s) k = getGuest s k :=
  (congrArg (fun t => getGuest t k) (finishCmd_rest id st res s) :)

-- the obligation, by parts

section
variable {p : RocePkt} {g : Nat} {q : Qp} {e : Endpoint} {s : State} (h : RoceFits p g q e s)
include h

/-- A write in sequence that the guest is allowed lands, and so does its immediate value. -/
theorem rdmaWrite_inSequence {s1 : State} (heq : p.psn.toNat = q.rxPsn) (hkey : p.first = true → p.rkey = guestKey g)
    (hfree : guestRefused s g true (q.target p) p.payload.length = false) (hcut : iodCut s = false)
    (hwrite : homeWriteBytes .network (q.target p) p.payload s = (true, s1)) (hsame : getGuest s1 g = getGuest s g) :
    (∃ t, exec (.rdmaWrite p) s = .next t ∧ OnlyNet s1 t ∧
      (getGuest t g).qp = some { q with rxPsn := (p.psn.toNat + 1) % 2 ^ 24, writeVa := q.target p + p.payload.length, msgBytes := q.msgSoFar p } ∧
      (p.ackReq = true → RoceQueued g 1 e .ack p.psn.toNat [] s1 t) ∧ (p.ackReq = false → t.net.ports = s1.net.ports)) ∧
    (0 < q.msgSoFar p → ∃ t ps, exec (.rdmaWriteWithImmediate p) s = .next t ∧ t.mem = s1.mem ∧
      (getGuest t g).qp = some { q with rxPsn := (p.psn.toNat + 1) % 2 ^ 24, writeVa := q.target p + p.payload.length, msgBytes := q.msgSoFar p } ∧
      (getGuest t g).landed.head? = some (p.imm, (q.target p + p.payload.length - q.msgSoFar p, q.msgSoFar p) :: ps)) := by
  have hq1 : (getGuest s1 g).qp = some q := (congrArg Guest.qp hsame).trans h.qp
  have htook := qp_modQp hq1 (fun x => { x with rxPsn := (p.psn.toNat + 1) % 2 ^ 24, writeVa := q.target p + p.payload.length, msgBytes := q.msgSoFar p })
  have hlands (withImm : Bool) := doRdmaWrite_lands h withImm heq hkey hfree hcut hwrite
  refine ⟨⟨_, congrArg Host.Outcome.next (hlands false),
    (onlyNet_modGuest ..).trans (onlyNet_ackWrite p g e (takeWrite p g q s1)),
    (congrArg Guest.qp (getGuest_ackWrite ..)).trans htook, fun hack => ?_, fun hack => ?_⟩, fun htotal => ?_⟩
  · rw [ackWrite, if_pos hack]
    exact roceQueued_sendRoce g 1 e .ack _ 0 0#32 [] (takeWrite p g q s1)
  · rw [ackWrite, if_neg (by rw [hack]; decide)]
    rfl
  · obtain ⟨ps, hps⟩ := landed_noteImm (g := g) (imm := p.imm) (a := q.target p + p.payload.length - q.msgSoFar p) (s := takeWrite p g q s1) htotal
    refine ⟨_, ps, congrArg Host.Outcome.next (hlands true), ?_, ?_, ?_⟩
    · exact (onlyNet_ackWrite ..).mem.trans (settleGuestRecvs_rest State.mem (fun _ _ _ => rfl) g _)
    · rw [getGuest_ackWrite]
      refine (congrArg Guest.qp (getGuest_settleGuestRecvs ..)).trans ((qp_modGuest ?_ g _).trans htook)
      exact fun _ => rfl
    · rw [getGuest_ackWrite]
      exact (congrArg (fun x : Guest => x.landed.head?) (getGuest_settleGuestRecvs ..)).trans hps

/-- A write out of sequence is acknowledged again or refused, and one that is not allowed ends the connection. -/
theorem rdmaWrite_notTaken {i : Instr} (hi : i ∈ [Instr.rdmaWrite p, .rdmaWriteWithImmediate p]) :
    (p.psn.toNat ≠ q.rxPsn → psn24Before p.psn.toNat q.rxPsn = true →
      ∃ t, exec i s = .next t ∧ OnlyNet s t ∧ RoceQueued g 1 e .ack p.psn.toNat [] s t) ∧
    (p.psn.toNat ≠ q.rxPsn → psn24Before p.psn.toNat q.rxPsn = false →
      ∃ t, exec i s = .next t ∧ OnlyNet s t ∧ RoceQueued g 1 e .nakSequence q.rxPsn [] s t ∧
        (getPort t e.port).err.nak = satInc (getPort s e.port).err.nak) ∧
    (p.psn.toNat = q.rxPsn → ((p.first = true ∧ p.rkey ≠ guestKey g) ∨ guestRefused s g true (q.target p) p.payload.length = true) →
      (getPh s (64 + g)).st = .open_ → ∃ t, exec i s = .next t ∧ (getPh t (64 + g)).st = .lost ∧ (getPh t (64 + g)).full = []) := by
  obtain ⟨withImm, hexec⟩ : ∃ b, exec i s = .next (doRdmaWrite p b s) := by
    rcases List.mem_pair.1 hi with rfl | rfl
    · exact ⟨false, rfl⟩
    · exact ⟨true, rfl⟩
  rw [hexec]
  refine ⟨fun hne hb => ⟨_, rfl, ?_⟩, fun hne hb => ⟨_, rfl, ?_⟩, fun heq hbad hst => ⟨_, rfl, ?_⟩⟩
  · rw [doRdmaWrite_again h withImm hne hb]
    exact ⟨onlyNet_sendRoce .., roceQueued_sendRoce ..⟩
  · rw [doRdmaWrite_gap h withImm hne hb]
    exact ⟨onlyNet_roceNak .., roceQueued_roceNak .., nak_roceNak ..⟩
  · rw [doRdmaWrite_refused h withImm heq hbad]
    exact loseGuestIfOpen_open (s := roceNak g e .nakAccess p.psn.toNat s) hst

/-- The answer to a read: its frames in order, each with its part of the bytes. -/
theorem rdmaRead_answered {bs : List Byte} {b : Option Nat} {s1 : State} (heq : p.psn.toNat = q.rxPsn) (hkey : p.rkey = guestKey g)
    (hfree : guestRefused s g false p.va.toNat p.dmaLen = false)
    (hpay : nextPayload { owner := .resp, addr := 0, len := p.dmaLen, src := .mem p.va.toNat } p.dmaLen s = (some (bs, b), s1))
    (hsame : getGuest s1 g = getGuest s g) :
    ∃ t fs, exec (.rdmaReadRequest p) s = .next t ∧ OnlyNet s1 t ∧
      (getGuest t g).qp = some { q with rxPsn := (p.psn.toNat + max 1 (ceilDiv p.dmaLen e.pmtu)) % 2 ^ 24 } ∧
      (getPort t e.port).txq = (getPort s1 e.port).txq ++ fs ∧ fs.length = max 1 (ceilDiv p.dmaLen e.pmtu) ∧
      ∀ (i : Nat) (f : TxFrame), fs[i]? = some f → f.cls = 3 ∧ ∃ x, f.msg = .roce x ∧ x.op = .readResp ∧ x.qpn = e.qpn ∧
        x.psn = (p.psn.toNat + i) % 2 ^ 24 ∧ x.payload = (bs.drop (i * e.pmtu)).take e.pmtu := by
  have hq1 : (getGuest s1 g).qp = some q := (congrArg Guest.qp hsame).trans h.qp
  obtain ⟨fs, htxq, hlen, hfs⟩ := forEach_queues (n := e.port)
    (f := fun i t => sendRoce g 3 e .readResp ((p.psn.toNat + i) % 2 ^ 24) 0 0#32 ((bs.drop (i * e.pmtu)).take e.pmtu) t)
    (Q := fun i f => ∃ u, f = roceFrame g 3 e .readResp ((p.psn.toNat + i) % 2 ^ 24) 0 0#32 ((bs.drop (i * e.pmtu)).take e.pmtu) u)
    (fun i t => ⟨_, frameQueued_sendRoce .., t, rfl⟩) (List.range (max 1 (ceilDiv p.dmaLen e.pmtu)))
    (modQp g (fun x => { x with rxPsn := (p.psn.toNat + max 1 (ceilDiv p.dmaLen e.pmtu)) % 2 ^ 24 }) s1)
  rw [List.length_range] at hlen
  refine ⟨_, fs, congrArg Host.Outcome.next (doRdmaRead_answers h heq hkey hfree hpay), ?_, ?_, htxq, hlen, fun i f hf => ?_⟩
  · exact forEach_preserves (P := OnlyNet s1) (fun i t ht => ht.trans (onlyNet_sendRoce ..)) _ (onlyNet_modGuest ..)
  · exact (forEach_keeps (fun t => (getGuest t g).qp) (fun i t => congrArg Guest.qp (getGuest_sendRoce ..)) _ _).trans (qp_modQp hq1 _)
  · have hi : i < max 1 (ceilDiv p.dmaLen e.pmtu) := hlen ▸ (List.getElem?_eq_some_iff.1 hf).1
    obtain ⟨u, rfl⟩ := hfs i f i hf (List.getElem?_range hi)
    exact ⟨rfl, _, rfl, rfl, rfl, rfl, rfl⟩

/-- A sequence NAK sends the one packet that waits again, and retires nothing. -/
theorem nakSequence_resends {u : Unacked} (hu : q.unacked = [u]) (hpsn : u.psn = p.psn.toNat) (hport : portUp s e.port = true) :
    ∃ t, exec (.acknowledgement p .nakSequence) s = .next t ∧ OnlyNet s t ∧ (getGuest t g).qp = some q ∧
      RoceQueued g u.owner.cls e (if u.type = 4 then .readReq u.readLen else .write) u.psn u.payload s t := by
  have hcovers : u.coveredBy .nakSequence p.psn.toNat = false := by
    unfold Unacked.coveredBy
    rw [hpsn, psn24Before_self]
    simp
  have hcredit : creditCovered .nakSequence p.psn.toNat g q s = retireCovered .nakSequence p.psn.toNat g s := by
    unfold creditCovered
    rw [hu, List.filter_cons_of_neg (ne_true_of_eq_false hcovers), List.filter_nil]
    rfl
  have hqp : (getGuest (retireCovered .nakSequence p.psn.toNat g s) g).qp = some q := by
    have hsame : q.unacked.filter (fun u => !u.coveredBy .nakSequence p.psn.toNat) = q.unacked := by simp [hu, hcovers]
    refine (qp_modQp h.qp _).trans ?_
    rw [hsame]
  have he : (getGuest (retireCovered .nakSequence p.psn.toNat g s) g).endpoint = some e := by
    unfold retireCovered modQp
    rw [getGuest_modGuest_self]
    exact h.endpoint
  have hback := goBack_up hqp he hport
  rw [hu, forEach_one] at hback
  have hrun : doRoceAck p .nakSequence s = resendRoce g e u (retireCovered .nakSequence p.psn.toNat g s) := by
    rw [doRoceAck_sequence h, hcredit, hback]
  refine ⟨_, congrArg Host.Outcome.next hrun, (onlyNet_modGuest ..).trans (onlyNet_resendRoce ..),
    (congrArg Guest.qp (getGuest_resendRoce ..)).trans hqp, ?_⟩
  exact ⟨_, rocePacket e (if u.type = 4 then .readReq u.readLen else .write) u.psn u.addr e.rkey u.payload
      (countRetx e.port (retireCovered .nakSequence p.psn.toNat g s)),
    frameQueued_resendRoce g e u (retireCovered .nakSequence p.psn.toNat g s), rfl, rfl, rfl, rfl, rfl, rfl, rfl, rfl⟩

end

/-- A CNP or a mark counts on its port (R422). -/
def countSignal (n : Nat) (s : State) : State := modPort n (fun p => { p with cong := { p.cong with signals := p.cong.signals + 1#32 } }) s

theorem getPort_countSignal (n : Nat) (s : State) :
    getPort (countSignal n s) n = { getPort s n with cong := { (getPort s n).cong with signals := (getPort s n).cong.signals + 1#32 } } := by
  unfold countSignal
  rw [getPort_modPort, if_pos rfl]

theorem doCnp_guest {g port : Nat} {qpn : BitVec 24} {s : State} (hg : qpGuest qpn = some g) (hport : portUp s port = true) :
    doCnp qpn port s = modQp g (fun q => { q with rate := q.rate / 2 }) (countSignal port s) := by
  unfold doCnp
  rw [if_neg (by simp [hport]), hg]
  rfl

/-- Everything that a queue pair holds unacknowledged leaves again, in order. -/
theorem localAckTimeout_resends {g : Nat} {q : Qp} {e : Endpoint} {s : State} (hq : (getGuest s g).qp = some q)
    (he : (getGuest s g).endpoint = some e) (hport : portUp s e.port = true) :
    ∃ t fs, exec (.localAckTimeout g) s = .next t ∧ OnlyNet s t ∧ getGuest t g = getGuest s g ∧
      (getPort t e.port).txq = (getPort s e.port).txq ++ fs ∧ fs.length = q.unacked.length ∧
      ∀ (i : Nat) (f : TxFrame) (u : Unacked), fs[i]? = some f → q.unacked[i]? = some u → f.cls = u.owner.cls ∧ ∃ x, f.msg = .roce x ∧
        x.op = (if u.type = 4 then .readReq u.readLen else .write) ∧ x.qpn = e.qpn ∧ x.psn = u.psn ∧ x.va = u.addr ∧ x.rkey = e.rkey ∧
        x.payload = u.payload := by
  obtain ⟨fs, htxq, hlen, hfs⟩ := forEach_queues (n := e.port) (f := resendRoce g e)
    (Q := fun u f => ∃ t, f = roceFrame g u.owner.cls e (if u.type = 4 then .readReq u.readLen else .write) u.psn u.addr e.rkey u.payload t)
    (fun u t => ⟨_, frameQueued_resendRoce .., countRetx e.port t, rfl⟩) q.unacked s
  refine ⟨_, fs, congrArg Host.Outcome.next (goBack_up hq he hport), ?_, ?_, htxq, hlen, fun i f u hf hu => ?_⟩
  · exact forEach_preserves (P := OnlyNet s) (fun u t ht => ht.trans (onlyNet_resendRoce ..)) _ rfl
  · exact forEach_keeps (fun t => getGuest t g) (fun u t => getGuest_resendRoce ..) _ s
  · obtain ⟨t, rfl⟩ := hfs i f u hf hu
    exact ⟨rfl, _, rfl, rfl, rfl, rfl, rfl, rfl, rfl⟩

/-- Settles O43, part by part: writes, reads, responses, acknowledgements, the timers of a queue pair, strangers, and the transport timeout. -/
theorem roceConnections : Obligations.RoceConnections := by
  unfold Obligations.RoceConnections
  refine ⟨fun p g q e s h => ⟨fun s1 => rdmaWrite_inSequence h, fun i => rdmaWrite_notTaken h, fun bs b s1 => rdmaRead_answered h,
    fun hkey hb hst => ?readRefused, fun r f hqueue hr hdst hlen hf hreads hst => ?readEnds, fun u f hqueue hu htype hpsn hf hpart hst => ?acked,
    fun u hu hpsn hport => ?sequence, fun code hu hst => ?remote⟩,
    fun g q s hq => ⟨fun qpn port hg hport => ?cnp, ?rate, fun e he => ⟨localAckTimeout_resends hq he, fun port src qpn psn hport hg => ?unsupported⟩⟩,
    fun port src qpn psn s hport hg => ?stranger,
    fun g s => ⟨fun id c ho hc hphase => ?givenUp, fun ho hw hst => ?timedOut, fun hw => ?idle⟩⟩
  case readRefused =>
    refine ⟨_, congrArg Host.Outcome.next (doRdmaRead_refused h hb hkey), ?_⟩
    exact loseGuestIfOpen_open (s := roceNak g e .nakAccess p.psn.toNat s) hst
  case readEnds =>
    have hended := doRdmaReadResp_last h hqueue hr hdst hlen hf hreads hst
    refine ⟨_, q.readEnded r.num, congrArg Host.Outcome.next hended, (onlyNet_modFlow ..).trans (onlyNet_modQp ..), qp_modQp h.qp _, rfl, ?_⟩
    exact flowOf_modFlow hf (F := fun x => { x with reads := x.reads - 1 }) (fun _ => rfl)
  case acked =>
    have hlast := doRoceAck_last h hqueue hu htype hpsn hf hpart hst
    have hkept : flowOf (retireCovered .ack p.psn.toNat g s) u.owner = some f := hf
    refine ⟨_, _, congrArg Host.Outcome.next hlast, (onlyNet_modQp ..).trans (onlyNet_modFlow ..), qp_modQp h.qp _, ?_, ?_⟩
    · simp [hu, Unacked.coveredBy, htype, hpsn]
    · exact flowOf_modFlow hkept (F := fun x => { x with acked := x.acked + u.payload.length }) (fun _ => rfl)
  case sequence => exact nakSequence_resends h hu hpsn hport
  case remote =>
    refine ⟨_, congrArg Host.Outcome.next (doRoceAck_remote h code hu), ?_⟩
    refine loseGuestIfOpen_open ?_
    rw [creditCovered, hu]
    exact hst
  case cnp =>
    refine ⟨_, congrArg Host.Outcome.next (doCnp_guest hg hport), (onlyNet_modPort ..).trans (onlyNet_modQp ..), qp_modQp hq _, ?_⟩
    exact (congrArg (fun x : Port => x.cong.signals) (getPort_countSignal port s) :)
  case rate =>
    exact ⟨_, rfl, onlyNet_modQp .., qp_modQp hq _, fun k hk => (getGuest_modGuest ..).trans (if_neg hk)⟩
  case unsupported =>
    refine ⟨_, congrArg Host.Outcome.next (doUnsupportedOp_guest hport hg hq he), onlyNet_roceNak .., roceQueued_roceNak .., nak_roceNak ..⟩
  case stranger =>
    refine ⟨_, _, strangerNak port src psn s, congrArg Host.Outcome.next (doUnsupportedOp_stranger hport hg),
      (onlyNet_modPort ..).trans (onlyNet_queueFrame ..),
      (frameQueued_queueFrame ..).trans (by rw [getPort_countNak]), rfl, rfl, rfl, rfl, ?_⟩
    exact (congrArg NetPortErrReg.nak (err_queueFrame ..)).trans (by rw [getPort_countNak])
  case givenUp =>
    have hkept : getCmd (modGuest g (fun x => { x with openCmd := none, openArgs := none }) (endTransport g s)) id = some c :=
      ((endTransport_rest g s).getCmd id).trans hc
    obtain ⟨d, -, hdone⟩ := (finishCmd_done stGuestLost 0 hkept hphase).cmd
    refine ⟨_, _, congrArg Host.Outcome.next (doTransportTimeout_opening ho), ?_, ?_, hdone, rfl, rfl, ?_⟩
    · rw [getGuest_finishCmd, getGuest_modGuest_self]
    · rw [getGuest_finishCmd, getGuest_modGuest_self]
      exact transport_endTransport g s
    · exact (congrArg State.mem (finishCmd_rest ..)).trans (endTransport_rest g s).mem
  case timedOut => exact ⟨_, congrArg Host.Outcome.next (doTransportTimeout_open ho hw), loseGuestIfOpen_open hst⟩
  case idle => exact congrArg Host.Outcome.next (if_pos (by rw [hw]; rfl))

end Sys2Proof.Machine
end

section
/-! PROOFS. Relay links (R379 to R387, R395, R404, R405): what sending changes of the network engine, the frames that join a port's queue, the
checks on a packet that arrives, and what a connection is once it has taken one. -/

namespace Sys2Proof.Machine

-- ports and connections, and nothing else

/-- A state with other ports and other connections. -/
def State.withLinks (s : State) (ports : Tab Port) (conns : Tab (Option Conn)) : State :=
  { s with net := { s.net with ports := ports, conns := conns } }

/-- Nothing but ports and connections has changed. -/
def OnlyLinks (s t : State) : Prop := t = s.withLinks t.net.ports t.net.conns

theorem OnlyLinks.refl (s : State) : OnlyLinks s s := rfl

theorem OnlyLinks.trans {s t u : State} (h : OnlyLinks s t) (k : OnlyLinks t u) : OnlyLinks s u := by
  unfold OnlyLinks at h k ⊢
  calc u = t.withLinks u.net.ports u.net.conns := k
    _ = (s.withLinks t.net.ports t.net.conns).withLinks u.net.ports u.net.conns := by rw [← h]
    _ = s.withLinks u.net.ports u.net.conns := rfl

/-- What does not depend on ports and connections is as before. -/
theorem OnlyLinks.part {β : Type} {s t : State} (h : OnlyLinks s t) (f : State → β) (hf : ∀ ps cs, f (s.withLinks ps cs) = f s) : f t = f s :=
  (congrArg f h).trans (hf _ _)

theorem OnlyLinks.onlyNet {s t : State} (h : OnlyLinks s t) : OnlyNet s t :=
  h.part (fun u => ({ u with net := s.net } : State)) (fun _ _ => rfl)

theorem onlyLinks_setConn (id : Nat) (v : Option Conn) (s : State) : OnlyLinks s (setConn id v s) := rfl
theorem onlyLinks_modConn (id : Nat) (f : Conn → Conn) (s : State) : OnlyLinks s (modConn id f s) := rfl
theorem onlyLinks_sendRelay (id cls : Nat) (p : Peer) (x : RelayTx) (s : State) : OnlyLinks s (sendRelay id cls p x s) := rfl
theorem onlyLinks_countNak (n : Nat) (s : State) : OnlyLinks s (countNak n s) := rfl
theorem onlyLinks_noConn (n : Nat) (h : IpHdr) (psn : Nat) (s : State) : OnlyLinks s (noConn n h psn s) := rfl

theorem onlyLinks_forEach {α : Type} {f : α → State → State} (h : ∀ x t, OnlyLinks t (f x t)) (xs : List α) (s : State) :
    OnlyLinks s (forEach xs f s) :=
  forEach_preserves (P := OnlyLinks s) (fun x t ht => ht.trans (h x t)) xs (.refl s)

theorem onlyLinks_sendAck (id : Nat) (s : State) : OnlyLinks s (sendAck id s) := by
  unfold sendAck
  split
  · rfl
  · split
    · rfl
    · exact (onlyLinks_setConn ..).trans (onlyLinks_sendRelay ..)

theorem onlyLinks_sendNak (id port psn code : Nat) (s : State) : OnlyLinks s (sendNak id port psn code s) := by
  unfold sendNak
  split
  · rfl
  · exact ((onlyLinks_setConn ..).trans (onlyLinks_countNak ..)).trans (onlyLinks_sendRelay ..)

-- frames (R381, R384 to R386, R395)

theorem getPort_queueFrame (n : Nat) (f : TxFrame) (s : State) :
    getPort (queueFrame n f s) n = { getPort s n with txq := (getPort s n).txq ++ [f] } := by
  unfold queueFrame
  rw [getPort_modPort, if_pos rfl]

theorem getConn_sendRelay (id cls : Nat) (p : Peer) (x : RelayTx) (s : State) (k : Nat) : getConn (sendRelay id cls p x s) k = getConn s k := rfl

/-- A packet joins the queue of its port, with the headers that stood before. -/
theorem relayQueued_sendRelay (id cls : Nat) (p : Peer) {x : RelayTx} {s u : State} (hhdr : relayHdr u x.port p x.psn = relayHdr s x.port p x.psn)
    (htxq : (getPort u x.port).txq = (getPort s x.port).txq) : RelayQueued id cls p x s (sendRelay id cls p x u) := by
  unfold RelayQueued FrameQueued sendRelay
  dsimp only
  rw [getPort_queueFrame, hhdr, htxq]

/-- The body of an acknowledgement, its packet, and the connection that has sent it (R385). -/
def Conn.ackBytes (c : Conn) : List Byte :=
  wordBytes 4 (BitVec.ofNat 32 c.ceBytes) ++ [BitVec.ofNat 8 c.sacks.length, 0#8, 0#8, 0#8] ++
    c.sacks.flatMap (fun r => wordBytes 4 (BitVec.ofNat 32 r.1) ++ wordBytes 4 (BitVec.ofNat 32 r.2))
def Conn.ackPacket (port : Nat) (c : Conn) : RelayTx :=
  { port := port, ip := noHdr, type := 2, conn := c.remoteId, psn := c.rxCum, payload := c.ackBytes }
def Conn.acknowledged (port : Nat) (c : Conn) : Conn := { c with rxSinceAck := 0, ceBytes := 0, nextPort := (port + 1) % 8 }

section
variable {id : Nat} {c : Conn} {s : State} (hc : getConn s id = some c)
include hc

theorem sendAck_noPort (hp : pickPort s c.peer c.nextPort = none) : sendAck id s = s := by
  unfold sendAck
  simp only [hc, hp]

theorem sendAck_port {port : Nat} (hp : pickPort s c.peer c.nextPort = some port) :
    sendAck id s = sendRelay id 1 c.peer (c.ackPacket port) (setConn id (some (c.acknowledged port)) s) := by
  unfold sendAck
  simp only [hc, hp]
  rfl

theorem getConn_sendAck : ∃ n b p, getConn (sendAck id s) id = some { c with rxSinceAck := n, ceBytes := b, nextPort := p } := by
  cases hp : pickPort s c.peer c.nextPort with
  | none => exact ⟨_, _, _, by rw [sendAck_noPort hc hp]; exact hc⟩
  | some port =>
    rw [sendAck_port hc hp]
    exact ⟨_, _, _, (getConn_sendRelay ..).trans ((getConn_setConn ..).trans (if_pos rfl))⟩

/-- An acknowledgement leaves: its packet, and the connection that has none due. -/
theorem sendAck_queued {port : Nat} (hp : pickPort s c.peer c.nextPort = some port) :
    RelayQueued id 1 c.peer (c.ackPacket port) s (sendAck id s) ∧ getConn (sendAck id s) id = some (c.acknowledged port) := by
  rw [sendAck_port hc hp]
  exact ⟨relayQueued_sendRelay id 1 c.peer rfl rfl, (getConn_sendRelay ..).trans ((getConn_setConn ..).trans (if_pos rfl))⟩

/-- The packet of a refusal on a connection (R386). -/
def Conn.nakPacket (port psn code : Nat) (c : Conn) : RelayTx :=
  { port := port, ip := noHdr, type := 3, conn := c.remoteId, psn := psn, payload := [BitVec.ofNat 8 code] }

theorem sendNak_conn (port psn code : Nat) : sendNak id port psn code s =
    sendRelay id 1 c.peer (c.nakPacket ((pickPort s c.peer c.nextPort).getD port) psn code) (countNak ((pickPort s c.peer c.nextPort).getD port)
      (setConn id (some { c with nextPort := ((pickPort s c.peer c.nextPort).getD port + 1) % 8 }) s)) := by
  unfold sendNak
  rw [hc]
  rfl

theorem nakLast_sendNak (port psn code : Nat) : NakLast c psn (BitVec.ofNat 8 code) (sendNak id port psn code s) := by
  rw [sendNak_conn hc]
  unfold sendRelay
  refine ⟨_, _, _, (congrArg (fun q : Port => q.txq.getLast?) (getPort_queueFrame ..)).trans List.getLast?_concat, rfl, rfl, rfl, rfl, rfl⟩

end

theorem NakLast.of_remote {c d : Conn} {psn : Nat} {code : Byte} {t : State} (h : NakLast d psn code t) (hr : d.remoteId = c.remoteId) :
    NakLast c psn code t := by
  obtain ⟨n, f, x, hf, hx, htype, hconn, hrest⟩ := h
  exact ⟨n, f, x, hf, hx, htype, hconn.trans hr, hrest⟩

/-- The refusal that goes back to where a packet of no connection came from (R386). -/
theorem noConn_answers (port : Nat) (h : IpHdr) (psn : Nat) (s : State) :
    ∃ x, (getPort (noConn port h psn s) port).txq = (getPort s port).txq ++ [x] ∧
      (∃ y, x.msg = .relay y ∧ y.type = 3 ∧ y.psn = psn ∧ y.payload = [4#8] ∧ y.ip.dst = h.src ∧ y.ip.src = h.dst) ∧
      (getPort (noConn port h psn s) port).err = { (getPort s port).err with nak := satInc (getPort s port).err.nak } := by
  unfold noConn sendOwn
  dsimp only
  rw [getPort_queueFrame, getPort_countNak]
  exact ⟨_, rfl, ⟨_, rfl, rfl, rfl, rfl, rfl, rfl⟩, rfl⟩

-- the checks on arrival (R378, R380, R382)

section
variable {port : Nat} {fcsOk crcOk : Bool} {ip : IpHdr} {dport : BitVec 16} {s : State} (act : State → State)

theorem rxFrame_down (hp : portUp s port = false) : rxFrame port fcsOk crcOk ip dport act s = s := if_pos (by rw [hp]; rfl)

theorem rxFrame_foreign (hp : portUp s port = true) (h : fcsOk = false ∨ addressed s port ip.v6 ip.dst = false ∨ ip.dport ≠ dport) :
    rxFrame port fcsOk crcOk ip dport act s = dropFrame port s := by
  refine (if_neg (by simp [hp])).trans (if_pos ?_)
  rcases h with h | h | h <;> simp [h]

theorem rxFrame_crc (hp : portUp s port = true) (hf : fcsOk = true) (ha : addressed s port ip.v6 ip.dst = true) (hd : ip.dport = dport)
    (hc : crcOk = false) : rxFrame port fcsOk crcOk ip dport act s = modPort port (fun p => { p with err := { p.err with crc := satInc p.err.crc } }) s :=
  (if_neg (by simp [hp])).trans ((if_neg (by simp [hf, ha, hd])).trans (if_pos (by simp [hc])))

theorem rxFrame_fits (h : FrameFits port fcsOk crcOk ip dport s) : rxFrame port fcsOk crcOk ip dport act s = act s := by
  obtain ⟨hp, hf, hc, ha, hd, hce⟩ := h
  unfold rxFrame
  simp [hp, hf, hc, ha, hd, hce]

variable (actOn : Nat → Conn → State → State) {conn psn : BitVec 32} (opening : Bool) (h : FrameFits port fcsOk crcOk ip s.net.cfgEff.relayUdp s)
include h

theorem rxPacket_stranger (hno : getConn s conn.toNat = none ∨ ∃ c, getConn s conn.toNat = some c ∧ peerHas s c.peer ip.src = false) :
    rxPacket port fcsOk crcOk ip conn psn opening actOn s = noConn port ip psn.toNat s := by
  refine (rxFrame_fits _ h).trans ?_
  rcases hno with hno | ⟨c, hc, hsrc⟩
  · rw [hno]
  · rw [hc]
    exact if_neg (by simp [hsrc])

theorem rxPacket_conn {c : Conn} (hc : getConn s conn.toNat = some c) (ho : c.opened = true) (hsrc : peerHas s c.peer ip.src = true) :
    rxPacket port fcsOk crcOk ip conn psn opening actOn s = actOn conn.toNat c s := by
  refine (rxFrame_fits _ h).trans ?_
  rw [hc]
  exact if_pos (by simp [ho, hsrc])

end

-- receiving in sequence (R385)

/-- One round of the cumulative PSN's advance over what is complete. -/
def Conn.advance (d : Conn) : Conn :=
  if d.rxAbove.contains d.rxCum then { d with rxAbove := d.rxAbove.filter (· != d.rxCum), rxCum := (d.rxCum + 1) % 2 ^ 32 } else d

/-- Two connections differ at most in what they have received. -/
def Conn.SameButReceived (c d : Conn) : Prop := d = { c with rxCum := d.rxCum, rxAbove := d.rxAbove }

theorem Conn.SameButReceived.advance {c d : Conn} (h : c.SameButReceived d) : c.SameButReceived d.advance := by
  unfold Conn.advance
  split
  · unfold Conn.SameButReceived at h ⊢
    rw [h]
  · exact h

theorem Conn.receive_eq (c : Conn) (psn : Nat) : c.SameButReceived (c.receive psn) := by
  have hrounds (xs : List Nat) (d : Conn) (hd : c.SameButReceived d) : c.SameButReceived (xs.foldl (fun d _ => d.advance) d) := by
    induction xs generalizing d with
    | nil => exact hd
    | cons x xs ih => exact ih _ hd.advance
  unfold Conn.receive
  split
  · rfl
  · exact hrounds _ { c with rxAbove := psn :: c.rxAbove } rfl

/-- A connection that has taken a packet of the sequence is otherwise as before. -/
structure Conn.Took (c : Conn) (psn : Nat) (d : Conn) : Prop where
  peer : d.peer = c.peer
  remoteId : d.remoteId = c.remoteId
  opened : d.opened = c.opened
  queue : d.queue = c.queue
  ctrlq : d.ctrlq = c.ctrlq
  unacked : d.unacked = c.unacked
  reads : d.reads = c.reads
  window : d.window = c.window
  rxCum : d.rxCum = (c.receive psn).rxCum
  rxAbove : d.rxAbove = (c.receive psn).rxAbove

/-- The connection as it is entered once it has taken a packet, with what it has received then. -/
def Conn.entered (c : Conn) (cum : Nat) (above : List Nat) (psn len : Nat) (ce ends : Bool) : Conn :=
  { c with
    rxCum := cum, rxAbove := above, rxSinceAck := c.rxSinceAck + 1, ceBytes := c.ceBytes + (if ce then len else 0)
    rxOpen := (if ends then c.rxOpen else psn :: c.rxOpen).filter (fun p => !psnBefore (p + 1) cum) }

theorem Conn.took_entered {c : Conn} {cum psn : Nat} {above : List Nat} (hcum : cum = (c.receive psn).rxCum) (habove : above = (c.receive psn).rxAbove)
    (len : Nat) (ce ends : Bool) : c.Took psn (c.entered cum above psn len ce ends) where
  peer := rfl
  remoteId := rfl
  opened := rfl
  queue := rfl
  ctrlq := rfl
  unacked := rfl
  reads := rfl
  window := rfl
  rxCum := hcum
  rxAbove := habove

/-- What takePsn does with a connection, given what it is once it has received the packet. -/
def takeAs (id psn len : Nat) (ce ends : Bool) (before c : Conn) (s : State) : State :=
  let gap := psn != before.rxCum
  let c := { c with
    rxSinceAck := c.rxSinceAck + 1, ceBytes := c.ceBytes + (if ce then len else 0)
    rxOpen := (if ends then c.rxOpen else psn :: c.rxOpen).filter (fun p => !psnBefore (p + 1) c.rxCum) }
  let s := setConn id (some c) s
  if gap || decide (s.net.relayEff.ackPkts.toNat ≤ c.rxSinceAck) then sendAck id s else s

section
variable {id : Nat} {c : Conn} {s : State} (hc : getConn s id = some c) (psn len : Nat) (ce ends : Bool)
include hc

theorem takePsn_eq : takePsn id psn len ce ends s = takeAs id psn len ce ends c (c.receive psn) s := by
  unfold takePsn
  rw [hc]
  rfl

theorem takePsn_conn : ∃ cum above, cum = (c.receive psn).rxCum ∧ above = (c.receive psn).rxAbove ∧ takePsn id psn len ce ends s =
    if (psn != c.rxCum || decide (s.net.relayEff.ackPkts.toNat ≤ c.rxSinceAck + 1)) = true then
      sendAck id (setConn id (some (c.entered cum above psn len ce ends)) s)
    else setConn id (some (c.entered cum above psn len ce ends)) s := by
  have hr := Conn.receive_eq c psn
  rw [takePsn_eq hc]
  generalize c.receive psn = r at hr ⊢
  refine ⟨r.rxCum, r.rxAbove, rfl, rfl, ?_⟩
  rw [hr]
  rfl

theorem onlyLinks_takePsn_conn : OnlyLinks s (takePsn id psn len ce ends s) := by
  obtain ⟨cum, above, -, -, he⟩ := takePsn_conn hc psn len ce ends
  rw [he]
  split
  · exact (onlyLinks_setConn ..).trans (onlyLinks_sendAck ..)
  · exact onlyLinks_setConn ..

theorem getConn_takePsn : ∃ d, getConn (takePsn id psn len ce ends s) id = some d ∧ c.Took psn d := by
  obtain ⟨cum, above, hcum, habove, he⟩ := takePsn_conn hc psn len ce ends
  have htook := Conn.took_entered hcum habove len ce ends
  generalize c.entered cum above psn len ce ends = e at he htook
  have hset : getConn (setConn id (some e) s) id = some e := (getConn_setConn ..).trans (if_pos rfl)
  rw [he]
  split
  · obtain ⟨n, b, p, h⟩ := getConn_sendAck hset
    exact ⟨_, h, htook.peer, htook.remoteId, htook.opened, htook.queue, htook.ctrlq, htook.unacked, htook.reads, htook.window, htook.rxCum, htook.rxAbove⟩
  · exact ⟨_, hset, htook⟩

/-- With a port to take it, an acknowledgement that is due leaves at once. -/
theorem rxSinceAck_takePsn {d : Conn} {port : Nat} (hd : getConn (takePsn id psn len ce ends s) id = some d)
    (hp : pickPort s c.peer c.nextPort = some port) :
    d.rxSinceAck = if psn ≠ c.rxCum ∨ s.net.relayEff.ackPkts.toNat ≤ c.rxSinceAck + 1 then 0 else c.rxSinceAck + 1 := by
  have hdue : (psn != c.rxCum || decide (s.net.relayEff.ackPkts.toNat ≤ c.rxSinceAck + 1)) = true ↔
      psn ≠ c.rxCum ∨ s.net.relayEff.ackPkts.toNat ≤ c.rxSinceAck + 1 := by simp
  obtain ⟨cum, above, -, -, he⟩ := takePsn_conn hc psn len ce ends
  have hsince : (c.entered cum above psn len ce ends).rxSinceAck = c.rxSinceAck + 1 := rfl
  have hpe : pickPort s (c.entered cum above psn len ce ends).peer (c.entered cum above psn len ce ends).nextPort = some port := hp
  generalize c.entered cum above psn len ce ends = e at he hsince hpe
  have hset : getConn (setConn id (some e) s) id = some e := (getConn_setConn ..).trans (if_pos rfl)
  rw [he] at hd
  split at hd
  next h =>
    rw [(sendAck_queued (s := setConn id (some e) s) hset hpe).2] at hd
    rw [if_pos (hdue.1 h)]
    cases hd
    rfl
  next h =>
    rw [hset] at hd
    rw [if_neg (fun hn => h (hdue.2 hn))]
    cases hd
    exact hsince

end

theorem onlyLinks_takePsn (id psn len : Nat) (ce ends : Bool) (s : State) : OnlyLinks s (takePsn id psn len ce ends s) := by
  cases hc : getConn s id with
  | none =>
    unfold takePsn
    rw [hc]
    rfl
  | some c => exact onlyLinks_takePsn_conn hc ..

-- a connection that has nothing to send (R387)

theorem pumpCtrl_empty {id : Nat} {c : Conn} {s : State} (hc : getConn s id = some c) (hctrl : c.ctrlq = []) : pumpCtrl id s = s := by
  unfold pumpCtrl
  simp only [hc, hctrl]
  rfl

theorem pumpConn_empty {id : Nat} {c : Conn} {s : State} (hc : getConn s id = some c) (hq : c.queue = []) (hctrl : c.ctrlq = []) :
    pumpConn id s = s := by
  unfold pumpConn
  simp only [pumpCtrl_empty hc hctrl, hc]
  exact forEach_fixed (fun _ => sendDataNow_of_empty hc hq) _

end Sys2Proof.Machine
end

section
/-! PROOFS. The Relay engine (R378, R382, R385 to R387, R389, R396, R398 to R402; O42): each packet that passes its checks, and each timer of a
connection, by the equation of its case. -/

namespace Sys2Proof.Machine

-- what does not depend on ports and connections

section
variable {s t : State} (h : OnlyLinks s t)
include h

theorem OnlyLinks.flowOf (o : TxOwner) : Machine.flowOf t o = Machine.flowOf s o := h.part (fun u => Machine.flowOf u o) (fun _ _ => rfl)
theorem OnlyLinks.getGuest (g : Nat) : Machine.getGuest t g = Machine.getGuest s g := h.part (fun u => Machine.getGuest u g) (fun _ _ => rfl)

theorem OnlyLinks.guestRefused (g : Nat) (write : Bool) (a n : Nat) : Machine.guestRefused t g write a n = Machine.guestRefused s g write a n :=
  h.part (fun u => Machine.guestRefused u g write a n) (fun _ _ => rfl)

end

/-- The peer's connection is kept: the peer is a device, or a guest whose pigeonhole is not closed. -/
def PeerHeld (p : Peer) (s : State) : Prop := ∀ g, p = .guest g → (getPh s (64 + g)).st ≠ .closed

theorem reapPeer_held {p : Peer} {s : State} (h : PeerHeld p s) : reapPeer p s = s := by
  unfold reapPeer
  split
  · next g => exact reapGuest_held (h g rfl)
  · rfl

-- frames that fail a check (R378, R382, R386)

/-- Every packet of R381 meets the checks of R382 first. -/
theorem relay_checked {p : RelayPkt} {a : AckBody} {code target len : Nat} {i : Instr} (s : State)
    (hi : i ∈ [Instr.data p, .ack p a, .nak p code, .read p target len, .readResp p]) :
    ∃ opening act, exec i s = .next (rxPacket p.port p.fcsOk p.crcOk p.ip p.conn p.psn opening act s) := by
  simp only [List.mem_cons, List.not_mem_nil, or_false] at hi
  rcases hi with rfl | rfl | rfl | rfl | rfl <;> exact ⟨_, _, rfl⟩

theorem err_dropFrame (n : Nat) (s : State) :
    (getPort (dropFrame n s) n).err = { (getPort s n).err with fcs := satInc (getPort s n).err.fcs } := by
  unfold dropFrame
  rw [getPort_modPort, if_pos rfl]

-- packets that pass (R382)

section
variable {p : RelayPkt} {c : Conn} {s : State} (h : RelayFits p c s)
include h

theorem rxPacket_relayFits (act : Nat → Conn → State → State) (opening : Bool) :
    rxPacket p.port p.fcsOk p.crcOk p.ip p.conn p.psn opening act s = act p.conn.toNat c s :=
  rxPacket_conn act opening h.frame h.conn h.opened h.src

/-- A packet received before is acknowledged, and nothing else (R385). -/
theorem relay_seen (hseen : c.seen p.psn.toNat = true) {target len : Nat} {i : Instr} (hi : i ∈ [Instr.data p, .read p target len, .readResp p]) :
    exec i s = .next (sendAck p.conn.toNat s) := by
  simp only [List.mem_cons, List.not_mem_nil, or_false] at hi
  rcases hi with rfl | rfl | rfl
  · exact congrArg Host.Outcome.next ((rxPacket_relayFits h _ _).trans (if_pos hseen))
  · exact congrArg Host.Outcome.next ((rxPacket_relayFits h _ _).trans (if_pos hseen))
  · exact congrArg Host.Outcome.next ((rxPacket_relayFits h _ _).trans (if_pos hseen))

/-- A packet is taken in the sequence. -/
def taken (p : RelayPkt) (ends : Bool) (s : State) : State := takePsn p.conn.toNat p.psn.toNat p.payload.length p.ce ends s

-- DATA (R385, R389, R396, R398 to R400)

section
variable (hnew : c.seen p.psn.toNat = false)
include hnew

theorem doData_guest {g : Nat} (hg : c.peer = .guest g) : doData p s = guestData p p.conn.toNat c g s := by
  refine (rxPacket_relayFits h _ _).trans ((if_neg (ne_true_of_eq_false hnew)).trans ?_)
  rw [hg]

theorem doData_device {d : Word} (hd : c.peer = .device d) : doData p s = peerData p p.conn.toNat c s := by
  refine (rxPacket_relayFits h _ _).trans ((if_neg (ne_true_of_eq_false hnew)).trans ?_)
  rw [hd]

theorem doData_lands {g : Nat} {s1 : State} (hg : c.peer = .guest g) (hfree : guestRefused s g true p.addr.toNat p.payload.length = false)
    (hcut : iodCut s = false)
    (harea : touchesArea s p.addr.toNat p.payload.length = true →
      p.last = true ∧ c.rxOpen.contains ((p.psn.toNat + 2 ^ 32 - 1) % 2 ^ 32) = false ∧ c.seen ((p.psn.toNat + 2 ^ 32 - 1) % 2 ^ 32) = true)
    (hwrite : homeWriteBytes .network p.addr.toNat p.payload s = (true, s1)) :
    doData p s = taken p p.last
      (if p.immValid then settleGuestRecvs g (noteImm g p.imm p.addr.toNat p.payload.length s1) else s1) := by
  have hland : netWrite .network p.addr.toNat p.payload s = (true, s1) := by
    unfold netWrite
    rw [hcut]
    exact hwrite
  generalize hbefore : (p.psn.toNat + 2 ^ 32 - 1) % 2 ^ 32 = before at harea
  have hpass : (guestRefused s g true p.addr.toNat p.payload.length ||
      (touchesArea s p.addr.toNat p.payload.length && (!p.last || c.rxOpen.contains before))) = false := by
    cases ht : touchesArea s p.addr.toNat p.payload.length with
    | false => rw [hfree, Bool.false_and, Bool.false_or]
    | true =>
      obtain ⟨hlast, hopen, -⟩ := harea ht
      rw [hfree, hlast, hopen]
      rfl
  have hknown : (touchesArea s p.addr.toNat p.payload.length && !c.seen before) = false := by
    cases ht : touchesArea s p.addr.toNat p.payload.length with
    | false => rfl
    | true => rw [(harea ht).2.2]; rfl
  rw [doData_guest h hnew hg]
  unfold guestData
  simp only [hbefore, hpass, hknown, hland, Bool.not_true, Bool.false_eq_true, if_false]
  rfl

theorem doData_refused {g : Nat} (hg : c.peer = .guest g) (hbad : guestRefused s g true p.addr.toNat p.payload.length = true) :
    doData p s = sendNak p.conn.toNat p.port p.psn.toNat 2 (taken p p.last s) := by
  rw [doData_guest h hnew hg]
  exact if_pos (by rw [hbad, Bool.true_or])

section
variable {d : Word} (hd : c.peer = .device d)
include hd

theorem doData_landsRecv {r : RecvX} {s1 : State} (hr : recvFor s c.peer p.imm p.ord.toNat = some r)
    (hfit : p.addr.toNat + p.payload.length ≤ r.len) (hland : landRecv r p.addr.toNat p.payload s = (true, s1)) : doData p s = taken p p.last s1 := by
  rw [doData_device h hnew hd]
  unfold peerData
  simp only [hr, Nat.not_lt.2 hfit, hland, if_false, if_true]
  rfl

theorem doData_tooLong {r : RecvX} (hr : recvFor s c.peer p.imm p.ord.toNat = some r) (hfit : r.len < p.addr.toNat + p.payload.length)
    (hposted : r.posted = false) : doData p s = sendNak p.conn.toNat p.port p.psn.toNat 3 (taken p p.last s) := by
  rw [doData_device h hnew hd]
  unfold peerData
  simp only [hr, hfit, hposted, if_true, Bool.false_eq_true, if_false]
  rfl

theorem doData_notReady (hr : recvFor s c.peer p.imm p.ord.toNat = none) (hstale : staleTag s c.peer p.imm = false) :
    doData p s = sendNak p.conn.toNat p.port p.psn.toNat 1 s := by
  rw [doData_device h hnew hd]
  unfold peerData
  simp only [hr, hstale, Bool.false_eq_true, if_false]

end

-- READ and READ_RESP (R381, R396, R402)

theorem doRead_device {target len : Nat} {d : Word} (hd : c.peer = .device d) :
    doRead p target len s = sendNak p.conn.toNat p.port p.psn.toNat 2 (taken p true s) := by
  refine (rxPacket_relayFits h _ _).trans ((if_neg (ne_true_of_eq_false hnew)).trans ?_)
  rw [hd]
  rfl

theorem doRead_guest {target len g : Nat} (hg : c.peer = .guest g) : doRead p target len s =
    if guestRefused s g false target len then sendNak p.conn.toNat p.port p.psn.toNat 2 (taken p true s)
    else if len = 0 then taken p true s
    else pumpConn p.conn.toNat (queueConn p.conn.toNat
      { owner := .resp, type := 5, addr := 0, len := len, src := .mem target, ord := p.ord.toNat } (taken p true s)) := by
  have hsame : guestRefused (taken p true s) g false target len = guestRefused s g false target len := (onlyLinks_takePsn ..).guestRefused ..
  refine (rxPacket_relayFits h _ _).trans ((if_neg (ne_true_of_eq_false hnew)).trans ?_)
  rw [hg, ← hsame]
  rfl

end

/-- A NAK with a code goes out for a packet that has been taken, or not. -/
theorem nakLast_taken (ends : Bool) (port code : Nat) :
    NakLast c p.psn.toNat (BitVec.ofNat 8 code) (sendNak p.conn.toNat port p.psn.toNat code (taken p ends s)) := by
  obtain ⟨d, hd, htook⟩ := getConn_takePsn h.conn p.psn.toNat p.payload.length p.ce ends
  exact (nakLast_sendNak hd port p.psn.toNat code).of_remote htook.remoteId

end

-- acknowledgements (R385, R387)

/-- A connection whose packets before a PSN have been acknowledged, with the congestion window that follows (R387). -/
def Conn.retired (psn wmax gShift : Nat) (c : Conn) : Conn :=
  let acked := c.unacked.filter (fun u => psnBefore u.psn psn)
  { c with unacked := c.unacked.filter (fun u => !psnBefore u.psn psn) }.congest wmax gShift acked.length
    ((acked.map (fun u : Unacked => u.payload.length)).foldl (· + ·) 0) 0

theorem Conn.congest_keeps (c : Conn) (wmax gShift pkts bytes ce : Nat) :
    (c.congest wmax gShift pkts bytes ce).unacked = c.unacked ∧ (c.congest wmax gShift pkts bytes ce).queue = c.queue ∧
    (c.congest wmax gShift pkts bytes ce).ctrlq = c.ctrlq ∧ (c.congest wmax gShift pkts bytes ce).peer = c.peer := by
  unfold Conn.congest
  dsimp only
  split <;> exact ⟨rfl, rfl, rfl, rfl⟩

theorem Conn.retired_keeps (psn wmax gShift : Nat) (c : Conn) :
    (c.retired psn wmax gShift).unacked = c.unacked.filter (fun u => !psnBefore u.psn psn) ∧ (c.retired psn wmax gShift).queue = c.queue ∧
    (c.retired psn wmax gShift).ctrlq = c.ctrlq ∧ (c.retired psn wmax gShift).peer = c.peer := Conn.congest_keeps ..

/-- The connection that an acknowledgement leaves. -/
def retiredBy (p : RelayPkt) (c : Conn) (s : State) : Conn := c.retired p.psn.toNat s.net.relayEff.wmax.toNat s.net.relayEff.gShift.toNat

/-- The packets before a PSN are retired, and credited to their transfers. -/
def retireBefore (p : RelayPkt) (c : Conn) (s : State) : State :=
  setConn p.conn.toNat (some (retiredBy p c s)) s
def creditBefore (p : RelayPkt) (c : Conn) (s : State) : State :=
  forEach (c.unacked.filter (fun u => psnBefore u.psn p.psn.toNat)) (fun u t => if u.type = 1 then creditFlow u.owner u.payload.length t else t)
    (retireBefore p c s)

theorem getConn_retireBefore (p : RelayPkt) (c : Conn) (s : State) : getConn (retireBefore p c s) p.conn.toNat = some (retiredBy p c s) :=
  (getConn_setConn ..).trans (if_pos rfl)

/-- A packet that SACK ranges show lost is sent again, once (R385). -/
def resendDue (id : Nat) (sack : List (Nat × Nat)) (u : Unacked) (s : State) : State :=
  if !u.bySack && decide (s.net.relayEff.dupThresh.toNat ≤ sackedAbove u sack) then resend id u s else s

/-- An acknowledgement without SACK ranges sends nothing again. -/
theorem resendDue_noSack {id : Nat} {u : Unacked} {s : State} (hdup : s.net.relayEff.dupThresh ≠ 0#4) : resendDue id [] u s = s := by
  have hpos : ¬ s.net.relayEff.dupThresh.toNat ≤ 0 := fun h => hdup (BitVec.eq_of_toNat_eq (Nat.le_zero.1 h))
  refine if_neg ?_
  rw [show sackedAbove u [] = 0 from rfl, decide_eq_false hpos, Bool.and_false]
  exact Bool.false_ne_true

section
variable {p : RelayPkt} {c : Conn} {s : State} (h : RelayFits p c s)
include h

theorem doAck_plain {a : AckBody} (hsack : a.sack = []) (hce : a.ceBytes = 0) : doAck p a s = reapPeer (retiredBy p c s).peer (pumpConn p.conn.toNat
    (forEach (c.unacked.filter (fun u => !psnBefore u.psn p.psn.toNat)) (resendDue p.conn.toNat []) (creditBefore p c s))) := by
  have hgot (x : Unacked) : (psnBefore x.psn p.psn.toNat || inSack x.psn []) = psnBefore x.psn p.psn.toNat := Bool.or_false _
  refine (rxPacket_relayFits h _ _).trans ?_
  simp only [hsack, hce, hgot, Nat.lt_irrefl, if_false]
  rfl

/-- An acknowledgement that leaves nothing to send does no more than credit what it covers. -/
theorem doAck_quiet {a : AckBody} (hq : c.queue = []) (hctrl : c.ctrlq = []) (hsack : a.sack = []) (hce : a.ceBytes = 0)
    (hdup : s.net.relayEff.dupThresh ≠ 0#4) (hheld : PeerHeld c.peer s) {u : State} (hu : creditBefore p c s = u)
    (hrelay : u.net.relayEff = s.net.relayEff) (hinnk : u.innk = s.innk) (hconn : getConn u p.conn.toNat = some (retiredBy p c s)) :
    doAck p a s = u := by
  obtain ⟨-, hdq, hdctrl, hdpeer⟩ := Conn.retired_keeps p.psn.toNat s.net.relayEff.wmax.toNat s.net.relayEff.gShift.toNat c
  rw [doAck_plain h hsack hce, hu, forEach_fixed (fun _ => resendDue_noSack (by rw [hrelay]; exact hdup)),
    pumpConn_empty hconn (hdq.trans hq) (hdctrl.trans hctrl)]
  refine reapPeer_held fun g hg => ?_
  rw [getPh_of_phs (congrArg Innkeeper.phs hinnk)]
  exact hheld g (hdpeer.symm.trans hg)

end


end Sys2Proof.Machine
end

section
/-! PROOFS. The Relay engine (O42): refusals and read-backs that arrive, what leaves again, and the obligation. -/

namespace Sys2Proof.Machine

-- what is abandoned (R283, R386)

theorem tabGet_map {α β : Type} {f : α → β} {d : α} {e : β} (hd : f d = e) (t : Tab α) (n : Nat) :
    tabGet e (t.map (fun p => (p.1, f p.2))) n = f (tabGet d t n) := by
  induction t with
  | nil => exact hd.symm
  | cons p t ih =>
    rw [List.map_cons]
    unfold tabGet
    rw [ih]
    split <;> rfl

/-- A packet on its way for an owner counts for nobody any more; a connection without what is queued and awaited for an owner. -/
def Unacked.orphaned (mine : TxOwner → Bool) (u : Unacked) : Unacked := if mine u.owner then { u with owner := .dropped } else u
def Conn.without (mine : TxOwner → Bool) (c : Conn) : Conn :=
  { c with
    queue := c.queue.filter (fun r => !mine r.owner), reads := c.reads.filter (fun r => !mine r.owner)
    unacked := c.unacked.map (Unacked.orphaned mine) }

theorem getConn_dropTx (mine : TxOwner → Bool) (s : State) (id : Nat) : getConn (dropTx mine s) id = (getConn s id).map (Conn.without mine) :=
  tabGet_map (f := Option.map (Conn.without mine)) (d := none) (e := none) rfl s.net.conns id

theorem Unacked.orphaned_psn (mine : TxOwner → Bool) (u : Unacked) : (u.orphaned mine).psn = u.psn := by
  unfold Unacked.orphaned
  split <;> rfl

theorem getConn_finishCmd (id : Nat) (st : BitVec 16) (res : Nat) (s : State) (k : Nat) : getConn (finishCmd id st res s) k = getConn s k :=
  (congrArg (fun t => getConn t k) (finishCmd_rest id st res s) :)

/-- The rest of a connection whose packet has been refused. -/
def Conn.refused (psn : Nat) (c : Conn) : Conn := { c with unacked := c.unacked.filter (fun x => x.psn != psn) }

/-- The last bytes of a read-back of a transfer count one of its read-backs as returned. -/
theorem takeRead_last {r : ReadOut} {off : Nat} {bs : List Byte} {f : Flow} {t : State} (hdst : r.dst = none)
    (hlen : r.len ≤ rangesLen (r.got ++ newRuns r.got off bs.length)) (hf : flowOf t r.owner = some f) (hreads : 2 ≤ f.reads) :
    takeRead r off bs t = (none, modFlow r.owner (fun x => { x with reads := x.reads - 1 }) t) := by
  unfold takeRead
  simp only [hdst, if_neg (Nat.not_lt.2 hlen), creditRead_part hf hreads]

section
variable {p : RelayPkt} {c : Conn} {s : State} (h : RelayFits p c s)
include h

-- refusals that arrive (R386)

theorem doNak_refused {code : Nat} {u : Unacked} (hcode : code = 2 ∨ code = 3) (hu : c.unacked.find? (fun u => u.psn == p.psn.toNat) = some u) :
    doNak p code s = pumpConn p.conn.toNat (abandonMsg u (setConn p.conn.toNat (some (c.refused u.psn)) s)) := by
  refine (rxPacket_relayFits h _ _).trans ((if_pos hcode).trans ?_)
  rw [hu]
  rfl

theorem doNak_ends_device {d : Word} (hd : c.peer = .device d) : doNak p 4 s = setConn p.conn.toNat none s := by
  refine (rxPacket_relayFits h _ _).trans ((if_neg (by decide)).trans ((if_pos rfl).trans ?_))
  rw [hd]

theorem doNak_ends_guest {g : Nat} (hg : c.peer = .guest g) : doNak p 4 s = loseGuestIfOpen g (setConn p.conn.toNat none s) := by
  refine (rxPacket_relayFits h _ _).trans ((if_neg (by decide)).trans ((if_pos rfl).trans ?_))
  rw [hg]

theorem doNak_notReady : doNak p 1 s = s :=
  (rxPacket_relayFits h _ _).trans ((if_neg (by decide)).trans (if_neg (by decide)))

/-- The connection and the memory of a state whose output buffer has been refused, and the command that has ended with it (R341, R386). -/
theorem nak_endsBuffer {code k : Nat} {u : Unacked} {kc : Cmd} (hcode : code = 2 ∨ code = 3) (hq : c.queue = []) (hctrl : c.ctrlq = [])
    (hu : c.unacked.find? (fun u => u.psn == p.psn.toNat) = some u) (howner : u.owner = .buffer k) (hk : getCmd s k = some kc)
    (hphase : kc.phase ≠ .done) :
    ∃ t d k', exec (.nak p code) s = .next t ∧ getConn t p.conn.toNat = some d ∧
      d.unacked.map (·.psn) = (c.unacked.filter (fun x => x.psn != u.psn)).map (·.psn) ∧
      getCmd t k = some k' ∧ k'.phase = .done ∧ k'.status = stDenied ∧ k'.result = BitVec.ofNat 64 u.addr ∧ t.mem = s.mem := by
  let left := dropTx (fun o => o == .buffer k) (setConn p.conn.toNat (some (c.refused u.psn)) s)
  have habandon : abandonMsg u (setConn p.conn.toNat (some (c.refused u.psn)) s) = finishCmd k stDenied u.addr left := by
    unfold abandonMsg
    rw [howner]
  have hconn : getConn (finishCmd k stDenied u.addr left) p.conn.toNat = some ((c.refused u.psn).without (fun o => o == .buffer k)) := by
    rw [getConn_finishCmd, getConn_dropTx, getConn_setConn, if_pos rfl, Option.map_some]
  have hquiet : doNak p code s = finishCmd k stDenied u.addr left := by
    rw [doNak_refused h hcode hu, habandon]
    exact pumpConn_empty hconn (congrArg (List.filter _) hq) hctrl
  obtain ⟨d, -, hdone⟩ := (finishCmd_done (s := left) stDenied u.addr hk hphase).cmd
  refine ⟨_, _, _, congrArg Host.Outcome.next hquiet, hconn, ?_, hdone, rfl, rfl, rfl, finishCmd_mem ..⟩
  exact List.map_map.trans (List.map_congr_left fun x _ => x.orphaned_psn _)

-- read-backs (R402)

/-- A connection whose READ with a number has its whole answer. -/
def Conn.readEnded (num : Nat) (c : Conn) : Conn :=
  { c with reads := c.reads.filter (fun x => x.num != num), unacked := c.unacked.filter (fun u => !(u.type == 4 && u.ord == num)) }

theorem readResp_counts {r : ReadOut} {f : Flow} (hnew : c.seen p.psn.toNat = false) (hq : c.queue = []) (hctrl : c.ctrlq = [])
    (hr : c.reads.find? (fun r => r.num == p.ord.toNat) = some r) (hdst : r.dst = none)
    (hlen : r.len ≤ rangesLen (r.got ++ newRuns r.got p.addr.toNat p.payload.length)) (hf : flowOf s r.owner = some f) (hreads : 2 ≤ f.reads)
    (hheld : PeerHeld c.peer s) :
    ∃ t d, exec (.readResp p) s = .next t ∧ OnlyNet s t ∧ getConn t p.conn.toNat = some d ∧ d.reads = c.reads.filter (fun x => x.num != r.num) ∧
      flowOf t r.owner = some { f with reads := f.reads - 1 } := by
  have hlinks : OnlyLinks s (taken p true s) := onlyLinks_takePsn ..
  obtain ⟨d, hd, htook⟩ := getConn_takePsn h.conn p.psn.toNat p.payload.length p.ce true
  have hft : flowOf (taken p true s) r.owner = some f := (hlinks.flowOf _).trans hf
  let counted := modFlow r.owner (fun x => { x with reads := x.reads - 1 }) (taken p true s)
  have hconn : getConn (modConn p.conn.toNat (Conn.readEnded r.num) counted) p.conn.toNat = some (d.readEnded r.num) := by
    rw [getConn_modConn, if_pos rfl, show getConn counted p.conn.toNat = some d from hd, Option.map_some]
  have hnet : OnlyNet s (modConn p.conn.toNat (Conn.readEnded r.num) counted) :=
    (hlinks.onlyNet.trans (onlyNet_modFlow ..)).trans (onlyNet_modConn ..)
  have hquiet : reapPeer c.peer (pumpConn p.conn.toNat (modConn p.conn.toNat (Conn.readEnded r.num) counted)) =
      modConn p.conn.toNat (Conn.readEnded r.num) counted := by
    rw [pumpConn_empty hconn (htook.queue.trans hq) (htook.ctrlq.trans hctrl)]
    refine reapPeer_held fun g hg => ?_
    rw [hnet.getPh]
    exact hheld g hg
  have hrun : doReadResp p s = modConn p.conn.toNat (Conn.readEnded r.num) counted := by
    refine (rxPacket_relayFits h _ _).trans ((if_neg (ne_true_of_eq_false hnew)).trans ?_)
    rw [← hquiet, hr]
    dsimp only
    rw [show takeRead r p.addr.toNat p.payload (takePsn _ _ _ _ _ s) = _ from takeRead_last hdst hlen hft hreads]
    unfold Conn.readEnded
    simp only [List.append_nil]
    rfl
  refine ⟨_, _, congrArg Host.Outcome.next hrun, hnet, hconn, congrArg (List.filter _) htook.reads, ?_⟩
  exact flowOf_modFlow hft (F := fun x => { x with reads := x.reads - 1 }) (fun _ => rfl)

end

-- what leaves again (R384, R385, R402)

/-- A packet that leaves again on a port, as its connection sends it. -/
def Unacked.again (u : Unacked) (remote : BitVec 32) (port : Nat) : RelayTx :=
  { port := port, ip := noHdr, type := u.type, conn := remote, psn := u.psn, last := u.last, retx := true, imm := u.imm, addr := u.addr, ord := u.ord
    payload := u.payload }

/-- The connection that sends a packet again. -/
def Conn.resending (psn port : Nat) (c : Conn) : Conn :=
  { c with nextPort := (port + 1) % 8, unacked := c.unacked.map (fun x => if x.psn = psn then { x with tries := x.tries + 1, bySack := true } else x) }

/-- What a packet that leaves again notes before it does: its port counts it, and data is on a path of its own. -/
def noteResend (id : Nat) (u : Unacked) (c : Conn) (port : Nat) (s : State) : State :=
  if u.type = 1 then notePath u.owner port (u.addr + u.payload.length - 1) (setConn id (some (c.resending u.psn port)) (countRetx port s))
  else setConn id (some (c.resending u.psn port)) (countRetx port s)

theorem onlyNet_noteResend (id : Nat) (u : Unacked) (c : Conn) (port : Nat) (s : State) : OnlyNet s (noteResend id u c port s) := by
  have hsent : OnlyNet s (setConn id (some (c.resending u.psn port)) (countRetx port s)) := (onlyNet_modPort ..).trans (onlyNet_modNet ..)
  unfold noteResend
  split
  · exact hsent.trans (onlyNet_notePath ..)
  · exact hsent

theorem getPort_setConn (id : Nat) (v : Option Conn) (s : State) (n : Nat) : getPort (setConn id v s) n = getPort s n := rfl
theorem getPort_notePath (o : TxOwner) (port last : Nat) (s : State) (n : Nat) : getPort (notePath o port last s) n = getPort s n := rfl

theorem getPort_noteResend (id : Nat) (u : Unacked) (c : Conn) (port : Nat) (s : State) :
    getPort (noteResend id u c port s) port = { getPort s port with err := { (getPort s port).err with retx := satInc (getPort s port).err.retx } } := by
  have hcount : getPort (countRetx port s) port = { getPort s port with err := { (getPort s port).err with retx := satInc (getPort s port).err.retx } } := by
    unfold countRetx
    rw [getPort_modPort, if_pos rfl]
  unfold noteResend
  split
  · exact (getPort_notePath ..).trans ((getPort_setConn ..).trans hcount)
  · exact (getPort_setConn ..).trans hcount

/-- The headers of a packet take the address of its port, and nothing else of the ports. -/
theorem relayHdr_congr {s t : State} {port : Nat} (p : Peer) (psn : Nat) (hv4 : (getPort t port).v4 = (getPort s port).v4) (hg : t.net.guests = s.net.guests)
    (hfab : t.net.fabric = s.net.fabric) (hcfg : t.net.cfgEff = s.net.cfgEff) : relayHdr t port p psn = relayHdr s port p psn := by
  have hguest (g : Nat) : getGuest t g = getGuest s g := by unfold getGuest; rw [hg]
  unfold relayHdr portIp portIp6 deviceIp
  simp only [hv4, hfab, hcfg, hguest]

theorem relayHdr_noteResend (id : Nat) (u : Unacked) (c : Conn) (port : Nat) (p : Peer) (psn : Nat) (s : State) :
    relayHdr (noteResend id u c port s) port p psn = relayHdr s port p psn := by
  refine relayHdr_congr p psn (by rw [getPort_noteResend]) ?_ ?_ ?_ <;> unfold noteResend <;> split <;> rfl

section
variable {id port : Nat} {c : Conn} {u : Unacked} {s : State} (hc : getConn s id = some c)
  (hroute : (u.via = none ∧ pickPort s c.peer c.nextPort = some port) ∨ (u.via = some port ∧ portUp s port = true))
include hc hroute

theorem resend_port : resend id u s = sendRelay id u.owner.cls c.peer (u.again c.remoteId port) (noteResend id u c port s) := by
  unfold resend
  rcases hroute with ⟨hvia, hp⟩ | ⟨hvia, hp⟩
  · simp only [hc, hvia, hp]
    rfl
  · simp only [hc, hvia, hp, if_true]
    rfl

/-- A packet leaves again: it joins the queue of its port, which counts it. -/
theorem resend_queued : OnlyNet s (resend id u s) ∧ RelayQueued id u.owner.cls c.peer (u.again c.remoteId port) s (resend id u s) ∧
    (getPort (resend id u s) port).err.retx = satInc (getPort s port).err.retx := by
  have hp := getPort_noteResend id u c port s
  rw [resend_port hc hroute]
  refine ⟨(onlyNet_noteResend ..).trans (onlyNet_queueFrame ..), ?_, ?_⟩
  · exact relayQueued_sendRelay id u.owner.cls c.peer (relayHdr_noteResend ..) (by rw [show (u.again c.remoteId port).port = port from rfl, hp])
  · exact (congrArg NetPortErrReg.retx (err_queueFrame ..)).trans (by rw [show (u.again c.remoteId port).port = port from rfl, hp])

end

-- the obligation, by parts

/-- A frame that fails a check counts on its port, and one of no connection is answered there (R378, R382, R386). -/
theorem relay_notTaken {p : RelayPkt} {a : AckBody} {code target len : Nat} {i : Instr} {s : State}
    (hi : i ∈ [Instr.data p, .ack p a, .nak p code, .read p target len, .readResp p]) :
    (portUp s p.port = false → exec i s = .next s) ∧
    (portUp s p.port = true → (p.fcsOk = false ∨ addressed s p.port p.ip.v6 p.ip.dst = false ∨ p.ip.dport ≠ s.net.cfgEff.relayUdp) →
      ∃ t, exec i s = .next t ∧ OnlyNet s t ∧ (getPort t p.port).err = { (getPort s p.port).err with fcs := satInc (getPort s p.port).err.fcs }) ∧
    (portUp s p.port = true → p.fcsOk = true → addressed s p.port p.ip.v6 p.ip.dst = true → p.ip.dport = s.net.cfgEff.relayUdp → p.crcOk = false →
      ∃ t, exec i s = .next t ∧ OnlyNet s t ∧ (getPort t p.port).err = { (getPort s p.port).err with crc := satInc (getPort s p.port).err.crc }) ∧
    (FrameFits p.port p.fcsOk p.crcOk p.ip s.net.cfgEff.relayUdp s →
      (getConn s p.conn.toNat = none ∨ (∃ c, getConn s p.conn.toNat = some c ∧ peerHas s c.peer p.ip.src = false)) →
      ∃ t x, exec i s = .next t ∧ OnlyNet s t ∧ (getPort t p.port).txq = (getPort s p.port).txq ++ [x] ∧
        (∃ y, x.msg = .relay y ∧ y.type = 3 ∧ y.psn = p.psn.toNat ∧ y.payload = [4#8] ∧ y.ip.dst = p.ip.src ∧ y.ip.src = p.ip.dst) ∧
        (getPort t p.port).err = { (getPort s p.port).err with nak := satInc (getPort s p.port).err.nak }) := by
  obtain ⟨opening, act, hexec⟩ := relay_checked s hi
  rw [hexec]
  refine ⟨fun hp => ?down, fun hp hbad => ?foreign, fun hp hf ha hd hc => ?crc, fun hfits hno => ?stranger⟩
  case down => exact congrArg Host.Outcome.next (rxFrame_down _ hp)
  case foreign => exact ⟨_, congrArg Host.Outcome.next (rxFrame_foreign _ hp hbad), onlyNet_modPort .., err_dropFrame ..⟩
  case crc =>
    refine ⟨_, congrArg Host.Outcome.next (rxFrame_crc _ hp hf ha hd hc), onlyNet_modPort .., ?_⟩
    rw [getPort_modPort, if_pos rfl]
  case stranger =>
    obtain ⟨x, htxq, hmsg, herr⟩ := noConn_answers p.port p.ip p.psn.toNat s
    exact ⟨_, x, congrArg Host.Outcome.next (rxPacket_stranger act opening hfits hno), (onlyLinks_noConn ..).onlyNet, htxq, hmsg, herr⟩

section
variable {p : RelayPkt} {c : Conn} {s : State} (h : RelayFits p c s)
include h

/-- New DATA of a guest lands, is taken in the sequence, and is acknowledged when it is due (R385, R389, R396). -/
theorem data_lands {g : Nat} {s1 : State} (hnew : c.seen p.psn.toNat = false) (hg : c.peer = .guest g)
    (hfree : guestRefused s g true p.addr.toNat p.payload.length = false) (himm : p.immValid = false) (hcut : iodCut s = false)
    (harea : touchesArea s p.addr.toNat p.payload.length = true →
      p.last = true ∧ c.rxOpen.contains ((p.psn.toNat + 2 ^ 32 - 1) % 2 ^ 32) = false ∧ c.seen ((p.psn.toNat + 2 ^ 32 - 1) % 2 ^ 32) = true)
    (hwrite : homeWriteBytes .network p.addr.toNat p.payload s = (true, s1)) (hkept : getConn s1 p.conn.toNat = some c) :
    ∃ t d, exec (.data p) s = .next t ∧ OnlyNet s1 t ∧ getConn t p.conn.toNat = some d ∧ d.peer = c.peer ∧
      d.rxCum = (c.receive p.psn.toNat).rxCum ∧ d.rxAbove = (c.receive p.psn.toNat).rxAbove ∧
      (∀ port, pickPort s1 c.peer c.nextPort = some port →
        d.rxSinceAck = if p.psn.toNat ≠ c.rxCum ∨ s1.net.relayEff.ackPkts.toNat ≤ c.rxSinceAck + 1 then 0 else c.rxSinceAck + 1) := by
  have hrun := doData_lands h hnew hg hfree hcut harea hwrite
  rw [if_neg (ne_true_of_eq_false himm)] at hrun
  obtain ⟨d, hd, htook⟩ := getConn_takePsn hkept p.psn.toNat p.payload.length p.ce p.last
  exact ⟨_, d, congrArg Host.Outcome.next hrun, (onlyLinks_takePsn ..).onlyNet, hd, htook.peer, htook.rxCum, htook.rxAbove,
    fun port hp => rxSinceAck_takePsn hkept _ _ _ _ hd hp⟩

/-- An immediate value of a guest counts for what has landed with it (R400). -/
theorem data_notesImm {g : Nat} {s1 : State} (hnew : c.seen p.psn.toNat = false) (hg : c.peer = .guest g)
    (hfree : guestRefused s g true p.addr.toNat p.payload.length = false) (himm : p.immValid = true) (hne : p.payload ≠ []) (hcut : iodCut s = false)
    (harea : touchesArea s p.addr.toNat p.payload.length = false) (hwrite : homeWriteBytes .network p.addr.toNat p.payload s = (true, s1))
    (hrecvs : s1.net.recvs = []) :
    ∃ t ps, exec (.data p) s = .next t ∧ OnlyNet s1 t ∧ (getGuest t g).landed.head? = some (p.imm, (p.addr.toNat, p.payload.length) :: ps) := by
  have hrun := doData_lands h hnew hg hfree hcut (fun ht => absurd ht (ne_true_of_eq_false harea)) hwrite
  have hsettle : settleGuestRecvs g (noteImm g p.imm p.addr.toNat p.payload.length s1) = noteImm g p.imm p.addr.toNat p.payload.length s1 := by
    unfold settleGuestRecvs
    rw [show (noteImm g p.imm p.addr.toNat p.payload.length s1).net.recvs = s1.net.recvs from rfl, hrecvs]
    rfl
  rw [if_pos himm, hsettle] at hrun
  have hlinks : OnlyLinks (noteImm g p.imm p.addr.toNat p.payload.length s1) (taken p p.last (noteImm g p.imm p.addr.toNat p.payload.length s1)) :=
    onlyLinks_takePsn ..
  obtain ⟨ps, hps⟩ := landed_noteImm (g := g) (imm := p.imm) (a := p.addr.toNat) (s := s1) (List.length_pos_iff.2 hne)
  refine ⟨_, ps, congrArg Host.Outcome.next hrun, (onlyNet_modGuest ..).trans hlinks.onlyNet, ?_⟩
  rw [hlinks.getGuest]
  exact hps

/-- A refusal of a packet that has been taken. -/
theorem nak_taken {i : Instr} {code : Nat} {ends : Bool} (hrun : exec i s = .next (sendNak p.conn.toNat p.port p.psn.toNat code (taken p ends s))) :
    ∃ t, exec i s = .next t ∧ OnlyNet s t ∧ NakLast c p.psn.toNat (BitVec.ofNat 8 code) t :=
  ⟨_, hrun, ((onlyLinks_takePsn ..).trans (onlyLinks_sendNak ..)).onlyNet, nakLast_taken h ends p.port code⟩

/-- A guest's READ joins the queue of answers of a connection whose window is full (R381, R387). -/
theorem read_queued {g target len : Nat} (hnew : c.seen p.psn.toNat = false) (hg : c.peer = .guest g) (hfree : guestRefused s g false target len = false)
    (hlen : 0 < len) (hctrl : c.ctrlq = []) (hfull : c.window ≤ c.unacked.length) :
    ∃ t d, exec (.read p target len) s = .next t ∧ OnlyNet s t ∧ getConn t p.conn.toNat = some d ∧
      d.queue = c.queue ++ [{ owner := .resp, type := 5, addr := 0, len := len, src := .mem target, ord := p.ord.toNat }] := by
  obtain ⟨d, hd, htook⟩ := getConn_takePsn h.conn p.psn.toNat p.payload.length p.ce true
  have hwin : WindowFull (taken p true s) p.conn.toNat d :=
    ⟨hd, htook.ctrlq.trans hctrl, by rw [htook.window, htook.unacked]; exact hfull⟩
  have hrun := doRead_guest h hnew (target := target) (len := len) hg
  rw [if_neg (ne_true_of_eq_false hfree), if_neg (by omega), pumpConn_windowFull (hwin.queueConn _)] at hrun
  refine ⟨_, _, congrArg Host.Outcome.next hrun, ((onlyLinks_takePsn ..).trans (onlyLinks_modConn ..)).onlyNet, getConn_queueConn _ hd, ?_⟩
  exact congrArg (· ++ _) htook.queue

section
variable {a : AckBody} (hq : c.queue = []) (hctrl : c.ctrlq = []) (hsack : a.sack = []) (hce : a.ceBytes = 0)
  (hdup : s.net.relayEff.dupThresh ≠ 0#4) (hheld : PeerHeld c.peer s)
include hq hctrl hsack hce hdup hheld

/-- Packets of no transfer are retired (R385). -/
theorem ack_retires (hflow : ∀ u ∈ c.unacked, flowOf s u.owner = none) :
    ∃ t d, exec (.ack p a) s = .next t ∧ OnlyNet s t ∧ getConn t p.conn.toNat = some d ∧
      d.unacked = c.unacked.filter (fun u => !psnBefore u.psn p.psn.toNat) := by
  have hcredit : creditBefore p c s = retireBefore p c s := by
    refine forEach_fixed_of_mem _ fun u hu => ?_
    split
    · unfold creditFlow
      rw [show flowOf (retireBefore p c s) u.owner = none from hflow u (List.mem_of_mem_filter hu)]
    · rfl
  have hconn := getConn_retireBefore p c s
  exact ⟨_, _, congrArg Host.Outcome.next (doAck_quiet h hq hctrl hsack hce hdup hheld hcredit rfl rfl hconn), (onlyLinks_setConn ..).onlyNet, hconn,
    (Conn.retired_keeps ..).1⟩

/-- The one packet that waits is retired and credited to its transfer, which waits for more (R385, R398). -/
theorem ack_credits {u : Unacked} {f : Flow} (hu : c.unacked = [u]) (htype : u.type = 1) (hbefore : psnBefore u.psn p.psn.toNat = true)
    (hf : flowOf s u.owner = some f) (hpart : f.acked + u.payload.length < f.total) :
    ∃ t d, exec (.ack p a) s = .next t ∧ OnlyNet s t ∧ getConn t p.conn.toNat = some d ∧ d.unacked = [] ∧
      flowOf t u.owner = some { f with acked := f.acked + u.payload.length } := by
  have hft : flowOf (retireBefore p c s) u.owner = some f := hf
  have hcredit : creditBefore p c s = modFlow u.owner (fun x => { x with acked := x.acked + u.payload.length }) (retireBefore p c s) := by
    unfold creditBefore
    rw [hu, List.filter_cons_of_pos (p := fun u : Unacked => psnBefore u.psn p.psn.toNat) hbefore, List.filter_nil, forEach_one, if_pos htype]
    exact creditFlow_part hft hpart
  have hconn : getConn (modFlow u.owner (fun x => { x with acked := x.acked + u.payload.length }) (retireBefore p c s)) p.conn.toNat =
      some (retiredBy p c s) := getConn_retireBefore p c s
  refine ⟨_, _, congrArg Host.Outcome.next (doAck_quiet h hq hctrl hsack hce hdup hheld hcredit rfl rfl hconn),
    (onlyLinks_setConn ..).onlyNet.trans (onlyNet_modFlow ..), hconn, (Conn.retired_keeps ..).1.trans ?_,
    flowOf_modFlow hft (F := fun x => { x with acked := x.acked + u.payload.length }) (fun _ => rfl)⟩
  rw [hu, List.filter_cons_of_neg (by rw [hbefore]; decide), List.filter_nil]

end

end

/-- Settles O42, part by part: frames that fail a check, packets received before, DATA, acknowledgements, refusals, READs and their answers, and
the timers of a connection. -/
theorem relayPackets : Obligations.RelayPackets := by
  unfold Obligations.RelayPackets
  refine ⟨fun p a code target len i s hi => relay_notTaken hi,
    fun p c s h => ⟨fun target len i hseen hi => ⟨fun hp => ?seenNoPort, fun port hp => ?seenAcked⟩,
      fun hnew => ⟨fun g s1 hg hfree himm hcut harea hwrite hkept => data_lands h hnew hg hfree himm hcut harea hwrite hkept,
        fun g s1 hg hfree himm hne hcut harea hwrite hrecvs => data_notesImm h hnew hg hfree himm hne hcut harea hwrite hrecvs,
        fun d r s1 hd hr hfit hland hkept => ?landsRecv, fun d r hd hr hlong hposted => ?tooLong, fun d hd hr hstale => ?notReady,
        fun g hg hbad => ?dataRefused⟩,
      fun a hq hctrl hsack hce hdup hheld => ⟨ack_retires h hq hctrl hsack hce hdup hheld,
        fun u f => ack_credits h hq hctrl hsack hce hdup hheld⟩,
      ?again, fun d hd => ?endsDevice, fun g hg hst => ?endsGuest,
      fun code u k kc hcode hq hctrl hu howner hk hphase => nak_endsBuffer h hcode hq hctrl hu howner hk hphase,
      fun target len hnew => ⟨fun d hd => ?readDevice, fun g hg hbad => ?readRefused,
        fun g hg hfree hlen hctrl hfull => read_queued h hnew hg hfree hlen hctrl hfull⟩,
      fun r f hnew hq hctrl hr hdst hlen hf hreads hheld => readResp_counts h hnew hq hctrl hr hdst hlen hf hreads hheld⟩,
    fun id psn port c s hc => ⟨fun u hu hroute => ?timeout, fun hdue hp => ?ackTimer⟩⟩
  case seenNoPort => rw [relay_seen h hseen hi, sendAck_noPort h.conn hp]
  case seenAcked =>
    obtain ⟨hqueued, hconn⟩ := sendAck_queued h.conn hp
    exact ⟨_, c.ackBytes, relay_seen h hseen hi, (onlyLinks_sendAck ..).onlyNet, hqueued, hconn⟩
  case landsRecv =>
    obtain ⟨d', hd', htook⟩ := getConn_takePsn hkept p.psn.toNat p.payload.length p.ce p.last
    exact ⟨_, d', congrArg Host.Outcome.next (doData_landsRecv h hnew hd hr hfit hland), (onlyLinks_takePsn ..).onlyNet, hd', htook.rxCum⟩
  case tooLong => exact nak_taken h (congrArg Host.Outcome.next (doData_tooLong h hnew hd hr hlong hposted))
  case notReady =>
    exact ⟨_, congrArg Host.Outcome.next (doData_notReady h hnew hd hr hstale), (onlyLinks_sendNak ..).onlyNet, nakLast_sendNak h.conn ..⟩
  case dataRefused => exact nak_taken h (congrArg Host.Outcome.next (doData_refused h hnew hg hbad))
  case again => exact congrArg Host.Outcome.next (doNak_notReady h)
  case endsDevice =>
    exact ⟨_, congrArg Host.Outcome.next (doNak_ends_device h hd), (onlyLinks_setConn ..).onlyNet, (getConn_setConn ..).trans (if_pos rfl)⟩
  case endsGuest => exact ⟨_, congrArg Host.Outcome.next (doNak_ends_guest h hg), loseGuestIfOpen_open (s := setConn p.conn.toNat none s) hst⟩
  case readDevice => exact nak_taken h (congrArg Host.Outcome.next (doRead_device h hnew hd))
  case readRefused => exact nak_taken h (congrArg Host.Outcome.next ((doRead_guest h hnew hg).trans (if_pos hbad)))
  case timeout =>
    have hrun : doRto id psn s = resend id u s := by
      unfold doRto
      simp only [hc, hu]
    exact ⟨_, congrArg Host.Outcome.next hrun, resend_queued hc hroute⟩
  case ackTimer =>
    have hrun : doAckTimer id s = sendAck id s := by
      unfold doAckTimer
      simp only [hc, hdue, if_true]
    obtain ⟨hqueued, hconn⟩ := sendAck_queued hc hp
    exact ⟨_, c.ackBytes, congrArg Host.Outcome.next hrun, (onlyLinks_sendAck ..).onlyNet, hqueued, hconn⟩

end Sys2Proof.Machine
end

section
/-! PROOFS. Ports and flits (R378, R379, R415, R417, R418; O44): a port that fails and the port that PTP follows then, an engine that has nothing to
send, the answers the engine gives itself, and the flits of the Pacel link. -/

namespace Sys2Proof.Machine

-- the port that PTP follows (R415)

/-- Choosing again changes the network engine and the time unit, and nothing else. -/
theorem followBest_rest (s : State) : { followBest s with net := s.net, stg := s.stg } = s := by
  cases hb : bestPort s with
  | some n =>
    rw [followBest_some hb]
    split <;> rfl
  | none =>
    rw [followBest_none hb]
    split
    · rfl
    · split <;> rfl

theorem followBest_conns (s : State) : (followBest s).net.conns = s.net.conns ∧ (followBest s).net.guests = s.net.guests := by
  cases hb : bestPort s with
  | some n =>
    rw [followBest_some hb]
    split <;> exact ⟨rfl, rfl⟩
  | none =>
    rw [followBest_none hb]
    split
    · exact ⟨rfl, rfl⟩
    · split <;> exact ⟨rfl, rfl⟩

theorem getPort_follow (n m : Nat) (s : State) : getPort (follow n s) m = if m = n then { getPort s n with sync := false } else getPort s m :=
  getPort_modPort n m _ _

/-- A port that is not the best one is left alone, and no more than what it awaits of the others changes. -/
theorem getPort_followBest {n : Nat} {s : State} (h : bestPort s ≠ some n) : getPort (followBest s) n = getPort s n := by
  cases hb : bestPort s with
  | some m =>
    rw [followBest_some hb]
    split
    · rfl
    · exact (getPort_follow m n s).trans (if_neg fun hn => h (hb.trans (congrArg some hn.symm)))
  | none =>
    rw [followBest_none hb]
    split
    · rfl
    · split <;> rfl

theorem getPort_followBest_noSync (m : Nat) (s : State) : { getPort (followBest s) m with sync := false } = { getPort s m with sync := false } := by
  by_cases hb : bestPort s = some m
  · rw [followBest_some hb]
    split
    · rfl
    · rw [getPort_follow, if_pos rfl]
  · rw [getPort_followBest hb]

theorem followBest_stg {m : Nat} {s : State} (h : bestPort s = some m) : (followBest s).stg = s.stg := by
  rw [followBest_some h]
  split <;> rfl

/-- A port whose link has failed (R379): what was on its way over Relay is gone. -/
def Port.fail (p : Port) : Port :=
  { p with
    up := false, failed := true, master := none, sync := false, line := 0, share := (0, 0)
    txq := p.txq.filter (fun f => match f.flow with | .qp _ => true | _ => false) }

/-- A port whose link has trained (R379). -/
def Port.train (p : Port) : Port := { p with up := true, failed := false, retrains := if p.failed then satInc p.retrains else p.retrains }

theorem doPortDown_up {n : Nat} {s : State} (hp : pacelTakes s n = false) (hup : portUp s n = true) :
    doPortDown n s = followBest (modPort n Port.fail s) := by
  unfold doPortDown
  rw [if_neg (by simp [hp]), if_pos hup]
  rfl

/-- R379, R415: What the failure of a port comes to. -/
theorem portDown_fails {n : Nat} {s : State} (hp : pacelTakes s n = false) (hup : portUp s n = true) :
    ∃ t, exec (.portLinkDown n) s = .next t ∧ { t with net := s.net, stg := s.stg } = s ∧ getPort t n = (getPort s n).fail ∧
      (∀ m, m ≠ n → { getPort t m with sync := false } = { getPort s m with sync := false }) ∧
      t.net.conns = s.net.conns ∧ t.net.guests = s.net.guests ∧ activePort t = bestPort t ∧ bestPort t ≠ some n ∧
      (∀ m, bestPort t = some m → t.stg = s.stg) := by
  let failed := modPort n Port.fail s
  have hport (m : Nat) : getPort failed m = if m = n then (getPort s n).fail else getPort s m := getPort_modPort ..
  have hbest : bestPort failed ≠ some n := by
    intro h
    refine (bestPort_some h).2 ?_
    rw [hport, if_pos rfl]
    rfl
  obtain ⟨hconns, hguests⟩ := followBest_conns failed
  refine ⟨followBest failed, congrArg Host.Outcome.next (doPortDown_up hp hup), ?_, ?_, fun m hm => ?_, hconns, hguests, followBest_activePort _, ?_,
    fun m hm => ?_⟩
  · exact (congrArg (fun t : State => { t with net := s.net }) (followBest_rest failed) :)
  · rw [getPort_followBest hbest, hport, if_pos rfl]
  · rw [getPort_followBest_noSync, hport, if_neg hm]
  · rw [followBest_bestPort]
    exact hbest
  · exact followBest_stg ((followBest_bestPort failed).symm.trans hm)

-- an engine that has nothing to send (R378, R384)

theorem NothingToSend.modPort {s : State} (h : NothingToSend s) (n : Nat) (f : Port → Port) : NothingToSend (modPort n f s) := h

theorem pumpAll_idle {s : State} (h : NothingToSend s) : pumpAll s = s := by
  obtain ⟨hconns, hqps, -⟩ := h
  have hsent : forEach (s.net.conns.map (·.1)) pumpConn s = s := forEach_fixed (fun id => pumpConn_of_nothingWaits hconns id) _
  unfold pumpAll
  rw [hsent]
  refine forEach_fixed (fun g => ?_) _
  split
  · rfl
  · cases hq : (getGuest s g).qp with
    | none => unfold pumpQp; rw [hq]
    | some q => exact pumpQp_empty hq (hqps g q hq)

theorem guestConnected_noOpen {g : Nat} {s : State} (h : (getGuest s g).openCmd = none) : guestConnected g s = s := by
  unfold guestConnected
  rw [h]

theorem doPortUp_idle {n : Nat} {s : State} (hp : pacelTakes s n = false) (hn : n < 8) (hpow : portPowered s n = true) (hup : (getPort s n).up = false)
    (hidle : NothingToSend s) (hopen : ∀ g, (getGuest s g).openCmd = none) : doPortUp n s = modPort n Port.train s := by
  have hconnected (xs : List Nat) : forEach xs (fun g t =>
      match (getGuest t g).endpoint, (getGuest t g).transport with
      | some e, some .roce => if e.port = n then guestConnected g t else t
      | _, _ => t) (modPort n Port.train s) = modPort n Port.train s := by
    refine forEach_fixed (fun g => ?_) xs
    split
    · split
      · exact guestConnected_noOpen (hopen g)
      · rfl
    · rfl
  unfold doPortUp
  rw [if_neg (by simp [hp]), if_pos (by simp [hn, hpow, hp, hup])]
  exact (congrArg pumpAll (hconnected _)).trans (pumpAll_idle hidle)

-- answers of the engine's own (R378)

/-- An answer joins the queue of the port it was asked for on. -/
theorem exec_sendsOwn {i : Instr} {n len : Nat} {m : TxMsg} {s : State} (hrun : exec i s = .next (sendOwn n len m s)) :
    ∃ t, exec i s = .next t ∧ OnlyNet s t ∧ FrameQueued n { cls := 1, flow := .own, len := len, msg := m } s t :=
  ⟨_, hrun, onlyNet_queueFrame .., frameQueued_queueFrame ..⟩

theorem mapped4_isOwn {n : Nat} {ip : BitVec 128} {s : State}
    (h : ip = portIp6 s n ∨ ∃ v, portIp4 s n = some v ∧ ip = mapped4 v ∧ ip ≠ portIp6 s n) :
    (portIp6 s n == ip || (portIp4 s n).map mapped4 == some ip) = true := by
  rcases h with rfl | ⟨v, hv, rfl, -⟩
  · simp
  · simp [hv]

-- priority flow control (R378)

theorem getLsbD_clearBit_self {w k : Nat} (m : BitVec w) : (clearBit m k).getLsbD k = false := by
  simp only [clearBit, maskBit, BitVec.getLsbD_and, BitVec.getLsbD_not, BitVec.getLsbD_shiftLeft, BitVec.getLsbD_one, Nat.sub_self, Bool.and_eq_false_iff]
  by_cases hk : k < w
  · exact .inr (by simp [hk]; omega)
  · exact .inr (by simp [hk])

theorem getLsbD_pause {m : BitVec 8} {k : Nat} (hk : k < 8) (pause : Bool) :
    (if pause then setBit m k else clearBit m k).getLsbD k = pause := by
  cases pause with
  | false => exact getLsbD_clearBit_self m
  | true => exact getLsbD_setBit_self m hk

section
variable {n : Nat} {s : State} (hup : portUp s n = true)
include hup

theorem pfc_obeyed (pause : Bool) (hen : s.net.cfgEff.pfcEn = 1#1) (hidle : NothingToSend s) :
    ∃ t, exec (.pfcFrame n s.net.cfgEff.pfcPrio.toNat pause) s = .next t ∧ OnlyNet s t ∧
      (getPort t n).paused.getLsbD s.net.cfgEff.pfcPrio.toNat = pause := by
  have hrun : doPfc n s.net.cfgEff.pfcPrio.toNat pause s = modPort n (fun p => { p with
      paused := if pause then setBit p.paused s.net.cfgEff.pfcPrio.toNat else clearBit p.paused s.net.cfgEff.pfcPrio.toNat }) s := by
    unfold doPfc
    rw [if_neg (by simp [hup]), if_pos ⟨hen, rfl⟩]
    exact pumpAll_idle (hidle.modPort ..)
  refine ⟨_, congrArg Host.Outcome.next hrun, onlyNet_modPort .., ?_⟩
  rw [getPort_modPort, if_pos rfl]
  exact getLsbD_pause s.net.cfgEff.pfcPrio.isLt pause

theorem pfc_ignored {prio : Nat} (pause : Bool) (h : s.net.cfgEff.pfcEn = 0#1 ∨ prio ≠ s.net.cfgEff.pfcPrio.toNat) :
    doPfc n prio pause s = doUnused n s := by
  unfold doPfc
  refine (if_neg (by simp [hup])).trans (if_neg ?_)
  rintro ⟨hen, hprio⟩
  rcases h with h | h
  · rw [h] at hen
    exact absurd hen (by decide)
  · exact h hprio

end

-- the Pacel link (R417, R418)

theorem pumpPacel_empty {s : State} (h : s.net.pacel.queue = []) : pumpPacel s = s := by
  refine forEach_fixed (fun _ => ?_) _
  unfold sendFlitNow
  simp only [h]

/-- The Pacel link once its lanes have trained. -/
def pacelTrained (s : State) : State :=
  { s with net := { s.net with pacel := { s.net.pacel with up := true, lanes := s.net.pacelCfg.lanesReq.toNat } } }

theorem doPortUp_pacel {s : State} (hen : s.net.pacel.enabled = true) (hpow : portPowered s 6 = true) (hup : s.net.pacel.up = false)
    (hq : s.net.pacel.queue = []) : doPortUp 6 s = pacelTrained s := by
  have htakes : pacelTakes s 6 = true := by simp [pacelTakes, hen]
  unfold doPortUp
  rw [if_pos ⟨hpow, htakes⟩, if_pos (by simp [hup])]
  exact pumpPacel_empty (s := pacelTrained s) hq

/-- Messages recorded as sent, one after another. -/
theorem forEach_netSend {α : Type} (f : α → TxMsg) (xs : List α) (s : State) :
    forEach xs (fun x t => netSend (f x) t) s = { s with net := { s.net with tx := (xs.map f).reverse ++ s.net.tx } } := by
  induction xs generalizing s with
  | nil => rfl
  | cons x xs ih =>
    refine (ih (netSend (f x) s)).trans ?_
    rw [List.map_cons, List.reverse_cons, List.append_assoc]
    rfl

/-- The flit that a kept one leaves as again. -/
def Unacked.asFlit (u : Unacked) : TxMsg := .flit (u.imm.getD 0#32) u.ord u.psn u.addr u.payload

/-- The RECV that a flit lands in (R419). -/
def flitRecv (f : PacelFlit) (s : State) : Option RecvX :=
  s.net.recvs.find? (fun r => (match peerAt s r.itin r.peer with | some (.device d) => Config.isT4 d | _ => false) &&
    BitVec.ofNat 32 r.jsn == f.tag && r.ord == f.ord.toNat)

/-- A flit in sequence that returns no credits has been taken. -/
def flitTaken (s : State) : State :=
  { s with net := { s.net with pacel := { s.net.pacel with rxSeq := (s.net.pacel.rxSeq + 1) % 65536, credits := min 128 s.net.pacel.credits } } }

/-- The flits kept from a sequence number on, and a state that has sent messages. -/
def keptFrom (q : BitVec 16) (s : State) : List TxMsg := (s.net.pacel.sentBuf.dropWhile (fun u => u.psn != q.toNat)).map Unacked.asFlit
def resent (ms : List TxMsg) (s : State) : State := { s with net := { s.net with tx := ms.reverse ++ s.net.tx } }

theorem replayFlits_eq (q : BitVec 16) (s : State) : replayFlits q s = resent (keptFrom q s) s := forEach_netSend Unacked.asFlit _ s

/-- A flit's request for a replay is met. -/
def flitReplayed (f : PacelFlit) (s : State) : State := match f.replay with | some q => replayFlits q s | none => s

/-- A flit's bytes land in its RECV, or are refused (R419). -/
def flitLands (f : PacelFlit) (s : State) : State :=
  match flitRecv f s with
  | some r =>
    let n := min f.len.toNat f.payload.length
    if r.len < f.offset.toNat + n then (if r.posted then refuseEntry r.itin (r.addr + f.offset.toNat) s else s)
    else (landRecv r f.offset.toNat (f.payload.take n) s).2
  | none => s

section
variable {f : PacelFlit} {s : State} (hup : s.net.pacel.up = true)
include hup

theorem doFlit_badCrc (hcrc : f.crcOk = false) : doFlit f s = { s with net := { s.net with
    tx := .flitReplay s.net.pacel.rxSeq :: s.net.tx, pacel := { s.net.pacel with replays := s.net.pacel.replays + 1#32 } } } :=
  (if_neg (by simp [hup])).trans ((if_pos (by simp [hcrc])).trans rfl)

theorem doFlit_outOfSequence (hcrc : f.crcOk = true) (hseq : f.seq.toNat ≠ s.net.pacel.rxSeq) : doFlit f s = s :=
  (if_neg (by simp [hup])).trans ((if_neg (by simp [hcrc])).trans (if_pos hseq))

variable (hcrc : f.crcOk = true) (hseq : f.seq.toNat = s.net.pacel.rxSeq) (hcredit : f.credit = 0#16)
include hcrc hseq hcredit

theorem doFlit_inSequence : doFlit f s = pumpPacel (flitLands f (flitTaken (flitReplayed f s))) := by
  refine (if_neg (by simp [hup])).trans ((if_neg (by simp [hcrc])).trans ((if_neg (not_not.2 hseq)).trans ?_))
  rw [hcredit]
  unfold flitReplayed
  cases f.replay with
  | none => rfl
  | some q =>
    dsimp only
    rw [replayFlits_eq]
    rfl

theorem doFlit_lands {r : RecvX} {s1 : State} (hreplay : f.replay = none) (hr : flitRecv f s = some r)
    (hfit : f.offset.toNat + min f.len.toNat f.payload.length ≤ r.len)
    (hland : landRecv r f.offset.toNat (f.payload.take (min f.len.toNat f.payload.length)) (flitTaken s) = (true, s1))
    (hq : s1.net.pacel.queue = []) : doFlit f s = s1 := by
  have hreplayed : flitReplayed f s = s := by unfold flitReplayed; rw [hreplay]
  have hlands : flitLands f (flitTaken s) = s1 := by
    unfold flitLands
    rw [show flitRecv f (flitTaken s) = some r from hr]
    dsimp only
    rw [if_neg (Nat.not_lt.2 hfit), hland]
  rw [doFlit_inSequence hup hcrc hseq hcredit, hreplayed, hlands, pumpPacel_empty hq]

theorem doFlit_replays {q : BitVec 16} (hreplay : f.replay = some q) (hr : flitRecv f s = none) (hq : s.net.pacel.queue = []) :
    doFlit f s = flitTaken (resent (keptFrom q s) s) := by
  have hreplayed : flitReplayed f s = resent (keptFrom q s) s := by
    unfold flitReplayed
    rw [hreplay]
    exact replayFlits_eq q s
  have hlands : flitLands f (flitTaken (resent (keptFrom q s) s)) = flitTaken (resent (keptFrom q s) s) := by
    unfold flitLands
    rw [show flitRecv f (flitTaken (resent (keptFrom q s) s)) = none from hr]
  rw [doFlit_inSequence hup hcrc hseq hcredit, hreplayed, hlands]
  exact pumpPacel_empty hq

end

/-- Settles O44, part by part: ports that fail and train, the engine's own answers, priority flow control, the Pacel link and its flits. -/
theorem portsAndFlits : Obligations.PortsAndFlits := by
  unfold Obligations.PortsAndFlits
  refine ⟨fun n s hp => ⟨fun hup => portDown_fails hp hup, fun hn hpow hup hidle hopen => ?train,
      fun hup => ⟨fun ip hip => exec_sendsOwn ?arp, exec_sendsOwn ?neighbour, fun ip payload hip => exec_sendsOwn ?echo, ?unused,
        fun pause hen hidle => pfc_obeyed hup pause hen hidle, fun prio pause h => congrArg Host.Outcome.next (pfc_ignored hup pause h)⟩⟩,
    fun s hen => ⟨fun n hn => ?pacelDown, fun hpow hup hq => congrArg Host.Outcome.next (doPortUp_pacel hen hpow hup hq)⟩,
    fun f s hup => ⟨fun hcrc => congrArg Host.Outcome.next (doFlit_badCrc hup hcrc),
      fun hcrc hseq => congrArg Host.Outcome.next (doFlit_outOfSequence hup hcrc hseq),
      fun r s1 hcrc hseq hcredit hreplay hr hfit hland hq =>
        congrArg Host.Outcome.next (doFlit_lands hup hcrc hseq hcredit hreplay hr hfit hland hq),
      fun q hcrc hseq hcredit hreplay hr hq => congrArg Host.Outcome.next (doFlit_replays hup hcrc hseq hcredit hreplay hr hq)⟩⟩
  case train =>
    refine ⟨_, congrArg Host.Outcome.next (doPortUp_idle hp hn hpow hup hidle hopen), onlyNet_modPort .., fun m hm => ?_, ?_⟩
    · exact (getPort_modPort ..).trans (if_neg hm)
    · exact (getPort_modPort ..).trans (if_pos rfl)
  case arp => exact congrArg Host.Outcome.next (if_pos (by simp [hup, hip]))
  case neighbour => exact congrArg Host.Outcome.next (if_pos (by simp [hup]))
  case echo => exact congrArg Host.Outcome.next (if_pos (by rw [hup, mapped4_isOwn hip]; rfl))
  case unused =>
    refine ⟨_, congrArg Host.Outcome.next (if_pos hup), onlyNet_modPort .., fun m hm => ?_, ?_⟩
    · exact (getPort_modPort ..).trans (if_neg hm)
    · exact (getPort_modPort ..).trans (if_pos rfl)
  case pacelDown =>
    have htakes : pacelTakes s n = true := by rcases hn with rfl | rfl <;> simp [pacelTakes, hen]
    exact ⟨_, congrArg Host.Outcome.next (if_pos htakes), onlyNet_modNet .., rfl⟩

end Sys2Proof.Machine
end

section
/-! PROOFS. Jobs across devices (R383, R405 to R411; O45): the CTRL messages a device sends leave no more than connections and ports changed, what
becomes of the prepare of a job, of its rollback and of the job, and each CTRL message by the equation of its case. -/

namespace Sys2Proof.Machine

-- what the sending of CTRL messages leaves as it was (R404, R405)

theorem onlyLinks_sendCtrlNow (id : Nat) (s : State) : OnlyLinks s (sendCtrlNow id s) := by
  unfold sendCtrlNow
  split
  · rfl
  · split
    · split
      · exact (onlyLinks_setConn ..).trans (onlyLinks_sendRelay ..)
      · rfl
    · rfl

theorem onlyLinks_pumpCtrl (id : Nat) (s : State) : OnlyLinks s (pumpCtrl id s) := by
  unfold pumpCtrl
  split
  · rfl
  · exact onlyLinks_forEach (fun _ t => onlyLinks_sendCtrlNow id t) _ s

theorem onlyLinks_sendCtrl (dev : Word) (m : CtrlOut) (s : State) : OnlyLinks s (sendCtrl dev m s) := by
  unfold sendCtrl
  split
  · rfl
  · exact (onlyLinks_modConn ..).trans (onlyLinks_pumpCtrl ..)

theorem onlyLinks_sendTo (ms : List Word) (ps : List Nat) (m : CtrlOut) (s : State) : OnlyLinks s (sendTo ms ps m s) := by
  refine onlyLinks_forEach (fun i t => ?_) ps s
  split
  · exact onlyLinks_sendCtrl ..
  · rfl

theorem onlyLinks_sendAll (ms : List Word) (m : CtrlOut) (s : State) : OnlyLinks s (sendAll ms m s) :=
  onlyLinks_forEach (fun d t => onlyLinks_sendCtrl d m t) _ s

theorem onlyLinks_forwardPrepare (p : Prep) (s : State) : OnlyLinks s (forwardPrepare p s) := onlyLinks_sendTo ..
theorem onlyLinks_forwardConfirm (ms : List Word) (me : Nat) (job : Word) (bell : Nat) (s : State) : OnlyLinks s (forwardConfirm ms me job bell s) :=
  onlyLinks_sendTo ..

section
variable {s t : State} (h : OnlyLinks s t)
include h

theorem OnlyLinks.prepOf (job : Word) : Machine.prepOf t job = Machine.prepOf s job := h.part (fun u => Machine.prepOf u job) (fun _ _ => rfl)
theorem OnlyLinks.rollOf (job : Word) : Machine.rollOf t job = Machine.rollOf s job := h.part (fun u => Machine.rollOf u job) (fun _ _ => rfl)
theorem OnlyLinks.jobSlot (job : Word) : Machine.jobSlot t job = Machine.jobSlot s job := h.part (fun u => Machine.jobSlot u job) (fun _ _ => rfl)
theorem OnlyLinks.innkUp : Machine.innkUp t = Machine.innkUp s := h.part Machine.innkUp (fun _ _ => rfl)
theorem OnlyLinks.nextBellNum : Machine.nextBellNum t = Machine.nextBellNum s := h.part Machine.nextBellNum (fun _ _ => rfl)
theorem OnlyLinks.lenNs : Machine.lenNs t = Machine.lenNs s := h.part Machine.lenNs (fun _ _ => rfl)
theorem OnlyLinks.itins : t.itins = s.itins := h.part State.itins (fun _ _ => rfl)
theorem OnlyLinks.getItin (k : Nat) : Machine.getItin t k = Machine.getItin s k := getItin_of_itins h.itins k
theorem OnlyLinks.getCmd (k : Nat) : Machine.getCmd t k = Machine.getCmd s k := h.onlyNet.getCmd k

end

-- the connection to a device (R383)

/-- A search of a table that finds a key finds it too once that key is entered with a value that is found. -/
theorem findSome?_tabInsert {α : Type} {f : Nat × α → Option Nat} (hkey : ∀ q k, f q = some k → k = q.1) {n : Nat} {v : α} (hv : f (n, v) = some n)
    {t : Tab α} (h : t.findSome? f = some n) : (tabInsert t n v).findSome? f = some n := by
  induction t with
  | nil => cases h
  | cons q t ih =>
    obtain ⟨k, w⟩ := q
    unfold tabInsert
    split
    · rw [List.findSome?_cons, hv]
    · split
      · rw [List.findSome?_cons, hv]
      next hne =>
        have hno : f (k, w) = none := by
          cases hf : f (k, w) with
          | none => rfl
          | some j =>
            rw [List.findSome?_cons, hf, Option.some.injEq] at h
            exact absurd (h.symm.trans (hkey _ _ hf)) hne
        rw [List.findSome?_cons, hno] at h ⊢
        exact ih h

section
variable {id : Nat} {p : Peer} {s : State} (h : connOf s p = some id)
include h

theorem connOf_setConn {c : Conn} (hp : c.peer = p) : connOf (setConn id (some c) s) p = some id := by
  have hset : (setConn id (some c) s).net.conns = tabInsert s.net.conns id (some c) :=
    show tabSet none s.net.conns id (some c) = _ from if_neg (Option.some_ne_none c)
  unfold connOf at h ⊢
  rw [hset]
  refine findSome?_tabInsert (fun q k hk => ?_) (if_pos hp) h
  split at hk
  · split at hk
    · exact (Option.some.inj hk).symm
    · cases hk
  · cases hk

theorem connOf_sendAck {c : Conn} (hc : getConn s id = some c) (hp : c.peer = p) : connOf (sendAck id s) p = some id := by
  cases hport : pickPort s c.peer c.nextPort with
  | none => rw [sendAck_noPort hc hport]; exact h
  | some port =>
    rw [sendAck_port hc hport]
    exact connOf_setConn (c := c.acknowledged port) h hp

theorem connOf_takePsn {c : Conn} (hc : getConn s id = some c) (hp : c.peer = p) (psn len : Nat) (ce ends : Bool) :
    connOf (takePsn id psn len ce ends s) p = some id := by
  obtain ⟨cum, above, -, -, he⟩ := takePsn_conn hc psn len ce ends
  have hpe : (c.entered cum above psn len ce ends).peer = p := hp
  generalize c.entered cum above psn len ce ends = e at he hpe
  have hset : getConn (setConn id (some e) s) id = some e := (getConn_setConn ..).trans (if_pos rfl)
  rw [he]
  split
  · exact connOf_sendAck (connOf_setConn h hpe) hset hpe
  · exact connOf_setConn h hpe

end

theorem sendCtrlNow_windowFull {id : Nat} {c : Conn} {s : State} (hc : getConn s id = some c) (hw : c.window ≤ c.unacked.length) :
    sendCtrlNow id s = s := by
  unfold sendCtrlNow
  simp only [hc]
  split
  · exact if_neg (by simp [Nat.not_lt.2 hw])
  · rfl

/-- A CTRL message to a device whose connection has a full window waits there (R387, R404). -/
theorem sendCtrl_waits {dev : Word} {id : Nat} {c : Conn} {s : State} (h : connOf s (.device dev) = some id) (hc : getConn s id = some c)
    (hw : c.window ≤ c.unacked.length) (m : CtrlOut) : getConn (sendCtrl dev m s) id = some { c with ctrlq := c.ctrlq ++ [m] } := by
  have hq : getConn (modConn id (fun c => { c with ctrlq := c.ctrlq ++ [m] }) s) id = some { c with ctrlq := c.ctrlq ++ [m] } := by
    rw [getConn_modConn, if_pos rfl, hc, Option.map_some]
  have hpump : pumpCtrl id (modConn id (fun c => { c with ctrlq := c.ctrlq ++ [m] }) s) = modConn id (fun c => { c with ctrlq := c.ctrlq ++ [m] }) s := by
    unfold pumpCtrl
    simp only [hq]
    exact forEach_fixed (fun _ => sendCtrlNow_windowFull hq hw) _
  unfold sendCtrl
  rw [h]
  dsimp only
  rw [hpump]
  exact hq

-- CTRL messages that pass their checks (R382, R385, R405, R408)

/-- A CTRL message is taken in the sequence of its connection. -/
def heard (m : CtrlMsg) (s : State) : State := takePsn m.conn.toNat m.psn.toNat m.payload.length m.ce true s

theorem onlyLinks_heard (m : CtrlMsg) (s : State) : OnlyLinks s (heard m s) := onlyLinks_takePsn ..

theorem rxCtrl_fits {kind : Nat} {m : CtrlMsg} {c : Conn} {s : State} (h : CtrlFits kind m c s) (act : State → State) :
    rxCtrl kind m act s = act (heard m s) := by
  obtain ⟨hframe, hform, hconn, hopened, hsrc, hpeer, hfresh, hinnk⟩ := h
  refine (rxPacket_conn _ false hframe hconn hopened hsrc).trans ((if_neg (by simp [hform])).trans ((if_neg (not_not.2 hpeer)).trans
    ((if_neg (ne_true_of_eq_false hfresh)).trans (if_pos ?_))))
  exact (onlyLinks_heard m s).innkUp.trans hinnk

-- the prepare of a job (R406, R408, R409)

theorem prepOf_job {s : State} {job : Word} {p : Prep} (h : prepOf s job = some p) : p.job = job := by simpa using List.find?_some h

theorem prepOf_modPrep {s : State} {job : Word} {p : Prep} (h : prepOf s job = some p) {f : Prep → Prep} (hf : ∀ x, x.job = job → (f x).job = job) :
    prepOf (modPrep job f s) job = some (f p) := by
  have hsame : ((fun x : Prep => x.job == job) ∘ fun x => if x.job = job then f x else x) = fun x => x.job == job := by
    funext x
    by_cases hx : x.job = job <;> simp [hx, hf]
  refine (List.find?_map ..).trans ?_
  rw [hsame, show s.net.preps.find? (fun x => x.job == job) = some p from h, Option.map_some, if_pos (prepOf_job h)]

theorem onlyNet_modPrep (job : Word) (f : Prep → Prep) (s : State) : OnlyNet s (modPrep job f s) := onlyNet_modNet ..

theorem prepOf_dropPrep (job : Word) (s : State) : prepOf (dropPrep job s) job = none := by
  refine List.find?_eq_none.2 fun p hp => ?_
  simpa using (List.mem_filter.1 hp).2

theorem prepOf_finishCmd (id : Nat) (st : BitVec 16) (res : Nat) (s : State) (job : Word) : prepOf (finishCmd id st res s) job = prepOf s job :=
  (congrArg (fun t => prepOf t job) (finishCmd_rest id st res s) :)

theorem prepOf_forgetJob (k : Nat) (s : State) (job : Word) : prepOf (forgetJob k s) job = prepOf s job := by
  unfold forgetJob
  split
  · refine endJobCmds_preserves (P := fun t => prepOf t job = prepOf s job) (fun id t u hu ht => ?_) _ _ rfl
    rcases hu with rfl | ⟨d, st, n, -, -, rfl⟩
    · exact ht
    · exact (prepOf_finishCmd ..).trans ht
  · rfl

/-- The job of a prepare comes into being with its round and a Bell, and the job.prepare completes with the Bell (R359, R408, R410). -/
def jobMade (p : Prep) (confirmed : Bool) (bell : Nat) (s : State) : State :=
  createJob p.itin p.job p.seed bell p.stages confirmed p.round (finishCmd p.cmd stOk bell (dropPrep p.job s))

theorem job_createJob {k : Nat} {i : Itin} {s : State} (hi : getItin s k = some i) (job seed : Word) (bell stages : Nat) (confirmed : Bool) (round : Nat) :
    ∃ i', getItin (createJob k job seed bell stages confirmed round s) k = some i' ∧
      i'.job = some { id := job, seed := seed, bell := bell, stages := stages, confirmed := confirmed, round := max 1 round } := by
  have hmade := getItin_modItin k k (fun i => { i with
    job := some { id := job, seed := seed, bell := bell, stages := stages, confirmed := confirmed, round := max 1 round }
    discards := 0, history := [], replayAfter := none, started := 0, isReplay := false, ckptPos := [], ckptNew := 0, jsnEnergy := 0#64 }) (forgetJob k s)
  rw [if_pos rfl, getItin_of_itins (forgetJob_itins k s), hi, Option.map_some] at hmade
  exact ⟨_, hmade, rfl⟩

/-- What a state shows of a job that has been made: no prepare, the job, and the command's completion. -/
structure JobMade (p : Prep) (confirmed : Bool) (bell : Nat) (t : State) : Prop where
  prep : prepOf t p.job = none
  job : ∃ it, getItin t p.itin = some it ∧
    it.job = some { id := p.job, seed := p.seed, bell := bell, stages := p.stages, confirmed := confirmed, round := max 1 p.round }
  cmd : ∃ k, getCmd t p.cmd = some k ∧ k.phase = .done ∧ k.status = stOk ∧ k.result = BitVec.ofNat 64 bell

theorem jobMade_made {p : Prep} {it : Itin} {k : Cmd} {s : State} (hi : getItin s p.itin = some it) (hk : getCmd s p.cmd = some k)
    (hphase : k.phase ≠ .done) (confirmed : Bool) (bell : Nat) : JobMade p confirmed bell (jobMade p confirmed bell s) where
  prep := (prepOf_forgetJob ..).trans ((prepOf_finishCmd ..).trans (prepOf_dropPrep ..))
  job := job_createJob ((getItin_of_itins (finishCmd_itins p.cmd stOk bell (dropPrep p.job s)) _).trans hi) p.job p.seed bell p.stages confirmed p.round
  cmd := by
    obtain ⟨d, -, hdone⟩ := (finishCmd_done (s := dropPrep p.job s) stOk bell hk hphase).cmd
    exact ⟨_, getCmd_createJob hdone (fun h => Phase.noConfusion h) .., rfl, rfl, rfl⟩

theorem JobMade.of_links {p : Prep} {confirmed : Bool} {bell : Nat} {t u : State} (h : JobMade p confirmed bell t) (hl : OnlyLinks t u) :
    JobMade p confirmed bell u where
  prep := (hl.prepOf _).trans h.prep
  job := by rw [hl.getItin]; exact h.job
  cmd := by rw [hl.getCmd]; exact h.cmd

/-- What a state shows of a prepare that has failed: no prepare, and the command's completion (R409). -/
structure PrepFailed (p : Prep) (s t : State) : Prop where
  prep : prepOf t p.job = none
  itins : t.itins = s.itins
  cmd : ∃ k, getCmd t p.cmd = some k ∧ k.phase = .done ∧ k.status = stAborted
  rolls : ∀ job, rollOf t job = rollOf s job

theorem failPrep_failed {p : Prep} {k : Cmd} {s u : State} (hl : OnlyLinks s u) (hk : getCmd s p.cmd = some k) (hphase : k.phase ≠ .done) :
    PrepFailed p s (failPrep p u) where
  prep := (prepOf_finishCmd ..).trans (prepOf_dropPrep ..)
  itins := (finishCmd_itins ..).trans hl.itins
  cmd := by
    obtain ⟨d, -, hdone⟩ := (finishCmd_done (s := dropPrep p.job u) stAborted 0 ((hl.getCmd _).trans hk) hphase).cmd
    exact ⟨_, hdone, rfl, rfl⟩
  rolls job := (congrArg (fun t => rollOf t job) (finishCmd_rest p.cmd stAborted 0 (dropPrep p.job u)) :).trans (hl.rollOf job)

-- the rounds of a prepare (R408)

/-- A member has answered the round, and has adopted its Bell. -/
def Prep.answering (p : Prep) : Prep := { p with replied := true, bell := p.offer }

section
variable {p : Prep} {s : State} (hreplied : p.replied = false)
include hreplied

theorem answerRound_member (hpos : p.myPos ≠ 0) (hp : prepOf s p.job = some p) :
    OnlyNet s (answerRound p s) ∧ prepOf (answerRound p s) p.job = some p.answering ∧ ∀ job, rollOf (answerRound p s) job = rollOf s job := by
  have hrun : OnlyLinks (modPrep p.job Prep.answering s) (answerRound p s) := by
    unfold answerRound
    rw [if_neg (ne_true_of_eq_false hreplied), if_neg hpos]
    exact onlyLinks_sendTo ..
  exact ⟨(onlyNet_modPrep ..).trans hrun.onlyNet, (hrun.prepOf _).trans (prepOf_modPrep hp fun _ hx => hx), hrun.rollOf⟩

theorem answerRound_root (hpos : p.myPos = 0) : answerRound p s = endRound p s := by
  unfold answerRound
  rw [if_neg (ne_true_of_eq_false hreplied), if_pos hpos]

end

/-- The members that have not answered. -/
def Prep.absent (p : Prep) : List Nat := (List.range p.members.length).filter (fun i => !p.acked.contains i)

theorem endRound_all {p : Prep} {s : State} (h : ∀ i < p.members.length, i ∈ p.acked) : endRound p s = jobMade p false p.bell s := by
  have hnone : p.absent = [] := List.filter_eq_nil_iff.2 fun i hi => by simp [h i (List.mem_range.1 hi)]
  unfold endRound
  exact if_pos (by rw [← Prep.absent, hnone]; rfl)

/-- The next round of a prepare, for the members that have not answered. -/
def Prep.nextRound (lead : Nat) (p : Prep) : Prep :=
  { p with
    round := p.round + 1, offer := p.reqBell + p.round * lead, bell := p.reqBell + p.round * lead, missing := p.absent, acked := [0], answered := []
    replied := false }

section
variable {p : Prep} {s : State} (hmiss : ∃ i < p.members.length, i ∉ p.acked)
include hmiss

theorem Prep.absent_isEmpty : p.absent.isEmpty = false := by
  obtain ⟨i, hi, hno⟩ := hmiss
  exact List.isEmpty_eq_false_iff.2 (List.ne_nil_of_mem (List.mem_filter.2 ⟨List.mem_range.2 hi, by simp [hno]⟩))

theorem endRound_again (hround : p.round < s.net.jobEff.prepRounds.toNat) (hp : prepOf s p.job = some p) :
    OnlyNet s (endRound p s) ∧ prepOf (endRound p s) p.job = some (p.nextRound s.net.jobEff.reprepLead.toNat) ∧
    ∀ job, rollOf (endRound p s) job = rollOf s job := by
  let counted := modNet (fun e => { e with reparent := satInc e.reparent }) s
  have hrun : OnlyLinks (modPrep p.job (fun _ => p.nextRound s.net.jobEff.reprepLead.toNat) counted) (endRound p s) := by
    unfold endRound
    dsimp only
    rw [← Prep.absent, if_neg (ne_true_of_eq_false (Prep.absent_isEmpty hmiss)), if_pos hround]
    exact onlyLinks_forwardPrepare ..
  have hcounted : prepOf counted p.job = some p := hp
  exact ⟨((onlyNet_modNet ..).trans (onlyNet_modPrep ..)).trans hrun.onlyNet, (hrun.prepOf _).trans (prepOf_modPrep hcounted fun _ _ => rfl),
    hrun.rollOf⟩

theorem endRound_givesUp (hround : s.net.jobEff.prepRounds.toNat ≤ p.round) :
    endRound p s = failPrep p (sendAll p.members { kind := 5, job := p.job, round := p.round } s) := by
  unfold endRound
  dsimp only
  rw [← Prep.absent, if_neg (ne_true_of_eq_false (Prep.absent_isEmpty hmiss)), if_neg (Nat.not_lt.2 hround)]

end

end Sys2Proof.Machine
end

section
/-! PROOFS. CTRL messages of peer devices (R383, R405 to R411; O45): HELLO, each message of a job's tree by the equation of its case, and what
ACK_WAIT_US ends. -/

namespace Sys2Proof.Machine

-- HELLO (R383)

/-- A connection as its other side's HELLO opens it. -/
def Conn.openedBy (remote : BitVec 32) (c : Conn) : Conn := { c with opened := true, remoteId := remote }

theorem Conn.rxCum_openedBy (remote : BitVec 32) (c : Conn) : (c.openedBy remote).rxCum = c.rxCum := rfl

theorem Conn.advance_openedBy (remote : BitVec 32) (c : Conn) : (c.openedBy remote).advance = c.advance.openedBy remote := by
  unfold Conn.advance Conn.openedBy
  dsimp only
  split <;> rfl

/-- What a connection has received does not depend on its being open. -/
theorem Conn.receive_openedBy (remote : BitVec 32) (c : Conn) (psn : Nat) : (c.openedBy remote).receive psn = (c.receive psn).openedBy remote := by
  have hseen : (c.openedBy remote).seen psn = c.seen psn := rfl
  unfold Conn.receive
  rw [hseen]
  split
  · rfl
  · exact List.foldl_hom (Conn.openedBy remote) (g₁ := fun d _ => d.advance) (g₂ := fun d _ => d.advance) (l := List.range (psn :: c.rxAbove).length)
      (init := { c with rxAbove := psn :: c.rxAbove }) (fun d _ => d.advance_openedBy remote)

section
variable {m : CtrlMsg} {s : State} (hframe : FrameFits m.port m.fcsOk m.crcOk m.ip s.net.cfgEff.relayUdp s) (hform : m.wellFormed 1 = true)
include hframe hform

theorem doHello_innkDown (hinnk : innkUp s = false) : doHello m s = s :=
  (rxFrame_fits _ hframe).trans ((if_neg (by simp [hform])).trans (if_pos (by rw [hinnk]; rfl)))

section
variable {i : Nat} {c : Conn} (hinnk : innkUp s = true) (hconn : helloConn s m = some (i, c))
include hinnk hconn

theorem doHello_again (hopened : c.opened = true) (hid : c.remoteId = m.connId) (hseen : c.seen m.psn.toNat = true) : doHello m s = sendAck i s := by
  refine (rxFrame_fits _ hframe).trans ((if_neg (by simp [hform])).trans ((if_neg (by simp [hinnk])).trans ?_))
  rw [hconn]
  exact (if_pos (by simp [hopened, hid])).trans (if_pos hseen)

/-- A first HELLO of a device opens its connection and is taken in its sequence. -/
def helloTaken (m : CtrlMsg) (i : Nat) (c : Conn) (s : State) : State :=
  takePsn i m.psn.toNat m.payload.length m.ce true (setConn i (some (c.openedBy m.connId)) s)

theorem doHello_opens {d : Word} (hopened : c.opened = false) (hpeer : c.peer = .device d) : doHello m s = pumpConn i (helloTaken m i c s) := by
  have hdevice (u : State) : (match c.peer with | .guest g => guestConnected g u | .device _ => u) = u := by rw [hpeer]
  refine (rxFrame_fits _ hframe).trans ((if_neg (by simp [hform])).trans ((if_neg (by simp [hinnk])).trans ?_))
  rw [hconn]
  refine (if_neg (by simp [hopened])).trans ?_
  dsimp only
  rw [if_neg (ne_true_of_eq_false hopened)]
  exact congrArg (pumpConn i) (hdevice _)

end

end

theorem onlyLinks_helloTaken (m : CtrlMsg) (i : Nat) (c : Conn) (s : State) : OnlyLinks s (helloTaken m i c s) :=
  (onlyLinks_setConn ..).trans (onlyLinks_takePsn ..)

theorem getConn_helloTaken (m : CtrlMsg) (i : Nat) (c : Conn) (s : State) :
    ∃ d, getConn (helloTaken m i c s) i = some d ∧ (c.openedBy m.connId).Took m.psn.toNat d :=
  getConn_takePsn ((getConn_setConn ..).trans (if_pos rfl)) ..

theorem helloTaken_opens {m : CtrlMsg} {i : Nat} {c : Conn} {s : State} (hq : c.queue = []) (hctrl : c.ctrlq = []) :
    ∃ d, OnlyNet s (pumpConn i (helloTaken m i c s)) ∧ getConn (pumpConn i (helloTaken m i c s)) i = some d ∧ d.opened = true ∧ d.remoteId = m.connId ∧
      d.peer = c.peer ∧ d.rxCum = (c.receive m.psn.toNat).rxCum := by
  obtain ⟨d, hd, htook⟩ := getConn_helloTaken m i c s
  have hcum : d.rxCum = (c.receive m.psn.toNat).rxCum := by rw [htook.rxCum, Conn.receive_openedBy, Conn.rxCum_openedBy]
  rw [pumpConn_empty hd (htook.queue.trans hq) (htook.ctrlq.trans hctrl)]
  exact ⟨d, (onlyLinks_helloTaken ..).onlyNet, hd, htook.opened, htook.remoteId, htook.peer, hcum⟩

-- what a CTRL message finds as it was when it arrived

@[simp] theorem prepOf_heard (m : CtrlMsg) (s : State) (job : Word) : prepOf (heard m s) job = prepOf s job := (onlyLinks_heard m s).prepOf job
@[simp] theorem rollOf_heard (m : CtrlMsg) (s : State) (job : Word) : rollOf (heard m s) job = rollOf s job := (onlyLinks_heard m s).rollOf job
@[simp] theorem jobSlot_heard (m : CtrlMsg) (s : State) (job : Word) : jobSlot (heard m s) job = jobSlot s job := (onlyLinks_heard m s).jobSlot job
@[simp] theorem getItin_heard (m : CtrlMsg) (s : State) (k : Nat) : getItin (heard m s) k = getItin s k := (onlyLinks_heard m s).getItin k
@[simp] theorem getCmd_heard (m : CtrlMsg) (s : State) (id : Nat) : getCmd (heard m s) id = getCmd s id := (onlyLinks_heard m s).getCmd id
@[simp] theorem nextBellNum_heard (m : CtrlMsg) (s : State) : nextBellNum (heard m s) = nextBellNum s := (onlyLinks_heard m s).nextBellNum

-- the stop of a job (R361, R410)

theorem getItin_setStop_job {k : Nat} {i : Itin} {j : Job} {s : State} (hi : getItin s k = some i) (hj : i.job = some j) (b : Nat) :
    ∃ i', getItin (setStop k b s) k = some i' ∧ i'.job = some { j with stopAt := some (match j.stopAt with | some a => min a b | none => b) } := by
  refine ⟨_, (getItin_modItin ..).trans ((if_pos rfl).trans (congrArg (Option.map _) hi)), ?_⟩
  exact congrArg (Option.map _) hj

-- PREPARE (R408)

/-- A prepare at the round that a PREPARE begins. -/
def Prep.renewed (m : CtrlMsg) (p : Prep) : Prep :=
  { p with round := m.round, offer := m.bell, missing := m.map, acked := [p.myPos], answered := [], replied := false }

section
variable {m : CtrlMsg} {p : Prep} {s : State} (hp : prepOf s p.job = some p) (hpos : p.myPos ≠ 0) (hmembers : m.members = p.members.length)
  (hhash : m.mhash = membersHash p.members) (hstages : m.stages = p.stages) (hround : p.round < m.round)
include hp hpos hmembers hhash hstages hround

theorem takePrepare_renews : OnlyNet s (takePrepare p m s) ∧
    prepOf (takePrepare p m s) p.job = some (if allAnswered (p.renewed m) then (p.renewed m).answering else p.renewed m) := by
  have hsent : OnlyLinks (modPrep p.job (fun _ => p.renewed m) s) (forwardPrepare (p.renewed m) (modPrep p.job (fun _ => p.renewed m) s)) :=
    onlyLinks_forwardPrepare ..
  have hnet := (onlyNet_modPrep ..).trans hsent.onlyNet
  have hprep : prepOf (forwardPrepare (p.renewed m) (modPrep p.job (fun _ => p.renewed m) s)) p.job = some (p.renewed m) :=
    (hsent.prepOf _).trans (prepOf_modPrep hp fun _ _ => rfl)
  have hsame : ¬(m.members ≠ p.members.length ∨ m.mhash ≠ membersHash p.members ∨ m.stages ≠ p.stages) := by simp [hmembers, hhash, hstages]
  unfold takePrepare
  rw [if_neg hsame, if_neg (Nat.not_le.2 hround)]
  dsimp only
  rw [← Prep.renewed]
  split
  · obtain ⟨hrun, hanswered, -⟩ := answerRound_member (p := p.renewed m) rfl hpos hprep
    exact ⟨hnet.trans hrun, hanswered⟩
  · exact ⟨hnet, hprep⟩

end

section
variable {m : CtrlMsg} {c : Conn} {s : State} (h : CtrlFits 2 m c s)
include h

theorem doPrepare_early (hno : prepOf s m.job = none) (hslot : jobSlot s m.job = none) :
    doPrepare m s = modNet (fun e => { e with early := e.early.filter (fun x => x.job != m.job) ++ [m] }) (heard m s) := by
  refine (rxCtrl_fits h _).trans ?_
  rw [prepOf_heard, hno]
  exact if_neg (by simp [hslot])

theorem doPrepare_prep {p : Prep} (hp : prepOf s m.job = some p) : doPrepare m s = takePrepare p m (heard m s) := by
  refine (rxCtrl_fits h _).trans ?_
  rw [prepOf_heard, hp]

/-- A full connection keeps the ABANDON that answers a PREPARE (R387, R406). -/
theorem ctrlq_answered (hconn : connOf s (.device m.sender) = some m.conn.toNat) (hw : c.window ≤ c.unacked.length) (x : CtrlOut) :
    ∃ d, getConn (sendCtrl m.sender x (heard m s)) m.conn.toNat = some d ∧ d.ctrlq = c.ctrlq ++ [x] := by
  obtain ⟨d, hd, htook⟩ := getConn_takePsn h.conn m.psn.toNat m.payload.length m.ce true
  have hheard := connOf_takePsn hconn h.conn h.peer m.psn.toNat m.payload.length m.ce true
  exact ⟨_, sendCtrl_waits hheard hd (by rw [htook.window, htook.unacked]; exact hw) x, by rw [htook.ctrlq]⟩

end

-- PREP_ACK, CONFIRM and ABANDON (R408 to R410)

/-- A prepare once the sender of a PREP_ACK has answered it. -/
def Prep.heardFrom (m : CtrlMsg) (p : Prep) : Prep :=
  { p with answered := posOf p.members m.sender :: p.answered, acked := p.acked ++ m.map.filter (fun i => !p.acked.contains i) }

/-- The prepare of a state once the sender of a PREP_ACK has answered it. -/
def prepHeard (m : CtrlMsg) (p : Prep) (s : State) : State := modPrep p.job (fun _ => p.heardFrom m) (heard m s)

section
variable {m : CtrlMsg} {c : Conn} {p : Prep} {s : State} (hp : prepOf s m.job = some p)
include hp

theorem doPrepAck_answers (h : CtrlFits 3 m c s) (hround : m.round = p.round) (hnew : posOf p.members m.sender ∉ p.answered) :
    doPrepAck m s = if allAnswered (p.heardFrom m) then answerRound (p.heardFrom m) (prepHeard m p s) else prepHeard m p s := by
  refine (rxCtrl_fits h _).trans ?_
  rw [prepOf_heard, hp]
  exact if_neg (by simp [hround, hnew])

theorem prepOf_prepHeard : prepOf (prepHeard m p s) m.job = some (p.heardFrom m) := by
  have hjob := prepOf_job hp
  unfold prepHeard
  rw [← hjob] at hp ⊢
  exact prepOf_modPrep ((prepOf_heard ..).trans hp) fun _ _ => rfl

theorem doConfirm_made (h : CtrlFits 4 m c s) (hround : p.round ≠ 0) (hpos : p.myPos ≠ 0) :
    doConfirm m s = forwardConfirm p.members p.myPos p.job m.bell (jobMade p true m.bell (heard m s)) := by
  refine (rxCtrl_fits h _).trans ?_
  rw [prepOf_heard, hp]
  exact if_neg (by simp [hround, hpos])

theorem doAbandon_prep (h : CtrlFits 5 m c s) : ∃ u, OnlyLinks s u ∧ doAbandon m s = failPrep p u := by
  have hrun : doAbandon m s = failPrep p (if p.myPos = 0 then sendAll p.members { kind := 5, job := p.job, round := max 1 p.round } (heard m s)
      else if posOf p.members m.sender ≠ 0 then sendTo p.members [0] { kind := 5, job := p.job, round := max 1 p.round } (heard m s) else heard m s) := by
    refine (rxCtrl_fits h _).trans ?_
    rw [prepOf_heard, hp]
  refine ⟨_, (onlyLinks_heard m s).trans ?_, hrun⟩
  split
  · exact onlyLinks_sendAll ..
  · split
    · exact onlyLinks_sendTo ..
    · rfl

end

/-- What a state shows once the root has the answer that it lacked: the job of the prepare (R408). -/
theorem prepAck_completes {m : CtrlMsg} {c : Conn} {p : Prep} {it : Itin} {k : Cmd} {s : State} (hp : prepOf s m.job = some p) (h : CtrlFits 3 m c s)
    (hround : m.round = p.round) (hnew : posOf p.members m.sender ∉ p.answered) (hall : allAnswered (p.heardFrom m) = true) (hreplied : p.replied = false)
    (hpos : p.myPos = 0) (hacked : ∀ i < p.members.length, i ∈ (p.heardFrom m).acked) (hi : getItin s p.itin = some it) (hk : getCmd s p.cmd = some k)
    (hphase : k.phase ≠ .done) : JobMade (p.heardFrom m) false p.bell (doPrepAck m s) := by
  rw [doPrepAck_answers hp h hround hnew, if_pos hall, answerRound_root (p := p.heardFrom m) hreplied hpos, endRound_all (p := p.heardFrom m) hacked]
  have hitin : getItin (prepHeard m p s) p.itin = some it := (getItin_heard m s p.itin).trans hi
  have hcmd : getCmd (prepHeard m p s) p.cmd = some k := (getCmd_heard m s p.cmd).trans hk
  exact jobMade_made (p := p.heardFrom m) hitin hcmd hphase false p.bell

theorem doAbandon_stops {m : CtrlMsg} {c : Conn} {k : Nat} {s : State} (h : CtrlFits 5 m c s) (hno : prepOf s m.job = none)
    (hslot : jobSlot s m.job = some k) : doAbandon m s = setStop k (nextBellNum s) (heard m s) := by
  refine (rxCtrl_fits h _).trans ?_
  rw [prepOf_heard, hno, jobSlot_heard, hslot]
  exact congrArg (fun b => setStop k b (heard m s)) (nextBellNum_heard m s)

-- ROLLBACK (R411)

theorem rollOf_job {s : State} {job : Word} {r : JobRoll} (h : rollOf s job = some r) : r.job = job := by simpa using List.find?_some h

theorem rollOf_putRoll (r : JobRoll) (s : State) : rollOf (putRoll r s) r.job = some r := by
  have hnone : (s.net.rolls.filter (fun x => x.job != r.job)).find? (fun x => x.job == r.job) = none := by simp
  refine (List.find?_append ..).trans ?_
  rw [hnone]
  simp

theorem onlyNet_putRoll (r : JobRoll) (s : State) : OnlyNet s (putRoll r s) := onlyNet_modNet ..

/-- A rollback discards the running leg of its job. -/
def legHeldBack (k : Nat) (i : Itin) (s : State) : State := if i.leg.isSome then discardLeg k { fclass := 0x10 } s else s

theorem legGone_legHeldBack {k : Nat} {i : Itin} {s : State} (hi : getItin s k = some i) : LegGone k (legHeldBack k i s) := by
  unfold legHeldBack
  cases hl : i.leg with
  | some l => exact legGone_discardLeg hi hl
  | none => exact ⟨i, hi, hl⟩

section
variable {m : CtrlMsg} {c : Conn} {k : Nat} {s : State} (hslot : jobSlot s m.job = some k)
include hslot

section
variable (h : CtrlFits 6 m c s)
include h

theorem doRollback_yields {i : Itin} (hi : getItin s k = some i) (hlow : ∀ r, rollOf s m.job = some r → m.sender.toNat ≤ r.coordinator.toNat) :
    ∃ x, doRollback m s = sendCtrl m.sender x (putRoll { job := m.job, coordinator := m.sender, replies := [] } (legHeldBack k i (heard m s))) := by
  have hyields : (match rollOf s m.job with | some r => decide (m.sender.toNat ≤ r.coordinator.toNat) | none => true) = true := by
    cases hr : rollOf s m.job with
    | none => rfl
    | some r => exact decide_eq_true (hlow r hr)
  refine ⟨{ kind := 7, job := m.job, ckpt := (legHeldBack k i (heard m s)).ldg.ckpt }, (rxCtrl_fits h _).trans ?_⟩
  simp only [jobSlot_heard, hslot, rollOf_heard, getItin_heard, hi]
  exact if_neg (ne_true_of_eq_false (congrArg not hyields))

theorem doRollback_outranked {r : JobRoll} (hr : rollOf s m.job = some r) (hrank : r.coordinator.toNat < m.sender.toNat) : doRollback m s = heard m s := by
  refine (rxCtrl_fits h _).trans ?_
  simp only [jobSlot_heard, hslot, rollOf_heard, hr]
  exact if_pos (by simp [hrank])

end

-- ROLLBACK_ACK and RESTART (R411)

/-- A rollback with the reply of a ROLLBACK_ACK. -/
def JobRoll.replied (m : CtrlMsg) (r : JobRoll) : JobRoll := { r with replies := r.replies.filter (fun q => q.1 != m.sender) ++ [(m.sender, m.ckpt)] }

theorem doRollbackAck_settles {i : Itin} {r : JobRoll} (h : CtrlFits 7 m c s) (hi : getItin s k = some i) (hr : rollOf s m.job = some r)
    (hown : r.coordinator = Config.deviceId) (hopen : r.restartBell = none) :
    doRollbackAck m s = settleRoll (r.replied m) i (putRoll (r.replied m) (heard m s)) := by
  have hitin : getItin (putRoll (r.replied m) (heard m s)) k = some i := (getItin_heard ..).trans hi
  refine (rxCtrl_fits h _).trans ?_
  rw [rollOf_heard, hr, jobSlot_heard, hslot]
  dsimp only
  rw [if_neg (by simp [hown, hopen]), ← JobRoll.replied, hitin]

end

theorem doRestart_sets {m : CtrlMsg} {c : Conn} {r : JobRoll} {s : State} (h : CtrlFits 8 m c s) (hr : rollOf s m.job = some r)
    (hfrom : r.coordinator = m.sender) : doRestart m s = putRoll { r with restartBell := some m.bell, restartCkpt := m.ckpt } (heard m s) := by
  refine (rxCtrl_fits h _).trans ?_
  rw [rollOf_heard, hr]
  exact if_pos hfrom

/-- Every device among the peers has replied to a rollback. -/
def JobRoll.complete (i : Itin) (r : JobRoll) : Bool := i.devicePeers.all (fun d => r.replies.any (fun p => p.1 == d))

theorem JobRoll.complete_replied (m : CtrlMsg) (i : Itin) (r : JobRoll) :
    (r.replied m).complete i = true ↔ ∀ d ∈ i.devicePeers, d = m.sender ∨ ∃ q ∈ r.replies, q.1 = d := by
  unfold JobRoll.complete JobRoll.replied
  simp only [List.all_eq_true, List.any_eq_true, beq_iff_eq, List.mem_append, List.mem_filter, List.mem_singleton, bne_iff_ne]
  refine forall₂_congr fun d _ => ⟨?_, ?_⟩
  · rintro ⟨q, ⟨hq, -⟩ | rfl, rfl⟩
    · exact .inr ⟨q, hq, rfl⟩
    · exact .inl rfl
  · rintro (rfl | ⟨q, hq, rfl⟩)
    · exact ⟨_, .inr rfl, rfl⟩
    · by_cases hd : q.1 = m.sender
      · exact ⟨_, .inr rfl, hd.symm⟩
      · exact ⟨q, .inl ⟨hq, hd⟩, rfl⟩

theorem le_ceilDiv_mul {a b : Nat} (hb : 0 < b) : a ≤ ceilDiv a b * b := by
  unfold ceilDiv
  have := Nat.lt_div_mul_add (a := a + b - 1) hb
  omega

/-- The later of a Bell and the first one at or after an instant stands at or after the instant. -/
theorem le_laterBell {s : State} (hlen : 0 < lenNs s) (ns own : Nat) :
    ns ≤ (if ns ≤ own * lenNs s then own else bellAt s ns) * lenNs s := by
  split
  next hle => exact hle
  next => exact le_ceilDiv_mul hlen

theorem settleRoll_waits {r : JobRoll} {i : Itin} {s : State} (h : r.complete i = false) : settleRoll r i s = s :=
  if_pos (by rw [← JobRoll.complete, h]; rfl)

theorem settleRoll_restarts {r : JobRoll} {i : Itin} {s : State} (h : r.complete i = true) :
    ∃ b, OnlyLinks (putRoll { r with restartBell := some b, restartCkpt := lowestCkpt (s.ldg.ckpt :: r.replies.map (·.2)) } s) (settleRoll r i s) ∧
      (0 < lenNs s → s.stg.ptpNow + 2 * lenNs s ≤ b * lenNs s) := by
  unfold settleRoll
  rw [if_neg (by rw [← JobRoll.complete, h]; decide)]
  dsimp only
  exact ⟨_, onlyLinks_forEach (fun d t => onlyLinks_sendCtrl ..) _ _, fun hlen => le_laterBell hlen ..⟩

-- ACK_WAIT_US passes (R408, R411)

/-- A job's rollback is dropped. -/
def dropRoll (job : Word) (s : State) : State := modNet (fun e => { e with rolls := e.rolls.filter (fun x => x.job != job) }) s

theorem rollOf_dropRoll (job : Word) (s : State) : rollOf (dropRoll job s) job = none := by
  refine List.find?_eq_none.2 fun r hr => ?_
  simpa using (List.mem_filter.1 hr).2

section
variable {job : Word} {s : State} (hinnk : innkUp s = true)
include hinnk

theorem doAckWait_prep {p : Prep} (hp : prepOf s job = some p) (hround : p.round ≠ 0) (hroll : rollOf (answerRound p s) job = none) :
    doAckWait job s = answerRound p s := by
  unfold doAckWait
  rw [if_neg (by simp [hinnk]), hp]
  dsimp only
  rw [if_neg hround, hroll]

theorem doAckWait_coordinator {r : JobRoll} {k : Nat} {i : Itin} (hno : prepOf s job = none) (hr : rollOf s job = some r) (hslot : jobSlot s job = some k)
    (hi : getItin s k = some i) (hown : r.coordinator = Config.deviceId) (hopen : r.restartBell = none) :
    ∃ u, OnlyLinks s u ∧ doAckWait job s = setStop k (nextBellNum s) (dropRoll job u) := by
  have hsent : OnlyLinks s (forEach i.devicePeers (fun d t => sendCtrl d { kind := 5, job := job, round := (i.job.map (·.round)).getD 1 } t) s) :=
    onlyLinks_forEach (fun d t => onlyLinks_sendCtrl ..) _ _
  refine ⟨_, hsent, ?_⟩
  unfold doAckWait
  rw [if_neg (by simp [hinnk]), hno]
  dsimp only
  rw [hr, hslot]
  dsimp only
  rw [if_pos (by simp [hown, hopen]), hi]
  exact congrArg (fun b => setStop k b _) hsent.nextBellNum

end

-- the statement

/-- Settles O45, message by message: what a CTRL message passes on leaves no more than connections and ports changed, so that prepares, rollbacks and
jobs are as the equation of its case leaves them. -/
theorem jobTreeMessages : Obligations.JobTreeMessages := by
  unfold Obligations.JobTreeMessages
  refine ⟨fun m i c s hframe hform => ⟨?helloDown, ?helloOpens, ?helloAgain⟩,
    fun m c s => ⟨?early, fun p hp => ?prepare, ?stops, fun k i hslot hi => ⟨?rollback, ?outranked, fun r h hr hown hopen => ⟨?waits, ?settles⟩, ?restart⟩⟩,
    fun job s hinnk => ⟨fun p hp hroll hround hreplied => ⟨?member, ?root⟩, ?coordinator⟩⟩
  case helloDown => exact fun hinnk => congrArg Host.Outcome.next (doHello_innkDown hframe hform hinnk)
  case helloOpens =>
    intro hinnk hconn hq hctrl hpeer hopened
    obtain ⟨d, hd⟩ := helloTaken_opens (m := m) (i := i) (s := s) hq hctrl
    exact ⟨_, d, congrArg Host.Outcome.next (doHello_opens hframe hform hinnk hconn hopened hpeer), hd⟩
  case helloAgain =>
    intro port hinnk hconn hc hopened hid hseen hport
    exact ⟨_, _, congrArg Host.Outcome.next (doHello_again hframe hform hinnk hconn hopened hid hseen), (onlyLinks_sendAck ..).onlyNet,
      (sendAck_queued hc hport).1⟩
  case early =>
    intro h hno hslot
    refine ⟨_, congrArg Host.Outcome.next (doPrepare_early h hno hslot), (onlyLinks_heard m s).onlyNet.trans (onlyNet_modNet ..), ?_⟩
    exact congrArg (fun xs => xs.filter (fun x : CtrlMsg => x.job != m.job) ++ [m]) ((onlyLinks_heard m s).part (fun u => u.net.early) fun _ _ => rfl)
  case prepare =>
    have hjob := prepOf_job hp
    refine ⟨fun h hdiffer => ?differs, fun h hpos hmembers hhash hstages hround q hq => ?renews, fun h hround hnew x hx => ⟨?answered, ?complete⟩,
      fun it k h hround hpos hi hk hphase => ?confirm, fun k h hk hphase => ?abandon⟩
    case differs =>
      have hsent := (onlyLinks_heard m s).trans (onlyLinks_sendCtrl m.sender { kind := 5, job := p.job, round := m.round } (heard m s))
      exact ⟨_, congrArg Host.Outcome.next ((doPrepare_prep h hp).trans (if_pos hdiffer)), hsent.onlyNet, (hsent.prepOf _).trans hp,
        fun hconn hw => ctrlq_answered h hconn hw _⟩
    case renews =>
      subst hq
      have hheard : prepOf (heard m s) p.job = some p := by rw [prepOf_heard, hjob, hp]
      obtain ⟨hnet, hprep⟩ := takePrepare_renews hheard hpos hmembers hhash hstages hround
      exact ⟨_, congrArg Host.Outcome.next (doPrepare_prep h hp), (onlyLinks_heard m s).onlyNet.trans hnet, hjob ▸ hprep⟩
    case answered =>
      intro hmore
      subst hx
      exact ⟨_, congrArg Host.Outcome.next ((doPrepAck_answers hp h hround hnew).trans (if_neg (ne_true_of_eq_false hmore))),
        (onlyLinks_heard m s).onlyNet.trans (onlyNet_modPrep ..), prepOf_prepHeard hp⟩
    case complete =>
      intro hall hreplied hpos hacked it k hi hk hphase
      subst hx
      obtain ⟨hprep, ⟨it', hi', hj'⟩, k', hk', hdone⟩ := prepAck_completes hp h hround hnew hall hreplied hpos hacked hi hk hphase
      exact ⟨_, it', k', rfl, hjob ▸ hprep, hi', hj', hk', hdone⟩
    case confirm =>
      have hmade := (jobMade_made (s := heard m s) ((getItin_heard ..).trans hi) ((getCmd_heard ..).trans hk) hphase true m.bell).of_links
        (onlyLinks_forwardConfirm p.members p.myPos p.job m.bell _)
      obtain ⟨hprep, ⟨it', hi', hj'⟩, k', hk', hdone⟩ := hmade
      exact ⟨_, it', k', congrArg Host.Outcome.next (doConfirm_made hp h hround hpos), hjob ▸ hprep, hi', hj', hk', hdone⟩
    case abandon =>
      obtain ⟨u, hu, hrun⟩ := doAbandon_prep hp h
      obtain ⟨hprep, hitins, ⟨k', hk', hdone⟩, -⟩ := failPrep_failed hu hk hphase
      exact ⟨_, k', congrArg Host.Outcome.next hrun, hjob ▸ hprep, hitins, hk', hdone⟩
  case stops =>
    intro k i j h hno hslot hi hj
    obtain ⟨i', hi', hj'⟩ := getItin_setStop_job (s := heard m s) ((getItin_heard ..).trans hi) hj (nextBellNum s)
    exact ⟨_, i', congrArg Host.Outcome.next (doAbandon_stops h hno hslot), hi', hj'⟩
  case rollback =>
    intro h hlow
    obtain ⟨x, hrun⟩ := doRollback_yields hslot h hi hlow
    obtain ⟨i', hi', hleg⟩ := legGone_legHeldBack (s := heard m s) ((getItin_heard ..).trans hi)
    have hsent := onlyLinks_sendCtrl m.sender x (putRoll { job := m.job, coordinator := m.sender, replies := [] } (legHeldBack k i (heard m s)))
    exact ⟨_, i', congrArg Host.Outcome.next hrun, (hsent.rollOf _).trans (rollOf_putRoll ..), (hsent.getItin k).trans hi', hleg⟩
  case outranked =>
    intro r h hr hrank
    exact ⟨_, congrArg Host.Outcome.next (doRollback_outranked hslot h hr hrank), (onlyLinks_heard m s).onlyNet, (rollOf_heard ..).trans hr⟩
  case waits =>
    intro hsilent
    have hmore : (r.replied m).complete i = false := by
      refine Bool.eq_false_iff.2 fun hall => ?_
      obtain ⟨d, hd, hother, hnone⟩ := hsilent
      rcases (JobRoll.complete_replied m i r).1 hall d hd with heq | ⟨q, hq, heq⟩
      · exact hother heq
      · exact hnone q hq heq
    refine ⟨_, congrArg Host.Outcome.next ((doRollbackAck_settles hslot h hi hr hown hopen).trans (settleRoll_waits hmore)),
      (onlyLinks_heard m s).onlyNet.trans (onlyNet_putRoll ..), ?_⟩
    exact rollOf_job hr ▸ rollOf_putRoll (r.replied m) (heard m s)
  case settles =>
    intro hall
    obtain ⟨b, hsent, hbell⟩ := settleRoll_restarts (s := putRoll (r.replied m) (heard m s)) ((JobRoll.complete_replied m i r).2 hall)
    have hheard := onlyLinks_heard m s
    have hlen : lenNs (putRoll (r.replied m) (heard m s)) = lenNs s := hheard.lenNs
    have hnow : (putRoll (r.replied m) (heard m s)).stg.ptpNow = s.stg.ptpNow := hheard.part (fun u => u.stg.ptpNow) fun _ _ => rfl
    have hckpt : (putRoll (r.replied m) (heard m s)).ldg.ckpt = s.ldg.ckpt := hheard.part (fun u => u.ldg.ckpt) fun _ _ => rfl
    rw [hlen, hnow] at hbell
    rw [hckpt] at hsent
    have hroll := (hsent.rollOf r.job).trans (rollOf_putRoll ..)
    exact ⟨_, _, b, congrArg Host.Outcome.next (doRollbackAck_settles hslot h hi hr hown hopen),
      ((hheard.onlyNet.trans (onlyNet_putRoll ..)).trans (onlyNet_putRoll ..)).trans hsent.onlyNet, rollOf_job hr ▸ hroll, rfl, hbell, rfl⟩
  case restart =>
    intro r h hr hfrom
    refine ⟨_, congrArg Host.Outcome.next (doRestart_sets h hr hfrom), (onlyLinks_heard m s).onlyNet.trans (onlyNet_putRoll ..), ?_⟩
    exact rollOf_job hr ▸ rollOf_putRoll _ _
  case member =>
    intro hpos
    have hjob := prepOf_job hp
    obtain ⟨hnet, hprep, hrolls⟩ := answerRound_member hreplied hpos (hjob.symm ▸ hp)
    exact ⟨_, congrArg Host.Outcome.next (doAckWait_prep hinnk hp hround ((hrolls job).trans hroll)), hnet, hjob ▸ hprep⟩
  case root =>
    intro hpos hmiss
    have hjob := prepOf_job hp
    have hroot := answerRound_root (s := s) hreplied hpos
    refine ⟨fun hmore => ?again, fun hlast k hk hphase => ?givesUp⟩
    case again =>
      obtain ⟨hnet, hprep, hrolls⟩ := endRound_again hmiss hmore (hjob.symm ▸ hp)
      rw [← hroot] at hnet hprep hrolls
      exact ⟨_, _, congrArg Host.Outcome.next (doAckWait_prep hinnk hp hround ((hrolls job).trans hroll)), hnet, hjob ▸ hprep, rfl, rfl, rfl⟩
    case givesUp =>
      have hfailed := failPrep_failed (onlyLinks_sendAll p.members { kind := 5, job := p.job, round := p.round } s) hk hphase
      rw [← endRound_givesUp hmiss hlast, ← hroot] at hfailed
      obtain ⟨hprep, hitins, ⟨k', hk', hdone⟩, hrolls⟩ := hfailed
      exact ⟨_, k', congrArg Host.Outcome.next (doAckWait_prep hinnk hp hround ((hrolls job).trans hroll)), hjob ▸ hprep, hitins, hk', hdone⟩
  case coordinator =>
    intro r k i j hno hr hslot hi hj hown hopen
    obtain ⟨u, hu, hrun⟩ := doAckWait_coordinator hinnk hno hr hslot hi hown hopen
    obtain ⟨i', hi', hj'⟩ := getItin_setStop_job (s := dropRoll job u) ((hu.getItin k).trans hi) hj (nextBellNum s)
    exact ⟨_, i', congrArg Host.Outcome.next hrun, rollOf_dropRoll job u, hi', hj'⟩

end Sys2Proof.Machine
end
